-- ==== Sys2Proof/Word.lean ====
section
/-! DEFINITION. The word types of the Druern and their plainest arithmetic.
A byte and a 32-bit word are bit vectors, because the manual shifts and masks them (R2, R4).
Counts, indices, addresses and times are natural numbers; where the manual wraps one, it is taken
modulo a power of two at the place that says so. -/

namespace Sys2Proof

/-- One byte of memory, of a packet or of a register. -/
abbrev Byte := BitVec 8

/-- A string of bytes in ascending address order. -/
abbrev Bytes := List Byte

/-- A 32-bit word: the bits of an FP32 value, or a 32-bit register read as bits (R3, R62). -/
abbrev Word := BitVec 32

/-- A table keyed by number, held as a sorted list of the entries that differ from a default. -/
abbrev Table (β : Type) := List (Nat × β)

/-- A value of a register or field that is `bits` wide (R2). -/
def wrap (bits n : Nat) : Nat := n % 2 ^ bits

/-- Rounded-up division, as the manual's `ceil(a / b)`. -/
def ceilDiv (a b : Nat) : Nat := (a + (b - 1)) / b

/-- The next multiple of `m` at or above `n`. -/
def roundUp (n m : Nat) : Nat := ceilDiv n m * m

/-- Bit `i` of `n` (R2). -/
def bitOf (n i : Nat) : Bool := n / 2 ^ i % 2 == 1

/-- The field `n[hi:lo]` (R2). -/
def field (n hi lo : Nat) : Nat := n / 2 ^ lo % 2 ^ (hi + 1 - lo)

end Sys2Proof
end

