-- ==== Sys2Proof/Syntax.lean ====
section
/-! DEFINITION. The commands of the device as syntax: every row of the opcode table, with what comes
from outside the device as operands. Log entries 6 to 9 say what each operand stands for. -/

namespace Sys2Proof

/-- A key-exchange message of R406 with the verdicts of the franking unit: both signatures verify, the
FIPS 203 and X25519 checks pass, the MAC matches (R407, R409). Log entry 4. -/
structure KeyMessage where
  bytes : Bytes
  sigOk : Bool
  keysOk : Bool
  macOk : Bool
  deriving DecidableEq, Repr

/-- A management request inside a session: its session, its SEQ and whether its tag verifies (R428, R429). -/
structure MgtRequest where
  session : Nat
  seq : Nat
  tagOk : Bool
  deriving DecidableEq, Repr

/-- What the boot ROM code finds of a received firmware image (R398, R403), and the signatures it carries (R453). -/
structure FwVerdict where
  format : Nat
  signerOk : Bool
  signatureOk : Bool
  version : Nat
  svn : Nat
  signatures : List Nat
  deriving DecidableEq, Repr

/-- What the boot ROM finds (R395, R398, R399): the keys match the certificate, the anti-rollback area
authenticates, the certificate chain verifies, and which step of Table 19-2 each slot fails
(0: none, the image is accepted). -/
structure BootVerdict where
  identityOk : Bool
  antiRollbackOk : Bool
  chainOk : Bool
  slotA : Nat
  slotB : Nat
  configOk : Bool
  deriving DecidableEq, Repr

/-- An I3C common command (R430). -/
inductive I3cCommand where
  | setdasa (static address : Nat)
  | entdaa (address : Nat)
  | rstdaa
  | getpid
  | getbcr
  | getdcr
  | getstatus
  | enec (events : Nat)
  | disec (events : Nat)
  deriving DecidableEq, Repr

/-- A PTP message as far as the servo needs it (R269, Table 13-2): its domain, the rank of its sender
under the best time transmitter algorithm (lower is better), and what it tells. `interval` is the message's own
logMessageInterval as a time in ns: the sender's Announce or Sync interval. -/
inductive PtpKind where
  | announce (interval : Nat)
  | sync (offset : Int) (interval : Nat)
  | other
  deriving DecidableEq, Repr

structure PtpMsg where
  domain : Nat
  rank : Nat
  kind : PtpKind
  deriving DecidableEq, Repr

/-- An RTP packet as the port's engine sees it after decryption (R345): the header fields, the payload
with padding removed, whether its tag verifies, and its arrival stamp. -/
structure RtpPacket where
  ssrc : Nat
  seq : Nat
  timestamp : Nat
  payloadType : Nat
  payload : Bytes
  tagOk : Bool
  stamp : Nat
  deriving DecidableEq, Repr

/-- A parcel datagram (R348): its 32 header bytes as received (Table 16-6), its payload after decryption and whether its tag
verifies. -/
structure Parcel where
  header : Bytes
  payload : Bytes
  tagOk : Bool
  deriving DecidableEq, Repr

/-- What a UDP datagram carries. -/
inductive Datagram where
  | rtp (p : RtpPacket)
  | parcel (p : Parcel)
  | ptp (m : PtpMsg)
  | other
  deriving DecidableEq, Repr

/-- What an Ethernet frame carries (R339, R341). `control` is a PAUSE or priority flow control frame. A request or
solicitation asks for the MAC address of `target`; an answer says that it is `mac`. -/
inductive FrameBody where
  | control
  | arp (target : Nat) (request : Bool) (mac : Nat)
  | neighbour (target : Nat) (solicit : Bool) (mac : Nat)
  | ptp (m : PtpMsg)
  | udp (v6 fragment checksumPresent checksumOk : Bool) (source destination sourcePort destPort : Nat)
      (body : Datagram)
  | otherIp (v6 : Bool) (destination : Nat)
  | other
  deriving DecidableEq, Repr

/-- A received Ethernet packet (R341). -/
structure EthPacket where
  fcsOk : Bool
  vlan : Option Nat
  destination : Nat
  sender : Nat
  body : FrameBody
  deriving DecidableEq, Repr

/-- The header and bytes of a letterbox write by another core of this device (R200, R257): the sending
core, the letterbox, the offset in the window, the bytes and the postmark. -/
structure BoxOffer where
  core : Nat
  box : Nat
  offset : Nat
  data : Bytes
  postmark : Option Nat
  deriving DecidableEq, Repr

/-- How a memory read returns (R216): whether the link check fails on the first and on the second
read, and the bits in which the delivered bytes differ from those stored, as (byte, flipped bits). -/
structure LinkResponse where
  firstFails : Bool
  secondFails : Bool
  flips : List (Nat × Byte)
  deriving DecidableEq, Repr

/-- What a memory read returns to (R216; log entry 10): the oldest tile that the array named waits for, or, whatever array is
named, any other engine's next read of a 64-byte line of device memory, which then finds the response here. -/
inductive ReadResponse where
  | tile (link : LinkResponse)
  | line (n : Nat) (link : LinkResponse)
  deriving DecidableEq, Repr

/-- What the far end of a PLink link shows at training (R358, R365, R413): its version range, device
number, master state, certificate verdict and link key material. -/
structure PeerHello where
  lowVersion : Nat
  highVersion : Nat
  device : Nat
  master : Bool
  certificateOk : Bool
  serialOk : Bool
  keyMaterial : Bytes
  deriving DecidableEq, Repr

/-- The commands and events of the device: one constructor per row of the opcode table. -/
inductive Instr where
  /-- OPEN_SESSION (R298). -/
  | openSession (id : Nat)
  /-- CLOSE_SESSION (R297). -/
  | closeSession (id : Nat)
  /-- QUERY_DEVICE (R309). -/
  | queryDevice (id : Nat)
  /-- STAGE_CONFIG (R310). -/
  | stageConfig (id : Nat)
  /-- COMMIT_CONFIG (R311). -/
  | commitConfig (id : Nat)
  /-- COMMIT_APPLY (R280). -/
  | commitApply
  /-- COMMIT_TIMEOUT (R280). -/
  | commitTimeout (set : Nat)
  /-- ENABLE_FUNCTION (R313). -/
  | enableFunction (id : Nat)
  /-- DISABLE_FUNCTION (R314). -/
  | disableFunction (id : Nat)
  /-- TEARDOWN_COMPLETE (R315). -/
  | teardownComplete (partition : Nat)
  /-- ALLOC_REGION (R317). -/
  | allocRegion (id : Nat)
  /-- FREE_REGION (R318). -/
  | freeRegion (id : Nat)
  /-- UNMAPPING_COMPLETE (R223). -/
  | unmappingComplete (region : Nat)
  /-- SCRUB_REGION (R318). -/
  | scrubRegion (id : Nat)
  /-- REGION_SCRUB_COMPLETE (R234). -/
  | regionScrubComplete (region : Nat)
  /-- PARCEL_ACCEPT (R329). -/
  | parcelAccept (id : Nat)
  /-- PARCEL_SEND (R329). -/
  | parcelSend (id : Nat)
  /-- LOAD_ROUTE (R319). -/
  | loadRoute (id : Nat)
  /-- VERIFY_ROUTE (R248). -/
  | verifyRoute (id : Nat)
  /-- RUN_ROUTE (R323). -/
  | runRoute (id : Nat)
  /-- ABORT_ROUTE (R324). -/
  | abortRoute (id : Nat)
  /-- PACK_TILES (R325). -/
  | packTiles (id : Nat)
  /-- PACK_SORT (R107). -/
  | packSort (id : Nat)
  /-- OPEN_STREAM (R326). -/
  | openStream (id : Nat)
  /-- CLOSE_STREAM (R327). -/
  | closeStream (id : Nat)
  /-- QUERY_STREAM (R328). -/
  | queryStream (id : Nat)
  /-- JOIN_CASCADE (R376). -/
  | joinCascade (id : Nat)
  /-- LEAVE_CASCADE (R330). -/
  | leaveCascade (id : Nat)
  /-- REDUCE_BUCKET (R332). -/
  | reduceBucket (id : Nat)
  /-- LEASE_REVOKE (R331). -/
  | leaseRevoke (id : Nat)
  /-- ATTEST (R404). -/
  | attest (id : Nat)
  /-- OPEN_KEY_SESSION (R406). -/
  | openKeySession (id : Nat) (msg : KeyMessage)
  /-- SET_CONFIDENTIAL (R335). -/
  | setConfidential (id : Nat)
  /-- RUN_BIST (R455). -/
  | runBist (id : Nat)
  /-- BIST_LOGIC_PHASE_COMPLETE (R455). -/
  | bistLogicPhaseComplete (observed : List Nat)
  /-- BIST_MEMORY_PHASE_COMPLETE (R455). -/
  | bistMemoryPhaseComplete (observed : List Nat)
  /-- SET_PERTURB (R337). -/
  | setPerturb (id : Nat) (tokenOk : Bool)
  /-- READ_COUNTERS (R338). -/
  | readCounters (id : Nat)
  /-- RING_SQ_TAIL_WRITE (R287). -/
  | ringSqTailWrite (caller ring value : Nat)
  /-- RING_CQ_HEAD_WRITE (R287). -/
  | ringCqHeadWrite (caller ring value : Nat)
  /-- RING_CTRL_WRITE (R286). -/
  | ringCtrlWrite (caller ring value : Nat)
  /-- RING_AP_BASE_WRITE (R425). -/
  | ringApBaseWrite (caller ring value : Nat)
  /-- COMMAND_FETCH (R288). -/
  | commandFetch (entry block : Option Bytes)
  /-- COMMAND_COMPLETION (R294). -/
  | commandCompletion (id : Nat)
  /-- COALESCE_WINDOW_EXPIRE (R296). -/
  | coalesceWindowExpire (function vector : Nat)
  /-- BUS_MASTER_ENABLE_CHANGE (R420). -/
  | busMasterEnableChange (function : Nat) (on : Bool)
  /-- BAR0_BAD_ACCESS (R422). -/
  | bar0BadAccess (function size : Nat) (isWrite : Bool)
  /-- BAR2_READ (R424). -/
  | bar2Read (function offset length : Nat) (response : LinkResponse)
  /-- BAR2_WRITE (R424). -/
  | bar2Write (function offset : Nat) (data : Bytes) (enables : List Bool)
  /-- CHR_TIME_READ (R474). -/
  | chrTimeRead (function size : Nat)
  /-- CHR_SECONDS_WRITE (R475). -/
  | chrSecondsWrite (caller value : Nat)
  /-- REGISTER_WRITE (R10). -/
  | registerWrite (caller offset size value : Nat)
  /-- PERTURB_GO_APPLY (R477). -/
  | perturbGoApply (core : Nat)
  /-- PERTURB_GO_CLEAR (R477). -/
  | perturbGoClear (core : Nat)
  /-- MGT_RESET_WARM (R431). -/
  | mgtResetWarm
  /-- MGT_RESET_COLD (R431). -/
  | mgtResetCold
  /-- MGT_CAP_WRITE (R432). -/
  | mgtCapWrite
  /-- FW_START (R433). -/
  | fwStart
  /-- FW_COMMIT (R433). -/
  | fwCommit
  /-- FW_ABORT (R433). -/
  | fwAbort
  /-- FW_CHECK_COMPLETE (R403). -/
  | fwCheckComplete (verdict : FwVerdict)
  /-- FW_WRITE_COMPLETE (R433). -/
  | fwWriteComplete
  /-- MGT_ADDR_WRITE (R478). -/
  | mgtAddrWrite
  /-- MGT_ADDR_TAKE_EFFECT (R478). -/
  | mgtAddrTakeEffect
  /-- MGT_HELLO (R427). -/
  | mgtHello (msg : KeyMessage)
  /-- MGT_CONFIRM (R427). -/
  | mgtConfirm (session : Nat) (macOk : Bool)
  /-- MGT_READ (R428). -/
  | mgtRead (req : MgtRequest) (offset length : Nat)
  /-- MGT_WRITE (R431). -/
  | mgtWrite (req : MgtRequest) (offset : Nat) (data : Bytes)
  /-- FW_CHUNK (R433). -/
  | fwChunk (req : MgtRequest) (offset : Nat) (data : Bytes)
  /-- MGT_CERT (R428). -/
  | mgtCert (req : MgtRequest)
  /-- MGT_ATTEST (R428). -/
  | mgtAttest (req : MgtRequest) (nonce : Bytes)
  /-- FAULT_READ (R449). -/
  | faultRead (req : MgtRequest) (index : Nat)
  /-- MGT_SESSION_IDLE_TIMEOUT (R427). -/
  | mgtSessionIdleTimeout (session : Nat)
  /-- SMBUS_BLOCK_READ (R430). -/
  | smbusBlockRead (command : Nat)
  /-- I3C_COMMON_COMMAND (R430). -/
  | i3cCommonCommand (command : I3cCommand)
  /-- INPUT_START_LEVEL (R441). -/
  | inputStartLevel
  /-- PERST_ASSERT (R419). -/
  | perstAssert
  /-- HOT_RESET (R419). -/
  | hotReset
  /-- PCIE_LINK_DOWN_TIMEOUT (R419). -/
  | pcieLinkDownTimeout
  /-- FUNCTION_LEVEL_RESET (R418). -/
  | functionLevelReset (function : Nat)
  /-- STANDBY_RAILS_UP (R441). -/
  | standbyRailsUp (masterSel : Bool) (cascadeId : Nat)
  /-- MAIN_RAILS_UP (R441). -/
  | mainRailsUp (temps : List Int)
  /-- BOOT_CHAIN_COMPLETE (R398). -/
  | bootChainComplete (verdict : BootVerdict)
  /-- LPDDR6_TRAINING_COMPLETE (R441). -/
  | lpddr6TrainingComplete (replayFailed : Bool) (failing : List Nat)
  /-- MEMORY_SCRUB_COMPLETE (R233). -/
  | memoryScrubComplete
  /-- DEVICE_READY (R441). -/
  | deviceReady
  /-- PWR_WARN_ASSERT (R438). -/
  | pwrWarnAssert
  /-- WARN_CLEAR_RESTART (R438). -/
  | warnClearRestart
  /-- PWR_WARN_DEASSERT (R438). -/
  | pwrWarnDeassert
  /-- SHORT_RESET_LEVEL_DIP (R439). -/
  | shortResetLevelDip
  /-- SUPPLY_LOSS (R440). -/
  | supplyLoss (microseconds : Nat)
  /-- STANDBY_OFF (R440). -/
  | standbyOff
  /-- OVER_RANGE_ENTRY (R435). -/
  | overRangeEntry
  /-- INPUT_PROTECTION_DISCONNECT (R435). -/
  | inputProtectionDisconnect
  /-- FAULT_RECORD_WRITTEN (R449). -/
  | faultRecordWritten
  /-- INTERNAL_LOGIC_ERROR (R445). -/
  | internalLogicError (block : Nat)
  /-- CONTROL_CORE_WATCHDOG_EXPIRE (R445). -/
  | controlCoreWatchdogExpire
  /-- PACE_WINDOW_END (R266). -/
  | paceWindowEnd (readings : List Nat)
  /-- POWER_SAMPLE (R450). -/
  | powerSample (vin iin : Nat)
  /-- TEMPERATURE_SAMPLE (R451). -/
  | temperatureSample (readings : List Int)
  /-- EPOCH_BOUNDARY (R262). -/
  | epochBoundary
  /-- VCORE_CHANGE_COMPLETE (R264). -/
  | vcoreChangeComplete
  /-- RESERVED_SLOT_START (R271). -/
  | reservedSlotStart
  /-- PPS_EDGE (R269). -/
  | ppsEdge
  /-- PTP_MESSAGE (R269). -/
  | ptpMessage (port : Option Nat) (msg : PtpMsg)
  /-- HOLDOVER_ENTRY (R269). -/
  | holdoverEntry
  /-- FRAME_RELEASE (R275). -/
  | frameRelease (stream : Nat)
  /-- BEAT_MISSED (R346). -/
  | beatMissed (stream : Nat)
  /-- DEADLINE_MISS (R282). -/
  | deadlineMiss (stream : Nat)
  /-- ROUTE_STEP_DISPATCH (R276). -/
  | routeStepDispatch (core : Nat)
  /-- ROUTE_STEP_COMPLETE (R276). -/
  | routeStepComplete (core : Nat)
  /-- RESULT_HANDOVER (R347). -/
  | resultHandover (stream : Nat)
  /-- LAYER_STEP (R236). -/
  | layerStep (core : Nat)
  /-- OPEN (R199). -/
  | openBox (core : Nat)
  /-- CLOSE (R205). -/
  | closeBox (core : Nat)
  /-- WAIT (R204). -/
  | waitBox (core : Nat)
  /-- WAIT_SATISFIED (R204). -/
  | waitSatisfied (core : Nat)
  /-- ORDER (R246). -/
  | orderStep (core : Nat)
  /-- RELEASE (R203). -/
  | releaseSlots (core : Nat)
  /-- ADD (R172). -/
  | vecAdd (core : Nat)
  /-- SUB (R172). -/
  | vecSub (core : Nat)
  /-- MUL (R172). -/
  | vecMul (core : Nat)
  /-- FMA (R172). -/
  | vecFma (core : Nat)
  /-- MIN (R173). -/
  | vecMin (core : Nat)
  /-- MAX (R173). -/
  | vecMax (core : Nat)
  /-- ABS (R175). -/
  | vecAbs (core : Nat)
  /-- NEG (R175). -/
  | vecNeg (core : Nat)
  /-- CMP (R501). -/
  | vecCmp (core : Nat)
  /-- SELECT (R501). -/
  | vecSelect (core : Nat)
  /-- CONVERT (R171). -/
  | vecConvert (core : Nat)
  /-- DIV (R172). -/
  | vecDiv (core : Nat)
  /-- SQRT (R172). -/
  | vecSqrt (core : Nat)
  /-- RSQRT (R172). -/
  | vecRsqrt (core : Nat)
  /-- RECIP (R172). -/
  | vecRecip (core : Nat)
  /-- EXP2 (R172). -/
  | vecExp2 (core : Nat)
  /-- LOG2 (R172). -/
  | vecLog2 (core : Nat)
  /-- SUM (R176). -/
  | vecSum (core : Nat)
  /-- SUMSQ (R176). -/
  | vecSumsq (core : Nat)
  /-- MAXI (R173). -/
  | vecMaxi (core : Nat)
  /-- MINI (R173). -/
  | vecMini (core : Nat)
  /-- LSE (R177). -/
  | vecLse (core : Nat)
  /-- SOFTMAX (R181). -/
  | vecSoftmax (core : Nat)
  /-- RMSNORM (R501). -/
  | vecRmsnorm (core : Nat)
  /-- LAYERNORM (R501). -/
  | vecLayernorm (core : Nat)
  /-- GRAD_ADD (R182). -/
  | vecGradAdd (core : Nat)
  /-- SGD_STEP (R183). -/
  | vecSgdStep (core : Nat)
  /-- ADAM_STEP (R183). -/
  | vecAdamStep (core : Nat)
  /-- SCALE_UPDATE (R184). -/
  | vecScaleUpdate (core : Nat)
  /-- SCATTER_ADD (R185). -/
  | vecScatterAdd (core : Nat)
  /-- RELU (R501). -/
  | vecRelu (core : Nat)
  /-- CLAMP (R501). -/
  | vecClamp (core : Nat)
  /-- GELU (R501). -/
  | vecGelu (core : Nat)
  /-- SILU (R501). -/
  | vecSilu (core : Nat)
  /-- TILE_FETCH (R37). -/
  | tileFetch (core array : Nat)
  /-- TILE_ARRIVAL (R229). -/
  | tileArrival (core array : Nat)
  /-- RECODER_LOAD (R37). -/
  | recoderLoad (core array : Nat)
  /-- LANE_TILE_SWITCH (R37). -/
  | laneTileSwitch (core array lane : Nat)
  /-- RESIDENCY_LOAD (R58). -/
  | residencyLoad (core array : Nat)
  /-- BAND_READ (R39). -/
  | bandRead (core band : Nat)
  /-- FEED_VECTOR (R38). -/
  | feedVector (core array : Nat)
  /-- LANE_STEP (R28). -/
  | laneStep (core array lane : Nat)
  /-- RUN_PROMOTION (R134). -/
  | runPromotion (core array lane : Nat)
  /-- COLUMN_CLAIM (R40). -/
  | columnClaim (core array : Nat)
  /-- GUEST_ATTACH (R41). -/
  | guestAttach (core array : Nat)
  /-- DRAIN_READ (R143). -/
  | drainRead (core band : Nat)
  /-- PIGEONHOLE_UPDATE (R122). -/
  | pigeonholeUpdate (core bank : Nat)
  /-- SACK_RECORD_WRITE (R124). -/
  | sackRecordWrite (core : Nat)
  /-- SCATTER_GROUP_CLOSE (R125). -/
  | scatterGroupClose (core : Nat)
  /-- SORTING_FRAME_PASS (R125). -/
  | sortingFramePass (core : Nat)
  /-- BANK_ACCESS_GRANT (R194). -/
  | bankAccessGrant (core bank : Nat)
  /-- LETTERBOX_WRITE_ARRIVAL (R200). -/
  | letterboxWriteArrival (core : Nat) (write : BoxOffer)
  /-- LETTERBOX_WRITE_LANDED (R203). -/
  | letterboxWriteLanded (core landing : Nat)
  /-- BANK_DRAIN_COMPLETE (R207). -/
  | bankDrainComplete (core bank : Nat)
  /-- BANK_POWER_UP_COMPLETE (R208). -/
  | bankPowerUpComplete (core bank : Nat)
  /-- SCRATCHPAD_ZERO_COMPLETE (R209). -/
  | scratchpadZeroComplete (partition : Nat)
  /-- MEMORY_READ_RESPONSE (R216). -/
  | memoryReadResponse (core array : Nat) (response : ReadResponse)
  /-- SELF_REFRESH_ENTRY (R214). -/
  | selfRefreshEntry (stack : Nat)
  /-- SELF_REFRESH_EXIT (R214). -/
  | selfRefreshExit (stack : Nat)
  /-- REFRESH_MANAGEMENT_REQUEST (R213). -/
  | refreshManagementRequest (stack : Nat)
  /-- FLIT_RECEIVE (R361). -/
  | flitReceive (port : Nat) (flit : Bytes)
  /-- REPLAY_TIMEOUT (R361). -/
  | replayTimeout (port : Nat)
  /-- LINK_RETRAIN_END (R361). -/
  | linkRetrainEnd (port : Nat) (up : Bool)
  /-- PLINK_LINK_UP (R365). -/
  | plinkLinkUp (port : Nat) (hello : PeerHello)
  /-- RELAY_CMD (R367). -/
  | relayCmd
  /-- RELAY_REPLY (R367). -/
  | relayReply
  /-- LB_WRITE (R369). -/
  | lbWrite
  /-- LB_ACK (R369). -/
  | lbAck
  /-- PLINK_CLAIM (R368). -/
  | plinkClaim
  /-- CLAIM_REPLY (R368). -/
  | claimReply
  /-- PLINK_RELEASE (R256). -/
  | plinkRelease
  /-- RENEW (R371). -/
  | renew
  /-- RENEW_TIMER (R371). -/
  | renewTimer
  /-- REVOKED (R372). -/
  | revoked
  /-- LEASE_EXPIRY (R371). -/
  | leaseExpiry
  /-- MEMBER_RENEW_TIMEOUT (R373). -/
  | memberRenewTimeout (device : Nat)
  /-- MEMBER_LOST (R374). -/
  | memberLost
  /-- MEMBER_PREPARE (R376). -/
  | memberPrepare
  /-- MEMBER_COMMIT (R376). -/
  | memberCommit
  /-- MEMBER_LEAVE (R330). -/
  | memberLeave
  /-- MEMBER_MASTER_LOST (R375). -/
  | memberMasterLost
  /-- JOIN_TIMEOUT (R330). -/
  | joinTimeout
  /-- JOIN_PREPARE_TIMEOUT (R376). -/
  | joinPrepareTimeout
  /-- REDUCE_REGISTER (R381). -/
  | reduceRegister
  /-- REGISTRATION_TIMEOUT (R381). -/
  | registrationTimeout (tag : Nat)
  /-- REDUCE_START (R382). -/
  | reduceStart
  /-- REDUCE_PART (R383). -/
  | reducePart
  /-- REDUCE_FINAL (R385). -/
  | reduceFinal
  /-- REDUCE_REDO (R390). -/
  | reduceRedo
  /-- ETHERNET_LINK_UP (R339). -/
  | ethernetLinkUp (port : Nat)
  /-- PORT_LINK_DOWN (R373). -/
  | portLinkDown (port : Nat)
  /-- PACKET_RECEIVE (R341). -/
  | packetReceive (port : Nat) (packet : EthPacket)
  /-- ARP_OR_ND_REQUEST (R339). -/
  | arpOrNdRequest (port : Nat)
  /-- RTP_PACKET (R345). -/
  | rtpPacket (port : Nat)
  /-- PARCEL_DATA (R351). -/
  | parcelData (port : Nat)
  /-- PARCEL_GRANT (R350). -/
  | parcelGrant (port : Nat)
  /-- PARCEL_NACK (R350). -/
  | parcelNack (port : Nat)
  /-- PARCEL_RESEND (R352). -/
  | parcelResend (port : Nat)
  /-- GRANT_TIMER (R350). -/
  | grantTimer (channel : Nat)
  /-- RETRANSMIT_TIMEOUT (R350). -/
  | retransmitTimeout (channel : Nat)
  /-- CHANNEL_TIMEOUT (R329). -/
  | channelTimeout (channel : Nat)
  /-- FINAL_GRANT_WINDOW_END (R353). -/
  | finalGrantWindowEnd (channel : Nat)
  /-- KEY_SESSION_PENDING_TIMEOUT (R409). -/
  | keySessionPendingTimeout (partition session : Nat)
  /-- KEY_SESSION_IDLE_TIMEOUT (R409). -/
  | keySessionIdleTimeout (partition session : Nat)
  /-- TOKEN_EXPIRY (R461). -/
  | tokenExpiry
  /-- PCIE_LINK_L0 (R357). -/
  | pcieLinkL0
  /-- JOIN_REPLY (R376). -/
  | joinReply
  /-- CREDENTIAL_REPLACEMENT (R414). -/
  | credentialReplacement (req : MgtRequest) (keys : Bytes) (sigOk : Bool)
  /-- MANAGEMENT_CREDENTIAL_RECOVERY (R415). -/
  | managementCredentialRecovery (token : Bytes) (sigOk : Bool)
  deriving DecidableEq, Repr

end Sys2Proof
end

