-- ==== Sys2Proof/Decode.lean ====
section
/-! DEFINITION. Command words. The opcode table gives no row any bits (`fields` is empty in every row),
so no word spells a command. -/

namespace Sys2Proof

/-- The command a word of the opcode table spells: none, as no row gives bits. -/
def decodeTableWord (_nbits _w : Nat) : Option Instr := none

end Sys2Proof
end

