-- ==== Sys2Proof/Machine/Bits.lean ====
section
/-! DEFINITION. Byte order, fields and sparse tables: the helpers every other file of the machine uses.
Multi-byte fields are little-endian (R4); the parcel header is big-endian. -/

namespace Sys2Proof.Machine

/-! ### Byte order -/

/-- The `n` bytes of a value, least significant first (R4). -/
def leBytes : Nat → Nat → Bytes
  | 0, _ => []
  | n + 1, v => BitVec.ofNat 8 v :: leBytes n (v / 256)

/-- The value of little-endian bytes (R4). -/
def leNat : Bytes → Nat
  | [] => 0
  | b :: bs => b.toNat + 256 * leNat bs

/-- The `n` bytes of a value, most significant first (R4, the parcel header). -/
def beBytes (n v : Nat) : Bytes := (leBytes n v).reverse

/-- The value of big-endian bytes. -/
def beNat (bs : Bytes) : Nat := leNat bs.reverse

/-- `n` zero bytes. -/
def zeros (n : Nat) : Bytes := List.replicate n 0

/-- Bytes `[off, off + n)`; a byte beyond the end reads 0. -/
def slice (bs : Bytes) (off n : Nat) : Bytes :=
  let got := (bs.drop off).take n
  got ++ zeros (n - got.length)

/-- The little-endian field of `n` bytes at `off`. -/
def leAt (bs : Bytes) (off n : Nat) : Nat := leNat (slice bs off n)

/-- The big-endian field of `n` bytes at `off`. -/
def beAt (bs : Bytes) (off n : Nat) : Nat := beNat (slice bs off n)

/-- A string cut into pieces of `n` bytes, at most `count` of them; the last may be shorter. -/
def pieces (n : Nat) : Nat → Bytes → List Bytes
  | 0, _ => []
  | count + 1, bs => if bs.isEmpty then [] else bs.take n :: pieces n count (bs.drop n)

/-- Padding with zero bytes to a multiple of `m`. -/
def padTo (m : Nat) (bs : Bytes) : Bytes := bs ++ zeros (roundUp bs.length m - bs.length)

/-- The two's complement value of the low `w` bits. -/
def signed (w n : Nat) : Int :=
  let m := n % 2 ^ w
  if m < 2 ^ (w - 1) then m else (m : Int) - 2 ^ w

/-- An integer as `w` bits of two's complement. -/
def unsigned (w : Nat) (n : Int) : Nat := (n % 2 ^ w).toNat

/-- 1 for true. -/
def bit (b : Bool) : Nat := if b then 1 else 0

/-- A bit mask of the members of a list of bit numbers. -/
def maskOf : List Nat → Nat
  | [] => 0
  | i :: is => maskOf is ||| 2 ^ i

/-- The set bits of a mask, ascending, among the lowest `n`. -/
def bitsOf (n mask : Nat) : List Nat := (List.range n).filter (bitOf mask)

/-- How many of the lowest `n` bits are set. -/
def popCount (n mask : Nat) : Nat := (bitsOf n mask).length

/-- The smallest k with 2^k at least n. -/
def ceilLog2 (n : Nat) : Nat := if n ≤ 1 then 0 else Nat.log2 (n - 1) + 1

/-- A count that saturates at 2^32 − 1 (R76). -/
def sat32 (n : Nat) : Nat := min n (2 ^ 32 - 1)

/-! ### Tables

A table is a list of (key, value) pairs with rising keys. Where it has a default, no entry holds it. -/

namespace Tab

variable {β : Type}

/-- The entry at a key. -/
def find (k : Nat) : Table β → Option β
  | [] => none
  | (a, v) :: t => if a = k then some v else find k t

/-- The table without the entry at a key. -/
def erase (k : Nat) : Table β → Table β
  | [] => []
  | (a, v) :: t => if a = k then t else (a, v) :: erase k t

/-- The table with an entry put at a key, in rising order of keys. -/
def put (k : Nat) (v : β) : Table β → Table β
  | [] => [(k, v)]
  | (a, w) :: t =>
    if k < a then (k, v) :: (a, w) :: t
    else if k = a then (k, v) :: t
    else (a, w) :: put k v t

/-- The value at a key, `d` where nothing is listed. -/
def getD (d : β) (t : Table β) (k : Nat) : β := (find k t).getD d

/-- The table with a value at a key; a value equal to the default is not listed. -/
def setD [DecidableEq β] (d : β) (t : Table β) (k : Nat) (v : β) : Table β :=
  if v = d then erase k t else put k v t

/-- Whether the keys rise strictly. -/
def rising : Table β → Bool
  | [] => true
  | [_] => true
  | (a, _) :: (b, w) :: t => decide (a < b) && rising ((b, w) :: t)

/-- The canonical form: rising keys and no entry that holds the default. -/
def wf [DecidableEq β] (d : β) (t : Table β) : Bool := rising t && t.all (fun e => e.2 ≠ d)

/-- The entry at a key changed by `f`. -/
def modify (k : Nat) (f : β → β) (t : Table β) : Table β :=
  match find k t with
  | none => t
  | some v => put k (f v) t

/-- Every value changed by `f`. -/
def mapVal (f : Nat → β → β) (t : Table β) : Table β := t.map fun e => (e.1, f e.1 e.2)

/-- The lowest number from `base` on, within `count`, that is not a key. -/
def freeKey (t : Table β) (base : Nat) : Nat → Option Nat
  | 0 => none
  | count + 1 => if (find base t).isNone then some base else freeKey t (base + 1) count

end Tab

/-! ### Byte stores -/

/-- A sparse store of bytes whose unlisted bytes read 0. -/
abbrev ByteStore := Table Byte

/-- `n` bytes from an address on. -/
def readBytes (m : ByteStore) (a : Nat) : Nat → Bytes
  | 0 => []
  | n + 1 => Tab.getD 0 m a :: readBytes m (a + 1) n

/-- Bytes written from an address on. -/
def writeBytes (m : ByteStore) (a : Nat) : Bytes → ByteStore
  | [] => m
  | b :: bs => writeBytes (Tab.setD 0 m a b) (a + 1) bs

/-- `n` bytes from an address on set to 0: the entries of the range dropped. -/
def clearBytes (m : ByteStore) (a n : Nat) : ByteStore :=
  m.filter fun e => !(a ≤ e.1 && e.1 < a + n)

end Sys2Proof.Machine
end

