-- ==== Sys2Proof/Machine/Float.lean ====
section
/-! DEFINITION. FP32 arithmetic, exact and then rounded once (R66, R68, R172, R173).
A value is unpacked into sign, integer mantissa and binary exponent; each operation is computed
exactly on integers and narrowed by `roundDyadic` at its end. -/

namespace Sys2Proof.Machine

/-- How a tie is settled: to the even neighbour in the vector unit (R172), away from zero in every
narrowing and in the tracker (R66, R68, R84). -/
inductive Ties where
  | even
  | away
  deriving DecidableEq, Repr

/-- What an FP32 word stands for: `num neg m e` is plus or minus `m * 2^e`. -/
inductive Fp where
  | nan
  | inf (neg : Bool)
  | num (neg : Bool) (m : Nat) (e : Int)
  deriving DecidableEq, Repr

/-- An FP32 result with the IEEE 754 conditions that R172 counts. -/
structure FpOut where
  bits : Word
  invalid : Bool := false
  overflow : Bool := false
  deriving DecidableEq, Repr

/-- The canonical NaN (R172). -/
def fpNaN : Word := 0x7FC00000#32
def fpOne : Word := 0x3F800000#32
def fpZero : Word := 0#32
def fpNegZero : Word := 0x80000000#32
def fpNegInf : Word := 0xFF800000#32
def fpPosInf : Word := 0x7F800000#32

/-- An infinity of either sign. -/
def fpInf (neg : Bool) : Word := if neg then fpNegInf else fpPosInf

def fpSign (w : Word) : Bool := w.getLsbD 31
/-- The biased exponent and the fraction of an FP32 word. -/
def fpExp (w : Word) : Nat := field w.toNat 30 23
def fpFrac (w : Word) : Nat := w.toNat % 2 ^ 23

def fpIsNaN (w : Word) : Bool := fpExp w == 255 && fpFrac w != 0
def fpIsInf (w : Word) : Bool := fpExp w == 255 && fpFrac w == 0
def fpIsFinite (w : Word) : Bool := fpExp w != 255
def fpIsZero (w : Word) : Bool := w.toNat % 2 ^ 31 == 0
/-- A signalling NaN, whose use IEEE 754 calls an invalid operation. -/
def fpIsSignalling (w : Word) : Bool := fpIsNaN w && !w.getLsbD 22
/-- A positive, finite, normal value, as a scale must be (R70). -/
def fpIsScale (w : Word) : Bool := !fpSign w && 1 ≤ fpExp w && fpExp w ≤ 254
/-- A positive normal power of two (R74). -/
def fpIsPow2 (w : Word) : Bool := fpIsScale w && fpFrac w == 0

/-- The value of an FP32 word. -/
def fpUnpack (w : Word) : Fp :=
  if fpIsNaN w then .nan
  else if fpIsInf w then .inf (fpSign w)
  else if fpExp w = 0 then .num (fpSign w) (fpFrac w) (-149)
  else .num (fpSign w) (2 ^ 23 + fpFrac w) ((fpExp w : Int) - 150)

/-- `m * 2^e`, plus a positive amount smaller than every bit kept where `sticky`, rounded to FP32.
`m` must have at least 26 bits where `sticky` is set. -/
def roundDyadic (ties : Ties) (neg : Bool) (m : Nat) (e : Int) (sticky : Bool) : FpOut :=
  let sign := if neg then 2 ^ 31 else 0
  if m = 0 then { bits := BitVec.ofNat 32 sign }
  else
    let u : Int := max (e + Nat.log2 m - 23) (-149)
    let q := if u ≤ e then m * 2 ^ (e - u).toNat
      else
        let s := (u - e).toNat
        let half := 2 ^ (s - 1)
        let q := m / 2 ^ s
        let r := m % 2 ^ s
        let up := r > half ∨ (r = half ∧ (sticky ∨ ties = .away ∨ q % 2 = 1))
        if up then q + 1 else q
    let b := (u + 149).toNat * 2 ^ 23 + q
    if b ≥ 0x7F800000 then { bits := BitVec.ofNat 32 (sign + 0x7F800000), overflow := true }
    else { bits := BitVec.ofNat 32 (sign + b) }

/-- The ratio `a / b * 2^e` rounded to FP32 (`b` positive). -/
def roundRatio (ties : Ties) (neg : Bool) (a b : Nat) (e : Int) : FpOut :=
  let k := 28 + Nat.log2 b - (Nat.log2 a)
  let n := a * 2 ^ k
  roundDyadic ties neg (n / b) (e - k) (n % b != 0)

/-- An exact integer sum as an FP32 value; `zeroNeg` is the sign an exact zero takes. -/
def roundSigned (ties : Ties) (m : Int) (e : Int) (zeroNeg : Bool) : FpOut :=
  if m = 0 then { bits := if zeroNeg then fpNegZero else fpZero }
  else roundDyadic ties (m < 0) m.natAbs e false

/-- A NaN result; it is an invalid operation where it comes from numbers or a signalling operand. -/
def fpNaNOut (invalid : Bool) : FpOut := { bits := fpNaN, invalid := invalid }

/-- The signed integer of a finite value on the grid `2^e`, `e` at most its own exponent. -/
def onGrid (neg : Bool) (m : Nat) (me e : Int) : Int :=
  let v : Int := (m * 2 ^ (me - e).toNat : Nat)
  if neg then -v else v

/-- a + b rounded once (R172). -/
def fpAddT (ties : Ties) (a b : Word) : FpOut :=
  match fpUnpack a, fpUnpack b with
  | .nan, _ => fpNaNOut (fpIsSignalling a || fpIsSignalling b)
  | _, .nan => fpNaNOut (fpIsSignalling a || fpIsSignalling b)
  | .inf s, .inf t => if s = t then { bits := fpInf s } else fpNaNOut true
  | .inf s, _ => { bits := fpInf s }
  | _, .inf t => { bits := fpInf t }
  | .num s m e, .num t n f =>
    let g := min e f
    roundSigned ties (onGrid s m e g + onGrid t n f g) g (s && t)

/-- The negation of a value: the sign bit flipped, a NaN canonical (R172). -/
def fpNeg (a : Word) : Word := if fpIsNaN a then fpNaN else a ^^^ fpNegZero

/-- The magnitude of a value, a NaN canonical (R172). -/
def fpAbs (a : Word) : Word := if fpIsNaN a then fpNaN else a &&& 0x7FFFFFFF#32

/-- a × b + c with one rounding (R172). -/
def fpFmaT (ties : Ties) (a b c : Word) : FpOut :=
  let sig := fpIsSignalling a || fpIsSignalling b || fpIsSignalling c
  match fpUnpack a, fpUnpack b with
  | .nan, _ => fpNaNOut sig
  | _, .nan => fpNaNOut sig
  | .inf s, .inf t => infPlus (s != t) sig
  | .inf s, .num t n _ => if n = 0 then fpNaNOut true else infPlus (s != t) sig
  | .num s m _, .inf t => if m = 0 then fpNaNOut true else infPlus (s != t) sig
  | .num s m e, .num t n f =>
    match fpUnpack c with
    | .nan => fpNaNOut sig
    | .inf u => { bits := fpInf u }
    | .num u k g =>
      let p := e + f
      let h := min p g
      roundSigned ties (onGrid (s != t) (m * n) p h + onGrid u k g h) h ((s != t) && u)
where
  infPlus (neg sig : Bool) : FpOut :=
    match fpUnpack c with
    | .nan => fpNaNOut sig
    | .inf u => if u = neg then { bits := fpInf neg } else fpNaNOut true
    | .num _ _ _ => { bits := fpInf neg }

/-- a × b rounded once (R172). -/
def fpMulT (ties : Ties) (a b : Word) : FpOut :=
  match fpUnpack a, fpUnpack b with
  | .nan, _ => fpNaNOut (fpIsSignalling a || fpIsSignalling b)
  | _, .nan => fpNaNOut (fpIsSignalling a || fpIsSignalling b)
  | .inf s, .inf t => { bits := fpInf (s != t) }
  | .inf s, .num t n _ => if n = 0 then fpNaNOut true else { bits := fpInf (s != t) }
  | .num s m _, .inf t => if m = 0 then fpNaNOut true else { bits := fpInf (s != t) }
  | .num s m e, .num t n f =>
    if m = 0 ∨ n = 0 then { bits := if s != t then fpNegZero else fpZero }
    else roundDyadic ties (s != t) (m * n) (e + f) false

/-- a / b rounded once (R172); a zero divisor gives an infinity, and 0 / 0 is invalid. -/
def fpDivT (ties : Ties) (a b : Word) : FpOut :=
  match fpUnpack a, fpUnpack b with
  | .nan, _ => fpNaNOut (fpIsSignalling a || fpIsSignalling b)
  | _, .nan => fpNaNOut (fpIsSignalling a || fpIsSignalling b)
  | .inf _, .inf _ => fpNaNOut true
  | .inf s, .num t _ _ => { bits := fpInf (s != t) }
  | .num s _ _, .inf t => { bits := if s != t then fpNegZero else fpZero }
  | .num s m e, .num t n f =>
    if n = 0 then (if m = 0 then fpNaNOut true else { bits := fpInf (s != t) })
    else if m = 0 then { bits := if s != t then fpNegZero else fpZero }
    else roundRatio ties (s != t) m n (e - f)

def fpAdd (a b : Word) : FpOut := fpAddT .even a b
/-- a − b: IEEE 754 subtraction is the sum with b's sign flipped (R172). -/
def fpSub (a b : Word) : FpOut := fpAddT .even a (b ^^^ fpNegZero)
def fpMul (a b : Word) : FpOut := fpMulT .even a b
def fpDiv (a b : Word) : FpOut := fpDivT .even a b
def fpFma (a b c : Word) : FpOut := fpFmaT .even a b c
/-- 1 / a (R172). -/
def fpRecip (a : Word) : FpOut := fpDiv fpOne a

/-- The integer square root, one bit at a time from bit `bits` down. -/
def isqrtFrom (n : Nat) : Nat → Nat → Nat
  | 0, r => r
  | k + 1, r =>
    let c := r + 2 ^ k
    isqrtFrom n k (if c * c ≤ n then c else r)

/-- The largest r with r² ≤ n. -/
def isqrt (n : Nat) : Nat := isqrtFrom n (Nat.log2 n / 2 + 1) 0

/-- The square root, correctly rounded (R172). -/
def fpSqrt (a : Word) : FpOut :=
  match fpUnpack a with
  | .nan => fpNaNOut (fpIsSignalling a)
  | .inf neg => if neg then fpNaNOut true else { bits := fpPosInf }
  | .num neg m e =>
    if m = 0 then { bits := a }
    else if neg then fpNaNOut true
    else
      let odd := e % 2 ≠ 0
      let n := (if odd then m * 2 else m) * 2 ^ 60
      let r := isqrt n
      roundDyadic .even false r ((if odd then e - 1 else e) / 2 - 30) (r * r != n)

/-- The reciprocal square root, correctly rounded (R172); a zero gives an infinity of its sign. -/
def fpRsqrt (a : Word) : FpOut :=
  match fpUnpack a with
  | .nan => fpNaNOut (fpIsSignalling a)
  | .inf neg => if neg then fpNaNOut true else { bits := fpZero }
  | .num neg m e =>
    if m = 0 then { bits := fpInf neg }
    else if neg then fpNaNOut true
    else
      let odd := e % 2 ≠ 0
      let n := if odd then m * 2 else m
      let r := isqrt (2 ^ 120 / n)
      roundDyadic .even false r (-(if odd then e - 1 else e) / 2 - 60) (r * r * n != 2 ^ 120)

/-! ### Comparison (R173, R501) -/

/-- The place of a number in the order of numbers; the two zeros share one place. -/
def fpKey (w : Word) : Int := if fpSign w then -(w.toNat % 2 ^ 31 : Nat) else (w.toNat % 2 ^ 31 : Nat)

/-- a < b as numbers, false where either is a NaN. -/
def fpLt (a b : Word) : Bool := !fpIsNaN a && !fpIsNaN b && fpKey a < fpKey b
/-- a = b as numbers, false where either is a NaN. -/
def fpEq (a b : Word) : Bool := !fpIsNaN a && !fpIsNaN b && fpKey a = fpKey b
/-- a ≤ b as numbers, false where either is a NaN. -/
def fpLe (a b : Word) : Bool := fpLt a b || fpEq a b

/-- The operand itself, a NaN canonical (R172). -/
def fpCanon (a : Word) : Word := if fpIsNaN a then fpNaN else a

/-- MIN of R173: no NaN while one operand is a number; equal operands give the first. -/
def fpMin (a b : Word) : Word :=
  if fpIsNaN a then fpCanon b else if fpIsNaN b then a else if fpLt b a then b else a
/-- MAX of R173. -/
def fpMax (a b : Word) : Word :=
  if fpIsNaN a then fpCanon b else if fpIsNaN b then a else if fpLt a b then b else a

/-! ### Integers -/

/-- A signed integer as an FP32 value (R68 under `away`, IEEE 754 under `even`). -/
def fpOfInt (ties : Ties) (n : Int) : FpOut := roundSigned ties n 0 false

/-- The two's complement value of 32 bits. -/
def int32 (w : Word) : Int := w.toInt
/-- An integer as 32 bits of two's complement. -/
def ofInt32 (n : Int) : Word := BitVec.ofInt 32 n

/-- The symmetric limit of the INT32 arithmetic, ±(2^31 − 1) (R174). -/
def limit32 (n : Int) : Int := max (-(2 ^ 31 - 1)) (min (2 ^ 31 - 1) n)

/-- The power of two `2^e` as FP32, for −126 ≤ e ≤ 127. -/
def fpPow2 (e : Int) : Word := BitVec.ofNat 32 ((e + 127).toNat * 2 ^ 23)

end Sys2Proof.Machine
end

