-- ==== Sys2Proof/Machine/Transcend.lean ====
section
/-! DEFINITION. EXP2, LOG2 and the exact log-sum, correctly rounded (R172, R177, R180).
Each value is enclosed between two integers over `2^P`; where both ends round to one FP32 value that
value is the result, and otherwise the precision `P` rises. Log entry 5. -/

namespace Sys2Proof.Machine

/-- The precisions tried in turn. -/
def precisions : List Nat := [96, 192, 384, 768, 1536, 3072, 6144, 16384]

/-- Partial sums of atanh: `n` further terms from power `zp`, odd divisor `d`. -/
def atanhTerms (P z2 : Nat) : Nat → Nat → Nat → Nat → Nat
  | 0, _, _, acc => acc
  | n + 1, zp, d, acc => atanhTerms P z2 n (zp * z2 / 2 ^ P) (d + 2) (acc + zp / d)

/-- How many terms of a series `P` bits need. -/
def seriesTerms (P : Nat) : Nat := P / 3 + 8

/-- A lower bound of `atanh (a / b) * 2^P` for `a / b` at most 1/3. -/
def atanhLo (P a b : Nat) : Nat :=
  let z := a * 2 ^ P / b
  atanhTerms P (z * z / 2 ^ P) (seriesTerms P) z 1 0

/-- What the true value may exceed `atanhLo` by. -/
def atanhSlack (P : Nat) : Nat := 3 * seriesTerms P + 3

/-- Bounds of `log2 v * 2^P` for a positive integer v. -/
def log2Lo (P v : Nat) : Nat :=
  let L := Nat.log2 v
  L * 2 ^ P + atanhLo P (v - 2 ^ L) (v + 2 ^ L) * 2 ^ P / (atanhLo P 1 3 + atanhSlack P)
def log2Hi (P v : Nat) : Nat :=
  let L := Nat.log2 v
  if v = 2 ^ L then L * 2 ^ P
  else L * 2 ^ P + (atanhLo P (v - 2 ^ L) (v + 2 ^ L) + atanhSlack P) * 2 ^ P / atanhLo P 1 3 + 1

/-- Partial sums of exp: `n` further terms from `term`, divisor `j`. -/
def expTerms (P t : Nat) : Nat → Nat → Nat → Nat → Nat
  | 0, _, _, acc => acc
  | n + 1, term, j, acc => expTerms P t n (term * t / 2 ^ P / j) (j + 1) (acc + term)

/-- A lower bound of `2^(g / 2^k) * 2^P` for `g < 2^k`. -/
def exp2Lo (P g k : Nat) : Nat :=
  let t := g * (2 * atanhLo P 1 3) / 2 ^ k
  expTerms P t (seriesTerms P) (2 ^ P) 1 0
def exp2Hi (P g k : Nat) : Nat :=
  if g = 0 then 2 ^ P else exp2Lo P g k + 20 * seriesTerms P + 20

/-- The signed interval `[lo, hi] / 2^P` rounded to nearest even, where both ends agree. -/
def roundInterval (lo hi : Int) (e : Int) : Option FpOut :=
  if lo > 0 ∨ hi < 0 then
    let a := roundDyadic .even (lo < 0) lo.natAbs e true
    let b := roundDyadic .even (lo < 0) hi.natAbs e true
    if a = b then some a else none
  else none

/-- The first precision whose interval settles the rounding; `last` where none of them does. -/
def settle (f : Nat → Option FpOut) (last : FpOut) : List Nat → FpOut
  | [] => last
  | P :: Ps => match f P with
    | some r => r
    | none => settle f last Ps

/-- The integer part of a finite value, and its fraction as `g / 2^k`. -/
def floorFrac (neg : Bool) (m : Nat) (e : Int) : Int × Nat × Nat :=
  if 0 ≤ e then ((if neg then -(m * 2 ^ e.toNat : Nat) else (m * 2 ^ e.toNat : Nat)), 0, 0)
  else
    let k := (-e).toNat
    let v : Int := if neg then -(m : Int) else m
    (v / 2 ^ k, (v % 2 ^ k).toNat, k)

/-- 2^a, correctly rounded (R172). -/
def fpExp2 (a : Word) : FpOut :=
  match fpUnpack a with
  | .nan => fpNaNOut (fpIsSignalling a)
  | .inf neg => { bits := if neg then fpZero else fpPosInf }
  | .num neg m e =>
    if fpExp a < 101 then { bits := fpOne }
    else if 134 < fpExp a ∨ (!neg ∧ fpKey 0x43000000#32 ≤ fpKey a)
        ∨ (neg ∧ fpKey a ≤ fpKey 0xC3160000#32) then
      if neg then { bits := fpZero } else { bits := fpPosInf, overflow := true }
    else
      let (n, g, k) := floorFrac neg m e
      if g = 0 then roundDyadic .even false 1 n false
      else settle (fun P => roundInterval (exp2Lo P g k) (exp2Hi P g k) (n - P))
        { bits := fpOne } precisions

/-- log2 a, correctly rounded (R172): a zero gives −infinity, a negative number is invalid. -/
def fpLog2 (a : Word) : FpOut :=
  match fpUnpack a with
  | .nan => fpNaNOut (fpIsSignalling a)
  | .inf neg => if neg then fpNaNOut true else { bits := fpPosInf }
  | .num neg m e =>
    if m = 0 then { bits := fpNegInf }
    else if neg then fpNaNOut true
    else
      let L := Nat.log2 m
      if m = 2 ^ L then fpOfInt .even (e + L)
      else settle
        (fun P => roundInterval (e * 2 ^ P + log2Lo P m) (e * 2 ^ P + log2Hi P m) (-(P : Int)))
        { bits := fpZero } precisions

/-- A term of a log-sum: integer part, fraction `g / 2^k`. -/
abbrev LseTerm := Int × Nat × Nat

/-- Whether two fractions are equal. -/
def sameFrac (s t : LseTerm) : Bool := s.2.1 * 2 ^ t.2.2 == t.2.1 * 2 ^ s.2.2

/-- `2^n * x` rounded down. -/
def shiftInt (x : Nat) (n : Int) : Nat := if 0 ≤ n then x * 2 ^ n.toNat else x / 2 ^ (-n).toNat

/-- log2 of the sum of 2^t over finite terms, correctly rounded (R180). Terms more than 8,192 binades below the
greatest are not added up: they push the result upward, by less than `count × 2^−8192`. -/
def lseFinite (terms : List LseTerm) : FpOut :=
  match terms with
  | [] => { bits := fpNegInf }
  | t :: ts =>
    let top := ts.foldl (fun a s => max a s.1) t.1
    let kept := terms.filter (fun s => top - 8192 ≤ s.1)
    let tiny := kept.length < terms.length
    let low := kept.foldl (fun a s => min a s.1) top
    let count := kept.foldl (fun a s => a + 2 ^ (s.1 - low).toNat) 0
    match kept with
    | [] => { bits := fpNegInf }
    | h :: _ =>
      if kept.all (sameFrac h) && count == 2 ^ Nat.log2 count then
        let v : Int := (low + Nat.log2 count) * 2 ^ h.2.2 + h.2.1
        if tiny then
          if v = 0 then { bits := fpZero }
          else
            let w : Int := v * 2 ^ 40
            roundDyadic .even (v < 0) (if v < 0 then w.natAbs - 1 else w.natAbs) (-(h.2.2 + 40 : Int)) true
        else roundSigned .even v (-(h.2.2 : Int)) false
      else
        settle (fun P =>
          let lo := kept.foldl (fun a s => a + shiftInt (exp2Lo P s.2.1 s.2.2) (s.1 - top)) 0
          let hi := kept.foldl (fun a s => a + shiftInt (exp2Hi P s.2.1 s.2.2) (s.1 - top) + 1)
            (if tiny then shiftInt terms.length (P - 8192) + 1 else 1)
          roundInterval ((top - P) * 2 ^ P + log2Lo P lo) ((top - P) * 2 ^ P + log2Hi P hi) (-(P : Int)))
          { bits := fpZero } precisions

/-- The exact path of LSE (R177, R180). -/
def lseExact (as : List Word) : FpOut :=
  if as.any fpIsNaN then fpNaNOut (as.any fpIsSignalling)
  else if as.any (· == fpPosInf) then { bits := fpPosInf }
  else
    lseFinite (as.filterMap fun a => match fpUnpack a with
      | .num neg m e => some (floorFrac neg m e)
      | _ => none)

end Sys2Proof.Machine
end

