-- ==== Sys2Proof/Machine/Numbers.lean ====
section
/-! DEFINITION. Codes, the Bell-4 grid, conversion, statistics, excursions and the scale tracker
(chapter "Numbers, the Bell-4 grid and scales", R62 to R88). -/

namespace Sys2Proof.Machine

/-- What a conversion produces: the target codes of Table 4-1, and the packer's weight codes (R67). -/
inductive Target where
  | int4 | uint4 | int8 | uint8 | int16 | bell4 | bf16 | fp32
  | weight (w : Nat)
  deriving DecidableEq, Repr

/-- The target code number of Table 4-1. -/
def Target.ofCode : Nat → Option Target
  | 0 => some .int4 | 1 => some .uint4 | 2 => some .int8 | 3 => some .uint8
  | 4 => some .int16 | 5 => some .bell4 | 6 => some .bf16 | 7 => some .fp32
  | _ => none

def Target.code : Target → Nat
  | .int4 => 0 | .uint4 => 1 | .int8 => 2 | .uint8 => 3 | .int16 => 4 | .bell4 => 5 | .bf16 => 6
  | .fp32 => 7 | .weight _ => 0

/-- The stored bits of one element: a weight in the smallest container that holds it (R63). -/
def Target.bits : Target → Nat
  | .int4 | .uint4 | .bell4 => 4
  | .int8 | .uint8 => 8
  | .int16 | .bf16 => 16
  | .fp32 => 32
  | .weight w => if w ≤ 2 then 2 else if w ≤ 4 then 4 else if w ≤ 8 then 8 else 16

/-- qmax of Table 4-2. -/
def Target.qmax : Target → Nat
  | .int4 => 7 | .uint4 => 15 | .int8 => 127 | .uint8 => 255 | .int16 => 32767 | .bell4 => 120
  | .bf16 | .fp32 => 0
  | .weight w => 2 ^ (w - 1) - 1

def Target.isUnsigned : Target → Bool
  | .uint4 | .uint8 => true
  | _ => false

/-- Whether a conversion to the target keeps M and can have an excursion (R75, R77). -/
def Target.isInteger : Target → Bool
  | .bf16 | .fp32 => false
  | _ => true

/-- A value before narrowing: an INT32 total or an FP32 value (R66). -/
inductive Value where
  | int (n : Int)
  | fp (w : Word)
  deriving DecidableEq, Repr

/-- One converted element: its stored bits, and how R75 counts it. -/
structure Conv where
  bits : Nat
  clipped : Bool := false
  zero : Bool := false
  deriving DecidableEq, Repr

/-- The quotient |a| / c as a ratio of integers, for a = ±m·2^e and c = mc·2^ec. -/
def quotient (m : Nat) (e : Int) (c : Word) : Nat × Nat :=
  match fpUnpack c with
  | .num _ mc ec =>
    let d := e - ec
    if 0 ≤ d then (m * 2 ^ d.toNat, mc) else (m, mc * 2 ^ (-d).toNat)
  | _ => (0, 1)

/-- The nearest integer to a ratio, ties away from zero (R66). -/
def roundAway (a b : Nat) : Nat := (2 * a + b) / (2 * b)

/-- Conversion to an integer range (R66): `lo` and `hi` bound the target, `w` is its width. -/
def convertRange (isUns : Bool) (w : Nat) (lo hi : Int) (neg : Bool) (a b : Nat) : Conv :=
  if isUns && neg && a != 0 then { bits := 0, zero := true }
  else
    let r := roundAway a b
    let q : Int := if neg then -(r : Int) else r
    let l := max lo (min hi q)
    { bits := unsigned w l, clipped := l != q, zero := l == 0 }

/-- The level index of Table 4-4 for |y| = a / b: bounds are compared as twice their value. -/
def bellIndex (a b : Nat) : Nat :=
  ([9, 27, 46, 68, 96, 136, 200].filter fun bound => bound * b ≤ 2 * a).length

/-- The magnitudes of Table 4-4. -/
def bellLevel (i : Nat) : Nat := [0, 9, 18, 28, 40, 56, 80, 120].getD i 0

/-- The value of a Bell-4 code; the reserved code 0b1000 decodes to 0 (R69). -/
def bellValue (code : Nat) : Int :=
  let l : Int := bellLevel (code % 8)
  if bitOf code 3 then -l else l

/-- The index of the highest level within a limit: 7 for the full range (R64). -/
def bellTop (h : Nat) : Nat := ((List.range 8).filter fun i => bellLevel i ≤ h).length - 1

/-- Conversion to Bell-4, narrowed to levels of at most `h` (R64, R69). -/
def convertBell (h : Nat) (neg : Bool) (a b : Nat) : Conv :=
  let i := min (bellIndex a b) (bellTop h)
  { bits := if neg && i != 0 then 8 + i else i, clipped := h * b < a, zero := i == 0 }

/-- FP32 narrowed to BF16 (R68): ties away from zero, limited to ±0x7F7F, NaN to 0x7FC0. -/
def convertBf16 (w : Word) : Conv :=
  if fpIsNaN w then { bits := 0x7FC0, clipped := true }
  else
    let sign := if fpSign w then 0x8000 else 0
    let mag := (w.toNat % 2 ^ 31 + 0x8000) / 2 ^ 16
    if 0x7F7F < mag then { bits := sign + 0x7F7F, clipped := true }
    else { bits := sign + mag, zero := mag == 0 }

/-- BF16 widened to FP32, exactly; a NaN becomes the canonical NaN (R68). -/
def bf16ToFp (b : Nat) : Word := fpCanon (BitVec.ofNat 32 (b * 2 ^ 16))

/-- A value as FP32 (R68). -/
def Value.toFp : Value → Word
  | .int n => (fpOfInt .away n).bits
  | .fp w => w

/-- The bounds of a target with its narrowed limit `h` (R64, R66). -/
def Target.bounds (t : Target) (h : Nat) : Int × Int :=
  match t with
  | .weight w => (-(2 ^ (w - 1) : Nat), (2 ^ (w - 1) : Nat) - 1)
  | _ => if t.isUnsigned then (0, h) else (-(h : Int), h)

/-- One conversion of a stage input to a target code, with conversion scale `c` and limit `h`
(R64, R66, R68, R69). -/
def convert (t : Target) (h : Nat) (c : Word) (a : Value) : Conv :=
  match t with
  | .fp32 => let w := a.toFp; { bits := w.toNat, zero := fpIsZero w }
  | .bf16 => convertBf16 a.toFp
  | _ =>
    let (lo, hi) := t.bounds h
    let sign (neg : Bool) (m : Nat) (e : Int) : Conv :=
      let (x, y) := quotient m e c
      if t = .bell4 then convertBell h neg x y else convertRange t.isUnsigned t.bits lo hi neg x y
    match a with
    | .int n => sign (n < 0) n.natAbs 0
    | .fp w => match fpUnpack w with
      | .nan => { bits := 0, clipped := true }
      | .inf neg =>
        if t = .bell4 then { bits := if neg && bellTop h != 0 then 8 + bellTop h else bellTop h, clipped := true }
        else { bits := unsigned t.bits (if neg then lo else hi), clipped := true }
      | .num neg m e => sign neg m e

/-- The value of a stored element code, for reading it back (R63, R69, R171). -/
def Target.decode (t : Target) (b : Nat) : Value :=
  match t with
  | .int4 => .int (signed 4 b)
  | .uint4 => .int (b % 16)
  | .int8 => .int (signed 8 b)
  | .uint8 => .int (b % 256)
  | .int16 => .int (signed 16 b)
  | .bell4 => .int (bellValue (b % 16))
  | .bf16 => .fp (bf16ToFp b)
  | .fp32 => .fp (BitVec.ofNat 32 b)
  | .weight w => .int (signed w b)

/-! ### Statistics and excursions -/

/-- The statistics of one tensor in one attempt (R75). `maxAbs` is an FP32 word in applied form and an
unsigned integer in folded form. -/
structure Stats where
  n : Nat := 0
  clipped : Nat := 0
  zeros : Nat := 0
  maxAbs : Nat := 0
  deriving DecidableEq, Repr

/-- Combining statistics: sums of counts, maximum of M; the counts saturate (R76). -/
def Stats.combine (a b : Stats) : Stats :=
  { n := sat32 (a.n + b.n), clipped := sat32 (a.clipped + b.clipped), zeros := sat32 (a.zeros + b.zeros),
    maxAbs := max a.maxAbs b.maxAbs }

/-- What one input contributes to M (R75): the magnitude of a finite input; for an unsigned target
the input itself where it is positive. Positive FP32 words order as integers. -/
def magnitude (t : Target) (a : Value) : Nat :=
  if !t.isInteger then 0 else
  match a with
  | .int n => if t.isUnsigned then n.toNat else n.natAbs
  | .fp w =>
    if !fpIsFinite w then 0
    else if t.isUnsigned && fpSign w then 0
    else w.toNat % 2 ^ 31

/-- The statistics of one converted element (R75). -/
def Stats.ofConv (t : Target) (a : Value) (r : Conv) : Stats :=
  { n := 1, clipped := bit r.clipped, zeros := bit r.zero, maxAbs := magnitude t a }

/-- The clip test and the zero test (R77). -/
def Stats.clipTest (s : Stats) : Bool := s.clipped * 16 > s.n
def Stats.zeroTest (s : Stats) : Bool := s.zeros * 16 > 15 * s.n
/-- Whether an integer conversion with these statistics has an excursion (R77). -/
def Stats.excursion (t : Target) (s : Stats) : Bool := t.isInteger && (s.clipTest || s.zeroTest)

/-- Whether `2^e * q` reaches M. -/
def reaches (folded : Bool) (q m : Nat) (e : Int) : Bool :=
  let (mant, me) : Nat × Int :=
    if folded then (m, 0) else
      match fpUnpack (BitVec.ofNat 32 m) with
      | .num _ a b => (a, b)
      | _ => (0, 0)
  let d := e - me
  if 0 ≤ d then mant ≤ q * 2 ^ d.toNat else mant * 2 ^ (-d).toNat ≤ q

/-- p of R78: the smallest power of two with p × qmax at least M, within 2^−126 to 2^127. -/
def substitute (folded : Bool) (q m : Nat) : Word :=
  match (List.range 254).find? (fun i : Nat => reaches folded q m ((i : Int) - 126)) with
  | some i => fpPow2 ((i : Int) - 126)
  | none => fpPow2 127

/-! ### SCALE entries and the tracker -/

/-- The excursion policies (Table 4-5). -/
inductive Policy where
  | note | replay | stop
  deriving DecidableEq, Repr

def Policy.ofCode : Nat → Option Policy
  | 0 => some .note | 1 => some .replay | 2 => some .stop | _ => none
def Policy.toNat : Policy → Nat
  | .note => 0 | .replay => 1 | .stop => 2

/-- A SCALE entry (Table 4-5). -/
structure ScaleEntry where
  scale : Word
  tensor : Nat
  policy : Policy
  learned : Bool
  folded : Bool
  shift : Nat
  adapted : Bool
  generation : Nat
  deriving DecidableEq, Repr

/-- The 16 bytes of an entry, reserved fields 0 (Table 4-5). -/
def ScaleEntry.encode (e : ScaleEntry) : Bytes :=
  leBytes 4 e.scale.toNat ++ leBytes 2 e.tensor ++
  leBytes 1 (e.policy.toNat + 4 * bit e.learned + 8 * bit e.folded + 16 * (e.shift % 16)) ++
  leBytes 1 (bit e.adapted) ++ leBytes 4 e.generation ++ zeros 4

/-- An entry read from its 16 bytes; a policy value of 3 and a tensor of 0xFFFF are refused (R71). -/
def ScaleEntry.decode (b : Bytes) : Option ScaleEntry :=
  let flags := leAt b 6 1
  let tensor := leAt b 4 2
  match Policy.ofCode (flags % 4) with
  | none => none
  | some policy =>
    if tensor = 0xFFFF then none
    else some { scale := BitVec.ofNat 32 (leAt b 0 4), tensor := tensor, policy := policy,
                learned := bitOf flags 2, folded := bitOf flags 3, shift := field flags 7 4,
                adapted := bitOf (leAt b 7 1) 0, generation := leAt b 8 4 }

/-- The entries of a SCALE payload, or none where R71 or R97 ends the command: a length that is not
a multiple of 16, an entry refused, entries out of order or repeated, more than 4,096 of them. -/
def scaleTable (payload : Bytes) : Option (List ScaleEntry) :=
  if payload.length % 16 ≠ 0 ∨ 65536 < payload.length then none
  else
    match (pieces 16 (payload.length / 16) payload).mapM ScaleEntry.decode with
    | none => none
    | some es => if Tab.rising (es.map fun e => (e.tensor, ())) then some es else none

/-- The entry of a tensor. -/
def findScale (es : List ScaleEntry) (tensor : Nat) : Option ScaleEntry :=
  es.find? (fun e => e.tensor = tensor)

/-- How a tensor's run ended (Table 4-6, OUTCOME). -/
inductive Excursion where
  | none | noted | replayed | stopped
  deriving DecidableEq, Repr

def Excursion.toNat : Excursion → Nat
  | .none => 0 | .noted => 1 | .replayed => 2 | .stopped => 3

/-- A result below 2^−126 is replaced by 2^−126 (R84). DESIGN CHOICE (log entry 56): a NaN result, which R84 does not
name, is replaced too, as R184 has it for SCALE_UPDATE; unsafe where the hardware keeps the NaN. -/
def atLeastTiny (w : Word) : Word := if fpIsNaN w || fpLt w (fpPow2 (-126)) then fpPow2 (-126) else w

/-- The next scale of a tensor (R84): whether M is an integer (folded form), the conversion's qmax, `s`
the scale read for the run, the final statistics, and whether the run had an excursion. -/
def nextScale (t : Target) (intM : Bool) (q : Nat) (e : ScaleEntry) (s : Word) (st : Stats) (excursion : Bool) : Word :=
  let p := substitute intM q st.maxAbs
  if !t.isInteger || st.maxAbs == 0 then s
  else if excursion then p
  else if e.learned then s
  else if e.folded then
    if fpLt s p then p
    else if fpLt p s then atLeastTiny (fpMulT .away s 0x3F000000#32).bits
    else s
  else
    let x := (fpDivT .away (if intM then (fpOfInt .away st.maxAbs).bits else BitVec.ofNat 32 st.maxAbs) (fpOfInt .away q).bits).bits
    let d := (fpAddT .away x (fpNeg s)).bits
    atLeastTiny (fpFmaT .away d (fpPow2 (-(e.shift : Int))) s).bits

/-- The output SCALE entry of a tensor (R84): POLICY, MODE, FOLDED and SHIFT copied, ADAPTED afresh. -/
def trackEntry (t : Target) (intM : Bool) (q : Nat) (e : ScaleEntry) (st : Stats) (excursion : Bool) : ScaleEntry :=
  { e with
    scale := nextScale t intM q e e.scale st excursion
    adapted := t.isInteger && st.maxAbs != 0 && excursion
    generation := wrap 32 (e.generation + 1) }

/-- The 32-byte tracker record (Table 4-6). -/
def trackRecord (t : Target) (tensor : Nat) (st : Stats) (scaleIn scaleOut : Word) (o : Excursion)
    (byClip byZero : Bool) : Bytes :=
  leBytes 4 st.n ++ leBytes 4 st.clipped ++ leBytes 4 st.zeros ++
  leBytes 4 (if t.isInteger then st.maxAbs else 0) ++ leBytes 4 scaleIn.toNat ++ leBytes 4 scaleOut.toNat ++
  leBytes 1 (o.toNat + 4 * bit byClip + 8 * bit byZero) ++ leBytes 1 t.code ++ leBytes 2 tensor ++ zeros 4

/-- SCALE_UPDATE on one entry (R184, R85): s − lr × g as one FMA, limited, where MODE is LEARNED and
ADAPTED is 0. -/
def updateScale (lr g : Word) (e : ScaleEntry) : ScaleEntry × FpOut :=
  if e.learned && !e.adapted then
    let r := fpFma (fpNeg lr) g e.scale
    let s := if fpIsNaN r.bits || fpLt r.bits (fpPow2 (-126)) then fpPow2 (-126)
      else if fpLt (fpPow2 127) r.bits then fpPow2 127 else r.bits
    ({ e with scale := s }, r)
  else (e, { bits := e.scale })

end Sys2Proof.Machine
end

