-- ==== Sys2Proof/Machine/Tiles.lean ====
section
/-! DEFINITION. The seal, the tile header, the stored formats and the checks on use
(R89 to R99, R110, R224 to R232). -/

namespace Sys2Proof.Machine

/-! ### The seal -/

/-- The polynomial of R228. -/
def crcPoly : Nat := 0x42F0E1EBA9EA3693

/-- `n` shifts of the CRC register (R228). -/
def crcShift : Nat → Nat → Nat
  | 0, c => c
  | n + 1, c =>
    let s := c * 2 % 2 ^ 64
    crcShift n (if bitOf c 63 then s ^^^ crcPoly else s)

/-- CRC-64 of R228 continued over bytes. -/
def crcFrom (c : Nat) : Bytes → Nat
  | [] => c
  | b :: bs => crcFrom (crcShift 8 (c ^^^ (b.toNat * 2 ^ 56))) bs

/-- The CRC-64 of a byte string: initial value 0, no reflection, no final XOR (R228). -/
def crc64 (bs : Bytes) : Nat := crcFrom 0 bs

/-! ### The header -/

/-- The tile formats (Table 5-1). -/
inductive Format where
  | dense | block | pair | loose | table | scale | state
  deriving DecidableEq, Repr

def Format.ofCode : Nat → Option Format
  | 0 => some .dense | 1 => some .block | 2 => some .pair | 3 => some .loose
  | 4 => some .table | 5 => some .scale | 6 => some .state | _ => none
def Format.code : Format → Nat
  | .dense => 0 | .block => 1 | .pair => 2 | .loose => 3 | .table => 4 | .scale => 5 | .state => 6

/-- MAGIC of a sealed tile (Table 11-3). -/
def sealedMagic : Nat := 0x7D1E

/-- The header fields of Table 11-3. `format` is the raw code, so that a reserved one can be held. -/
structure TileHdr where
  magic : Nat
  version : Nat
  format : Nat
  element : Nat
  actWidth : Nat
  rows : Nat
  columns : Nat
  tensor : Nat
  payloadLen : Nat
  rowOffset : Nat
  kOffset : Nat
  half : Bool
  sorted : Bool
  fallback : Bool
  raw : Bool
  writer : Nat
  crc : Nat
  deriving DecidableEq, Repr

/-- Header bytes 0 to 55 with a given MAGIC, reserved fields 0 (Table 11-3). -/
def TileHdr.body (h : TileHdr) (magic : Nat) : Bytes :=
  leBytes 2 magic ++ leBytes 1 h.version ++ leBytes 1 (h.format % 16) ++ leBytes 1 h.element ++
  leBytes 1 h.actWidth ++ leBytes 2 h.rows ++ leBytes 2 h.columns ++ leBytes 2 h.tensor ++
  leBytes 4 (h.payloadLen % 2 ^ 17) ++ leBytes 4 h.rowOffset ++ leBytes 4 h.kOffset ++
  leBytes 1 (bit h.half + 2 * bit h.sorted + 4 * bit h.fallback + 8 * bit h.raw) ++
  leBytes 1 (h.writer % 8) ++ zeros 30

/-- The header line of a tile that is not yet sealed (R227, step 1). -/
def TileHdr.unsealedLine (h : TileHdr) : Bytes := h.body 0 ++ zeros 8

/-- The sealed header line over a payload (R227, R228). -/
def TileHdr.sealedLine (h : TileHdr) (payload : Bytes) : Bytes :=
  let b := h.body sealedMagic
  b ++ leBytes 8 (crc64 (b ++ payload))

/-- The whole sealed tile, its payload padded with zeros to a multiple of 64 (R224, R227). -/
def TileHdr.seal (h : TileHdr) (payload : Bytes) : Bytes :=
  h.sealedLine payload ++ padTo 64 payload

/-- A header read from its 64 bytes. -/
def TileHdr.decode (b : Bytes) : TileHdr :=
  let flags := leAt b 24 1
  { magic := leAt b 0 2, version := leAt b 2 1, format := leAt b 3 1 % 16, element := leAt b 4 1,
    actWidth := leAt b 5 1, rows := leAt b 6 2, columns := leAt b 8 2, tensor := leAt b 10 2,
    payloadLen := leAt b 12 4 % 2 ^ 17, rowOffset := leAt b 16 4, kOffset := leAt b 20 4,
    half := bitOf flags 0, sorted := bitOf flags 1, fallback := bitOf flags 2, raw := bitOf flags 3,
    writer := leAt b 25 1 % 8, crc := leAt b 56 8 }

/-- A header to be written: version 1, not sorted, not a fallback, not raw. -/
def TileHdr.blank : TileHdr :=
  { magic := 0, version := 1, format := 0, element := 0, actWidth := 0, rows := 0, columns := 0,
    tensor := 0xFFFF, payloadLen := 0, rowOffset := 0, kOffset := 0, half := false, sorted := false,
    fallback := false, raw := false, writer := 0, crc := 0 }

/-- Bytes a tile occupies (R224). -/
def TileHdr.span (h : TileHdr) : Nat := 64 + roundUp h.payloadLen 64

/-- Whether a tile at an address ends within the 1 GiB region of its header (R224). -/
def withinRegion (addr span : Nat) : Bool := addr / 2 ^ 30 == (addr + span - 1) / 2 ^ 30

/-- Container width of an element code (R63, Table 11-3). -/
def elementBits (e : Nat) : Nat :=
  if e = 8 then 32
  else match Target.ofCode e with
    | some t => t.bits
    | none => if 0x11 ≤ e ∧ e ≤ 0x20 then (Target.weight (e - 0x10)).bits else 8

/-- The code an element code names for reading values (Table 11-3); INT32 reads as itself. -/
def elementTarget (e : Nat) : Option Target :=
  match Target.ofCode e with
  | some t => some t
  | none => if 0x11 ≤ e ∧ e ≤ 0x20 then some (.weight (e - 0x10)) else none

/-- The value of one stored element (R63, R69, R171). -/
def elementValue (e b : Nat) : Value :=
  if e = 8 then .int (signed 32 b)
  else match elementTarget e with
    | some t => t.decode b
    | none => .int b

/-- The weight width w of a resident code (R27, R239): int4, int8 and int16 are weights of 4, 8 and
16 bits; Bell-4 counts as 8 in positions but has its own worst case. -/
def weightWidth (e : Nat) : Nat :=
  if e = 0 then 4 else if e = 2 then 8 else if e = 4 then 16
  else if 0x11 ≤ e ∧ e ≤ 0x20 then e - 0x10 else 8

def isBell (e : Nat) : Bool := e == 5
/-- Whether an element code is a code of weights (R239). -/
def isWeightCode (e : Nat) : Bool := e == 0 || e == 2 || e == 4 || e == 5 || (0x11 ≤ e && e ≤ 0x20)

/-- Worst-case digit count s_w of a resident code (R30). -/
def worstDigits (e : Nat) : Nat := if isBell e then 2 else ceilDiv (weightWidth e) 2

/-- Bytes of a LOOSE entry (R95). -/
def looseEntryBytes (e : Nat) : Nat := if isBell e || weightWidth e ≤ 4 then 2 else 4

/-- Bytes of one row of `c` elements of `b` bits (R90). -/
def rowBytes (c b : Nat) : Nat := ceilDiv (c * b) 8

/-- Element `c` of a packed row starting at byte `off` (R63, R90). -/
def packedAt (bs : Bytes) (off b c : Nat) : Nat :=
  if b < 8 then leAt bs (off + c * b / 8) 1 / 2 ^ (c * b % 8) % 2 ^ b
  else leAt bs (off + c * (b / 8)) (b / 8)

/-- Elements packed low-first into bytes, the last byte padded with 0 (R63, R90). -/
def packRow (b : Nat) (codes : List Nat) : Bytes :=
  if b < 8 then
    let per := 8 / b
    (List.range (ceilDiv codes.length per)).map fun i =>
      BitVec.ofNat 8 ((List.range per).foldl
        (fun a j => a + codes.getD (i * per + j) 0 % 2 ^ b * 2 ^ (j * b)) 0)
  else codes.flatMap fun c => leBytes (b / 8) c

/-- Counts of a LOOSE directory (R95). -/
def looseCounts (payload : Bytes) : List Nat := (List.range 128).map fun r => leAt payload (2 * r) 2

/-- Groups per row of a PAIR tile, by the activation width of its consumer (R94). -/
def pairGroups (h : TileHdr) : Nat := if h.actWidth = 4 then 128 else 64

/-- The payload length a format derives from its own contents (R97); none where any length is allowed
or the chunk rules of R110 decide. -/
def derivedLength (h : TileHdr) (payload : Bytes) : Option Nat :=
  let b := elementBits h.element
  match Format.ofCode h.format with
  | some .dense =>
    some (if h.raw then h.rows * h.columns * 4 + h.columns else h.rows * rowBytes h.columns b)
  | some .block =>
    some (32 + ((payload.take 32).foldl (fun a x => a + popCount 8 x.toNat) 0) * 8 * b)
  | some .pair => some (128 * pairGroups h * 2 * b / 8 + 128 * pairGroups h / 2)
  | some .loose => some (256 + (looseCounts payload).sum * looseEntryBytes h.element)
  | some .table => some 57344
  | _ => none

/-- The payload of the DENSE tiles that cover the same rows and columns (R99). -/
def denseLength (h : TileHdr) : Nat := 128 * rowBytes h.columns (elementBits h.element)

/-- Whether a compressed tile is oversized (R99). -/
def oversized (h : TileHdr) : Bool :=
  match Format.ofCode h.format with
  | some .block | some .pair | some .loose => denseLength h < h.payloadLen
  | _ => false

/-- What a consumer expects of a tile (check 6 of Table 11-4); none where it does not care. -/
structure TileExpect where
  format : Option Format := none
  element : Option Nat := none
  actWidth : Option Nat := none
  rowOffset : Option Nat := none
  kOffset : Option Nat := none
  columns : Option Nat := none
  deriving DecidableEq, Repr

def matchOpt {α : Type} [BEq α] (want : Option α) (got : α) : Bool :=
  match want with
  | none => true
  | some v => v == got

/-- Whether a header is what the consumer expects (check 6). -/
def TileExpect.fits (e : TileExpect) (h : TileHdr) : Bool :=
  matchOpt (e.format.map Format.code) h.format && matchOpt e.element h.element &&
  matchOpt e.actWidth h.actWidth && matchOpt e.rowOffset h.rowOffset &&
  matchOpt e.kOffset h.kOffset && matchOpt e.columns h.columns

/-- How a check on use ends (Table 11-4). -/
inductive TileCheck where
  | good | missing | mismatch | metaFault | oversize
  deriving DecidableEq, Repr

/-- Whether a chunk's framing is sound (R110). -/
def chunkOk (payload : Bytes) : Bool :=
  let kind := leAt payload 0 1
  let size := if kind = 3 then 4 else 32
  (1 ≤ kind && kind ≤ 3) && payload.length == 16 + leAt payload 8 4 * size

/-- Whether the payload length differs from what the contents give (R97). -/
def lengthWrong (h : TileHdr) (payload : Bytes) : Bool :=
  match derivedLength h payload with
  | some n => n != h.payloadLen
  | none => h.format == Format.scale.code && h.payloadLen % 16 != 0

/-- The checks of Table 11-4 in their order, on a header line, the payload bytes read and the tile's
partition address. -/
def checkTile (want : TileExpect) (addr : Nat) (line payload : Bytes) : TileCheck :=
  let h := TileHdr.decode line
  if h.magic = 0 then .missing
  else if h.magic ≠ sealedMagic ∨ 65536 < h.payloadLen ∨ !withinRegion addr h.span then .mismatch
  else if crc64 (line.take 56 ++ payload) ≠ h.crc then .mismatch
  else if h.version ≠ 1 then .metaFault
  else match Format.ofCode h.format with
    | none => .metaFault
    | some f =>
      if !want.fits h then .metaFault
      else if f = .loose ∧ (looseCounts payload).any (fun n => h.columns ≤ 8 * n) then .metaFault
      else if lengthWrong h payload then .metaFault
      else if oversized h then .oversize
      else .good

/-! ### Reading and building payloads -/

/-- The codes of row `r` of a DENSE payload. -/
def denseRow (h : TileHdr) (payload : Bytes) (r : Nat) : List Nat :=
  let b := elementBits h.element
  (List.range h.columns).map (packedAt payload (r * rowBytes h.columns b) b)

/-- One stored weight of a row: its column in the tile and its raw bits. -/
structure Stored where
  column : Nat
  bits : Nat
  deriving DecidableEq, Repr

/-- Row `r` of a BLOCK payload as the dense codes of its 128 columns (R92). -/
def blockRow (h : TileHdr) (payload : Bytes) (r : Nat) : List Nat :=
  let b := elementBits h.element
  let occupied (n : Nat) : Bool := bitOf (leAt payload (n / 8) 1) (n % 8)
  (List.range 128).map fun c =>
    let n := 16 * (r / 8) + c / 8
    if occupied n then
      let before := ((List.range n).filter occupied).length
      packedAt payload (32 + before * 8 * b) b (8 * (r % 8) + c % 8)
    else 0

/-- Group `g` of row `r` of a PAIR payload: slot-0 value and index, slot-1 value and index (R94). -/
def pairGroup (h : TileHdr) (payload : Bytes) (r g : Nat) : Nat × Nat × Nat × Nat :=
  let b := elementBits h.element
  let G := h.columns / 4
  let nib := packedAt payload (128 * G * 2 * b / 8) 4 (r * G + g)
  (packedAt payload 0 b ((r * G + g) * 2), nib % 4, packedAt payload 0 b ((r * G + g) * 2 + 1), nib / 4)

/-- Row `r` of a LOOSE payload, entries in stored order (R95). -/
def looseRow (h : TileHdr) (payload : Bytes) (r : Nat) : List Stored :=
  let sz := looseEntryBytes h.element
  let counts := looseCounts payload
  let first := (counts.take r).sum
  (List.range (counts.getD r 0)).map fun j =>
    let v := leAt payload (256 + (first + j) * sz) sz
    if sz = 2 then { column := v % 2 ^ 12, bits := v / 2 ^ 12 } else { column := v % 2 ^ 16, bits := v / 2 ^ 16 }

/-- The stored entries of table `t` of lane `l` (R49, Table 3-1): T[1] to T[7] and T[15]. -/
def tableEntries (payload : Bytes) (l t : Nat) : List Int :=
  let w := leAt payload ((l * 64 + t) * 7) 7
  (List.range 8).map fun e => signed 7 (w / 2 ^ (7 * e))

/-- T[i] from the stored entries (R48). -/
def tableLookup (stored : List Int) (i : Nat) : Int :=
  let t15 := stored.getD 7 0
  if i = 0 then 0
  else if i ≤ 7 then stored.getD (i - 1) 0
  else if i = 15 then t15
  else t15 - stored.getD (15 - i - 1) 0

/-! ### Weights as digits -/

/-- One stored digit entry of a PE (R22): its sign, chunk and position. -/
structure Digit where
  neg : Bool
  chunk : Nat
  pos : Nat
  deriving DecidableEq, Repr

/-- The loop of R24: remainder `v`, position `p`, at most `n` positions. -/
def nafLoop : Nat → Int → Nat → List Digit
  | 0, _, _ => []
  | n + 1, v, p =>
    if v = 0 then []
    else if v % 2 = 0 then nafLoop n (v / 2) (p + 1)
    else
      let d : Int := 2 - v % 4
      { neg := d < 0, chunk := p / 8, pos := p % 8 } :: nafLoop n ((v - d) / 2) (p + 1)

/-- The NAF entries of a weight, ascending positions (R23, R24). -/
def naf (v : Int) : List Digit := nafLoop 17 v 0

/-- The integer a resident element stands for: two's complement, or the Bell-4 level (R26, R63). -/
def weightValue (element bits : Nat) : Int :=
  if isBell element then bellValue (bits % 16) else signed (weightWidth element) bits

/-- The value digits stand for. -/
def digitsValue (ds : List Digit) : Int :=
  ds.foldl (fun a d => let v : Int := 2 ^ (d.pos + 8 * d.chunk); if d.neg then a - v else a + v) 0

/-- The digits of one chunk, in order (R25). -/
def chunkDigits (c : Nat) (ds : List Digit) : List Digit := ds.filter (·.chunk = c)

/-- The two highest non-zero digits over both chunks (R156). -/
def topTwo (ds : List Digit) : List Digit := ds.drop (ds.length - 2)

end Sys2Proof.Machine
end

