-- ==== Sys2Proof/Machine/Route.lean ====
section
/-! DEFINITION. Route images: step records, handle and letterbox entries, tile lists and patches
(R190, R197, R236, R320 to R323). -/

namespace Sys2Proof.Machine

/-- The vector operations, in the order that numbers them 1 to 34 (R322). -/
inductive VecOp where
  | add | sub | mul | fma | min | max | abs | neg | cmp | select | convert
  | div | sqrt | rsqrt | recip | exp2 | log2
  | sum | sumsq | maxi | mini | lse | softmax | rmsnorm | layernorm
  | gradAdd | sgdStep | adamStep | scaleUpdate | scatterAdd
  | relu | clamp | gelu | silu
  deriving DecidableEq, Repr

def VecOp.all : List VecOp :=
  [.add, .sub, .mul, .fma, .min, .max, .abs, .neg, .cmp, .select, .convert, .div, .sqrt, .rsqrt,
   .recip, .exp2, .log2, .sum, .sumsq, .maxi, .mini, .lse, .softmax, .rmsnorm, .layernorm, .gradAdd,
   .sgdStep, .adamStep, .scaleUpdate, .scatterAdd, .relu, .clamp, .gelu, .silu]

def VecOp.ofCode (n : Nat) : Option VecOp := if n = 0 then none else VecOp.all[n - 1]?

/-- A layer step record (Table 15-9, Table 12-1). -/
structure LayerStep where
  modePin : Nat
  order : Nat
  kparts : Nat
  cores : Nat
  bucketed : Bool
  transposed : Bool
  condition : Nat
  actSigned : Bool
  continues : Bool
  leavesOpen : Bool
  p : Nat
  k : Nat
  n : Nat
  resident : Nat
  streamed : Nat
  output : Nat
  bias : Nat
  element : Nat
  actWidth : Nat
  format : Nat
  target : Nat
  activation : Nat
  scaleStage : Bool
  tap : Nat
  raw : Bool
  noWrite : Bool
  narrow : Nat
  group : Nat
  clampLo : Nat
  clampHi : Nat
  thresholdUnit : Nat
  knob : Nat
  f : Nat
  predA : Nat
  predB : Nat
  residentList : Nat
  biasList : Nat
  outputList : Nat
  streamH : Nat
  outH : Nat
  auxH : Nat
  sackH : Nat
  mergeH : Nat
  sackMib : Nat
  streamOff : Nat
  outOff : Nat
  auxOff : Nat
  shared : Bool
  scatterFp : Bool
  homeDevice : Nat
  counter : Nat
  extent : Nat
  deriving DecidableEq, Repr

/-- An operand of a vector operation: handle, element code and offset (R322). -/
structure Operand where
  handle : Nat
  element : Nat
  offset : Nat
  deriving DecidableEq, Repr

/-- A vector operation record (R322). -/
structure VectorStep where
  op : VecOp
  core : Nat
  exactLse : Bool
  isInt : Bool
  elements : Nat
  rows : Nat
  a : Operand
  b : Operand
  c : Operand
  r : Operand
  scalars : List Word
  /-- Bytes 76 to 83, whose meaning the operation gives. -/
  tail : Bytes
  deriving DecidableEq, Repr

/-- A step of a route (R321). -/
inductive RouteStep where
  | layer (l : LayerStep)
  | vector (v : VectorStep)
  | openBox (core box : Nat)
  | closeBox (core box : Nat)
  | wait (core box value : Nat)
  | order (core step : Nat)
  | release (core box count : Nat)
  deriving DecidableEq, Repr

/-- Whether a step is a route step: a layer step or a vector operation (R272). -/
def RouteStep.counts : RouteStep → Bool
  | .layer _ | .vector _ => true
  | _ => false

/-- A handle record (Table 10-1). -/
structure Handle where
  mask : Nat
  lines : Nat
  baseRow : Nat
  deriving DecidableEq, Repr

/-- A handle entry of an image (R320). -/
structure HandleEntry where
  core : Nat
  number : Nat
  handle : Handle
  /-- VALID: the handle may be used. -/
  valid : Bool
  deriving DecidableEq, Repr

/-- The window of a letterbox (Table 10-5, without its counts). -/
structure BoxShape where
  handle : Nat
  offset : Nat
  length : Nat
  slotSize : Nat
  senders : List Nat
  deriving DecidableEq, Repr

/-- A letterbox entry of an image (R320). -/
structure BoxEntry where
  core : Nat
  number : Nat
  shape : BoxShape
  deriving DecidableEq, Repr

/-- A patch entry (R323). -/
structure Patch where
  step : Nat
  offset : Nat
  width : Nat
  arg : Nat
  deriving DecidableEq, Repr

/-- A route image read whole: its tile lists hold the tile addresses themselves. -/
structure Image where
  steps : List Bytes
  handles : List HandleEntry
  boxes : List BoxEntry
  lists : List (List Nat)
  patches : List Patch
  scaleIn : Nat
  scaleOut : Nat
  state : Nat
  deriving DecidableEq, Repr

/-- The layer step record of 128 bytes (Table 15-9). -/
def decodeLayer (b : Bytes) : LayerStep :=
  let at1 (i : Nat) := leAt b i 1
  let f1 := at1 1
  let f2 := at1 2
  let f3 := at1 3
  let f27 := at1 27
  { modePin := field f1 1 0, order := field f1 3 2, kparts := field f1 7 4,
    cores := field f2 5 0, bucketed := bitOf f2 6, transposed := bitOf f2 7,
    condition := field f3 1 0, actSigned := bitOf f3 2, continues := bitOf f3 3, leavesOpen := bitOf f3 4,
    p := leAt b 4 4 % 2 ^ 24, k := leAt b 8 4 % 2 ^ 21, n := leAt b 12 4 % 2 ^ 21,
    resident := leAt b 16 2, streamed := leAt b 18 2, output := leAt b 20 2, bias := leAt b 22 2,
    element := at1 24, actWidth := at1 25, format := field (at1 26) 3 0, target := field (at1 26) 7 4,
    activation := field f27 2 0, scaleStage := bitOf f27 3, tap := field f27 5 4, raw := bitOf f27 6,
    noWrite := bitOf f27 7, narrow := leAt b 28 2, group := leAt b 30 2,
    clampLo := leAt b 32 4, clampHi := leAt b 36 4, thresholdUnit := leAt b 40 4 % 2 ^ 31,
    knob := field (at1 44) 3 0, f := leAt b 46 2 % 2 ^ 13, predA := leAt b 48 2, predB := leAt b 50 2,
    residentList := leAt b 52 2, biasList := leAt b 54 2, outputList := leAt b 56 2,
    streamH := at1 58, outH := at1 59, auxH := at1 60, sackH := at1 61, mergeH := at1 62,
    sackMib := if field (at1 63) 5 0 = 0 then 4 else field (at1 63) 5 0,
    streamOff := leAt b 64 4, outOff := leAt b 68 4, auxOff := leAt b 72 4,
    shared := bitOf (at1 76) 0, scatterFp := bitOf (at1 76) 1,
    homeDevice := field (at1 77) 5 0, counter := at1 78, extent := leAt b 80 2 % 2 ^ 11 }

/-- One operand of a vector record: handle, element code, 4-byte offset. -/
def decodeOperand (b : Bytes) (i : Nat) : Operand :=
  { handle := leAt b i 1, element := leAt b (i + 1) 1, offset := leAt b (i + 2) 4 }

/-- The vector operation record (R322). -/
def decodeVector (b : Bytes) : Option VectorStep :=
  match VecOp.ofCode (leAt b 1 1) with
  | none => none
  | some op =>
    some { op := op, core := field (leAt b 2 1) 2 0, exactLse := bitOf (leAt b 2 1) 3,
           isInt := bitOf (leAt b 2 1) 4, elements := leAt b 4 4, rows := max 1 (leAt b 8 4),
           a := decodeOperand b 12, b := decodeOperand b 18, c := decodeOperand b 24,
           r := decodeOperand b 30,
           scalars := (List.range 10).map fun j => BitVec.ofNat 32 (leAt b (36 + 4 * j) 4),
           tail := slice b 76 8 }

/-- A step record by its KIND (R321); none for any other KIND. -/
def decodeStep (b : Bytes) : Option RouteStep :=
  let core := leAt b 1 1
  let box := leAt b 2 1
  let value := leAt b 4 4
  match leAt b 0 1 with
  | 1 => some (.layer (decodeLayer b))
  | 2 => (decodeVector b).map .vector
  | 3 => some (.openBox core box)
  | 4 => some (.closeBox core box)
  | 5 => some (.wait core box value)
  | 6 => some (.order core value)
  | 7 => some (.release core box value)
  | _ => none

/-- A handle entry of 24 bytes (R320, Table 10-1). -/
def decodeHandle (b : Bytes) : HandleEntry :=
  { core := leAt b 0 1, number := leAt b 1 1,
    handle := { mask := leAt b 8 8, lines := leAt b 16 4 % 2 ^ 21, baseRow := leAt b 20 2 % 2 ^ 15 }
    valid := bitOf (leAt b 20 2) 15 }

/-- A letterbox entry of 40 bytes (R320, Table 10-5). -/
def decodeBox (b : Bytes) : BoxEntry :=
  { core := leAt b 0 1, number := leAt b 1 1,
    shape := { handle := leAt b 8 1, offset := leAt b 12 4 % 2 ^ 27, length := leAt b 16 4 % 2 ^ 27,
               slotSize := leAt b 20 4 % 2 ^ 27,
               senders := (List.range 4).map fun j => leAt b (32 + 2 * j) 2 } }

/-- A patch entry of 8 bytes (R323). -/
def decodePatch (b : Bytes) : Patch :=
  { step := leAt b 0 2, offset := leAt b 2 1, width := leAt b 3 1, arg := leAt b 4 1 }

/-- The counts and section offsets of an image header (Table 15-8). -/
structure ImageHdr where
  magic : Nat
  version : Nat
  steps : Nat
  handles : Nat
  boxes : Nat
  lists : Nat
  patches : Nat
  scaleIn : Nat
  scaleOut : Nat
  state : Nat
  offsets : List Nat
  deriving DecidableEq, Repr

def decodeImageHdr (b : Bytes) : ImageHdr :=
  { magic := leAt b 0 4, version := leAt b 4 1, steps := leAt b 6 2, handles := leAt b 8 2,
    boxes := leAt b 10 2, lists := leAt b 12 2, patches := leAt b 14 2, scaleIn := leAt b 16 2,
    scaleOut := leAt b 18 2, state := leAt b 20 2,
    offsets := (List.range 5).map fun j => leAt b (24 + 4 * j) 4 }

/-- The bytes of each section in order: steps, handles, letterboxes, tile lists, patches (R320). -/
def ImageHdr.sections (h : ImageHdr) : List (Nat × Nat) :=
  List.zip h.offsets [h.steps * 128, h.handles * 24, h.boxes * 40, h.lists * 16, h.patches * 8]

/-- The entries of `count` of `size` bytes each from an offset of the image. -/
def entries {α : Type} (f : Bytes → α) (b : Bytes) (off size count : Nat) : List α :=
  (List.range count).map fun i => f (slice b (off + i * size) size)

/-- Bytes `[off, off + n)` of a record replaced (R323). -/
def patchBytes (b : Bytes) (off : Nat) (new : Bytes) : Bytes :=
  b.take off ++ new ++ b.drop (off + new.length)

/-- The fields of a step record that a patch may name, each with its width: tile list indices and handle offsets of a
layer step, scalars and handle offsets of a vector operation (R321 to R323). -/
def patchFields (kind : Nat) : List (Nat × Nat) :=
  match kind with
  | 1 => [(52, 2), (54, 2), (56, 2), (64, 4), (68, 4), (72, 4)]
  | 2 => [(14, 4), (20, 4), (26, 4), (32, 4)] ++ (List.range 10).map fun j => (36 + 4 * j, 4)
  | _ => []

/-- Whether a patch names nothing else: every byte it writes is of such a field that it writes whole (R323). -/
def patchAllowed (kind : Nat) (p : Patch) : Bool :=
  (p.width == 4 || p.width == 8) &&
  (List.range p.width).all fun i => (patchFields kind).any fun f =>
    f.1 ≤ p.offset + i && p.offset + i < f.1 + f.2 && p.offset ≤ f.1 && f.1 + f.2 ≤ p.offset + p.width

/-- The image's step records with the patches applied in entry order (R323). -/
def applyPatches (steps : List Bytes) (args : List Nat) : List Patch → Option (List Bytes)
  | [] => some steps
  | p :: ps =>
    match steps[p.step]? with
    | none => none
    | some rec =>
      if patchAllowed (leAt rec 0 1) p && p.arg ≤ 4 then
        applyPatches (steps.set p.step (patchBytes rec p.offset (leBytes p.width (args.getD p.arg 0)))) args ps
      else none

end Sys2Proof.Machine
end

