-- ==== Sys2Proof/Machine/Tiler.lean ====
section
/-! DEFINITION. The tiler and the escapement's count: shapes, shares, loop orders, work lists, the
worst-case cost of R245 and the counted time of R272
(R30, R33, R55, R133, R155, R161, R165, R167, R175, R236 to R247, R272, R497). -/

namespace Sys2Proof.Machine

/-- The resolved CONDITION of a layer step (Table 8-1). -/
inductive Condition where
  | none | postcard | forward
  deriving DecidableEq, Repr

/-- A loop order (Table 12-2). -/
inductive Order where
  | rows | columns | ksplit (parts : Nat)
  deriving DecidableEq, Repr

/-- No tensor, or no list (Table 15-9). -/
def noId : Nat := 0xFFFF

def LayerStep.isTable (l : LayerStep) : Bool := l.format == Format.table.code
def LayerStep.isLoose (l : LayerStep) : Bool := l.format == Format.loose.code
def LayerStep.isPair (l : LayerStep) : Bool := l.format == Format.pair.code

/-- The DENSE extent of R91: 256 inputs with 4-bit activations, 128 otherwise. -/
def LayerStep.denseExtent (l : LayerStep) : Nat := if l.actWidth = 4 then 256 else 128

/-- D, the inputs per lane (R237). -/
def LayerStep.inputs (l : LayerStep) : Nat :=
  if l.isTable then 512 else if l.isPair then 2 * l.denseExtent else l.denseExtent

/-- The contraction a resident tile (or residency) spans (R237, R250). -/
def LayerStep.tileK (l : LayerStep) : Nat := if l.isLoose then max l.extent 1 else l.inputs

/-- K and N padded, tiles per column and columns (R237, R250). -/
def LayerStep.kPadded (l : LayerStep) : Nat := roundUp l.k l.tileK
def LayerStep.kTiles (l : LayerStep) : Nat := ceilDiv l.k l.tileK
def LayerStep.columns (l : LayerStep) : Nat := ceilDiv l.n 128

/-- Position blocks, and the positions of block `j` (R237). -/
def LayerStep.blocks (l : LayerStep) : Nat := ceilDiv l.p 64
def LayerStep.positions (l : LayerStep) (j : Nat) : Nat := min 64 (l.p - 64 * j)

/-- Byte passes of an activation (R30, R35). -/
def LayerStep.passes (l : LayerStep) : Nat := if !l.isTable && l.actWidth = 16 then 2 else 1

/-- Slices a LOOSE tile's vector arrives in (R115). -/
def LayerStep.slices (l : LayerStep) : Nat := if l.isLoose then max 1 (l.tileK / l.denseExtent) else 1

/-- Worst-case steps per vector (R30, R53, R116). -/
def LayerStep.worstSteps (l : LayerStep) : Nat :=
  if l.isTable then l.actWidth else l.slices * worstDigits l.element * l.passes

/-- Worst-case steps per vector of a postcard phase (Table 8-2). -/
def LayerStep.postcardSteps (l : LayerStep) : Nat :=
  (if weightWidth l.element ≤ 8 then 2 else 4) * l.passes

/-- The run length L (R55, R133). -/
def LayerStep.runLength (l : LayerStep) : Nat :=
  let v :=
    if l.isTable then 128 * 127 * (2 ^ l.actWidth - 1)
    else
      let w := if isBell l.element then 120
        else if weightWidth l.element ≤ 8 then 2 ^ (weightWidth l.element - 1) else 170
      let a := if l.actWidth = 4 then 16 else if l.actWidth = 8 then 128 else 255
      128 * w * a
  2 ^ 23 / v

/-- The promotion shift of a run register (chunk, pass) (Table 7-1). -/
def promotionShift (chunk pass : Nat) : Nat := 8 * chunk + 8 * pass

/-- The run registers a layer step uses, in the order of Table 7-1. -/
def LayerStep.registers (l : LayerStep) : List (Nat × Nat) :=
  let wide := !l.isTable && !isBell l.element && 8 < weightWidth l.element
  let chunks := if wide then [0, 1] else [0]
  (List.range l.passes).flatMap fun p => chunks.map fun c => (c, p)

/-- The precision descriptor of an accumulation group, its DRAIN left to the step that closes it (Table 7-3). -/
structure Precision where
  table : Bool
  bell : Bool
  weights : Nat
  acts : Nat
  actSigned : Bool
  registers : Nat
  run : Nat
  deriving DecidableEq, Repr

/-- The descriptor a layer step gives its group; ACT_SIGNED is 1 in digit mode (Table 7-3). -/
def LayerStep.precision (l : LayerStep) : Precision :=
  { table := l.isTable, bell := isBell l.element, weights := weightWidth l.element, acts := l.actWidth
    actSigned := !l.isTable || l.actSigned, registers := l.registers.length, run := l.runLength }

/-- Bytes of one stream vector (Table 2-4, R52). -/
def LayerStep.vectorBytes (l : LayerStep) : Nat :=
  if l.isTable then (if l.actWidth ≤ 4 then 256 else 512)
  else l.inputs * l.actWidth / 8

/-- The drain's container bits: raw totals of 32 bits, or the target's. -/
def LayerStep.outBits (l : LayerStep) : Nat :=
  if l.raw then 32 else match Target.ofCode l.target with
    | some t => t.bits
    | none => 32

/-- The conversion's qmax: NARROW, or the target's full range (R64). -/
def LayerStep.qmax (l : LayerStep) : Nat :=
  match Target.ofCode l.target with
  | some t => if l.narrow = 0 then t.qmax else l.narrow
  | none => 0

/-- CONDITION resolved at load from the cascade size (Table 8-1); exact mode runs POSTCARD and AUTO
steps as NONE (Table 8-5). -/
def LayerStep.resolve (l : LayerStep) (cascade : Nat) (exact : Bool) : Condition :=
  match l.condition with
  | 3 => .forward
  | 2 => if exact then .none else .postcard
  | 1 =>
    if exact then .none
    else if 16 ≤ cascade ∧ l.predA ≠ noId ∧ l.predB ≠ noId then .forward
    else if l.thresholdUnit ≠ 0 then .postcard else .none
  | _ => .none

/-- The share of one core in a layer step: its blocks and its columns, contiguous (R244). -/
structure Share where
  block0 : Nat
  blocks : Nat
  col0 : Nat
  cols : Nat
  deriving DecidableEq, Repr

/-- Unit range `i` of `n` units over `m` takers, the lowest-numbered one larger (R244). -/
def evenRange (n m i : Nat) : Nat × Nat :=
  let q := n / m
  let r := n % m
  (i * q + min i r, if i < r then q + 1 else q)

/-- The share of a core (R244); empty where CORES does not name it. -/
def LayerStep.share (l : LayerStep) (core : Nat) : Share :=
  let cs := bitsOf 6 l.cores
  if !cs.contains core then { block0 := 0, blocks := 0, col0 := 0, cols := 0 }
  else
    let i := cs.idxOf core
    if cs.length ≤ l.blocks then
      let (b, n) := evenRange l.blocks cs.length i
      { block0 := b, blocks := n, col0 := 0, cols := l.columns }
    else
      let (c, n) := evenRange l.columns cs.length i
      { block0 := 0, blocks := l.blocks, col0 := c, cols := n }

/-- The busiest core's share: the lowest-numbered core has the largest (R244). -/
def LayerStep.busiest (l : LayerStep) : Share := l.share ((bitsOf 6 l.cores).headD 0)

/-- Groups of bands under COLUMNS and KSPLIT: g of Table 12-2. -/
def bandGroups (s : Share) : Nat := 12 / max s.blocks 1

/-- Rounds of the bands (Table 12-2). -/
def rounds (o : Order) (s : Share) : Nat :=
  match o with
  | .rows => ceilDiv s.blocks 12
  | _ => 1

/-- The position block of a band in a round; none where it has none (Table 12-2, R242). -/
def bandBlock (o : Order) (s : Share) (band round : Nat) : Option Nat :=
  match o with
  | .rows => let j := 12 * round + band; if j < s.blocks then some (s.block0 + j) else none
  | _ =>
    if s.blocks ≠ 0 ∧ band < s.blocks * bandGroups s ∧ round = 0 then some (s.block0 + band % s.blocks)
    else none

/-- A work item: an output column and a K part, the whole K being part 0 of one. -/
structure Item where
  column : Nat
  part : Nat
  deriving DecidableEq, Repr

/-- The work list of a band (Table 12-2). -/
def bandItems (o : Order) (s : Share) (band : Nat) : List Item :=
  let cols := (List.range s.cols).map (s.col0 + ·)
  let mine := cols.filter fun n => (n - s.col0) % max (bandGroups s) 1 = band / max s.blocks 1
  match o with
  | .rows => cols.map fun n => { column := n, part := 0 }
  | .columns => mine.map fun n => { column := n, part := 0 }
  | .ksplit parts => mine.flatMap fun n => (List.range parts).map fun q => { column := n, part := q }

/-- The K tiles of a part, first and count (Table 12-2). -/
def partTiles (o : Order) (t part : Nat) : Nat × Nat :=
  match o with
  | .ksplit parts =>
    let len := ceilDiv t parts
    (part * len, min len (t - part * len))
  | _ => (0, t)

/-- What a cost count rests on: rounds, items of the busiest band, its busy arrays, its last sweep's
columns, and K tiles per item. -/
structure Busy where
  rounds : Nat
  items : Nat
  arrays : Nat
  last : Nat
  tiles : Nat
  deriving DecidableEq, Repr

def busyOf (o : Order) (s : Share) (t : Nat) : Busy :=
  let items := match o with
    | .rows => s.cols
    | .columns => ceilDiv s.cols (max (bandGroups s) 1)
    | .ksplit parts => ceilDiv s.cols (max (bandGroups s) 1) * parts
  { rounds := rounds o s, items := items, arrays := min 8 items,
    last := items - 8 * (ceilDiv items 8 - 1), tiles := (partTiles o t 0).2 }

/-- Bytes of one resident tile at the DENSE size or its format's worst case (Table 5-2, R98). -/
def LayerStep.tileBytes (l : LayerStep) : Nat :=
  let b := elementBits l.element
  64 + (if l.isTable then 57344
    else if l.isPair then 128 * (l.tileK / 4) * 2 * b / 8 + 128 * (l.tileK / 4) / 2
    else 128 * l.tileK * b / 8)

/-- Tiles of one K tile: two per residency in table mode. -/
def LayerStep.tilesPerK (l : LayerStep) : Nat := if l.isTable then 2 else 1

/-- Positions that bound a block: 64 where there is more than one block (R245). -/
def LayerStep.blockPositions (l : LayerStep) : Nat := if 1 < l.blocks then 64 else l.p

/-- The time of one tile for `s` steps per vector (R240). -/
def LayerStep.tileTime (l : LayerStep) (s : Nat) : Nat :=
  if l.isTable then l.blockPositions * l.actWidth + 16 else max 64 (l.blockPositions * s)

/-- One sweep: fill or drain, whichever is longer (R144, R245). -/
def LayerStep.sweep (l : LayerStep) (b : Busy) (s : Nat) : Nat :=
  max (b.tiles * l.tileTime s) (b.arrays * l.blockPositions)

/-- Output vectors of 256 elements a core's share gives (R243, R245). -/
def LayerStep.vectorsOut (l : LayerStep) (s : Share) : Nat :=
  let positions := min l.p (64 * (s.block0 + s.blocks)) - 64 * s.block0
  ceilDiv (positions * s.cols * 128) 256

/-- Steps per vector of an activation when the vector unit applies it (Table 9-1, R245). -/
def activationSteps (a : Nat) : Nat := if a = 0 then 0 else if a ≤ 2 then 1 else 4

/-- Steps of a KSPLIT layer step's finishing work (R243, R245). -/
def LayerStep.finishSteps (l : LayerStep) (o : Order) (s : Share) : Nat :=
  match o with
  | .ksplit parts => l.vectorsOut s * (parts - 1 + 3 + activationSteps l.activation)
  | _ => 0

/-- Steps of one candidate order without its drain tail (R245). -/
def LayerStep.orderSteps (l : LayerStep) (o : Order) (s : Share) : Nat :=
  let b := busyOf o s l.kTiles
  64 + b.rounds * ceilDiv b.items 8 * l.sweep b l.worstSteps + 9 + l.finishSteps o s

/-- The drain tail (R145); a scatter step has none (R129). -/
def LayerStep.tail (l : LayerStep) (o : Order) (s : Share) : Nat :=
  if l.transposed then 0 else (busyOf o s l.kTiles).last * l.blockPositions + 12

/-- Resident bytes a core fetches: once per round in ROWS, once per block otherwise (R242). -/
def LayerStep.residentBytes (l : LayerStep) (o : Order) (s : Share) : Nat :=
  let once := s.cols * l.kTiles * l.tilesPerK * l.tileBytes
  match o with
  | .rows => rounds o s * once
  | _ => s.blocks * once

/-! ### Tensors and tiles of a layer step -/

/-- Whether a layer step drains output tiles (R139, R141, R153). -/
def LayerStep.drains (l : LayerStep) : Bool := !l.transposed && !l.leavesOpen && !l.noWrite

/-- Whether a layer step converts its output tensor. -/
def LayerStep.converts (l : LayerStep) : Bool := l.drains && !l.raw && l.output != noId

/-- Bytes of one output row, and of one output tile with its flags where raw (R90, R150, R151). -/
def LayerStep.outRowBytes (l : LayerStep) : Nat := 128 * l.outBits / 8
def LayerStep.outTileBytes (l : LayerStep) (block : Nat) : Nat :=
  64 + roundUp (l.positions block * l.outRowBytes + 128 * bit l.raw) 64

/-- Bytes of one reduction record tile (R153; log entry 25). -/
def tapTileBytes : Nat := 576

/-- Bytes of the tiles of some blocks. -/
def LayerStep.blockBytes (l : LayerStep) (bs : List Nat) : Nat := (bs.map l.outTileBytes).sum

/-- The position blocks of a share, and their positions. -/
def Share.blockList (s : Share) : List Nat := (List.range s.blocks).map (s.block0 + ·)
def LayerStep.sharePositions (l : LayerStep) (s : Share) : Nat := (s.blockList.map l.positions).sum
def LayerStep.ownPositions (l : LayerStep) (core : Nat) : Nat := l.sharePositions (l.share core)

/-- Bytes of the output tiles of a share. -/
def LayerStep.outBytes (l : LayerStep) (s : Share) : Nat := s.cols * l.blockBytes s.blockList

/-- Bytes of one neuron tile of a forwarded layer step (R164). -/
def LayerStep.neuronBytes (l : LayerStep) (down : Bool) : Nat :=
  64 + roundUp (rowBytes (if down then l.n else l.k) (elementBits l.element)) 64

/-- The width of an activation's container (R52, Table 2-4). -/
def LayerStep.streamBits (l : LayerStep) : Nat :=
  if l.isTable then (if l.actWidth ≤ 4 then 4 else 8) else l.actWidth

/-- The length of the streamed tensor's rows, and of one stream vector: the columns of one K tile, or the
whole row of a transposed step (R39, R118). -/
def LayerStep.streamLength (l : LayerStep) : Nat := if l.transposed then l.n else l.k
def LayerStep.vectorLength (l : LayerStep) : Nat := if l.transposed then 128 * l.columns else l.tileK

/-- The layer steps of a route with the step index of each. -/
def layersOf (steps : List RouteStep) : List (Nat × LayerStep) :=
  (List.range steps.length).filterMap fun i =>
    match steps[i]? with
    | some (RouteStep.layer l) => some (i, l)
    | _ => none

/-- The earlier layer step of a run that wrote the streamed tensor. -/
def earlierWriter (steps : List RouteStep) (i : Nat) (l : LayerStep) : Option LayerStep :=
  if l.streamed = noId then none
  else (((layersOf steps).filter fun e =>
    e.1 < i && e.2.output == l.streamed && e.2.drains).getLast?).map (·.2)

/-- Whether step `i` is the down-projection of a forwarded block: its input is what an earlier FORWARD
step wrote (R163; log entry 15). -/
def isDown (steps : List RouteStep) (cascade : Nat) (exact : Bool) (i : Nat) (l : LayerStep) : Bool :=
  l.resolve cascade exact == .forward &&
  (layersOf steps).any fun e => e.1 < i && e.2.resolve cascade exact == .forward && e.2.output == l.streamed

/-! ### How a loaded layer step runs -/

/-- How a loaded layer step runs, as far as its count asks: the resolved condition, exact mode, whether it is
a forwarded block's down-projection, and the tiles of its streamed operand that are fetched back from device
memory, in bytes (R155, R163, R166, R247). -/
structure StepForm where
  cond : Condition
  exact : Bool
  down : Bool
  fetchedBack : Nat
  deriving DecidableEq, Repr

/-- The form of step `i` of a route. -/
def formOf (steps : List RouteStep) (cascade : Nat) (exact : Bool) (i : Nat) (l : LayerStep) : StepForm :=
  { cond := l.resolve cascade exact, exact := exact, down := isDown steps cascade exact i l
    fetchedBack := match earlierWriter steps i l with
      | some q => if q.outputList = noId then 0 else q.columns * q.blockBytes (List.range q.blocks)
      | none => 0 }

/-- The step a FORWARD layer step is counted as: min(N, P × F) neurons in place of all (R165, R167).
`down` tells the down-projection, whose contraction runs over the neurons. -/
def LayerStep.forwarded (l : LayerStep) (down exact : Bool) : LayerStep :=
  if exact then l
  else if down then { l with k := min l.k (l.p * l.f) } else { l with n := min l.n (l.p * l.f) }

/-- The step whose shape is counted. -/
def LayerStep.counted (l : LayerStep) (f : StepForm) : LayerStep :=
  if f.cond = .forward then l.forwarded f.down f.exact else l

/-- Passes of the sorting frame over n records (R125). -/
def mergePasses (n : Nat) : Nat := max 1 (ceilDiv (ceilLog2 n) 4)

/-- Record capacity of a sack of `mib` MiB (R124). -/
def sackCapacity (sorting : Bool) (mib : Nat) : Nat := mib * 2 ^ 20 / (if sorting then 16 else 8)

/-- Merge steps of a scatter group at its worst (R129). -/
def mergeSteps (sorting : Bool) (mib : Nat) : Nat :=
  let n := sackCapacity sorting mib + (if sorting then 0 else 65536)
  n * mergePasses n

/-- The steps of a layer step on one share, its drain tail excluded (R129, R161, R165, R245). `m` is the step
counted. -/
def LayerStep.workSteps (m : LayerStep) (f : StepForm) (o : Order) (s : Share) : Nat :=
  if m.transposed then
    64 + ceilDiv (s.cols * m.kTiles * 128 * 127 * m.sharePositions s) 16 +
      mergeSteps (f.exact || m.scatterFp) m.sackMib + 9
  else if f.cond = .postcard then
    let b := busyOf o s m.kTiles
    let sweeps := b.rounds * ceilDiv b.items 8
    64 + (sweeps * m.sweep b m.postcardSteps + 9 + b.last * m.blockPositions) +
      sweeps * m.sweep b m.worstSteps + 9 + m.finishSteps o s
  else m.orderSteps o s

/-- The resident bytes of a layer step on one share: those of both phases, or whole neuron tiles (R161,
R165). -/
def LayerStep.fetchBytes (m : LayerStep) (f : StepForm) (o : Order) (s : Share) : Nat :=
  if m.transposed then s.cols * m.kTiles * m.tileBytes
  else match f.cond with
    | .postcard => 2 * m.residentBytes o s
    | .forward => (if f.down then m.k else m.n) * m.neuronBytes f.down
    | .none => m.residentBytes o s

/-- The device-memory bytes of a layer step on one share: what it fetches, a bias value of 4 bytes per padded
row with a header per column, output tiles written to device memory, and streamed tiles fetched back from
it (R247, R272). -/
def LayerStep.workBytes (m : LayerStep) (f : StepForm) (o : Order) (s : Share) : Nat :=
  m.fetchBytes f o s + (if m.biasList = noId then 0 else m.columns * 576) +
  (if m.drains && m.outputList != noId then m.outBytes s else 0) + f.fetchedBack

/-- The cost of a candidate: steps against memory time (R245). -/
def LayerStep.cost (l : LayerStep) (f : StepForm) (o : Order) : Nat :=
  let m := l.counted f
  max (m.workSteps f o m.busiest + m.tail o m.busiest) (ceilDiv (m.workBytes f o m.busiest) 800)

/-- Whether the loader would refuse an order of a layer step whatever the steps around it (R241, R243).
Every part of a KSPLIT step is a group of its own that the step drains, so the step neither continues a group
nor leaves one open (log entry 63). -/
def LayerStep.orderAllowed (l : LayerStep) (o : Order) : Bool :=
  let few := (bitsOf 6 l.cores).all fun c => (l.share c).blocks ≤ 12
  match o with
  | .rows => true
  | .columns => few
  | .ksplit parts =>
    few && l.scaleStage && l.tap == 0 && !l.continues && !l.leavesOpen && 2 ≤ parts && parts ≤ 8 && parts ≤ l.kTiles &&
    (parts - 1) * ceilDiv l.kTiles parts < l.kTiles

/-- The loop order a record pins; one set to AUTO is tiled before it is looked at (R236). -/
def LayerStep.loopOrder (l : LayerStep) : Order :=
  match l.order with
  | 2 => .columns
  | 3 => .ksplit l.kparts
  | _ => .rows

/-- A layer step with a loop order pinned. -/
def LayerStep.pin (l : LayerStep) : Order → LayerStep
  | .rows => { l with order := 1 }
  | .columns => { l with order := 2 }
  | .ksplit parts => { l with order := 3, kparts := parts }

/-- K parts of an item list. -/
def Order.parts : Order → Nat
  | .ksplit n => n
  | _ => 1

/-! ### Accumulation groups in the static schedule -/

/-- An accumulation group open on a core after some step of the schedule: its label, its descriptor, the loop
order of the step that opened it, and the columns it leaves in the busiest array (R138 to R141). -/
structure OpenGroup where
  label : Nat
  precision : Precision
  order : Order
  parked : Nat
  deriving DecidableEq, Repr

/-- Columns that a share gives its busiest array. -/
def LayerStep.columnsPerArray (l : LayerStep) (o : Order) (core : Nat) : Nat :=
  let b := busyOf o (l.share core) l.kTiles
  b.rounds * ceilDiv b.items 8

/-- The group a layer step opens on a core. -/
def LayerStep.newGroup (l : LayerStep) (o : Order) (core : Nat) : OpenGroup :=
  { label := l.group, precision := l.precision, order := o, parked := l.columnsPerArray o core }

/-- The groups open on a core while a layer step runs, its own first. -/
def LayerStep.openGroups (l : LayerStep) (o : Order) (core : Nat) (gs : List OpenGroup) : List OpenGroup :=
  ((gs.find? fun g => l.continues && g.label == l.group).getD (l.newGroup o core)) :: gs.filter fun g => g.label != l.group

/-- The groups open on a core after a layer step; a transposed step uses no accumulator slot (R119). -/
def LayerStep.groupsAfter (l : LayerStep) (o : Order) (core : Nat) (gs : List OpenGroup) : List OpenGroup :=
  if !bitOf l.cores core || l.transposed then gs
  else if l.leavesOpen then l.openGroups o core gs else gs.filter fun g => g.label != l.group

/-- Whether a core has room for the groups of a layer step: each part of a KSPLIT step is a group, a group parks
at most one slot in an array, and an array holds at most two parked slots (R138, R139, R140, R243). -/
def LayerStep.groupsFit (l : LayerStep) (o : Order) (core : Nat) (gs : List OpenGroup) : Bool :=
  !bitOf l.cores core || l.transposed ||
  ((l.openGroups o core gs).length + o.parts ≤ 9 &&
   (l.groupsAfter o core gs).all (fun g => g.parked ≤ 1) && ((l.groupsAfter o core gs).map (·.parked)).sum ≤ 2)

/-- Whether a layer step that continues groups takes up their columns where its order finds them. -/
def LayerStep.resumes (l : LayerStep) (o : Order) (gs : List OpenGroup) : Bool :=
  !l.continues || gs.all fun g => g.label != l.group || g.order == o

/-! ### Choosing the order -/

/-- The cheaper of two candidates; a tie goes to fewer bytes, then to the earlier one (R245). -/
def cheaper (l : LayerStep) (f : StepForm) (a b : Order) : Order :=
  let m := l.counted f
  if l.cost f b < l.cost f a then b
  else if l.cost f b = l.cost f a ∧ m.workBytes f b m.busiest < m.workBytes f a m.busiest then b else a

/-- The candidates of R245 in order of preference on ties of cost and bytes. -/
def candidates (l : LayerStep) (f : StepForm) : List Order :=
  ([Order.rows, .columns] ++ (List.range 7).map fun i => Order.ksplit (i + 2)).filter fun o =>
    l.orderAllowed o && (l.counted f).orderAllowed o

/-- The tiler's choice: the cheapest candidate that the open groups of the cores leave room for; where none of
them does, the cheapest of all, which check 7 of Table 12-4 then refuses (R140, R245). -/
def LayerStep.choose (l : LayerStep) (f : StepForm) (groups : Nat → List OpenGroup) : Order :=
  let all := candidates l f
  let fit := all.filter fun o => (bitsOf 6 l.cores).all fun c =>
    l.groupsFit o c (groups c) && l.resumes o (groups c)
  (if fit.isEmpty then all else fit).tail.foldl (cheaper l f) ((if fit.isEmpty then all else fit).headD .rows)

/-- A layer step whose ORDER is AUTO with the tiler's choice pinned (R236, R245). -/
def LayerStep.tiled (l : LayerStep) (f : StepForm) (groups : Nat → List OpenGroup) : LayerStep :=
  if l.order = 0 ∧ l.kparts = 0 then l.pin (l.choose f groups) else l

/-- The steps of a route tiled from the first to the last: each choice rests on the groups that the earlier
steps leave open (R238, R245). -/
def tileFrom (form : Nat → LayerStep → StepForm) :
    Nat → (Nat → List OpenGroup) → List (Option RouteStep) → List (Option RouteStep)
  | _, _, [] => []
  | i, groups, some (.layer l) :: rest =>
    let l := l.tiled (form i l) groups
    some (.layer l) :: tileFrom form (i + 1) (fun c => l.groupsAfter l.loopOrder c (groups c)) rest
  | i, groups, st :: rest => st :: tileFrom form (i + 1) groups rest

/-- A route tiled (R236, R238). A step of an unknown KIND stands in for none. -/
def tileRoute (cascade : Nat) (exact : Bool) (steps : List (Option RouteStep)) : List (Option RouteStep) :=
  let known := steps.map fun st => st.getD (.order 0 0)
  tileFrom (formOf known cascade exact) 0 (fun _ => []) steps

def tileSteps (cascade : Nat) (exact : Bool) (steps : List RouteStep) : List RouteStep :=
  (tileRoute cascade exact (steps.map some)).filterMap id

/-! ### Counting -/

/-- The counted steps, device-memory bytes and scratchpad lines of a route step on one core (R272). -/
structure Work where
  steps : Nat
  bytes : Nat
  lines : Nat
  deriving DecidableEq, Repr

def Work.zero : Work := { steps := 0, bytes := 0, lines := 0 }
def Work.twice (w : Work) : Work := { w with steps := 2 * w.steps, bytes := 2 * w.bytes }

/-- Steps per vector of a vector operation (Table 9-1). -/
def VecOp.rate (exact : Bool) : VecOp → Nat
  | .div | .sqrt | .rsqrt | .recip | .exp2 | .log2 | .sgdStep | .gelu | .silu => 4
  | .lse => if exact then 24 else 1
  | .softmax => if exact then 30 else 7
  | .rmsnorm => 3
  | .layernorm => 5
  | .adamStep => 19
  | .scatterAdd => 16
  | _ => 1

/-- Tail steps of a vector operation over V vectors (Table 9-1). -/
def VecOp.tail (exact : Bool) (v : Nat) : VecOp → Nat
  | .sum | .sumsq | .maxi | .mini => 8 + ceilLog2 v
  | .lse | .softmax => if exact then 40 else 8 + ceilLog2 v
  | .rmsnorm => 13 + ceilLog2 v
  | .layernorm => 21 + 2 * ceilLog2 v
  | _ => 0

/-- Bytes an operand of `n` values takes in its handle. -/
def Operand.bytes (o : Operand) (n : Nat) : Nat := rowBytes n (elementBits o.element)

/-- The operands an operation reads from handles: each with its bytes, and whether the read is linear (R171,
R183 to R185, R322, R501). -/
def VectorStep.reads (v : VectorStep) : List (Operand × Nat × Bool) :=
  let n := v.elements * v.rows
  let one (o : Operand) (n : Nat) : List (Operand × Nat × Bool) :=
    if 0x40 ≤ o.element ∧ o.element ≤ 0x49 then []
    else if o.element = 0x4A then [(o, 4, false)] else [(o, o.bytes n, true)]
  match v.op with
  | .rmsnorm | .layernorm => one v.a n ++ one v.b v.elements ++ one v.c v.elements
  | .sgdStep => one v.a n ++ one v.c n ++ one v.r n
  | .adamStep => one v.a n ++ one v.b n ++ one v.c n ++ one v.r n
  | .scaleUpdate => (v.a, 16 * n, true) :: one v.b n
  | .scatterAdd => one v.a n ++ [(v.b, 4 * v.rows, true)]
  | .fma | .select => one v.a n ++ one v.b n ++ one v.c n
  | .add | .sub | .mul | .min | .max | .cmp | .div | .gradAdd => one v.a n ++ one v.b n
  | _ => one v.a n

/-- The operands an operation writes, each with its bytes (R183 to R185, R501). -/
def VectorStep.results (v : VectorStep) : List (Operand × Nat) :=
  let n := v.elements * v.rows
  match v.op with
  | .sum | .sumsq | .lse => [(v.r, 4 * v.rows)]
  | .maxi | .mini => [(v.r, 8 * v.rows)]
  | .scaleUpdate => [(v.r, 16 * n)]
  | .scatterAdd => [(v.r, 4 * (leAt v.tail 4 4 * v.elements))]
  | .sgdStep => [(v.r, v.r.bytes n), (v.c, v.c.bytes n)]
  | .adamStep => [(v.r, v.r.bytes n), (v.c, v.c.bytes n), (v.b, v.b.bytes n)]
  | _ => [(v.r, v.r.bytes n)]

/-- Lines of the operands a vector operation reads and of its results; a broadcast scalar counts none
(R497). -/
def VectorStep.lines (v : VectorStep) : Nat :=
  ((v.reads.filter (·.2.2)).map fun r => ceilDiv r.2.1 64).sum + (v.results.map fun r => ceilDiv r.2 64).sum

/-- The work of a vector operation (R175, R185, R497). SACK_MIB of 0 means 4. -/
def VectorStep.work (exactMode : Bool) (v : VectorStep) : Work :=
  let exact := exactMode || v.exactLse
  let per := ceilDiv v.elements 256
  let mib := if field (leAt v.tail 2 1) 5 0 = 0 then 4 else field (leAt v.tail 2 1) 5 0
  let merge := if v.op = .scatterAdd then mergeSteps (exactMode || !v.isInt) mib else 0
  { steps := v.rows * (per * v.op.rate exact + v.op.tail exact per) + merge, bytes := 0, lines := v.lines }

/-- Lines of the streamed operand: once per sweep for each band that runs it (R39, R497). -/
def LayerStep.streamLines (m : LayerStep) (o : Order) (s : Share) : Nat :=
  let vector := ceilDiv (m.vectorLength * m.streamBits) 512
  ((List.range (rounds o s)).flatMap fun r => (List.range 12).map fun b =>
    match bandBlock o s b r with
    | some j => ceilDiv (bandItems o s b).length 8 * m.kTiles * m.positions j * vector
    | none => 0).sum

/-- Lines the drain channels write: output tiles or raw parts and the tiles built of them, and reduction
records (R143, R153, R243, R497). A part is read once by the vector unit that adds it. -/
def LayerStep.drainLines (m : LayerStep) (o : Order) (s : Share) : Nat :=
  if m.transposed || m.leavesOpen then 0
  else
    let parts := match o with
      | .ksplit n => 2 * n * 8 * s.cols * m.sharePositions s
      | _ => 0
    parts + (if m.drains then m.outBytes s / 64 else 0) +
      if m.tap = 0 ∨ m.raw then 0 else s.blocks * (tapTileBytes / 64)

/-- Lines of the recoder's reads of a gather buffer: a row of each of a lane's inputs for an up-projection,
transposed rows for a down-projection, for every residency loaded (R164, R497). -/
def LayerStep.gatherLines (m : LayerStep) (f : StepForm) (o : Order) (s : Share) : Nat :=
  if f.cond ≠ .forward then 0
  else
    let loads := (match o with | .rows => rounds o s | _ => s.blocks) * s.cols * m.kTiles
    let w := elementBits m.element
    loads * if f.down then m.tileK * ceilDiv (128 * w) 512 else 128 * ceilDiv (m.tileK * w) 512

/-- Lines of the memory transfers of a layer step: neuron tiles into the gather buffer, output tiles out to
device memory, and streamed tiles back from it (R164, R247, R497). -/
def LayerStep.transferLines (m : LayerStep) (f : StepForm) (o : Order) (s : Share) : Nat :=
  ((if f.cond = .forward then m.fetchBytes f o s else 0) + f.fetchedBack +
    if m.drains && m.outputList != noId then m.outBytes s else 0) / 64

/-- The scratchpad lines of a layer step on one share (R497); a POSTCARD step streams its operand in both
phases. -/
def LayerStep.lines (m : LayerStep) (f : StepForm) (o : Order) (s : Share) : Nat :=
  (if f.cond = .postcard then 2 else 1) * m.streamLines o s + m.drainLines o s + m.gatherLines f o s +
    m.transferLines f o s

/-- The work of a layer step on a core (Table 13-3), drain tail excluded. -/
def LayerStep.work (l : LayerStep) (f : StepForm) (replay : Bool) (core : Nat) : Work :=
  let m := l.counted f
  let o := m.loopOrder
  let s := m.share core
  let base : Work :=
    if s.blocks = 0 ∨ s.cols = 0 then Work.zero
    else { steps := m.workSteps f o s, bytes := m.workBytes f o s, lines := m.lines f o s }
  if replay then base.twice else base

/-- Steps of the list builder for the N and F of a forwarded block over `p` positions (R163). -/
def listSteps (n f p : Nat) : Nat := p * (ceilDiv n 128 + ceilDiv f 32)

/-- Floor pace of a knob setting in Mst/s, and worst-case power in W (Table 13-1). -/
def floorPace (setting : Nat) : Nat := [950, 1350, 1700, 1950].getD setting 1950
def worstPower (setting : Nat) : Nat := [470, 620, 860, 1100].getD setting 1100

/-- The highest setting whose worst-case power the cap allows; 0 where none does (R262). -/
def capSetting (cap : Nat) : Nat :=
  if 1100 ≤ cap then 3 else if 860 ≤ cap then 2 else if 620 ≤ cap then 1 else 0

/-- The time of work in units of 1 / (102,400 f) ns: the largest of R272's three terms. -/
def Work.time (f : Nat) (w : Work) : Nat :=
  max (w.steps * 102400000) (max (w.bytes * 64 * f) (w.lines * 1600000))

/-- A time in those units with the factor 1 + 2^−12, rounded up to whole nanoseconds (R272). -/
def countedNs (f units : Nat) : Nat := ceilDiv (units * 4097) (4096 * 102400 * f)

/-! ### The admission test -/

/-- An admitted or candidate stream: period, deadline and counted time. -/
structure Load where
  t : Nat
  d : Nat
  c : Nat
  deriving DecidableEq, Repr

/-- A non-negative rational, for the sums of R277. -/
structure Ratio where
  num : Nat
  den : Nat
  deriving DecidableEq, Repr

def Ratio.add (a b : Ratio) : Ratio := { num := a.num * b.den + b.num * a.den, den := a.den * b.den }

/-- U, the sum of C / T (R277). -/
def utilisation (ls : List Load) : Ratio :=
  ls.foldl (fun u l => u.add { num := l.c, den := max l.t 1 }) { num := 0, den := 1 }

/-- Demand of the streams up to time t, deadlines at or before t (R277). -/
def demand (ls : List Load) (t : Nat) : Nat :=
  ls.foldl (fun s l => if l.d ≤ t then s + ((t - l.d) / max l.t 1 + 1) * l.c else s) 0

/-- Every test point `d + n t` at or below the limit. -/
def testPoints (l : Load) (limit : Nat) : List Nat :=
  if limit < l.d then [] else (List.range ((limit - l.d) / max l.t 1 + 1)).map fun n => l.d + n * l.t

/-- The admission test of one core: its streams and the blocking B (R277). -/
def admits (ls : List Load) (b : Nat) : Bool :=
  let u := utilisation ls
  if 90 * u.den < 100 * u.num then false
  else
    let w := ls.foldl (fun (a : Ratio) l => a.add { num := (l.t - l.d) * l.c, den := max l.t 1 })
      { num := b + 200000, den := 1 }
    -- 0.98 − U over the common denominator 100 u.den
    let gap := 98 * u.den - 100 * u.num
    let bound := w.num * (100 * u.den) / (w.den * max gap 1)
    let limit := max (ls.foldl (fun m l => max m l.d) 0) bound
    ls.all fun l => (testPoints l limit).all fun t =>
      demand ls t + b + (t / 10000000 + 1) * 200000 ≤ t

end Sys2Proof.Machine
end

