-- ==== Sys2Proof/Machine/CoreState.lean ====
section
/-! DEFINITION. The state of a core: scratchpad, letterboxes, digit arrays, accumulators, pigeonholes,
sorting frame and the route step it runs (R21, R22, R121, R137, R187 to R209). Plain data only. -/

namespace Sys2Proof.Machine

/-! ### Scratchpad and letterboxes -/

/-- Power of a scratchpad bank (R206 to R208). -/
inductive BankPower where
  | off | on | draining | rising
  deriving DecidableEq, Repr

/-- STATE of a letterbox (Table 10-5). -/
inductive BoxState where
  | closed | opened | closing
  deriving DecidableEq, Repr

/-- A letterbox record (Table 10-5) with its accepted count and its discards by DETAIL 1 to 4
(R200 to R203). `stream` is the context whose frame letterbox it is. -/
structure Letterbox where
  shape : BoxShape
  state : BoxState
  delivery : Nat
  consumed : Nat
  accepted : Nat
  discards : List Nat
  stream : Option Nat
  deriving DecidableEq, Repr

/-- Where the outcome of a letterbox write is told (R201). -/
inductive Teller where
  /-- Another core's command of this device (class 1). -/
  | command (run : Nat)
  /-- The stream engine, for a context and frame (class 2). -/
  | stream (ctx : Nat)
  /-- A parcel receive channel (class 3). -/
  | parcel (channel : Nat)
  /-- A core of a peer device, answered by LB_ACK with the write's letterbox and postmark (class 4). -/
  | peer (device core box postmark : Nat)
  deriving DecidableEq, Repr

/-- The header and bytes of an arriving letterbox write (R200, R257). -/
structure BoxWrite where
  sender : Nat
  box : Nat
  offset : Nat
  data : Bytes
  postmark : Option Nat
  teller : Teller
  deriving DecidableEq, Repr

/-- An accepted write on its way: lines still to land (R203, R205). -/
structure Landing where
  id : Nat
  box : Nat
  linesLeft : Nat
  teller : Teller
  deriving DecidableEq, Repr

/-- One line access waiting at a bank (R194): class 1 to 5, requester, the row, the byte mask as
(offset, bytes) and the landing it belongs to. Only a letterbox write brings bytes and a landing: another
engine's access waits for its turn alone (log entry 67). -/
structure BankReq where
  bank : Nat
  cls : Nat
  requester : Nat
  row : Nat
  offset : Nat
  data : Bytes
  landing : Option Nat
  deriving DecidableEq, Repr

/-! ### Digit arrays -/

/-- One processing element's register: up to two weights as digits, their window index (PAIR) or
column (LOOSE), or one stored table (R22, R36, R51, R115). -/
structure Pe where
  w0 : List Digit
  w1 : List Digit
  i0 : Nat
  i1 : Nat
  table : List Int
  deriving DecidableEq, Repr

def Pe.empty : Pe := { w0 := [], w1 := [], i0 := 0, i1 := 0, table := [] }

/-- The registers of a lane loaded from one K tile of the array's column `ordinal` (R37). -/
structure LaneReg where
  ordinal : Nat
  tile : Nat
  pes : List Pe
  deriving DecidableEq, Repr

/-- A lane: its registers, how many fed vectors of the column it has consumed, how many of the active
tile, the steps done of the present vector, its run registers keyed by position × 4 + chunk + 2 × pass,
and the positions whose runs have ended and wait for promotion (R22, R38, R131, R134). -/
structure Lane where
  active : Option LaneReg
  shadow : Option LaneReg
  taken : Nat
  seen : Nat
  stepNo : Nat
  runs : Table Int
  due : List Nat
  deriving DecidableEq, Repr

def Lane.idle : Lane :=
  { active := none, shadow := none, taken := 0, seen := 0, stepNo := 0, runs := [], due := [] }

/-- One activation vector of a band's stream (R39): sweep, K tile, position in the block, values. -/
structure StreamVec where
  sweep : Nat
  tile : Nat
  pos : Nat
  values : List Int
  deriving DecidableEq, Repr

/-- One entry of the lane FIFOs: a vector, or a slice of one for LOOSE (R38, R115). -/
structure Fed where
  tile : Nat
  pos : Nat
  slice : Nat
  values : List Int
  deriving DecidableEq, Repr

/-- A tile in an array's queue (R37): its column and K tile, its half, its address, the header line and
payload once they have arrived (an empty line before), whether it is being read again (R230), and whether
TILE_ARRIVAL has passed it. -/
structure QTile where
  ordinal : Nat
  tile : Nat
  half : Nat
  addr : Nat
  line : Bytes
  payload : Bytes
  retried : Bool
  checked : Bool
  deriving DecidableEq, Repr

/-- A column in work: whose band's stream it follows, its item, position block, the K tiles it takes, how
many fetches have entered the tile queue, the claim's counter, value and generation, the sweep it starts
with, and whether a guest has attached (R40, R41, R257). -/
structure Column where
  ordinal : Nat
  band : Nat
  item : Item
  block : Nat
  first : Nat
  tiles : Nat
  fetched : Nat
  counter : Nat
  claim : Nat
  generation : Nat
  sweep : Nat
  attached : Bool
  deriving DecidableEq, Repr

/-- The role of an accumulator slot (R137). -/
inductive SlotRole where
  | free | filling | draining | parked
  deriving DecidableEq, Repr

/-- An accumulator slot: its group's label, the run and step that fill it, its column, its totals keyed by
lane × 64 + position, and its saturation flags as a lane mask (R137 to R139). -/
structure Slot where
  role : SlotRole
  group : Nat
  run : Nat
  step : Nat
  /-- A parked slot that the step in progress has taken up already. -/
  taken : Bool
  /-- A filling slot whose column is complete, while the array's other working slot still drains. -/
  complete : Bool
  column : Option Column
  totals : Table Int
  flags : Nat
  deriving DecidableEq, Repr

def Slot.empty : Slot :=
  { role := .free, group := 0, run := 0, step := 0, taken := false, complete := false, column := none, totals := [],
    flags := 0 }

/-- A digit array (R21): the column in work and the one claimed next, how many columns it has claimed,
its tile queue with the pairs of lanes loaded from the oldest tile, the entries its lanes have not all consumed
with the number of the first, and the next vector of the band's stream it takes, with the slice of it. -/
structure ArrayState where
  column : Option Column
  next : Option Column
  ordinals : Nat
  exhausted : Bool
  /-- A remote claim sent and not answered (R368). -/
  claiming : Bool
  queue : List QTile
  loading : Nat
  fed : List Fed
  fedBase : Nat
  feedAt : Nat
  feedSlice : Nat
  lanes : Table Lane
  slots : List Slot
  deriving DecidableEq, Repr

def ArrayState.idle : ArrayState :=
  { column := none, next := none, ordinals := 0, exhausted := false, claiming := false, queue := [],
    loading := 0, fed := [], fedBase := 0, feedAt := 0, feedSlice := 0, lanes := [],
    slots := List.replicate 4 Slot.empty }

/-- A band: its FIFO of at most 16 vectors, the stream number of the first, where the reader stands,
its guests, and the slots complete and waiting for its drain channel, the one it reads first, with the position it
reads next (R39, R41, R143). -/
structure BandState where
  fifo : List StreamVec
  fifoBase : Nat
  sweep : Nat
  tile : Nat
  pos : Nat
  guests : List Nat
  drain : List (Nat × Nat)
  drainPos : Nat
  deriving DecidableEq, Repr

def BandState.idle : BandState :=
  { fifo := [], fifoBase := 0, sweep := 0, tile := 0, pos := 0, guests := [], drain := [], drainPos := 0 }

/-! ### Scatter groups -/

/-- One scatter update or record: key, value, origin (Table 6-2). -/
structure Record where
  key : Nat
  value : Word
  origin : Nat
  deriving DecidableEq, Repr

/-- The phase of a scatter group (R125). -/
inductive ScatterPhase where
  | updating
  /-- Runs of the sorting frame, each in order, and the passes done. -/
  | merging (runs : List (List Record)) (pass : Nat)
  deriving DecidableEq, Repr

/-- The open scatter group of a core (R119, R124): destination, value type, mode, sack and merge buffer,
the records written into the sack, the updates issued and not yet taken, the spills not yet written, and
whether every update has been issued. -/
structure Scatter where
  destH : Nat
  destOff : Nat
  destCount : Nat
  isFp : Bool
  sorting : Bool
  sackH : Nat
  mergeH : Nat
  capacity : Nat
  sackCount : Nat
  waiting : List Record
  spills : List Record
  issued : Bool
  phase : ScatterPhase
  deriving DecidableEq, Repr

/-- The pigeonholes: set number to its entries, most recently updated first (R121). -/
abbrev Pigeonholes := Table (List (Nat × Int))

/-! ### The step a core runs -/

/-- A layer step in execution on a core: its run and step, resolved condition, order and share; the round, whether
it is in its postcard phase, and its attempt; the multiplier m, conversion scale c and bias rows in force;
and what it has gathered so far (R73, R74, R79, R152, R156, R164, R243). -/
structure LayerExec where
  run : Nat
  step : Nat
  layer : LayerStep
  condition : Condition
  order : Order
  share : Share
  exact : Bool
  round : Nat
  estimating : Bool
  attempt : Nat
  multiplier : Word
  convScale : Word
  bias : Table Word
  stats : Stats
  /-- The statistics of the first attempt, during a replay. -/
  before : Stats
  /-- Where the streamed operand comes from: the earlier layer step that wrote it, if any. -/
  source : Option LayerStep
  /-- Predictor B of a forwarded block: F, for the list builder. -/
  listF : Nat
  /-- The neurons a forwarded step computes, ascending, and whether it is the down-projection. -/
  neurons : List Nat
  isDown : Bool
  /-- How many neuron tiles have been asked for, and the payloads gathered, by place in `neurons`. -/
  requested : Nat
  gathered : Table Bytes
  /-- Mask bits of the estimated outputs as a lane mask, by `cellKey`. -/
  masks : Table Nat
  /-- Totals of KSPLIT parts drained, by part and `cellKey`. -/
  parts : Table (List Int)
  /-- Best value and row of the reduction tap, by position (R152). -/
  taps : Table (Word × Nat)
  /-- The generation of a SHARED step's arming (R255), the columns of it this core has claimed, and the claims whose
  postmarks have passed their test (R258; log entry 46). -/
  generation : Nat
  claimed : List Nat
  passed : List Nat
  /-- The slots of each array at the start, which a replay starts from again (R79, R139). -/
  base : Table (List Slot)
  /-- Output tiles written: column and position block. -/
  written : List (Nat × Nat)
  /-- Whether every column of the share is done with. -/
  finished : Bool
  deriving DecidableEq, Repr

/-- What a core is doing with a route step. -/
inductive Running where
  | idle
  /-- A step of a run dispatched and not yet started by its own row. -/
  | ready (run step : Nat)
  | layer (run step : Nat) (e : LayerExec)
  /-- A vector operation that has written its result. -/
  | vectorDone (run step : Nat)
  /-- A SCATTER_ADD whose group is still merging (R185). -/
  | scattering (run step : Nat)
  /-- A WAIT whose count is short (R204). -/
  | stalled (run step : Nat)
  deriving DecidableEq, Repr

/-- An accumulation group open on a core: the run that builds it, its label and its descriptor (R138). -/
structure Group where
  run : Nat
  label : Nat
  precision : Precision
  deriving DecidableEq, Repr

/-- What stands for the generation of a seen map before its first arming: no 16-bit GENERATION (R258). -/
def notArmed : Nat := 2 ^ 16

/-- One of the six cores. -/
structure Core where
  /-- Scratchpad bytes, keyed by (bank × 24,576 + row) × 64 + byte (R187). -/
  pad : ByteStore
  banks : Table BankPower
  /-- Valid handles by number, with the route that holds each (R190, R193). -/
  handles : Table (Handle × Nat)
  boxes : Table Letterbox
  landings : List Landing
  nextLanding : Nat
  reqs : List BankReq
  pigeons : Pigeonholes
  scatter : Option Scatter
  arrays : Table ArrayState
  bands : Table BandState
  running : Running
  /-- A layer step whose last columns still drain while the core goes on to the next one (R142, R145). -/
  tail : Option LayerExec
  /-- Accumulation groups open on the core (R138, R139). -/
  groups : List Group
  /-- Non-stream runs in submission order (R276). -/
  queue : List Nat
  /-- Seen maps: claims already delivered, by counter, for the generation held (R258). -/
  seen : Table (Nat × List Nat)
  deriving DecidableEq, Repr

/-- A core with nothing in it: every bank off, its rows 0 (R206, R208). -/
def Core.reset : Core :=
  { pad := [], banks := [], handles := [], boxes := [], landings := [], nextLanding := 0, reqs := [],
    pigeons := [], scatter := none, arrays := [], bands := [], running := .idle, tail := none, groups := [],
    queue := [], seen := [] }

/-! ### Arrays, bands and executions of a core -/

/-- An array and a band of a core. -/
def Core.array (c : Core) (a : Nat) : ArrayState := Tab.getD .idle c.arrays a
def Core.setArray (c : Core) (a : Nat) (x : ArrayState) : Core := { c with arrays := Tab.put a x c.arrays }
def Core.onArray (c : Core) (a : Nat) (f : ArrayState → ArrayState) : Core := c.setArray a (f (c.array a))
def Core.band (c : Core) (b : Nat) : BandState := Tab.getD .idle c.bands b
def Core.setBand (c : Core) (b : Nat) (x : BandState) : Core := { c with bands := Tab.put b x c.bands }
def Core.onBand (c : Core) (b : Nat) (f : BandState → BandState) : Core := c.setBand b (f (c.band b))

/-- The role of a working slot changed: the complete slot of an array drains once no other slot of it does (R137). -/
def ArrayState.turn (a : ArrayState) : ArrayState :=
  if a.slots.any fun q => q.role = .draining then a
  else { a with slots := a.slots.map fun q => if q.complete then { q with role := .draining, complete := false } else q }

/-- The slot of an array that a drain entry names. -/
def Core.slotAt (c : Core) (d : Nat × Nat) : Slot := ((c.array d.1).slots[d.2]?).getD .empty

/-- A band that holds nothing but its drain (R142). -/
def BandState.drainOnly (b : BandState) : BandState :=
  { BandState.idle with drain := b.drain, drainPos := b.drainPos }

/-- The run a core works for. -/
def Running.run : Running → Option Nat
  | .idle => none
  | .ready r _ | .layer r _ _ | .vectorDone r _ | .scattering r _ | .stalled r _ => some r

/-- The step a core works at. -/
def Running.step : Running → Nat
  | .idle => 0
  | .ready _ i | .layer _ i _ | .vectorDone _ i | .scattering _ i | .stalled _ i => i

/-- The execution of a layer step on a core: the step it runs, or the one that still drains. -/
def Core.execFor (c : Core) (run step : Nat) : Option LayerExec :=
  match c.running with
  | .layer r i e => if r = run ∧ i = step then some e else c.tail.filter fun t => t.run == run && t.step == step
  | _ => c.tail.filter fun t => t.run == run && t.step == step

/-- The execution of a layer step replaced. -/
def Core.setExec (c : Core) (e : LayerExec) : Core :=
  { c with
    running := match c.running with
      | .layer r i x => .layer r i (if r = e.run ∧ i = e.step then e else x)
      | x => x
    tail := c.tail.map fun t => if t.run = e.run ∧ t.step = e.step then e else t }

/-- The first step of a run that a core has not yet begun, as far as it works for that run now. -/
def Core.begun (c : Core) (run : Nat) : Nat :=
  max (if c.running.run = some run then c.running.step + 1 else 0)
    (c.tail.elim 0 fun t => if t.run = run then t.step + 1 else 0)

end Sys2Proof.Machine
end

