-- ==== Sys2Proof/Machine/Lanes.lean ====
section
/-! DEFINITION. What a lane does: the recoder's registers for one row of a tile, with the products it
drops, and the lane sum of one step in digit and table mode
(R22 to R36, R48 to R53, R111 to R118, R131 to R136, R156, R500). -/

namespace Sys2Proof.Machine

/-! ### The recoder -/

/-- The registers of one lane and the metadata drops counted while loading it. -/
structure LaneLoad where
  pes : List Pe
  drops : Nat
  deriving DecidableEq, Repr

/-- The Bell-4 code that is dropped wherever it stands (R26). -/
def badBell (element bits : Nat) : Bool := isBell element && bits % 16 == 8

/-- A weight's digits; in a postcard phase the two highest (R24, R156). -/
def recode (element : Nat) (estimate : Bool) (bits : Nat) : List Digit :=
  let ds := naf (weightValue element bits)
  if estimate then topTwo ds else ds

/-- Drops counted for a weight: a dropped one counts where its stored value is not zero (R114). -/
def dropCount (element bits : Nat) (dropped : Bool) : Nat :=
  bit (badBell element bits || (dropped && weightValue element bits != 0))

/-- A lane of a DENSE or BLOCK tile: PE k holds input k, or inputs 2k and 2k + 1 with 4-bit
activations (R33, R92). -/
def denseLane (l : LayerStep) (estimate : Bool) (codes : List Nat) : LaneLoad :=
  let digits (c : Nat) : List Digit := recode l.element estimate (codes.getD c 0)
  { pes := (List.range 128).map fun k =>
      if l.actWidth = 4 then { Pe.empty with w0 := digits (2 * k), w1 := digits (2 * k + 1) }
      else { Pe.empty with w0 := digits k }
    drops := (codes.map fun c => dropCount l.element c false).sum }

/-- A slot of a PAIR group after the checks of Table 6-1: its digits, index and drops. -/
def pairSlot (l : LayerStep) (estimate : Bool) (column bits index : Nat) (twin : Bool) : List Digit × Nat × Nat :=
  let dropped := twin || l.kPadded ≤ column + index
  (if dropped then [] else recode l.element estimate bits, index, dropCount l.element bits dropped)

/-- A lane of a PAIR tile (R36, R111 to R113). -/
def pairLane (l : LayerStep) (estimate : Bool) (h : TileHdr) (payload : Bytes) (row : Nat) : LaneLoad :=
  let slots := (List.range (h.columns / 4)).map fun g =>
    let (v0, i0, v1, i1) := pairGroup h payload row g
    let col := h.kOffset + 4 * g
    (pairSlot l estimate col v0 i0 false, pairSlot l estimate col v1 i1 (i0 == i1))
  let at_ (g : Nat) (second : Bool) : List Digit × Nat × Nat :=
    match slots[g]? with
    | none => ([], 0, 0)
    | some (a, b) => if second then b else a
  { pes := (List.range 128).map fun k =>
      let second := k % 2 == 1
      if l.actWidth = 4 then
        let a := at_ (2 * (k / 2)) second
        let b := at_ (2 * (k / 2) + 1) second
        { Pe.empty with w0 := a.1, i0 := a.2.1, w1 := b.1, i1 := b.2.1 }
      else
        let a := at_ (k / 2) second
        { Pe.empty with w0 := a.1, i0 := a.2.1 }
    drops := (slots.map fun q => q.1.2.2 + q.2.2.2).sum }

/-- The entries of a LOOSE row examined in stored order: kept PEs, the last kept column plus 1, drops
(Table 6-1, R500). A dropped entry holds weight 0. -/
def looseEntry (l : LayerStep) (h : TileHdr) (acc : List Pe × Nat × Nat) (e : Stored) : List Pe × Nat × Nat :=
  let (pes, next, drops) := acc
  let dropped := h.columns ≤ e.column || l.kPadded ≤ h.kOffset + e.column || e.column < next ||
    badBell l.element e.bits
  let pe : Pe := { Pe.empty with w0 := if dropped then [] else recode l.element false e.bits, i0 := e.column }
  (pes ++ [pe], if dropped then next else e.column + 1, drops + dropCount l.element e.bits dropped)

/-- A lane of a LOOSE tile (R115). -/
def looseLane (l : LayerStep) (h : TileHdr) (payload : Bytes) (row : Nat) : LaneLoad :=
  let (pes, _, drops) := (looseRow h payload row).foldl (looseEntry l h) ([], 0, 0)
  { pes := pes, drops := drops }

/-- A lane loaded from one digit-mode tile (R37, R111). DESIGN CHOICE (log entry 72): a DENSE tile of fewer rows or columns
than its step loads holds weight 0 beyond them, and columns past the extent are ignored; the manual compares neither. -/
def digitLane (l : LayerStep) (estimate : Bool) (h : TileHdr) (payload : Bytes) (row : Nat) : LaneLoad :=
  match Format.ofCode h.format with
  | some .pair => pairLane l estimate h payload row
  | some .loose => looseLane l h payload row
  | some .block => denseLane l estimate (blockRow h payload row)
  | _ => denseLane l estimate (if row < h.rows then denseRow h payload row else [])

/-- A lane loaded from a residency of two TABLE tiles (R50). -/
def tableLane (p0 p1 : Bytes) (row : Nat) : List Pe :=
  (List.range 128).map fun k =>
    { Pe.empty with table := tableEntries (if k < 64 then p0 else p1) row (k % 64) }

/-! ### The step -/

/-- What PE `k` multiplies in one entry of the FIFO: digits with their activation (R28, R36, R115). -/
def peTerms (l : LayerStep) (vs : List Int) (slice k : Nat) (p : Pe) : List (List Digit × Int) :=
  let v (i : Nat) : Int := vs.getD i 0
  if l.isLoose then
    if p.i0 / l.denseExtent = slice then [(p.w0, v (p.i0 % l.denseExtent))] else []
  else if l.isPair then
    if l.actWidth = 4 then [(p.w0, v (8 * (k / 2) + p.i0)), (p.w1, v (8 * (k / 2) + 4 + p.i1))]
    else [(p.w0, v (4 * (k / 2) + p.i0))]
  else if l.actWidth = 4 then [(p.w0, v (2 * k)), (p.w1, v (2 * k + 1))]
  else [(p.w0, v k)]

/-- The activation a pass applies (R35). -/
def passValue (l : LayerStep) (pass : Nat) (x : Int) : Int :=
  if l.actWidth = 16 && !l.isTable then (if pass = 0 then x % 256 else x / 256) else x

/-- What a digit of a term emits: the activation shifted, negated where the digit is negative (R28). -/
def Digit.emit (d : Digit) (x : Int) : Int := (if d.neg then -x else x) * 2 ^ d.pos

/-- Bit plane `b` of a table-mode PE (R53). -/
def tableEmit (l : LayerStep) (vs : List Int) (b k : Nat) (p : Pe) : Int :=
  let bitAt (j : Nat) : Nat := bit (bitOf (unsigned l.actWidth (vs.getD (4 * k + j) 0)) b)
  let v := tableLookup p.table (bitAt 0 + 2 * bitAt 1 + 4 * bitAt 2 + 8 * bitAt 3) * 2 ^ b
  if l.actSigned && b + 1 == l.actWidth then -v else v

/-- All the terms of a lane. -/
def laneTerms (l : LayerStep) (pes : List Pe) (vs : List Int) (slice : Nat) : List (List Digit × Int) :=
  ((List.range pes.length).zip pes).flatMap fun e => peTerms l vs slice e.1 e.2

/-- The steps a lane spends on one entry: pass, chunk and digit (or bit plane) of each (R30, R54, R116). -/
def laneSchedule (l : LayerStep) (pes : List Pe) (vs : List Int) (slice : Nat) : List (Nat × Nat × Nat) :=
  if l.isTable then (List.range l.actWidth).map fun b => (0, 0, b)
  else
    let ts := laneTerms l pes vs slice
    let most (c : Nat) : Nat := ts.foldl (fun m t => max m (chunkDigits c t.1).length) 0
    (List.range l.passes).flatMap fun p => [0, 1].flatMap fun c => (List.range (most c)).map fun d => (p, c, d)

/-- The lane sum of one step (R29). -/
def laneSum (l : LayerStep) (pes : List Pe) (vs : List Int) (slice : Nat) (at_ : Nat × Nat × Nat) : Int :=
  let (pass, chunk, d) := at_
  if l.isTable then (((List.range pes.length).zip pes).map fun e => tableEmit l vs d e.1 e.2).sum
  else ((laneTerms l pes vs slice).map fun t =>
    match (chunkDigits chunk t.1)[d]? with
    | some x => x.emit (passValue l pass t.2)
    | none => 0).sum

/-- The key of a run register: position, chunk and pass (R131). -/
def runKey (pos chunk pass : Nat) : Nat := pos * 4 + chunk + 2 * pass

/-- One promotion (R134, R135): the register's value added with its shift and limited; whether it
saturated. -/
def promote (total reg : Int) (shift : Nat) : Int × Bool :=
  let x := total + reg * 2 ^ shift
  (limit32 x, limit32 x != x)

/-- A position's registers promoted in the order of Table 7-1: the total, the saturations, the registers
cleared. -/
def promoteAll (l : LayerStep) (pos : Nat) (total : Int) (runs : Table Int) : Int × Nat × Table Int :=
  l.registers.foldl (fun acc r =>
    let key := runKey pos r.1 r.2
    let (t, sat) := promote acc.1 (Tab.getD 0 acc.2.2 key) (promotionShift r.1 r.2)
    (t, acc.2.1 + bit sat, Tab.erase key acc.2.2)) (total, 0, runs)

/-! ### The transposed pass -/

/-- The products that leave a lane in step `d` of an entry: those of the PEs whose last digit it is, in PE
order, as PE number, column and product (R118). -/
def laneProducts (pes : List Pe) (x : Int) (d : Nat) : List (Nat × Nat × Int) :=
  ((List.range pes.length).zip pes).filterMap fun e =>
    if e.2.w0.length = d + 1 then some (e.1, e.2.i0, digitsValue e.2.w0 * x) else none

/-- The steps of a transposed entry: as many as the longest weight has digits. -/
def transposedSteps (pes : List Pe) : Nat := pes.foldl (fun m p => max m p.w0.length) 0

end Sys2Proof.Machine
end

