-- ==== Sys2Proof/Config.lean ====
section
/-! DEFINITION. What one implementation fixes and the manual does not print, as constants WITHOUT a
body: nothing can be proved about the values, so every claim holds for all of them.
Log entries 1 to 4. -/

namespace Sys2Proof.Config

/-- Coefficient `j` (0 to 2) of segment `i` (0 to 1,023) of the GELU table (R149): published with the
Oluorsa reference model, not in the manual. -/
opaque geluCoeff (segment j : Nat) : Word

/-- Coefficient `j` of segment `i` of the SiLU table (R149). -/
opaque siluCoeff (segment j : Nat) : Word

/-- Coefficient g0 or g1 (`j` = 0, 1) of segment `i` of the log-sum table (R178). -/
opaque lseCoeff (segment j : Nat) : Word

/-- SHA-384 of a byte string, 48 bytes (FIPS 180; named by R397, R400, R405, R406, R410). -/
opaque sha384 (m : Bytes) : Bytes

/-- Ed25519 signature, 64 bytes, of a message under the device's identity key (R396). -/
opaque edSign (context : String) (m : Bytes) : Bytes

/-- ML-DSA-65 signature, 3,309 bytes, under the device's identity key and a context string (R396). -/
opaque mldsaSign (context : String) (m : Bytes) : Bytes

/-- The device's identity public keys: Ed25519 (32 bytes) then ML-DSA-65 (1,952 bytes) (R395). -/
opaque identityEd : Bytes
opaque identityMldsa : Bytes

/-- The device certificate, 5,405 bytes (R397). -/
opaque deviceCertificate : Bytes

/-- The confirm value HMAC-SHA-384 over a transcript hash under a derived key (R406, R408). -/
opaque confirmMac (label : String) (secret th : Bytes) : Bytes

/-- HKDF-SHA-384 expansion of one key of Table 19-5 or of R413, R427 (R408). -/
opaque deriveKey (label : String) (secret th : Bytes) : Bytes

/-- The shared secret a key exchange gives: the X25519 secret then the ML-KEM secret (R408). -/
opaque sharedSecret (ephemeral : Nat) (peerX25519 peerKem : Bytes) : Bytes

/-- The X25519 public key and the ML-KEM ciphertext of the fresh ephemeral number `n` (R406). -/
opaque ephemeralPublic (n : Nat) : Bytes
opaque kemCiphertext (n : Nat) (peerKem : Bytes) : Bytes

/-- AES-256-GCM protection: the ciphertext followed by the 16-byte tag (R344, R349, R364, R428). -/
opaque gcmSeal (key nonce aad plain : Bytes) : Bytes

/-- AES-256-GCM opening: the plaintext, or none where the tag fails (R364). -/
opaque gcmOpen (key nonce aad sealed : Bytes) : Option Bytes

/-- A session key or salt of SRTP with key derivation rate 0, `length` bytes, from a master key and master salt (RFC 3711,
Table 16-4). -/
opaque srtpDerive (masterKey masterSalt : Bytes) (label length : Nat) : Bytes

/-- Fresh random bytes of the security core: draw number `n` (R406). -/
opaque randomBytes (n length : Nat) : Bytes

/-- The rate the chronometer's servo sets after its `n`-th measurement, in units of 2^-40 (R268, R269
give no servo law). -/
opaque servoRate (n : Nat) : Int

/-- The fraction, in units of 2^-32 ns, to which a steered chronometer is set (R269). -/
opaque servoFraction (n : Nat) : Nat

/-- How many steps of the device's own pace a stalled WAIT lasted: a free value (R204, log entry 3). -/
opaque stallSteps (n : Nat) : Nat

/-- ROM_DIGEST: the SHA-384 of the boot ROM, 48 bytes (R400). -/
opaque romDigest : Bytes

/-- The block number of the control core's watchdog (Table 21-6 gives it no number; log entry 40). -/
opaque watchdogBlock : Nat

/-- What the I3C port answers GETPID, GETBCR and GETDCR with, and draw `n` of its GETSTATUS (R430 gives no
values; log entry 38). -/
opaque i3cPid : Bytes
opaque i3cBcr : Byte
opaque i3cDcr : Byte
opaque i3cStatus (n : Nat) : Nat

end Sys2Proof.Config
end

