-- ==== Sys2Proof/Machine/Control.lean ====
section
/-! DEFINITION. The state of the device outside its cores: rings, commands, partitions, regions,
routes, streams, ports, the cascade, security, management, time and power. Plain data only. -/

namespace Sys2Proof.Machine

/-! ### What the device sends -/

/-- The outputs to the rack on J2, both active low (Table 1-5). -/
inductive Pin where
  | faultN | pwrWarnN
  deriving DecidableEq, Repr

/-- One thing the device has sent or written outside itself, in the order it happened (log entry 11). -/
inductive Out where
  /-- FAULT# or PWR_WARN# asserted or deasserted (R16, R438, R444, R446). -/
  | pin (signal : Pin) (asserted : Bool)
  /-- Bytes written to host memory with memory requests of a function (R291, R305). -/
  | host (function addr : Nat) (data : Bytes)
  /-- An MSI-X message (R296): the address and data of the vector's table entry. -/
  | msix (function vector : Nat) (addr data : Nat)
  /-- The data a BAR0 or BAR2 read returned. -/
  | readData (function : Nat) (data : Bytes)
  /-- An Ethernet datagram: port, address family, the next hop's MAC address, peer address, UDP ports, the DSCP where the manual gives
  one, payload (R347, R348). It leaves from the port's own addresses, under the port's VLAN tag (R340). -/
  | datagram (port : Nat) (v6 : Bool) (hop peer source dest : Nat) (dscp : Option Nat) (payload : Bytes)
  /-- An ARP request or neighbour solicitation for a next hop (Table 16-1). -/
  | solicit (port : Nat) (v6 : Bool) (address : Nat)
  /-- A PTP delay request of a domain, on an Ethernet port or the management port (Table 13-2). -/
  | delayRequest (port : Option Nat) (domain : Nat)
  /-- An answer to ARP or neighbour solicitation for an address of the port (R339). -/
  | neighbour (port address mac : Nat)
  /-- A PLink flit (R360). -/
  | flit (port : Nat) (data : Bytes)
  /-- A management datagram: session, type, status, sequence and payload (R428). -/
  | mgt (session type status seq : Nat) (data : Bytes)
  /-- An I3C in-band interrupt (R430). -/
  | ibi
  /-- What the I3C or SMBus port returned (R430). -/
  | sideband (data : Bytes)
  deriving DecidableEq, Repr

/-! ### Rings and functions -/

/-- The RING_ block of a function (Tables 14-1 and 23-5). IDLE is derived. -/
structure Ring where
  sqBase : Nat
  cqBase : Nat
  sqLog : Nat
  cqLog : Nat
  enable : Bool
  sqTail : Nat
  sqHead : Nat
  cqHead : Nat
  cqTail : Nat
  tailErr : Bool
  headErr : Bool
  fetchErr : Bool
  phase : Nat
  count : Nat
  window : Nat
  apBase : Nat
  deriving DecidableEq, Repr

/-- The reset values of Table 23-5. -/
def Ring.reset : Ring :=
  { sqBase := 0, cqBase := 0, sqLog := 4, cqLog := 4, enable := false, sqTail := 0, sqHead := 0,
    cqHead := 0, cqTail := 0, tailErr := false, headErr := false, fetchErr := false, phase := 1,
    count := 1, window := 0, apBase := 0 }

/-- An open session with the versions agreed for it (R297, R298). -/
structure Session where
  command : Nat
  parcel : Nat
  deriving DecidableEq, Repr

/-- The copy a function's last READ_COUNTERS made (Table 23-6). -/
structure Mirror where
  groups : Nat
  time : Nat
  seq : Nat
  cleared : Bool
  values : Table Nat
  deriving DecidableEq, Repr

/-- The MSI-X table and pending bits of a function (Table 23-1), PRESUMED masked at reset (log entry 12). -/
structure Msix where
  addr : Table Nat
  data : Table Nat
  mask : Nat
  pba : Nat
  deriving DecidableEq, Repr

/-- A PCI Express function. `windows` holds, per vector, the completions waiting to share a message
and the window's end (R296). -/
structure FnState where
  ring : Ring
  busMaster : Bool
  msix : Msix
  cause : Nat
  completions : Nat
  messages : Nat
  windows : Table (Nat × Nat)
  mirror : Mirror
  latch : Nat
  sessions : Table Session
  nextSession : Nat
  deriving DecidableEq, Repr

def FnState.reset : FnState :=
  { ring := .reset, busMaster := false,
    msix := { addr := [], data := [], mask := 2 ^ 64 - 1, pba := 0 },
    cause := 0, completions := 0, messages := 0, windows := [],
    mirror := { groups := 0, time := 0, seq := 0, cleared := false, values := [] },
    latch := 0, sessions := [], nextSession := 1 }

/-! ### Commands -/

/-- A command packet (Table 14-2). `clean`: its reserved fields are 0. -/
structure Packet where
  opcode : Nat
  version : Nat
  fence : Bool
  byRef : Bool
  noIrq : Bool
  tag : Nat
  partition : Nat
  target : Nat
  paramLen : Nat
  session : Nat
  vector : Nat
  clean : Bool
  params : Bytes
  deriving DecidableEq, Repr

/-- Where a command stands. -/
inductive CmdPhase where
  /-- Its checks have passed and its own row has not started it. -/
  | waiting
  | running
  /-- Sent to another member as RELAY_CMD (R367). -/
  | relayed
  /-- Every effect is complete; its completion entry is not yet written (R294). -/
  | ended
  deriving DecidableEq, Repr

/-- A command in flight: the function, the master that relayed it with its number there, its ring order, its parameters, the
host data it reads, the versions it is interpreted under, and how it ends (R291, R302). -/
structure Cmd where
  fn : Nat
  relay : Option (Nat × Nat)
  order : Nat
  packet : Packet
  params : Bytes
  input : Option Bytes
  command : Nat
  parcel : Nat
  accepted : Nat
  /-- Whether the checks that follow the transport's have been made (R304, R306, R307). -/
  checked : Bool
  phase : CmdPhase
  notices : Nat
  status : Nat
  detail : Nat
  ended : Nat
  doneAt : Nat
  result : Option (Nat × Bytes)
  deriving DecidableEq, Repr

/-! ### Configuration and partitions -/

/-- A configuration item entry (Table 15-3). -/
structure ConfigItem where
  item : Nat
  arg : Nat
  index : Nat
  value : Nat
  deriving DecidableEq, Repr

/-- A waiting COMMIT_CONFIG: its command (none for the management controller's) and its time (R280). -/
structure Commit where
  cmd : Option Nat
  since : Nat
  deriving DecidableEq, Repr

/-- One perturbation entry with its LFSR (Table 22-2). -/
structure PerturbEntry where
  kind : Nat
  random : Bool
  unit : Nat
  select : Nat
  value : Nat
  seed : Nat
  lfsr : Nat
  deriving DecidableEq, Repr

/-- A key session (R406 to R409): its purpose, whether it is established, TH, the derived keys in the
order confirm peer, confirm device, p2d key, p2d salt, d2p key, d2p salt, and the last time it was used. -/
structure KeySession where
  purpose : Nat
  established : Bool
  th : Bytes
  keys : List Bytes
  since : Nat
  used : Bool
  deriving DecidableEq, Repr

/-- A partition under teardown (R314 to R316): ABORT or DRAIN, the step of R315 reached (0: work still
ends), the commands that wait for it, how many commands it ended. -/
structure Teardown where
  abort : Bool
  step : Nat
  waiters : List Nat
  aborted : Nat
  deriving DecidableEq, Repr

/-- A partition, which function f serves (R9, R313). -/
structure Partition where
  enabled : Bool
  cores : Nat
  streams : Nat
  regions : Nat
  conf : Bool
  owner : Option Bytes
  teardown : Option Teardown
  shadow : List ConfigItem
  commit : Option Commit
  alwaysOn : Bool
  perturb : List PerturbEntry
  perturbUntil : Nat
  keys : Table KeySession
  deriving DecidableEq, Repr

def Partition.reset : Partition :=
  { enabled := false, cores := 0, streams := 0, regions := 0, conf := false, owner := none,
    teardown := none, shadow := [], commit := none, alwaysOn := false, perturb := [], perturbUntil := 0,
    keys := [] }

/-- The device-wide configuration in force and its shadow set (Table 15-4); `cap` is POWER_CAP in W. CHR_SOURCE is held
by the chronometer, the port modes by the ports. -/
structure DevConfig where
  knob : Nat
  cap : Nat
  ptpDomain : Nat
  shadow : List ConfigItem
  commit : Option Commit
  deriving DecidableEq, Repr

/-- The defaults of Table 15-4. -/
def DevConfig.reset : DevConfig :=
  { knob := 2, cap := 1100, ptpDomain := 0, shadow := [], commit := none }

/-! ### Memory -/

/-- A partition map record (Table 11-2). -/
structure RegionRec where
  logical : Nat
  owner : Nat
  conf : Bool
  scrubPending : Bool
  unmapping : Bool
  lastOwner : Nat
  deriving DecidableEq, Repr

def RegionRec.free : RegionRec :=
  { logical := 0, owner := 0, conf := false, scrubPending := false, unmapping := false, lastOwner := 0 }

/-- What waits for a region's scrub (R234, R317, R318). -/
inductive ScrubWhy where
  | kept (cmds : List Nat)
  | alloc (cmd logical torn : Nat)
  /-- A freed region: `torn` is the partition whose teardown freed it and waits for the scrub, 0 for none. -/
  | freed (torn : Nat)
  deriving DecidableEq, Repr

/-- What waits for a region's unmapping (R223). -/
inductive UnmapWhy where
  | command (cmd : Nat)
  | teardown
  deriving DecidableEq, Repr

/-! ### Dispatch counters and leases -/

/-- An outstanding claim of a counter: value, claimer and lease expiry (R255, R370). -/
structure Claim where
  value : Nat
  device : Nat
  core : Nat
  array : Nat
  expiry : Nat
  deriving DecidableEq, Repr

/-- A dispatch counter (Table 12-5), with the claims held until it can serve them (R255). -/
structure Counter where
  value : Nat
  limit : Nat
  generation : Nat
  owner : Nat
  armed : Bool
  ganged : Bool
  outstanding : List Claim
  reissue : List Nat
  /-- Held claims: device, core, array, generation. -/
  held : List (Nat × Nat × Nat × Nat)
  deriving DecidableEq, Repr

def Counter.reset : Counter :=
  { value := 0, limit := 0, generation := 0, owner := 0, armed := false, ganged := false,
    outstanding := [], reissue := [], held := [] }

/-- A lease this device is home of, other than claims (Table 17-7). -/
structure Lease where
  kind : Nat
  holder : Nat
  resource : Nat
  expiry : Nat
  revoked : Bool
  deriving DecidableEq, Repr

/-! ### Routes and runs -/

/-- A loaded route (R319, R248). `loading` names the LOAD_ROUTE that waits for its banks (R208). -/
structure Route where
  partition : Nat
  exact : Bool
  /-- The cascade size at load, which resolves AUTO for good (R155). -/
  cascade : Nat
  image : Image
  digest : Bytes
  stream : Option Nat
  knobs : Table Nat
  counters : List Nat
  replay : List Nat
  /-- The values of P whose tilings are cached, most recently used first (R252). -/
  tilings : List Nat
  /-- Armings of the route's SHARED steps this device has seen, by home device × 256 + counter (R255). -/
  armed : Table Nat
  loading : Option Nat
  releasing : Bool
  waiters : List Nat
  deriving DecidableEq, Repr

/-- What a run serves. -/
inductive RunFor where
  | command (cmd : Nat)
  /-- A frame of a stream with its release and absolute deadline (R275). -/
  | frame (stream no release deadline : Nat)
  deriving DecidableEq, Repr

/-- A route run. `next` is the next step per core; `done` the steps ended; `started` whether its first step has been
dispatched; `handed` whether its frame's result has been sent. -/
structure Run where
  route : Nat
  serves : RunFor
  steps : List RouteStep
  next : Table Nat
  done : List Nat
  scales : List ScaleEntry
  used : Table Word
  /-- Forwarding lists by position, as the last list builder of the run wrote them (R163). -/
  lists : Table (List Nat)
  /-- Raw scores of predictor B as its columns drain, by step, position and column (R163). -/
  scores : Table (List Int)
  records : List Bytes
  newScales : List ScaleEntry
  notices : Nat
  started : Bool
  reread : Bool
  /-- Generations of the SHARED steps this run has armed, by step. -/
  armings : Table Nat
  /-- Remote or other-core writes not yet answered (R369). -/
  unanswered : Nat
  handed : Bool
  deriving DecidableEq, Repr

/-! ### Streams and parcels -/

/-- A stream descriptor (Table 16-3). -/
structure StreamDesc where
  version : Nat
  port : Nat
  v6 : Bool
  box : Nat
  policy : Nat
  noResult : Bool
  localUdp : Nat
  peerUdp : Nat
  ssrcIn : Nat
  ssrcOut : Nat
  payloadType : Nat
  dscp : Nat
  frameLen : Nat
  outOffset : Nat
  outHandle : Nat
  outLen : Nat
  tsStep : Nat
  peer : Nat
  period : Nat
  deadline : Nat
  deriving DecidableEq, Repr

/-- A stream context (R274, R275, R342 to R347). -/
structure Stream where
  partition : Nat
  route : Nat
  core : Nat
  desc : StreamDesc
  key : Nat
  counted : Nat
  closing : Bool
  closers : List Nat
  /-- Arrival times of delivered frames not yet released, oldest first, with substitutes marked. -/
  arrivals : List (Nat × Bool)
  /-- Whether each accepted write still landing is a substitute, oldest first. -/
  incoming : List Bool
  arrived : Nat
  released : Nat
  completed : Nat
  missing : Nat
  replayed : Nat
  worst : Nat
  lastRelease : Option Nat
  highest : Option Nat
  lastPayload : Bytes
  firstStamp : Option Nat
  sent : Nat
  /-- Results dropped because their next hop could not be resolved (R347). -/
  unresolved : Nat
  tally : List Nat
  deriving DecidableEq, Repr

/-- A parcel channel (R329, R348 to R353). -/
structure Channel where
  partition : Nat
  cmd : Nat
  sending : Bool
  port : Nat
  v6 : Bool
  localUdp : Nat
  peerUdp : Nat
  peer : Nat
  key : Nat
  version : Nat
  timeout : Nat
  area : Nat
  length : Nat
  /-- The core and letterbox a receiver writes in place of its area. -/
  box : Option (Nat × Nat)
  lastValid : Nat
  /-- Control datagrams this side has sent. -/
  control : Nat
  tiles : Nat
  /-- Receiver: every parcel below `ack` has landed; `above` lists those landed beyond a hole. Sender: what
  the last GRANT acknowledged. -/
  ack : Nat
  above : List Nat
  sinceGrant : Nat
  /-- When the timer's next GRANT is due. -/
  grantAt : Option Nat
  lastNack : Option Nat
  /-- Lines landed and not yet passed on, by line of the range, each with whether it has been written to memory; the byte
  offset up to which every tile has been passed on; the tiles passed on beyond it, by offset and lines; the tiles that have
  been asked for again. -/
  hold : Table (Bytes × Bool)
  tileAt : Nat
  passed : List (Nat × Nat)
  retried : List Nat
  boxWrites : Nat
  /-- Sender: parcels below `credit` may be sent and `nextSeq` is the next one; when ACK last advanced, and the
  bytes of the tiles read so far. -/
  granted : Bool
  credit : Nat
  nextSeq : Nat
  ackAt : Nat
  source : Bytes
  /-- Receiver: everything has landed and been checked, and DATA is answered until `finalUntil`. -/
  finished : Bool
  finalUntil : Nat
  tally : List Nat
  deriving DecidableEq, Repr

/-! ### Ports -/

/-- The addressing of a port (Table 16-2). -/
structure Addressing where
  mac : Nat
  ipv4 : Option (Nat × Nat)
  v6Hi : Option Nat
  v6Lo : Option Nat
  vlan : Option Nat
  mtu : Nat
  gw4 : Option Nat
  gw6Hi : Option Nat
  gw6Lo : Option Nat
  deriving DecidableEq, Repr

def Addressing.reset (mac : Nat) : Addressing :=
  { mac := mac, ipv4 := none, v6Hi := none, v6Lo := none, vlan := none, mtu := 1500, gw4 := none,
    gw6Hi := none, gw6Lo := none }

/-- A PLink message: its 48-byte header fields (Table 17-4) and payload. -/
structure Message where
  type : Nat
  partition : Nat
  srcDevice : Nat
  srcCore : Nat
  dstDevice : Nat
  dstCore : Nat
  box : Nat
  offset : Nat
  postmark : Nat
  arg : Nat
  payload : Bytes
  deriving DecidableEq, Repr

/-- A flit to send: kind, class and payload (Table 17-2). -/
structure FlitOut where
  kind : Nat
  cls : Nat
  creditClass : Nat
  credit : Nat
  payload : Bytes
  deriving DecidableEq, Repr

/-- The PLink side of a port (R360 to R365). -/
structure Link where
  peer : Nat
  version : Nat
  txKey : Bytes
  txSalt : Bytes
  rxKey : Bytes
  rxSalt : Bytes
  txMsg : Nat
  rxMsg : Nat
  /-- Sent and unacknowledged flits, oldest first, and the SEQ of the oldest (R361). -/
  replay : List FlitOut
  ackSeq : Nat
  expected : Nat
  nakSent : Bool
  replays : Nat
  ackTime : Nat
  retraining : Bool
  /-- Flits of each class the far end can still take, and those freed here and not yet returned (R362). -/
  credits : List Nat
  freed : List Nat
  queues : List (List FlitOut)
  /-- Flits of an unfinished message per class. -/
  partials : List (List Bytes)
  /-- Expiry of the credit pool lease per class (Table 17-7). -/
  poolExpiry : List Nat
  deriving DecidableEq, Repr

/-- A port (R339, R358). -/
structure Port where
  ethernet : Bool
  up : Bool
  addressing : Addressing
  link : Option Link
  /-- Datagrams handed on by classification, oldest first (R341). -/
  inbox : List (Nat × Nat × Nat × Datagram)
  asks : List Nat
  /-- MAC addresses of next hops that have answered, by address (Table 16-1). -/
  neighbours : Table Nat
  /-- MSG_NO and keys are agreed anew at each training: how many there have been (R413). -/
  trainings : Nat
  deriving DecidableEq, Repr

def Port.reset : Port :=
  { ethernet := false, up := false, addressing := .reset 0, link := none, inbox := [], asks := [], neighbours := [],
    trainings := 0 }

/-! ### The cascade -/

/-- A join in progress on the master (R376). -/
structure Join where
  cmd : Nat
  members : Nat
  waiting : Nat
  refused : Nat
  deadline : Nat
  versions : Nat
  deriving DecidableEq, Repr

/-- What a member reports of one partition (R366, R377). -/
structure PeerPart where
  cores : Nat
  conf : Bool
  deriving DecidableEq, Repr

/-- A prepared join on a member: the master, the mask and when it lapses. -/
structure Prepared where
  master : Nat
  members : Nat
  until_ : Nat
  deriving DecidableEq, Repr

/-- Cascade membership (R355 to R358, R373 to R377). `versions` packs the cascade versions. -/
structure Cascade where
  device : Nat
  masterSel : Bool
  linkL0 : Bool
  members : Nat
  master : Option Nat
  masterLost : Bool
  lost : Nat
  versions : Nat
  renewAt : Nat
  heard : Table Nat
  join : Option Join
  prepared : Option Prepared
  peers : Table PeerPart
  /-- The versions each member reported, packed as in `versions` (R299). -/
  peerVersions : Table Nat
  /-- LEASE_REVOKE commands that await homes: the homes still silent, and how many leases went (R331). -/
  revokes : Table (Nat × Nat)
  arrived : List Message
  /-- The notices this device has still to act on: losses and master losses. -/
  notices : List Nat
  deriving DecidableEq, Repr

def Cascade.reset : Cascade :=
  { device := 0, masterSel := false, linkL0 := false, members := 0, master := none, masterLost := false,
    lost := 0, versions := 0x111223, renewAt := 0, heard := [], join := none, prepared := none,
    peers := [], peerVersions := [], revokes := [], arrived := [], notices := [] }

/-- A participant's side of a bucket tag (R379 to R391): the command, the partition, VALUES, the destination
tiles, the exponent tile (0: none) with its exponents, the FP32 values this device contributes, the core that
adds, and whether START has come. `partials` holds the chunk sums received and `finals` the reduced chunks, in
the keys of Reduce.lean; `sent` what has been sent. -/
structure Bucket where
  cmd : Nat
  partition : Nat
  bs16 : Bool
  values : Nat
  dests : List Nat
  exponentTile : Nat
  exponents : Bytes
  own : Bytes
  core : Nat
  started : Bool
  partials : Table Bytes
  finals : Table Bytes
  sent : List Nat
  deriving DecidableEq, Repr

/-- A registration of a tag: device, partition, VALUES, BS16 and the exponent tile's seal (R381). -/
structure Registration where
  device : Nat
  partition : Nat
  values : Nat
  bs16 : Bool
  tileSeal : Nat
  deriving DecidableEq, Repr

/-- The home's record of a tag: the first registration, the masks of devices registered and of those that have
completed, the deadline of R381, whether START has been sent, and the registrations that wait for the tag to be
freed. -/
structure TagHome where
  first : Registration
  registered : Nat
  completed : Nat
  deadline : Nat
  running : Bool
  waiting : List Registration
  deriving DecidableEq, Repr

/-! ### Security, management, flash -/

/-- An unlock token of KIND 0 in force (R415). -/
structure Token where
  expiry : Nat
  partitions : Nat
  deriving DecidableEq, Repr

/-- The security core (R395 to R416). -/
structure Security where
  romDigest : Bytes
  fwDigest : Bytes
  configDigest : Bytes
  token : Option Token
  ephemerals : Nat
  deriving DecidableEq, Repr

def Security.reset : Security :=
  { romDigest := [], fwDigest := [], configDigest := [], token := none, ephemerals := 0 }

/-- A management session (R427, R429): TH, the derived keys, the last SEQ processed with its reply, and when the
session was used last. -/
structure MgtSession where
  established : Bool
  th : Bytes
  keys : List Bytes
  lastSeq : Option Nat
  lastReply : Nat × Nat × Bytes
  lastUsed : Nat
  deriving DecidableEq, Repr

/-- An action a WRITE has started and its own row performs (R431). -/
inductive MgtAction where
  | warm | cold
  | cap (watts : Nat)
  | fwStart | fwCommit | fwAbort
  /-- Words of the address registers by offset, and when the write was acknowledged. -/
  | addr (words : List (Nat × Nat)) (at_ : Nat)
  deriving DecidableEq, Repr

/-- A firmware image in a slot, with the BIST signatures it carries (R398, R453). -/
structure FwImage where
  bytes : Bytes
  version : Nat
  svn : Nat
  signatures : List Nat
  deriving DecidableEq, Repr

/-- The management block (Table 23-13, R428 to R433). -/
structure Mgt where
  sessions : Table MgtSession
  actions : List MgtAction
  capW : Nat
  capState : Nat
  commit : Option Commit
  fwLen : Nat
  fwStatus : Nat
  fwChunks : Table Bytes
  /-- The accepted image that is being written. -/
  fwImage : Option FwImage
  /-- Addresses answered now, and those that take effect at a time: time, IPv4 with its prefix, IPv6 (R478). -/
  addr4 : Nat
  addr6 : Nat
  nextAddr : List (Nat × Nat × Nat)
  i3cAddress : Option Nat
  i3cEvents : Nat
  broadcastSeen : Bool
  deriving DecidableEq, Repr

def Mgt.reset : Mgt :=
  { sessions := [], actions := [], capW := 1100, capState := 0, commit := none, fwLen := 0, fwStatus := 0,
    fwChunks := [], fwImage := none, addr4 := 0, addr6 := 0, nextAddr := [], i3cAddress := none, i3cEvents := 1,
    broadcastSeen := false }

/-- The boot flash: what every reset keeps (Table 21-5). -/
structure Flash where
  serial : Nat
  slotA : Option FwImage
  slotB : Option FwImage
  runningB : Bool
  rollback : Nat
  configBytes : Bytes
  portModes : Nat
  macs : List Nat
  credential : Option Bytes
  credVersion : Nat
  addr4 : Nat
  addr6 : Nat
  records : List Bytes
  halts : Nat
  tally : Table Nat
  deriving DecidableEq, Repr

/-- A module as manufactured: DESIGN CHOICE values where the manual gives none (log entry 13). -/
def Flash.factory : Flash :=
  { serial := 0, slotA := some { bytes := [], version := 0, svn := 0, signatures := List.replicate 14 0 },
    slotB := none, runningB := false, rollback := 0, configBytes := [], portModes := 0,
    macs := List.replicate 16 0, credential := none, credVersion := 0, addr4 := 0, addr6 := 0,
    records := [], halts := 0, tally := [] }

/-! ### Time and power -/

/-- The chronometer (R268 to R270, Table 23-10). -/
structure Chron where
  ns : Nat
  frac : Nat
  rate : Int
  state : Nat
  source : Nat
  port : Nat
  stepHeld : Bool
  secRefused : Bool
  offset : Int
  seconds : Option Nat
  secondsReg : Nat
  good : Nat
  /-- The transmitters heard: rank, with the time of the last Announce and the Announce interval (Table 13-2). -/
  heard : Table (Nat × Nat)
  /-- The Sync interval of the transmitter measured last. -/
  syncInterval : Nat
  measures : Nat
  lastMeasure : Nat
  deriving DecidableEq, Repr

def Chron.reset : Chron :=
  { ns := 0, frac := 0, rate := 0, state := 0, source := 0, port := 0, stepHeld := false,
    secRefused := false, offset := 0, seconds := none, secondsReg := 0, good := 0,
    heard := [], syncInterval := 0, measures := 0, lastMeasure := 0 }

/-- How far start-up has come (Table 21-4). -/
inductive Boot where
  | off | started | standby | rails | booted | trained | scrubbed | ready
  deriving DecidableEq, Repr

/-- A VCORE change (R264): the lowest setting it starts from, where it goes, whether the reserved slot in
which the rail may move has come, whether a commit made it, and the commits that complete with it, each with its
count of items (R294). -/
structure VChange where
  source : Nat
  goal : Nat
  moving : Bool
  commit : Bool
  waiters : List (Nat × Nat)
  deriving DecidableEq, Repr

/-- Supply, pace and temperature (R261 to R267, R435 to R451, Tables 23-9 and 23-11). Voltages are in
10 mV, currents in 10 mA, powers in 0.1 W, energies in 10 µJ, temperatures in 0.1 °C. -/
structure Power where
  boot : Boot
  /-- Whether LPDDR6 training must run in full: no results are kept, or they may not be replayed (Table 21-5). -/
  fullTraining : Bool
  /-- When training ended, from which the ports' time counts (Table 21-4). -/
  trainedAt : Nat
  vin : Nat
  iin : Nat
  power : Nat
  /-- The input voltages of the last 1 ms, newest first (VIN_MIN of Table 21-7). -/
  vins : List Nat
  /-- The number of the epoch whose boundary was taken last, and the readings since (R262, R271). -/
  epoch : Nat
  epochSum : Nat
  epochCount : Nat
  epochAvg : Nat
  /-- Consecutive epochs that let VCORE rise (R262, R451). -/
  quiet : Nat
  withhold : Bool
  energy : Nat
  vcore : Nat
  change : Option VChange
  floorUntil : Nat
  floorLow : Nat
  armed : Bool
  warn : Bool
  warnSince : Nat
  readings : List Nat
  windows : Nat
  /-- The number of the chronometer's 1,000 ns window whose readings were taken last (R266). -/
  window : Nat
  paceMin : Nat
  temps : List Int
  overCount : List Nat
  /-- Highest reading of any sensor, and of a die sensor, since the last boundary. -/
  epochMax : Option Int
  epochDie : Option Int
  tjMax : Int
  coolWaits : Bool
  deriving DecidableEq, Repr

def Power.reset : Power :=
  { boot := .off, fullTraining := true, trainedAt := 0, vin := 0, iin := 0, power := 0, vins := [], epoch := 0,
    epochSum := 0, epochCount := 0, epochAvg := 0, quiet := 0, withhold := false, energy := 0, vcore := 2,
    change := none, floorUntil := 0, floorLow := 0, armed := false, warn := false, warnSince := 0,
    readings := List.replicate 88 0, windows := 0, window := 0, paceMin := 0, temps := List.replicate 48 0,
    overCount := List.replicate 48 0, epochMax := none, epochDie := none, tjMax := 0, coolWaits := false }

/-- A reset that waits for the fault record to be written (R444), with the counter of group 54 that counts
its cause. -/
inductive ResetKind where
  | warm (source : Nat)
  | cold (source : Nat)
  deriving DecidableEq, Repr

/-- A device fault as its record will hold it (Table 21-7). -/
structure Halt where
  cause : Nat
  mask : Nat
  time : Nat
  core : Nat
  unit : Nat
  stream : Nat
  frame : Nat
  deadline : Nat
  detail : Nat
  /-- The record as it will be written, less its CAUSE_MASK. -/
  recorded : Bool
  /-- A reset requested meanwhile. -/
  request : Option ResetKind
  deriving DecidableEq, Repr

/-- How far a RUN_BIST has come (R455). -/
inductive BistPhase where
  | logic | memory | restoring
  deriving DecidableEq, Repr

/-- A RUN_BIST in progress, with the VCORE setting it restores (R455). -/
structure Bist where
  cmd : Nat
  parts : Nat
  phase : BistPhase
  vcore : Nat
  deriving DecidableEq, Repr

/-- Halt and built-in test state (Table 23-12). -/
structure Health where
  halt : Option Halt
  bist : Option Bist
  sigs : List Nat
  mismatch : Nat
  logicDone : Bool
  memoryDone : Bool
  events : Nat
  /-- Staged perturbation entries and the outcome bits of the last GO, per core (R477). -/
  staged : List Bytes
  go : List Nat
  deriving DecidableEq, Repr

def Health.reset : Health :=
  { halt := none, bist := none, sigs := List.replicate 14 0, mismatch := 0, logicDone := false,
    memoryDone := false, events := 0, staged := List.replicate 6 (zeros 16), go := List.replicate 6 0 }

/-- A PACK_TILES command between its passes (R107, R499): whether the first pass over its sorted tensors has
ended, the keys of their rows by record, and the row orders sorted so far. -/
structure Packing where
  keyed : Bool
  keys : Table (List (Nat × Nat))
  orders : Table (List Nat)
  deriving DecidableEq, Repr

end Sys2Proof.Machine
end

