-- ==== Sys2Proof/Machine/State.lean ====
section
/-! DEFINITION. The state of the device, the machine right after reset, and the reasons a step stops.
INVENTORY.md lists every field with the rule that names it. -/

namespace Sys2Proof.Machine

/-- The reasons the model stops without a next state. -/
inductive Fault where
  /-- An operand of a command names a unit the device does not have (a core above 5, a port above 15, a
  function above 6, and so on). Raised by the guard around the rows that take such an operand. Safe:
  no hardware event corresponds to it. -/
  | noSuchUnit
  deriving DecidableEq, Repr

/-- The commands the model gives no meaning. -/
inductive Refusal where
  /-- A row of the opcode table with no meaning in the model. Raised by the dispatcher only. Safe. -/
  | notModelled (mnemonic : String)
  deriving DecidableEq, Repr

/-- The state of the device. -/
structure State where
  /-- Commands and events waiting to be taken, first in, first out (the model's own; log entry 6). -/
  pending : List Instr
  /-- What the device has sent outside itself, oldest first (the model's own; log entry 11). -/
  outbox : List Out
  /-- How many free values have been drawn (the model's own; log entry 3). -/
  freeCount : Nat
  fns : Table FnState
  parts : Table Partition
  cmds : Table Cmd
  nextCmd : Nat
  ended : Nat
  turn : Nat
  config : DevConfig
  mem : ByteStore
  regions : Table RegionRec
  scrubs : Table ScrubWhy
  unmaps : Table UnmapWhy
  refreshing : List Nat
  memUsed : Table Nat
  /-- How the next reads of lines of device memory return: nothing listed, as written (the model's own; log entry 10). -/
  links : List (Nat × LinkResponse)
  cores : Table Core
  counters : Table Counter
  routes : Table Route
  runs : Table Run
  nextRun : Nat
  streams : Table Stream
  channels : Table Channel
  ports : Table Port
  cascade : Cascade
  leases : List Lease
  buckets : Table Bucket
  tagHomes : Table TagHome
  security : Security
  mgt : Mgt
  time : Chron
  power : Power
  health : Health
  flash : Flash
  tally : Table Nat
  packing : Table Packing
  deriving DecidableEq, Repr

/-- The partition map after a reset: the device's four regions, every other region free (R220, R233). -/
def regionsAtReset : Table RegionRec :=
  [1020, 1021, 1022, 1023].map fun n => (n, { RegionRec.free with owner := 7 })

/-- The band counters, which belong to their bands (R253). -/
def countersAtReset : Table Counter :=
  (List.range 72).map fun n => (n, { Counter.reset with owner := 7 })

/-- Everything a reset loses at its reset value, over what it keeps (Table 21-5): the boot flash, the
chronometer's domain and the straps are put back by the caller. -/
def State.blank (flash : Flash) : State :=
  { pending := [], outbox := [], freeCount := 0, fns := [], parts := [], cmds := [], nextCmd := 0,
    ended := 0, turn := 6, config := .reset, mem := [], regions := regionsAtReset, scrubs := [],
    unmaps := [], refreshing := [], memUsed := [], links := [], cores := [], counters := countersAtReset,
    routes := [], runs := [], nextRun := 0, streams := [], channels := [], ports := [],
    cascade := .reset, leases := [], buckets := [], tagHomes := [], security := .reset, mgt := .reset,
    time := .reset, power := .reset, health := .reset, flash := flash, tally := [], packing := [] }

/-- The machine right after reset: the input has risen through the start level, and a cold start has just
begun with nothing but the boot flash kept (R441, R443, R465). The start is counted (R452). -/
def State.reset : State :=
  let s := State.blank { Flash.factory with tally := [(8 * 54 + 5, 1)] }
  { s with power := { s.power with boot := .started, vin := 4000, vins := [4000] } }

end Sys2Proof.Machine
end

