-- ==== Sys2Proof/Machine/Ops.lean ====
section
/-! DEFINITION. The named operations over the state that every meaning is built from: accessors, device
memory through the partition map, counters, what the device sends, how commands end, and the halt that
a device fault takes (R220 to R224, R291 to R302, R445 to R448). -/

namespace Sys2Proof.Machine

/-- The outcome of a command. -/
abbrev Result := Host.Outcome State Fault Refusal

/-- The status codes of Table 14-8. -/
inductive Status where
  | ok | deferred | metaDropped | saturated | scaleExcursion | dupClaim
  | badOpcode | badVersion | badParam | noSession
  | loaderSize | loaderAlign | loaderCount | accumCapacity | accumPrecision | formatOversize
  | sealFault | sealMissing | metaFault | scaleStop
  | windowClosed | leaseRevoked | peerLost | configBusy | functionDisabled | aborted
  | admissionRefused | powerHold | sackFull
  | authFail | confidentialDenied | signatureFail
  | deviceHalted
  deriving DecidableEq, Repr

/-- The 16-bit code of a status (Table 14-8). -/
def Status.code : Status → Nat
  | .ok => 0x0000 | .deferred => 0x0001 | .metaDropped => 0x0002 | .saturated => 0x0003
  | .scaleExcursion => 0x0004 | .dupClaim => 0x0005
  | .badOpcode => 0x0101 | .badVersion => 0x0102 | .badParam => 0x0103 | .noSession => 0x0104
  | .loaderSize => 0x0110 | .loaderAlign => 0x0111 | .loaderCount => 0x0112
  | .accumCapacity => 0x0113 | .accumPrecision => 0x0114 | .formatOversize => 0x0115
  | .sealFault => 0x0201 | .sealMissing => 0x0202 | .metaFault => 0x0203 | .scaleStop => 0x0204
  | .windowClosed => 0x0301 | .leaseRevoked => 0x0302 | .peerLost => 0x0303 | .configBusy => 0x0304
  | .functionDisabled => 0x0305 | .aborted => 0x0306 | .admissionRefused => 0x0307
  | .powerHold => 0x0308 | .sackFull => 0x0309
  | .authFail => 0x0401 | .confidentialDenied => 0x0402 | .signatureFail => 0x0403
  | .deviceHalted => 0x0F01

/-- Guard of the rows whose operands name a unit: a unit the device does not have is a fault. -/
def checked (exists_ : Bool) (s : State) (f : State → State) : Result :=
  if exists_ then .next (f s) else .fault .noSuchUnit

/-- `f` where a condition holds, nothing otherwise (log entry 7). -/
def onlyIf (c : Bool) (f : State → State) (s : State) : State := if c then f s else s

/-- The value of an option handed to `f`, nothing where there is none. -/
def withSome {α : Type} (o : Option α) (s : State) (f : α → State) : State :=
  match o with
  | none => s
  | some a => f a

/-! ### Accessors -/

def State.fn (s : State) (f : Nat) : FnState := Tab.getD .reset s.fns f
def State.setFn (s : State) (f : Nat) (x : FnState) : State := { s with fns := Tab.put f x s.fns }
def State.onFn (s : State) (f : Nat) (g : FnState → FnState) : State := s.setFn f (g (s.fn f))
def State.ring (s : State) (f : Nat) : Ring := (s.fn f).ring
def State.onRing (s : State) (f : Nat) (g : Ring → Ring) : State :=
  s.onFn f fun x => { x with ring := g x.ring }

def State.part (s : State) (p : Nat) : Partition := Tab.getD .reset s.parts p
def State.setPart (s : State) (p : Nat) (x : Partition) : State := { s with parts := Tab.put p x s.parts }
def State.onPart (s : State) (p : Nat) (g : Partition → Partition) : State := s.setPart p (g (s.part p))

def State.core (s : State) (c : Nat) : Core := Tab.getD .reset s.cores c
def State.setCore (s : State) (c : Nat) (x : Core) : State := { s with cores := Tab.put c x s.cores }
def State.onCore (s : State) (c : Nat) (g : Core → Core) : State := s.setCore c (g (s.core c))

def State.port (s : State) (p : Nat) : Port := Tab.getD .reset s.ports p
def State.setPort (s : State) (p : Nat) (x : Port) : State := { s with ports := Tab.put p x s.ports }
def State.onPort (s : State) (p : Nat) (g : Port → Port) : State := s.setPort p (g (s.port p))

def State.counter (s : State) (n : Nat) : Counter := Tab.getD .reset s.counters n
def State.setCounter (s : State) (n : Nat) (x : Counter) : State :=
  { s with counters := Tab.put n x s.counters }

def State.region (s : State) (r : Nat) : RegionRec := Tab.getD .free s.regions r
def State.setRegion (s : State) (r : Nat) (x : RegionRec) : State :=
  { s with regions := Tab.put r x s.regions }

def State.cmd (s : State) (id : Nat) : Option Cmd := Tab.find id s.cmds
def State.setCmd (s : State) (id : Nat) (c : Cmd) : State := { s with cmds := Tab.put id c s.cmds }
def State.onCmd (s : State) (id : Nat) (g : Cmd → Cmd) : State :=
  { s with cmds := Tab.modify id g s.cmds }

def State.route (s : State) (r : Nat) : Option Route := Tab.find r s.routes
def State.setRoute (s : State) (r : Nat) (x : Route) : State := { s with routes := Tab.put r x s.routes }
def State.onRoute (s : State) (r : Nat) (g : Route → Route) : State :=
  { s with routes := Tab.modify r g s.routes }

def State.run (s : State) (r : Nat) : Option Run := Tab.find r s.runs
def State.setRun (s : State) (r : Nat) (x : Run) : State := { s with runs := Tab.put r x s.runs }
def State.onRun (s : State) (r : Nat) (g : Run → Run) : State := { s with runs := Tab.modify r g s.runs }

/-- The step a core has dispatched and not started: its run, its index and itself. -/
def State.readyStep (s : State) (core : Nat) : Option (Nat × Nat × RouteStep) :=
  match (s.core core).running with
  | .ready rid i => ((s.run rid).bind fun r => r.steps[i]?).map fun st => (rid, i, st)
  | _ => none

def State.stream (s : State) (n : Nat) : Option Stream := Tab.find n s.streams
def State.setStream (s : State) (n : Nat) (x : Stream) : State :=
  { s with streams := Tab.put n x s.streams }
def State.onStream (s : State) (n : Nat) (g : Stream → Stream) : State :=
  { s with streams := Tab.modify n g s.streams }

def State.onChannel (s : State) (n : Nat) (g : Channel → Channel) : State :=
  { s with channels := Tab.modify n g s.channels }

/-- The chronometer's integer part (R268). -/
def State.now (s : State) : Nat := s.time.ns

/-- Whether the device computes: it has reported ready and is not halted (R442, R446). -/
def State.working (s : State) : Bool := s.health.halt.isNone && s.power.boot == .ready

/-- Whether the ports may link up: from the end of training on (Table 21-4). -/
def State.linking (s : State) : Bool :=
  s.health.halt.isNone && (s.power.boot == .trained || s.power.boot == .scrubbed || s.power.boot == .ready)

/-- Whether the always-on domain is supplied (R441). -/
def State.standby (s : State) : Bool := s.power.boot != .off && s.power.boot != .started

/-- The partition that holds a core (R313). -/
def State.partitionOf (s : State) (core : Nat) : Option Nat :=
  (s.parts.find? fun e => e.2.enabled && bitOf e.2.cores core).map (·.1)

/-- Every core of a partition changed. -/
def State.onCores (s : State) (mask : Nat) (f : Core → Core) : State :=
  (bitsOf 6 mask).foldl (fun s c => s.onCore c f) s

/-- Whether a partition is confidential (R335). -/
def State.isConf (s : State) (p : Nat) : Bool := (s.part p).conf

/-- Whether the device belongs to a cascade (R357). -/
def State.inCascade (s : State) : Bool := s.cascade.members != 0

/-- Whether the device is master: MASTER_SEL was high, its PCI Express link has reached L0, and it is no member of another
device's cascade, since a member never becomes master (R357). -/
def State.isMaster (s : State) : Bool :=
  s.cascade.masterSel && s.cascade.linkL0 && s.cascade.master.all (· == s.cascade.device)

/-- A fresh free value: its number, and the state in which the next one is fresh (log entry 3). -/
def State.draw (s : State) : Nat × State := (s.freeCount, { s with freeCount := s.freeCount + 1 })

/-! ### Counters and what the device sends -/

/-- `n` added to counter `i` of group `g` of Table 23-7, modulo 2^64. Groups 52 to 54 lie in the boot
flash (R473). -/
def State.count (s : State) (g i : Nat) (n : Nat := 1) : State :=
  if 52 ≤ g ∧ g ≤ 54 then
    { s with flash := { s.flash with
        tally := Tab.setD 0 s.flash.tally (8 * g + i) ((Tab.getD 0 s.flash.tally (8 * g + i) + n) % 2 ^ 64) } }
  else
    { s with tally := Tab.setD 0 s.tally (8 * g + i) ((Tab.getD 0 s.tally (8 * g + i) + n) % 2 ^ 64) }

/-- A counter marked † of Table 23-7: work of a confidential partition never adds to it (R338). -/
def State.countFor (s : State) (p g i : Nat) (n : Nat := 1) : State :=
  if s.isConf p then s else s.count g i n

/-- The same for the work of a core. -/
def State.countCore (s : State) (core g i : Nat) (n : Nat := 1) : State :=
  match s.partitionOf core with
  | some p => s.countFor p g i n
  | none => s.count g i n

/-- The value of a counter. -/
def State.counterValue (s : State) (g i : Nat) : Nat :=
  if 52 ≤ g ∧ g ≤ 54 then Tab.getD 0 s.flash.tally (8 * g + i) else Tab.getD 0 s.tally (8 * g + i)

/-- One thing sent (log entry 11). -/
def State.emit (s : State) (o : Out) : State := { s with outbox := s.outbox ++ [o] }

/-- A GST_EVENT bit set (R468). -/
def State.event (s : State) (i : Nat) : State :=
  { s with health := { s.health with events := s.health.events ||| 2 ^ i } }

/-- An I3C in-band interrupt (R430), unless DISEC has disabled it (log entry 38). -/
def State.ibi (s : State) : State := if bitOf s.mgt.i3cEvents 0 then s.emit .ibi else s

/-- An MSI-X message of a function's vector: sent, or left pending while the entry is masked or Bus
Master Enable is 0 (R296; log entry 12). -/
def State.msix (s : State) (f v : Nat) : State :=
  let x := s.fn f
  if bitOf x.msix.mask v || !x.busMaster then
    s.setFn f { x with msix := { x.msix with pba := x.msix.pba ||| 2 ^ v } }
  else s.emit (.msix f v (Tab.getD 0 x.msix.addr v) (Tab.getD 0 x.msix.data v))

/-- Pending messages of a function that may now be sent (log entry 12). -/
def State.flushMsix (s : State) (f : Nat) : State :=
  let x := s.fn f
  if !x.busMaster then s
  else
    let due := bitsOf 64 (x.msix.pba &&& (x.msix.mask ^^^ (2 ^ 64 - 1)))
    due.foldl (fun s v => s.emit (.msix f v (Tab.getD 0 x.msix.addr v) (Tab.getD 0 x.msix.data v)))
      (s.setFn f { x with msix := { x.msix with pba := x.msix.pba &&& x.msix.mask } })

/-- A function's interrupt cause set, then its vector signalled (R469). -/
def State.signal (s : State) (f causeBit vector : Nat) : State :=
  (s.onFn f fun x => { x with cause := x.cause ||| 2 ^ causeBit }).msix f vector

/-! ### Perturbation -/

/-- One step of the 32-bit Galois LFSR with polynomial 0x8020_0003 (R459). -/
def lfsrNext (x : Nat) : Nat := (x / 2) ^^^ (if x % 2 = 1 then 0x80200003 else 0)

/-- Whether an entry acts on an event of a kind, unit and select (Tables 22-2 and 22-3). -/
def PerturbEntry.acts (e : PerturbEntry) (kind unit select : Nat) : Bool :=
  e.kind == kind && e.unit == unit &&
  (if kind = 1 then e.select == select else if kind = 4 then e.select == 0xFF || e.select == select else true)

/-- The delay an entry adds to one event (R459). -/
def PerturbEntry.delay (e : PerturbEntry) : Nat := if e.random then e.lfsr % (e.value + 1) else e.value

/-- One event of a partition met by its perturbation: delayed events are counted and the generators step
on; a delay changes no value (R459, R460, R464). -/
def State.perturbed (s : State) (p kind unit select : Nat) : State :=
  let es := (s.part p).perturb
  if es.isEmpty then s
  else
    let moved := es.map fun e =>
      if e.acts kind unit select && e.random then { e with lfsr := lfsrNext e.lfsr } else e
    let s := s.onPart p fun x => { x with perturb := moved }
    if es.any (fun e => e.acts kind unit select && 0 < e.delay) then s.count 56 kind else s

/-- An event on a core met by its partition's perturbation. -/
def State.perturbedOn (s : State) (core kind select : Nat) : State :=
  match s.partitionOf core with
  | some p => s.perturbed p kind core select
  | none => s

/-! ### How commands end -/

/-- The first notice of the ranking of R302, and the notice mask it stands with. -/
def rankedNotice (notices : Nat) : Status :=
  if bitOf notices 2 then .metaDropped else if bitOf notices 3 then .saturated
  else if bitOf notices 4 then .scaleExcursion else if bitOf notices 5 then .dupClaim
  else if bitOf notices 1 then .deferred else .ok

/-- A command in flight ends with a raw status and DETAIL: its completion awaits COMMAND_COMPLETION.
A completion held while Bus Master Enable is 0 is counted (R420, R434). -/
def State.endRaw (s : State) (id status detail : Nat) : State :=
  match s.cmd id with
  | none => s
  | some c =>
    if c.phase = .ended then s
    else
      let s1 := { s with
        cmds := Tab.put id { c with phase := .ended, status := status, detail := detail % 2 ^ 64,
                                    ended := s.ended, doneAt := s.now } s.cmds
        ended := s.ended + 1 }
      if c.relay.isNone && !(s.fn c.fn).busMaster then s1.count 51 2 else s1

/-- A command ends with a status that is not of class 0x00, and a DETAIL its rule defines (R291). -/
def State.fail (s : State) (id : Nat) (st : Status) (detail : Nat := 0) : State :=
  (s.onCmd id fun c => { c with result := none }).endRaw id st.code detail

/-- A command completes: the notice mask in DETAIL[7:0], the result value in DETAIL[63:32] (R302). -/
def State.complete (s : State) (id : Nat) (value : Nat := 0) (notices : Nat := 0) : State :=
  let mask := notices % 64
  s.endRaw id (rankedNotice mask).code (mask + value % 2 ^ 32 * 2 ^ 32)

/-- A result block to be written to host memory before the completion entry (R294, R305). -/
def State.result (s : State) (id addr : Nat) (block : Bytes) : State :=
  s.onCmd id fun c => { c with result := some (addr, block) }

/-! ### Device memory -/

/-- The physical region of partition `p`'s logical region `l` (R221, R222). -/
def State.physRegion (s : State) (p l : Nat) : Option Nat :=
  (s.regions.find? fun e => e.2.owner == p && e.2.logical == l && !e.2.unmapping).map (·.1)

/-- The physical address of a partition address. -/
def State.phys (s : State) (p a : Nat) : Option Nat :=
  if 2 ^ 40 ≤ a then none else (s.physRegion p (a / 2 ^ 30)).map fun r => r * 2 ^ 30 + a % 2 ^ 30

/-- Whether every byte of a range is in a region the partition holds (R222). -/
def State.mapped (s : State) (p a n : Nat) : Bool :=
  n == 0 || (List.range ((a + n - 1) / 2 ^ 30 - a / 2 ^ 30 + 1)).all fun i =>
    (s.phys p ((a / 2 ^ 30 + i) * 2 ^ 30)).isSome

/-- The parts of a range that lie in one region each: address and length. -/
def regionParts (a n : Nat) : List (Nat × Nat) :=
  if n = 0 then []
  else (List.range ((a + n - 1) / 2 ^ 30 - a / 2 ^ 30 + 1)).map fun i =>
    let lo := max a ((a / 2 ^ 30 + i) * 2 ^ 30)
    (lo, min (a + n) ((a / 2 ^ 30 + i + 1) * 2 ^ 30) - lo)

/-- Bytes of partition memory; none where the map refuses (R222). -/
def State.read (s : State) (p a n : Nat) : Option Bytes :=
  if s.mapped p a n then
    some ((regionParts a n).flatMap fun q => readBytes s.mem ((s.phys p q.1).getD 0) q.2)
  else none

/-- The stack of a physical address (R212, R217). -/
def stackOf (pa : Nat) : Nat :=
  (field pa 18 11 ^^^ field pa 26 19 ^^^ field pa 34 27 ^^^ field pa 39 35) / 16

/-- A request to the stacks of a physical range, dated for R214. -/
def State.request (s : State) (pa n : Nat) : State :=
  if n = 0 then s
  else { s with memUsed := (List.range (min 256 ((pa + n - 1) / 2048 - pa / 2048 + 1))).foldl (fun t i =>
      Tab.put (stackOf ((pa / 2048 + i) * 2048)) s.time.ns t) s.memUsed }

/-- Bytes written to partition memory; none where the map refuses (R222). -/
def State.write (s : State) (p a : Nat) (b : Bytes) : Option State :=
  if s.mapped p a b.length then
    some ((regionParts a b.length).foldl
      (fun s q => { s.request ((s.phys p q.1).getD 0) q.2 with
        mem := writeBytes s.mem ((s.phys p q.1).getD 0) ((b.drop (q.1 - a)).take q.2) }) s)
  else none

/-- A refusal of the partition map counted (R222, R235). -/
def State.refusal (s : State) : State := s.count 42 4

/-! ### Reads that meet the link check -/

/-- Bits of a byte string flipped (R216). -/
def flipBytes (bs : Bytes) (flips : List (Nat × Byte)) : Bytes :=
  flips.foldl (fun bs f => match bs[f.1]? with
    | some b => bs.set f.1 (b ^^^ f.2)
    | none => bs) bs

/-- Whether the link check fails on the read and on its repetition (R216). -/
def linkFails (r : LinkResponse) : Bool := r.firstFails && r.secondFails

/-- The responses that a read of lines `[lo, hi]` meets, the first one given for each line, and the rest. -/
def takeLinks (lo hi : Nat) (ls : List (Nat × LinkResponse)) : List (Nat × LinkResponse) × List (Nat × LinkResponse) :=
  ls.foldl (fun q e =>
    if lo ≤ e.1 ∧ e.1 ≤ hi ∧ !q.1.any (·.1 == e.1) then (q.1 ++ [e], q.2) else (q.1, q.2 ++ [e])) ([], [])

/-- The flips that failing lines bring into the bytes from physical address `pa` on. -/
def linkFlips (pa : Nat) (hits : List (Nat × LinkResponse)) : List (Nat × Byte) :=
  (hits.filter (fun e => linkFails e.2)).flatMap fun e => e.2.flips.filterMap fun f =>
    if pa ≤ 64 * e.1 + f.1 then some (64 * e.1 + f.1 - pa, f.2) else none

/-- A read the map grants: the state after it, with the requests dated and each failing line counted; whether a link check
failed; and the bytes as read (R214, R216, R235). -/
def State.readOnce (s : State) (p a n : Nat) : State × Bool × Bytes :=
  (regionParts a n).foldl (fun acc q =>
    let pa := (acc.1.phys p q.1).getD 0
    let (hits, left) := takeLinks (pa / 64) ((pa + q.2 - 1) / 64) acc.1.links
    let failed := (hits.filter (fun e => linkFails e.2)).length
    (({ acc.1.request pa q.2 with links := left }).countFor p 42 0 failed, acc.2.1 || failed != 0,
      acc.2.2 ++ flipBytes (readBytes acc.1.mem pa q.2) (linkFlips pa hits))) (s, false, [])

/-- A read of bytes that are no tile, by the control core: a refusal of the map and a failed link check end the command
(R216, R222). -/
def State.readParams (s : State) (p a n : Nat) : State × Except Status Bytes :=
  if !s.mapped p a n then (s.refusal, .error .badParam)
  else
    let (s, failed, b) := s.readOnce p a n
    (s, if failed then .error .sealFault else .ok b)

/-- The tile addresses of a list of partition memory: address and count (R320). -/
def State.readList (s : State) (p : Nat) (e : Nat × Nat) : State × Except Status (List Nat) :=
  match s.readParams p e.1 (8 * e.2) with
  | (s, .error st) => (s, .error st)
  | (s, .ok b) => (s, .ok ((List.range e.2).map fun i => leAt b (8 * i) 8))

/-- A tile of partition memory as read: its header line and payload bytes; none where the map refuses
the header. A payload that would leave the region is not read (R224). -/
def State.readTile (s : State) (p a : Nat) : Option (Bytes × Bytes) :=
  match s.read p a 64 with
  | none => none
  | some line =>
    let h := TileHdr.decode line
    if h.magic = sealedMagic ∧ h.payloadLen ≤ 65536 ∧ withinRegion a h.span then
      some (line, (s.read p (a + 64) h.payloadLen).getD [])
    else some (line, [])

/-- How a tile check ends a command (R229, R230). -/
def TileCheck.status : TileCheck → Status
  | .good => .ok
  | .missing => .sealMissing
  | .mismatch => .sealFault
  | .metaFault => .metaFault
  | .oversize => .formatOversize

/-- The DETAIL of a tile failure: the address over 64 for a seal fault (R230). -/
def TileCheck.detail (a : Nat) : TileCheck → Nat
  | .mismatch => a / 64
  | _ => 0

/-- Counts of a tile failure (R235). -/
def State.countTile (s : State) (p : Nat) : TileCheck → State
  | .missing => s.count 42 3
  | .mismatch => s.countFor p 42 2
  | _ => s

/-- Bytes of a tile that a read fetches: the whole tile where its header lets it, else its header line (R224). -/
def State.tileLength (s : State) (p a : Nat) : Nat :=
  let h := TileHdr.decode ((s.read p a 64).getD [])
  if h.magic = sealedMagic ∧ h.payloadLen ≤ 65536 ∧ withinRegion a h.span then 64 + h.payloadLen else 64

/-- One read of a tile and its checks (R216, R229): the state, the check and the bytes. -/
def State.tileOnce (s : State) (p a : Nat) (want : TileExpect) : State × TileCheck × Bytes :=
  let (s, _, b) := s.readOnce p a (s.tileLength p a)
  (s, checkTile want a (slice b 0 64) (b.drop 64), b)

/-- Whether a reader may read a mismatching tile once more: a frame's run reads one tile again at most (R230, R231). -/
def State.mayReread (s : State) (rid : Option Nat) : Bool :=
  match rid.bind s.run with
  | some r => !r.reread || (match r.serves with | .frame _ _ _ _ => false | .command _ => true)
  | none => true

/-- A tile checked on use by an engine other than the arrays, for a run where one is named (R222, R229 to R231): header
and payload, or how the command ends: the status and its detail. -/
def State.useTile (s : State) (p a : Nat) (want : TileExpect) (rid : Option Nat := none) :
    State × Except (Status × Nat) (TileHdr × Bytes) :=
  if !s.mapped p a 64 then (s.refusal, .error (.badParam, 0))
  else
    let done (s : State) (c : TileCheck) (b : Bytes) : State × Except (Status × Nat) (TileHdr × Bytes) :=
      match c with
      | .good => (s, .ok (TileHdr.decode b, b.drop 64))
      | c => (s.countTile p c, .error (c.status, c.detail a))
    match s.tileOnce p a want with
    | (s, .mismatch, b) =>
      if !s.mayReread rid then done s .mismatch b
      else
        let s := match rid with | some r => s.onRun r fun r => { r with reread := true } | none => s
        match s.tileOnce p a want with
        | (s, .good, b) => done (s.countFor p 42 1) .good b
        | (s, c, b) => done s c b
    | (s, c, b) => done s c b

/-- A sealed tile written in the order of R227; its lines are in memory when the header is sealed. None where the map
refuses it (R222). -/
def State.writeTile (s : State) (p a : Nat) (h : TileHdr) (payload : Bytes) : Option State :=
  let h := { h with payloadLen := payload.length, writer := p }
  s.write p a (h.seal payload)

/-- The header line with MAGIC 0 that a tile starts with (R227, step 1). -/
def State.openTile (s : State) (p a : Nat) (h : TileHdr) : Option State :=
  s.write p a ({ h with writer := p }).unsealedLine

/-! ### Settings in force -/

/-- The cap setting and the admission setting (R262, R263). -/
def State.capSetting (s : State) : Nat := Sys2Proof.Machine.capSetting s.config.cap
def State.admission (s : State) : Nat := min s.config.knob s.capSetting

/-- The floor in force (R267): of the present setting, or of the lower one around a change. -/
def State.floor (s : State) : Nat :=
  let n := match s.power.change.filter (·.moving) with
    | some c => min c.source c.goal
    | none => if s.now < s.power.floorUntil then min s.power.floorLow s.power.vcore else s.power.vcore
  floorPace n

/-- The cascade size the loader and the tiler see: 1 for a device alone (Table 8-1). -/
def State.cascadeSize (s : State) : Nat := max 1 (popCount 64 s.cascade.members)

/-! ### Flits -/

/-- A flit (Table 17-2): its LCRC is the CRC-64 of R228 over bytes 0 to 247. Its words are little-endian, which the manual
says of no PLink word (DESIGN CHOICE, log entry 68). -/
def flitBytes (halted nak : Bool) (seq ack : Nat) (f : FlitOut) : Bytes :=
  let w := f.kind + f.cls * 2 ^ 4 + bit halted * 2 ^ 6 + bit nak * 2 ^ 7 + seq % 4096 * 2 ^ 8 +
    ack % 4096 * 2 ^ 20 + f.creditClass * 2 ^ 32 + f.credit % 1024 * 2 ^ 34
  let b := leBytes 8 w ++ slice f.payload 0 240
  b ++ leBytes 8 (crc64 b)

/-- An IDLE flit that returns nothing. -/
def idleFlit : FlitOut := { kind := 0, cls := 0, creditClass := 0, credit := 0, payload := [] }

/-- An IDLE flit sent on a port with a link (R360). -/
def State.sendIdle (s : State) (p : Nat) (nak : Bool) (f : FlitOut := idleFlit) : State :=
  match (s.port p).link with
  | none => s
  | some l =>
    s.emit (.flit p (flitBytes s.health.halt.isSome nak (l.ackSeq + l.replay.length) l.expected f))

/-! ### Halt -/

/-- Every command in flight ends with ST_DEVICE_HALTED, T_ACCEPT and T_DONE equal (R292, R446). -/
def State.haltCommands (s : State) : State :=
  s.cmds.foldl (fun s e =>
    if e.2.phase = .ended then s
    else (s.onCmd e.1 fun c => { c with accepted := s.now }).fail e.1 .deviceHalted) s

/-- What the device shows of a halt (R446, step 2): FAULT#, vector 61 on every enabled function whose Bus
Master Enable is 1, an in-band interrupt, HALTED on PLink, the Ethernet links down. -/
def State.showHalt (s : State) : State :=
  let s := s.emit (.pin .faultN true)
  let fs := (List.range 7).filter fun f => (f == 0 || (s.part f).enabled) && (s.fn f).busMaster
  let s := fs.foldl (fun s f => s.signal f 0 61) s
  let s := s.ibi
  let s := (List.range 16).foldl (fun s p => if (s.port p).up then s.sendIdle p false else s) s
  let s := if s.ports.any fun e => e.2.ethernet && e.2.up then s.event 6 else s
  { s with ports := s.ports.map fun e =>
      (e.1, if e.2.ethernet then { e.2 with up := false } else e.2) }

/-- The cause counted: causes 1 to 8 in group 53, cause 9 in group 52 (Table 23-7). -/
def State.countHalt (s : State) (cause : Nat) : State :=
  if cause = 9 then s.count 52 7 else s.count 53 (cause - 1)

/-- A cause that joins a halt whose record is not yet written: CAUSE_MASK takes it, and the record is of the
lowest code detected in the first one's step (R448). -/
def Halt.join (old h : Halt) (now : Nat) : Halt :=
  let mask := old.mask ||| 2 ^ h.cause
  if old.time = now ∧ h.cause < old.cause then { h with mask := mask, time := now, request := old.request }
  else { old with mask := mask }

/-- A device fault (R445 to R448): the device halts; a cause found before the record is written joins
CAUSE_MASK; one found after it is counted. -/
def State.fault (s : State) (h : Halt) : State :=
  match s.health.halt with
  | some old =>
    if old.recorded then s.count 52 6
    else { s with health := { s.health with halt := some (old.join h s.now) } }
  | none =>
    let s := { s with health := { s.health with halt := some { h with mask := 2 ^ h.cause, time := s.now } } }
    s.haltCommands.showHalt

/-- A fault that concerns no core, unit, stream or frame. -/
def faultOf (cause detail : Nat) : Halt :=
  { cause := cause, mask := 0, time := 0, core := 7, unit := 0xFFFF, stream := 0xFFFF, frame := 0,
    deadline := 0, detail := detail, recorded := false, request := none }

end Sys2Proof.Machine
end

