-- ==== Sys2Proof/Machine/Links.lean ====
section
/-! DEFINITION. PLink: paths, messages, flits, credits, retry and what a neighbour's loss starts
(R358 to R364, R371, R373). -/

namespace Sys2Proof.Machine

/-! ### Paths and messages -/

/-- The port a message leaves by: along nodes on ports 7 and 8, then one intra-node port (R359). -/
def nextPort (here there : Nat) : Nat :=
  if there / 8 < here / 8 then 7
  else if here / 8 < there / 8 then 8
  else (there % 8 + 16 - here % 8 - 1) % 8

/-- The device at the far end of a port (Table 17-1); none on ports 9 to 15 and off the shape. -/
def portPeer (here p : Nat) : Option Nat :=
  if p ≤ 6 then some (here / 8 * 8 + (here % 8 + p + 1) % 8)
  else if p = 7 then (if 8 ≤ here then some (here - 8) else none)
  else if p = 8 then (if here + 8 < 64 then some (here + 8) else none)
  else none

/-- The credit class of a message type (Table 17-5). -/
def messageClass (type : Nat) : Nat :=
  if type = 3 then 1 else if type = 8 then 2
  else if type = 1 ∨ type = 5 ∨ type = 7 ∨ type = 11 then 0 else 3

/-- Receive buffers per class in flits (Table 17-3). -/
def classBuffers : List Nat := [128, 1024, 1024, 128]

/-- The 48-byte header (Table 17-4), its fields little-endian as every message word is here: R4 names no byte order for
PLink (DESIGN CHOICE, log entry 68). -/
def Message.header (m : Message) (no : Nat) : Bytes :=
  leBytes 1 m.type ++ leBytes 1 m.partition ++ leBytes 1 m.srcDevice ++ leBytes 1 m.srcCore ++
  leBytes 1 m.dstDevice ++ leBytes 1 m.dstCore ++ leBytes 1 m.box ++ leBytes 1 0 ++
  leBytes 4 m.payload.length ++ leBytes 4 m.offset ++ leBytes 8 m.postmark ++ leBytes 8 no ++
  leBytes 8 m.arg ++ zeros 8

/-- A message read from its header and opened payload (little-endian, log entry 68). -/
def Message.decode (h payload : Bytes) : Message :=
  { type := leAt h 0 1, partition := leAt h 1 1 % 8, srcDevice := leAt h 2 1 % 64,
    srcCore := leAt h 3 1 % 8, dstDevice := leAt h 4 1 % 64, dstCore := leAt h 5 1 % 8,
    box := leAt h 6 1 % 64, offset := leAt h 12 4 % 2 ^ 27, postmark := leAt h 16 8,
    arg := leAt h 32 8, payload := payload }

/-- A message with nothing but its type and ends. -/
def Message.plain (type src dst arg : Nat) (payload : Bytes) : Message :=
  { type := type, partition := 0, srcDevice := src, srcCore := 0, dstDevice := dst, dstCore := 0,
    box := 0, offset := 0, postmark := 0, arg := arg, payload := payload }

/-- A protected message cut into flits of its class (R360, R363). -/
def toFlits (cls : Nat) (bytes : Bytes) : List FlitOut :=
  let ps := pieces 240 (bytes.length / 240 + 1) bytes
  (List.range ps.length).map fun i =>
    { kind := if ps.length = 1 then 4 else if i = 0 then 1 else if i + 1 = ps.length then 3 else 2
      cls := cls, creditClass := 0, credit := 0, payload := ps.getD i [] }

/-- The nonce of R364: the link salt, then MSG_NO (little-endian, log entry 68). -/
def linkNonce (salt : Bytes) (no : Nat) : Bytes := slice salt 0 4 ++ leBytes 8 no

/-! ### Sending -/

/-- A class whose freed buffers are to be returned, and how many flits of it (R360). -/
def Link.giveBack (l : Link) : Nat × Nat :=
  match (List.range 4).find? fun c => 0 < l.freed.getD c 0 with
  | some c => (c, min 1023 (l.freed.getD c 0))
  | none => (0, 0)

/-- Flits sent while credit and replay room last, class by class (R361, R362). `n` bounds the flits. -/
def State.pump (p : Nat) : Nat → State → State
  | 0, s => s
  | n + 1, s =>
    match (s.port p).link with
    | none => s
    | some l =>
      let can := (List.range 4).find? fun c => !(l.queues.getD c []).isEmpty && 0 < l.credits.getD c 0
      if l.retraining || 512 ≤ l.replay.length then s
      else match can with
        | none => s
        | some c =>
          match l.queues.getD c [] with
          | [] => s
          | f :: rest =>
            let (cc, cn) := l.giveBack
            let f := { f with creditClass := cc, credit := cn }
            let seq := l.ackSeq + l.replay.length
            let l' := { l with
              queues := l.queues.set c rest
              credits := l.credits.set c (l.credits.getD c 0 - 1)
              freed := l.freed.set cc (l.freed.getD cc 0 - cn)
              replay := l.replay ++ [f]
              ackTime := if l.replay.isEmpty then s.now else l.ackTime }
            let s := (s.onPort p fun x => { x with link := some l' }).emit
              (.flit p (flitBytes s.health.halt.isSome false seq l.expected f))
            State.pump p n s

/-- A message protected for a link and queued on its port (R363, R364). -/
def State.sendOn (s : State) (p : Nat) (m : Message) : State :=
  match (s.port p).link with
  | none => s
  | some l =>
    let h := m.header l.txMsg
    let body := slice (Config.gcmSeal l.txKey (linkNonce l.txSalt l.txMsg) h m.payload) 0 (m.payload.length + 16)
    let c := messageClass m.type
    let l' := { l with txMsg := l.txMsg + 1, queues := l.queues.set c (l.queues.getD c [] ++ toFlits c (h ++ body)) }
    State.pump p 1024 (s.onPort p fun x => { x with link := some l' })

/-- A message sent towards its destination device; one for this device itself arrives at once (R359). -/
def State.send (s : State) (m : Message) : State :=
  if m.dstDevice = s.cascade.device then
    { s with cascade := { s.cascade with arrived := s.cascade.arrived ++ [m] } }
  else s.sendOn (nextPort s.cascade.device m.dstDevice) m

/-- A message to every other member that is not lost. -/
def State.sendAll (s : State) (f : Nat → Message) : State :=
  ((bitsOf 64 s.cascade.members).filter fun d => d != s.cascade.device && !bitOf s.cascade.lost d).foldl
    (fun s d => s.send (f d)) s

/-! ### Losing a neighbour -/

/-- A MEMBER message (Table 17-5): event and device concerned in ARG, the member mask as payload (little-endian, log
entry 68). -/
def State.member (s : State) (dst event device : Nat) (mask : Nat) : Message :=
  Message.plain 11 s.cascade.device dst (event + device * 2 ^ 8) (leBytes 8 mask)

/-- The notice that a device is lost, to be acted on by MEMBER_LOST or MEMBER_MASTER_LOST (R373, R375):
the finder tells the master, or every member where the master itself is lost. -/
def State.markLost (s : State) (d : Nat) : State :=
  if !bitOf s.cascade.members d || bitOf s.cascade.lost d || d = s.cascade.device ||
     s.cascade.notices.contains d then s
  else
    let s := { s with cascade := { s.cascade with notices := s.cascade.notices ++ [d] } }
    if s.cascade.master = some d then s.sendAll fun m => s.member m 5 d s.cascade.members
    else if s.isMaster then s.sendAll fun m => s.member m 1 d (2 ^ d)
    else match s.cascade.master with
      | some m => s.send (s.member m 1 d (2 ^ d))
      | none => s

/-- A port's link goes down: the event, and for PLink the neighbour's loss (R361, R364, R373). -/
def State.linkDown (s : State) (p : Nat) : State :=
  let peer := (s.port p).link.map (·.peer)
  let s := (s.onPort p fun x => { x with up := false, link := none, neighbours := [] }).event 6
  match peer with
  | none => s
  | some d => s.markLost d

/-! ### Receiving -/

/-- Flits sent again from the oldest unacknowledged one (R361). -/
def State.replayAll (s : State) (p : Nat) : State :=
  match (s.port p).link with
  | none => s
  | some l =>
    (List.range l.replay.length).foldl (fun s i =>
      s.emit (.flit p (flitBytes s.health.halt.isSome false (l.ackSeq + i) l.expected
        (l.replay.getD i idleFlit)))) s

/-- One more replay, or after sixteen without progress a retrain of the port (R361). -/
def State.replayOrRetrain (s : State) (p : Nat) : State :=
  match (s.port p).link with
  | none => s
  | some l =>
    let l := { l with ackTime := s.now }
    if l.retraining || l.replay.isEmpty then s
    else if 16 ≤ l.replays then
      (s.onPort p fun x => { x with link := some { l with retraining := true } }).count (22 + p) 3
    else
      ((s.onPort p fun x => { x with link := some { l with replays := l.replays + 1 } }).replayAll p).count (22 + p) 1

/-- ACK, credit and expiry taken from a valid flit: how many flits ACK passes, and the credit returned
where the flit counts (R361, R362, R371). -/
def Link.take (l : Link) (now ack : Nat) (counts : Bool) (cc credit : Nat) : Link :=
  let passed := (ack + 4096 - l.ackSeq % 4096) % 4096
  let l := if passed ≤ l.replay.length ∧ 0 < passed then
      { l with replay := l.replay.drop passed, ackSeq := (l.ackSeq + passed) % 4096, replays := 0, ackTime := now }
    else l
  let l := if counts then
      { l with credits := l.credits.set cc (min (classBuffers.getD cc 0) (l.credits.getD cc 0 + credit)) } else l
  { l with poolExpiry := l.poolExpiry.map fun _ => now + 10000000 }

/-- Whether TYPE is one of Table 17-5. -/
def Message.typed (m : Message) : Bool := 1 ≤ m.type && m.type ≤ 11

/-- Whether TYPE, and with it the event or kind, is one of Tables 17-5 and 18-2 or of log entry 35. -/
def Message.known (m : Message) : Bool :=
  m.typed && (m.type != 11 || (1 ≤ m.arg % 256 && m.arg % 256 ≤ 9)) &&
  (m.type != 8 || field m.arg 14 12 ≤ 4)

/-- Whether a message comes from a lost device and is none of those by which it joins again (R374, R377). -/
def State.shuns (s : State) (m : Message) : Bool :=
  bitOf s.cascade.lost m.srcDevice && !(m.type == 11 && [2, 3, 6, 7].contains (m.arg % 256))

/-- A whole message received on a port: opened, delivered here or forwarded (R359, R364). A tag failure
takes the link down; a message of an unknown TYPE is discarded and counted on its way, one of an unknown kind or from a
lost device where it arrives (R363, R374). -/
def State.receiveMessage (s : State) (p : Nat) (bytes : Bytes) : State :=
  match (s.port p).link with
  | none => s
  | some l =>
    let h := slice bytes 0 48
    let len := leAt h 8 4
    match Config.gcmOpen l.rxKey (linkNonce l.rxSalt l.rxMsg) h (slice bytes 48 (len + 16)) with
    | none => (s.count (22 + p) 6).linkDown p
    | some body =>
      let m := Message.decode h (slice body 0 len)
      let s := s.onPort p fun x => { x with link := some { l with rxMsg := l.rxMsg + 1 } }
      if !m.typed then s.count (22 + p) 7
      else if m.dstDevice ≠ s.cascade.device then s.send m
      else if !m.known || s.shuns m then s.count (22 + p) 7
      else { s with cascade := { s.cascade with arrived := s.cascade.arrived ++ [m] } }

/-- A non-IDLE flit in order: its buffer is freed, and a finished message goes on (R360, R362). -/
def State.acceptFlit (s : State) (p kind cls : Nat) (payload : Bytes) : State :=
  match (s.port p).link with
  | none => s
  | some l =>
    let l := { l with expected := (l.expected + 1) % 4096, nakSent := false,
                      freed := l.freed.set cls (l.freed.getD cls 0 + 1) }
    let got := if kind = 1 ∨ kind = 4 then [payload] else l.partials.getD cls [] ++ [payload]
    let ends := kind = 3 ∨ kind = 4
    let l := if 4 < kind then l else { l with partials := l.partials.set cls (if ends then [] else got) }
    let s := s.onPort p fun x => { x with link := some l }
    if 4 < kind then s.count (22 + p) 7
    else if ends then s.receiveMessage p got.flatten else s

/-- A flit on a port (R360 to R364, R373), its first 8 bytes and its LCRC little-endian (log entry 68). One whose LCRC
fails asks once for a replay; one out of sequence is discarded and counted. -/
def State.flit (s : State) (p : Nat) (raw : Bytes) : State :=
  match (s.port p).link with
  | none => s
  | some l =>
    let b := slice raw 0 248
    if crc64 b ≠ leAt raw 248 8 then
      let s := s.count (22 + p) 0
      if 0x11 ≤ l.version ∧ !l.nakSent then
        ((s.onPort p fun x => { x with link := some { l with nakSent := true } }).count (22 + p) 2).sendIdle p true
      else s
    else
      let w := leAt b 0 8
      let kind := field w 3 0
      let cls := field w 5 4
      let seq := field w 19 8
      let inOrder := kind = 0 ∨ seq = l.expected
      let l := l.take s.now (field w 31 20) inOrder (field w 33 32) (field w 43 34)
      let s := s.onPort p fun x => { x with link := some l }
      let s := if bitOf w 6 then s.markLost l.peer else s
      let s := if bitOf w 7 && 0x11 ≤ l.version then s.replayOrRetrain p else s
      let s := if kind = 0 then s else if seq = l.expected then s.acceptFlit p kind cls (slice b 8 240)
        else s.count (22 + p) 7
      let s := State.pump p 1024 s
      match (s.port p).link with
      | none => s
      | some l =>
        if kind = 0 then s
        else
          let (cc, cn) := l.giveBack
          let s := s.onPort p fun x => { x with link := some { l with freed := l.freed.set cc (l.freed.getD cc 0 - cn) } }
          s.sendIdle p false { idleFlit with creditClass := cc, credit := cn }

/-- The oldest arrived message of a kind, and the state without it (log entry 8). -/
def State.takeArrived (s : State) (is : Message → Bool) : Option (Message × State) :=
  match s.cascade.arrived.find? is with
  | none => none
  | some m => some (m, { s with cascade := { s.cascade with arrived := s.cascade.arrived.erase m } })

end Sys2Proof.Machine
end

