-- ==== Sys2Proof/Machine/Commands.lean ====
section
/-! DEFINITION. Command packets, the opcode table, the checks before an opcode's own, how a command
starts, and completion entries (R284 to R308). -/

namespace Sys2Proof.Machine

/-! ### Packets -/

/-- A submission entry (Table 14-2). -/
def decodePacket (b : Bytes) : Packet :=
  let f := leAt b 3 1
  let byRef := bitOf f 1
  { opcode := leAt b 0 2, version := leAt b 2 1, fence := bitOf f 0, byRef := byRef,
    noIrq := bitOf f 2, tag := leAt b 4 4, partition := leAt b 8 1 % 8, target := leAt b 9 1,
    paramLen := leAt b 10 2, session := leAt b 12 2, vector := leAt b 14 1 % 64,
    clean := f < 8 && leAt b 8 1 < 8 && leAt b 14 1 < 64 && leAt b 15 1 == 0 &&
      (!byRef || leAt b 24 40 == 0),
    params := slice b 16 48 }

/-! ### The opcode table -/

/-- Who may issue an opcode (Table 15-1). -/
inductive Scope where
  | any | device | partition | own | config
  deriving DecidableEq, Repr

/-- An opcode: its code, the command version that adds it (Table 14-9), its scope, and the bits its
parameter layout allows in each byte, the list's length being the layout's (R304). -/
structure Opcode where
  code : Nat
  version : Nat
  scope : Scope
  masks : List Nat
  deriving DecidableEq, Repr

def full (n : Nat) : List Nat := List.replicate n 255
def rsv (n : Nat) : List Nat := List.replicate n 0

/-- Table 15-1 with the versions of Table 14-9. An empty mask list with `code` 0x0110, 0x0310 or 0x0702
means that the opcode checks its own block. -/
def opcodes : List Opcode :=
  [ { code := 0x0101, version := 0x10, scope := .any, masks := full 6 },
    { code := 0x0102, version := 0x10, scope := .any, masks := [] },
    { code := 0x0103, version := 0x10, scope := .any, masks := full 4 },
    { code := 0x0110, version := 0x10, scope := .config, masks := [] },
    { code := 0x0111, version := 0x10, scope := .config, masks := [1] },
    { code := 0x0120, version := 0x10, scope := .device, masks := [0x07, 0x3F, 0x7F, 0, 0xFF, 0x07] },
    { code := 0x0121, version := 0x10, scope := .device, masks := full 2 },
    { code := 0x0201, version := 0x10, scope := .partition, masks := full 2 },
    { code := 0x0202, version := 0x10, scope := .partition, masks := full 2 },
    { code := 0x0203, version := 0x10, scope := .partition, masks := full 2 },
    { code := 0x0210, version := 0x11, scope := .partition,
      masks := [255, 1] ++ full 4 ++ rsv 2 ++ full 19 ++ rsv 1 ++ full 20 ++ [1, 255, 255] ++ rsv 13 },
    { code := 0x0211, version := 0x11, scope := .partition,
      masks := [255, 1] ++ full 4 ++ rsv 2 ++ full 19 ++ rsv 1 ++ full 20 ++ [1, 255, 255] ++ rsv 13 },
    { code := 0x0301, version := 0x10, scope := .partition, masks := full 11 ++ [1, 1] },
    { code := 0x0302, version := 0x10, scope := .partition, masks := full 11 ++ [1, 1] },
    { code := 0x0303, version := 0x10, scope := .partition, masks := full 2 ++ rsv 2 ++ full 44 },
    { code := 0x0304, version := 0x10, scope := .partition, masks := full 2 ++ [1] },
    { code := 0x0310, version := 0x11, scope := .partition, masks := [] },
    { code := 0x0401, version := 0x10, scope := .partition, masks := full 16 },
    { code := 0x0402, version := 0x10, scope := .partition, masks := full 1 },
    { code := 0x0403, version := 0x10, scope := .partition, masks := full 1 ++ rsv 7 ++ full 8 },
    { code := 0x0501, version := 0x20, scope := .device, masks := full 12 },
    { code := 0x0502, version := 0x20, scope := .device, masks := full 8 },
    { code := 0x0503, version := 0x20, scope := .partition, masks := [255, 15, 1, 0] ++ full 28 },
    { code := 0x0504, version := 0x20, scope := .device, masks := full 2 ++ rsv 2 ++ full 4 },
    { code := 0x0601, version := 0x10, scope := .any, masks := full 42 },
    { code := 0x0602, version := 0x10, scope := .partition, masks := full 13 ++ rsv 1 ++ full 10 },
    { code := 0x0603, version := 0x21, scope := .own, masks := [1] },
    { code := 0x0701, version := 0x10, scope := .device, masks := full 1 },
    { code := 0x0702, version := 0x22, scope := .partition, masks := [] },
    { code := 0x0703, version := 0x10, scope := .any, masks := full 16 ++ [1] } ]

def findOpcode (code : Nat) : Option Opcode := opcodes.find? fun o => o.code = code

/-- The opcodes whose blocks have a length of their own. -/
def ownLayout (code : Nat) : Bool := code == 0x0110 || code == 0x0310 || code == 0x0702

/-- The command protocol versions there are (Tables 14-6 and 14-9). -/
def commandVersions : List Nat := [0x10, 0x11, 0x12, 0x20, 0x21, 0x22, 0x23]

/-- OPEN_SESSION and QUERY_DEVICE need no session (Table 14-4). -/
def sessionless (code : Nat) : Bool := code == 0x0101 || code == 0x0103

/-- Whether parameters keep to what the session's version defines (R303, Table 14-9). -/
def versionFields (code ver : Nat) (p : Bytes) : Bool :=
  if code = 0x0301 ∨ code = 0x0302 then 0x12 ≤ ver || leAt p 12 1 == 0
  else if code = 0x0303 then 0x12 ≤ ver || leAt p 4 4 == 0
  else if code = 0x0103 then 0x12 ≤ ver || leAt p 0 2 < 6
  else if code = 0x0602 then
    (0x11 ≤ ver || leAt p 12 1 == 0) && (0x21 ≤ ver || leAt p 12 1 < 2)
  else if code = 0x0601 then 0x21 ≤ ver || leAt p 40 2 == 0
  else if code = 0x0111 then 0x22 ≤ ver || leAt p 0 1 == 0
  else if code = 0x0703 then 0x23 ≤ ver || leAt p 0 8 < 2 ^ 63
  else if code = 0x0503 then 0x23 ≤ ver || leAt p 2 1 == 0
  else true

/-- Whether parameter bytes keep to a layout: long enough, nothing outside the allowed bits (R304). -/
def keepsLayout (masks : List Nat) (have_ : Nat) (p : Bytes) : Bool :=
  masks.length ≤ have_ &&
  (List.range p.length).all fun i =>
    let v := (p.getD i 0).toNat
    v &&& masks.getD i 0 == v

/-! ### The checks -/

/-- Whether a function serves commands (check 3, R314). -/
def State.serves (s : State) (f : Nat) : Bool :=
  f == 0 || ((s.part f).enabled && (s.part f).teardown.isNone)

/-- The command version a session's commands carry: for another target, at most the cascade version (R299). -/
def State.sessionVersion (s : State) (target version : Nat) : Nat :=
  if target = 0xFF then version else min version (s.cascade.versions % 256)

/-- Checks 3 to 7 of Table 14-4 with R303 after check 5. -/
def State.transport (s : State) (f : Nat) (k : Packet) : Option Status :=
  let ses := Tab.find k.session (s.fn f).sessions
  let free := sessionless k.opcode
  if !s.serves f then some .functionDisabled
  else if !commandVersions.contains k.version ||
      (!free && ses.any (fun x => s.sessionVersion k.target x.command != k.version)) ||
      (k.target != 0xFF && s.cascade.versions % 256 < k.version) then some .badVersion
  else if !free && ses.isNone then some .noSession
  else if (findOpcode k.opcode).any (fun o => k.version < o.version) then some .badOpcode
  else if !((if f = 0 then k.partition ≤ 6 else k.partition == f) &&
      (k.target == 0xFF ||
        (0x20 ≤ k.version && k.target < 64 && bitOf (s.cascade.members ||| s.cascade.lost) k.target && s.isMaster)) &&
      (if k.byRef then 1 ≤ k.paramLen && k.paramLen ≤ 16384 else k.paramLen ≤ 48) &&
      k.vector ≤ 59 && k.clean) then some .badParam
  else if k.target != 0xFF && bitOf s.cascade.lost k.target then some .peerLost
  else none

/-- Checks 3 to 6 as a relayed command meets them on its target: the session is the master's, which has
answered for it (R367; log entry 14). -/
def State.relayTransport (s : State) (f : Nat) (k : Packet) : Option Status :=
  if !s.serves f then some .functionDisabled
  else if !commandVersions.contains k.version || s.cascade.versions % 256 < k.version then some .badVersion
  else if (findOpcode k.opcode).any (fun o => k.version < o.version) then some .badOpcode
  else if !((if f = 0 then k.partition ≤ 6 else k.partition == f) && k.target == s.cascade.device &&
      (if k.byRef then 1 ≤ k.paramLen && k.paramLen ≤ 16384 else k.paramLen ≤ 48) &&
      k.vector ≤ 59 && k.clean) then some .badParam
  else none

/-- Whether the scope of R306 allows the function and partition. -/
def scopeOk (sc : Scope) (f p : Nat) : Bool :=
  match sc with
  | .any => p == f
  | .device => f == 0 && p == 0
  | .partition => 1 ≤ p && p ≤ 6 && (f == 0 || f == p)
  | .own => 1 ≤ p && p ≤ 6 && f == p
  | .config => if p = 0 then f == 0 else p ≤ 6 && (f == 0 || f == p)

/-- A failed host read of host memory by a function's requests: FETCH_ERROR set, ENABLE cleared, vector 60 signalled (R287,
R296). -/
def State.hostReadFailed (s : State) (f : Nat) : State :=
  (s.onRing f fun r => { r with fetchErr := true, enable := false }).msix f 60

/-- The parameter block of a command (R290): inline, or what the BY_REF address holds, in host memory for PARTITION 0 and in
the partition's memory otherwise. `input` is what the host returned, none where the host read failed. -/
def State.block (s : State) (f : Nat) (k : Packet) (input : Option Bytes) : State × Except Status Bytes :=
  if !k.byRef then (s, .ok k.params)
  else
    let a := leAt k.params 0 8
    let n := 64 * k.paramLen
    if a % 64 ≠ 0 then (s, .error .badParam)
    else if k.partition = 0 then
      match input with
      | none => (s.hostReadFailed f, .error .badParam)
      | some b => (s, .ok (slice b 0 n))
    else if 2 ^ 30 < a % 2 ^ 30 + n then (s, .error .badParam)
    else s.readParams k.partition a n

/-- The checks of R307 and R306 on who may issue an opcode. `late`: they are made for a command taken earlier, which a drain
lets run to its end (R314). -/
def State.mayIssue (s : State) (f : Nat) (k : Packet) (o : Opcode) (late : Bool) : Option Status :=
  let partScope := o.scope == .partition || o.scope == .own || (o.scope == .config && k.partition != 0)
  if f = 0 && partScope && s.isConf k.partition then some .confidentialDenied
  else if !scopeOk o.scope f k.partition then some .badParam
  else if partScope && !s.serves k.partition && !(late && (s.part k.partition).enabled) then some .functionDisabled
  else none

/-- Whether the parameters keep to the opcode's layout and the session's version (R303, R304). -/
def Opcode.accepts (o : Opcode) (k : Packet) (p : Bytes) : Bool :=
  (ownLayout k.opcode || keepsLayout o.masks (if k.byRef then 64 * k.paramLen else k.paramLen) p) &&
  versionFields k.opcode k.version p

/-- The checks between the transport's and the opcode's: R307, R306, R290, R304 and R303. -/
def State.admitCmd (s : State) (f : Nat) (k : Packet) (input : Option Bytes) (late : Bool) : State × Except Status Bytes :=
  match findOpcode k.opcode with
  | none => (s, .error .badOpcode)
  | some o =>
    match s.mayIssue f k o late with
    | some st => (s, .error st)
    | none =>
      match s.block f k input with
      | (s, .error e) => (s, .error e)
      | (s, .ok p) => (s, if o.accepts k p then .ok p else .error .badParam)

/-! ### Taking a command -/

/-- The functions in the rotation that follows the one served last (R288). -/
def rotation (turn : Nat) : List Nat := (List.range 7).map fun i => (turn + 1 + i) % 7

/-- Commands of a function's own ring that have not written their completions. -/
def State.inFlight (s : State) (f : Nat) : Nat :=
  (s.cmds.filter fun e => e.2.fn = f && e.2.relay.isNone).length

/-- Entries of a ring between two indices. -/
def ringUsed (depth a b : Nat) : Nat := (a + depth - b) % depth

/-- Whether an entry of a function's ring can be read now: enabled, an entry available, a completion
entry to reserve, fewer than 256 in flight, Bus Master Enable 1 (R286 to R288, R420). -/
def State.fetchable (s : State) (f : Nat) : Bool :=
  let r := s.ring f
  let depth := 2 ^ r.cqLog
  r.enable && r.sqHead != r.sqTail && (s.fn f).busMaster && s.inFlight f < 256 &&
  ringUsed depth r.cqTail r.cqHead + s.inFlight f < depth - 1

/-- IDLE of a ring (R286, Table 23-5). -/
def State.ringIdle (s : State) (f : Nat) : Bool := !(s.ring f).enable && s.inFlight f == 0

/-- The versions a command is interpreted under: its session's, or its own; a relayed command's parcel
version is the cascade's. -/
def State.versionsOf (s : State) (f : Nat) (relayed : Bool) (k : Packet) : Nat × Nat :=
  if relayed then (k.version, field s.cascade.versions 23 16)
  else match Tab.find k.session (s.fn f).sessions with
    | some x => if sessionless k.opcode then (k.version, 0x11) else (x.command, x.parcel)
    | none => (k.version, 0x11)

/-- A command put into flight, in a phase: its number, and the state. -/
def State.newCmd (s : State) (f : Nat) (relay : Option (Nat × Nat)) (k : Packet) (input : Option Bytes)
    (ph : CmdPhase) (checked : Bool) : Nat × State :=
  let (cv, pv) := s.versionsOf f relay.isSome k
  let c : Cmd := { fn := f, relay := relay, order := s.nextCmd, packet := k, params := k.params, input := input,
                   command := cv, parcel := pv, accepted := s.now, checked := checked, phase := ph,
                   notices := 0, status := 0, detail := 0, ended := 0, doneAt := 0, result := none }
  (s.nextCmd, { (s.setCmd s.nextCmd c) with nextCmd := s.nextCmd + 1 })

/-- Whether a command is another's predecessor on its ring, or from the same master and function. -/
def Cmd.sameRing (a : Cmd) (f : Nat) (relay : Option (Nat × Nat)) : Bool :=
  a.fn == f && a.relay.map (·.1) == relay.map (·.1)

/-- A command taken into flight, its checks made where no FENCE defers them (R292, R293; log entry 10). -/
def State.takeCmd (s : State) (f : Nat) (relay : Option (Nat × Nat)) (k : Packet) (input : Option Bytes)
    (pre : Option Status) : State :=
  let deferred := k.fence && s.cmds.any fun e => e.2.sameRing f relay
  let (id, s) := s.newCmd f relay k input .waiting !deferred
  match pre with
  | some st => s.fail id st
  | none =>
    if deferred then s
    else match s.admitCmd f k input false with
      | (s, .error st) => s.fail id st
      | (s, .ok p) => s.onCmd id fun c => { c with params := p }

/-- The opcodes that name no other device (R308). -/
def homeOnly (code : Nat) : Bool := [0x0101, 0x0102, 0x0501, 0x0502, 0x0504].contains code

/-- Whether a command is for another device of the cascade. -/
def Packet.leaves (k : Packet) (device : Nat) : Bool := k.target != 0xFF && k.target != device

/-- Whether a waiting command may start: in ring order, and with FENCE after every earlier command of
its ring has written its completion (R293). -/
def State.mayStart (s : State) (c : Cmd) : Bool :=
  s.cmds.all fun e =>
    !(e.2.sameRing c.fn c.relay && e.2.order < c.order) ||
    (e.2.phase != .waiting && !c.packet.fence)

/-- Whether a command is one that waits here for its turn to be sent to another member. -/
def State.toRelay (s : State) (c : Cmd) : Bool :=
  c.phase == .waiting && c.relay.isNone && c.packet.leaves s.cascade.device

/-- A command sent to another member: RELAY_CMD with the packet and the host data it reads; a target lost meanwhile ends it
(R308, R367, R374). Its number travels in the ARG bits above the function (log entry 14). -/
def State.relayCmd (s : State) (id : Nat) (c : Cmd) : State :=
  if bitOf s.cascade.lost c.packet.target then s.fail id .peerLost
  else (s.onCmd id fun c => { c with phase := .relayed }).send
    { Message.plain 1 s.cascade.device c.packet.target (c.fn + id * 2 ^ 8) (c.input.getD []) with partition := c.packet.partition }

/-- Every command for another member whose turn has come sent, ring order and FENCE kept (R293). `n` bounds them. -/
def State.relayDue : Nat → State → State
  | 0, s => s
  | n + 1, s =>
    match s.cmds.find? fun e => s.toRelay e.2 && s.mayStart e.2 with
    | none => s
    | some (id, c) => (s.relayCmd id c).relayDue n

/-- A command for another member taken from its ring: what RELAY_CMD will carry is kept with it (R367). -/
def State.takeRelay (s : State) (f : Nat) (k : Packet) (entry : Bytes) (input : Option Bytes) : State :=
  if k.byRef && k.partition == 0 && input.isNone then (s.hostReadFailed f).takeCmd f none k input (some .badParam)
  else
    let s := (s.newCmd f none k (some (slice entry 0 64 ++ input.getD [])) .waiting true).2
    s.relayDue s.cmds.length

/-- The host address of an opcode's result block (R305). -/
def resultAddr (code : Nat) (p : Bytes) : Nat :=
  if code = 0x0403 ∨ code = 0x0703 then leAt p 8 8
  else if code = 0x0601 then leAt p 32 8
  else if code = 0x0602 then leAt p 16 8 else 0

/-- Reading one submission entry (R287, R288, R292). `entry` is what host memory returned. -/
def State.fetch (s : State) (f : Nat) (entry input : Option Bytes) : State :=
  match entry with
  | none => s.hostReadFailed f
  | some b =>
    let k := decodePacket b
    let s := { (s.onRing f fun r => { r with sqHead := (r.sqHead + 1) % 2 ^ r.sqLog }) with turn := f }
    if s.health.halt.isSome then s.takeCmd f none k input (some .deviceHalted)
    else if (findOpcode k.opcode).isNone then s.takeCmd f none k input (some .badOpcode)
    else match s.transport f k with
      | some st => s.takeCmd f none k input (some st)
      | none =>
        if k.target ≠ 0xFF ∧ homeOnly k.opcode then s.takeCmd f none k input (some .badParam)
        else if k.leaves s.cascade.device then s.takeRelay f k b input
        else s.takeCmd f none k input none

/-- COMMAND_FETCH: one entry of the next function in rotation that has one to read (R288). Nothing is
fetched before ready, and nothing while RUN_BIST runs (R441, R454); a halted device goes on answering (R292). -/
def execCommandFetch (entry block : Option Bytes) (s : State) : Result :=
  .next (onlyIf (s.health.halt.isSome || (s.working && s.health.bist.isNone))
    (fun s => withSome ((rotation s.turn).find? s.fetchable) s fun f => s.fetch f entry block) s)

/-! ### Starting a command -/

/-- A waiting command of an opcode starts: deferred checks first, then its own effect (R293, R304). -/
def State.begin (s : State) (id code : Nat) (f : Cmd → State → State) : State :=
  match s.cmd id with
  | none => s
  | some c =>
    if c.phase ≠ .waiting ∨ c.packet.opcode ≠ code ∨ !s.working ∨ s.toRelay c ∨ !s.mayStart c then s
    else
      if c.checked then f c (s.setCmd id { c with phase := .running, checked := true })
      else match s.admitCmd c.fn c.packet c.input true with
        | (s, .error st) => s.fail id st
        | (s, .ok p) => f { c with params := p } (s.setCmd id { c with phase := .running, checked := true, params := p })

/-- The meaning of an opcode's row. -/
def opcodeRow (id code : Nat) (f : Cmd → State → State) (s : State) : Result := .next (s.begin id code f)

/-- The partition a partition opcode names. -/
def Cmd.part (c : Cmd) : Nat := c.packet.partition

/-! ### Completion -/

/-- A completion entry (Table 14-3). -/
def completionEntry (c : Cmd) (phase : Nat) : Bytes :=
  leBytes 4 c.packet.tag ++ leBytes 2 c.status ++ leBytes 2 phase ++ leBytes 8 c.detail ++
  leBytes 8 c.accepted ++ leBytes 8 c.doneAt

/-- The MSI-X message of completions of a vector, counted (R296, R469). -/
def State.completionMsix (s : State) (f v : Nat) : State :=
  (s.onFn f fun x => { x with messages := (x.messages + 1) % 2 ^ 32, windows := Tab.erase v x.windows }).msix f v

/-- A completion joins its vector's window, or is signalled at once (R296). -/
def State.coalesce (s : State) (f v : Nat) : State :=
  let x := s.fn f
  if x.ring.window = 0 then s.completionMsix f v
  else
    let (n, t) := (Tab.find v x.windows).getD (0, s.now + x.ring.window)
    if x.ring.count ≤ n + 1 then s.completionMsix f v
    else s.setFn f { x with windows := Tab.put v (n + 1, t) x.windows }

/-- The completion of a ring's own command: result block, then entry, then message (R291, R294). -/
def State.writeCompletion (s : State) (id : Nat) (c : Cmd) : State :=
  let r := s.ring c.fn
  let s := match c.result with
    | some (a, b) => s.emit (.host c.fn a b)
    | none => s
  let s := s.emit (.host c.fn (r.cqBase + 32 * r.cqTail) (completionEntry c r.phase))
  let next := (r.cqTail + 1) % 2 ^ r.cqLog
  let s := s.onFn c.fn fun x => { x with
    completions := (x.completions + 1) % 2 ^ 32
    ring := { x.ring with cqTail := next, phase := if next = 0 then 1 - x.ring.phase else x.ring.phase } }
  let s := { s with cmds := Tab.erase id s.cmds }
  if c.packet.noIrq then s else s.coalesce c.fn c.packet.vector

/-- The completion of a command whose turn it is: in the order of completion within a ring, and only with Bus Master
Enable (R293 to R295, R420); that of a relayed command goes to the master as RELAY_REPLY (R367). -/
def State.completeNext (s : State) (id : Nat) (c : Cmd) : State :=
  let first := s.cmds.all fun e =>
    !(e.2.sameRing c.fn c.relay && e.2.phase == .ended) || c.ended ≤ e.2.ended
  if c.phase ≠ .ended ∨ !first then s
  else match c.relay with
    | none => if (s.fn c.fn).busMaster then s.writeCompletion id c else s
    | some (m, n) =>
      ({ s with cmds := Tab.erase id s.cmds }).send
        { Message.plain 2 s.cascade.device m (c.fn + n * 2 ^ 8)
            (completionEntry c 0 ++ c.result.elim [] (fun r => r.2)) with partition := c.packet.partition }

/-- COMMAND_COMPLETION; then commands for other members that this lets start are sent (R293). -/
def execCommandCompletion (id : Nat) (s : State) : Result :=
  let t := withSome (s.cmd id) s fun c => s.completeNext id c
  .next (t.relayDue t.cmds.length)

end Sys2Proof.Machine
end

