-- ==== Sys2Proof/Machine/Admission.lean ====
section
/-! DEFINITION. Counted time of routes and the admission test (R161, R165, R272 to R278, Table 13-3). -/

namespace Sys2Proof.Machine

/-- The tensor a vector CONVERT narrows into (R322). -/
def VectorStep.narrowed (v : VectorStep) : Option Nat :=
  if v.op = .convert ∧ v.r.element ≠ 7 ∧ v.r.element ≠ 8 ∧ leAt v.tail 4 2 ≠ noId then some (leAt v.tail 4 2) else none

/-- Tensors a route step converts. -/
def RouteStep.converted : RouteStep → List Nat
  | .layer l => if l.converts then [l.output] else []
  | .vector v => v.narrowed.toList
  | _ => []

/-- Whether a layer step is a predictor of a forwarded block: some FORWARD step names its resident tensor
(R163). -/
def isPredictor (steps : List RouteStep) (cascade : Nat) (l : LayerStep) : Bool :=
  l.resident != noId && (layersOf steps).any fun e => e.2.resolve cascade false == .forward &&
    (e.2.predA == l.resident || e.2.predB == l.resident)

/-- Whether a layer step is predictor B of a forwarded block, with that block's F (R163). -/
def listLength (steps : List RouteStep) (cascade : Nat) (l : LayerStep) : Nat :=
  if l.resident = noId then 0
  else (((layersOf steps).find? fun e =>
    e.2.resolve cascade false == .forward && e.2.predB == l.resident).map (·.2.f)).getD 0

/-- The steps of a route numbered. -/
def numbered (steps : List RouteStep) : List (Nat × RouteStep) := (List.range steps.length).zip steps

/-- Whether a step runs on a core. -/
def RouteStep.onCore (core : Nat) : RouteStep → Bool
  | .layer l => bitOf l.cores core
  | .vector v => v.core == core
  | .openBox c _ | .closeBox c _ | .wait c _ _ | .order c _ | .release c _ _ => c == core

/-! ### What a route counts -/

/-- A route as the escapement counts it: its tiled steps, its letterboxes, the cascade size it was loaded at,
its exact mode, the tensors taken as REPLAY, and whether it names SCALE tiles (R272, Table 13-3). -/
structure Plan where
  steps : List RouteStep
  boxes : List BoxEntry
  cascade : Nat
  exact : Bool
  replay : List Nat
  scaled : Bool
  deriving DecidableEq, Repr

/-- The form of a step of a plan. -/
def Plan.form (p : Plan) (i : Nat) (l : LayerStep) : StepForm := formOf p.steps p.cascade p.exact i l

/-- The lines of one delivery of a letterbox: a slot of it, or its window (R197). -/
def BoxShape.lines (b : BoxShape) : Nat := (if b.slotSize = 0 then b.length else b.slotSize) / 64

/-- The lines of the letterbox writes that the schedule places in step `i` of a core: one delivery for each WAIT
that stands between the route step before it and the step (R204, R497; log entry 64). -/
def Plan.boxLines (p : Plan) (core i : Nat) : Nat :=
  (((numbered p.steps).take i).filter fun e => e.2.onCore core).reverse.takeWhile (fun e => !e.2.counts) |>.map
    (fun e => match e.2 with
      | .wait c b _ => ((p.boxes.find? fun x => x.core == c && x.number == b).map (·.shape.lines)).getD 0
      | _ => 0) |>.sum

/-- The work of one route step on a core, with its postcard, forwarding and replay items; the list builder's
steps are predictor B's (R163, R272, Table 13-3). -/
def stepWork (p : Plan) (core i : Nat) (st : RouteStep) : Work :=
  match st with
  | .layer l =>
    if p.exact && isPredictor p.steps p.cascade l then Work.zero else
    let w := l.work (p.form i l) (l.converts && p.replay.contains l.output) core
    let f := if p.exact then 0 else listLength p.steps p.cascade l
    { w with steps := w.steps + (if f = 0 then 0 else listSteps l.n f (l.ownPositions core))
             lines := w.lines + if bitOf l.cores core then p.boxLines core i else 0 }
  | .vector v =>
    if v.core = core then { v.work p.exact with lines := (v.work p.exact).lines + p.boxLines core i } else Work.zero
  | _ => Work.zero

/-- Counted time of one route step with the factor of R272. -/
def stepCounted (f : Nat) (w : Work) : Nat := countedNs f (w.time f)

/-- The largest counted time of any step of a route on a core: its part of B (R277). -/
def routeBlocking (p : Plan) (f core : Nat) : Nat :=
  (numbered p.steps).foldl (fun m e => max m (stepCounted f (stepWork p core e.1 e.2))) 0

/-- Bytes of the largest tile of a layer step: a resident, neuron, output or bias tile, a bias tile at most the
whole bias (R231). -/
def LayerStep.largestTile (l : LayerStep) (f : StepForm) : Nat :=
  max (if f.cond = .forward then l.neuronBytes f.down else l.tileBytes)
    (max (if l.outputList = noId then 0 else l.outTileBytes 0) (if l.biasList = noId then 0 else 64 + 512 * l.columns))

/-- The tensors a layer step names (R71). -/
def LayerStep.named (l : LayerStep) : List Nat := [l.resident, l.streamed, l.output, l.bias].filter (· != noId)

/-- The tensors a route names, each once. -/
def namedTensors (steps : List RouteStep) : List Nat :=
  (((layersOf steps).flatMap fun e => e.2.named) ++ steps.flatMap RouteStep.converted).eraseDups

/-- Bytes of a SCALE tile with an entry for each of some tensors, and of the STATE tiles that a tracker's records of
some tensors take, 2,047 a tile behind a chunk header (Table 4-5, Table 4-6, R110). -/
def scaleTileBytes (tensors : Nat) : Nat := 64 + 16 * tensors
def stateTileBytes (tensors : Nat) : Nat := ceilDiv tensors 2047 * 80 + 32 * tensors

/-- Counted time of one run of a route on a core (R272, Table 13-3). -/
def routeCounted (p : Plan) (f core : Nat) : Nat :=
  let ns := numbered p.steps
  let last := (ns.filter fun e => match e.2 with | .layer l => bitOf l.cores core | _ => false).getLast?
  let tail := match last with
    | some (i, .layer l) =>
      let m := l.counted (p.form i l)
      m.tail m.loopOrder (m.share core)
    | _ => 0
  let tensors := (p.steps.flatMap RouteStep.converted).length
  let scale := if p.scaled then scaleTileBytes (namedTensors p.steps).length else 0
  let largest := (layersOf p.steps).foldl (fun m e => max m (e.2.largestTile (p.form e.1 e.2))) scale
  let bytes := largest + if p.scaled then 2 * scale + stateTileBytes tensors else 0
  let plain := ns.foldl (fun t e => t + (stepWork p core e.1 e.2).time f) 0
  countedNs f (plain + (tail + 24 * tensors) * 102400000 + bytes * 64 * f + 2000 * 102400 * f)

/-- Whether a route names SCALE tiles. -/
def Image.scaled (i : Image) : Bool := i.scaleIn != noId

/-- Steps with another P in every BUCKETED layer step (R252). -/
def withP (p : Nat) (steps : List RouteStep) : List RouteStep :=
  if p = 0 then steps
  else steps.map fun st => match st with
    | .layer l => if l.bucketed then .layer { l with p := p } else st
    | _ => st

/-- The steps of a loaded route as its image gives them, tiled at a P; a P of 0 is that of the image (R236,
R252). -/
def Route.stepsAt (r : Route) (p : Nat) : List RouteStep :=
  tileSteps r.cascade r.exact (withP p (r.image.steps.filterMap decodeStep))
def Route.steps (r : Route) : List RouteStep := r.stepsAt 0

/-- A loaded route as the escapement counts it with some steps. -/
def Route.plan (r : Route) (steps : List RouteStep) : Plan :=
  { steps := steps, boxes := r.image.boxes, cascade := r.cascade, exact := r.exact, replay := r.replay
    scaled := r.image.scaled }

/-- B of a core: over every route loaded on it, at a floor pace (R277). A route that has run with other
values of P counts at the largest of its cached tilings. -/
def State.blocking (s : State) (f core : Nat) : Nat :=
  s.routes.foldl (fun m e =>
    (0 :: e.2.tilings).foldl (fun m p => max m (routeBlocking (e.2.plan (e.2.stepsAt p)) f core)) m) 0

/-- The admitted streams of a core with their counted times at a floor pace. -/
def State.loads (s : State) (f core : Nat) : List Load :=
  s.streams.filterMap fun e =>
    if e.2.core ≠ core then none
    else match s.route e.2.route with
      | none => none
      | some r => some { t := e.2.desc.period, d := e.2.desc.deadline, c := routeCounted (r.plan r.steps) f core }

/-- The admission test of one core at a setting, with a candidate stream or the B of a candidate route
(R277). -/
def State.admitCore (s : State) (setting core : Nat) (extra : List Load) (b : Nat) : Bool :=
  let f := floorPace setting
  admits (s.loads f core ++ extra) (max b (s.blocking f core))

/-- The admission test run and counted (R283). -/
def State.testAdmission (s : State) (setting : Nat) (cores : List Nat) (extra : List Load) (b : Nat → Nat) :
    Bool × State :=
  let ok := cores.all fun c => s.admitCore setting c extra (b c)
  let s := s.count 44 0
  (ok, if ok then s else s.count 44 1)

/-- The admission setting of a knob and cap (R263). -/
def admissionOf (knob cap : Nat) : Nat := min knob (capSetting cap)

end Sys2Proof.Machine
end

