-- ==== Sys2Proof/Machine/Loader.lean ====
section
/-! DEFINITION. The loader: reading a route image and the checks of Table 12-4 in order (R248 to R250,
R319 to R322, R498). -/

namespace Sys2Proof.Machine

/-! ### Reading an image -/

/-- A route image as the loader sees it: header, step records with their decoded forms, and the rest. -/
structure LoadView where
  hdr : ImageHdr
  image : Image
  steps : List (Option RouteStep)
  /-- COUNT of each tile list. -/
  counts : List Nat
  /-- Tile lists whose array of addresses the partition does not hold. -/
  unread : List Nat
  /-- The cascade size that resolves AUTO (R155). -/
  cascade : Nat
  deriving DecidableEq, Repr

/-- An entry of the tile list section: the array's address and its count. -/
def listEntry (b : Bytes) : Nat × Nat := (leAt b 0 8, leAt b 8 4)

/-- The image read whole, its tile lists from partition memory (R320): a list that the map refuses is left for check 4, a
failed link check ends the command (R216, R222). -/
def State.viewImage (s : State) (p : Nat) (exact : Bool) (b : Bytes) : State × Except Status LoadView :=
  let h := decodeImageHdr b
  let off (i : Nat) := h.offsets.getD i 0
  let recs := entries id b (off 0) 128 h.steps
  let ls := entries listEntry b (off 3) 16 h.lists
  let (s, read) := ls.foldl (fun (acc : State × List (Except Status (List Nat))) e =>
    let (s, r) := acc.1.readList p e
    (s, acc.2 ++ [r])) (s, [])
  if read.any fun r => match r with | .error .sealFault => true | _ => false then (s, .error .sealFault)
  else
    let held := read.map fun r => match r with | .ok as => some as | .error _ => none
    (s, .ok
      { hdr := h
        image := { steps := recs, handles := entries decodeHandle b (off 1) 24 h.handles,
                   boxes := entries decodeBox b (off 2) 40 h.boxes, lists := held.map (·.getD []),
                   patches := entries decodePatch b (off 4) 8 h.patches, scaleIn := h.scaleIn,
                   scaleOut := h.scaleOut, state := h.state }
        steps := tileRoute s.cascadeSize exact (recs.map decodeStep)
        counts := ls.map (·.2)
        unread := (List.range ls.length).filter fun (i : Nat) => (held.getD i none).isNone
        cascade := s.cascadeSize })

/-- A refusal: status, the step's index (0xFFFF for none) and the order of Table 12-4. -/
structure Refuse where
  status : Status
  index : Nat
  order : Nat
  deriving DecidableEq, Repr

/-- DETAIL of a refusal (R249). -/
def Refuse.detail (r : Refuse) : Nat := r.index + r.order * 2 ^ 16

/-- The layer steps of a view with their indices. -/
def LoadView.layers (v : LoadView) : List (Nat × LayerStep) :=
  (List.range v.steps.length).filterMap fun i =>
    match v.steps[i]? with
    | some (some (RouteStep.layer l)) => some (i, l)
    | _ => none

/-- The steps of a view, those of an unknown KIND left out. -/
def LoadView.good (v : LoadView) : List RouteStep := v.steps.filterMap id

/-- Handles of other routes on a core: number and record. -/
def State.heldHandles (s : State) (core : Nat) : List (Nat × Handle) :=
  (s.core core).handles.map fun e => (e.1, e.2.1)

/-- The handle of an image on a core. -/
def Image.handle (i : Image) (core n : Nat) : Option Handle :=
  (i.handles.find? fun h => h.core = core && h.number = n && h.valid).map (·.handle)

/-- Bytes of a handle. -/
def Handle.bytes (h : Handle) : Nat := h.lines * 64
/-- Rows a handle occupies in each bank of its mask (R190). -/
def Handle.rows (h : Handle) : Nat := ceilDiv h.lines (max 1 (popCount 64 h.mask))

/-- The first index at which a check of a layer step fails. -/
def firstBad (v : LoadView) (bad : Nat → LayerStep → Bool) : Option Nat :=
  (v.layers.find? fun e => bad e.1 e.2).map (·.1)

/-! ### Checks 1 to 4 -/

/-- Check 1: every section lies within IMAGE_LEN (R320). -/
def check1 (h : ImageHdr) (len : Nat) : Bool := 64 ≤ len && h.sections.all fun s => s.1 + s.2 ≤ len

/-- The form of a layer step of a view. -/
def LoadView.form (v : LoadView) (exact : Bool) (i : Nat) (l : LayerStep) : StepForm := formOf v.good v.cascade exact i l

/-- Tiles a RESIDENT_LIST holds: of a FORWARD step every neuron's, in exact mode too (R164, R166, R250). -/
def LayerStep.residentTiles (l : LayerStep) (f : StepForm) : Nat :=
  if f.cond = .forward then (if f.down then l.k else l.n) else l.columns * l.kTiles * l.tilesPerK

/-- A tile's header where the partition holds it and it is sealed (R249). -/
def State.sealedHeader (s : State) (p a : Nat) : Option TileHdr :=
  (s.read p a 64).bind fun b =>
    let h := TileHdr.decode b
    if h.magic = sealedMagic then some h else none

/-- The headers of a step's bias tiles, none where a tile is not sealed (R249). -/
def biasHeaders (s : State) (p : Nat) (v : LoadView) (l : LayerStep) : List (Option TileHdr) :=
  if l.biasList = noId then [] else (v.image.lists.getD l.biasList []).map (s.sealedHeader p)

/-- Whether the bias tiles are neither too few nor too many, as far as sealed headers tell: no tile beyond the
padded rows, and where every one is sealed every row below N (R250). -/
def biasEnough (s : State) (p : Nat) (v : LoadView) (l : LayerStep) : Bool :=
  let hs := biasHeaders s p v l
  l.biasList == noId ||
    (hs.all (·.all fun h => h.rowOffset < 128 * l.columns) &&
     (hs.any (·.isNone) ||
      ((hs.getLast?.join).map fun h => h.rowOffset + h.rows * h.columns).any fun e => l.n ≤ e && e ≤ 128 * l.columns))

/-- Rows that the bias tiles so far cover, and whether that is known: a tile not yet sealed covers at least one
row. -/
structure BiasWalk where
  covered : Nat
  known : Bool
  ok : Bool
  deriving DecidableEq, Repr

/-- The ROW_OFFSET of one bias tile against its place in the list: next to what comes before it, or anywhere
among the padded rows that follow (R250). -/
def BiasWalk.next (n : Nat) (w : BiasWalk) : Option TileHdr → BiasWalk
  | none => { w with covered := w.covered + 1, known := false }
  | some h =>
    { covered := h.rowOffset + h.rows * h.columns, known := true
      ok := w.ok && w.covered ≤ h.rowOffset && (!w.known || h.rowOffset == w.covered || n ≤ w.covered) }

/-- The bias tiles' headers: type against the form (R147), K_OFFSET 0, and ascending rows with no gap below N, each
sealed header by its place (R249, R250). -/
def biasOk (s : State) (p : Nat) (v : LoadView) (l : LayerStep) : Bool :=
  let hs := biasHeaders s p v l
  hs.all (·.all fun h => h.format == 0 && h.kOffset == 0 && (l.raw || h.element == (if l.scaleStage then 7 else 8))) &&
    (hs.foldl (BiasWalk.next l.n) { covered := 0, known := true, ok := true }).ok

/-- Whether the tile lists of a layer step have the lengths of R250. -/
def listsFit (v : LoadView) (exact : Bool) (i : Nat) (l : LayerStep) : Bool :=
  let len (n : Nat) : Option Nat := v.counts[n]?
  (l.resident == noId || len l.residentList == some (l.residentTiles (v.form exact i l))) &&
  (l.outputList == noId || len l.outputList == some (if l.drains then l.columns * l.blocks else 0)) &&
  (l.biasList == noId || (len l.biasList).isSome)

/-- Route counters a route claims from on this device (R253, R368). -/
def LoadView.homeCounters (v : LoadView) (device : Nat) : List Nat :=
  ((v.layers.filter fun e => e.2.shared && e.2.homeDevice == device).map (·.2.counter)).eraseDups

/-- Whether any step of a route reads or writes a scale (R250). -/
def LoadView.usesScales (v : LoadView) : Bool :=
  v.good.any fun st => st.converted != [] || match st with
    | .layer l => l.drains && l.scaleStage && !l.raw
    | _ => false

/-- Check 2: counts, handle numbers, letterboxes, route counters and list lengths. -/
def check2 (s : State) (p : Nat) (v : LoadView) (exact : Bool) : Option Nat :=
  let i := v.image
  let perCore := (List.range 6).all fun c =>
    (i.handles.filter (·.core == c)).length ≤ 256 && (i.boxes.filter (·.core == c)).length ≤ 64 &&
    (i.handles.filter (·.core == c)).all fun h =>
      ((i.handles.filter fun g => g.core == c && g.number == h.number).length == 1) &&
      !(s.heldHandles c).any (fun g => g.1 == h.number)
  let counters := (v.homeCounters s.cascade.device).all fun n => (s.counter n).owner == 0
  let scales := (i.scaleIn == noId && i.scaleOut == noId && !v.usesScales) ||
    [i.scaleIn, i.scaleOut].all fun n => v.counts[n]? == some 1
  if !(1 ≤ v.hdr.steps && v.hdr.steps ≤ 4096 && v.hdr.patches ≤ 256 && perCore && counters && scales) then some 0xFFFF
  else firstBad v fun n l => !(listsFit v exact n l && biasEnough s p v l)

/-- Whether a letterbox record keeps R197. -/
def boxFits (i : Image) (b : BoxEntry) : Bool :=
  let x := b.shape
  x.offset % 64 == 0 && x.length % 64 == 0 && 64 ≤ x.length &&
  (x.slotSize == 0 || (x.slotSize % 64 == 0 && x.length % x.slotSize == 0)) &&
  (i.handle b.core x.handle).any fun h => x.offset + x.length ≤ h.bytes

/-- The tile lists a layer step names (R250). -/
def LayerStep.lists (l : LayerStep) : List Nat :=
  (if l.resident = noId then [] else [l.residentList]) ++ (if l.biasList = noId then [] else [l.biasList]) ++
  (if l.outputList = noId ∨ !l.drains then [] else [l.outputList])

/-- The tile addresses a layer step names, and those of the tiles of R72; a list that no step names is not
looked at (log entry 41). -/
def LoadView.stepTiles (v : LoadView) (l : LayerStep) : List Nat := l.lists.flatMap fun n => v.image.lists.getD n []
def LoadView.scaleTiles (v : LoadView) : List Nat :=
  [v.image.scaleIn, v.image.scaleOut, v.image.state].flatMap fun n => v.image.lists.getD n []

/-- Check 3: alignment. -/
def check3 (v : LoadView) : Option Nat :=
  if !(v.hdr.offsets.all (· % 64 == 0) &&
    v.image.handles.all (fun h => [1, 2, 4, 8, 16, 32, 64].contains (popCount 64 h.handle.mask)) &&
    v.image.boxes.all (boxFits v.image)) then some 0xFFFF
  else match firstBad v fun _ l => !(v.stepTiles l).all (· % 64 == 0) with
    | some i => some i
    | none => if v.scaleTiles.all (· % 64 == 0) then none else some 0xFFFF

/-- Whether two handles share a row of a bank (R192). -/
def sharesRow (a b : Handle) : Bool :=
  (a.mask &&& b.mask) != 0 && a.baseRow < b.baseRow + b.rows && b.baseRow < a.baseRow + a.rows

/-- Where a tile stands among tiles laid one after another by column, then block (log entry 21). -/
def LayerStep.tilePlace (l : LayerStep) (bs : List Nat) (column block : Nat) : Nat :=
  column * l.blockBytes bs + l.blockBytes (bs.filter (· < block))

/-- Whether a tile lies in the partition's regions, and within one of them (R224). -/
def State.tileHeld (s : State) (p a size : Nat) : Bool := s.mapped p a size && withinRegion a size

/-- Whether every tile a layer step names is held: a sealed input tile whole, an output tile at its size. -/
def State.tilesHeld (s : State) (p : Nat) (v : LoadView) (l : LayerStep) : Bool :=
  let ins := (if l.resident = noId then [] else v.image.lists.getD l.residentList []) ++
    (if l.biasList = noId then [] else v.image.lists.getD l.biasList [])
  l.lists.all (fun n => !v.unread.contains n) &&
  ins.all (fun a => s.mapped p a 64 && (s.sealedHeader p a).all fun h => withinRegion a h.span) &&
  (l.outputList == noId || !l.drains ||
    let as := v.image.lists.getD l.outputList []
    (List.range as.length).all fun j => s.tileHeld p (as.getD j 0) (l.outTileBytes (j % l.blocks)))

/-- Check 4: rows of handles, regions of tiles. -/
def check4 (s : State) (p : Nat) (v : LoadView) : Option Nat :=
  let hs := v.image.handles
  let apart := hs.all fun h => 1 ≤ h.handle.lines && h.handle.lines ≤ 1572864 &&
    h.handle.baseRow + h.handle.rows ≤ 24576 && (!h.valid ||
      (hs.filter fun g => g.core == h.core && g.number != h.number && g.valid).all (fun g => !sharesRow h.handle g.handle) &&
      (s.heldHandles h.core).all fun g => !sharesRow h.handle g.2)
  if !apart then some 0xFFFF
  else match firstBad v fun _ l => !s.tilesHeld p v l with
    | some i => some i
    | none =>
      if [v.image.scaleIn, v.image.scaleOut, v.image.state].all (fun n => !v.unread.contains n) &&
        v.scaleTiles.all (fun a => s.mapped p a 64 && (s.sealedHeader p a).all fun h => withinRegion a h.span) then none
      else some 0xFFFF

/-! ### Check 5: operands, modes and formats -/

/-- The output code of the latest earlier step that writes a tensor, where one does (R239). -/
def producedCode (v : LoadView) (i tensor : Nat) : Option Nat :=
  if tensor = noId then none
  else ((List.range i).filterMap fun j => match v.steps[j]? with
    | some (some (RouteStep.layer l)) => if l.drains && l.output == tensor then some (if l.raw then 8 else l.target) else none
    | some (some (RouteStep.vector x)) => if x.narrowed = some tensor then some (leAt x.tail 0 1) else none
    | _ => none).getLast?

/-- R27, R34, R47, R61, R93, R95, R117 and the extents of R250. -/
def modeOk (l : LayerStep) : Bool :=
  let wide := if isBell l.element then 4 else weightWidth l.element
  (Format.ofCode l.format).any (fun f => f != .scale && f != .state) && isWeightCode l.element &&
  l.modePin ≤ 2 && (l.modePin != 1 || !l.isTable) && (l.modePin != 2 || l.isTable) &&
  (if l.isTable then !isBell l.element && wide ≤ 4 && 1 ≤ l.actWidth && l.actWidth ≤ 8
   else [4, 8, 16].contains l.actWidth && !(l.actWidth == 4 && 8 < wide) &&
     !(l.actWidth == 16 && (l.isPair || l.isLoose)) && !(l.actWidth == 4 && l.format == 1)) &&
  (!l.transposed || l.isLoose) &&
  (if l.isLoose then [128, 256, 512, 1024].contains l.extent && l.extent % l.denseExtent == 0 else l.extent == 0)

/-- Shape, cores and loop order (Table 12-1, R241, R243, R313). -/
def shapeOk (cores : Nat) (l : LayerStep) : Bool :=
  1 ≤ l.p && 1 ≤ l.k && l.k ≤ 2 ^ 20 && 1 ≤ l.n && l.n ≤ 2 ^ 20 && l.cores != 0 &&
  (l.cores &&& cores) == l.cores &&
  (if l.order == 3 then l.orderAllowed (.ksplit l.kparts) else l.kparts == 0) &&
  (l.order != 2 || l.orderAllowed .columns)

/-- The output stage's fields (R64, R74, R148). -/
def outputOk (l : LayerStep) : Bool :=
  (l.raw || (Target.ofCode l.target).any fun t => l.narrow ≤ t.qmax) && l.activation ≤ 4 && l.tap ≤ 2 &&
  (l.scaleStage || l.activation < 3) &&
  (l.activation != 2 ||
    (if l.scaleStage then
       let lo := BitVec.ofNat 32 l.clampLo
       let hi := BitVec.ofNat 32 l.clampHi
       !fpIsNaN lo && !fpIsNaN hi && !fpLt hi lo
     else signed 32 l.clampLo ≤ signed 32 l.clampHi))

/-- Whether bytes lie in a handle of an image. -/
def handleHas (i : Image) (core n off size : Nat) : Bool :=
  (i.handle core n).any fun h => off + size ≤ h.bytes

/-- R160 for a layer step resolved to POSTCARD. -/
def postcardOk (i : Image) (l : LayerStep) : Bool :=
  !isBell l.element && 4 < weightWidth l.element && !l.isTable && !l.isLoose && l.tap == 0 &&
  !l.continues && !l.leavesOpen &&
  (bitsOf 6 l.cores).all fun c =>
    handleHas i c l.auxH l.auxOff (1024 * (l.share c).cols)

/-- Neuron tiles a gather buffer holds at least (R165). -/
def LayerStep.gatherTiles (l : LayerStep) (down : Bool) : Nat := min (if down then l.k else l.n) (l.p * l.f)

/-- R165 for a layer step resolved to FORWARD; its gather buffer is read with strides of whole lines (R196). -/
def forwardOk (v : LoadView) (down : Bool) (l : LayerStep) : Bool :=
  let n := if down then l.k else l.n
  l.predA != noId && l.predB != noId && 1 ≤ l.f && l.f ≤ min n 4096 && l.format == 0 && l.auxOff % 64 == 0 &&
  (v.layers.all fun e => e.2.resident != l.predA || e.2.n ≤ 256) &&
  (bitsOf 6 l.cores).all fun c => handleHas v.image c l.auxH l.auxOff (l.gatherTiles down * l.neuronBytes down)

/-- Operand codes that earlier steps give the resident and streamed tensors (R65, R239). -/
def rolesOk (v : LoadView) (i : Nat) (l : LayerStep) : Bool :=
  (producedCode v i l.resident).all (fun c => c ≤ 5) && (producedCode v i l.streamed).all fun c => c ≤ 4

/-- Headers of the sealed tiles of a list agree with the step and the list's positions (R27, R250). -/
def residentOk (s : State) (p : Nat) (v : LoadView) (exact : Bool) (l : LayerStep) : Bool :=
  let c := l.resolve v.cascade exact
  let as := v.image.lists.getD l.residentList []
  let t := l.kTiles * l.tilesPerK
  l.resident == noId || (List.range as.length).all fun j =>
    (s.sealedHeader p (as.getD j 0)).all fun h =>
      h.format == l.format && h.element == l.element && h.actWidth == l.actWidth &&
      (if c = .forward then h.rowOffset == j && h.kOffset == 0
       else h.rowOffset == 128 * (j / t) && h.kOffset == l.tileK * (j % t / l.tilesPerK) &&
         (!l.isLoose || h.columns == l.extent))

/-- Sack and merge buffer of a scatter group (R124). -/
def sackOk (i : Image) (core sackH mergeH mib : Nat) (sorting : Bool) : Bool :=
  1 ≤ mib && mib ≤ 44 && handleHas i core sackH 0 (mib * 2 ^ 20) &&
  handleHas i core mergeH 0 (mib * 2 ^ 20 + if sorting then 0 else 2 ^ 19)

/-- Check 5 of a layer step; R57, R160 and R165 look at CONDITION as Table 8-1 resolves it, in exact mode too. -/
def layerOk (s : State) (p : Nat) (v : LoadView) (exact : Bool) (i : Nat) (l : LayerStep) : Bool :=
  let c := l.resolve v.cascade false
  let down := isDown v.good v.cascade false i l
  modeOk l && shapeOk (s.part p).cores l && outputOk l && rolesOk v i l &&
  (c != .postcard || postcardOk v.image l) && (c != .forward || forwardOk v down l) &&
  residentOk s p v exact l && biasOk s p v l

/-- Element codes an operand may have: a stored code, which an input operand reads unless it is Bell-4
(R171), or a broadcast form (R322). -/
def operandCode (input : Bool) (e : Nat) : Bool := (e ≤ 8 && !(input && e == 5)) || (input && 0x40 ≤ e && e ≤ 0x4A)

/-- How many of A, B and C an operation reads. -/
def VecOp.arity : VecOp → Nat
  | .add | .sub | .mul | .min | .max | .cmp | .div | .gradAdd | .scatterAdd | .scaleUpdate => 2
  | .fma | .select | .rmsnorm | .layernorm | .sgdStep | .adamStep => 3
  | _ => 1

/-- Whether all six bytes of an operand are 0. -/
def Operand.unused (o : Operand) : Bool := o.handle == 0 && o.element == 0 && o.offset == 0

/-- Whether bytes 76 to 83 hold nothing but what the operation names (R322). -/
def tailOk (v : VectorStep) : Bool :=
  match v.op with
  | .convert =>
    if v.r.element = 7 ∨ v.r.element = 8 then leNat v.tail == 0
    else leAt v.tail 0 1 ≤ 6 && leAt v.tail 1 1 == 0 && leAt v.tail 6 2 == 0 &&
      (Target.ofCode (leAt v.tail 0 1)).any fun t => leAt v.tail 2 2 ≤ t.qmax
  | .cmp => leAt v.tail 0 1 ≤ 5 && leAt v.tail 1 7 == 0
  | .scatterAdd => leAt v.tail 2 1 ≤ 44 && leAt v.tail 3 1 == 0
  | _ => leNat v.tail == 0

/-- Check 5 of a vector operation (R185, R322, R501). -/
def vectorOk (cores : Nat) (v : VectorStep) : Bool :=
  bitOf cores v.core && operandCode true v.a.element && operandCode true v.b.element && operandCode true v.c.element &&
  operandCode false v.r.element && ((2 ≤ v.op.arity && v.op != .sgdStep) || v.b.unused) && (3 ≤ v.op.arity || v.c.unused) && tailOk v &&
  (v.op != .clamp || fpLe (v.scalars.getD 0 0) (v.scalars.getD 1 0)) &&
  (v.op != .scatterAdd || (v.rows ≤ 2 ^ 26 && v.elements ≤ 2 ^ 24 && leAt v.tail 4 4 * v.elements ≤ 2 ^ 32))

/-- Check 5 of one step. -/
def stepOk (s : State) (p : Nat) (v : LoadView) (exact : Bool) (i : Nat) : Option RouteStep → Bool
  | none => false
  | some (.layer l) => layerOk s p v exact i l
  | some (.vector x) => vectorOk (s.part p).cores x
  | some (.openBox c _) | some (.closeBox c _) | some (.wait c _ _) | some (.release c _ _) => bitOf (s.part p).cores c
  | some (.order c n) => bitOf (s.part p).cores c && n < v.steps.length

/-- The handles' and letterboxes' cores, then each step (check 5). -/
def check5 (s : State) (p : Nat) (v : LoadView) (exact : Bool) : Option Nat :=
  let cores := (s.part p).cores
  if !(v.image.handles.all (fun h => h.core < 6 && bitOf cores h.core) &&
       v.image.boxes.all fun b => b.core < 6 && bitOf cores b.core) then some 0xFFFF
  else (List.range v.steps.length).find? fun i => !stepOk s p v exact i ((v.steps[i]?).getD none)

/-! ### Checks 6 to 9: schedule, groups, sizes -/

/-- Whether a sender entry may stand in a letterbox of a partition (R198, R366). Only a master has other devices' core masks
and confidential flags to look at; a member takes a core of any member device (log entry 65). -/
def State.senderOk (s : State) (p e : Nat) : Bool :=
  let cls := field e 15 13
  let dev := field e 12 7
  let idx := field e 6 0
  if cls = 7 then true
  else if cls = 1 then dev == 0 && idx < 6 && bitOf (s.part p).cores idx
  else if cls = 2 ∨ cls = 3 then true
  else if cls = 4 then
    bitOf s.cascade.members dev && idx < 6 &&
    (if dev = s.cascade.device then bitOf (s.part p).cores idx
     else (Tab.find (dev * 8 + p) s.cascade.peers).all fun q => bitOf q.cores idx && q.conf == s.isConf p)
  else false

/-- The first step that opens a letterbox already open, over the steps in order (R199). -/
def boxWalk : List (Nat × RouteStep) → List (Nat × Nat) → Option Nat
  | [], _ => none
  | (i, .openBox c b) :: rest, open_ => if open_.contains (c, b) then some i else boxWalk rest ((c, b) :: open_)
  | (_, .closeBox c b) :: rest, open_ => boxWalk rest (open_.erase (c, b))
  | _ :: rest, open_ => boxWalk rest open_

/-- Open accumulation groups of a core after each layer step, and every failure met: status, step and order of Table 12-4
(R138 to R141). -/
structure GroupWalk where
  open_ : List OpenGroup
  bad : List (Status × Nat × Nat)
  deriving DecidableEq, Repr

/-- One layer step met by a core's open groups (R138 to R141). -/
def groupStep (core : Nat) (w : GroupWalk) (e : Nat × LayerStep) : GroupWalk :=
  let (i, l) := e
  if !bitOf l.cores core || l.transposed then w
  else
    let found := w.open_.find? fun g => g.label == l.group
    let b1 := if l.continues != found.isSome then [(Status.badParam, i, 6)] else []
    let b2 := if l.continues && found.any (fun g => g.precision != l.precision) then [(Status.accumPrecision, i, 8)] else []
    let b3 := if l.groupsFit l.loopOrder core w.open_ then [] else [(Status.accumCapacity, i, 7)]
    { open_ := l.groupsAfter l.loopOrder core w.open_, bad := w.bad ++ b1 ++ b2 ++ b3 }

/-- The lowest of some step indices. -/
def lowestStep (is : List Nat) : Option Nat := is.min?

/-- The first group failure of a given order on any core; a group open at the end is of order 6 (R140). -/
def groupCheck (v : LoadView) (order : Nat) : Option (Status × Nat) :=
  let bad := (List.range 6).flatMap fun c =>
    let w := v.layers.foldl (groupStep c) { open_ := [], bad := [] }
    w.bad ++ w.open_.map fun g =>
      (Status.badParam, ((v.layers.filter fun e => e.2.group == g.label && bitOf e.2.cores c).getLast?.map (·.1)).getD 0xFFFF, 6)
  let mine := bad.filter fun b => b.2.2 == order
  (lowestStep (mine.map (·.2.1))).bind fun i => (mine.find? fun b => b.2.1 == i).map fun b => (b.1, i)

/-! ### The static schedule of scratchpad accesses -/

/-- The range of the streamed operand in its handle on a core: tiles of an earlier step, or vectors in
stream order; none where it comes from partition memory (R39, R246). -/
def streamRange (v : LoadView) (core i : Nat) (l : LayerStep) : List (Nat × Nat × Nat) :=
  let sh := l.share core
  if sh.blocks = 0 ∨ sh.cols = 0 then []
  else match earlierWriter v.good i l with
    | some q =>
      if q.outputList ≠ noId then []
      else [(l.streamH, l.streamOff, ceilDiv l.streamLength 128 * q.blockBytes ((List.range sh.blocks).map (sh.block0 + ·)))]
    | none =>
      [(l.streamH, l.streamOff,
        l.ownPositions core * (if l.transposed then 1 else l.kTiles) * rowBytes l.vectorLength l.streamBits)]

/-- Where the output tiles of a layer step go in a handle of a core. -/
def LayerStep.outRange (l : LayerStep) (core : Nat) : List (Nat × Nat × Nat) :=
  if l.drains && l.outputList == noId then [(l.outH, l.outOff, l.outBytes (l.share core))] else []

/-- The sack and merge buffer of a scatter group (R124). -/
def sackRanges (sackH mergeH mib : Nat) (sorting : Bool) : List (Nat × Nat × Nat) :=
  [(sackH, 0, mib * 2 ^ 20), (mergeH, 0, mib * 2 ^ 20 + if sorting then 0 else 2 ^ 19)]

/-- SACK_MIB of a SCATTER_ADD (R322). -/
def VectorStep.sackMib (v : VectorStep) : Nat := if leAt v.tail 2 1 = 0 then 4 else leAt v.tail 2 1

/-- The bytes a layer step writes on a core that has a share of it: a scatter's destination, sack and merge buffer;
forwarding lists; output tiles; and the reduction records, mask buffer or gather buffer behind AUX_H (R124, R153, R160,
R163, R164, R246). -/
def LoadView.layerWrites (v : LoadView) (exact : Bool) (core i : Nat) (l : LayerStep) : List (Nat × Nat × Nat) :=
  let sh := l.share core
  let f := v.form exact i l
  let list := if exact then 0 else listLength v.good v.cascade l
  if sh.blocks = 0 ∨ sh.cols = 0 then []
  else if l.transposed then
    (l.outH, l.outOff, l.ownPositions core * l.kPadded * 4) ::
      sackRanges l.sackH l.mergeH l.sackMib (exact || l.scatterFp)
  else
    (if list = 0 then l.outRange core
     else if l.noWrite then [] else [(l.outH, l.outOff, l.ownPositions core * 4 * list)]) ++
    (if l.tap = 0 ∨ l.raw ∨ l.leavesOpen then [] else [(l.auxH, l.auxOff, sh.blocks * tapTileBytes)]) ++
    (match f.cond with
     | .none => []
     | .postcard => [(l.auxH, l.auxOff, 1024 * sh.cols)]
     | .forward => [(l.auxH, l.auxOff, l.gatherTiles f.down * l.neuronBytes f.down)])

/-- The bytes a step writes on a core: handle, offset and length (R195). -/
def LoadView.writes (v : LoadView) (exact : Bool) (core i : Nat) : RouteStep → List (Nat × Nat × Nat)
  | .layer l => v.layerWrites exact core i l
  | .vector x =>
    if x.core ≠ core then []
    else (x.results.map fun w => (w.1.handle, w.1.offset, w.2)) ++
      if x.op = .scatterAdd then sackRanges (leAt x.tail 0 1) (leAt x.tail 1 1) x.sackMib (exact || !x.isInt) else []
  | _ => []

/-- Whether two ranges share a byte. -/
def overlaps (a b : Nat × Nat × Nat) : Bool :=
  a.1 == b.1 && a.2.1 < b.2.1 + b.2.2 && b.2.1 < a.2.1 + a.2.2

/-- Two steps that write the same bytes with no ordering step between them (R195). -/
def LoadView.unordered (v : LoadView) (exact : Bool) (core : Nat) : Option Nat :=
  let ns := numbered v.good
  (ns.find? fun b => ns.any fun a => a.1 < b.1 &&
    ((v.writes exact core a.1 a.2).any fun x => (v.writes exact core b.1 b.2).any fun y => overlaps x y) &&
    !(ns.any fun o => a.1 < o.1 && o.1 < b.1 && match o.2 with | .order c _ => c == core | _ => false)).map (·.1)

/-- Whether a step's linear reads are aligned, and all it reads and writes lies within its handles (R191,
R196). -/
def rangesOk (v : LoadView) (exact : Bool) (i : Nat) (st : RouteStep) : Bool :=
  let fits (c : Nat) (x : Nat × Nat × Nat) : Bool := handleHas v.image c x.1 x.2.1 x.2.2
  match st with
  | .layer l => (bitsOf 6 l.cores).all fun c =>
      (streamRange v c i l).all (fun x => x.2.1 % 64 == 0 && fits c x) && (v.writes exact c i st).all (fits c)
  | .vector x =>
    x.reads.all (fun r => (!r.2.2 || r.1.offset % 64 == 0) && fits x.core (r.1.handle, r.1.offset, r.2.1)) &&
    (v.writes exact x.core i st).all (fits x.core)
  | _ => true

/-- The sack and merge buffer of a step that scatters (R124, R185). -/
def sacksOk (v : LoadView) (exact : Bool) : RouteStep → Bool
  | .layer l => !l.transposed || (bitsOf 6 l.cores).all fun c =>
      sackOk v.image c l.sackH l.mergeH l.sackMib (exact || l.scatterFp)
  | .vector x => x.op != .scatterAdd ||
      sackOk v.image x.core (leAt x.tail 0 1) (leAt x.tail 1 1) x.sackMib (exact || !x.isInt)
  | _ => true

/-- A tensor no earlier step converted; and a REPLAY output apart from its step's own inputs, and converted on one device
only, which a SHARED step's is not (R83, R368). -/
def replayOk (v : LoadView) (replay : List Nat) (i : Nat) (st : RouteStep) : Bool :=
  let before := (v.good.take i).flatMap RouteStep.converted
  let again := st.converted.any fun t => replay.contains t
  st.converted.all (fun t => !before.contains t) && (!again || match st with
    | .layer l => !l.shared && (bitsOf 6 l.cores).all fun c =>
        (l.outRange c).all fun w => (streamRange v c i l).all fun r => !overlaps w r
    | .vector x => x.results.all fun w => x.reads.all fun r =>
        !overlaps (w.1.handle, w.1.offset, w.2) (r.1.handle, r.1.offset, r.2.1)
    | _ => true)

/-- Whether a control step names a letterbox of its image (R199, R203, R204). -/
def boxNamed (v : LoadView) : RouteStep → Bool
  | .openBox c b | .closeBox c b | .wait c b _ | .release c b _ =>
    v.image.boxes.any fun x => x.core == c && x.number == b
  | _ => true

/-- A SHARED step's route counter, on a device of the cascade (R253, R368). -/
def sharedOk (s : State) : RouteStep → Bool
  | .layer l => !l.shared || (72 ≤ l.counter &&
      (l.homeDevice == s.cascade.device || bitOf s.cascade.members l.homeDevice))
  | _ => true

/-- Whether a step converts to an integer or Bell-4 code. -/
def RouteStep.intTarget : RouteStep → Bool
  | .layer l => (Target.ofCode l.target).any Target.isInteger
  | .vector x => (Target.ofCode (leAt x.tail 0 1)).any Target.isInteger
  | _ => false

/-- The tensors taken as REPLAY at load: by the input SCALE tile's entries where it is sealed, else every tensor that the
route converts to an integer or Bell-4 code (R498). -/
def State.replayTensors (s : State) (p : Nat) (v : LoadView) : State × List Nat :=
  let conv := v.good.flatMap RouteStep.converted
  let ints := (v.good.filter RouteStep.intTarget).flatMap RouteStep.converted
  match (v.image.lists.getD v.image.scaleIn []).head? with
  | none => (s, ints)
  | some a =>
    if (s.sealedHeader p a).isNone then (s, ints)
    else match s.tileOnce p a { format := some .scale } with
      | (s, .good, b) =>
        match scaleTable (b.drop 64) with
        | none => (s, ints)
        | some es => (s, conv.filter fun t => (findScale es t).any fun e => e.policy == .replay)
      | (s, _, _) => (s, ints)

/-- Check 6: the schedule; the step with the lowest index among those that fail. -/
def check6 (s : State) (p : Nat) (v : LoadView) (exact : Bool) (replay : List Nat) : Option Nat :=
  let conv := (v.good.flatMap RouteStep.converted).length
  let stateLen := (v.image.lists.getD v.image.state []).length
  let ns := numbered v.good
  let steps := (ns.find? fun e => !(rangesOk v exact e.1 e.2 && sacksOk v exact e.2 && replayOk v replay e.1 e.2 &&
    boxNamed v e.2 && sharedOk s e.2)).map (·.1)
  let senders := v.image.boxes.all fun b => b.shape.senders.all (s.senderOk p)
  let twice := v.image.boxes.any fun b => (Tab.find b.number (s.core b.core).boxes).isSome
  let state := v.image.scaleIn != noId && conv != 0 && stateLen < ceilDiv conv 2047
  lowestStep (steps.toList ++ (boxWalk ns []).toList ++ ((groupCheck v 6).map (·.2)).toList ++
    (List.range 6).filterMap (v.unordered exact) ++ (if !senders || twice || state then [0xFFFF] else []))

/-- Check 9: no oversized tile among the sealed headers of the input tiles a route names (R99, R249). -/
def check9 (s : State) (p : Nat) (v : LoadView) : Option Nat :=
  let big (as : List Nat) : Bool := as.any fun a => (s.sealedHeader p a).any oversized
  match firstBad v fun _ l => (l.resident != noId && big (v.image.lists.getD l.residentList [])) ||
      (l.biasList != noId && big (v.image.lists.getD l.biasList [])) with
  | some i => some i
  | none => if big v.scaleTiles then some 0xFFFF else none

/-! ### The whole check -/

/-- Table 12-4 in order, with the tensors taken as REPLAY (R248, R498). -/
def State.verifyView (s : State) (p : Nat) (exact : Bool) (replay : List Nat) (v : LoadView) :
    Except Refuse Unit :=
  let no (st : Status) (i o : Nat) : Except Refuse Unit := .error { status := st, index := i, order := o }
  match check2 s p v exact with
  | some i => no .loaderCount i 2
  | none =>
    match check3 v, check4 s p v, check5 s p v exact with
    | some i, _, _ => no .loaderAlign i 3
    | none, some i, _ => no .loaderSize i 4
    | none, none, some i => no .badParam i 5
    | none, none, none =>
      match check6 s p v exact replay, groupCheck v 7, groupCheck v 8, check9 s p v with
      | some i, _, _, _ => no .badParam i 6
      | none, some (st, i), _, _ => no st i 7
      | none, none, some (st, i), _ => no st i 8
      | none, none, none, some i => no .formatOversize i 9
      | none, none, none, none => .ok ()

/-- The bytes of a route image: header first, then the whole within 16 MiB and check 1 (R320, Table 12-4). -/
def State.imageBytes (s : State) (p : Nat) (params : Bytes) : State × Except Refuse Bytes :=
  let a := leAt params 0 8
  let len := leAt params 8 4
  let no (s : State) (st : Status) (o : Nat) : State × Except Refuse Bytes :=
    (s, .error { status := st, index := 0xFFFF, order := o })
  let size (s : State) : Status → State × Except Refuse Bytes
    | .sealFault => no s .sealFault 0
    | _ => no s .loaderSize 1
  if a % 64 ≠ 0 then no s .badParam 0
  else match s.readParams p a 64 with
    | (s, .error st) => size s st
    | (s, .ok hb) =>
      let h := decodeImageHdr hb
      if h.magic ≠ 0x7D1E0300 ∨ h.version ≠ 1 then no s .badParam 0
      else if 2 ^ 24 < len ∨ !check1 h len then no s .loaderSize 1
      else match s.readParams p a len with
        | (s, .error st) => size s st
        | (s, .ok b) => (s, .ok b)

/-- The image of a LOAD_ROUTE or VERIFY_ROUTE checked: its view, the tensors taken as REPLAY and its bytes (R248, R320,
R498). -/
def State.verifyImage (s : State) (p : Nat) (params : Bytes) :
    State × Except Refuse (LoadView × List Nat × Bytes) :=
  let exact := bitOf (leAt params 12 1) 0
  match s.imageBytes p params with
  | (s, .error e) => (s, .error e)
  | (s, .ok b) =>
    match s.viewImage p exact b with
    | (s, .error st) => (s, .error { status := st, index := 0xFFFF, order := 0 })
    | (s, .ok v) =>
      let (s, replay) := s.replayTensors p v
      match s.verifyView p exact replay v with
      | .error e => (s, .error e)
      | .ok _ => (s, .ok (v, replay, b))

end Sys2Proof.Machine
end

