-- ==== Sys2Proof/Machine/Runs.lean ====
section
/-! DEFINITION. How runs, streams, routes, letterboxes and partitions come to their ends: the shared
operations behind aborts, releases, teardown and every ending status (R193, R205 to R207, R314 to R316,
R324, R327, R353). -/

namespace Sys2Proof.Machine

/-! ### Letterboxes and handles -/

/-- Whether a write into a letterbox is still landing (R205). -/
def Core.landing (c : Core) (box : Nat) : Bool := c.landings.any fun l => l.box == box

/-- A letterbox set to closing, or closed at once when nothing is landing (R205). -/
def Core.closeBox (c : Core) (box : Nat) : Core :=
  { c with boxes := Tab.modify box (fun b =>
      if b.state = .closed then b else { b with state := if c.landing box then .closing else .closed }) c.boxes }

/-- The letterbox leases of a device's letterbox end with it (Table 17-7). -/
def State.dropBoxLeases (s : State) (core box : Nat) : State :=
  { s with leases := s.leases.filter fun l => !(l.kind == 1 && l.resource == core * 2 ^ 8 + box) }

/-- A letterbox closed on a core. -/
def State.closeBox (s : State) (core box : Nat) : State :=
  (s.onCore core fun c => c.closeBox box).dropBoxLeases core box

/-- Whether any valid handle of a core has a row in a bank (R206). -/
def Core.bankUsed (c : Core) (bank : Nat) : Bool := c.handles.any fun h => bitOf h.2.1.mask bank

/-- Powered banks that no handle needs enter draining under AUTO_OFF (R206, R207). -/
def Core.drainUnused (c : Core) (alwaysOn : Bool) : Core :=
  if alwaysOn then c
  else { c with banks := c.banks.map fun e =>
    (e.1, if e.2 = .on ∧ !c.bankUsed e.1 then .draining else e.2) }

/-- Banks a handle needs that are off start their power-up; a draining bank first ends its drain (R208). -/
def Core.raise (c : Core) (mask : Nat) : Core :=
  { c with banks := (bitsOf 64 mask).foldl (fun t b =>
      match Tab.getD .off t b with
      | .off => Tab.put b .rising t
      | _ => t) c.banks }

/-- Whether every bank of a mask is on. -/
def Core.powered (c : Core) (mask : Nat) : Bool :=
  (bitsOf 64 mask).all fun b => Tab.getD .off c.banks b == .on

/-! ### Cores -/

/-- A core whose arrays, bands and scatter group stop the step they work at: only slots and drains stay. -/
def Core.stopped (c : Core) : Core :=
  { c with
    running := .idle, scatter := none, pigeons := []
    arrays := Tab.mapVal (fun _ (a : ArrayState) => { ArrayState.idle with slots := a.slots }) c.arrays
    bands := Tab.mapVal (fun _ (b : BandState) => b.drainOnly) c.bands }

/-- What a core holds for a run, dropped: its slots, parked ones too, their drains, its groups and the step that drains
(R138, R139). -/
def Core.forget (c : Core) (rid : Nat) : Core :=
  let stays (d : Nat × Nat) : Bool := (c.slotAt d).run != rid
  { c with
    tail := c.tail.filter fun e => e.run != rid
    groups := c.groups.filter fun g => g.run != rid
    arrays := Tab.mapVal (fun _ (a : ArrayState) =>
      ({ a with slots := a.slots.map fun q => if q.run = rid then .empty else q } : ArrayState).turn) c.arrays
    bands := Tab.mapVal (fun _ (b : BandState) =>
      { b with drain := b.drain.filter stays, drainPos := if b.drain.head?.all stays then b.drainPos else 0 }) c.bands }

/-- The band counters of a core disarmed (R253). -/
def State.disarm (s : State) (core : Nat) : State :=
  (List.range 12).foldl (fun s b =>
    let n := 12 * core + b
    s.setCounter n { s.counter n with armed := false, outstanding := [], held := [], reissue := [] }) s

/-- The steps of a WAIT that ends, counted: how many the manual leaves to the pace, so a free value (R204, R211; log entry
3). -/
def State.countStall (s : State) (core : Nat) : State :=
  let (n, s) := s.draw
  s.countCore core core 5 (Config.stallSteps n)

/-- A core taken out of its work for a run, a WAIT that ends so counted (R204). -/
def State.leaveRun (s : State) (rid core : Nat) : State :=
  let x := s.core core
  if x.running.run ≠ some rid then s
  else
    let s := match x.running with
      | .stalled _ _ => s.countStall core
      | _ => s
    (s.onCore core Core.stopped).disarm core

/-- A run taken off the device: its cores stop its step, and it leaves their queues. -/
def State.removeRun (s : State) (rid : Nat) : State :=
  let s := (List.range 6).foldl (fun s c => s.leaveRun rid c) s
  { s with runs := Tab.erase rid s.runs
           cores := Tab.mapVal (fun _ (c : Core) => { c.forget rid with queue := c.queue.filter (· != rid) }) s.cores }

/-! ### Key sessions and regions -/

/-- A key session of purpose stream or parcel ends with its last user (R353). -/
def State.releaseKey (s : State) (p key : Nat) : State :=
  let used := (s.streams.any fun e => e.2.partition == p && e.2.key == key) ||
    (s.channels.any fun e => e.2.partition == p && e.2.key == key)
  if used then s
  else s.onPart p fun x =>
    { x with keys := match Tab.find key x.keys with
        | some k => if k.used ∧ k.purpose < 2 then Tab.erase key x.keys else x.keys
        | none => x.keys }

/-- A region begins to be freed: UNMAPPING refuses new accesses (R223). -/
def State.startUnmap (s : State) (r : Nat) (why : UnmapWhy) : State :=
  { s.setRegion r { s.region r with unmapping := true } with unmaps := Tab.put r why s.unmaps }

/-! ### Routes -/

/-- The letterboxes of a route: core and number. -/
def Route.boxes (r : Route) : List (Nat × Nat) := r.image.boxes.map fun b => (b.core, b.number)

/-- The cores of a route's handles. -/
def Route.handleCores (r : Route) : List Nat := (r.image.handles.map (·.core)).eraseDups

/-- A route's release starts: its letterboxes close (R205, R324). -/
def State.startRelease (s : State) (rid : Nat) (waiter : Option Nat) : State :=
  match s.route rid with
  | none => s
  | some r =>
    let s := r.boxes.foldl (fun s b => s.closeBox b.1 b.2) s
    s.setRoute rid { r with releasing := true, loading := none, waiters := r.waiters ++ waiter.toList }

/-- Whether every letterbox of a route is closed (R205). -/
def State.boxesClosed (s : State) (r : Route) : Bool :=
  r.boxes.all fun b => (Tab.find b.2 (s.core b.1).boxes).all fun x => x.state == .closed

/-- A route released: letterboxes and handles go, route counters are freed, unused banks drain, and the
ABORT_ROUTE that waited completes (R193, R253, R324). -/
def State.finishRelease (s : State) (rid : Nat) (r : Route) : State :=
  let s := r.boxes.foldl (fun s b => s.onCore b.1 fun c => { c with boxes := Tab.erase b.2 c.boxes }) s
  let s := s.onCores (s.part r.partition).cores fun x =>
    ({ x with handles := x.handles.filter fun h => h.2.2 != rid }).drainUnused (s.part r.partition).alwaysOn
  let s := r.counters.foldl (fun s n =>
    s.setCounter n .reset) s
  let s := { s with routes := Tab.erase rid s.routes }
  r.waiters.foldl (fun s id =>
    match s.cmd id with
    | some c => s.complete id c.detail
    | none => s) s

/-- Releases that can end do (R205). -/
def State.settleRoutes (s : State) : State :=
  s.routes.foldl (fun s e =>
    if e.2.releasing && s.boxesClosed e.2 then s.finishRelease e.1 e.2 else s) s

/-! ### Streams -/

/-- Frames of a stream released and not ended. -/
def State.framesOpen (s : State) (n : Nat) : Bool :=
  s.runs.any fun e => match e.2.serves with | .frame st _ _ _ => st == n | _ => false

/-- A stream context gone: its route unbound, its key session released where it was the last user. -/
def State.dropStream (s : State) (n : Nat) (x : Stream) : State :=
  let s := { s with streams := Tab.erase n s.streams }
  let s := s.onRoute x.route fun r => { r with stream := none }
  let s := x.closers.foldl (fun s id => s.complete id x.completed) s
  s.releaseKey x.partition x.key

/-- A closing stream whose frames have ended closes its letterbox, and ends when that is closed (R327). -/
def State.settleStream (s : State) (n : Nat) (x : Stream) : State :=
  if !x.closing || s.framesOpen n then s
  else
    let s := match Tab.find x.desc.box (s.core x.core).boxes with
      | some b => if b.state = .opened then s.closeBox x.core x.desc.box else s
      | none => s
    match Tab.find x.desc.box (s.core x.core).boxes with
    | some b => if b.state = .closed then s.dropStream n x else s
    | none => s.dropStream n x

def State.settleStreams (s : State) : State := s.streams.foldl (fun s e => s.settleStream e.1 e.2) s

/-! ### Teardown -/

/-- Commands that belong to a partition: issued on its function, or naming it. -/
def Cmd.ofPart (c : Cmd) (p : Nat) : Bool := c.fn == p || c.packet.partition == p

/-- The commands of a partition still in flight. -/
def State.partWork (s : State) (p : Nat) : List Nat :=
  (s.cmds.filter fun e => e.2.ofPart p && e.2.phase != .ended).map (·.1)

/-- Whether any frame of the partition's streams is released and not ended. -/
def State.partFrames (s : State) (p : Nat) : Bool :=
  s.streams.any fun e => e.2.partition == p && s.framesOpen e.1

/-- Step 1 of R315: streams, parcel channels and key sessions close. -/
def State.teardownStreams (s : State) (p : Nat) : State :=
  let s := s.streams.foldl (fun s e =>
    if e.2.partition = p then (s.closeBox e.2.core e.2.desc.box).dropStream e.1 e.2 else s) s
  let s := { s with channels := s.channels.filter fun e => e.2.partition != p }
  s.onPart p fun x => { x with keys := [] }

/-- Step 2 of R315: routes are released. -/
def State.teardownRoutes (s : State) (p : Nat) : State :=
  s.routes.foldl (fun s e => if e.2.partition = p then s.startRelease e.1 none else s) s

def State.setTeardownStep (s : State) (p n : Nat) : State :=
  s.onPart p fun x => { x with teardown := x.teardown.map fun t => { t with step := n } }

/-- Teardown of a partition as far as it can go without an event: work ends, steps 1 and 2, then the
scratchpads are being written to zero (R314, R315). -/
def State.advanceTeardown (s : State) (p : Nat) : State :=
  match (s.part p).teardown with
  | none => s
  | some t =>
    let s := if t.step = 0 ∧ (s.partWork p).isEmpty ∧ !s.partFrames p then
        ((s.teardownStreams p).teardownRoutes p).setTeardownStep p 2
      else s
    let s := s.settleRoutes
    match (s.part p).teardown with
    | none => s
    | some t =>
      if t.step = 2 ∧ !s.routes.any (fun e => e.2.partition == p) then s.setTeardownStep p 3 else s

/-- Everything that can come to its end without a further event does. -/
def State.settle (s : State) : State :=
  let s := s.settleStreams.settleRoutes
  [1, 2, 3, 4, 5, 6].foldl (fun s p => s.advanceTeardown p) s

/-! ### Ending runs -/

/-- What a frame's end adds to its stream (R283, R328). -/
def State.frameEnds (s : State) (st release : Nat) (ok : Bool) : State :=
  s.onStream st fun x =>
    { x with completed := if ok then (x.completed + 1) % 2 ^ 32 else x.completed
             worst := max x.worst (s.now - release) }

/-- A run ends with a status that is not of class 0x00. A frame's run that ends so has met its
deadline (R282). -/
def State.failRun (s : State) (rid : Nat) (st : Status) (detail : Nat := 0) : State :=
  match s.run rid with
  | none => s
  | some r =>
    let s := s.removeRun rid
    let s := match r.serves with
      | .command id => s.fail id st detail
      | .frame n _ release _ => s.frameEnds n release false
    s.settle

/-- A run ends with every effect complete (R302, R323). -/
def State.finishRun (s : State) (rid : Nat) : State :=
  match s.run rid with
  | none => s
  | some r =>
    let s := s.removeRun rid
    let s := match r.serves with
      | .command id => s.complete id 0 r.notices
      | .frame n _ release _ => s.frameEnds n release true
    s.settle

/-- The run that serves a command. -/
def State.runOf (s : State) (id : Nat) : Option Nat :=
  (s.runs.find? fun e => e.2.serves == .command id).map (·.1)

/-! ### Buckets -/

/-- The home of bucket tags: the lowest-numbered member, or the device alone (Table 17-7). -/
def State.tagHome (s : State) : Nat := ((bitsOf 64 s.cascade.members).head?).getD s.cascade.device

/-- The number under which a core holds the staging handle of a bucket: beyond every route's (R380). -/
def stagingHandle (tag : Nat) : Nat := 256 + tag

/-- A bucket gone from this device with its staging handle. -/
def State.dropBucket (s : State) (tag : Nat) (b : Bucket) : State :=
  let s : State := { s with buckets := Tab.erase tag s.buckets }
  s.onCore b.core fun c =>
    ({ c with handles := Tab.erase (stagingHandle tag) c.handles }).drainUnused (s.part b.partition).alwaysOn

/-- A tag lease given back to its home: the bucket has completed, or its command was aborted
(R381, Table 18-4; log entry 36). -/
def State.releaseTag (s : State) (tag partition : Nat) (aborted : Bool) : State :=
  s.send { Message.plain 7 s.cascade.device s.tagHome (tag * 2 ^ 8 + 2 ^ 40 + bit aborted * 2 ^ 41) [] with
           partition := partition }

/-! ### Ending commands early -/

/-- A scrub under way once the command that asked for it is gone: nothing waits for it. -/
def ScrubWhy.without (id : Nat) : ScrubWhy → ScrubWhy
  | .kept cs => .kept (cs.filter (· != id))
  | .alloc c l p => if c = id then .freed p else .alloc c l p
  | .freed p => .freed p

/-- What a command in flight holds is given back: its run, packing, waiting commit, scrub, load or
channel, and its bucket (R314, R370, R392). -/
def State.withdraw (s : State) (id : Nat) : State :=
  let s : State := match s.runOf id with | some r => s.removeRun r | none => s
  let s : State := { s with packing := Tab.erase id s.packing }
  let s : State := { s with scrubs := Tab.mapVal (fun _ w => w.without id) s.scrubs }
  let s : State := { s with unmaps := Tab.mapVal (fun _ w => if w = UnmapWhy.command id then UnmapWhy.teardown else w) s.unmaps }
  let s : State := { s with parts := Tab.mapVal (fun _ (x : Partition) =>
      { x with commit := if x.commit.any (fun c => c.cmd == some id) then none else x.commit }) s.parts }
  let s := s.buckets.foldl (fun (s : State) e =>
    if e.2.cmd = id then (s.dropBucket e.1 e.2).releaseTag e.1 e.2.partition true else s) s
  let s := s.routes.foldl (fun (s : State) e => if e.2.loading = some id then s.startRelease e.1 none else s) s
  s.channels.foldl (fun s e =>
    if e.2.cmd = id then ({ s with channels := Tab.erase e.1 s.channels }).releaseKey e.2.partition e.2.key
    else s) s

/-- A command in flight ended by something else: what it held is given back (R314, R372, R374). -/
def State.cutShort (s : State) (id : Nat) (st : Status) (detail : Nat := 0) : State :=
  match s.cmd id with
  | none => s
  | some c => if c.phase = .ended then s else (s.withdraw id).fail id st detail

/-! ### Disabling -/

/-- A function's disablement begins (R314, R316, R418): DRAIN stops new frames; ABORT also ends every
command of the partition with ST_ABORTED and withdraws its frames. -/
def State.disable (s : State) (p : Nat) (abort : Bool) (waiter : Option Nat) : State :=
  let old := (s.part p).teardown
  let t : Teardown := old.getD { abort := abort, step := 0, waiters := [], aborted := 0 }
  let killing := abort && t.step = 0
  let ids := if killing then s.partWork p else []
  let t := { t with abort := t.abort || abort, waiters := t.waiters ++ waiter.toList,
                    aborted := t.aborted + ids.length }
  let s := s.onPart p fun x => { x with teardown := some t }
  let s := { s with streams := Tab.mapVal (fun _ (x : Stream) =>
      if x.partition = p then { x with closing := true } else x) s.streams }
  let s := if killing then
      let s := ids.foldl (fun s id => s.cutShort id .aborted) s
      s.runs.foldl (fun s e => match e.2.serves with
        | .frame n _ _ _ => if (s.stream n).any (fun x => x.partition == p) then s.removeRun e.1 else s
        | _ => s) s
    else s
  s.settle

end Sys2Proof.Machine
end

