-- ==== Sys2Proof/Machine/Sessions.lean ====
section
/-! DEFINITION. OPEN_SESSION, CLOSE_SESSION and QUERY_DEVICE (R297, R298, R309). -/

namespace Sys2Proof.Machine

/-- The highest version of a rising list that lies in an offer (R298). -/
def bestVersion (have_ : List Nat) (lo hi : Nat) : Option Nat :=
  (have_.filter fun v => lo ≤ v && v ≤ hi).getLast?

/-- The parcel protocol versions and the stream descriptor versions there are (Table 14-6). -/
def parcelVersions : List Nat := [0x10, 0x11]
def descriptorVersions : List Nat := [0x10]

/-- What OPEN_SESSION chooses from its offers (Table 14-5). -/
def chosenVersions (p : Bytes) : Option Session :=
  match bestVersion commandVersions (leAt p 0 1) (leAt p 1 1),
        bestVersion parcelVersions (leAt p 2 1) (leAt p 3 1),
        bestVersion descriptorVersions (leAt p 4 1) (leAt p 5 1) with
  | some c, some q, some _ => some { command := c, parcel := q }
  | _, _, _ => none

/-- OPEN_SESSION's effect (R297, R298). -/
def State.openSession (s : State) (id : Nat) (c : Cmd) : State :=
  let x := s.fn c.fn
  match chosenVersions c.params with
  | none => s.fail id .badVersion
  | some v =>
    if 16 ≤ x.sessions.length ∨ 65535 < x.nextSession then s.fail id .badParam
    else
      let n := x.nextSession
      let s := s.setFn c.fn { x with sessions := Tab.put n v x.sessions, nextSession := n + 1 }
      s.complete id (n + v.command * 2 ^ 16 + v.parcel * 2 ^ 24)

/-- OPEN_SESSION. -/
def execOpenSession (id : Nat) (s : State) : Result :=
  opcodeRow id 0x0101 (fun c s => s.openSession id c) s

/-- CLOSE_SESSION: the session its packet names (R297). -/
def execCloseSession (id : Nat) (s : State) : Result :=
  opcodeRow id 0x0102 (fun c s =>
    (s.onFn c.fn fun x => { x with sessions := Tab.erase c.packet.session x.sessions }).complete id) s

/-- Stream contexts granted to enabled functions (R313). -/
def State.quotaGranted (s : State) : Nat :=
  (s.parts.filter fun e => e.2.enabled).foldl (fun n e => n + e.2.streams) 0

/-- The version of the running firmware image (R398). -/
def Flash.running (f : Flash) : Option FwImage := if f.runningB then f.slotB else f.slotA

/-- The value of a QUERY_DEVICE item; none for an item or ARG that Table 15-2 does not list. -/
def State.queryItem (s : State) (item arg : Nat) : Option Nat :=
  if item = 4 then
    if 1 ≤ arg ∧ arg ≤ 6 then
      let x := s.part arg
      some (x.cores + x.streams * 2 ^ 8 + bit x.conf * 2 ^ 16)
    else none
  else if arg ≠ 0 then none
  else match item with
    | 0 => some (s.cascade.device + bit s.isMaster * 2 ^ 8)
    | 1 => some ((s.flash.running.map (·.version)).getD 0)
    | 2 => some s.cascade.versions
    | 3 => some (maskOf ((s.parts.filter fun e => e.2.enabled).map (·.1)))
    | 5 => some (((List.range 1020).filter fun r => (s.region r).owner == 0).length)
    | 6 => some (s.streams.length + (64 - s.quotaGranted) * 2 ^ 8)
    | 7 => some (s.config.knob + s.capSetting * 2 ^ 2 + s.admission * 2 ^ 4)
    | 8 => some s.routes.length
    | _ => none

/-- QUERY_DEVICE (R309). -/
def execQueryDevice (id : Nat) (s : State) : Result :=
  opcodeRow id 0x0103 (fun c s =>
    match s.queryItem (leAt c.params 0 2) (leAt c.params 2 2) with
    | none => s.fail id .badParam
    | some v => s.complete id v) s

end Sys2Proof.Machine
end

