-- ==== Sys2Proof/Machine/Configs.lean ====
section
/-! DEFINITION. STAGE_CONFIG, COMMIT_CONFIG and how a waiting commit ends (R280, R310 to R312, R340, R432). -/

namespace Sys2Proof.Machine

/-! ### Staging -/

/-- An item entry (Table 15-3). -/
def decodeItem (b : Bytes) : ConfigItem :=
  { item := leAt b 0 2, arg := leAt b 2 2, index := leAt b 4 4, value := leAt b 8 8 }

/-- An entry of zeros, which pads a block (log entry 16). -/
def ConfigItem.zero : ConfigItem := { item := 0, arg := 0, index := 0, value := 0 }

/-- The entries of a STAGE_CONFIG: inline the bytes of PARAM_LEN and nothing beyond, under BY_REF the
block less its padding. -/
def stagedItems (c : Cmd) : Option (List ConfigItem) :=
  if c.packet.byRef then
    let es := (pieces 16 65536 c.params).map decodeItem
    some ((es.reverse.dropWhile fun e => e == .zero).reverse)
  else if c.packet.paramLen % 16 ≠ 0 ∨ leNat (c.params.drop c.packet.paramLen) ≠ 0 then none
  else some ((pieces 16 3 (c.params.take c.packet.paramLen)).map decodeItem)

/-- Whether an item is one of a port's (Tables 15-4 and 16-2). -/
def portItem (n : Nat) : Bool := n == 0x0005 || (0x0100 ≤ n && n ≤ 0x0108)

/-- How many layer steps a route has. -/
def Route.layerCount (r : Route) : Nat := (layersOf r.steps).length

/-- Whether an entry passes Table 15-4 and Table 16-2 for the shadow set of `p` (R310, R340). -/
def State.itemOk (s : State) (p : Nat) (e : ConfigItem) : Bool :=
  let v := e.value
  if e.item = 0x0011 then
    1 ≤ p && match s.route e.arg with
      | none => false
      | some r =>
        let left := r.layerCount - e.index
        r.partition == p && !r.releasing && e.index < r.layerCount && (16 ≤ left || v < 2 ^ (4 * left))
  else if e.index ≠ 0 then false
  else if e.item = 0x0010 then 1 ≤ p && e.arg == 0 && v ≤ 1
  else if p ≠ 0 then false
  else match e.item with
    | 0x0001 => e.arg == 0 && v ≤ 3
    | 0x0002 => e.arg == 0 && 400 ≤ v && v ≤ 1100 && v % 10 == 0
    | 0x0003 => v ≤ 3 && (if v = 2 then e.arg ≤ 15 else e.arg == 0)
    | 0x0004 => e.arg == 0 && v ≤ 127
    | 0x0005 => e.arg ≤ 15 && v ≤ 1
    | 0x0100 => e.arg ≤ 15 && v < 2 ^ 48 && !bitOf v 40
    | 0x0101 => e.arg ≤ 15 && v < 2 ^ 40 && field v 39 32 ≤ 32
    | 0x0104 => e.arg ≤ 15 && v < 2 ^ 16
    | 0x0105 => e.arg ≤ 15 && 1280 ≤ v && v ≤ 9216
    | 0x0106 => e.arg ≤ 15 && v < 2 ^ 32
    | 0x0102 | 0x0103 | 0x0107 | 0x0108 => e.arg ≤ 15
    | _ => false

/-- Whether two entries are for one item: CHR_SOURCE's ARG is part of its value (R310). -/
def ConfigItem.same (a b : ConfigItem) : Bool :=
  a.item == b.item && (a.item == 0x0003 || (a.arg == b.arg && a.index == b.index))

/-- An entry staged in place of an earlier one for the same item. -/
def stageItem (set : List ConfigItem) (e : ConfigItem) : List ConfigItem :=
  set.filter (fun x => !x.same e) ++ [e]

/-- The shadow set and the waiting commit of set 0 to 6, and of the management controller, 7. -/
def State.shadow (s : State) (p : Nat) : List ConfigItem :=
  if p = 0 then s.config.shadow
  else if p = 7 then [{ item := 0x0002, arg := 0, index := 0, value := s.mgt.capW }]
  else (s.part p).shadow
def State.commit (s : State) (p : Nat) : Option Commit :=
  if p = 0 then s.config.commit else if p = 7 then s.mgt.commit else (s.part p).commit
def State.setShadow (s : State) (p : Nat) (set : List ConfigItem) : State :=
  if p = 0 then { s with config := { s.config with shadow := set } }
  else s.onPart p fun x => { x with shadow := set }
def State.setCommit (s : State) (p : Nat) (c : Option Commit) : State :=
  if p = 0 then { s with config := { s.config with commit := c } }
  else if p = 7 then { s with mgt := { s.mgt with commit := c } }
  else s.onPart p fun x => { x with commit := c }

/-- STAGE_CONFIG's effect (R310, R312). -/
def State.stageConfig (s : State) (id : Nat) (c : Cmd) : State :=
  let p := c.part
  if (s.commit p).isSome then (s.count 44 4).fail id .configBusy
  else match stagedItems c with
    | none => s.fail id .badParam
    | some es =>
      if es.isEmpty || !es.all (s.itemOk p) then s.fail id .badParam
      else (s.setShadow p (es.foldl stageItem (s.shadow p))).complete id es.length

/-- STAGE_CONFIG. -/
def execStageConfig (id : Nat) (s : State) : Result := opcodeRow id 0x0110 (fun c s => s.stageConfig id c) s

/-! ### What a commit must pass -/

/-- SUPPLY_KNOB and POWER_CAP as a set would leave them. -/
def State.knobAndCap (s : State) (set : List ConfigItem) : Nat × Nat :=
  set.foldl (fun kc e => if e.item = 1 then (e.value, kc.2) else if e.item = 2 then (kc.1, e.value) else kc)
    (s.config.knob, s.config.cap)

/-- Whether a set changes SUPPLY_KNOB or POWER_CAP. -/
def State.changesSupply (s : State) (set : List ConfigItem) : Bool :=
  s.knobAndCap set != (s.config.knob, s.config.cap)

/-- The value an addressing item has now; none where it is unset. -/
def Addressing.value (a : Addressing) (item : Nat) : Option Nat :=
  match item with
  | 0x0100 => some a.mac
  | 0x0101 => a.ipv4.map fun x => x.1 + x.2 * 2 ^ 32
  | 0x0102 => a.v6Hi | 0x0103 => a.v6Lo | 0x0104 => a.vlan | 0x0105 => some a.mtu
  | 0x0106 => a.gw4 | 0x0107 => a.gw6Hi | 0x0108 => a.gw6Lo
  | _ => none

/-- Whether a port item would change its port. -/
def State.changesPort (s : State) (e : ConfigItem) : Bool :=
  portItem e.item &&
  (if e.item = 5 then bit (s.port e.arg).ethernet != e.value
   else (s.port e.arg).addressing.value e.item != some e.value)

/-- Whether a port carries an open stream context or parcel channel. -/
def State.portCarries (s : State) (p : Nat) : Bool :=
  (s.streams.any fun e => e.2.desc.port == p) || s.channels.any fun e => e.2.port == p && !e.2.finished

/-- Whether a port has a trained PLink of a cascade member. -/
def State.portMember (s : State) (p : Nat) : Bool :=
  (s.port p).link.any fun l => bitOf s.cascade.members l.peer

/-- Check 2 of R311, with R340. -/
def State.setAllowed (s : State) (p : Nat) (set : List ConfigItem) : Bool :=
  set.all fun e =>
    !(s.changesPort e && (s.portCarries e.arg || (e.item == 5 && s.portMember e.arg))) &&
    (e.item != 0x0011 || (s.route e.arg).any fun r => r.partition == p && !r.releasing)

/-- Checks 1 and 2 of R311, the admission test counted. -/
def State.checkCommit (s : State) (p : Nat) (set : List ConfigItem) : Option Status × State :=
  let (knob, cap) := s.knobAndCap set
  let (ok, s) := if s.changesSupply set then
      s.testAdmission (admissionOf knob cap) (List.range 6) [] (fun _ => 0)
    else (true, s)
  if !ok then (some .admissionRefused, s)
  else if !s.setAllowed p set then (some .badParam, s)
  else (none, s)

/-- COMMIT_CONFIG's effect up to its waiting (R311, R312). -/
def State.commitConfig (s : State) (id : Nat) (c : Cmd) : State :=
  let p := c.part
  if (s.commit p).isSome then (s.count 44 4).fail id .configBusy
  else if bitOf (leAt c.params 0 1) 0 then (s.setShadow p []).complete id
  else match s.checkCommit p (s.shadow p) with
    | (some st, s) => (s.count 44 3).fail id st
    | (none, s) => s.setCommit p (some { cmd := some id, since := s.now })

/-- COMMIT_CONFIG. -/
def execCommitConfig (id : Nat) (s : State) : Result := opcodeRow id 0x0111 (fun c s => s.commitConfig id c) s

/-! ### Applying -/

/-- A VCORE change called for, or aimed anew; the rail moves only inside a reserved slot, and not upwards while PWR_WARN# is
asserted (R264, R438). -/
def State.changeVcore (s : State) (goal : Nat) : State :=
  let here := match s.power.change with | some c => c.goal | none => s.power.vcore
  if here = goal then s
  else
    let c : VChange := match s.power.change with
      | some c => { c with source := min c.source c.goal, goal := goal }
      | none => { source := here, goal := goal, commit := false, waiters := []
                  moving := s.now % 10000000 < 200000 && !(s.power.warn && decide (here < goal)) }
    { s with power := { s.power with change := some c } }

/-- VCORE kept between the admission setting and SUPPLY_KNOB after a commit (R262, R263; log entry 17). RUN_BIST holds
it at 0 (R455). -/
def State.fitVcore (s : State) : State :=
  if s.health.bist.isSome then s else
  let here := match s.power.change with | some c => c.goal | none => s.power.vcore
  let s := s.changeVcore (min (max here s.admission) s.config.knob)
  { s with power := { s.power with change := s.power.change.map fun c => { c with commit := true } } }

/-- One addressing item put into force. -/
def Addressing.set (a : Addressing) (item v : Nat) : Addressing :=
  match item with
  | 0x0100 => { a with mac := v }
  | 0x0101 => { a with ipv4 := some (v % 2 ^ 32, field v 39 32) }
  | 0x0102 => { a with v6Hi := some v } | 0x0103 => { a with v6Lo := some v }
  | 0x0104 => { a with vlan := some v } | 0x0105 => { a with mtu := v }
  | 0x0106 => { a with gw4 := some v } | 0x0107 => { a with gw6Hi := some v }
  | 0x0108 => { a with gw6Lo := some v }
  | _ => a

/-- A port's mode changed: its link is down until it trains or links up anew (R339). -/
def State.setPortMode (s : State) (p v : Nat) : State :=
  let x := s.port p
  if bit x.ethernet = v then s
  else
    let s := s.setPort p { x with ethernet := v == 1, up := false, link := none, inbox := [], asks := [] }
    if x.up then s.event 6 else s

/-- CHR_SOURCE put into force: the reference is acquired anew (R268, R269). -/
def Chron.choose (c : Chron) (source port : Nat) : Chron :=
  { c with source := source, port := if source = 2 then port else 0, state := 0, good := 0,
           heard := [], stepHeld := false }

/-- The quality knobs an entry sets, nibble j for layer step INDEX + j (Table 15-4). -/
def Route.setKnobs (r : Route) (e : ConfigItem) : Route :=
  { r with knobs := (List.range 16).foldl (fun t j =>
      if e.index + j < r.layerCount then Tab.put (e.index + j) (e.value / 2 ^ (4 * j) % 16) t else t) r.knobs }

/-- MGT_CAP_STATUS changed, with its in-band interrupt (R430, R431). -/
def State.setCapState (s : State) (n : Nat) : State :=
  let t : State := { s with mgt := { s.mgt with capState := n } }
  if s.mgt.capState = n then t else t.ibi

/-- POWER_CAP put into force for a set. The controller's own commit changes STATE as well, and its one interrupt stands for
both (R430, R431). -/
def State.setCap (s : State) (p w : Nat) : State :=
  let t : State := { s with config := { s.config with cap := w } }
  if s.config.cap = w ∨ p = 7 then t else t.ibi

/-- One item put into force for a set. -/
def State.applyItem (p : Nat) (s : State) (e : ConfigItem) : State :=
  match e.item with
  | 0x0001 => { s with config := { s.config with knob := e.value } }
  | 0x0002 => s.setCap p e.value
  | 0x0003 => { s with time := s.time.choose e.value e.arg }
  | 0x0004 => { s with config := { s.config with ptpDomain := e.value }, time := { s.time with heard := [] } }
  | 0x0005 => s.setPortMode e.arg e.value
  | 0x0010 =>
    let s := s.onPart p fun x => { x with alwaysOn := e.value == 0 }
    s.onCores (s.part p).cores fun c => c.drainUnused (e.value == 0)
  | 0x0011 => s.onRoute e.arg fun r => r.setKnobs e
  | _ => s.onPort e.arg fun x => { x with addressing := x.addressing.set e.item e.value, neighbours := [] }

/-- How a commit's outcome is reported: MGT_CAP_STATUS, or its command's completion, which waits for a
VCORE change that the commit, or one applied before it at the boundary, made (R280, R294, R312, R432). -/
def State.commitDone (s : State) (p n : Nat) (c : Commit) : State :=
  if p = 7 then s.setCapState 2
  else match c.cmd, s.power.change with
    | none, _ => s
    | some id, some v =>
      if p = 0 ∨ !v.waiters.isEmpty then
        { s with power := { s.power with change := some { v with waiters := v.waiters ++ [(id, n)] } } }
      else s.complete id n
    | some id, none => s.complete id n

/-- How a refused or timed-out commit is reported. -/
def State.commitFails (s : State) (p : Nat) (c : Commit) (st : Status) : State :=
  if p = 7 then s.setCapState (if st = .configBusy then 4 else 3)
  else match c.cmd with
    | none => s
    | some id => s.fail id st

/-- One waiting commit applied whole at the boundary, or refused; one older than 50 ms applies nothing (R280, R311,
R312). -/
def State.applyCommit (s : State) (p : Nat) : State :=
  match s.commit p with
  | none => s
  | some c =>
    if c.since + 50000000 < s.now then ((s.setCommit p none).count 44 4).commitFails p c .configBusy else
    let set := s.shadow p
    let s := s.setCommit p none
    match s.checkCommit p set with
    | (some st, s) => (s.count 44 3).commitFails p c st
    | (none, s) =>
      let s := set.foldl (State.applyItem p) s
      let s := if p = 0 ∨ p = 7 then s.fitVcore else s
      let s := if p = 7 then s else s.setShadow p []
      (s.count 44 2).commitDone p set.length c

/-- Whether a core sits between route steps: idle, or held at a control step such as a WAIT or an ORDER (R272, R280). -/
def State.between (s : State) (core : Nat) : Bool :=
  (s.core core).tail.isNone && match (s.core core).running with
  | .idle | .stalled _ _ => true
  | .ready _ _ => (s.readyStep core).any fun e => !e.2.2.counts
  | _ => false

/-- Whether every core sits between route steps. -/
def State.allBetween (s : State) : Bool := (List.range 6).all s.between

/-- The time since the last epoch began (R271). -/
def State.slotTime (s : State) : Nat := s.now % 10000000

/-- An epoch boundary: within 100 µs of a slot's start, every core between route steps (R280). -/
def State.atBoundary (s : State) : Bool :=
  s.slotTime ≤ 100000 && s.allBetween

/-- COMMIT_APPLY: the waiting commits in the order of R312. -/
def execCommitApply (s : State) : Result :=
  .next (onlyIf (s.working && s.atBoundary)
    (fun s => [7, 0, 1, 2, 3, 4, 5, 6].foldl State.applyCommit s) s)

/-- COMMIT_TIMEOUT: a commit that has waited 50 ms ends with ST_CONFIG_BUSY (R280). -/
def execCommitTimeout (set : Nat) (s : State) : Result :=
  checked (set ≤ 7) s fun s =>
    withSome (s.commit set) s fun c =>
      if c.since + 50000000 ≤ s.now then ((s.setCommit set none).count 44 4).commitFails set c .configBusy
      else s

end Sys2Proof.Machine
end

