-- ==== Sys2Proof/Machine/Functions.lean ====
section
/-! DEFINITION. Functions, partitions and regions: enabling, teardown, allocation, freeing and scrubbing
(R208, R209, R221 to R223, R233, R234, R313 to R318). -/

namespace Sys2Proof.Machine

/-! ### Enabling and disabling -/

/-- ENABLE_FUNCTION's effect (R313, Table 15-5). -/
def State.enableFunction (s : State) (id : Nat) (c : Cmd) : State :=
  let f := leAt c.params 0 1
  let cores := leAt c.params 1 1
  let streams := leAt c.params 2 1
  let regions := leAt c.params 4 2
  let others := s.parts.filter fun e => e.2.enabled
  if !(1 ≤ f && f ≤ 6) || (s.part f).enabled || cores == 0 ||
     others.any (fun e => e.2.cores &&& cores != 0) || 64 < s.quotaGranted + streams || 1020 < regions then
    s.fail id .badParam
  else
    let s := s.setPart f { Partition.reset with enabled := true, cores := cores, streams := streams, regions := regions }
    (s.onRing f fun _ => Ring.reset).complete id

/-- ENABLE_FUNCTION. -/
def execEnableFunction (id : Nat) (s : State) : Result :=
  opcodeRow id 0x0120 (fun c s => s.enableFunction id c) s

/-- DISABLE_FUNCTION's effect up to the teardown's events (R314, R316). -/
def State.disableFunction (s : State) (id : Nat) (c : Cmd) : State :=
  let f := leAt c.params 0 1
  let mode := leAt c.params 1 1
  if !(1 ≤ f && f ≤ 6) || 1 < mode || !(s.part f).enabled then s.fail id .badParam
  else s.disable f (mode == 1) (some id)

/-- DISABLE_FUNCTION. -/
def execDisableFunction (id : Nat) (s : State) : Result :=
  opcodeRow id 0x0121 (fun c s => s.disableFunction id c) s

/-- The regions a partition holds. -/
def State.held (s : State) (p : Nat) : List Nat := (s.regions.filter fun e => e.2.owner == p).map (·.1)

/-- SCRATCHPAD_ZERO_COMPLETE: step 3 of R315 ends; step 4 begins to free every region (R209, R223). -/
def execScratchpadZeroComplete (partition : Nat) (s : State) : Result :=
  checked (1 ≤ partition && partition ≤ 6) s fun s =>
    withSome (s.part partition).teardown s fun t =>
      if t.step ≠ 3 then s
      else
        let s := s.onCores (s.part partition).cores fun c => { c with pad := [], seen := [] }
        let s := (s.held partition).foldl (fun s r => s.startUnmap r .teardown) s
        s.setTeardownStep partition 4

/-- A perturbation setting cleared, counted against its cause where there was one (R461, R464). -/
def State.clearPerturb (s : State) (p g i : Nat) : State :=
  let had := !(s.part p).perturb.isEmpty
  let s := s.onPart p fun x => { x with perturb := [], perturbUntil := 0 }
  if had then s.count g i else s

/-- Completions of a function that Bus Master Enable holds back are discarded (R420). -/
def State.discardHeld (s : State) (f : Nat) : State :=
  { s with cmds := s.cmds.filter fun e => !(e.2.fn == f && e.2.relay.isNone && e.2.phase == .ended && !(s.fn f).busMaster) }

/-- Step 5 of R315, and the replies of every DISABLE_FUNCTION that waited (R316). -/
def State.endTeardown (s : State) (p : Nat) (t : Teardown) : State :=
  let s := s.clearPerturb p 55 6
  let s := s.discardHeld p
  let s := s.onFn p fun x =>
    { x with sessions := [], nextSession := 1, ring := { x.ring with enable := false } }
  let s := s.setPart p .reset
  t.waiters.foldl (fun s id => s.complete id t.aborted) s

/-- The partition whose teardown waits for a scrub (R315). -/
def ScrubWhy.torn : ScrubWhy → Nat
  | .kept _ => 0
  | .alloc _ _ p | .freed p => p

/-- TEARDOWN_COMPLETE: every region is freed, those with CONF 1 are scrubbed, and step 5 is done (R315). A teardown that a
function level reset alone asked for does not wait for the scrubs (R418; DEDUCED, log entry 69). -/
def execTeardownComplete (partition : Nat) (s : State) : Result :=
  checked (1 ≤ partition && partition ≤ 6) s fun s =>
    withSome (s.part partition).teardown s fun t =>
      if t.step = 4 ∧ (s.held partition).isEmpty ∧ (t.waiters = [] ∨ s.scrubs.all (fun e => e.2.torn != partition)) then
        s.endTeardown partition t
      else s

/-! ### Regions -/

/-- Allocations of a partition that wait for a scrub: their logical indices. -/
def State.allocsWaiting (s : State) (p : Nat) : List Nat :=
  s.scrubs.filterMap fun e => match e.2 with
    | .alloc id l _ => if (s.cmd id).any (fun c => c.part == p) then some l else none
    | _ => none

/-- A region handed to a partition (R221, R317). -/
def State.giveRegion (s : State) (r p logical : Nat) : State :=
  s.setRegion r { s.region r with logical := logical, owner := p, conf := s.isConf p, scrubPending := false,
                                  unmapping := false }

/-- What ALLOC_REGION finds: a region ready, one being scrubbed that it may wait for, or one to scrub
(R221, R317). -/
inductive AllocFrom where
  | ready (region : Nat)
  | wait (region : Nat)
  | scrub (region : Nat)
  deriving DecidableEq, Repr

def State.allocFrom (s : State) (p : Nat) : Option AllocFrom :=
  let rs := (List.range 1020).filter fun r => (s.region r).owner == 0
  let idle (r : Nat) : Bool := (Tab.find r s.scrubs).isNone
  match rs.find? fun r => idle r && (!(s.region r).scrubPending || (s.region r).lastOwner == p) with
  | some r => some (.ready r)
  | none =>
    match rs.find? fun r => (Tab.find r s.scrubs).any fun w => match w with | .freed _ => true | _ => false with
    | some r => some (.wait r)
    | none => (rs.find? idle).map .scrub

/-- ALLOC_REGION's effect (R221, R317). -/
def State.allocRegion (s : State) (id : Nat) (c : Cmd) : State :=
  let p := c.part
  let want := leAt c.params 0 2
  let have_ := (s.held p).map (fun r => (s.region r).logical) ++ s.allocsWaiting p
  let logical := if want = 0xFFFF then (List.range 1020).find? (fun l => !have_.contains l)
    else if want ≤ 1019 && !have_.contains want then some want else none
  match logical with
  | none => s.fail id .badParam
  | some l =>
    if (s.part p).regions ≤ have_.length then s.fail id .badParam
    else match s.allocFrom p with
      | none => s.fail id .badParam
      | some (.ready r) => (s.giveRegion r p l).complete id l
      | some (.wait r) | some (.scrub r) => { s with scrubs := Tab.put r (.alloc id l ((Tab.find r s.scrubs).elim 0 ScrubWhy.torn)) s.scrubs }

/-- ALLOC_REGION. -/
def execAllocRegion (id : Nat) (s : State) : Result := opcodeRow id 0x0201 (fun c s => s.allocRegion id c) s

/-- Whether a loaded route, an open stream context or an open parcel channel of a partition names an
address in a logical region (R318). -/
def State.namesRegion (s : State) (p l : Nat) : Bool :=
  (s.routes.any fun e => e.2.partition == p && e.2.image.lists.any fun as => as.any fun a => a / 2 ^ 30 == l) ||
  (s.channels.any fun e => e.2.partition == p && e.2.box.isNone && 1 ≤ e.2.length &&
    e.2.area / 2 ^ 30 ≤ l && l ≤ (e.2.area + e.2.length - 1) / 2 ^ 30)

/-- FREE_REGION's effect up to the end of UNMAPPING (R223, R318). -/
def State.freeRegion (s : State) (id : Nat) (c : Cmd) : State :=
  let l := leAt c.params 0 2
  match s.physRegion c.part l with
  | none => s.fail id .badParam
  | some r => if s.namesRegion c.part l then s.fail id .badParam else s.startUnmap r (.command id)

/-- FREE_REGION. -/
def execFreeRegion (id : Nat) (s : State) : Result := opcodeRow id 0x0202 (fun c s => s.freeRegion id c) s

/-- The end of a region's unmapping (R223): the scrub of a CONF region starts at once (R234). -/
def State.unmapped (s : State) (r : Nat) (why : UnmapWhy) : State :=
  let x := s.region r
  let last := if why = .teardown then 0 else x.owner
  let s := s.setRegion r { RegionRec.free with scrubPending := true, lastOwner := last }
  let s := { s with unmaps := Tab.erase r s.unmaps
                    scrubs := if x.conf then Tab.put r (.freed (if why = .teardown then x.owner else 0)) s.scrubs else s.scrubs }
  match why with
  | .teardown => s
  | .command id => s.complete id 0 (if x.conf then 2 else 0)

/-- UNMAPPING_COMPLETE: the last access to the region has completed (R223, R318). -/
def execUnmappingComplete (region : Nat) (s : State) : Result :=
  checked (region < 1020) s fun s =>
    withSome (Tab.find region s.unmaps) s fun why =>
      if (Tab.find region s.scrubs).isSome then s else (s.unmapped region why).settle

/-- SCRUB_REGION's effect up to the scrub's end (R234, R318). -/
def State.scrubRegion (s : State) (id : Nat) (c : Cmd) : State :=
  let l := leAt c.params 0 2
  match s.physRegion c.part l with
  | none => s.fail id .badParam
  | some r =>
    if s.namesRegion c.part l then s.fail id .badParam
    else
      let others := match Tab.find r s.scrubs with | some (.kept cs) => cs | _ => []
      { s with scrubs := Tab.put r (.kept (others ++ [id])) s.scrubs }

/-- SCRUB_REGION. -/
def execScrubRegion (id : Nat) (s : State) : Result := opcodeRow id 0x0203 (fun c s => s.scrubRegion id c) s

/-- A region written to zero, with requests to every stack (R214, R234): what waited for it goes on. -/
def State.scrubbed (s : State) (r : Nat) (why : ScrubWhy) : State :=
  let s : State := { s with mem := clearBytes s.mem (r * 2 ^ 30) (2 ^ 30), scrubs := Tab.erase r s.scrubs }
  let s := ((s.setRegion r { s.region r with scrubPending := false }).count 42 5).request (r * 2 ^ 30) (2 ^ 30)
  match why with
  | .freed _ => s
  | .kept cs => cs.foldl (fun s id => s.complete id) s
  | .alloc id l _ => match s.cmd id with
    | none => s
    | some c => (s.giveRegion r c.part l).complete id l

/-- REGION_SCRUB_COMPLETE (R234, R317, R318). -/
def execRegionScrubComplete (region : Nat) (s : State) : Result :=
  checked (region < 1020) s fun s =>
    withSome (Tab.find region s.scrubs) s fun why => (s.scrubbed region why).settle

end Sys2Proof.Machine
end

