-- ==== Sys2Proof/Machine/RouteCmds.lean ====
section
/-! DEFINITION. LOAD_ROUTE, VERIFY_ROUTE, RUN_ROUTE and ABORT_ROUTE (R193, R208, R248 to R253, R319 to R324). -/

namespace Sys2Proof.Machine

/-! ### Loading -/

/-- The cores a route uses: those of its steps and its handles. -/
def Image.cores (i : Image) (steps : List RouteStep) : List Nat :=
  (List.range 6).filter fun c => steps.any (RouteStep.onCore c) || i.handles.any fun h => h.core == c

/-- A closed letterbox of a loaded route (Table 10-5). -/
def Letterbox.ofShape (x : BoxShape) : Letterbox :=
  { shape := x, state := .closed, delivery := 0, consumed := 0, accepted := 0, discards := [0, 0, 0, 0],
    stream := none }

/-- The handles and letterboxes of an image put on their cores, and the banks they need powered (R193, R208). -/
def State.placeImage (s : State) (rid : Nat) (i : Image) : State :=
  let s := (i.handles.filter (·.valid)).foldl (fun s h =>
    s.onCore h.core fun c => ({ c with handles := Tab.put h.number (h.handle, rid) c.handles }).raise h.handle.mask) s
  i.boxes.foldl (fun s b =>
    s.onCore b.core fun c => { c with boxes := Tab.put b.number (Letterbox.ofShape b.shape) c.boxes }) s

/-- Whether every bank a route needs is powered (R208). -/
def State.imagePowered (s : State) (i : Image) : Bool :=
  (i.handles.filter (·.valid)).all fun h => (s.core h.core).powered h.handle.mask

/-- Route counters given to a partition, their GENERATION counted from this loading (R253; log entry 20). -/
def State.takeCounters (s : State) (p : Nat) (ns : List Nat) : State :=
  ns.foldl (fun s n => s.setCounter n { Counter.reset with owner := p }) s

/-- A seen map on each core of each SHARED layer step, in no arming yet (R248, R258). -/
def State.allotSeen (s : State) (steps : List RouteStep) : State :=
  (layersOf steps).foldl (fun s e =>
    if !e.2.shared then s
    else (bitsOf 6 e.2.cores).foldl (fun s c => s.onCore c fun x =>
      if (Tab.find e.2.counter x.seen).isSome then x else { x with seen := Tab.put e.2.counter (notArmed, []) x.seen }) s) s

/-- The image a LOAD_ROUTE or VERIFY_ROUTE names, checked; a 257th route fails within check 2 (R319). -/
def State.checkImage (s : State) (c : Cmd) (keep : Bool) : State × Except Refuse (LoadView × List Nat × Bytes) :=
  let many : Refuse := { status := .loaderCount, index := 0xFFFF, order := 2 }
  let full := keep && 256 ≤ s.routes.length
  match s.verifyImage c.part c.params with
  | (s, .error e) => (s, .error (if full && 2 < e.order then many else e))
  | (s, .ok r) => (s, if full then .error many else .ok r)

/-- A checked image as the escapement counts it. -/
def LoadView.plan (v : LoadView) (exact : Bool) (replay : List Nat) : Plan :=
  { steps := v.good, boxes := v.image.boxes, cascade := v.cascade, exact := exact, replay := replay
    scaled := v.image.scaled }

/-- LOAD_ROUTE's effect: every check, the admission test, then the allocations (R248, R277, R319). -/
def State.loadRoute (s : State) (id : Nat) (c : Cmd) : State :=
  match s.checkImage c true with
  | (s, .error e) => s.fail id e.status e.detail
  | (s, .ok (v, replay, bytes)) =>
    let p := c.part
    let exact := bitOf (leAt c.params 12 1) 0
    let cores := v.image.cores v.good
    let (ok, s) := s.testAdmission s.admission cores []
      (routeBlocking (v.plan exact replay) (floorPace s.admission))
    if !ok then s.fail id .admissionRefused
    else
      let rid := (Tab.freeKey s.routes 0 256).getD 0
      let counters := v.homeCounters s.cascade.device
      let r : Route := { partition := p, exact := exact, cascade := s.cascadeSize, image := v.image, digest := Config.sha384 bytes,
                         stream := none, knobs := [], counters := counters, replay := replay, tilings := [], armed := [],
                         loading := none, releasing := false, waiters := [] }
      let s := (((s.setRoute rid r).placeImage rid v.image).takeCounters p counters).allotSeen v.good
      if s.imagePowered v.image then s.complete id rid
      else s.onRoute rid fun r => { r with loading := some id }

/-- LOAD_ROUTE. -/
def execLoadRoute (id : Nat) (s : State) : Result := opcodeRow id 0x0301 (fun c s => s.loadRoute id c) s

/-- VERIFY_ROUTE: the same checks, and nothing else (R248). -/
def execVerifyRoute (id : Nat) (s : State) : Result :=
  opcodeRow id 0x0302 (fun c s =>
    match s.checkImage c false with
    | (s, .error e) => s.fail id e.status e.detail
    | (s, .ok _) => s.complete id) s

/-! ### Running -/

/-- A state without the handles, letterboxes and counters of a route, for checking it again (R252). -/
def State.without (s : State) (rid : Nat) (r : Route) : State :=
  let s := (List.range 6).foldl (fun s c => s.onCore c fun x =>
    { x with handles := x.handles.filter fun h => h.2.2 != rid
             boxes := x.boxes.filter fun b => !r.boxes.contains (c, b.1) }) s
  r.counters.foldl (fun s n => s.setCounter n .reset) s

/-- A loaded route as the loader sees it, its BUCKETED steps at another P (R252). -/
def Route.view (r : Route) (steps : List RouteStep) : LoadView :=
  { hdr := { magic := 0x7D1E0300, version := 1, steps := steps.length, handles := 0, boxes := 0, lists := 0,
             patches := r.image.patches.length, scaleIn := r.image.scaleIn, scaleOut := r.image.scaleOut,
             state := r.image.state, offsets := [0, 0, 0, 0, 0] }
    image := r.image, steps := steps.map some, counts := r.image.lists.map List.length, unread := [], cascade := r.cascade }

/-- Whether a route has a BUCKETED layer step. -/
def Route.bucketed (r : Route) : Bool := (layersOf r.steps).any fun e => e.2.bucketed

/-- The tilings cached after one more use of a P: four, most recently used first (R252). -/
def usedTiling (p : Nat) (ts : List Nat) : List Nat := (p :: ts.erase p).take 4

/-- A route tiled and verified again for a P that is not cached (R252, R277): how that ends the command,
or the state with the tiling cached. -/
def State.retile (s : State) (rid : Nat) (r : Route) (p : Nat) : Except (Status × Nat × State) State :=
  if p = 0 ∨ !r.bucketed then .ok s
  else
    let keep (s : State) : State := s.onRoute rid fun r => { r with tilings := usedTiling p r.tilings }
    if r.tilings.contains p then .ok (keep s)
    else
      let s := s.count 43 5
      let steps := r.stepsAt p
      match (s.without rid r).verifyView r.partition r.exact r.replay (r.view steps) with
      | .error e => .error (e.status, e.detail, s)
      | .ok _ =>
        let (ok, s) := s.testAdmission s.admission (r.image.cores steps) []
          (routeBlocking (r.plan steps) (floorPace s.admission))
        if ok then .ok (keep s) else .error (.admissionRefused, 0, s)

/-- The arguments ARG0 to ARG4 (R323). -/
def runArgs (p : Bytes) : List Nat := (List.range 5).map fun j => leAt p (8 + 8 * j) 8

/-- The step records of a run: the patches applied in order; none where one names a target it may not (R323). -/
def Route.patched (r : Route) (args : List Nat) : Option (List RouteStep) :=
  (applyPatches r.image.steps args r.image.patches).bind fun recs => recs.mapM decodeStep

/-- A step in the loop order of the route's tiling (R236, R252). -/
def RouteStep.ordered : RouteStep → RouteStep → RouteStep
  | .layer l, .layer q => .layer { l with order := q.order, kparts := q.kparts }
  | st, _ => st

/-- The steps of a run from its patched records, tiled at its P; none where a patched tile list does not serve its step
(R251, R252; log entry 18). -/
def Route.runSteps (r : Route) (p : Nat) (steps : List RouteStep) : Option (List RouteStep) :=
  let steps := List.zipWith RouteStep.ordered (withP p steps) (r.stepsAt p)
  let v := r.view steps
  if r.image.patches.isEmpty || (firstBad v fun i l => !listsFit v r.exact i l).isNone then some steps else none

/-- A run that has started nothing. -/
def Run.fresh (route : Nat) (serves : RunFor) (steps : List RouteStep) : Run :=
  { route := route, serves := serves, steps := steps, next := [], done := [], scales := [], used := [],
    lists := [], scores := [], records := [], newScales := [], notices := 0,
    started := false, reread := false, armings := [], unanswered := 0, handed := false }

/-- A non-stream run queued on every core its steps name, in submission order (R276). -/
def State.queueRun (s : State) (r : Run) : State :=
  let rid := s.nextRun
  let s := { (s.setRun rid r) with nextRun := rid + 1 }
  ((List.range 6).filter fun c => r.steps.any (RouteStep.onCore c)).foldl
    (fun s c => s.onCore c fun x => { x with queue := x.queue ++ [rid] }) s

/-- A route of the partition that is loaded and not being released. -/
def State.ownRoute (s : State) (p rid : Nat) : Option Route :=
  (s.route rid).filter fun r => r.partition == p && !r.releasing && r.loading.isNone

/-- RUN_ROUTE's effect up to the run's steps (R252, R276, R323). -/
def State.runRoute (s : State) (id : Nat) (c : Cmd) : State :=
  let rid := leAt c.params 0 2
  let p := leAt c.params 4 4
  match s.ownRoute c.part rid with
  | none => s.fail id .badParam
  | some r =>
    if r.stream.isSome || 2 ^ 24 ≤ p then s.fail id .badParam
    else match r.patched (runArgs c.params) with
      | none => s.fail id .badParam
      | some steps =>
        match s.retile rid r p with
        | .error (st, d, s) => s.fail id st d
        | .ok s =>
          match r.runSteps p steps with
          | none => s.fail id .badParam
          | some steps => s.queueRun (Run.fresh rid (.command id) steps)

/-- RUN_ROUTE. -/
def execRunRoute (id : Nat) (s : State) : Result := opcodeRow id 0x0303 (fun c s => s.runRoute id c) s

/-! ### Aborting -/

/-- The runs of a route. -/
def State.runsOf (s : State) (rid : Nat) : List Nat := (s.runs.filter fun e => e.2.route == rid).map (·.1)

/-- ABORT_ROUTE's effect (R324). -/
def State.abortRoute (s : State) (id : Nat) (c : Cmd) : State :=
  let rid := leAt c.params 0 2
  match s.ownRoute c.part rid with
  | none => s.fail id .badParam
  | some r =>
    if r.stream.isSome then s.fail id .badParam
    else
      let runs := s.runsOf rid
      let s := runs.foldl (fun s n => s.failRun n .aborted) s
      if bitOf (leAt c.params 2 1) 0 then
        ((s.onCmd id fun c => { c with detail := runs.length }).startRelease rid (some id)).settle
      else s.complete id runs.length

/-- ABORT_ROUTE. -/
def execAbortRoute (id : Nat) (s : State) : Result := opcodeRow id 0x0304 (fun c s => s.abortRoute id c) s

end Sys2Proof.Machine
end

