-- ==== Sys2Proof/Machine/RunEnd.lean ====
section
/-! DEFINITION. The scales of a run, its tracker, and how a run comes to its end
(R70 to R74, R78, R80, R84, R110, R275, R302). -/

namespace Sys2Proof.Machine

/-! ### Scales -/

/-- A scale as a step uses it, or why the run ends: a replay's substitute first, else the entry's own,
which must be a scale (R70, R71, R80). -/
def Run.scale (r : Run) (tensor : Nat) : Option Word :=
  match Tab.find tensor r.used with
  | some p => some p
  | none => (findScale r.scales tensor).bind fun e => if fpIsScale e.scale then some e.scale else none

/-- How far a replay has moved a tensor's scale: p / s, an exact power of two in folded form (R80). -/
def Run.moved (r : Run) (tensor : Nat) : Word :=
  match Tab.find tensor r.used, findScale r.scales tensor with
  | some p, some e => (fpDivT .away p e.scale).bits
  | _, _ => fpOne

/-- An output SCALE entry put in its place (R72, R84). -/
def Run.putScale (r : Run) (e : ScaleEntry) : Run :=
  { r with newScales := r.newScales.filter (fun x => x.tensor != e.tensor) ++ [e] }

/-- The entries of the output SCALE tile: every input entry, the tracker's in place of its own (R84). DESIGN CHOICE (log
entry 71): the entry of a tensor that the run does not convert is copied unchanged, ADAPTED and GENERATION with it. -/
def Run.scalesOut (r : Run) : List ScaleEntry :=
  r.scales.map fun e => (findScale r.newScales e.tensor).getD e

/-! ### The tracker's tiles -/

/-- The header of a tile of records (R110, Table 11-3). -/
def recordHdr (f : Format) : TileHdr := { TileHdr.blank with format := f.code, element := 0x31 }

/-- One section chunk (R110, Table 5-6). -/
def sectionChunk (kind tensor first total : Nat) (entries : List Bytes) : Bytes :=
  leBytes 1 kind ++ zeros 1 ++ leBytes 2 tensor ++ leBytes 4 first ++ leBytes 4 entries.length ++
  leBytes 4 total ++ entries.flatten

/-- The chunks of a section, each of at most `per` entries (R110). -/
def sectionChunks (kind tensor per : Nat) (entries : List Bytes) : List Bytes :=
  (List.range (ceilDiv entries.length per)).map fun i =>
    sectionChunk kind tensor (i * per) entries.length ((entries.drop (i * per)).take per)

/-- Tracker records in ascending tensor identifier (R110). -/
def insertRecord (b : Bytes) : List Bytes → List Bytes
  | [] => [b]
  | c :: cs => if leAt b 26 2 < leAt c 26 2 then b :: c :: cs else c :: insertRecord b cs

def sortRecords (bs : List Bytes) : List Bytes := bs.foldl (fun acc b => insertRecord b acc) []

/-- The output SCALE tile and the tracker section of the STATE tiles, as far as the run's tensors have had their final
attempts (R72, R84, R110). None where the map refuses one. -/
def State.writeTracker (s : State) (r : Run) : Option State :=
  match s.route r.route with
  | none => some s
  | some x =>
    let list (n : Nat) : List Nat := if n = noId then [] else x.image.lists.getD n []
    let scale := ((list x.image.scaleOut).take 1).map fun a => (a, recordHdr .scale, r.scalesOut.flatMap ScaleEntry.encode)
    let chunks := sectionChunks 1 0xFFFF 2047 (sortRecords r.records)
    let records := (List.zip (list x.image.state) chunks).map fun e => (e.1, recordHdr .state, e.2)
    (scale ++ records).foldlM (fun s t => s.writeTile x.partition t.1 t.2.1 t.2.2) s

/-- A run that the partition map has refused an access ends (R222). -/
def State.refusedRun (s : State) (rid : Nat) : State := s.refusal.failRun rid .badParam

/-- The tracker's tiles written for a run, which a refusal of the map ends (R84, R222). -/
def State.trackerWrites (s : State) (rid : Nat) : State :=
  withSome (s.run rid) s fun r => (s.writeTracker r).getD (s.refusedRun rid)

/-! ### Ends -/

/-- Whether every step of a run has ended. -/
def Run.allDone (r : Run) : Bool := r.done.length == r.steps.length

/-- Whether a run still owes something besides its steps: an answer to a write, or a frame's result. -/
def State.owes (s : State) (r : Run) : Bool :=
  r.unanswered != 0 ||
  match r.serves with
  | .command _ => false
  | .frame n _ _ _ => !r.handed && (s.stream n).any fun x => !x.desc.noResult

/-- The next step a run has to do on a core, from step `least` on. -/
def Run.nextOn (r : Run) (core : Nat) (least : Nat := 0) : Option (Nat × RouteStep) :=
  (numbered r.steps).find? fun e => max least (Tab.getD 0 r.next core) ≤ e.1 && e.2.onCore core

/-- A device fault of cause 4: the stream, frame, deadline and core, and the step that had not ended
(R282, Table 21-7). -/
def missHalt (core n no deadline : Nat) (r : Run) : Halt :=
  { faultOf 4 (((r.nextOn core).map (·.1)).getD r.steps.length) with
    core := core, stream := n, frame := no, deadline := deadline }

/-- The device fault of a released frame whose deadline has passed before its last result was handed over; the deadline's
own nanosecond meets it (R275, R282). -/
def State.missed (s : State) (r : Run) : Option Halt :=
  match r.serves with
  | .frame n no _ d =>
    if r.handed || s.now ≤ d then none else (s.stream n).map fun x => missHalt x.core n no d r
  | .command _ => none

/-- A run that has nothing left to do ends: one that comes after its deadline is a miss (R275, R282, R302). -/
def State.tryEnd (s : State) (rid : Nat) : State :=
  match s.run rid with
  | none => s
  | some r =>
    if r.allDone && !r.steps.isEmpty && !s.owes r then
      match s.missed r with
      | some h => s.fault h
      | none => s.finishRun rid
    else s

/-- A step passed on some cores: it is done once every core it runs on has passed it. -/
def Run.pass (r : Run) (step : Nat) (cores : List Nat) : Run :=
  let next := cores.foldl (fun t c => Tab.put c (max (step + 1) (Tab.getD 0 t c)) t) r.next
  let on := (List.range 6).filter fun c => (r.steps[step]?).any (RouteStep.onCore c)
  let all := on.all fun c => step < Tab.getD 0 next c
  { r with next := next, done := if all then r.done ++ [step] else r.done }

/-- A core past a step of a run: between steps where it worked at it, or rid of its tail (R145). -/
def Core.leave (c : Core) (rid step : Nat) : Core :=
  if c.tail.any fun e => e.run == rid && e.step == step then { c with tail := none } else { c with running := .idle }

/-- A step of a run ended on cores of its own: the run moves on, and after its last step the tracker's tiles
are written (R72, R276). -/
def State.stepEnds (s : State) (rid step : Nat) (cores : List Nat) : State :=
  let s := s.onRun rid fun r => r.pass step cores
  let s := cores.foldl (fun s c => s.onCore c fun x => x.leave rid step) s
  match s.run rid with
  | none => s
  | some r =>
    let s := cores.foldl (fun s c =>
      if (numbered r.steps).any (fun e => step < e.1 && e.2.onCore c) then s
      else s.onCore c fun x => { x with queue := x.queue.filter (· != rid) }) s
    if r.allDone then (s.trackerWrites rid).tryEnd rid else s

end Sys2Proof.Machine
end

