-- ==== Sys2Proof/Machine/Scratch.lean ====
section
/-! DEFINITION. Scratchpad addressing, letterbox writes and bank power (R187 to R209, R257 to R259). -/

namespace Sys2Proof.Machine

/-! ### Handles -/

/-- XOR of the k-bit fields of a line number over bits 20 to 0 (R191); `n` bounds the fields. -/
def foldFields (k : Nat) : Nat → Nat → Nat
  | 0, _ => 0
  | n + 1, i => i % 2 ^ k ^^^ foldFields k n (i / 2 ^ k)

/-- Bank and row of a line of a handle (R191). -/
def Handle.place (h : Handle) (line : Nat) : Nat × Nat :=
  let m := popCount 64 h.mask
  let k := Nat.log2 m
  let j := if m ≤ 1 then 0 else foldFields k 21 line
  ((bitsOf 64 h.mask).getD j 0, h.baseRow + line / m)

/-- The scratchpad key of byte 0 of a bank's row (R187). -/
def padKey (bank row : Nat) : Nat := (bank * 24576 + row) * 64

/-- The pieces of a byte range that lie in one line each: line, offset in it, length. -/
def linePieces (off n : Nat) : List (Nat × Nat × Nat) :=
  if n = 0 then []
  else (List.range ((off + n - 1) / 64 - off / 64 + 1)).map fun i =>
    let l := off / 64 + i
    let lo := max off (64 * l)
    (l, lo % 64, min (off + n) (64 * l + 64) - lo)

/-- A valid handle of a core. -/
def Core.handle (c : Core) (n : Nat) : Option Handle := (Tab.find n c.handles).map (·.1)

/-- Bytes of a handle; none where the access leaves it (R191). -/
def Core.readPad (c : Core) (handle off n : Nat) : Option Bytes :=
  match c.handle handle with
  | none => none
  | some h =>
    if h.bytes < off + n then none
    else some ((linePieces off n).flatMap fun q =>
      let (b, r) := h.place q.1
      readBytes c.pad (padKey b r + q.2.1) q.2.2)

/-- Bytes written through a handle; none, and nothing written, where the access leaves it (R191). -/
def Core.writePad (c : Core) (handle off : Nat) (data : Bytes) : Option Core :=
  match c.handle handle with
  | none => none
  | some h =>
    if h.bytes < off + data.length then none
    else some { c with pad := (linePieces off data.length).foldl (fun m q =>
      let (b, r) := h.place q.1
      writeBytes m (padKey b r + q.2.1) ((data.drop (64 * q.1 + q.2.1 - off)).take q.2.2)) c.pad }

/-- An engine's turn at the banks its access meets (Table 10-3): one request a bank, and none where the same requester waits
there already, since a requester not granted asks again. The access itself is done where it is asked for: neither waiting
nor added stages change a value (R188, R194; log entry 67). Four thousand bytes reach every bank of a handle. -/
def Core.ask (cls requester handle off n : Nat) (c : Core) : Core :=
  match c.handle handle with
  | none => c
  | some h => { c with reqs := ((linePieces off (min n 4096)).map fun q => h.place q.1).foldl (fun rs p =>
      if rs.any fun r => r.bank == p.1 && r.cls == cls && r.requester == requester then rs
      else rs ++ [{ bank := p.1, cls := cls, requester := requester, row := p.2, offset := 0, data := [], landing := none }]) c.reqs }

/-- Requester numbers of class 1: a band's reader, its drain channel, and its recoder's reads of a gather buffer (Table
10-3). -/
def readerOf (band : Nat) : Nat := 3 * band
def channelOf (band : Nat) : Nat := 3 * band + 1
def recoderOf (band : Nat) : Nat := 3 * band + 2

/-- A write through a handle of a core of the device; none where it leaves the handle. -/
def State.writePad (s : State) (core handle off : Nat) (data : Bytes) : Option State :=
  ((s.core core).writePad handle off data).map fun c => s.setCore core c

/-- A sealed tile of a scratchpad handle, checked on use (R229, R246). -/
def Core.padTile (c : Core) (handle off : Nat) (want : TileExpect) : Except (Status × TileCheck) (TileHdr × Bytes) :=
  match c.readPad handle off 64 with
  | none => .error (.badParam, .good)
  | some line =>
    let h := TileHdr.decode line
    let payload := if h.payloadLen ≤ 65536 then (c.readPad handle (off + 64) h.payloadLen).getD [] else []
    match checkTile want 0 line payload with
    | .good => .ok (h, payload)
    | e => .error (e.status, e)

/-! ### Letterbox writes -/

/-- The answer to an arriving write: accepted, discarded with the DETAIL of Table 10-7, or discarded as a
duplicate result (R258). -/
inductive BoxAnswer where
  | accepted
  | refused (detail : Nat)
  | duplicate
  deriving DecidableEq, Repr

/-- The partition of a stream context or parcel channel that sends a write; the owning core's own for
other senders (R198). -/
def State.tellerPart (s : State) (core : Nat) : Teller → Option Nat
  | .stream ctx => (s.stream ctx).map (·.partition)
  | .parcel ch => (Tab.find ch s.channels).map (·.partition)
  | _ => s.partitionOf core

/-- Accepted writes of a letterbox still landing. -/
def Core.inFlight (c : Core) (box : Nat) : Nat := (c.landings.filter fun l => l.box == box).length

/-- The checks of Table 10-7 in order: the DETAIL of the first that fails, 0 where all pass. -/
def State.boxChecks (s : State) (core : Nat) (w : BoxWrite) : Nat :=
  let c := s.core core
  match Tab.find w.box c.boxes with
  | none => 1
  | some b =>
    if b.state ≠ .opened ∨ 64 ≤ w.box then 1
    else if !b.shape.senders.contains w.sender || s.tellerPart core w.teller != s.partitionOf core then 2
    else if (if b.shape.slotSize = 0 then b.shape.length < w.offset + w.data.length
             else b.shape.slotSize < w.data.length) then 3
    else if b.shape.slotSize ≠ 0 ∧
        b.shape.length / b.shape.slotSize ≤ (b.delivery + c.inFlight w.box + 2 ^ 32 - b.consumed) % 2 ^ 32 then 4
    else 0

/-- Counter, claim and generation of a postmark (Table 12-6). -/
def markCounter (m : Nat) : Nat := field m 7 0
def markClaim (m : Nat) : Nat := field m 39 8
def markGen (m : Nat) : Nat := field m 63 56

/-- The seen map's test of R258: whether a result goes on, and the map with its bit set. -/
def Core.testMark (c : Core) (m : Nat) : Bool × Core :=
  match Tab.find (markCounter m) c.seen with
  | none => (false, c)
  | some (gen, claims) =>
    if gen = notArmed ∨ gen % 256 ≠ markGen m ∨ claims.contains (markClaim m) then (false, c)
    else (true, { c with seen := Tab.put (markCounter m) (gen, claims ++ [markClaim m]) c.seen })

/-- A notice of a run. -/
def State.notice (s : State) (rid bit_ : Nat) : State :=
  s.onRun rid fun r => { r with notices := r.notices ||| 2 ^ bit_ }

/-- A duplicate result discarded on a core, counted and noticed (R258, R259). -/
def State.discardDup (s : State) (core : Nat) : State :=
  let s := s.countCore core 43 4
  withSome (s.core core).running.run s fun r => s.notice r 5

/-- The line accesses of a write (R194, R202): its place in the handle, as bank requests of a class. -/
def Core.boxReqs (c : Core) (b : Letterbox) (off : Nat) (data : Bytes) (box landing : Nat) : List BankReq :=
  match c.handle b.shape.handle with
  | none => []
  | some h =>
    (linePieces (b.shape.offset + off) data.length).map fun q =>
      let (bank, row) := h.place q.1
      { bank := bank, cls := 2, requester := box, row := row, offset := q.2.1,
        data := (data.drop (64 * q.1 + q.2.1 - (b.shape.offset + off))).take q.2.2, landing := some landing }

/-- An accepted write on its way: its landing and its line accesses (R202). -/
def Core.accept (c : Core) (b : Letterbox) (w : BoxWrite) : Core :=
  let off := if b.shape.slotSize = 0 then w.offset
    else b.accepted % (b.shape.length / b.shape.slotSize) * b.shape.slotSize
  let reqs := c.boxReqs b off w.data w.box c.nextLanding
  { c with
    boxes := Tab.put w.box { b with accepted := b.accepted + 1 } c.boxes
    landings := c.landings ++ [{ id := c.nextLanding, box := w.box, linesLeft := reqs.length, teller := w.teller }]
    nextLanding := c.nextLanding + 1
    reqs := c.reqs ++ reqs }

/-- An arriving write checked and accepted or discarded whole (R200, R201, R258). -/
def State.offerWrite (s : State) (core : Nat) (w : BoxWrite) : BoxAnswer × State :=
  let s := (s.perturbedOn core 1 6).perturbedOn core 4 w.box
  let d := s.boxChecks core w
  if d ≠ 0 then
    let s := s.onCore core fun c => { c with boxes := Tab.modify w.box (fun b =>
        { b with discards := b.discards.set (d - 1) (b.discards.getD (d - 1) 0 + 1) }) c.boxes }
    (.refused d, s.countCore core core (d - 1))
  else
    let (fresh, c) := match w.postmark with
      | none => (true, s.core core)
      | some m => (s.core core).testMark m
    if !fresh then (.duplicate, s.discardDup core)
    else
      match Tab.find w.box c.boxes with
      | none => (.refused 1, s)
      | some b => (.accepted, s.setCore core (c.accept b w))

/-- A sender identifier of class 1 (Table 10-6). -/
def coreSender (core : Nat) : Nat := 1 * 2 ^ 13 + core

/-- A write by another core of this device (R200, R201): a refusal ends the command that issued it. -/
def State.coreWrite (s : State) (core : Nat) (w : BoxOffer) : State :=
  let rid := ((s.core w.core).running.run).getD s.nextRun
  let (a, s) := s.offerWrite core
    { sender := coreSender w.core, box := w.box, offset := w.offset, data := w.data, postmark := w.postmark,
      teller := .command rid }
  match a with
  | .accepted => s.onRun rid fun r => { r with unanswered := r.unanswered + 1 }
  | .refused d => s.failRun rid .windowClosed d
  | .duplicate => s.notice rid 5

/-- LETTERBOX_WRITE_ARRIVAL (R200). -/
def execLetterboxWriteArrival (core : Nat) (write : BoxOffer) (s : State) : Result :=
  checked (core < 6 && write.core < 6) s (onlyIf s.working fun s => s.coreWrite core write)

/-! ### Banks -/

/-- Whether one access is granted before another (Table 10-3). -/
def BankReq.before (a b : BankReq) : Bool :=
  a.cls < b.cls || (a.cls == b.cls && a.requester < b.requester)

/-- The access a bank grants next: the first of the least class and requester. -/
def Core.granted (c : Core) (bank : Nat) : Option BankReq :=
  let rs := c.reqs.filter (·.bank == bank)
  rs.find? fun r => rs.all fun o => !o.before r

/-- An access done: its bytes in the row, one line of its landing the less. -/
def Core.grant (c : Core) (r : BankReq) : Core :=
  { c with
    pad := writeBytes c.pad (padKey r.bank r.row + r.offset) r.data
    reqs := c.reqs.erase r
    landings := c.landings.map fun l => if r.landing = some l.id then { l with linesLeft := l.linesLeft - 1 } else l }

/-- BANK_ACCESS_GRANT: one access, of the arrays before letterbox writes, memory transfers and the vector unit; every other
request of the bank waits a step (R170, R187, R194, R211). -/
def execBankAccessGrant (core bank : Nat) (s : State) : Result :=
  checked (core < 6 && bank < 64) s (onlyIf s.health.halt.isNone fun s =>
    let c := s.core core
    withSome (c.granted bank) s fun r =>
      let waiting := (c.reqs.filter (·.bank == bank)).length - 1
      ((s.setCore core (c.grant r)).perturbedOn core 2 0).countCore core core 4 waiting)

/-- A parcel receiver ends once every byte has landed and every tile is checked: the command completes, and DATA
is answered for 10 ms more (R353). -/
def State.endReceive (s : State) (ch : Nat) : State :=
  match Tab.find ch s.channels with
  | none => s
  | some x =>
    if x.sending || x.finished || x.tileAt < x.length || x.boxWrites != 0 then s
    else (s.onChannel ch fun x => { x with finished := true, finalUntil := s.now + 10000000 }).complete x.cmd x.tiles

/-- The LB_ACK of a write, which names its letterbox and postmark again (R369; log entry 34). -/
def State.boxAck (s : State) (core device dst box postmark arg : Nat) : Message :=
  { Message.plain 4 s.cascade.device device arg [] with
    srcCore := core, dstCore := dst, box := box, postmark := postmark, partition := (s.partitionOf core).getD 0 }

/-- An arrival of a frame in its letterbox, or the outcome of a write told to its sender (R201, R275, R369). -/
def State.landed (s : State) (core : Nat) (l : Landing) (b : Letterbox) : State :=
  let s := match b.stream with
    | none => s
    | some ctx => s.onStream ctx fun x =>
        let own := l.teller == .stream ctx
        { x with arrivals := x.arrivals ++ [(s.now, own && x.incoming.headD false)]
                 incoming := if own then x.incoming.drop 1 else x.incoming
                 arrived := (x.arrived + 1) % 2 ^ 32 }
  match l.teller with
  | .command rid => (s.onRun rid fun r => { r with unanswered := r.unanswered - 1 }).tryEnd rid
  | .parcel ch => (s.onChannel ch fun x => { x with boxWrites := x.boxWrites - 1 }).endReceive ch
  | .peer device dst box postmark => s.send (s.boxAck core device dst box postmark 0)
  | .stream _ => s

/-- LETTERBOX_WRITE_LANDED: DELIVERY rises, and a closing letterbox with nothing left to land closes
(R203, R205). -/
def execLetterboxWriteLanded (core landing : Nat) (s : State) : Result :=
  checked (core < 6) s (onlyIf s.health.halt.isNone fun s =>
    let c := s.core core
    withSome (c.landings.find? fun l => l.id == landing && l.linesLeft == 0) s fun l =>
      let c := { c with landings := c.landings.filter fun x => x.id != landing }
      match Tab.find l.box c.boxes with
      | none => s.setCore core c
      | some b =>
        let done := b.state == .closing && !c.landing l.box
        let b' := { b with delivery := (b.delivery + 1) % 2 ^ 32, state := if done then .closed else b.state }
        ((s.setCore core { c with boxes := Tab.put l.box b' c.boxes }).landed core l b').settle)

/-- BANK_DRAIN_COMPLETE: with no write in flight the bank powers off, its contents lost; a route that
waits for it raises it again (R207, R208). -/
def execBankDrainComplete (core bank : Nat) (s : State) : Result :=
  checked (core < 6 && bank < 64) s fun s =>
    let c := s.core core
    if Tab.getD .off c.banks bank ≠ .draining ∨ c.reqs.any (·.bank == bank) then s
    else
      let c := { c with banks := Tab.put bank .off c.banks, pad := clearBytes c.pad (padKey bank 0) (24576 * 64) }
      let c := if c.bankUsed bank then c.raise (2 ^ bank) else c
      (s.setCore core c).count core 6

/-- LOAD_ROUTE commands whose banks are all powered complete (R208, R319). -/
def State.finishLoads (s : State) : State :=
  s.routes.foldl (fun s e => match e.2.loading with
    | none => s
    | some id =>
      if s.imagePowered e.2.image then (s.onRoute e.1 fun r => { r with loading := none }).complete id e.1
      else s) s

/-- The power policy of a core's banks: its partition's, AUTO_OFF where it is of none (R206). -/
def State.alwaysOn (s : State) (core : Nat) : Bool := (s.partitionOf core).any fun p => (s.part p).alwaysOn

/-- BANK_POWER_UP_COMPLETE: every row of the bank is zero and it serves accesses, or drains at once where no handle needs it
any more (R206, R208). -/
def execBankPowerUpComplete (core bank : Nat) (s : State) : Result :=
  checked (core < 6 && bank < 64) s fun s =>
    let c := s.core core
    if Tab.getD .off c.banks bank ≠ .rising then s
    else
      let c := { c with banks := Tab.put bank .on c.banks, pad := clearBytes c.pad (padKey bank 0) (24576 * 64) }
      (((s.setCore core c).count core 7).onCore core fun c => c.drainUnused (s.alwaysOn core)).finishLoads.settle

end Sys2Proof.Machine
end

