-- ==== Sys2Proof/Machine/Escapement.lean ====
section
/-! DEFINITION. The escapement: frames released at their beats, replay policies, deadline misses, the
dispatch of route steps to cores, and the control steps of a route
(R72, R162, R199 to R205, R246, R271, R274 to R283, R346, R498). -/

namespace Sys2Proof.Machine

/-! ### Frames -/

/-- The beat of a stream's next frame: the previous release plus T (R275). -/
def Stream.beat (x : Stream) : Option Nat := x.lastRelease.map (· + x.desc.period)

/-- When the next frame is released: the later of its arrival and its beat (R275). -/
def Stream.release (x : Stream) (arrival : Nat) : Nat := max arrival (x.beat.getD 0)

/-- Counter 1 of group 45 for a frame released on arrival, 2 for one held to its beat, 3 for a substitute
(R283). -/
def Stream.releaseKind (x : Stream) (arrival : Nat) (substitute : Bool) : Nat :=
  if substitute then 3 else if x.beat.getD 0 ≤ arrival then 1 else 2

/-- An operand offset of frame `k` where it lies in the frame letterbox's window: its own slot (R202;
log entry 19). -/
def slotShift (b : BoxShape) (k handle off : Nat) : Nat :=
  if handle = b.handle ∧ b.slotSize ≠ 0 ∧ b.offset ≤ off ∧ off < b.offset + b.length then
    off + (k - 1) % (b.length / b.slotSize) * b.slotSize
  else off

/-- An operand of a vector operation as frame `k` reads it. -/
def Operand.shifted (o : Operand) (b : BoxShape) (k : Nat) : Operand :=
  { o with offset := slotShift b k o.handle o.offset }

/-- A route's step as frame `k` of a stream runs it. -/
def RouteStep.forFrame (b : BoxShape) (k : Nat) : RouteStep → RouteStep
  | .layer l => .layer { l with streamOff := slotShift b k l.streamH l.streamOff }
  | .vector v => .vector { v with a := v.a.shifted b k, b := v.b.shifted b k, c := v.c.shifted b k }
  | st => st

/-- A stream's extension counter raised (Table 23-8). -/
def Stream.bump (x : Stream) (i : Nat) (n : Nat := 1) : Stream :=
  { x with tally := x.tally.set i (x.tally.getD i 0 + n) }

/-- A frame released: its run, with the absolute deadline (R275). -/
def State.releaseFrame (s : State) (n : Nat) (x : Stream) (r : Route) (arrival : Nat) (substitute : Bool) :
    State :=
  let rel := x.release arrival
  let k := x.released + 1
  let steps := match Tab.find x.desc.box (s.core x.core).boxes with
    | some b => r.steps.map (RouteStep.forFrame b.shape k)
    | none => r.steps
  let s := s.count 45 (x.releaseKind arrival substitute)
  let s := s.setStream n ({ x with arrivals := x.arrivals.drop 1, released := k % 2 ^ 32,
                                   lastRelease := some rel }.bump 5)
  let s := { (s.setRun s.nextRun (Run.fresh x.route (.frame n k rel (rel + x.desc.deadline)) steps)) with
             nextRun := s.nextRun + 1 }
  s

/-- FRAME_RELEASE: the next frame of a stream that has arrived, once its beat has come (R275). -/
def execFrameRelease (stream : Nat) (s : State) : Result :=
  checked (stream < 64) s (onlyIf s.working fun s =>
    withSome (s.stream stream) s fun x =>
      match x.arrivals.head?, s.route x.route with
      | some (arrival, sub), some r =>
        if x.closing || s.now < x.release arrival then s else s.releaseFrame stream x r arrival sub
      | _, _ => s)

/-- Whether a packet of a stream waits at its port that arrived by a time (R346). -/
def State.packetBy (s : State) (x : Stream) (t : Nat) : Bool :=
  (s.port x.desc.port).inbox.any fun e =>
    match e.2.2.2 with
    | .rtp p => e.2.2.1 == x.desc.localUdp && p.ssrc == x.desc.ssrcIn && p.stamp ≤ t
    | _ => false

/-- The frame a replay policy writes: zeros, or the last accepted payload (Table 16-5). -/
def Stream.substitute (x : Stream) : Bytes :=
  if x.desc.policy = 2 then slice x.lastPayload 0 x.desc.frameLen else zeros x.desc.frameLen

/-- A stream's letterbox write (R345, R346). -/
def Stream.write (n : Nat) (x : Stream) (data : Bytes) : BoxWrite :=
  { sender := 2 * 2 ^ 13 + n, box := x.desc.box, offset := 0, data := data, postmark := none,
    teller := .stream n }

/-- The substitute of a frame that has not arrived, written (R346); a write the letterbox refuses counts
as missing (R201, R345). -/
def State.writeSubstitute (s : State) (n : Nat) (x : Stream) : State :=
  match s.offerWrite x.core (x.write n x.substitute) with
  | (.accepted, s) => s.onStream n fun x =>
      ({ x with missing := (x.missing + 1) % 2 ^ 32, replayed := (x.replayed + 1) % 2 ^ 32
                highest := x.highest.map (· + 1), incoming := x.incoming ++ [true] }.bump 3).bump 4
  | (_, s) => s.onStream n fun x => ({ x with missing := (x.missing + 1) % 2 ^ 32 }.bump 3).bump 6

/-- BEAT_MISSED: the beat has passed, the frame has not arrived and none is on its way (R346). -/
def execBeatMissed (stream : Nat) (s : State) : Result :=
  checked (stream < 64) s (onlyIf s.working fun s =>
    withSome (s.stream stream) s fun x =>
      withSome x.beat s fun beat =>
        if x.closing || s.now ≤ beat || !x.arrivals.isEmpty || !x.incoming.isEmpty || s.packetBy x beat ||
            x.desc.policy == 0 then s
        else s.writeSubstitute stream x)

/-- The next step of a run that a core has not begun. -/
def State.nextOn (s : State) (core rid : Nat) (r : Run) : Option (Nat × RouteStep) := r.nextOn core ((s.core core).begun rid)

/-- DEADLINE_MISS: a released frame whose deadline has passed without handover halts the device (R282). -/
def execDeadlineMiss (stream : Nat) (s : State) : Result :=
  checked (stream < 64) s (onlyIf s.working fun s =>
    let ofStream := s.runs.filter fun e => match e.2.serves with
      | .frame n _ _ _ => n == stream
      | .command _ => false
    withSome (ofStream.findSome? fun e => s.missed e.2) s s.fault)

/-! ### Dispatch -/

/-- Whether the run of frame `a` is dispatched before that of frame `b` (R276). -/
def frameBefore (a b : RunFor) : Bool :=
  match a, b with
  | .frame n _ _ d, .frame m _ _ e => d < e || (d == e && n < m)
  | .frame _ _ _ _, _ => true
  | _, _ => false

/-- The released frame with a step to do on a core that goes first (R276). -/
def State.frameOn (s : State) (core : Nat) : Option (Nat × Run) :=
  let rs := s.runs.filter fun e => match e.2.serves with
    | .frame _ _ _ _ => (s.nextOn core e.1 e.2).isSome
    | _ => false
  rs.find? fun e => rs.all fun o => !frameBefore o.2.serves e.2.serves

/-- The counted time of a run's step at the floor of the admission setting (R272, R281). -/
def State.stepTime (s : State) (r : Run) (core i : Nat) (st : RouteStep) : Nat :=
  match s.route r.route with
  | none => 0
  | some x => stepCounted (floorPace s.admission) (stepWork (x.plan r.steps) core i st)

/-- Whether any commit waits (R281). -/
def State.commitWaits (s : State) : Bool := (List.range 8).any fun p => (s.commit p).isSome

/-- Whether a non-stream route step is held back: for the cap (R262), or for a waiting commit (R281). -/
def State.heldBack (s : State) (r : Run) (core i : Nat) (st : RouteStep) : Bool :=
  st.counts && (s.power.withhold ||
    (s.commitWaits && 10000000 - s.slotTime + 100000 < s.stepTime r core i st))

/-- What a core would start next: a released frame's step, else the head of its queue (R276). -/
def State.candidate (s : State) (core : Nat) : Option (Nat × Run × Nat × RouteStep) :=
  match s.frameOn core with
  | some (rid, r) => (s.nextOn core rid r).map fun e => (rid, r, e.1, e.2)
  | none =>
    match (s.core core).queue.head? with
    | none => none
    | some rid => (s.run rid).bind fun r =>
        (s.nextOn core rid r).bind fun e =>
          if s.heldBack r core e.1 e.2 then none else some (rid, r, e.1, e.2)

/-- The knobs in force written into a run's layer steps, by their order among the layer steps (R162). -/
def withKnobs (knobs : Table Nat) (steps : List RouteStep) : List RouteStep :=
  let ls := (layersOf steps).map (·.1)
  (numbered steps).map fun e => match e.2 with
    | .layer l => match Tab.find (ls.idxOf e.1) knobs with
      | some k => .layer { l with knob := k }
      | none => e.2
    | st => st

/-- A run starts: its knobs and its input SCALE tile are read once (R72, R162), and a tensor that is
REPLAY there but was not taken so ends it (R498). The error is how the run ends. -/
def State.startRun (s : State) (rid : Nat) (r : Run) (x : Route) : Except State State :=
  let r := { r with started := true, steps := withKnobs x.knobs r.steps }
  let s := s.setRun rid r
  match (if x.image.scaleIn = noId then [] else x.image.lists.getD x.image.scaleIn []).head? with
  | none => .ok s
  | some a =>
    match s.useTile x.partition a { format := some .scale } (some rid) with
    | (s, .error (st, d)) => .error (s.failRun rid st d)
    | (s, .ok (_, payload)) =>
      match scaleTable payload with
      | none => .error (s.failRun rid .metaFault)
      | some es =>
        if (r.steps.flatMap RouteStep.converted).any fun t =>
            (findScale es t).any (fun e => e.policy == .replay) && !x.replay.contains t then
          .error (s.failRun rid .metaFault)
        else .ok (s.setRun rid { r with scales := es })

/-! ### Control steps -/

/-- Guard of the rows of a route's control steps. -/
def controlRow (core : Nat) (s : State) (f : Nat → Nat → RouteStep → State → State) : Result :=
  checked (core < 6) s (onlyIf s.working fun s =>
    withSome (s.readyStep core) s fun e => f e.1 e.2.1 e.2.2 s)

/-- A letterbox of a core changed. -/
def State.onBox (s : State) (core box : Nat) (f : Letterbox → Letterbox) : State :=
  s.onCore core fun c => { c with boxes := Tab.modify box f c.boxes }

/-- Opening (R199). -/
def Letterbox.opening (b : Letterbox) : Letterbox :=
  { b with state := .opened, delivery := 0, consumed := 0, accepted := 0 }

/-- The devices whose cores a letterbox names as class 4 senders. -/
def Letterbox.peers (b : Letterbox) : List Nat :=
  ((b.shape.senders.filter fun e => field e 15 13 == 4).map fun e => field e 12 7).eraseDups

/-- The letterbox leases granted at its opening (Table 17-7). -/
def State.grantBox (s : State) (core box : Nat) : State :=
  withSome (Tab.find box (s.core core).boxes) s fun b =>
    let s := s.dropBoxLeases core box
    let ds := b.peers.filter (· != s.cascade.device)
    { s with leases := s.leases ++ ds.map fun d =>
        { kind := 1, holder := d, resource := core * 2 ^ 8 + box, expiry := s.now + 10000000, revoked := false } }

/-- OPEN. -/
def execOpenBox (core : Nat) (s : State) : Result :=
  controlRow core s fun rid i st s => match st with
    | .openBox _ b => ((s.onBox core b Letterbox.opening).grantBox core b).stepEnds rid i [core]
    | _ => s

/-- How a WAIT on a letterbox with a revoked lease ends its command: a lost holder weighs more
(Table 17-7, R374). -/
def State.boxRevoked (s : State) (core box : Nat) : Option Status :=
  let ls := s.leases.filter fun l => l.kind == 1 && l.resource == core * 2 ^ 8 + box && l.revoked
  if ls.any (fun l => bitOf s.cascade.lost l.holder) then some .peerLost
  else if ls.isEmpty then none else some .leaseRevoked

/-- CLOSE. -/
def execCloseBox (core : Nat) (s : State) : Result :=
  controlRow core s fun rid i st s => match st with
    | .closeBox _ b => ((s.closeBox core b).stepEnds rid i [core]).settle
    | _ => s

/-- Whether a letterbox's delivery count has reached a value (R204). -/
def State.reached (s : State) (core box value : Nat) : Bool :=
  match Tab.find box (s.core core).boxes with
  | none => false
  | some b => (b.delivery + 2 ^ 32 - value % 2 ^ 32) % 2 ^ 32 < 2 ^ 31

/-- WAIT: at once where the count has been reached, else the core stalls (R204). -/
def execWaitBox (core : Nat) (s : State) : Result :=
  controlRow core s fun rid i st s => match st with
    | .wait _ b v =>
      match s.boxRevoked core b with
      | some e => s.failRun rid e
      | none =>
        if s.reached core b v then s.stepEnds rid i [core]
        else s.onCore core fun c => { c with running := .stalled rid i }
    | _ => s

/-- WAIT_SATISFIED: the wait ends, and its steps are counted (R204, R211). -/
def execWaitSatisfied (core : Nat) (s : State) : Result :=
  checked (core < 6) s (onlyIf s.working fun s =>
    match (s.core core).running with
    | .stalled rid i =>
      withSome ((s.run rid).bind fun r => r.steps[i]?) s fun st => match st with
        | .wait _ b v =>
          if s.reached core b v then (s.countStall core).stepEnds rid i [core] else s
        | _ => s
    | _ => s)

/-- ORDER: goes on once the named step has ended (R195, R246). -/
def execOrderStep (core : Nat) (s : State) : Result :=
  controlRow core s fun rid i st s => match st with
    | .order _ n =>
      if (s.run rid).any fun r => r.done.contains n then s.stepEnds rid i [core] else s
    | _ => s

/-- Slots released: never more than have been delivered (R203). -/
def Letterbox.release (b : Letterbox) (n : Nat) : Letterbox :=
  if b.shape.slotSize = 0 then b
  else { b with consumed := (b.consumed + min n ((b.delivery + 2 ^ 32 - b.consumed) % 2 ^ 32)) % 2 ^ 32 }

/-- RELEASE. -/
def execReleaseSlots (core : Nat) (s : State) : Result :=
  controlRow core s fun rid i st s => match st with
    | .release _ b n => (s.onBox core b fun x => x.release n).stepEnds rid i [core]
    | _ => s

end Sys2Proof.Machine
end

