-- ==== Sys2Proof/Machine/Layers.lean ====
section
/-! DEFINITION. Layer steps: the geometry of a core's share, the streamed operand, work items, and the
start of a layer step (R34 to R41, R70 to R74, R80, R118, R119, R138, R147, R155 to R164, R236 to R246). -/

namespace Sys2Proof.Machine

/-! ### Geometry -/

/-- The number of an output tile: position block and output column. -/
def cellKey (block column : Nat) : Nat := block * 2 ^ 16 + column

/-- The position blocks of a core's share. -/
def LayerExec.blocks (e : LayerExec) : List Nat := (List.range e.share.blocks).map (e.share.block0 + ·)

/-- The output columns of a core's share. -/
def LayerExec.columns (e : LayerExec) : List Nat := (List.range e.share.cols).map (e.share.col0 + ·)

/-- The positions of a core's share, ascending. -/
def LayerExec.positionsAll (e : LayerExec) : List Nat :=
  e.blocks.flatMap fun j => (List.range (e.layer.positions j)).map (64 * j + ·)

/-- The place of a position among the core's own. -/
def LayerExec.ownPosition (e : LayerExec) (block pos : Nat) : Nat := 64 * (block - e.share.block0) + pos

/-- Where an output tile goes in the core's output handle. -/
def LayerExec.outPlace (e : LayerExec) (column block : Nat) : Nat :=
  e.layer.outOff + e.layer.tilePlace e.blocks (column - e.share.col0) block

/-- The share of a core; a SHARED step's columns are every column (R244, R368). -/
def LayerStep.coreShare (l : LayerStep) (core : Nat) : Share :=
  let s := l.share core
  if l.shared then { s with col0 := 0, cols := l.columns } else s

/-! ### The streamed operand -/

/-- Codes read as signed activations (R33, R52). -/
def signedCodes (bits : Nat) (cs : List Nat) : List Int := cs.map (signed bits)

/-- The vector of K tile `tile` at position `pos` of a tensor not kept in tiles: the vectors stand in the
order the bands stream them, K tile by K tile and by position within one (R39; log entry 22). -/
def Core.rawVector (c : Core) (e : LayerExec) (block tile pos : Nat) : Except Status (List Int) :=
  let l := e.layer
  let w := l.streamBits
  let n := l.vectorLength
  let len := rowBytes n w
  match c.readPad l.streamH (l.streamOff + (tile * e.positionsAll.length + e.ownPosition block pos) * len) len with
  | none => .error .badParam
  | some row => .ok (signedCodes w ((List.range n).map fun i =>
      if tile * n + i < l.streamLength then packedAt row 0 w i else 0))

/-- What a consumer expects of a tile an earlier layer step wrote (Table 11-4, check 6). -/
def LayerStep.made (q : LayerStep) (column block : Nat) : TileExpect :=
  { format := some .dense, element := some q.target, actWidth := some 0, rowOffset := some (64 * block)
    kOffset := some (128 * column) }

/-- One tile of an earlier layer step's output, from its tile list or the streamed handle (R229, R246). -/
def State.streamTile (s : State) (core : Nat) (x : Route) (e : LayerExec) (q : LayerStep) (column block : Nat) :
    State × Except (Status × Nat) (TileHdr × Bytes) :=
  if q.outputList = noId then
    match (s.core core).padTile e.layer.streamH (e.layer.streamOff + q.tilePlace e.blocks column block) (q.made column block) with
    | .ok r => (s, .ok r)
    | .error (st, c) => (s.countTile x.partition c, .error (st, 0))
  else s.useTile x.partition ((x.image.lists.getD q.outputList []).getD (column * q.blocks + block) 0) (q.made column block)
    (some e.run)

/-- Row `pos` of tiles of an earlier step's output: columns `first` on, zeros beyond the tensor. -/
def State.tiledRow (s : State) (core : Nat) (x : Route) (e : LayerExec) (q : LayerStep) (block pos first n : Nat) :
    State × Except (Status × Nat) (List Int) :=
  let w := e.layer.streamBits
  (List.range (ceilDiv n 128)).foldl (fun acc i =>
    match acc with
    | (s, .error st) => (s, .error st)
    | (s, .ok vs) =>
      let c := first / 128 + i
      if ceilDiv e.layer.streamLength 128 ≤ c then (s, .ok (vs ++ List.replicate 128 0))
      else if q.outBits ≠ w then (s, .error (.metaFault, 0))
      else match s.streamTile core x e q c block with
        | (s, .error st) => (s, .error st)
        | (s, .ok (h, payload)) => (s, .ok (vs ++ signedCodes w (denseRow h payload pos)))) (s, .ok [])

/-- The columns of a source step that a stream vector reads. -/
def LayerExec.sourceColumns (e : LayerExec) (tile : Nat) : List Nat :=
  let first := if e.layer.transposed then 0 else tile * e.layer.tileK / 128
  ((List.range (ceilDiv e.layer.vectorLength 128)).map (first + ·)).filter (· < ceilDiv e.layer.streamLength 128)

/-- The activation vector of a band's stream: K tile `tile` of position `pos` of a block (R39). -/
def State.streamVector (s : State) (core : Nat) (x : Route) (e : LayerExec) (block tile pos : Nat) :
    State × Except (Status × Nat) (List Int) :=
  let n := e.layer.vectorLength
  let first := if e.layer.transposed then 0 else tile * e.layer.tileK
  match e.source with
  | some q => s.tiledRow core x e q block pos first n
  | none => (s, ((s.core core).rawVector e block (if e.layer.transposed then 0 else tile) pos).mapError fun st => (st, 0))

/-- A band reader's turn at the banks of a stream vector that stands in scratchpad (R39, R194). -/
def LayerExec.askStream (e : LayerExec) (band block tile pos : Nat) (c : Core) : Core :=
  let l := e.layer
  match e.source with
  | some q =>
    if q.outputList ≠ noId then c
    else (e.sourceColumns tile).foldl (fun c i =>
      c.ask 1 (readerOf band) l.streamH (l.streamOff + q.tilePlace e.blocks i block + 64 + pos * q.outRowBytes) q.outRowBytes) c
  | none =>
    let len := rowBytes l.vectorLength l.streamBits
    c.ask 1 (readerOf band) l.streamH
      (l.streamOff + ((if l.transposed then 0 else tile) * e.positionsAll.length + e.ownPosition block pos) * len) len

/-! ### Work items -/

/-- The first K tile and the number of K tiles of an item (Table 12-2). -/
def LayerExec.tiles (e : LayerExec) (it : Item) : Nat × Nat := partTiles e.order e.layer.kTiles it.part

/-- Whether any output of a column has its mask bit set, in a block (R158). -/
def LayerExec.masked (e : LayerExec) (block column : Nat) : Bool :=
  e.masks.any fun m => m.1 / 64 == cellKey block column && m.2 != 0

/-- The block of a band in the present round. -/
def LayerExec.bandBlock (e : LayerExec) (band : Nat) : Option Nat := Sys2Proof.Machine.bandBlock e.order e.share band e.round

/-- Whether a column is run in an exact phase: in ROWS order, where any band of the round needs it (R158,
R242). -/
def LayerExec.selected (e : LayerExec) (block column : Nat) : Bool :=
  match e.order with
  | .rows => (List.range 12).any fun b => (e.bandBlock b).any fun j => e.masked j column
  | _ => e.masked block column

/-- The work list of a band in the present round and phase (Table 12-2, R156, R158). -/
def LayerExec.items (e : LayerExec) (band : Nat) : List Item :=
  match e.bandBlock band with
  | none => []
  | some j =>
    let all := (bandItems e.order e.share band).filter fun it =>
      0 < (e.tiles it).2 && (!e.layer.shared || e.claimed.contains it.column)
    if e.condition = .postcard ∧ !e.estimating then all.filter fun it => e.selected j it.column else all

/-- Whether claims of the present phase go to the step's route counter (R368); a later round and an exact phase take
back the columns their own core has claimed (log entry 46). -/
def LayerExec.claimsShared (e : LayerExec) : Bool :=
  e.layer.shared && e.round == 0 && (e.condition != .postcard || e.estimating)

/-- The item a claim value names (R254, R368). -/
def LayerExec.item (e : LayerExec) (band v : Nat) : Option Item :=
  if e.claimsShared then
    if v < e.layer.columns * e.order.parts then some { column := v / e.order.parts, part := v % e.order.parts }
    else none
  else (e.items band)[v]?

/-- The arrays that take a claim of an array up together: an array at the same place of every band that holds another
block of the same columns; alone where the list is a band's own (R242, R368; log entry 46). -/
def LayerExec.team (e : LayerExec) (array : Nat) : List Nat :=
  let b := array / 8
  let n := match e.order with | .rows => 12 | _ => max e.share.blocks 1
  if !e.claimsShared || (e.bandBlock b).isNone then [array]
  else ((List.range n).map fun i => b / n * n + i).filter (fun b => (e.bandBlock b).isSome) |>.map fun b => 8 * b + array % 8

/-- Vectors of one sweep of a band (R39). -/
def LayerExec.sweepLength (e : LayerExec) (block : Nat) : Nat := e.layer.kTiles * e.layer.positions block

/-- The layer step a core runs. -/
def State.layerOn (s : State) (core : Nat) : Option (Nat × Nat × LayerExec) :=
  match (s.core core).running with
  | .layer rid i e => some (rid, i, e)
  | _ => none

/-- The layer step's state on a core replaced, whether it runs or still drains. -/
def State.setExec (s : State) (core : Nat) (e : LayerExec) : State := s.onCore core fun c => c.setExec e

def State.onExec (s : State) (core : Nat) (f : LayerExec → LayerExec) : State :=
  match s.layerOn core with
  | some (_, _, e) => s.setExec core (f e)
  | none => s

/-- The route of a run. -/
def State.routeOf (s : State) (rid : Nat) : Option (Run × Route) :=
  (s.run rid).bind fun r => (s.route r.route).map fun x => (r, x)

/-! ### Starting: scales and bias -/

/-- The form in which a layer step is drained: the FOLDED bit of its output's entry leaves the scale stage out (R74; log
entry 53). -/
def Run.formed (r : Run) (l : LayerStep) : LayerStep :=
  { l with scaleStage := l.scaleStage && !(l.converts && (findScale r.scales l.output).any (·.folded)) }

/-- The conversion scale of a layer step with an integer or Bell-4 target: a folded one is a power of two, and follows
what a replay has moved (R70, R73, R74, R80). -/
def Run.intScale (r : Run) (l : LayerStep) : Option Word :=
  match findScale r.scales l.output, r.scale l.output with
  | some x, some c =>
    if x.folded && !fpIsPow2 c then none
    else if l.scaleStage then some c
    else some (fpMulT .away (fpMulT .away c (r.moved l.resident)).bits (r.moved l.streamed)).bits
  | _, _ => none

/-- m of a layer step: the product of the weight's and the input's scale where the scale stage runs (R73). -/
def Run.stageScale (r : Run) (l : LayerStep) : Option Word :=
  if !l.scaleStage then some fpOne
  else match r.scale l.resident, r.scale l.streamed with
    | some a, some b => some (fpMulT .away a b).bits
    | _, _ => none

/-- m and the conversion scale of a layer step: none where the SCALE tile lacks a tensor the step names, or an entry that
it uses is no scale; a folded step has no GELU or SiLU (R70, R71, R73, R74, R80). -/
def Run.layerScales (r : Run) (scaled : Bool) (l : LayerStep) : Option (Word × Word) :=
  if scaled && !l.named.all (fun t => (findScale r.scales t).isSome) then none
  else if l.raw || l.transposed || l.leavesOpen then some (fpOne, fpOne)
  else if !l.scaleStage && 3 ≤ l.activation then none
  else
    let c := if l.noWrite || !(Target.ofCode l.target).any Target.isInteger then some fpOne else r.intScale l
    match r.stageScale l, c with
    | some m, some c => some (m, c)
    | _, _ => none

/-- The bias of a layer step by output row (R147, R250). -/
def State.readBias (s : State) (rid : Nat) (x : Route) (l : LayerStep) : State × Except (Status × Nat) (Table Word) :=
  if l.biasList = noId ∨ l.raw then (s, .ok [])
  else
    let want : TileExpect :=
      { format := some .dense, element := some (if l.scaleStage then 7 else 8), actWidth := some 0, kOffset := some 0 }
    (x.image.lists.getD l.biasList []).foldl (fun acc a =>
      match acc with
      | (s, .error e) => (s, .error e)
      | (s, .ok (t : Table Word)) =>
        match s.useTile x.partition a want (some rid) with
        | (s, .error e) => (s, .error e)
        | (s, .ok (h, payload)) =>
          let covered := (t.getLast?.map (·.1 + 1)).getD 0
          if h.rowOffset < covered ∨ (covered < h.rowOffset ∧ covered < l.n) then (s, .error (.metaFault, 0))
          else (s, .ok (t ++ (List.range (h.rows * h.columns)).map fun i =>
            (h.rowOffset + i, BitVec.ofNat 32 (leAt payload (4 * i) 4))))) (s, .ok [])

/-! ### Starting: conditional steps -/

/-- The condition a layer step runs under: a postcard step whose threshold is 0 runs in full (R155, R162). -/
def Route.condition (x : Route) (l : LayerStep) : Condition :=
  match l.resolve x.cascade x.exact with
  | .postcard => if l.knob = 0 ∨ l.thresholdUnit = 0 then .none else .postcard
  | c => c

/-- Neurons in ascending order, without repeats, of several ascending lists. -/
def insertNat (n : Nat) : List Nat → List Nat
  | [] => [n]
  | m :: ms => if n < m then n :: m :: ms else if n = m then m :: ms else m :: insertNat n ms

def unionOf (ls : List (List Nat)) : List Nat := ls.foldl (fun acc l => l.foldl (fun a n => insertNat n a) acc) []

/-- The neurons a forwarded step computes on a core: the union of its positions' lists, or every neuron in
exact mode (R164, Table 8-5). -/
def Run.neurons (r : Run) (exact : Bool) (total : Nat) (positions : List Nat) : List Nat :=
  if exact then List.range total
  else unionOf (positions.map fun p => (Tab.getD [] r.lists p).filter (· < total))

/-- A layer step with its neurons in place of all (R163, R164). -/
def LayerStep.withNeurons (l : LayerStep) (down : Bool) (count : Nat) : LayerStep :=
  if down then { l with k := count } else { l with n := count }

/-! ### Starting: what a core holds -/

/-- An array at the start of a layer step: parked slots stay, not yet taken up again, and so do slots that the step
before still drains (R137, R139, R142). -/
def ArrayState.fresh (a : ArrayState) : ArrayState := { ArrayState.idle with slots := a.slots.map fun x => { x with taken := false } }

/-- The parked slots of an array. -/
def ArrayState.parked (a : ArrayState) : List Slot := a.slots.map fun x => if x.role = .parked then x else .empty

/-- The share of a forwarded step with as many neurons as it has: the columns its static share still holds (R238). -/
def Share.clip (s : Share) (columns : Nat) : Share := { s with cols := min s.cols (columns - s.col0) }

/-- The execution record of a layer step about to start. -/
def LayerExec.start (rid : Nat) (r : Run) (x : Route) (core i : Nat) (l : LayerStep) (attempt : Nat) : LayerExec :=
  let cond := x.condition l
  let down := cond = .forward && Sys2Proof.Machine.isDown r.steps x.cascade x.exact i l
  let e0 : LayerExec :=
    { run := rid, step := i, layer := l, condition := cond, order := l.loopOrder, share := l.coreShare core
      exact := x.exact, round := 0
      estimating := cond = .postcard, attempt := attempt, multiplier := fpOne, convScale := fpOne, bias := []
      stats := {}, before := {}, source := earlierWriter r.steps i l
      listF := if x.exact then 0 else listLength r.steps x.cascade l
      neurons := [], isDown := down, requested := 0, gathered := [], masks := [], parts := []
      taps := [], generation := 0, claimed := [], passed := [], base := [], written := [], finished := false }
  if cond ≠ .forward then e0
  else
    let ns := r.neurons x.exact (if down then l.k else l.n) e0.positionsAll
    let l' := l.withNeurons down ns.length
    let most := l.forwarded down x.exact
    { e0 with layer := l', order := most.loopOrder, share := (most.coreShare core).clip l'.columns, neurons := ns }

/-- The scatter group a transposed layer step opens (R118 to R120, R127). -/
def LayerExec.scatterGroup (e : LayerExec) : Scatter :=
  let l := e.layer
  let sorting := e.exact || l.scatterFp
  { destH := l.outH, destOff := l.outOff, destCount := e.positionsAll.length * l.kPadded, isFp := l.scatterFp
    sorting := sorting, sackH := l.sackH, mergeH := l.mergeH, capacity := sackCapacity sorting l.sackMib
    sackCount := 0, waiting := [], spills := [], issued := false, phase := .updating }

/-- The accumulation groups of a core with a layer step's own open (R138, R139). -/
def Core.opening (c : Core) (e : LayerExec) : List Group :=
  if e.layer.transposed || c.groups.any (fun g => g.run == e.run && g.label == e.layer.group) then c.groups
  else c.groups ++ [{ run := e.run, label := e.layer.group, precision := e.layer.precision }]

/-- A core with a layer step begun on it. -/
def Core.beginLayer (c : Core) (e : LayerExec) : Core :=
  let arrays := Tab.mapVal (fun _ (a : ArrayState) => a.fresh) c.arrays
  { c with
    running := .layer e.run e.step { e with base := arrays.map fun a => (a.1, a.2.parked) }
    arrays := arrays
    bands := Tab.mapVal (fun _ (b : BandState) => b.drainOnly) c.bands
    scatter := if e.layer.transposed then some e.scatterGroup else c.scatter
    groups := c.opening e }

end Sys2Proof.Machine
end

