-- ==== Sys2Proof/Machine/Claims.lean ====
section
/-! DEFINITION. Dispatch counters: arming, claims and their answers, the claims of arrays, and the row
LAYER_STEP (R40, R41, R242, R253 to R260, R368). -/

namespace Sys2Proof.Machine

/-! ### Counters -/

/-- How a counter answers a claim (R254, R255). -/
inductive ClaimAnswer where
  | value (v : Nat)
  | exhausted
  | held
  deriving DecidableEq, Repr

/-- Who claims: device, core and array. -/
structure Claimer where
  device : Nat
  core : Nat
  array : Nat
  deriving DecidableEq, Repr

/-- A reissued value is taken before a new one (R254). A ganged counter gives array j of sweep s the column
8 s + j in every band (R242). -/
def Counter.take (c : Counter) (array sweep : Nat) : ClaimAnswer × Counter :=
  if c.ganged then
    let v := 8 * sweep + array % 8
    if v < c.limit then (.value v, { c with value := max c.value (v + 1) }) else (.exhausted, c)
  else match c.reissue with
    | v :: rest => (.value v, { c with reissue := rest })
    | [] => if c.value < c.limit then (.value c.value, { c with value := c.value + 1 }) else (.exhausted, c)

/-- One claim put to a counter (R254, R255): `now` dates the lease of a claim on a route counter. -/
def Counter.claim (c : Counter) (isRoute : Bool) (now : Nat) (w : Claimer) (gen sweep : Nat) : ClaimAnswer × Counter :=
  let hold : ClaimAnswer × Counter := (.held, { c with held := c.held ++ [(w.device, w.core, w.array, gen)] })
  if c.armed && gen == c.generation then
    if isRoute && 1024 ≤ c.outstanding.length then hold
    else match c.take w.array sweep with
      | (.value v, c) =>
        let o : Claim := { value := v, device := w.device, core := w.core, array := w.array, expiry := now + 10000000 }
        (.value v, { c with outstanding := c.outstanding ++ [o] })
      | r => r
  else if !c.armed || gen == (c.generation + 1) % 2 ^ 16 then hold
  else (.exhausted, c)

/-- A claim of a counter of this device, counted (R260). -/
def State.claim (s : State) (n : Nat) (w : Claimer) (gen sweep : Nat) : ClaimAnswer × State :=
  let c := s.counter n
  let (a, c') := c.claim (72 ≤ n) s.now w gen sweep
  let s := s.setCounter n c'
  let k := match a with | .value _ => 0 | .held => 1 | .exhausted => 2
  (a, if n < 72 then s.countCore (n / 12) 43 k else s.countFor c.owner 43 k)

/-- A claim value given back (R256). -/
def Counter.release (c : Counter) (v : Nat) : Counter :=
  { c with outstanding := c.outstanding.filter fun o => o.value != v }

/-- A counter armed: a new generation, nothing issued (R253, Table 12-5). -/
def Counter.arm (c : Counter) (limit : Nat) (ganged : Bool) : Counter :=
  { c with value := 0, limit := limit, generation := (c.generation + 1) % 2 ^ 16, armed := true, ganged := ganged
           outstanding := [], reissue := [] }

/-! ### What an array does with an answer -/

/-- The next sweep of a band that its reader has not started. -/
def BandState.nextSweep (b : BandState) : Nat := if b.tile = 0 ∧ b.pos = 0 then b.sweep else b.sweep + 1

/-- The sweep an array's next column of a band starts with (R40). -/
def Core.startSweep (c : Core) (array band : Nat) : Nat :=
  match (c.array array).column with
  | some k => if k.band = band then max (c.band band).nextSweep (k.sweep + 1) else (c.band band).nextSweep
  | none => (c.band band).nextSweep

/-- The column of an item, about to be fetched. -/
def LayerExec.column (e : LayerExec) (ordinal band counter claim gen sweep : Nat) (it : Item) (own : Bool) : Column :=
  let t := e.tiles it
  { ordinal := ordinal, band := band, item := it, block := (e.bandBlock band).getD 0, first := t.1, tiles := t.2
    fetched := 0, counter := counter, claim := claim, generation := gen, sweep := sweep, attached := own }

/-- The next column of an array put in its place. -/
def Core.takeColumn (c : Core) (e : LayerExec) (array band n v gen : Nat) (it : Item) : Core :=
  let k := e.column (c.array array).ordinals band n v gen (c.startSweep array band) it (band == array / 8)
  c.onArray array fun a => { a with next := some k, ordinals := a.ordinals + 1, claiming := false }

/-- A claim value taken up by an array and its team: its next column, in its own band's or a neighbour's work list
(R40, R41). -/
def State.takeValue (s : State) (core array band n v gen : Nat) : State :=
  match s.layerOn core with
  | none => s
  | some (_, _, e) =>
    match e.item band v with
    | none => s.onCore core fun c => c.onArray array fun a => { a with claiming := false, exhausted := true }
    | some it =>
      let team := if e.claimsShared then e.team array else [array]
      let s := s.onCore core fun c => team.foldl (fun c a =>
        c.takeColumn e a (if e.claimsShared then a / 8 else band) n v gen it) c
      if e.claimsShared then s.setExec core { e with claimed := e.claimed ++ [it.column] } else s

/-- The counter of a band. -/
def bandCounter (core band : Nat) : Nat := 12 * core + band

/-- Guests of a band, those that have claimed and not yet attached among them (R41). -/
def Core.guestsOf (c : Core) (band : Nat) : Nat :=
  (c.arrays.filter fun a => a.1 / 8 != band &&
    (a.2.column.any (fun k => k.band == band) || a.2.next.any fun k => k.band == band)).length

/-- The neighbours an array may claim from, in order (R41). -/
def neighbours (band : Nat) : List Nat := (if band = 0 then [] else [band - 1]) ++ (if band < 11 then [band + 1] else [])

/-- An array's neighbour claims: the first list with an item whose band has room for a guest; with none it idles until
the step ends (R41). A ganged list is asked for a sweep it does not have, so it is always found exhausted (R242).
DESIGN CHOICE (log entry 46): a neighbour that has items and 4 guests is passed over; R41 names no other answer. -/
def State.claimNeighbours (s : State) (core array : Nat) : List Nat → State
  | [] => s.onCore core fun c => c.onArray array fun a => { a with exhausted := true, claiming := false }
  | b :: rest =>
    if 4 ≤ (s.core core).guestsOf b then s.claimNeighbours core array rest
    else
      let n := bandCounter core b
      let gen := (s.counter n).generation
      match s.claim n { device := s.cascade.device, core := core, array := array } gen (s.counter n).limit with
      | (.value v, s) => s.takeValue core array b n v gen
      | (_, s) => s.claimNeighbours core array rest

/-- An array whose claim found its list exhausted (R40, R41). The arrays of a SHARED step claim from one counter, so the
neighbours' list is the same exhausted one (R368); its team has ended with it. -/
def State.claimExhausted (s : State) (core array : Nat) : State :=
  match s.layerOn core with
  | none => s
  | some (_, _, e) =>
    if e.claimsShared then
      s.onCore core fun c => (e.team array).foldl (fun c a =>
        c.onArray a fun a => { a with exhausted := true, claiming := false }) c
    else s.claimNeighbours core array (neighbours (array / 8))

/-- An answer handed to an array of this device. -/
def State.answerArray (s : State) (core array n gen : Nat) : ClaimAnswer → State
  | .value v => s.takeValue core array (array / 8) n v gen
  | .exhausted => s.claimExhausted core array
  | .held => s.onCore core fun c => c.onArray array fun a => { a with claiming := true }

/-- The ARG of a CLAIM_REPLY (Table 17-5). -/
def claimReplyArg : ClaimAnswer → Nat
  | .value v => v % 2 ^ 32
  | _ => 2 ^ 32

/-- An answer given to a claimer, here or on another device (R368). -/
def State.answerClaim (s : State) (n : Nat) (w : Claimer) (gen : Nat) (a : ClaimAnswer) : State :=
  if w.device = s.cascade.device then s.answerArray w.core w.array n gen a
  else match a with
    | .held => s
    | _ => s.send { Message.plain 6 s.cascade.device w.device (claimReplyArg a) [] with
                    dstCore := w.core, offset := w.array, partition := (s.counter n).owner }

/-- Held claims in the order of R254: ascending device, core and array. -/
def heldBefore (a b : Nat × Nat × Nat × Nat) : Bool :=
  a.1 < b.1 || (a.1 == b.1 && (a.2.1 < b.2.1 || (a.2.1 == b.2.1 && a.2.2.1 < b.2.2.1)))

def insertHeld (x : Nat × Nat × Nat × Nat) : List (Nat × Nat × Nat × Nat) → List (Nat × Nat × Nat × Nat)
  | [] => [x]
  | y :: ys => if heldBefore x y then x :: y :: ys else y :: insertHeld x ys

/-- Every held claim of a counter put to it again (R255). -/
def State.serveHeld (s : State) (n : Nat) : State :=
  let hs := (s.counter n).held.foldl (fun acc x => insertHeld x acc) []
  let s := s.setCounter n { s.counter n with held := [] }
  hs.foldl (fun s h =>
    let w : Claimer := { device := h.1, core := h.2.1, array := h.2.2.1 }
    match (s.counter n).claim (72 ≤ n) s.now w h.2.2.2 0 with
    | (.held, c) => s.setCounter n c
    | (a, c) =>
      let s := s.setCounter n c
      let s := s.countFor c.owner 43 (if a = .exhausted then 2 else 0)
      s.answerClaim n w h.2.2.2 a) s

/-- A claim given back at its home: an item of another device tells the home (R256, R369). A claim of an earlier arming
is there no more (R253). -/
def State.releaseClaim (s : State) (core : Nat) (k : Column) (home : Nat) : State :=
  if k.counter < 72 ∨ home = s.cascade.device then
    if (s.counter k.counter).generation ≠ k.generation then s
    else (s.setCounter k.counter ((s.counter k.counter).release k.claim)).serveHeld k.counter
  else s.send { Message.plain 7 s.cascade.device home (k.counter + k.claim % 2 ^ 32 * 2 ^ 8) [] with srcCore := core }

/-! ### Arming -/

/-- The band counters of a core armed for a round or a phase (R253, Table 12-2). -/
def State.armBands (s : State) (core : Nat) (e : LayerExec) : State :=
  (List.range 12).foldl (fun s b =>
    let n := bandCounter core b
    s.setCounter n ((s.counter n).arm (e.items b).length (e.order = .rows))) s

/-- The seen maps of a SHARED counter cleared for an arming, on the cores of its partition on this device (R258; log entry
23). -/
def State.clearSeen (s : State) (p n gen : Nat) : State :=
  (bitsOf 6 (s.part p).cores).foldl (fun s c =>
    s.onCore c fun x => { x with seen := Tab.put n (gen, []) x.seen }) s

/-- The generation of a SHARED step of a run: its first core on this device fixes it, and arms the counter
where this device is its home (R255, R368; log entry 20). -/
def State.armShared (s : State) (rid i : Nat) (r : Run) (x : Route) (l : LayerStep) : Nat × State :=
  match Tab.find i r.armings with
  | some g => (g, s)
  | none =>
    let key := 256 * l.homeDevice + l.counter
    let g := (Tab.getD 0 x.armed key + 1) % 2 ^ 16
    let s := s.onRoute r.route fun x => { x with armed := Tab.put key g x.armed }
    let s := (s.onRun rid fun r => { r with armings := Tab.put i g r.armings }).clearSeen x.partition l.counter g
    if l.homeDevice ≠ s.cascade.device then (g, s)
    else
      let limit := l.columns * l.loopOrder.parts
      let s := s.setCounter l.counter ((s.counter l.counter).arm limit false)
      (g, s.serveHeld l.counter)

/-! ### Starting a layer step -/

/-- A gather buffer's tile from its neuron's list entry, placed where LAYER_STEP begins: nothing is gathered
until TILE_FETCH asks (R164). The step's own start (R236). -/
def State.startLayer (s : State) (core rid i : Nat) (r : Run) (x : Route) (l : LayerStep) (attempt : Nat) : State :=
  let form := r.formed l
  match r.layerScales x.image.scaled form with
  | none => s.failRun rid .metaFault
  | some (m, c) =>
    match s.readBias rid x form with
    | (s, .error (st, d)) => s.failRun rid st d
    | (s, .ok bias) =>
      let c := if attempt = 0 then c else (Tab.find l.output r.used).getD c
      let (g, s) := if l.shared then s.armShared rid i r x l else (0, s)
      let e := LayerExec.start rid r x core i l attempt
      let e := { e with layer := { e.layer with scaleStage := form.scaleStage }, multiplier := m, convScale := c, bias := bias, generation := g }
      let e := { e with finished := e.share.blocks = 0 ∨ e.share.cols = 0 ∨ e.layer.kTiles = 0 }
      (s.onCore core fun k => k.beginLayer e).armBands core e

/-- LAYER_STEP: a core starts the layer step dispatched to it. In exact mode a predictor is not run
(R236, Table 8-5). -/
def execLayerStep (core : Nat) (s : State) : Result :=
  controlRow core s fun rid i st s => match st with
    | .layer l =>
      match s.run rid with
      | none => s
      | some r => match s.route r.route with
        | none => s
        | some x =>
          if x.exact && isPredictor r.steps x.cascade l then s.stepEnds rid i [core]
          else s.startLayer core rid i r x l 0
    | _ => s

/-! ### Claims of arrays -/

/-- Whether every tile of a column has entered the tile queue (R40). -/
def Column.allFetched (k : Column) (perK : Nat) : Bool := k.tiles * perK ≤ k.fetched

/-- The parked slot of an array that a continuing step takes up next: its number and column (R139). -/
def ArrayState.parkedColumn (a : ArrayState) (group : Nat) (e : LayerExec) : Option Column :=
  (a.slots.find? fun x => x.role = .parked ∧ !x.taken ∧ x.run = e.run ∧ x.group = group ∧
    x.column.any fun k => e.bandBlock k.band == some k.block).bind (·.column)

/-- A continuing step's column on the array that left it unfinished (R139). -/
def State.resumeColumn (s : State) (core array : Nat) (e : LayerExec) : State :=
  let a := (s.core core).array array
  match a.parkedColumn e.layer.group e with
  | none => s.onCore core fun c => c.onArray array fun a => { a with exhausted := true }
  | some k =>
    s.onCore core fun c =>
      let k' := e.column a.ordinals k.band k.counter k.claim k.generation (c.startSweep array k.band) k.item (k.band == array / 8)
      let slots := a.slots.map fun x =>
        if x.role = .parked ∧ x.run = e.run ∧ x.column = some k then { x with taken := true } else x
      c.setArray array { a with next := some k', ordinals := a.ordinals + 1, slots := slots }

/-- Whether an array holds as many slots of an open group as it may: one that a step leaves open stays in its array
(R138). -/
def ArrayState.holdsGroup (a : ArrayState) (e : LayerExec) : Bool :=
  e.layer.leavesOpen && (a.next.isSome || a.column.isSome ||
    a.slots.any fun q => q.role != .free && q.run == e.run && q.group == e.layer.group)

/-- An array's claim (R40, R41, R242, R368). -/
def State.claimColumn (s : State) (core array : Nat) (e : LayerExec) : State :=
  let b := array / 8
  if !e.layer.continues && ((s.core core).array array).holdsGroup e then s.claimNeighbours core array []
  else if (e.bandBlock b).isNone then
    (if e.order = .rows then s.claimNeighbours core array [] else s.claimExhausted core array)
  else if e.layer.continues then s.resumeColumn core array e
  else
    let me : Claimer := { device := s.cascade.device, core := core, array := array }
    if e.claimsShared && e.layer.homeDevice ≠ s.cascade.device then
      (s.send { Message.plain 5 s.cascade.device e.layer.homeDevice
                  (e.layer.counter + e.generation * 2 ^ 8 + array * 2 ^ 24) [] with
                srcCore := core, partition := ((s.partitionOf core).getD 0) }).onCore core fun c =>
        c.onArray array fun a => { a with claiming := true }
    else
      let n := if e.claimsShared then e.layer.counter else bandCounter core b
      let gen := if e.claimsShared then e.generation else (s.counter n).generation
      let (a, s) := s.claim n me gen ((s.core core).startSweep array b)
      s.answerArray core array n gen a

/-- Guard of the rows of a digit array: the array exists and its core runs a layer step. -/
def arrayRow (core array : Nat) (s : State) (f : Nat → Nat → LayerExec → State → State) : Result :=
  checked (core < 6 && array < 96) s (onlyIf s.working fun s =>
    withSome (s.layerOn core) s fun x => f x.1 x.2.1 x.2.2 s)

end Sys2Proof.Machine
end

