-- ==== Sys2Proof/Machine/VecMath.lean ====
section
/-! DEFINITION. The arithmetic of the vector unit and of the output stage's activations, element by
element and row by row (R146 to R149, R171 to R183, R501). -/

namespace Sys2Proof.Machine

/-- What one or more vector operations count (R172, R174, R186). -/
structure VCount where
  invalid : Nat := 0
  overflow : Nat := 0
  nan : Nat := 0
  sat : Nat := 0
  deriving DecidableEq, Repr

def VCount.add (a b : VCount) : VCount :=
  { invalid := a.invalid + b.invalid, overflow := a.overflow + b.overflow, nan := a.nan + b.nan,
    sat := a.sat + b.sat }

/-- A 32-bit result with what it counts. -/
structure VOut where
  bits : Word
  count : VCount := {}
  deriving DecidableEq, Repr

def VOut.ofFp (r : FpOut) : VOut :=
  { bits := r.bits,
    count := { invalid := bit r.invalid, overflow := bit r.overflow, nan := bit (fpIsNaN r.bits) } }

/-- An exact integer result limited to ±(2^31 − 1) (R174). -/
def VOut.ofInt (n : Int) : VOut :=
  { bits := ofInt32 (limit32 n), count := { sat := bit (limit32 n != n) } }

/-- The result with an earlier operation's counts added. -/
def VOut.after (r : VOut) (c : VCount) : VOut := { r with count := c.add r.count }

/-- A two-operand operation on results, counts carried along. -/
def VOut.map2 (f : Word → Word → VOut) (a b : VOut) : VOut :=
  (f a.bits b.bits).after (a.count.add b.count)
def VOut.map1 (f : Word → VOut) (a : VOut) : VOut := (f a.bits).after a.count

def vAdd (a b : Word) : VOut := .ofFp (fpAdd a b)
def vSub (a b : Word) : VOut := .ofFp (fpSub a b)
def vMul (a b : Word) : VOut := .ofFp (fpMul a b)
def vFma (a b c : Word) : VOut := .ofFp (fpFma a b c)
def iAdd (a b : Word) : VOut := .ofInt (int32 a + int32 b)
def iSub (a b : Word) : VOut := .ofInt (int32 a - int32 b)
def iMul (a b : Word) : VOut := .ofInt (int32 a * int32 b)

/-- The comparison relations of CMP (R322 gives their numbers). -/
inductive Relation where
  | eq | ne | lt | le | gt | ge
  deriving DecidableEq, Repr

/-- Whether a relation holds (R501): a NaN makes every relation false except NE. -/
def Relation.holds (r : Relation) (isInt : Bool) (a b : Word) : Bool :=
  let lt := if isInt then decide (int32 a < int32 b) else fpLt a b
  let gt := if isInt then decide (int32 b < int32 a) else fpLt b a
  let eq := if isInt then decide (a = b) else fpEq a b
  match r with
  | .eq => eq | .ne => !eq | .lt => lt | .le => lt || eq | .gt => gt | .ge => gt || eq

/-- MIN and MAX of INT32 values: equal operands give the first (R173). -/
def iMin (a b : Word) : Word := if int32 b < int32 a then b else a
def iMax (a b : Word) : Word := if int32 a < int32 b then b else a

/-- An FP32 value as INT32: nearest, ties away, limited; NaN gives 0, and every limited result
counts (R171). -/
def fpToInt (w : Word) : VOut :=
  match fpUnpack w with
  | .nan => { bits := 0, count := { sat := 1 } }
  | .inf neg => { bits := ofInt32 (if neg then -(2 ^ 31 - 1) else 2 ^ 31 - 1), count := { sat := 1 } }
  | .num neg m e =>
    let (a, b) := quotient m e fpOne
    let r : Int := roundAway a b
    .ofInt (if neg then -r else r)

/-! ### Activations of the output stage -/

/-- c0 + t × (c1 + t × c2), each operation rounded ties away (R149). -/
def segment (c0 c1 c2 t : Word) : Word :=
  (fpAddT .away c0 (fpMulT .away t (fpAddT .away c1 (fpMulT .away t c2).bits).bits).bits).bits

/-- The segment of R149 that holds x, −16 ≤ x < 16. -/
def segmentIndex (x : Word) : Nat :=
  match fpUnpack x with
  | .num neg m e => ((floorFrac neg (m * 32) e).1 + 512).toNat
  | _ => 0

/-- GELU and SiLU from a table of 1,024 segments (R148, R149). -/
def tableActivation (coeff : Nat → Nat → Word) (x : Word) : Word :=
  if fpIsNaN x then fpNaN
  else if fpLt x 0xC1800000#32 then fpZero
  else if !fpLt x 0x41800000#32 then x
  else
    let i := segmentIndex x
    let e := (fpOfInt .away ((i : Int) - 512)).bits
    let start := (fpMulT .away e 0x3D000000#32).bits
    segment (coeff i 0) (coeff i 1) (coeff i 2) (fpAddT .away x (fpNeg start)).bits

def gelu (x : Word) : Word := tableActivation Config.geluCoeff x
def silu (x : Word) : Word := tableActivation Config.siluCoeff x

/-- max(x, 0); a NaN stays a NaN (R148). -/
def relu (x : Word) : Word := if fpIsNaN x then fpNaN else fpMax x fpZero

/-- min(max(x, lo), hi); a NaN stays a NaN (R148). -/
def clampFp (lo hi x : Word) : Word := if fpIsNaN x then fpNaN else fpMin (fpMax x lo) hi

/-! ### Reductions -/

/-- One level of a balanced tree: neighbours 2i and 2i + 1 combined, a last odd one with the padding
(R29, R176). -/
def pairUp {α : Type} (f : α → α → α) (pad : α) : List α → List α
  | [] => []
  | [a] => [f a pad]
  | a :: b :: t => f a b :: pairUp f pad t

/-- A balanced binary tree over the element index, padded to a power of two (R176). `n` bounds the
number of levels. -/
def tree {α : Type} (f : α → α → α) (pad : α) : Nat → List α → α
  | _, [] => pad
  | _, [a] => a
  | 0, a :: _ => a
  | n + 1, t => tree f pad n (pairUp f pad t)

/-- The tree over a whole row. -/
def reduce {α : Type} (f : α → α → α) (pad : α) (row : List α) : α := tree f pad row.length row

/-- A NaN that an operation without arithmetic of its own passes on is counted as a result (R186). -/
def VOut.pass (w : Word) : VOut := { bits := fpCanon w, count := { nan := bit (fpIsNaN w) } }

/-- SUM of a row (R176): the padding is −0, or 0 for INT32. A row of one element meets no addition. -/
def sumRow (isInt : Bool) (row : List VOut) : VOut :=
  let r := reduce (VOut.map2 (if isInt then iAdd else vAdd)) { bits := if isInt then 0 else fpNegZero } row
  if isInt then r
  else if row.length = 1 then (VOut.pass r.bits).after r.count
  else { r with bits := fpCanon r.bits }

/-- SUMSQ of a row: each element squared with MUL before the tree (R176). -/
def sumSqRow (isInt : Bool) (row : List Word) : VOut :=
  sumRow isInt (row.map fun x => if isInt then iMul x x else vMul x x)

/-- Whether candidate `b` beats `a` under R152; `hi` looks for the maximum. An absent candidate
(padding) never wins, a NaN only beats nothing, equal values go to the lower index. -/
def tapPick (isInt hi : Bool) (a b : Option (Word × Nat)) : Option (Word × Nat) :=
  match a, b with
  | none, b => b
  | a, none => a
  | some (x, i), some (y, j) =>
    let nx := !isInt && fpIsNaN x
    let ny := !isInt && fpIsNaN y
    if nx && ny then some (if i ≤ j then (x, i) else (y, j))
    else if nx then some (y, j)
    else if ny then some (x, i)
    else if Relation.holds (if hi then .gt else .lt) isInt y x then some (y, j)
    else if Relation.holds (if hi then .gt else .lt) isInt x y then some (x, i)
    else some (if i ≤ j then (x, i) else (y, j))

/-- MAXI or MINI of a row (R152, R173, R176). -/
def tapRow (isInt hi : Bool) (row : List Word) : Word × Nat :=
  match reduce (tapPick isInt hi) none (row.zipIdx.map some) with
  | some (w, i) => (if isInt then w else fpCanon w, i)
  | none => (0, 0)

/-- f(d) of R178 for 0 ≤ d: 0 from 16 on, else from the segment table. -/
def lseCorrection (d : Word) : VOut :=
  if !fpLt d 0x41800000#32 then { bits := fpZero }
  else
    let j : Nat := match fpUnpack d with
      | .num neg m e => (floorFrac neg (m * 64) e).1.toNat
      | _ => 0
    let start := (fpMul (fpOfInt .even j).bits 0x3C800000#32).bits
    let t := fpSub d start
    (VOut.map2 vAdd { bits := Config.lseCoeff j 0 } (vMul t.bits (Config.lseCoeff j 1)))

/-- One pairwise addition of the approximate path (R177, R178). -/
def lsePair (x y : VOut) : VOut :=
  let c := x.count.add y.count
  let a := x.bits
  let b := y.bits
  if fpIsNaN a || fpIsNaN b then { bits := fpNaN, count := c.add { nan := 1 } }
  else if a = fpNegInf then { bits := b, count := c }
  else if b = fpNegInf then { bits := a, count := c }
  else if a = fpPosInf || b = fpPosInf then { bits := fpPosInf, count := c }
  else
    let hi := fpMax a b
    let lo := if fpLt a b then a else b
    let d := vSub hi lo
    let f := lseCorrection d.bits
    (vAdd hi f.bits).after (c.add (d.count.add f.count))

/-- LSE of a row (R177 to R180). -/
def lseRow (exact : Bool) (row : List VOut) : VOut :=
  let c := row.foldl (fun a r => a.add r.count) {}
  if exact then (VOut.ofFp (lseExact (row.map (·.bits)))).after c
  else if row.any (fun r => fpIsNaN r.bits) then { bits := fpNaN, count := c.add { nan := 1 } }
  else if row.any (fun r => r.bits == fpPosInf) then { bits := fpPosInf, count := c }
  else reduce lsePair { bits := fpNegInf } row

/-! ### Composite rows -/

/-- log2(e) in FP32 (R181). -/
def log2e : Word := 0x3FB8AA3B#32

/-- SOFTMAX of a row (R181). -/
def softmaxRow (exact : Bool) (row : List Word) : List VOut :=
  let a := row.map fun x => vMul x log2e
  let l := lseRow exact a
  (a.map fun x => (VOut.map1 (fun d => .ofFp (fpExp2 d)) (vSub x.bits l.bits))).mapIdx
    fun i y => if i = 0 then y.after l.count else y

/-- The reciprocal of a row length, formed once by RECIP (R501). -/
def recipLen (n : Nat) : VOut := .ofFp (fpRecip (fpOfInt .even n).bits)

/-- The normalisation both norms share (R501): `d` the centred row, γ, β, ε. -/
def normRow (d : List VOut) (inv : Word) (gamma beta : List Word) (eps : Word) : List VOut :=
  let q := VOut.map1 (fun s => vFma s inv eps) (sumSqRow false (d.map (·.bits)))
  let r := VOut.map1 (fun x => .ofFp (fpRsqrt x)) q
  (List.zip d (List.zip gamma beta)).mapIdx fun i (x, g, b) =>
    let y := VOut.map1 (fun p => vFma p g b) (VOut.map1 (fun v => vMul v r.bits) x)
    if i = 0 then y.after r.count else y

/-- RMSNORM of a row (R501). -/
def rmsNormRow (row gamma beta : List Word) (eps : Word) : List VOut :=
  let inv := recipLen row.length
  (normRow (row.map fun x => { bits := x }) inv.bits gamma beta eps).mapIdx
    fun i y => if i = 0 then y.after inv.count else y

/-- LAYERNORM of a row (R501): d = FMA(SUM(x), −1/n, x), then as RMSNORM over d. -/
def layerNormRow (row gamma beta : List Word) (eps : Word) : List VOut :=
  let inv := recipLen row.length
  let s := sumRow false (row.map fun x => { bits := x })
  let d := row.map fun x => vFma s.bits (fpNeg inv.bits) x
  (normRow d inv.bits gamma beta eps).mapIdx
    fun i y => if i = 0 then y.after (inv.count.add s.count) else y

/-- SGD_STEP on one element (R183): weight, momentum, gradient; k, lr, wd, mu. Answers u then w. -/
def sgdStep (k lr wd mu w u g : Word) : VOut × VOut :=
  let gs := vMul g k
  let u' := VOut.map1 (fun x => vFma mu u x) gs
  let t := vFma wd w u'.bits
  (u', (vFma (fpNeg lr) t.bits w).after t.count)

/-- The constants of ADAM_STEP (R183). -/
structure AdamConst where
  k : Word
  lr : Word
  wd : Word
  beta1 : Word
  omb1 : Word
  beta2 : Word
  omb2 : Word
  c1 : Word
  c2 : Word
  eps : Word
  deriving DecidableEq, Repr

/-- ADAM_STEP on one element (R183): answers m, v and w. -/
def adamStep (c : AdamConst) (w m v g : Word) : VOut × VOut × VOut :=
  let gs := vMul g c.k
  let m' := VOut.map1 (fun p => vFma c.beta1 m p) (VOut.map1 (fun x => vMul c.omb1 x) gs)
  let v' := VOut.map1 (fun p => vFma c.beta2 v p)
    (VOut.map1 (fun x => vMul c.omb2 x) (vMul gs.bits gs.bits))
  let mh := vMul m'.bits c.c1
  let vh := vMul v'.bits c.c2
  let q := VOut.map1 (fun x => vAdd x c.eps) (VOut.map1 (fun x => .ofFp (fpSqrt x)) vh)
  let t := VOut.map1 (fun x => vFma c.wd w x) (VOut.map2 (fun a b => .ofFp (fpDiv a b)) mh q)
  (m', v', VOut.map1 (fun x => vFma (fpNeg c.lr) x w) t)

end Sys2Proof.Machine
end

