-- ==== Sys2Proof/Machine/Output.lean ====
section
/-! DEFINITION. The output stage: rows through the stages of Table 7-4, masks, raw drain, the reduction tap,
the list builder, KSPLIT's finishing work, output tiles and their seals, and the row DRAIN_READ
(R66 to R69, R75, R143 to R159, R163, R164, R241 to R243, R257 to R259). -/

namespace Sys2Proof.Machine

/-! ### Output tiles -/

/-- The header of an output tile (R151, Table 11-3). -/
def LayerExec.outHdr (e : LayerExec) (column block : Nat) : TileHdr :=
  { TileHdr.blank with element := if e.layer.raw then 8 else e.layer.target, rows := e.layer.positions block
                       columns := 128, tensor := e.layer.output, rowOffset := 64 * block, kOffset := 128 * column
                       raw := e.layer.raw }

/-- The address of an output tile in partition memory, where the step names a list (R250). -/
def LayerExec.outAddr (e : LayerExec) (x : Route) (column block : Nat) : Nat :=
  (x.image.lists.getD e.layer.outputList []).getD (column * e.layer.blocks + block) 0

/-- Bytes put into an output tile at an offset; none where they would leave the handle or the partition. -/
def State.putOut (s : State) (core : Nat) (x : Route) (e : LayerExec) (column block off : Nat) (b : Bytes) : Option State :=
  if e.layer.outputList = noId then s.writePad core e.layer.outH (e.outPlace column block + off) b
  else
    let a := e.outAddr x column block + off
    s.write x.partition a b

/-- A run whose output tile left its handle or was refused by the partition map (R191, R222). -/
def State.putRefused (s : State) (rid : Nat) (e : LayerExec) : State :=
  (if e.layer.outputList = noId then s else s.refusal).failRun rid .badParam

/-- The payload of an output tile as it now stands. -/
def State.outPayload (s : State) (core : Nat) (x : Route) (e : LayerExec) (column block : Nat) : Bytes :=
  let n := e.layer.positions block * e.layer.outRowBytes + 128 * bit e.layer.raw
  if e.layer.outputList = noId then ((s.core core).readPad e.layer.outH (e.outPlace column block + 64) n).getD []
  else (s.read x.partition (e.outAddr x column block + 64) n).getD []

/-- Whether the tensor goes to its consumers only after its excursion test (R81). -/
def Run.holdsBack (r : Run) (e : LayerExec) : Bool :=
  e.layer.converts && (Target.ofCode e.layer.target).any Target.isInteger &&
    (findScale r.scales e.layer.output).any fun x => x.policy != .note

/-- The header of an output tile written over its finished payload (R151, R227). -/
def State.sealOut (s : State) (core : Nat) (x : Route) (e : LayerExec) (column block : Nat) : Option State :=
  let payload := s.outPayload core x e column block
  let h := { e.outHdr column block with payloadLen := payload.length, writer := x.partition }
  s.putOut core x e column block 0 (h.sealedLine payload)

/-- An output tile's header put down with MAGIC 0, or its payload sealed unless the seal waits (R81, R227). -/
def State.openOut (s : State) (core : Nat) (x : Route) (e : LayerExec) (column block : Nat) : Option State :=
  s.putOut core x e column block 0 ({ e.outHdr column block with writer := x.partition }).unsealedLine

/-! ### The stages of one output -/

/-- The row of the tensor as stored that an output place holds: the neuron of a forwarded up-projection (R152, R164). -/
def LayerExec.tensorRow (e : LayerExec) (place : Nat) : Nat :=
  if e.condition = .forward ∧ !e.isDown then e.neurons.getD place place else place

/-- The bias of a row; a padded row that no tile covers takes 0 (R250). -/
def LayerExec.biasOf (e : LayerExec) (row : Nat) : Word := Tab.getD 0 e.bias row

/-- Whether a layer step selects a bias (R146). -/
def LayerStep.hasBias (l : LayerStep) : Bool := l.biasList != noId

/-- The activation of stage 3 in applied form (R148, R149, R501). -/
def activateFp (a : Nat) (lo hi x : Word) : Word :=
  match a with
  | 1 => relu x
  | 2 => clampFp lo hi x
  | 3 => gelu x
  | 4 => silu x
  | _ => x

/-- The activation of stage 3 in folded form (R148). -/
def activateInt (a : Nat) (lo hi x : Int) : Int :=
  match a with
  | 1 => max x 0
  | 2 => min (max x lo) hi
  | _ => x

/-- The bounds of the clamp. -/
def LayerStep.lo (l : LayerStep) : Word := BitVec.ofNat 32 l.clampLo
def LayerStep.hi (l : LayerStep) : Word := BitVec.ofNat 32 l.clampHi

/-- Stages 1 to 3 for one total: the value, and whether a folded bias addition saturated (R146 to R149). -/
def LayerExec.stages (e : LayerExec) (row : Nat) (total : Int) : Value × Bool :=
  let l := e.layer
  if l.scaleStage then
    let x := (fpMulT .away (fpOfInt .away total).bits e.multiplier).bits
    let x := if l.hasBias then (fpAddT .away x (e.biasOf row)).bits else x
    (.fp (activateFp l.activation l.lo l.hi x), false)
  else
    let y := total + int32 (e.biasOf row)
    (.int (activateInt l.activation (int32 l.lo) (int32 l.hi) (limit32 y)), limit32 y != y)

/-- The totals of a column's K parts added by the vector unit in ascending part (R174, R243). -/
def addParts (parts : List Int) : VOut :=
  parts.tail.foldl (fun (a : VOut) t => a.map1 fun w => iAdd w (ofInt32 t)) { bits := ofInt32 (parts.headD 0) }

/-- The finishing work of a KSPLIT layer step on the vector unit, for one output: the parts added, one FMA of scale and
bias, and the activation (R243, R501). Where no bias is selected the FMA adds −0, which leaves every product as it is
(R146). A folded entry met here leaves the scale out (log entry 53). -/
def LayerExec.finishParts (e : LayerExec) (row : Nat) (parts : List Int) : Value × Bool × VCount :=
  let l := e.layer
  let sum := addParts parts
  if l.scaleStage then
    let y := sum.map1 fun w => vFma (fpOfInt .away (int32 w)).bits e.multiplier (if l.hasBias then e.biasOf row else 0x80000000)
    let y := y.map1 fun w => { bits := activateFp l.activation l.lo l.hi w }
    (.fp y.bits, false, y.count)
  else
    let v := e.stages row (int32 sum.bits)
    (v.1, v.2, sum.count)

/-- What a drained row yields: the codes, statistics, saturations, the vector unit's counts, and the tap's
candidate. -/
structure RowOut where
  codes : List Nat
  stats : Stats
  sats : Nat
  count : VCount
  tap : Option (Word × Nat)
  deriving DecidableEq, Repr

def RowOut.empty : RowOut := { codes := [], stats := {}, sats := 0, count := {}, tap := none }

/-- One output more: a skipped one takes the zero code and counts in n and the zero count (R159). -/
def LayerExec.output (e : LayerExec) (column lane : Nat) (out : Option (Value × Bool × VCount)) (acc : RowOut) : RowOut :=
  let l := e.layer
  match out, Target.ofCode l.target with
  | some (v, sat, count), some t =>
    let r := convert t l.qmax e.convScale v
    let place := 128 * column + lane
    let w : Word := match v with | .int n => ofInt32 n | .fp w => w
    { codes := acc.codes ++ [r.bits], stats := acc.stats.combine (Stats.ofConv t v r), sats := acc.sats + bit sat
      count := acc.count.add count
      tap := if l.tap = 0 ∨ l.n ≤ place then acc.tap
             else tapPick (!l.scaleStage) (l.tap == 1) acc.tap (some (w, e.tensorRow place)) }
  | _, _ => { acc with codes := acc.codes ++ [0], stats := acc.stats.combine { n := 1, zeros := 1 } }

/-- Whether an output is computed: its mask bit in an exact phase, its place in its own position's list for
a forwarded up-projection (R159, R164). -/
def LayerExec.present (e : LayerExec) (r : Run) (column block pos lane : Nat) : Bool :=
  match e.condition with
  | .none => true
  | .postcard => bitOf (Tab.getD 0 e.masks (cellKey block column * 64 + pos)) lane
  | .forward =>
    e.isDown || e.exact ||
      ((e.neurons[128 * column + lane]?).any fun n => (Tab.getD [] r.lists (64 * block + pos)).contains n)

/-- A row of totals, one list of parts per lane, through the output stage. -/
def LayerExec.row (e : LayerExec) (r : Run) (column block pos : Nat) (totals : List (List Int)) : RowOut :=
  ((List.range 128).zip totals).foldl (fun acc q =>
    let out := if !e.present r column block pos q.1 then none
      else if 1 < e.order.parts then some (e.finishParts (e.tensorRow (128 * column + q.1)) q.2)
      else
        let v := e.stages (e.tensorRow (128 * column + q.1)) (q.2.headD 0)
        some (v.1, v.2, {})
    e.output column q.1 out acc) .empty

/-! ### Counting -/

/-- The counts of vector unit work (R186); a limited result is a notice of the run (R174). -/
def State.countVector (s : State) (core rid : Nat) (c : VCount) : State :=
  let s := (((s.countCore core 41 1 c.invalid).countCore core 41 2 c.overflow).countCore core 41 3 c.nan).countCore core 41 4 c.sat
  if c.sat = 0 then s else s.notice rid 3

/-- Saturations of totals and of a folded bias (R135, R147). -/
def State.countSats (s : State) (core rid n : Nat) : State :=
  if n = 0 then s else (s.countCore core 38 5 n).notice rid 3

/-! ### Masks, lists and taps -/

/-- The threshold of a postcard step (R157). -/
def LayerStep.threshold (l : LayerStep) : Nat := min (l.thresholdUnit * l.knob) (2 ^ 31 - 1)

/-- The mask row of a position's estimates (R156). -/
def LayerExec.maskRow (e : LayerExec) (totals : List Int) : Nat :=
  maskOf (((List.range 128).zip totals).filterMap fun q => if e.layer.threshold ≤ q.2.natAbs then some q.1 else none)

/-- Where a column's 1 KiB of masks stands in the mask buffer: its blocks take it in turn (R160; log entry 24). -/
def LayerExec.maskPlace (e : LayerExec) (column : Nat) : Nat := e.layer.auxOff + 1024 * (column - e.share.col0)

/-- A score before another in a forwarding list: higher, the lower neuron on a tie (R163). -/
def scoreBefore (a b : Int × Nat) : Bool := b.1 < a.1 || (a.1 == b.1 && a.2 < b.2)

def insertScore (x : Int × Nat) : List (Int × Nat) → List (Int × Nat)
  | [] => [x]
  | y :: ys => if scoreBefore x y then x :: y :: ys else y :: insertScore x ys

/-- The F highest-scoring neurons, ascending (R163). -/
def forwardingList (f : Nat) (scores : List Int) : List Nat :=
  let sorted := ((List.range scores.length).zip scores).foldl (fun acc q => insertScore (q.2, q.1) acc) []
  unionOf [(sorted.take f).map (·.2)]

/-- The key of a position's scores of predictor B in a run, by step. -/
def scoreKey (step block pos : Nat) : Nat := step * 2 ^ 24 + 64 * block + pos

/-- The scores of a position in ascending column, where every column has drained, on whichever core (R163). -/
def Run.wholeScores (r : Run) (e : LayerExec) (block pos : Nat) : Option (List Int) :=
  let mine := r.scores.filter fun x => x.1 / 2 ^ 16 == scoreKey e.step block pos
  if mine.length = e.layer.columns then some ((mine.flatMap (·.2)).take e.layer.n) else none

/-- A tap record: VALUE and INDEX (Table 7-5). -/
def tapRecord (t : Word × Nat) : Bytes := leBytes 4 t.1.toNat ++ leBytes 4 t.2

/-- The tile of a block's 64 reduction records. -/
def LayerExec.tapTile (e : LayerExec) (block : Nat) : TileHdr × Bytes :=
  ({ TileHdr.blank with element := 8, rows := 64, columns := 2, tensor := e.layer.output, rowOffset := 64 * block },
   (List.range 64).flatMap fun i => (Tab.find (64 * block + i) e.taps).elim (zeros 8) tapRecord)

/-- The tap's records of a core written when its columns have drained; a step that leaves its group open drains none
(R141, R152, R153). None where a tile would leave the handle (R191). -/
def State.writeTaps (s : State) (core : Nat) (x : Route) (e : LayerExec) : Option State :=
  if e.layer.tap = 0 ∨ e.layer.raw ∨ e.layer.leavesOpen then some s
  else e.blocks.foldlM (fun s j =>
    let (h, payload) := e.tapTile j
    let h := { h with payloadLen := payload.length, writer := x.partition }
    s.writePad core e.layer.auxH (e.layer.auxOff + (j - e.share.block0) * tapTileBytes) (h.seal payload)) s

/-! ### Rounds and phases -/

/-- Whether an array has nothing left to compute in the present round. -/
def LayerExec.spent (e : LayerExec) (c : Core) (array : Nat) : Bool :=
  let x := c.array array
  (x.exhausted || ((e.bandBlock (array / 8)).isNone && e.order = .rows)) && x.column.isNone && x.next.isNone

/-- Whether a working slot of a core holds a column of the layer step that has not all drained. -/
def Core.owes (c : Core) (e : LayerExec) : Bool :=
  c.arrays.any fun a => a.2.slots.any fun q =>
    (q.role == .draining || q.role == .filling) && q.run == e.run && q.step == e.step

/-- Whether everything claimed in the present round has been computed and drained. -/
def State.roundDone (s : State) (core : Nat) (e : LayerExec) : Bool :=
  let c := s.core core
  (List.range 96).all (e.spent c) && !c.owes e && c.scatter.all (fun g => g.waiting.isEmpty && g.spills.isEmpty)

/-- A column none of whose outputs are selected: its tile of zero codes written and sealed, its outputs
counted as zeros (R158, R159); a raw one with its flag bytes (R150). -/
def State.skipColumn (s : State) (core : Nat) (x : Route) (r : Run) (e : LayerExec) (column block : Nat) :
    Option (State × LayerExec) :=
  let n := 128 * e.layer.positions block
  let st := e.stats.combine { n := n, zeros := n }
  let e' := { e with stats := st, written := e.written ++ [(column, block)] }
  let s := s.countCore core 40 2
  if e.layer.noWrite then some (s, e')
  else do
    let s ← s.openOut core x e column block
    let s ← s.putOut core x e column block 64 (zeros (e.layer.positions block * e.layer.outRowBytes + 128 * bit e.layer.raw))
    let s ← if r.holdsBack e then some s else s.sealOut core x e column block
    return (s, e')

/-- The columns of a round that an exact phase does not run, written as zeros. -/
def State.skipColumns (s : State) (core : Nat) (x : Route) (r : Run) (e : LayerExec) : Option (State × LayerExec) :=
  let cells := ((List.range 12).filterMap e.bandBlock).eraseDups.flatMap fun j =>
    (e.columns.filter fun n => (Tab.find (cellKey j n * 64) e.masks).isSome && !e.selected j n).map fun n => (n, j)
  cells.foldlM (fun q c => q.1.skipColumn core x r q.2 c.1 c.2) (s, e)

/-- The arrays and bands of a core ready for the next round or phase: slots and drains stay as they are. -/
def Core.nextRound (c : Core) : Core :=
  { c with arrays := Tab.mapVal (fun _ (a : ArrayState) => { ArrayState.idle with slots := a.slots, ordinals := a.ordinals }) c.arrays
           bands := Tab.mapVal (fun _ (b : BandState) => b.drainOnly) c.bands }

/-- The layer step's work on this core is done: its tap's records written, and every update of its scatter group issued. -/
def State.finishLayer (s : State) (core rid : Nat) (x : Route) (e : LayerExec) : State :=
  match s.writeTaps core x e with
  | none => s.failRun rid .badParam
  | some s =>
    (s.onCore core fun c => { c with scatter := c.scatter.map fun g => { g with issued := true } }).setExec core
      { e with finished := true }

/-- The round or phase that follows, where the present one is done: the exact phase of a postcard step, the
next round, or the end of the step's work on this core (R156, R241). -/
def State.advanceLayer (s : State) (core : Nat) : State :=
  match s.layerOn core with
  | none => s
  | some (rid, _, e) =>
    withSome (s.routeOf rid) s fun (r, x) =>
      if e.finished || !s.roundDone core e then s
      else if e.condition = .postcard ∧ e.estimating then
        let e := { e with estimating := false, parts := [] }
        match s.skipColumns core x r e with
        | none => s.putRefused rid e
        | some (s, e) => ((s.onCore core Core.nextRound).setExec core e).armBands core e
      else
        let e := { e with round := e.round + 1, estimating := e.condition = .postcard }
        if e.round < rounds e.order e.share then ((s.onCore core Core.nextRound).setExec core e).armBands core e
        else s.finishLayer core rid x e

/-- A layer step that still drains while its core has gone on: done with its last slot (R142, R145). -/
def State.advanceTail (s : State) (core : Nat) : State :=
  withSome (s.core core).tail s fun e =>
    if e.finished || (s.core core).owes e then s
    else withSome (s.routeOf e.run) s fun (_, x) => s.finishLayer core e.run x e

/-- What follows once a column of a core's layer steps is done with. -/
def State.advance (s : State) (core : Nat) : State := (s.advanceTail core).advanceLayer core

/-! ### Draining -/

/-- The totals of the 128 lanes at one position of a slot. -/
def Slot.totalsAt (x : Slot) (pos : Nat) : List Int := (List.range 128).map fun l => Tab.getD 0 x.totals (l * 64 + pos)

/-- A slot emptied; the array's other complete slot then drains (R137). -/
def ArrayState.freeSlot (a : ArrayState) (i : Nat) : ArrayState := { a with slots := a.slots.set i Slot.empty }.turn

/-- The slots of a band's drain in the order its channel takes them: the one in work, else the first that drains; a
complete slot whose array still drains another waits behind it (R137, R143). -/
def Core.drainList (c : Core) (band : Nat) : List (Nat × Nat) :=
  let b := c.band band
  if b.drainPos ≠ 0 then b.drain
  else match b.drain.find? fun d => (c.slotAt d).role == .draining with
    | none => []
    | some d => d :: b.drain.erase d

/-- A band's drain moved on: to the next position, or past its slot, which becomes free (R143, R144). -/
def State.drainOn (s : State) (core band array slot : Nat) (last : Bool) : State :=
  s.onCore core fun c =>
    let ds := c.drainList band
    if last then (c.onBand band fun b => { b with drain := ds.drop 1, drainPos := 0 }).onArray array fun a => a.freeSlot slot
    else c.onBand band fun b => { b with drain := ds, drainPos := b.drainPos + 1 }

/-- The postmark of a column (Table 12-6). -/
def postmark (device core array : Nat) (k : Column) : Nat :=
  k.counter + k.claim % 2 ^ 32 * 2 ^ 8 + device * 2 ^ 40 + core * 2 ^ 46 + array * 2 ^ 49 + k.generation % 256 * 2 ^ 56

/-- The test of a drained column's postmark before stage 1, on the core whose seen map it meets (R151, R257,
R258): whether the column goes on. -/
def State.testColumn (s : State) (core array : Nat) (e : LayerExec) (k : Column) : Bool × State :=
  let c := s.core core
  if !e.claimsShared || e.passed.contains k.claim || (Tab.find k.counter c.seen).isNone then (true, s)
  else
    let (fresh, c) := c.testMark (postmark s.cascade.device core array k)
    if fresh then (true, (s.setCore core c).setExec core { e with passed := e.passed ++ [k.claim] })
    else (false, s.discardDup core)

/-- Whether an array of a core, or a slot of it that has not drained, still works on a claim. -/
def Core.worksOn (c : Core) (e : LayerExec) (k : Column) : Bool :=
  let same (j : Column) : Bool := j.counter == k.counter && j.claim == k.claim && j.generation == k.generation
  c.arrays.any fun a => a.2.column.any same || a.2.next.any same ||
    a.2.slots.any fun q => (q.role == .filling || q.role == .draining) && q.run == e.run && q.step == e.step && q.column.any same

/-- A claim given back once its columns' results are in place (R256). -/
def State.columnDone (s : State) (core : Nat) (e : LayerExec) (k : Column) : State :=
  if (s.core core).worksOn e k then s else s.releaseClaim core k e.layer.homeDevice

/-- A row put into its output tile: the header first, and after the last row the seal (R151, R227). -/
def State.writeRow (s : State) (core rid : Nat) (x : Route) (r : Run) (e : LayerExec) (k : Column) (pos : Nat)
    (bytes flags : Bytes) (last : Bool) : State :=
  if e.layer.noWrite then s
  else
    let n := k.item.column
    let off := 64 + pos * e.layer.outRowBytes
    let s0 := if pos = 0 then s.openOut core x e n k.block else some s
    let s1 := s0.bind fun s => s.putOut core x e n k.block off (bytes ++ if last then flags else [])
    let s2 := s1.bind fun s => if last && !r.holdsBack e then s.sealOut core x e n k.block else some s
    match s2 with
    | some s => s
    | none => s.putRefused rid e

/-- One estimated position: its mask row, kept and written to the mask buffer (R156, R160). -/
def State.drainEstimate (s : State) (core rid : Nat) (e : LayerExec) (k : Column) (pos : Nat) (totals : List Int) : State :=
  let m := e.maskRow totals
  match s.writePad core e.layer.auxH (e.maskPlace k.item.column + 16 * pos) (leBytes 16 m) with
  | none => s.failRun rid .badParam
  | some s =>
    (s.countCore core 40 0 128).setExec core { e with masks := Tab.put (cellKey k.block k.item.column * 64 + pos) m e.masks }

/-- A forwarding list as unsigned 32-bit values in the step's output handle of a core whose share holds the position
(R163; log entry 26). -/
def State.writeList (s : State) (core : Nat) (l : LayerStep) (f block pos : Nat) (ns : List Nat) : Option State :=
  let sh := l.coreShare core
  if l.noWrite ∨ block < sh.block0 ∨ sh.block0 + sh.blocks ≤ block then some s
  else s.writePad core l.outH (l.outOff + (64 * (block - sh.block0) + pos) * 4 * f) (ns.flatMap (leBytes 4))

/-- The list of a position written, once predictor B's scores of it are whole: kept for the run, and in the output
handles of the step's cores (R163; log entry 26). -/
def State.drainScores (s : State) (core rid : Nat) (e : LayerExec) (k : Column) (pos : Nat) (totals : List Int) : State :=
  let s := s.onRun rid fun r =>
    { r with scores := Tab.put (scoreKey e.step k.block pos * 2 ^ 16 + k.item.column) totals r.scores }
  match (s.run rid).bind fun r => r.wholeScores e k.block pos with
  | none => s
  | some scores =>
    let ns := forwardingList e.listF scores
    match (bitsOf 6 e.layer.cores).foldlM (fun s c => s.writeList c e.layer e.listF k.block pos ns) s with
    | none => s.failRun rid .badParam
    | some s => (s.onRun rid fun r => { r with lists := Tab.put (64 * k.block + pos) ns r.lists }).countCore core 40 3

/-- The outputs of a position that an exact phase computes, counted (R168). -/
def State.countExact (s : State) (core : Nat) (r : Run) (e : LayerExec) (k : Column) (pos : Nat) : State :=
  if e.condition = .postcard then
    s.countCore core 40 1 ((List.range 128).filter (e.present r k.item.column k.block pos)).length
  else s

/-- One position through stages 1 to 6 (Table 7-4). -/
def State.drainRow (s : State) (core rid : Nat) (x : Route) (r : Run) (e : LayerExec) (k : Column) (pos : Nat)
    (totals : List (List Int)) (last : Bool) : State :=
  let o := e.row r k.item.column k.block pos totals
  let p := 64 * k.block + pos
  let e := { e with
    stats := e.stats.combine o.stats
    taps := match tapPick (!e.layer.scaleStage) (e.layer.tap == 1) (Tab.find p e.taps) o.tap with
      | some t => Tab.put p t e.taps
      | none => e.taps
    written := if last then e.written ++ [(k.item.column, k.block)] else e.written }
  let s := s.setExec core e
  let s := (s.countSats core rid o.sats).countVector core rid o.count
  let s := s.countExact core r e k pos
  s.writeRow core rid x r e k pos (packRow e.layer.outBits o.codes) [] last

/-- One position of a raw drain, with the flags after the last row (R150); predictor B's goes to the list
builder in place of a tile (R163). -/
def State.drainRaw (s : State) (core rid : Nat) (x : Route) (r : Run) (e : LayerExec) (k : Column) (pos : Nat)
    (totals : List Int) (flags : Nat) (last : Bool) : State :=
  if e.listF ≠ 0 then s.drainScores core rid e k pos totals else
  let e := { e with written := if last then e.written ++ [(k.item.column, k.block)] else e.written }
  let s := (s.setExec core e).countExact core r e k pos
  s.writeRow core rid x r e k pos (totals.flatMap fun t => leBytes 4 (unsigned 32 t))
    ((List.range 128).map fun l => BitVec.ofNat 8 (bit (bitOf flags l))) last

/-- The key of one drained part of a position (R243). -/
def partKey (k : Column) (part pos : Nat) : Nat := (cellKey k.block k.item.column * 64 + pos) * 8 + part

/-- One position of one part kept; the parts of the column that have drained whole. -/
def LayerExec.addPart (e : LayerExec) (k : Column) (pos : Nat) (totals : List Int) : LayerExec :=
  { e with parts := Tab.put (partKey k k.item.part pos) totals e.parts }

/-- Whether every part of every position of a column has drained (R243). -/
def LayerExec.partsWhole (e : LayerExec) (k : Column) : Bool :=
  (List.range (e.layer.positions k.block)).all fun p => (List.range e.order.parts).all fun q =>
    (e.tiles { k.item with part := q }).2 == 0 || (Tab.find (partKey k q p) e.parts).isSome

/-- A lane's totals over the parts of a position, in ascending part. -/
def LayerExec.partsAt (e : LayerExec) (k : Column) (pos : Nat) : List (List Int) :=
  (List.range 128).map fun l => (List.range e.order.parts).map fun q => (Tab.getD [] e.parts (partKey k q pos)).getD l 0

/-- A KSPLIT column finished by the vector unit once its last part has drained (R243). -/
def State.finishKsplit (s : State) (core rid : Nat) (x : Route) (e : LayerExec) (k : Column) : State :=
    if !e.partsWhole k then s
    else
      let n := e.layer.positions k.block
      (List.range n).foldl (fun s p =>
        match (s.core core).execFor e.run e.step, s.run rid with
        | some e, some r =>
          let ts := e.partsAt k p
          if e.estimating then s.drainEstimate core rid e k p (ts.map fun q => q.foldl (fun a t => limit32 (a + t)) 0)
          else s.drainRow core rid x r e k p ts (p + 1 == n)
        | _, _ => s) s

/-- One position read by a drain channel (R143). -/
def State.drainPosition (s : State) (core rid : Nat) (x : Route) (r : Run) (e : LayerExec) (q : Slot) (k : Column)
    (pos : Nat) (last : Bool) : State :=
  let totals := q.totalsAt pos
  if 1 < e.order.parts then
    let e := e.addPart k pos totals
    let s := s.setExec core e
    if last then s.finishKsplit core rid x e k else s
  else if e.estimating then s.drainEstimate core rid e k pos totals
  else if e.layer.raw then s.drainRaw core rid x r e k pos totals q.flags last
  else s.drainRow core rid x r e k pos (totals.map fun t => [t]) last

/-- The slot a drain channel reads next. -/
def Core.drainHead (c : Core) (band : Nat) : Option (Nat × Nat × Slot × Column) :=
  (c.drainList band).head?.bind fun d => (c.slotAt d).column.map fun k => (d.1, d.2, c.slotAt d, k)

/-- A drain channel's turn at the banks it writes a position to (R143, R194). -/
def LayerExec.askDrain (e : LayerExec) (band : Nat) (k : Column) (pos : Nat) (c : Core) : Core :=
  let l := e.layer
  if e.estimating then c.ask 1 (channelOf band) l.auxH (e.maskPlace k.item.column + 16 * pos) 16
  else if !l.drains || l.outputList != noId then c
  else c.ask 1 (channelOf band) l.outH (e.outPlace k.item.column k.block + 64 + pos * l.outRowBytes) l.outRowBytes

/-- DRAIN_READ: one position of the oldest complete slot, by the DRAIN program of its own step (R142, R143, R146, R151). -/
def execDrainRead (core band : Nat) (s : State) : Result :=
  checked (core < 6 && band < 12) s (onlyIf s.working fun s =>
    withSome ((s.core core).drainHead band) s fun (a, i, q, k) =>
      withSome ((s.core core).execFor q.run q.step) s fun e =>
        withSome (s.routeOf q.run) s fun (r, x) =>
          let pos := ((s.core core).band band).drainPos
          let s := (s.perturbedOn core 1 3).onCore core (e.askDrain band k pos)
          let last := pos + 1 == e.layer.positions k.block
          let (fresh, s) := if pos = 0 then s.testColumn core a e k else (true, s)
          if !fresh then ((s.drainOn core band a i true).columnDone core e k).advance core
          else
            let e := ((s.core core).execFor q.run q.step).getD e
            let s := s.drainPosition core q.run x r e q k pos last
            if (s.run q.run).isNone then s
            else
              let s := s.drainOn core band a i last
              if last then (s.columnDone core e k).advance core else s)

end Sys2Proof.Machine
end

