-- ==== Sys2Proof/Machine/Arrays.lean ====
section
/-! DEFINITION. The rows of the digit arrays: claims and guests, tiles fetched and checked, lanes loaded,
streams read and fed, steps and promotions (R22 to R58, R111 to R118, R131 to R144, R158, R164, R216,
R229 to R231, R242). -/

namespace Sys2Proof.Machine

/-! ### Claims and guests -/

/-- COLUMN_CLAIM (R40, R41). -/
def execColumnClaim (core array : Nat) (s : State) : Result :=
  arrayRow core array s fun _ _ e s =>
    let ready (a : Nat) : Bool :=
      let a := (s.core core).array a
      !(a.next.isSome || a.claiming || a.exhausted || !a.column.all fun k => k.allFetched e.layer.tilesPerK)
    if e.finished || (e.team array).head? != some array || !(e.team array).all ready then s
    else (s.claimColumn core array e).advance core

/-- GUEST_ATTACH: a guest joins its host band before the band's next sweep has begun (R41). -/
def execGuestAttach (core array : Nat) (s : State) : Result :=
  arrayRow core array s fun _ _ _ s =>
    let c := s.core core
    let a := c.array array
    match a.next with
    | none => s
    | some k =>
      let b := c.band k.band
      if k.attached || a.column.isSome || b.tile != 0 || b.pos != 0 then s
      else s.setCore core ((c.setArray array { a with next := some { k with attached := true, sweep := b.sweep } }).setBand
        k.band { b with guests := b.guests.filter (· != array) ++ [array] })

/-! ### Tiles -/

/-- An array's column in work or claimed next, by its ordinal. -/
def ArrayState.columnOf (a : ArrayState) (ordinal : Nat) : Option Column :=
  match a.column with
  | some k => if k.ordinal = ordinal then some k else a.next.filter fun k => k.ordinal == ordinal
  | none => a.next.filter fun k => k.ordinal == ordinal

/-- The column whose next tile is fetched: the one in work, then the claimed one (R40). -/
def ArrayState.fetching (a : ArrayState) (perK : Nat) : Option Column :=
  match a.column with
  | some k => if k.allFetched perK then a.next.filter fun k => !k.allFetched perK else some k
  | none => a.next.filter fun k => !k.allFetched perK

/-- One more tile of a column fetched. -/
def ArrayState.fetched (a : ArrayState) (ordinal : Nat) : ArrayState :=
  let step (k : Column) : Column := if k.ordinal = ordinal then { k with fetched := k.fetched + 1 } else k
  { a with column := a.column.map step, next := a.next.map step }

/-- The arrays a tile goes to: in ROWS order every array of the round at the same place in its band, which all work the
same column (R242). -/
def LayerExec.gang (e : LayerExec) (array : Nat) : List Nat :=
  match e.order with
  | .rows => ((List.range 12).filter fun b => (e.bandBlock b).isSome).map fun b => 8 * b + array % 8
  | _ => [array]

/-- The place of a queue entry in the step's tile list (R250). -/
def LayerExec.tilePlace (e : LayerExec) (k : Column) (tile half : Nat) : Nat :=
  (k.item.column * e.layer.kTiles + tile) * e.layer.tilesPerK + half

/-- The queue entry a fetch makes for a column (R37, R50). -/
def LayerExec.fetchOf (e : LayerExec) (x : Route) (k : Column) : QTile :=
  let per := e.layer.tilesPerK
  let tile := k.first + k.fetched / per
  let half := k.fetched % per
  { ordinal := k.ordinal, tile := tile, half := half
    addr := (x.image.lists.getD e.layer.residentList []).getD (e.tilePlace k tile half) 0
    line := [], payload := [], retried := false, checked := false }

/-- Whether an array can take a given tile now: it fetches the same item's same tile, with room (R37, R242). -/
def ArrayState.takes (a : ArrayState) (perK : Nat) (k : Column) : Bool :=
  a.queue.length < 2 && (a.fetching perK).any fun j => j.item == k.item && j.fetched == k.fetched

/-- A tile's fetch entered in one array's queue. -/
def ArrayState.enqueue (a : ArrayState) (e : LayerExec) (x : Route) : ArrayState :=
  match a.fetching e.layer.tilesPerK with
  | none => a
  | some k => { a.fetched k.ordinal with queue := a.queue ++ [e.fetchOf x k] }

/-- The mark of a queue entry that holds a neuron tile on its way to the gather buffer (R164). -/
def neuronMark : Nat := 2

/-- A neuron tile asked for (R164). -/
def LayerExec.neuronFetch (e : LayerExec) (x : Route) (i : Nat) : QTile :=
  { ordinal := 0, tile := i, half := neuronMark
    addr := (x.image.lists.getD e.layer.residentList []).getD (e.neurons.getD i 0) 0
    line := [], payload := [], retried := false, checked := false }

/-- A forwarded step's fetch: neuron tiles into the gather buffer first, then residencies out of it (R164). -/
def State.fetchForward (s : State) (core array : Nat) (x : Route) (e : LayerExec) : State :=
  let a := (s.core core).array array
  if 2 ≤ a.queue.length then s
  else if e.requested < e.neurons.length then
    (s.onCore core fun c => c.onArray array fun a => { a with queue := a.queue ++ [e.neuronFetch x e.requested] }).setExec core
      { e with requested := e.requested + 1 }
  else if e.gathered.length < e.neurons.length then s
  else match a.fetching 1 with
    | none => s
    | some k => s.onCore core fun c => c.onArray array fun a =>
        { a.fetched k.ordinal with
          queue := a.queue ++ [{ e.fetchOf x k with addr := 0, checked := true }] }

/-- TILE_FETCH: the next tile of the array's column enters its queue, and those of its gang (R37, R164,
R242). -/
def execTileFetch (core array : Nat) (s : State) : Result :=
  arrayRow core array s fun rid _ e s =>
    withSome (s.routeOf rid) s fun (_, x) =>
      if e.condition = .forward then s.fetchForward core array x e
      else
        let c := s.core core
        withSome ((c.array array).fetching e.layer.tilesPerK) s fun k =>
          let g := e.gang array
          if g.all fun a => (c.array a).takes e.layer.tilesPerK k then
            s.onCore core fun c => g.foldl (fun c a => c.onArray a fun q => q.enqueue e x) c
          else s

/-- Every queue entry of a gang for one tile, changed (R242). -/
def Core.onTile (c : Core) (gang : List Nat) (q : QTile) (f : QTile → QTile) : Core :=
  gang.foldl (fun c a => c.onArray a fun x =>
    { x with queue := x.queue.map fun t =>
        if t.addr = q.addr ∧ t.tile = q.tile ∧ t.half = q.half ∧ t.checked = q.checked then f t else t }) c

/-- The bytes of a tile as a read delivers them: with a link check that fails twice, the bytes as read
(R216). -/
def delivered (r : LinkResponse) (line payload : Bytes) : Bytes × Bytes :=
  if linkFails r then
    let all := flipBytes (line ++ payload) r.flips
    (all.take 64, all.drop 64)
  else (line, payload)

/-- Whether any stack of a physical range is in self-refresh (R214). -/
def State.asleep (s : State) (pa n : Nat) : Bool :=
  (List.range (min 256 ((pa + n - 1) / 2048 - pa / 2048 + 1))).any fun i => s.refreshing.contains (stackOf ((pa / 2048 + i) * 2048))

/-- The bytes of the oldest tile an array has asked for and that has not arrived; a stack in self-refresh answers after
its exit (R214, R216). -/
def State.tileReturns (s : State) (core array : Nat) (response : LinkResponse) (rid : Nat) (e : LayerExec) : State :=
  withSome (s.routeOf rid) s fun (_, x) =>
    withSome (((s.core core).array array).queue.find? fun q => q.line.isEmpty && !q.checked) s fun q =>
      match s.phys x.partition q.addr, s.readTile x.partition q.addr with
      | some pa, some (line, payload) =>
        if s.asleep pa (64 + payload.length) then s
        else
          let s := (s.request pa (64 + payload.length)).perturbedOn core 3 0
          let s := if linkFails response then s.countCore core 42 0 else s
          let (line, payload) := delivered response line payload
          s.onCore core fun c => c.onTile (e.gang array) q fun t => { t with line := line, payload := payload }
      | _, _ => s.refusal.failRun rid .badParam

/-- MEMORY_READ_RESPONSE: of an array's tile, or how another engine's next read of a line will return (R216; log
entry 10). -/
def execMemoryReadResponse (core array : Nat) (response : ReadResponse) (s : State) : Result :=
  match response with
  | .tile r => arrayRow core array s fun rid _ e s => s.tileReturns core array r rid e
  | .line n r => checked (n < 2 ^ 34) s fun s => { s with links := s.links ++ [(n, r)] }

/-- What a column's step expects of a tile (R27, R250; check 6 of Table 11-4). -/
def LayerExec.expects (e : LayerExec) (k : Column) (q : QTile) : TileExpect :=
  let l := e.layer
  { format := Format.ofCode l.format, element := some l.element, actWidth := some l.actWidth
    rowOffset := some (128 * k.item.column), kOffset := some (l.tileK * q.tile)
    columns := if l.isLoose then some l.extent else none }

/-- What a gather expects of a neuron tile: one row of the tensor's columns (R164). -/
def LayerExec.expectsNeuron (e : LayerExec) (q : QTile) : TileExpect :=
  let l := e.layer
  { format := some .dense, element := some l.element, actWidth := some l.actWidth
    rowOffset := some (e.neurons.getD q.tile 0), kOffset := some 0
    columns := some (if e.isDown then l.n else l.k) }

/-- A neuron tile in the gather buffer; a buffer too small for every neuron of an exact-mode step is used again from its
start (R164, R165, R168; log entry 66). -/
def State.gather (s : State) (core array : Nat) (e : LayerExec) (q : QTile) : State :=
  let at_ := e.layer.auxOff + q.tile % max 1 (e.layer.gatherTiles e.isDown) * e.layer.neuronBytes e.isDown
  match s.writePad core e.layer.auxH at_ (q.line ++ padTo 64 q.payload) with
  | none => s.failRun e.run .badParam
  | some s =>
    let s := (s.setExec core { e with gathered := Tab.put q.tile q.payload e.gathered }).onCore core
      (Core.ask 3 0 e.layer.auxH at_ (64 + q.payload.length))
    (s.onCore core fun c => c.onArray array fun a => { a with queue := a.queue.erase q }).countCore core 40 4

/-- The result of a tile's checks: used, read once more, or the end of the run (R229 to R231). -/
def State.tileChecked (s : State) (core array rid : Nat) (r : Run) (x : Route) (e : LayerExec) (q : QTile)
    (check : TileCheck) : State :=
  match check with
  | .good =>
    let s := if q.retried then s.countFor x.partition 42 1 else s
    if q.half = neuronMark then s.gather core array e q
    else s.onCore core fun c => c.onTile (e.gang array) q fun t => { t with checked := true }
  | .mismatch =>
    let frame := match r.serves with | .frame _ _ _ _ => true | .command _ => false
    if q.retried || (frame && r.reread) then (s.countTile x.partition .mismatch).failRun rid .sealFault (q.addr / 64)
    else
      (s.onRun rid fun r => { r with reread := true }).onCore core fun c =>
        c.onTile (e.gang array) q fun t => { t with line := [], payload := [], retried := true }
  | k => (s.countTile x.partition k).failRun rid k.status

/-- TILE_ARRIVAL: the checks of Table 11-4 on the oldest tile whose last line has arrived (R229). -/
def execTileArrival (core array : Nat) (s : State) : Result :=
  arrayRow core array s fun rid _ e s =>
    withSome (s.routeOf rid) s fun (r, x) =>
      let a := (s.core core).array array
      withSome (a.queue.find? fun q => !q.line.isEmpty && !q.checked) s fun q =>
        if q.half = neuronMark then
          let ok := (TileHdr.decode q.line).rows = 1
          let k := checkTile (e.expectsNeuron q) q.addr q.line q.payload
          s.tileChecked core array rid r x e q (if k = .good ∧ !ok then .metaFault else k)
        else withSome (a.columnOf q.ordinal) s fun k =>
          s.tileChecked core array rid r x e q (checkTile (e.expects k q) q.addr q.line q.payload)

/-! ### Lanes loaded -/

/-- A lane of an array. -/
def ArrayState.lane (a : ArrayState) (l : Nat) : Lane := Tab.getD .idle a.lanes l
def ArrayState.setLane (a : ArrayState) (l : Nat) (x : Lane) : ArrayState := { a with lanes := Tab.put l x a.lanes }

/-- A lane's load of a tile: from its payload, or from the gather buffer (R37, R164). -/
def LayerExec.load (e : LayerExec) (k : Column) (q : QTile) (lane : Nat) : LaneLoad :=
  if e.condition = .forward then
    let b := elementBits e.layer.element
    let code (neuron column : Nat) : Nat := packedAt (Tab.getD [] e.gathered neuron) 0 b column
    let row := 128 * k.item.column + lane
    let codes := (List.range e.layer.tileK).map fun i =>
      let c := q.tile * e.layer.tileK + i
      if e.isDown then (if c < e.neurons.length ∧ row < e.layer.n then code c row else 0)
      else if row < e.neurons.length ∧ c < e.layer.k then code row c else 0
    denseLane e.layer e.estimating codes
  else digitLane e.layer e.estimating (TileHdr.decode q.line) q.payload lane

/-- A recoder's turn at the banks of a gather buffer (R164, R194). -/
def LayerExec.askGather (e : LayerExec) (array : Nat) (k : Column) (q : QTile) (c : Core) : Core :=
  if e.condition ≠ .forward then c
  else
    let first := if e.isDown then q.tile * e.layer.tileK else 128 * k.item.column
    c.ask 1 (recoderOf (array / 8)) e.layer.auxH
      (e.layer.auxOff + first % max 1 (e.layer.gatherTiles e.isDown) * e.layer.neuronBytes e.isDown) 4096

/-- Drops counted: a notice, or in exact mode the end of the run at the first of them (R114). -/
def State.countDrops (s : State) (core rid n : Nat) (exact : Bool) : State :=
  if n = 0 then s
  else if exact then (s.countCore core 39 0).failRun rid .metaFault
  else (s.countCore core 39 0 n).notice rid 2

/-- A lane's shadow registers loaded from a tile. -/
def ArrayState.loadLane (a : ArrayState) (q : QTile) (lane : Nat) (pes : List Pe) : ArrayState :=
  a.setLane lane { a.lane lane with shadow := some { ordinal := q.ordinal, tile := q.tile, pes := pes } }

/-- RECODER_LOAD: one step of the recoder: the next two lanes, in lane order, from the oldest tile, checked, into their
shadow registers; the tile leaves its queue with the last two (R22, R37, R111). -/
def execRecoderLoad (core array : Nat) (s : State) : Result :=
  arrayRow core array s fun rid _ e s =>
    let a := (s.core core).array array
    match a.queue with
    | [] => s
    | q :: rest =>
      withSome (a.columnOf q.ordinal) s fun k =>
        let i := 2 * a.loading
        if e.layer.isTable || !q.checked || (a.lane i).shadow.isSome || (a.lane (i + 1)).shadow.isSome then s
        else
          let x := e.load k q i
          let y := e.load k q (i + 1)
          let a := (a.loadLane q i x.pes).loadLane q (i + 1) y.pes
          let a := if i + 2 < 128 then { a with loading := a.loading + 1 } else { a with loading := 0, queue := rest }
          let s := s.onCore core (e.askGather array k q)
          ((s.perturbedOn core 1 2).onCore core fun c => c.setArray array a).countDrops core rid (x.drops + y.drops) e.exact

/-- Entries of one tile of a column. -/
def LayerExec.perTile (e : LayerExec) (k : Column) : Nat :=
  e.layer.positions k.block * (if e.layer.transposed then 1 else e.layer.slices)

/-- Whether a lane is done with the tile it holds (R37). -/
def Lane.tileDone (x : Lane) (k : Column) (per : Nat) : Bool :=
  match x.active with
  | none => true
  | some g => g.ordinal != k.ordinal || per ≤ x.seen

/-- The claimer's word to its counter's home after a K tile (Table 17-7; log entry 27). -/
def State.renewClaim (s : State) (core : Nat) (e : LayerExec) (k : Column) : State :=
  if e.claimsShared && e.layer.homeDevice != s.cascade.device then
    s.send { Message.plain 9 s.cascade.device e.layer.homeDevice (k.counter + k.claim % 2 ^ 32 * 2 ^ 8 + 2 ^ 40) [] with
             srcCore := core }
  else s

/-- Guard of the rows of a lane. -/
def laneRow (core array lane : Nat) (s : State) (f : Nat → Nat → LayerExec → State → State) : Result :=
  if lane < 128 then arrayRow core array s f else .fault .noSuchUnit

/-- Whether every lane of an array holds one tile. -/
def ArrayState.allOn (a : ArrayState) (ordinal tile : Nat) : Bool :=
  (List.range 128).all fun l => (a.lane l).active.any fun g => g.ordinal == ordinal && g.tile == tile

/-- Entries of a whole column. -/
def LayerExec.columnEntries (e : LayerExec) (k : Column) : Nat := k.tiles * e.perTile k

/-- Whether a lane may take its shadow registers: it is done with the tile it holds, and takes the next column's first
tile only once its part of the column in work is consumed (R37). -/
def LayerExec.switches (e : LayerExec) (k : Column) (x : Lane) (g : LaneReg) : Bool :=
  if g.ordinal = k.ordinal then x.tileDone k (e.perTile k)
  else x.active.all (fun h => h.ordinal ≤ k.ordinal) && x.taken == e.columnEntries k

/-- LANE_TILE_SWITCH: each lane by itself (R37). -/
def execLaneTileSwitch (core array lane : Nat) (s : State) : Result :=
  laneRow core array lane s fun _ _ e s =>
    let a := (s.core core).array array
    match a.column.or a.next, (a.lane lane).shadow with
    | some k, some g =>
      if !e.switches k (a.lane lane) g then s
      else
        let a := a.setLane lane { a.lane lane with active := some g, shadow := none, seen := 0, stepNo := 0 }
        let s := s.onCore core fun c => c.setArray array a
        if a.allOn g.ordinal g.tile && g.ordinal == k.ordinal && k.first < g.tile then s.renewClaim core e k else s
    | _, _ => s

/-- Whether two tiles make a residency: halves 0 and 1 of one output block and K offset (R50). -/
def isResidency (a b : QTile) : Bool :=
  let g := TileHdr.decode a.line
  let h := TileHdr.decode b.line
  !g.half && h.half && g.rowOffset == h.rowOffset && g.kOffset == h.kOffset

/-- RESIDENCY_LOAD: both tiles of the next residency into every lane, once every lane has done with the
present one (R50, R51, R58). -/
def execResidencyLoad (core array : Nat) (s : State) : Result :=
  arrayRow core array s fun rid _ e s =>
    let a := (s.core core).array array
    match a.column, a.queue with
    | some k, q0 :: q1 :: rest =>
      let done := (List.range 128).all fun l => (a.lane l).tileDone k (e.perTile k)
      if !e.layer.isTable || !done || !q0.checked || !q1.checked || q0.ordinal != k.ordinal || q1.ordinal != k.ordinal then s
      else if !isResidency q0 q1 then s.failRun rid .metaFault
      else
        let lanes := (List.range 128).map fun l =>
          let reg : LaneReg := { ordinal := k.ordinal, tile := q0.tile, pes := tableLane q0.payload q1.payload l }
          (l, { a.lane l with active := some reg, seen := 0, stepNo := 0 })
        let s := s.onCore core fun c => c.setArray array { a with queue := rest, lanes := lanes }
        if k.first < q0.tile then s.renewClaim core e k else s
    | _, _ => s

/-! ### Streams -/

/-- The stream number an array still needs of a band: of its column, or of the column it takes next (R39). -/
def Core.need (c : Core) (array band len : Nat) : Option Nat :=
  let a := c.array array
  let later : Option Nat := match a.next with
    | some k => if k.band = band ∧ k.attached then some (k.sweep * len) else none
    | none => if array / 8 = band ∧ !a.exhausted then some (c.startSweep array band * len) else none
  match a.column with
  | some k => if k.band = band ∧ a.feedAt < (k.sweep + 1) * len then some a.feedAt else later
  | none => later

/-- The arrays a band serves: its own and its guests (R41). -/
def Core.served (c : Core) (band : Nat) : List Nat := ((List.range 8).map (8 * band + ·)) ++ (c.band band).guests

/-- Vectors every attached array has taken leave the band FIFO (R39). -/
def Core.trimBand (c : Core) (band len : Nat) : Core :=
  let needs := (c.served band).filterMap fun a => c.need a band len
  let b := c.band band
  let last := b.fifoBase + b.fifo.length
  let keep := needs.foldl min last
  c.setBand band { b with fifo := b.fifo.drop (keep - b.fifoBase), fifoBase := max b.fifoBase keep }

/-- Whether an array of the band has settled what it does in a sweep: it is done, has claimed a column for this sweep or a
later one, or works for another band, its own list exhausted (R39 to R41). -/
def Core.settledFor (c : Core) (array band sweep : Nat) : Bool :=
  let a := c.array array
  let at_ (k : Column) : Bool := k.band != band || sweep ≤ k.sweep
  a.exhausted || a.column.any at_ || a.next.any at_

/-- Whether a band's next sweep begins: every own array has settled, and some attached array takes it. -/
def Core.sweepBegins (c : Core) (band sweep : Nat) : Bool :=
  ((List.range 8).all fun j => c.settledFor (8 * band + j) band sweep) &&
  ((c.served band).any fun a =>
    let x := c.array a
    let at_ (k : Column) : Bool := k.band == band && k.sweep == sweep && k.attached
    x.column.any at_ || x.next.any at_)

/-- The reader moved on by one vector: position, then K tile, then sweep (R39). -/
def BandState.advance (b : BandState) (positions tiles : Nat) : BandState :=
  if b.pos + 1 < positions then { b with pos := b.pos + 1 }
  else if b.tile + 1 < tiles then { b with pos := 0, tile := b.tile + 1 }
  else { b with pos := 0, tile := 0, sweep := b.sweep + 1 }

/-- Whether a layer step still has to write the tile of a column and block, whether it runs or drains (R142, R145). -/
def LayerExec.willWrite (t e : LayerExec) (r : Run) (column block : Nat) : Bool :=
  t.run == e.run && t.layer.output == e.layer.streamed && t.layer.drains && t.step < e.step &&
  t.columns.contains column && t.blocks.contains block && (!t.written.contains (column, block) || r.holdsBack t)

/-- Whether a stream vector reads a tile that the layer step before it, which the core has not completed yet, is still to
write on any of its cores (R145, R246; log entry 54). -/
def State.awaits (s : State) (core : Nat) (r : Run) (e : LayerExec) (block tile : Nat) : Bool :=
  e.source.isSome && (s.core core).tail.any (fun t => t.layer.output == e.layer.streamed) &&
  (List.range 6).any fun c =>
    let k := s.core c
    let own : List LayerExec := match k.running with | .layer _ _ t => [t] | _ => []
    (own ++ k.tail.toList).any fun t => (e.sourceColumns tile).any fun n => t.willWrite e r n block

/-- BAND_READ: the next vector of a band's stream (R39). -/
def execBandRead (core band : Nat) (s : State) : Result :=
  checked (core < 6 && band < 12) s (onlyIf s.working fun s =>
    withSome (s.layerOn core) s fun (rid, _, e) =>
      match e.bandBlock band, s.routeOf rid with
      | some j, some (r, x) =>
        let c := s.core core
        let b := c.band band
        let start := b.tile == 0 && b.pos == 0
        if e.finished || 16 ≤ b.fifo.length || (start && !c.sweepBegins band b.sweep) || s.awaits core r e j b.tile then s
        else match s.streamVector core x e j b.tile b.pos with
          | (s, .error (st, d)) => s.failRun rid st d
          | (s, .ok vs) =>
            let v : StreamVec := { sweep := b.sweep, tile := b.tile, pos := b.pos, values := vs }
            (s.perturbedOn core 1 1).onCore core fun c =>
              ((e.askStream band j b.tile b.pos c).setBand band ({ b with fifo := b.fifo ++ [v] }.advance (e.layer.positions j) e.layer.kTiles)).trimBand band
                (e.sweepLength j)
      | _, _ => s)

/-- The slot an array's next column fills: the parked one of its group, or a working slot that is free; a
scatter group takes none (R119, R137, R139, R144). -/
def ArrayState.slotFor (a : ArrayState) (e : LayerExec) (k : Column) : Option Nat :=
  if e.layer.continues then
    (List.range a.slots.length).find? fun i => (a.slots[i]?).any fun x =>
      x.role = .parked ∧ x.run = e.run ∧ x.group = e.layer.group ∧ x.column.any fun j => j.item == k.item && j.block == k.block
  else if 2 ≤ (a.slots.filter fun x => x.role = .filling ∨ x.role = .draining).length then none
  else (List.range a.slots.length).find? fun i => (a.slots[i]?).any fun x => x.role = .free

/-- A slot that starts to fill: cleared for a new column, kept for one that goes on (R137, R139). -/
def Slot.fill (x : Slot) (e : LayerExec) (k : Column) : Slot :=
  { role := .filling, group := e.layer.group, run := e.run, step := e.step, taken := true, complete := false, column := some k
    totals := if e.layer.continues then x.totals else [], flags := if e.layer.continues then x.flags else 0 }

/-- A lane at the start of a column. -/
def Lane.restart (x : Lane) : Lane := { x with taken := 0, stepNo := 0, runs := [], due := [] }

/-- An array starts its next column (R40, R144): nothing while it may not. -/
def ArrayState.begin (a : ArrayState) (e : LayerExec) (len : Nat) : ArrayState :=
  match a.column, a.next with
  | none, some k =>
    if !k.attached then a
    else
      let started : ArrayState := { a with
        column := some k, next := none, fed := [], fedBase := 0, feedAt := k.sweep * len, feedSlice := 0
        lanes := (List.range 128).map fun l => (l, (a.lane l).restart) }
      if e.layer.transposed then started
      else match a.slotFor e k with
        | none => a
        | some i => { started with slots := a.slots.set i (((a.slots[i]?).getD .empty).fill e k) }
  | _, _ => a

/-- The entry a lane FIFO takes of a stream vector: a slice of it for LOOSE, the activations of the column's
own rows for a transposed step (R38, R115, R118). -/
def LayerExec.entry (e : LayerExec) (k : Column) (v : StreamVec) (slice : Nat) : Fed :=
  let l := e.layer
  let vs := if l.transposed then (v.values.drop (128 * k.item.column)).take 128
    else if l.isLoose then (v.values.drop (slice * l.denseExtent)).take l.denseExtent
    else v.values
  { tile := v.tile, pos := v.pos, slice := slice, values := vs }

/-- One feed: an entry into the 128 lane FIFOs, or a vector of another part passed over (R38, R115). -/
def ArrayState.feed (a : ArrayState) (e : LayerExec) (k : Column) (v : StreamVec) : ArrayState :=
  let slices := if e.layer.transposed then 1 else e.layer.slices
  if v.tile < k.first ∨ k.first + k.tiles ≤ v.tile then { a with feedAt := a.feedAt + 1 }
  else if 8 ≤ a.fed.length then a
  else
    let a' := { a with fed := a.fed ++ [e.entry k v a.feedSlice] }
    if a.feedSlice + 1 < slices then { a' with feedSlice := a.feedSlice + 1 }
    else { a' with feedSlice := 0, feedAt := a.feedAt + 1 }

/-- FEED_VECTOR: one entry for every lane FIFO, when each has room; an array between columns starts its next
one first (R38, R40). -/
def execFeedVector (core array : Nat) (s : State) : Result :=
  arrayRow core array s fun _ _ e s =>
    let c := s.core core
    let band := match (c.array array).column, (c.array array).next with
      | some k, _ => some k
      | none, k => k
    withSome band s fun k =>
      let len := e.sweepLength k.block
      let a := (c.array array).begin e len
      match a.column with
      | none => s
      | some k =>
        let b := c.band k.band
        match (if a.feedAt < b.fifoBase then none else b.fifo[a.feedAt - b.fifoBase]?) with
        | none => s.setCore core (c.setArray array a)
        | some v =>
          if (k.sweep + 1) * len ≤ a.feedAt then s.setCore core (c.setArray array a)
          else (s.perturbedOn core 1 1).setCore core ((c.setArray array (a.feed e k v)).trimBand k.band len)

/-! ### Lanes -/

/-- Whether a lane steps for a position: in an exact phase only where its mask bit is 1 (R158). -/
def LayerExec.steps (e : LayerExec) (k : Column) (pos lane : Nat) : Bool :=
  !(e.condition == .postcard && !e.estimating) ||
    bitOf (Tab.getD 0 e.masks (cellKey k.block k.item.column * 64 + pos)) lane

/-- Whether a position's run ends with an entry: the last slice of the last tile of a run, or of the column
(R133, R134). -/
def LayerExec.runEnds (e : LayerExec) (k : Column) (v : Fed) : Bool :=
  (e.layer.transposed || v.slice + 1 == e.layer.slices) &&
  ((v.tile - k.first + 1) % max e.layer.runLength 1 == 0 || v.tile + 1 == k.first + k.tiles)

/-- An entry consumed by a lane; the position waits for its promotion where its run has ended. -/
def Lane.consume (x : Lane) (v : Fed) (ends : Bool) : Lane :=
  { x with taken := x.taken + 1, seen := x.seen + 1, stepNo := 0, due := if ends then x.due ++ [v.pos] else x.due }

/-- Entries every lane has consumed leave the FIFOs (R38). -/
def ArrayState.trimFed (a : ArrayState) : ArrayState :=
  let last := a.fedBase + a.fed.length
  let least := (List.range 128).foldl (fun m l => min m (a.lane l).taken) last
  { a with fed := a.fed.drop (least - a.fedBase), fedBase := max a.fedBase least }

/-- Whether every lane has consumed and promoted its whole column. -/
def LayerExec.columnWhole (e : LayerExec) (a : ArrayState) (k : Column) : Bool :=
  (List.range 128).all fun l => (a.lane l).taken == e.columnEntries k && (a.lane l).due.isEmpty

/-- The slot an array's column in work fills (R137). -/
def ArrayState.fillSlot (a : ArrayState) : Option Nat :=
  (List.range a.slots.length).find? fun i => (a.slots[i]?).any fun x => x.role = .filling ∧ !x.complete

/-- A column finished on its array: its slot waits for its band's drain channel, or is parked (R137, R139,
R143). -/
def State.finishColumn (s : State) (core array : Nat) (e : LayerExec) : State :=
  let c := s.core core
  let a := c.array array
  match a.column with
  | none => s
  | some k =>
    if !e.columnWhole a k then s
    else
      let a' := { a with column := none, fed := [], fedBase := 0 }
      if e.layer.transposed then ((s.setCore core (c.setArray array a')).columnDone core e k).advance core
      else match a.fillSlot with
        | none => s.setCore core (c.setArray array a')
        | some i =>
          let q := (a.slots[i]?).getD .empty
          if e.layer.leavesOpen then
            (s.setCore core (c.setArray array { a' with slots := a.slots.set i { q with role := .parked } })).advance core
          else s.setCore core ((c.setArray array ({ a' with slots := a.slots.set i { q with complete := true } }.turn)).onBand k.band
            fun b => { b with drain := b.drain ++ [(array, i)] })

/-- The entry a lane takes next, where it holds the entry's tile and the position awaits no promotion. -/
def ArrayState.entryOf (a : ArrayState) (k : Column) (lane : Nat) : Option (Fed × LaneReg) :=
  let x := a.lane lane
  match x.active, a.fed[x.taken - a.fedBase]? with
  | some g, some v =>
    if g.ordinal = k.ordinal ∧ g.tile = v.tile ∧ a.fedBase ≤ x.taken ∧ !x.due.contains v.pos then some (v, g) else none
  | _, _ => none

/-- The steps of a lane on an entry; an output that is not selected takes none (R30, R31, R118, R158). -/
def LayerExec.schedule (e : LayerExec) (k : Column) (lane : Nat) (v : Fed) (g : LaneReg) : List (Nat × Nat × Nat) :=
  if e.layer.transposed then (List.range (transposedSteps g.pes)).map fun d => (0, 0, d)
  else if e.steps k v.pos lane then laneSchedule e.layer g.pes v.values v.slice
  else []

/-- A step of a forward lane: the lane sum enters its run register (R28, R29, R131). -/
def LayerExec.stepLane (e : LayerExec) (v : Fed) (g : LaneReg) (at_ : Nat × Nat × Nat) (x : Lane) : Lane :=
  let key := runKey v.pos at_.2.1 at_.1
  { x with runs := Tab.setD 0 x.runs key (Tab.getD 0 x.runs key + laneSum e.layer g.pes v.values v.slice at_)
           stepNo := x.stepNo + 1 }

/-- The scatter updates a transposed lane issues in a step, lower PE first (R118, R121, Table 6-2). -/
def LayerExec.updates (e : LayerExec) (k : Column) (lane : Nat) (v : Fed) (g : LaneReg) (d : Nat) : List Record :=
  let l := e.layer
  (laneProducts g.pes (v.values.getD lane 0) d).map fun p =>
    { key := e.ownPosition k.block v.pos * l.kPadded + v.tile * l.tileK + p.2.1
      value := if l.scatterFp then (fpOfInt .even p.2.2).bits else ofInt32 p.2.2
      origin := (k.item.column * l.kTiles + v.tile) + lane * 2 ^ 26 + p.1 * 2 ^ 33 + (64 * k.block + v.pos) * 2 ^ 40 }

/-- LANE_STEP: one step of a lane on its entry, and the entry consumed after its last one; a lane that costs
no step consumes it at once (R28 to R31, R53, R115, R118, R158). -/
def execLaneStep (core array lane : Nat) (s : State) : Result :=
  laneRow core array lane s fun _ _ e s =>
    let c := s.core core
    let a := c.array array
    withSome a.column s fun k =>
      withSome (a.entryOf k lane) s fun (v, g) =>
        let steps := e.schedule k lane v g
        let x := a.lane lane
        let refused := e.layer.transposed && c.scatter.any fun q => !q.waiting.isEmpty
        if refused then s
        else
          let x1 := match steps[x.stepNo]? with
            | none => x
            | some at_ => if e.layer.transposed then { x with stepNo := x.stepNo + 1 } else e.stepLane v g at_ x
          let us := if e.layer.transposed then (match steps[x.stepNo]? with
            | some at_ => e.updates k lane v g at_.2.2
            | none => []) else []
          let x2 := if x1.stepNo < steps.length then x1
            else x1.consume v (!e.layer.transposed && e.runEnds k v)
          let c := (c.setArray array ((a.setLane lane x2).trimFed))
          let c := { c with scatter := c.scatter.map fun q => { q with waiting := q.waiting ++ us } }
          ((s.perturbedOn core 1 0).setCore core c).finishColumn core array e

/-- A lane's due positions promoted into its slot's totals: the lane, the totals and the saturations (R134,
R135). -/
def LayerExec.promoteLane (e : LayerExec) (lane : Nat) (x : Lane) (totals : Table Int) : Lane × Table Int × Nat :=
  x.due.foldl (fun acc pos =>
    let key := lane * 64 + pos
    let (t, n, runs) := promoteAll e.layer pos (Tab.getD 0 acc.2.1 key) acc.1.runs
    ({ acc.1 with runs := runs }, Tab.setD 0 acc.2.1 key t, acc.2.2 + n)) ({ x with due := [] }, totals, 0)

/-- RUN_PROMOTION: the run registers of the positions whose runs have ended into their totals; a saturated
estimate is not counted (R134 to R136, R157). -/
def execRunPromotion (core array lane : Nat) (s : State) : Result :=
  laneRow core array lane s fun rid _ e s =>
    let a := (s.core core).array array
    match a.fillSlot with
    | none => s
    | some i =>
      let q := (a.slots[i]?).getD .empty
      let x := a.lane lane
      if x.due.isEmpty then s
      else
        let (x', totals, n) := e.promoteLane lane x q.totals
        let q' := { q with totals := totals
                           flags := if n = 0 ∨ e.estimating then q.flags else q.flags ||| 2 ^ lane }
        let a' := { a.setLane lane x' with slots := a.slots.set i q' }
        let s := s.onCore core fun c => c.setArray array a'
        (if e.estimating then s else s.countSats core rid n).finishColumn core array e

end Sys2Proof.Machine
end

