-- ==== Sys2Proof/Machine/Rings.lean ====
section
/-! DEFINITION. The ring registers, coalescing windows and Bus Master Enable (R284 to R288, R296, R420,
R425). A row whose caller may not write the block has no effect (Table 20-2). -/

namespace Sys2Proof.Machine

/-- Whether BAR0 is mapped: from the end of the boot chain (R441, R447). -/
def State.bar0 (s : State) : Bool :=
  s.power.boot == .booted || s.power.boot == .trained || s.power.boot == .scrubbed || s.power.boot == .ready

/-- Whether a function may write a ring block: function 0 any, another its own (Table 20-2). -/
def ringView (caller ring : Nat) : Bool := caller == 0 || caller == ring

/-- Guard of the ring rows: the units exist, BAR0 is mapped and the caller may write the block. -/
def ringRow (caller ring : Nat) (s : State) (f : State → State) : Result :=
  checked (caller ≤ 6 && ring ≤ 6) s (onlyIf (s.bar0 && ringView caller ring) f)

/-- A submission doorbell (R287). -/
def State.writeTail (s : State) (r value : Nat) : State :=
  if value < 2 ^ (s.ring r).sqLog then s.onRing r fun x => { x with sqTail := value }
  else (s.onRing r fun x => { x with tailErr := true }).msix r 60

/-- A completion doorbell (R287). -/
def State.writeHead (s : State) (r value : Nat) : State :=
  let x := s.ring r
  let depth := 2 ^ x.cqLog
  if value < depth ∧ ringUsed depth value x.cqHead ≤ ringUsed depth x.cqTail x.cqHead then
    s.onRing r fun x => { x with cqHead := value }
  else (s.onRing r fun x => { x with headErr := true }).msix r 60

/-- ENABLE written (R286): set, every index becomes 0 and the phase 1; cleared, nothing more is read. -/
def State.writeCtrl (s : State) (r value : Nat) : State :=
  s.onRing r fun x =>
    if bitOf value 0 && !x.enable then
      { x with enable := true, sqTail := 0, sqHead := 0, cqHead := 0, cqTail := 0, phase := 1 }
    else { x with enable := bitOf value 0 }

/-- RING_SQ_TAIL_WRITE. -/
def execRingSqTailWrite (caller ring value : Nat) (s : State) : Result :=
  ringRow caller ring s fun s => s.writeTail ring (value % 2 ^ 16)

/-- RING_CQ_HEAD_WRITE. -/
def execRingCqHeadWrite (caller ring value : Nat) (s : State) : Result :=
  ringRow caller ring s fun s => s.writeHead ring (value % 2 ^ 16)

/-- RING_CTRL_WRITE. -/
def execRingCtrlWrite (caller ring value : Nat) (s : State) : Result :=
  ringRow caller ring s fun s => s.writeCtrl ring value

/-- RING_AP_BASE_WRITE: bits [63:20] (R423, Table 23-5). -/
def execRingApBaseWrite (caller ring value : Nat) (s : State) : Result :=
  ringRow caller ring s fun s =>
    s.onRing ring fun x => { x with apBase := field value 63 20 * 2 ^ 20 }

/-- COALESCE_WINDOW_EXPIRE: the message a window holds back, once its end has come (R296). -/
def execCoalesceWindowExpire (function vector : Nat) (s : State) : Result :=
  checked (function ≤ 6 && vector ≤ 59) s fun s =>
    withSome (Tab.find vector (s.fn function).windows) s fun w =>
      if w.2 ≤ s.now then s.completionMsix function vector else s

/-- The command whose completion a function writes next (R293). -/
def State.nextEnded (s : State) (f : Nat) : Option (Nat × Cmd) :=
  let es := s.cmds.filter fun e => e.2.fn = f && e.2.relay.isNone && e.2.phase = .ended
  es.find? fun e => es.all fun o => e.2.ended ≤ o.2.ended

/-- Every held completion of a function, in the order of completion (R420). -/
def State.writeHeld (f : Nat) : Nat → State → State
  | 0, s => s
  | n + 1, s =>
    match s.nextEnded f with
    | none => s
    | some (id, c) => State.writeHeld f n (s.writeCompletion id c)

/-- BUS_MASTER_ENABLE_CHANGE: going to 1, the held completions and messages are written (R420). -/
def execBusMasterEnableChange (function : Nat) (on : Bool) (s : State) : Result :=
  checked (function ≤ 6) s fun s =>
    let s := s.onFn function fun x => { x with busMaster := on }
    if on then State.writeHeld function 256 (s.flushMsix function) else s

end Sys2Proof.Machine
end

