-- ==== Sys2Proof/Machine/Scatter.lean ====
section
/-! DEFINITION. Scatter groups: the pigeonholes, the overflow sack and the sorting frame, and their rows
(R119 to R130). -/

namespace Sys2Proof.Machine

/-! ### The pigeonholes -/

/-- The set of a key, and the bank of a set (R121). -/
def pigeonSet (k : Nat) : Nat := field k 13 0 ^^^ field k 27 14 ^^^ field k 31 28
def pigeonBank (set : Nat) : Nat := set % 16

/-- An INT32 addition limited to ±(2^31 − 1), and whether it was (R123). -/
def satAdd (a b : Int) : Int × Bool := (limit32 (a + b), limit32 (a + b) != a + b)

/-- A set after an update: held key refreshed, or a way taken, the least recent one spilled when none is free
(R122): the set, the spill, the saturations. -/
def updateSet (ways : List (Nat × Int)) (key : Nat) (v : Int) : List (Nat × Int) × Option (Nat × Int) × Nat :=
  match ways.find? fun w => w.1 == key with
  | some w =>
    let (x, sat) := satAdd w.2 v
    ((key, x) :: ways.filter (fun w => w.1 != key), none, bit sat)
  | none =>
    if ways.length < 4 then ((key, v) :: ways, none, 0)
    else ((key, v) :: ways.take 3, ways[3]?, 0)

/-- The run a core's scatter group works for. -/
def State.scatterRun (s : State) (core : Nat) : Option Nat := (s.core core).running.run

/-- The scatter group of a core changed. -/
def State.onScatter (s : State) (core : Nat) (f : Scatter → Scatter) : State :=
  s.onCore core fun c => { c with scatter := c.scatter.map f }

/-- Whether the scatter group's run is in exact mode. -/
def State.scatterExact (s : State) (rid : Nat) : Bool := (s.run rid).any fun r => (s.route r.route).any (·.exact)

/-- A key beyond the destination: dropped and counted (R119). -/
def State.dropUpdate (s : State) (core rid : Nat) (r : Record) : State :=
  let s := s.onScatter core fun g => { g with waiting := g.waiting.erase r }
  let s := s.countCore core 39 0
  if s.scatterExact rid then s.failRun rid .metaFault else s.notice rid 2

/-- One update taken by its bank (R121 to R123). -/
def State.pigeonUpdate (s : State) (core rid : Nat) (r : Record) : State :=
  let c := s.core core
  let set := pigeonSet r.key
  let (ways, spill, sats) := updateSet (Tab.getD [] c.pigeons set) r.key (int32 r.value)
  let spilled : List Record := spill.toList.map fun w => { key := w.1, value := ofInt32 w.2, origin := 0 }
  let c := { c with pigeons := Tab.put set ways c.pigeons }
  let c := { c with scatter := c.scatter.map fun g =>
      { g with waiting := g.waiting.erase r, spills := g.spills ++ spilled } }
  (((s.setCore core c).countCore core 39 1).countSats core rid sats)

/-- PIGEONHOLE_UPDATE: the oldest update that reaches a bank (R121, R122). -/
def execPigeonholeUpdate (core bank : Nat) (s : State) : Result :=
  checked (core < 6 && bank < 16) s (onlyIf s.working fun s =>
    match (s.core core).scatter, s.scatterRun core with
    | some g, some rid =>
      if g.sorting then s
      else withSome (g.waiting.find? fun r => pigeonBank (pigeonSet r.key) == bank) s fun r =>
        if g.destCount ≤ r.key then s.dropUpdate core rid r
        else (s.perturbedOn core 1 5).pigeonUpdate core rid r
    | _, _ => s)

/-! ### The sack -/

/-- Bytes of a record, and the record (Table 6-2). -/
def Scatter.recordBytes (g : Scatter) : Nat := if g.sorting then 16 else 8
def Scatter.encode (g : Scatter) (r : Record) : Bytes :=
  leBytes 4 r.key ++ leBytes 4 r.value.toNat ++ if g.sorting then leBytes 8 r.origin else []
def Scatter.decode (g : Scatter) (b : Bytes) : Record :=
  { key := leAt b 0 4, value := BitVec.ofNat 32 (leAt b 4 4), origin := if g.sorting then leAt b 8 8 else 0 }

/-- A record put into the sack; a full sack ends the run (R124). -/
def State.sackWrite (s : State) (core rid : Nat) (g : Scatter) (r : Record) : State :=
  if g.capacity ≤ g.sackCount then (s.countCore core 39 4).failRun rid .sackFull
  else
    match s.writePad core g.sackH (g.sackCount * g.recordBytes) (g.encode r) with
    | none => s.failRun rid .badParam
    | some s =>
      (s.countCore core 39 (if g.sorting then 3 else 2)).onScatter core fun g =>
        { g with sackCount := g.sackCount + 1
                 waiting := if g.sorting then g.waiting.drop 1 else g.waiting
                 spills := if g.sorting then g.spills else g.spills.drop 1 }

/-- SACK_RECORD_WRITE: the oldest spill, or in sorting-frame mode the oldest update, as a record (R124, R127). -/
def execSackRecordWrite (core : Nat) (s : State) : Result :=
  checked (core < 6) s (onlyIf s.working fun s =>
    match (s.core core).scatter, s.scatterRun core with
    | some g, some rid =>
      withSome (if g.sorting then g.waiting.head? else g.spills.head?) s fun r =>
        if g.sorting && g.destCount ≤ r.key then s.dropUpdate core rid r
        else (s.perturbedOn core 1 5).sackWrite core rid g r
    | _, _ => s)

/-! ### The sorting frame -/

/-- The sack's records in the order they were written (R125). -/
def Core.sackRecords (c : Core) (g : Scatter) : List Record :=
  (List.range g.sackCount).map fun i =>
    g.decode ((c.readPad g.sackH (i * g.recordBytes) g.recordBytes).getD [])

/-- The pigeonholes' entries: ascending set, most recently updated way first (R125). -/
def Core.residents (c : Core) : List Record :=
  c.pigeons.flatMap fun e => e.2.map fun w => { key := w.1, value := ofInt32 w.2, origin := 0 }

/-- Whether a core's scatter group may close: every update and record issued has arrived (R125). -/
def Core.canClose (c : Core) (g : Scatter) : Bool :=
  g.issued && g.waiting.isEmpty && g.spills.isEmpty && g.phase == .updating &&
    match c.running with
    | .layer _ _ e => e.finished
    | .scattering _ _ => true
    | _ => false

/-- SCATTER_GROUP_CLOSE: the pigeonholes' entries follow the sack's records into the sorting frame (R125). -/
def execScatterGroupClose (core : Nat) (s : State) : Result :=
  checked (core < 6) s (onlyIf s.working fun s =>
    let c := s.core core
    withSome c.scatter s fun g =>
      if !c.canClose g then s
      else
        let rs := c.sackRecords g ++ if g.sorting then [] else c.residents
        s.setCore core { c with
          pigeons := [], scatter := some { g with phase := .merging (rs.map fun r => [r]) 0 } })

/-- Whether a record stands before another: by key, and in sorting-frame mode by origin (R126). -/
def recordBefore (sorting : Bool) (a b : Record) : Bool := a.key < b.key || (sorting && a.key == b.key && a.origin < b.origin)

/-- A record put behind every record that does not follow it: equal ones keep their entry order. -/
def insertOrdered (sorting : Bool) (r : Record) : List Record → List Record
  | [] => [r]
  | q :: qs => if recordBefore sorting r q then r :: q :: qs else q :: insertOrdered sorting r qs

/-- The left fold of one key's records, in order: the sum and the saturations (R126). -/
def foldLeft (acc : List Record × Nat) (r : Record) : List Record × Nat :=
  match acc.1.getLast? with
  | some q =>
    if q.key = r.key then
      let (v, sat) := satAdd (int32 q.value) (int32 r.value)
      (acc.1.dropLast ++ [{ q with value := ofInt32 v }], acc.2 + bit sat)
    else (acc.1 ++ [r], acc.2)
  | none => ([r], acc.2)

/-- Up to sixteen runs merged into one (R125, R126). -/
def mergeRuns (sorting : Bool) (runs : List (List Record)) : List Record × Nat :=
  let all := runs.flatten.foldl (fun acc r => insertOrdered sorting r acc) []
  if sorting then (all, 0) else all.foldl foldLeft ([], 0)

/-- The runs cut into groups of sixteen; `n` bounds them. -/
def sixteens : Nat → List (List Record) → List (List (List Record))
  | 0, _ => []
  | n + 1, runs => if runs.isEmpty then [] else runs.take 16 :: sixteens n (runs.drop 16)

/-- One pass (R125): the merged runs and the saturations. -/
def mergePass (sorting : Bool) (runs : List (List Record)) : List (List Record) × Nat :=
  let ms := (sixteens runs.length runs).map (mergeRuns sorting)
  (ms.map (·.1), (ms.map (·.2)).sum)

/-- The records a pass leaves in the buffer it writes: the merge buffer, then the sack, in turn (R125). -/
def State.passBuffer (s : State) (core : Nat) (g : Scatter) (pass : Nat) (runs : List (List Record)) : State :=
  let h := if pass % 2 = 0 then g.mergeH else g.sackH
  let room := ((s.core core).handle h).elim 0 Handle.bytes
  let bytes := (runs.flatten.flatMap g.encode).take room
  (s.writePad core h 0 bytes).getD s

/-- A record's value added to a destination element: the sum and the saturations (R119, R126). -/
def Scatter.sum (g : Scatter) (old value : Word) : Word × Nat :=
  if g.isFp then ((fpAdd old value).bits, 0)
  else
    let (v, sat) := satAdd (int32 old) (int32 value)
    (ofInt32 v, bit sat)

/-- A record added into its destination element, on a count of saturations; none where the element lies outside its handle
(R119, R126, R191). -/
def Core.addTo (q : Core × Nat) (g : Scatter) (r : Record) : Option (Core × Nat) :=
  let at_ := g.destOff + 4 * r.key
  (q.1.readPad g.destH at_ 4).bind fun b =>
    let (new, n) := g.sum (BitVec.ofNat 32 (leNat b)) r.value
    (q.1.writePad g.destH at_ (leBytes 4 new.toNat)).map fun c => (c, q.2 + n)

/-- What follows a finished group: a SCATTER_ADD has ended, a layer step waits for its completion. -/
def Core.groupDone (c : Core) : Core :=
  { c with scatter := none
           running := match c.running with
             | .scattering rid i => .vectorDone rid i
             | r => r }

/-- SORTING_FRAME_PASS: one merge pass; the last adds each key's result into the destination, in ascending
key order (R125, R126). -/
def execSortingFramePass (core : Nat) (s : State) : Result :=
  checked (core < 6) s (onlyIf s.working fun s =>
    match (s.core core).scatter, s.scatterRun core with
    | some g, some rid => match g.phase with
      | .updating => s
      | .merging runs pass =>
        let (out, sats) := mergePass g.sorting runs
        let s := (s.perturbedOn core 1 5).countSats core rid sats
        if out.length ≤ 1 then
          match out.flatten.foldlM (fun q r => Core.addTo q g r) (s.core core, 0) with
          | none => s.failRun rid .badParam
          | some (c, n) => (s.setCore core c.groupDone).countSats core rid n
        else
          (s.passBuffer core g pass out).onScatter core fun g => { g with phase := .merging out (pass + 1) }
    | _, _ => s)

end Sys2Proof.Machine
end

