-- ==== Sys2Proof/Machine/Steps.lean ====
section
/-! DEFINITION. The end of a route step: the excursion test, the replay of a layer step, the tracker, and the
handover of a frame's result (R72, R75 to R84, R275, R276, R347). -/

namespace Sys2Proof.Machine

/-! ### The test of a converted tensor -/

/-- One converted tensor at the end of an attempt: its target, whether M is an integer, qmax, statistics, and
those of the first attempt where this was a replay. -/
structure Trial where
  target : Target
  intM : Bool
  qmax : Nat
  stats : Stats
  first : Option Stats
  deriving DecidableEq, Repr

/-- Whether the run's first attempt had an excursion (R77, R84). -/
def Trial.excursion (t : Trial) : Bool := (t.first.getD t.stats).excursion t.target

/-- How the tensor's run ended (R78, R79, Table 4-6). -/
def Trial.outcome (t : Trial) (p : Policy) : Excursion :=
  if t.first.isSome then .replayed
  else if !t.excursion then .none
  else if p = .stop then .stopped else .noted

/-- Whether the step is to be replayed: a first excursion under REPLAY with a non-zero M (R78, R79). -/
def Trial.replays (t : Trial) (p : Policy) : Bool :=
  t.first.isNone && t.excursion && p == .replay && t.stats.maxAbs != 0

/-- p of R78. -/
def Trial.p (t : Trial) : Word := substitute t.intM t.qmax t.stats.maxAbs

/-! ### Records of other devices -/

/-- Tracker records among tiles that lie end to end in a handle: of each sealed STATE tile whose chunk is one of tracker
records. At most `n` tiles are read, and the first bytes that are no sealed tile end the row of tiles; a chunk of a reserved
KIND or a wrong length, or a damaged STATE tile, ends the command (R110, R229). -/
def Core.trackerRecords (c : Core) (handle : Nat) : Nat → Nat → Nat → Except (Status × TileCheck) (List Bytes)
  | 0, _, _ => .ok []
  | n + 1, off, stop =>
    if stop < off + 64 then .ok []
    else
      let h := TileHdr.decode ((c.readPad handle off 64).getD [])
      let chunk := h.magic == sealedMagic && h.format == Format.state.code && h.element == 0x31
      match c.padTile handle off {} with
      | .error e => if chunk then .error e else .ok []
      | .ok (h, p) =>
        if chunk && !chunkOk p then .error (.metaFault, .metaFault)
        else (c.trackerRecords handle n (off + h.span) stop).map fun rs =>
          (if chunk && leAt p 0 1 == 1 then pieces 32 (leAt p 8 4) (p.drop 16) else []) ++ rs

/-- Where the tiles of a letterbox's delivered and unreleased writes begin and end: the slots in turn, or the whole
window (R202, R203). -/
def Letterbox.held (b : Letterbox) : List (Nat × Nat) :=
  let d := (b.delivery + 2 ^ 32 - b.consumed) % 2 ^ 32
  if b.shape.slotSize = 0 then (if d = 0 then [] else [(b.shape.offset, b.shape.offset + b.shape.length)])
  else
    let n := b.shape.length / b.shape.slotSize
    (List.range (min d n)).map fun i =>
      let at_ := b.shape.offset + (b.consumed + i) % n * b.shape.slotSize
      (at_, at_ + b.shape.slotSize)

/-- The records in a letterbox of a core. -/
def State.boxRecords (s : State) (core box : Nat) : Except (Status × TileCheck) (List Bytes) :=
  let c := s.core core
  match Tab.find box c.boxes with
  | none => .ok []
  | some b =>
    if b.shape.senders.any fun w => field w 15 13 == 4 then
      (b.held.mapM fun a => c.trackerRecords b.shape.handle (b.shape.length / 64) a.1 a.2).map List.flatten
    else .ok []

/-- The records of a tensor that other devices have given to a run's tracker at work for some cores: those in the
letterboxes of its route on these cores that name a class 4 sender; more than 64 of them end the command (R86, R187, R210;
log entry 51). -/
def State.givenTo (s : State) (rid : Nat) (cores : List Nat) (tensor : Nat) : Except (Status × TileCheck) (List Bytes) :=
  match s.routeOf rid with
  | none => .ok []
  | some (_, x) =>
    ((x.image.boxes.filter fun e => cores.contains e.core).mapM fun e => s.boxRecords e.core e.number).bind fun rs =>
      let mine := rs.flatten.filter fun r => leAt r 26 2 == tensor
      if 64 < mine.length then .error (.badParam, .good) else .ok mine

/-- The statistics of a record (Table 4-6). -/
def recordStats (b : Bytes) : Stats := { n := leAt b 0 4, clipped := leAt b 4 4, zeros := leAt b 8 4, maxAbs := leAt b 12 4 }

/-- The tracker's record and output SCALE entry of a tensor after its final attempt, over the records it is given of
other devices (R76, R84, R86). -/
def Run.track (r : Run) (t : Trial) (given : List Bytes) (e : ScaleEntry) : Run :=
  let st := given.foldl (fun st b => st.combine (recordStats b)) t.stats
  let e' := trackEntry t.target t.intM t.qmax e st (t.excursion || given.any fun b => leAt b 24 1 % 4 != 0)
  let f := t.first.getD t.stats
  let rec_ := trackRecord t.target e.tensor st e.scale e'.scale (t.outcome e.policy)
    (t.target.isInteger && f.clipTest) (t.target.isInteger && f.zeroTest)
  { (r.putScale e') with records := r.records ++ [rec_] }

/-! ### The tracker -/

/-- The tracker's work for a tensor after its final attempt: its entry and record written, counts and notice (R76 to R78,
R84, R86, R88). -/
def State.trackTensor (s : State) (core rid : Nat) (t : Trial) (e : ScaleEntry) (given : List Bytes) : State :=
  let s := s.onRun rid fun r => r.track t given e
  let s := ((s.countCore core 38 0 t.stats.clipped).countCore core 38 1 t.stats.zeros).countCore core 38 2 (bit t.excursion)
  let s := match t.outcome e.policy with
    | .noted | .replayed => s.notice rid 4
    | _ => s
  s.trackerWrites rid

/-! ### The end of a layer step -/

/-- Whether a layer step has done all its work on a core: it is the one that still drained, or the one in work with none
before it. -/
def State.layerReady (s : State) (rid i core : Nat) : Bool :=
  let c := s.core core
  let first := c.tail.all fun t => t.run == rid && t.step == i
  first && (c.tail.isSome || c.scatter.isNone) && (c.execFor rid i).any (·.finished)

/-- The execution records of a layer step's cores. -/
def State.layerExecs (s : State) (rid i : Nat) (cores : List Nat) : List (Nat × LayerExec) :=
  cores.filterMap fun c => ((s.core c).execFor rid i).map fun e => (c, e)

/-- The statistics of a layer step over its cores (R76). -/
def combinedStats (es : List (Nat × LayerExec)) : Stats := es.foldl (fun st e => st.combine e.2.stats) {}

/-- The tensor a layer step has converted; none where it converts nothing or leaves its group open. -/
def layerTrial (es : List (Nat × LayerExec)) : Option Trial :=
  match es.head? with
  | none => none
  | some (_, e) =>
    if !e.layer.converts || e.layer.leavesOpen then none
    else (Target.ofCode e.layer.target).map fun t =>
      { target := t, intM := !e.layer.scaleStage, qmax := e.layer.qmax, stats := combinedStats es
        first := if e.attempt = 0 then none else some e.before }

/-- A core's arrays as they stood when the layer step began (R79, R139). -/
def Core.rewind (c : Core) (e : LayerExec) : Core :=
  { c with arrays := e.base.map fun a => (a.1, { ArrayState.idle with slots := a.2 }), bands := [] }

/-- The whole layer step once more on each of its cores, with p for the tensor's scale (R79, R80). -/
def State.replayLayer (s : State) (rid i : Nat) (x : Route) (es : List (Nat × LayerExec)) (tensor : Nat) (t : Trial) :
    State :=
  let s := s.onRun rid fun r => { r with used := Tab.put tensor t.p r.used, armings := Tab.erase i r.armings }
  es.foldl (fun s e =>
    match s.run rid with
    | none => s
    | some r => match r.steps[i]? with
      | some (.layer l) =>
        let s := s.onCore e.1 fun c => c.rewind e.2
        (s.startLayer e.1 rid i r x l 1).onExec e.1 fun n => { n with before := t.stats }
      | _ => s) s

/-- Output tiles whose seals waited for the excursion test, sealed (R81, R151). -/
def State.sealAll (s : State) (x : Route) (r : Run) (es : List (Nat × LayerExec)) : Option State :=
  es.foldlM (fun s e =>
    if r.holdsBack e.2 && !e.2.layer.raw then e.2.written.foldlM (fun s w => s.sealOut e.1 x e.2 w.1 w.2) s
    else some s) s

/-- A layer step ended on all its cores: its group closes, and the run goes on (R138, R276). -/
def State.endLayer (s : State) (rid i : Nat) (es : List (Nat × LayerExec)) : State :=
  let s := es.foldl (fun s e => s.onCore e.1 fun c =>
    { c with groups := if e.2.layer.leavesOpen then c.groups
                       else c.groups.filter fun g => g.run != rid || g.label != e.2.layer.group }) s
  s.stepEnds rid i (es.map (·.1))

/-- A layer step complete on its cores: the excursion test, then a replay, a stop, or its end; a tracker given too
many records ends the command (R77 to R81, R86). -/
def State.completeLayer (s : State) (rid i : Nat) (r : Run) (x : Route) (es : List (Nat × LayerExec)) : State :=
  let core := (es.head?.map (·.1)).getD 0
  let tensor := (es.head?.map (·.2.layer.output)).getD noId
  match layerTrial es, findScale r.scales tensor with
  | some t, some e =>
    if t.replays e.policy then s.replayLayer rid i x es tensor t
    else match s.givenTo rid (es.map (·.1)) tensor with
      | .error (st, c) => (s.countTile x.partition c).failRun rid st
      | .ok given =>
        let s := s.trackTensor core rid t e given
        if (s.run rid).isNone then s
        else if t.outcome e.policy = .stopped then s.failRun rid .scaleStop
        else match s.sealAll x r es with
          | none => s.refusedRun rid
          | some s => s.endLayer rid i es
  | _, _ => s.endLayer rid i es

/-- The layer step of a core that may complete: the one that still drains before the one in work. -/
def State.layerDue (s : State) (core : Nat) : Option LayerExec :=
  (s.core core).tail.or ((s.layerOn core).map (·.2.2))

/-- A layer step ends once it is done on all its cores. -/
def State.endsLayer (s : State) (e : LayerExec) : State :=
  let cores := bitsOf 6 e.layer.cores
  if !cores.all (s.layerReady e.run e.step) then s
  else withSome (s.routeOf e.run) s fun q => s.completeLayer e.run e.step q.1 q.2 (s.layerExecs e.run e.step cores)

/-- ROUTE_STEP_COMPLETE: a route step has reached its end on a core; a layer step ends on all its cores
together (R76, R276). -/
def execRouteStepComplete (core : Nat) (s : State) : Result :=
  checked (core < 6) s (onlyIf s.working fun s =>
    match (s.core core).running with
    | .vectorDone rid i => s.stepEnds rid i [core]
    | _ => withSome (s.layerDue core) s fun e => s.endsLayer e)

/-! ### Dispatch -/

/-- Whether the layer step in work on a core has nothing left but drains, so that the next one may begin beside them: not
one that may be replayed, estimates, scatters, leaves its group open or builds lists that the next one reads (R79, R142,
R145; log entry 54). -/
def State.onlyDrains (s : State) (core : Nat) : Option LayerExec :=
  match s.layerOn core with
  | none => none
  | some (rid, _, e) =>
    let c := s.core core
    let replay := (s.run rid).any fun r => e.attempt == 0 && (findScale r.scales e.layer.output).any (·.policy == .replay)
    if c.tail.isSome || c.scatter.isSome || e.finished || e.estimating || e.layer.leavesOpen || e.listF != 0 || replay ||
        e.round + 1 < rounds e.order e.share || !(List.range 96).all (e.spent c) then none
    else some e

/-- A core made ready for a step: what still drains goes on beside it. -/
def Core.readyFor (c : Core) (rid i : Nat) (drains : Option LayerExec) : Core :=
  { c with running := .ready rid i, tail := drains.or c.tail }

/-- Whether a core may begin a step: it is between steps, and a step other than a layer step waits for every drain. -/
def State.mayBegin (s : State) (core : Nat) (st : RouteStep) : Bool :=
  match st with
  | .layer _ => (s.core core).running == .idle || (s.onlyDrains core).isSome
  | _ => (s.core core).running == .idle && (s.core core).tail.isNone

/-- ROUTE_STEP_DISPATCH: a core between steps, or whose layer step only drains, starts the next one; no route step starts
in a reserved slot (R145, R276, R280). The step's own row then carries it out. -/
def execRouteStepDispatch (core : Nat) (s : State) : Result :=
  checked (core < 6) s (onlyIf s.working fun s =>
    withSome (s.candidate core) s fun (rid, r, i, st) =>
      if !s.mayBegin core st || (st.counts && s.slotTime < 200000) then s
      else
        let go (s : State) : State := s.onCore core fun c => c.readyFor rid i (s.onlyDrains core)
        if r.started then go s
        else match s.route r.route with
          | none => s
          | some x => match s.startRun rid r x with
            | .error s => s
            | .ok s => go s)

/-! ### Handing over a frame's result -/

/-- Bytes combined bit by bit. -/
def xorBytes (a b : Bytes) : Bytes := (List.zip a b).map fun p => p.1 ^^^ p.2

/-- The fixed header of an RTP result packet (R347): version 2, no padding, extension, CSRC or marker. -/
def rtpHeader (pt seq stamp ssrc : Nat) : Bytes :=
  beBytes 1 0x80 ++ beBytes 1 (pt % 128) ++ beBytes 2 (seq % 2 ^ 16) ++ beBytes 4 (stamp % 2 ^ 32) ++ beBytes 4 ssrc

/-- The SRTP nonce of a packet: SSRC and packet index, combined with the salt (R344; RFC 7714). -/
def rtpNonce (salt : Bytes) (ssrc index : Nat) : Bytes :=
  xorBytes (slice salt 0 12) (zeros 2 ++ beBytes 4 ssrc ++ beBytes 6 (index % 2 ^ 48))

/-- The keys of a key session's outbound direction: the key and the salt (Table 19-5). -/
def State.outboundKeys (s : State) (p key : Nat) : Bytes × Bytes :=
  match Tab.find key (s.part p).keys with
  | some k => (k.keys.getD 4 [], k.keys.getD 5 [])
  | none => ([], [])

/-- The next hop towards a peer: the peer itself inside the port's prefix, otherwise the port's gateway; none where the
port has no address of the family, or no gateway for a peer outside its prefix (R340, R347; log entry 52). -/
def Addressing.nextHop (a : Addressing) (v6 : Bool) (peer : Nat) : Option Nat :=
  if v6 then
    match a.v6Hi, a.v6Lo, a.gw6Hi, a.gw6Lo with
    | some own, some _, hi, lo =>
      if peer / 2 ^ 64 = own then some peer else hi.bind fun hi => lo.map fun lo => hi * 2 ^ 64 + lo
    | _, _, _, _ => none
  else
    match a.ipv4 with
    | some (own, len) => if peer / 2 ^ (32 - len) = own / 2 ^ (32 - len) then some peer else a.gw4
    | none => none

def State.nextHop (s : State) (port : Nat) (v6 : Bool) (peer : Nat) : Option Nat := (s.port port).addressing.nextHop v6 peer

/-- The key of an address among a port's neighbours. -/
def hopKey (v6 : Bool) (address : Nat) : Nat := 2 * address + bit v6

/-- The MAC address of the next hop towards a peer, where the link is up and the next hop has answered (Table 16-1; log
entry 52). -/
def State.resolved (s : State) (port : Nat) (v6 : Bool) (peer : Nat) : Option Nat :=
  if (s.port port).up then (s.nextHop port v6 peer).bind fun a => Tab.find (hopKey v6 a) (s.port port).neighbours else none

/-- A question for the MAC address of the next hop towards a peer, where the link is up, there is one and none is known
(Table 16-1; log entry 52). -/
def State.askHop (s : State) (port : Nat) (v6 : Bool) (peer : Nat) : State :=
  if !(s.port port).up || (s.resolved port v6 peer).isSome then s
  else match s.nextHop port v6 peer with
    | none => s
    | some a => s.emit (.solicit port v6 a)

/-- A datagram sent to the next hop towards its peer; one whose next hop is not resolved is dropped and asked for
(R347; log entry 52). -/
def State.sendVia (s : State) (port : Nat) (v6 : Bool) (peer : Nat) (o : Nat → Out) : State :=
  match s.resolved port v6 peer with
  | some mac => s.emit (o mac)
  | none => s.askHop port v6 peer

/-- The session keys of SRTP under a master key and salt: encryption key and salt (R344, Table 16-4). -/
def srtpKeys (master : Bytes × Bytes) : Bytes × Bytes :=
  (Config.srtpDerive master.1 master.2 0 32, Config.srtpDerive master.1 master.2 2 12)

/-- The RTP packet of frame `k` of a stream, encrypted (R347). -/
def State.resultPacket (s : State) (x : Stream) (k : Nat) (payload : Bytes) : Bytes :=
  let d := x.desc
  let h := rtpHeader d.payloadType x.sent (x.firstStamp.getD 0 + (k - 1) * d.tsStep) d.ssrcOut
  let (key, salt) := srtpKeys (s.outboundKeys x.partition x.key)
  h ++ Config.gcmSeal key (rtpNonce salt d.ssrcOut x.sent) h payload

/-- The released frame of a stream whose steps have all ended and whose result is still here. -/
def State.handing (s : State) (stream : Nat) : Option (Nat × Run × Nat) :=
  s.runs.findSome? fun e => match e.2.serves with
    | .frame n k _ _ => if n = stream ∧ !e.2.handed ∧ e.2.allDone then some (e.1, e.2, k) else none
    | .command _ => none

/-- RESULT_HANDOVER: the transfer queue copies a frame's result to the stream engine, which sends it (R275,
R347). -/
def execResultHandover (stream : Nat) (s : State) : Result :=
  checked (stream < 64) s (onlyIf s.working fun s =>
    match s.stream stream, s.handing stream with
    | some x, some (rid, r, k) =>
      if x.desc.noResult then s
      else if let some h := s.missed r then s.fault h
      else match (s.core x.core).readPad x.desc.outHandle x.desc.outOffset x.desc.outLen with
        | none => s.failRun rid .badParam
        | some payload =>
          let d := x.desc
          let packet := s.resultPacket x k payload
          let lost := (s.resolved d.port d.v6 d.peer).isNone
          let s := s.onCore x.core (Core.ask 3 1 d.outHandle d.outOffset d.outLen)
          let s := (s.perturbedOn x.core 1 7).sendVia d.port d.v6 d.peer fun mac =>
            .datagram d.port d.v6 mac d.peer d.localUdp d.peerUdp (some d.dscp) packet
          let s := s.onStream stream fun x => { x with sent := x.sent + 1, unresolved := x.unresolved + bit lost }
          (s.onRun rid fun r => { r with handed := true }).tryEnd rid
    | _, _ => s)

end Sys2Proof.Machine
end

