-- ==== Sys2Proof/Machine/Vectors.lean ====
section
/-! DEFINITION. The vector unit: operand loads, results, counts, and the row of every vector operation
(R169 to R186, R322, R501). -/

namespace Sys2Proof.Machine

/-! ### Operands -/

/-- Values a vector operation works on in all. -/
def VectorStep.total (v : VectorStep) : Nat := v.elements * v.rows

/-- The operations that have an INT32 form (R173, R174, R176, R501). The INT32 bit of any other operation
tells only how a broadcast value is read (log entry 28). -/
def VecOp.hasInt : VecOp → Bool
  | .add | .sub | .mul | .min | .max | .abs | .neg | .cmp | .select | .convert | .sum | .sumsq | .maxi | .mini
  | .scatterAdd => true
  | _ => false

/-- Whether the operation is on INT32 values. -/
def VectorStep.ints (v : VectorStep) : Bool := v.isInt && v.op.hasInt

/-- A broadcast value's four bytes (R322). -/
def VectorStep.word (v : VectorStep) (w : Word) : Value := if v.isInt then .int (int32 w) else .fp w

/-- `n` values of an operand as stored, or a scalar broadcast to each (R171, R322). -/
def VectorStep.values (v : VectorStep) (c : Core) (o : Operand) (n : Nat) : Option (List Value) :=
  if 0x40 ≤ o.element ∧ o.element ≤ 0x49 then
    some (List.replicate n (v.word (v.scalars.getD (o.element - 0x40) 0)))
  else if o.element = 0x4A then
    (c.readPad o.handle o.offset 4).map fun b => List.replicate n (v.word (BitVec.ofNat 32 (leNat b)))
  else
    let b := elementBits o.element
    (c.readPad o.handle o.offset (rowBytes n b)).map fun d =>
      (List.range n).map fun i => elementValue o.element (packedAt d 0 b i)

/-- A loaded value as FP32 or as INT32 (R171). -/
def Value.load (ints : Bool) : Value → VOut
  | .int n => { bits := if ints then ofInt32 n else (fpOfInt .away n).bits }
  | .fp w => if ints then fpToInt w else { bits := w }

/-- `n` values of an operand as the operation computes with them. -/
def VectorStep.operand (v : VectorStep) (c : Core) (o : Operand) (n : Nat) : Option (List VOut) :=
  (v.values c o n).map fun xs => xs.map (Value.load v.ints)

/-- A list cut into rows of `n`. -/
def rowsOf {α : Type} (n : Nat) : Nat → List α → List (List α)
  | 0, _ => []
  | rows + 1, xs => xs.take n :: rowsOf n rows (xs.drop n)

/-- The rows of an operand. -/
def VectorStep.operandRows (v : VectorStep) (c : Core) (o : Operand) : Option (List (List VOut)) :=
  (v.operand c o v.total).map (rowsOf v.elements v.rows)

/-! ### Results -/

/-- The bytes an operation writes, each at an operand, and what it counts. -/
structure VecResult where
  writes : List (Operand × Bytes)
  count : VCount
  deriving DecidableEq, Repr

/-- A result as its operand's code (R66, R68, R69, R171). DESIGN CHOICE (log entry 55): an operation other than CONVERT
names no tensor (R322), so a narrower result of it is converted with c = 1 and keeps no statistics. -/
def storeCode (ints : Bool) (e : Nat) (x : VOut) : Nat × VCount :=
  if e = 8 then
    let y := if ints then x else VOut.map1 fpToInt x
    (y.bits.toNat, y.count)
  else
    let a : Value := if ints then .int (int32 x.bits) else .fp x.bits
    match elementTarget e with
    | some .fp32 => ((fpCanon a.toFp).toNat, x.count)
    | some t => ((convert t t.qmax fpOne a).bits, x.count)
    | none => (x.bits.toNat, x.count)

/-- The counts of a list of results. -/
def countAll (xs : List VCount) : VCount := xs.foldl VCount.add {}

/-- Results written to an operand. -/
def VectorStep.put (v : VectorStep) (o : Operand) (xs : List VOut) : VecResult :=
  let cs := xs.map (storeCode v.ints o.element)
  { writes := [(o, packRow (elementBits o.element) (cs.map (·.1)))], count := countAll (cs.map (·.2)) }

def VecResult.and (a b : VecResult) : VecResult := { writes := a.writes ++ b.writes, count := a.count.add b.count }

/-- An operation on A, element by element. -/
def VectorStep.map1 (v : VectorStep) (c : Core) (f : Word → VOut) : Option VecResult :=
  (v.operand c v.a v.total).map fun as => v.put v.r (as.map (VOut.map1 f))

/-- An operation on A and B, element by element. -/
def VectorStep.map2 (v : VectorStep) (c : Core) (f : Word → Word → VOut) : Option VecResult :=
  match v.operand c v.a v.total, v.operand c v.b v.total with
  | some as, some bs => some (v.put v.r (List.zipWith (VOut.map2 f) as bs))
  | _, _ => none

/-- An operation on A, B and C, element by element. -/
def VectorStep.map3 (v : VectorStep) (c : Core) (f : Word → Word → Word → VOut) : Option VecResult :=
  match v.operand c v.a v.total, v.operand c v.b v.total, v.operand c v.c v.total with
  | some as, some bs, some cs =>
    some (v.put v.r ((List.zip as (List.zip bs cs)).map fun q =>
      (f q.1.bits q.2.1.bits q.2.2.bits).after (q.1.count.add (q.2.1.count.add q.2.2.count))))
  | _, _, _ => none

/-- An INT32 or FP32 form of an operation, by the record. -/
def VectorStep.form {α : Type} (v : VectorStep) (ofInts ofFps : α) : α := if v.ints then ofInts else ofFps

/-- The result operand of a reduction: its values take 4 bytes each, whatever narrower code it names (R501). -/
def VectorStep.rowResult (v : VectorStep) : Operand :=
  { v.r with element := if v.r.element = 7 ∨ v.r.element = 8 then v.r.element else if v.ints then 8 else 7 }

/-- One 4-byte value per row of A (R501). -/
def VectorStep.reduceRows (v : VectorStep) (c : Core) (f : List VOut → VOut) : Option VecResult :=
  (v.operandRows c v.a).map fun rows => v.put v.rowResult (rows.map f)

/-- A MAXI or MINI record per row (R501, Table 7-5). -/
def VectorStep.tapRows (v : VectorStep) (c : Core) (hi : Bool) : Option VecResult :=
  (v.operandRows c v.a).map fun rows =>
    let rs := rows.map fun row => tapRow v.ints hi (row.map (·.bits))
    { writes := [(v.r, rs.flatMap fun t => leBytes 4 t.1.toNat ++ leBytes 4 t.2)]
      count := (countAll (rows.flatMap fun row => row.map (·.count))).add
        { nan := (rs.filter fun t => !v.ints && fpIsNaN t.1).length } }

/-- A whole row computed from each row of A. -/
def VectorStep.mapRows (v : VectorStep) (c : Core) (f : List Word → List VOut) : Option VecResult :=
  (v.operandRows c v.a).map fun rows => v.put v.r (rows.flatMap fun row => f (row.map (·.bits)))

/-- A norm over each row, with γ in B, β in C and ε the first scalar (R501). -/
def VectorStep.norm (v : VectorStep) (c : Core) (f : List Word → List Word → List Word → Word → List VOut) :
    Option VecResult :=
  match v.operand c v.b v.elements, v.operand c v.c v.elements with
  | some g, some b => v.mapRows c fun row => f row (g.map (·.bits)) (b.map (·.bits)) (v.scalars.getD 0 0)
  | _, _ => none

/-- Scalar `j` of the record. -/
def VectorStep.scalar (v : VectorStep) (j : Nat) : Word := v.scalars.getD j 0

/-- The relation of a CMP record (R322). -/
def VectorStep.relation (v : VectorStep) : Relation :=
  [Relation.eq, .ne, .lt, .le, .gt, .ge].getD (leAt v.tail 0 1) .eq

/-- CMP of two values (R501). -/
def VectorStep.compare (v : VectorStep) (a b : Word) : VOut :=
  { bits := if v.relation.holds v.ints a b then v.form 1 fpOne else 0 }

/-- SELECT of two values by a third (R501). -/
def VectorStep.select (v : VectorStep) (a b c : Word) : VOut :=
  let zero := if v.ints then c == 0 else fpIsZero c
  let r := if zero then b else a
  if v.ints then { bits := r } else VOut.pass r

/-- SGD_STEP over every element: u, then w (R183). -/
def VectorStep.sgd (v : VectorStep) (c : Core) : Option VecResult :=
  match v.operand c v.a v.total, v.operand c v.c v.total, v.operand c v.r v.total with
  | some gs, some us, some ws =>
    let rs := (List.zip gs (List.zip us ws)).map fun q =>
      sgdStep (v.scalar 0) (v.scalar 1) (v.scalar 2) (v.scalar 3) q.2.2.bits q.2.1.bits q.1.bits
    some ((v.put v.c (rs.map (·.1))).and (v.put v.r (rs.map (·.2))))
  | _, _, _ => none

/-- The constants of an ADAM_STEP record (R322). -/
def VectorStep.adamConst (v : VectorStep) : AdamConst :=
  { k := v.scalar 0, lr := v.scalar 1, wd := v.scalar 2, beta1 := v.scalar 3, omb1 := v.scalar 4,
    beta2 := v.scalar 5, omb2 := v.scalar 6, c1 := v.scalar 7, c2 := v.scalar 8, eps := v.scalar 9 }

/-- ADAM_STEP over every element: m, v, then w (R183). -/
def VectorStep.adam (v : VectorStep) (c : Core) : Option VecResult :=
  match v.operand c v.a v.total, v.operand c v.b v.total, v.operand c v.c v.total, v.operand c v.r v.total with
  | some gs, some vs, some ms, some ws =>
    let rs := (List.zip (List.zip gs vs) (List.zip ms ws)).map fun q =>
      adamStep v.adamConst q.2.2.bits q.2.1.bits q.1.2.bits q.1.1.bits
    some (((v.put v.c (rs.map (·.1))).and (v.put v.b (rs.map (·.2.1)))).and (v.put v.r (rs.map (·.2.2))))
  | _, _, _, _ => none

/-- SCALE_UPDATE of one entry: its bytes with SCALE replaced (R184). -/
def updateEntry (lr : Word) (b : Bytes) (g : Word) : Bytes × FpOut :=
  let e : ScaleEntry :=
    { scale := BitVec.ofNat 32 (leAt b 0 4), tensor := 0, policy := .note, learned := bitOf (leAt b 6 1) 2,
      folded := false, shift := 0, adapted := bitOf (leAt b 7 1) 0, generation := 0 }
  let (e', r) := updateScale lr g e
  (leBytes 4 e'.scale.toNat ++ b.drop 4, r)

/-- SCALE_UPDATE: A holds SCALE entries, B a gradient for each; the entries go to the result (R184). -/
def VectorStep.scaleUpdate (v : VectorStep) (c : Core) : Option VecResult :=
  match c.readPad v.a.handle v.a.offset (16 * v.total), v.operand c v.b v.total with
  | some d, some gs =>
    let rs := List.zipWith (fun b (g : VOut) => updateEntry (v.scalar 1) b g.bits) (pieces 16 v.total d) gs
    some { writes := [(v.r, rs.flatMap (·.1))], count := countAll (rs.map fun r => (VOut.ofFp r.2).count) }
  | _, _ => none

/-! ### Carrying out an operation -/

/-- The results of an operation written on its core; none where an access leaves its handle (R191). -/
def Core.writeAll (c : Core) : List (Operand × Bytes) → Option Core
  | [] => some c
  | (o, b) :: rest => (c.writePad o.handle o.offset b).bind fun c => c.writeAll rest

/-- Steps a vector operation counts (Table 9-1). -/
def VectorStep.steps (v : VectorStep) (exact : Bool) : Nat :=
  let per := ceilDiv v.elements 256
  v.rows * (per * v.op.rate exact + v.op.tail exact per)

/-- Whether an operation's LSE takes the exact path (R166, R180). -/
def VectorStep.exactPath (v : VectorStep) (x : Route) : Bool := x.exact || v.exactLse

/-- The vector unit's turn at the banks of its operands, in order, and of its results (R170, R194). -/
def VectorStep.asks (v : VectorStep) (c : Core) : Core :=
  let c := v.reads.zipIdx.foldl (fun c q => c.ask 4 q.2 q.1.1.handle q.1.1.offset q.1.2.1) c
  v.results.foldl (fun c w => c.ask 4 3 w.1.handle w.1.offset w.2) c

/-- A vector operation met by perturbation, its accesses asked for and its steps counted (R186, R194, R464, Table 22-3). -/
def State.countOp (s : State) (core : Nat) (v : VectorStep) (exact : Bool) : State :=
  let s := ((s.perturbedOn core 1 4).countCore core 41 0 (v.steps exact)).onCore core v.asks
  if v.op = .lse ∨ v.op = .softmax then s.countCore core 41 (if exact then 6 else 5) else s

/-- A vector operation that has written its result ends with ROUTE_STEP_COMPLETE. -/
def State.vectorEnds (s : State) (core rid i : Nat) (c : Core) (n : VCount) : State :=
  (s.setCore core { c with running := .vectorDone rid i }).countVector core rid n

/-- A vector operation carried out on its core; an access outside its handle ends the run (R191). -/
def State.vector (s : State) (core rid i : Nat) (v : VectorStep) (exact : Bool)
    (f : VectorStep → Core → Option VecResult) : State :=
  let s := s.countOp core v exact
  match f v (s.core core) with
  | none => s.failRun rid .badParam
  | some r =>
    match (s.core core).writeAll r.writes with
    | none => s.failRun rid .badParam
    | some c => s.vectorEnds core rid i c r.count

/-- Guard of the rows of vector operations: the core has dispatched a step of that operation. -/
def vectorRow (core : Nat) (op : VecOp) (s : State) (f : Nat → Nat → Route → VectorStep → State → State) : Result :=
  controlRow core s fun rid i st s => match st with
    | .vector v => withSome (s.routeOf rid) s fun q => if v.op = op then f rid i q.2 v s else s
    | _ => s

/-- The row of an operation whose result depends on its operands alone; `exact` is the path of its LSE. -/
def plainRow (core : Nat) (op : VecOp) (s : State) (f : Bool → VectorStep → Core → Option VecResult) : Result :=
  vectorRow core op s fun rid i x v s => s.vector core rid i v (v.exactPath x) (f (v.exactPath x))

/-! ### Elementwise rows -/

def execVecAdd (core : Nat) (s : State) : Result :=
  plainRow core .add s fun _ v c => v.map2 c (v.form iAdd vAdd)
def execVecSub (core : Nat) (s : State) : Result :=
  plainRow core .sub s fun _ v c => v.map2 c (v.form iSub vSub)
def execVecMul (core : Nat) (s : State) : Result :=
  plainRow core .mul s fun _ v c => v.map2 c (v.form iMul vMul)
/-- FMA: A × B + C with one rounding (R172, R501). -/
def execVecFma (core : Nat) (s : State) : Result :=
  plainRow core .fma s fun _ v c => v.map3 c vFma
def execVecMin (core : Nat) (s : State) : Result :=
  plainRow core .min s fun _ v c =>
    v.map2 c (v.form (fun a b => { bits := iMin a b }) fun a b => VOut.pass (fpMin a b))
def execVecMax (core : Nat) (s : State) : Result :=
  plainRow core .max s fun _ v c =>
    v.map2 c (v.form (fun a b => { bits := iMax a b }) fun a b => VOut.pass (fpMax a b))
def execVecAbs (core : Nat) (s : State) : Result :=
  plainRow core .abs s fun _ v c =>
    v.map1 c (v.form (fun a => .ofInt (int32 a).natAbs) fun a => VOut.pass (fpAbs a))
def execVecNeg (core : Nat) (s : State) : Result :=
  plainRow core .neg s fun _ v c => v.map1 c (v.form (fun a => .ofInt (-int32 a)) fun a => VOut.pass (fpNeg a))
def execVecCmp (core : Nat) (s : State) : Result :=
  plainRow core .cmp s fun _ v c => v.map2 c v.compare
def execVecSelect (core : Nat) (s : State) : Result :=
  plainRow core .select s fun _ v c => v.map3 c v.select
def execVecDiv (core : Nat) (s : State) : Result :=
  plainRow core .div s fun _ v c => v.map2 c fun a b => .ofFp (fpDiv a b)
def execVecSqrt (core : Nat) (s : State) : Result :=
  plainRow core .sqrt s fun _ v c => v.map1 c fun a => .ofFp (fpSqrt a)
def execVecRsqrt (core : Nat) (s : State) : Result :=
  plainRow core .rsqrt s fun _ v c => v.map1 c fun a => .ofFp (fpRsqrt a)
def execVecRecip (core : Nat) (s : State) : Result :=
  plainRow core .recip s fun _ v c => v.map1 c fun a => .ofFp (fpRecip a)
def execVecExp2 (core : Nat) (s : State) : Result :=
  plainRow core .exp2 s fun _ v c => v.map1 c fun a => .ofFp (fpExp2 a)
def execVecLog2 (core : Nat) (s : State) : Result :=
  plainRow core .log2 s fun _ v c => v.map1 c fun a => .ofFp (fpLog2 a)
/-- GRAD_ADD: a + g (R182). -/
def execVecGradAdd (core : Nat) (s : State) : Result :=
  plainRow core .gradAdd s fun _ v c => v.map2 c vAdd
def execVecRelu (core : Nat) (s : State) : Result :=
  plainRow core .relu s fun _ v c => v.map1 c fun a => VOut.pass (relu a)
def execVecClamp (core : Nat) (s : State) : Result :=
  plainRow core .clamp s fun _ v c => v.map1 c fun a => VOut.pass (clampFp (v.scalar 0) (v.scalar 1) a)
def execVecGelu (core : Nat) (s : State) : Result :=
  plainRow core .gelu s fun _ v c => v.map1 c fun a => VOut.pass (gelu a)
def execVecSilu (core : Nat) (s : State) : Result :=
  plainRow core .silu s fun _ v c => v.map1 c fun a => VOut.pass (silu a)

/-! ### Row reductions and composites -/

def execVecSum (core : Nat) (s : State) : Result :=
  plainRow core .sum s fun _ v c => v.reduceRows c (sumRow v.ints)
/-- SUMSQ: the counts of the operand's load stand before the squares' own (R171, R176). -/
def execVecSumsq (core : Nat) (s : State) : Result :=
  plainRow core .sumsq s fun _ v c => v.reduceRows c fun row =>
    (sumSqRow v.ints (row.map (·.bits))).after (countAll (row.map (·.count)))
def execVecMaxi (core : Nat) (s : State) : Result :=
  plainRow core .maxi s fun _ v c => v.tapRows c true
def execVecMini (core : Nat) (s : State) : Result :=
  plainRow core .mini s fun _ v c => v.tapRows c false
def execVecLse (core : Nat) (s : State) : Result :=
  plainRow core .lse s fun exact v c => v.reduceRows c (lseRow exact)
def execVecSoftmax (core : Nat) (s : State) : Result :=
  plainRow core .softmax s fun exact v c => v.mapRows c (softmaxRow exact)
def execVecRmsnorm (core : Nat) (s : State) : Result :=
  plainRow core .rmsnorm s fun _ v c => v.norm c rmsNormRow
def execVecLayernorm (core : Nat) (s : State) : Result :=
  plainRow core .layernorm s fun _ v c => v.norm c layerNormRow
def execVecSgdStep (core : Nat) (s : State) : Result := plainRow core .sgdStep s fun _ v c => v.sgd c
def execVecAdamStep (core : Nat) (s : State) : Result := plainRow core .adamStep s fun _ v c => v.adam c
def execVecScaleUpdate (core : Nat) (s : State) : Result :=
  plainRow core .scaleUpdate s fun _ v c => v.scaleUpdate c

/-! ### CONVERT -/

/-- Whether a CONVERT narrows, and so has a target, a limit and a tensor (R171, R322). -/
def VectorStep.narrows (v : VectorStep) : Bool := v.r.element != 7 && v.r.element != 8

/-- The target and limit of a narrowing CONVERT (R64, R322). -/
def VectorStep.target (v : VectorStep) : Target := (Target.ofCode (leAt v.tail 0 1 % 16)).getD .fp32
def VectorStep.limit (v : VectorStep) : Nat := if leAt v.tail 2 2 = 0 then v.target.qmax else leAt v.tail 2 2

/-- The conversion scale of a narrowing CONVERT; none where R70 or R71 refuses it. -/
def VectorStep.convScale (v : VectorStep) (r : Run) (scaled : Bool) (tensor : Nat) : Option Word :=
  if scaled && tensor != noId && (findScale r.scales tensor).isNone then none
  else if !v.target.isInteger then some fpOne
  else (r.scale tensor).bind fun c =>
    if (findScale r.scales tensor).any (·.folded) && !fpIsPow2 c then none else some c

/-- A list of values narrowed: the codes and the statistics (R66, R68, R69, R75). -/
def narrowAll (t : Target) (h : Nat) (c : Word) (xs : List Value) : List Nat × Stats :=
  let rs := xs.map fun a => (a, convert t h c a)
  (rs.map (·.2.bits), rs.foldl (fun st q => st.combine (Stats.ofConv t q.1 q.2)) {})

/-- A narrowing CONVERT with the test, the policies and the tracker (R75 to R84, R171): a replay is made at
once with p, and a stop ends the run after the record. DESIGN CHOICE (log entry 55): its M is an integer where the record's
INT32 bit is set and FP32 elsewhere; R75 ties M to the form, which a vector operation has none of. `n` is what the load of
its input counts. -/
def State.narrowing (s : State) (core rid i : Nat) (r : Run) (v : VectorStep) (xs : List Value) (n : VCount) : State :=
  let tensor := leAt v.tail 4 2
  match v.convScale r ((s.route r.route).any fun x => x.image.scaled) tensor with
  | none => s.failRun rid .metaFault
  | some c =>
    let (codes, st) := narrowAll v.target v.limit c xs
    let t : Trial := { target := v.target, intM := v.ints, qmax := v.limit, stats := st, first := none }
    let entry := findScale r.scales tensor
    let again := entry.any fun e => t.replays e.policy
    let (codes', st') := if again then narrowAll v.target v.limit t.p xs else (codes, st)
    let t' : Trial := if again then { t with stats := st', first := some st } else t
    let s := if again then s.onRun rid fun r => { r with used := Tab.put tensor t.p r.used } else s
    match (s.core core).writePad v.r.handle v.r.offset (packRow (elementBits v.r.element) codes') with
    | none => s.failRun rid .badParam
    | some k =>
      match entry with
      | none => s.vectorEnds core rid i k n
      | some e =>
        match s.givenTo rid [core] tensor with
        | .error (st, c) => (s.countTile ((s.partitionOf core).getD 0) c).failRun rid st
        | .ok given =>
          let s := s.trackTensor core rid t' e given
          if (s.run rid).isNone then s
          else if t'.outcome e.policy = .stopped then s.failRun rid .scaleStop else s.vectorEnds core rid i k n

/-- A CONVERT to FP32 or INT32: each value as its result's type (R171). -/
def VectorStep.plainConvert (v : VectorStep) (c : Core) : Option VecResult :=
  (v.values c v.a v.total).map fun xs =>
    let ints := v.r.element == 8
    { v with isInt := ints }.put v.r (xs.map fun a => let y := Value.load ints a; if ints then y else (VOut.pass y.bits).after y.count)

/-- CONVERT: to FP32 or INT32 plainly, to any other code as a conversion of its tensor (R171). -/
def execVecConvert (core : Nat) (s : State) : Result :=
  vectorRow core .convert s fun rid i x v s =>
    if !v.narrows then s.vector core rid i v (v.exactPath x) VectorStep.plainConvert
    else
      let s := s.countOp core v (v.exactPath x)
      match s.run rid, v.values (s.core core) v.a v.total with
      | some r, some xs =>
        if v.ints then
          let ys := xs.map (Value.load true)
          s.narrowing core rid i r v (ys.map fun y => .int (int32 y.bits)) (countAll (ys.map (·.count)))
        else s.narrowing core rid i r v (xs.map fun a => .fp a.toFp) {}
      | _, _ => s.failRun rid .badParam

/-! ### SCATTER_ADD -/

/-- The scatter group of a SCATTER_ADD, every update issued (R119, R120, R185, Table 6-2). -/
def VectorStep.scatterGroup (v : VectorStep) (exact : Bool) (rows : List Nat) (xs : List VOut) : Scatter :=
  let sorting := exact || !v.ints
  let mib := if leAt v.tail 2 1 % 64 = 0 then 4 else leAt v.tail 2 1 % 64
  { destH := v.r.handle, destOff := v.r.offset, destCount := leAt v.tail 4 4 * v.elements, isFp := !v.ints
    sorting := sorting, sackH := leAt v.tail 0 1, mergeH := leAt v.tail 1 1, capacity := sackCapacity sorting mib
    sackCount := 0
    waiting := xs.zipIdx.map fun q =>
      let r := q.2 / v.elements
      let e := q.2 % v.elements
      { key := rows.getD r 0 * v.elements + e, value := q.1.bits, origin := r + e * 2 ^ 40 }
    spills := [], issued := true, phase := .updating }

/-- SCATTER_ADD: the group opens with all its updates; it closes when its merge has ended (R185). -/
def execVecScatterAdd (core : Nat) (s : State) : Result :=
  vectorRow core .scatterAdd s fun rid i x v s =>
    let s := s.countOp core v (v.exactPath x)
    let c := s.core core
    match v.operand c v.a v.total, c.readPad v.b.handle v.b.offset (4 * v.rows) with
    | some xs, some idx =>
      let rows := (List.range v.rows).map fun r => leAt idx (4 * r) 4
      (s.setCore core { c with running := .scattering rid i, scatter := some (v.scatterGroup x.exact rows xs) }).countVector
        core rid (countAll (xs.map (·.count)))
    | _, _ => s.failRun rid .badParam

end Sys2Proof.Machine
end

