-- ==== Sys2Proof/Machine/Packer.lean ====
section
/-! DEFINITION. The packer: PACK_TILES and the sort between its passes (R99 to R110, R325, R499). -/

namespace Sys2Proof.Machine

/-! ### The pack specification -/

/-- A tensor record (Tables 5-3 and 15-10). -/
structure PackRec where
  tensor : Nat
  format : Nat
  width : Nat
  actWidth : Nat
  sort : Bool
  extent : Nat
  keep : Nat
  consumer : Nat
  bias : Nat
  rows : Nat
  columns : Nat
  master : Nat
  out : Nat
  outLen : Nat
  list : Nat
  biasOut : Nat
  /-- Whether the reserved bits are 0 (R304). -/
  clean : Bool
  deriving DecidableEq, Repr

def decodePackRec (b : Bytes) : PackRec :=
  { tensor := leAt b 0 2, format := leAt b 2 1, width := leAt b 3 1, actWidth := leAt b 4 1,
    sort := bitOf (leAt b 5 1) 0, extent := leAt b 6 2, keep := leAt b 8 2, consumer := leAt b 10 2,
    bias := leAt b 12 2, rows := leAt b 16 4, columns := leAt b 20 4, master := leAt b 24 8,
    out := leAt b 32 8, outLen := leAt b 40 8, list := leAt b 48 8, biasOut := leAt b 56 8,
    clean := leAt b 5 1 < 2 && leAt b 14 2 == 0 }

/-- The block of a PACK_TILES command (R325). -/
structure PackBlock where
  count : Nat
  scale : Nat
  state : Nat
  stateLen : Nat
  recs : List PackRec
  clean : Bool
  deriving DecidableEq, Repr

def decodePackBlock (b : Bytes) : PackBlock :=
  let n := leAt b 0 2
  { count := n, scale := leAt b 8 8, state := leAt b 16 8, stateLen := leAt b 24 8,
    recs := (List.range n).map fun i => decodePackRec (slice b (64 * (i + 1)) 64),
    clean := leAt b 2 6 == 0 && leNat (slice b 32 32) == 0 && leNat (b.drop (64 * (n + 1))) == 0 }

/-- The DENSE extent of R91 and the requested extent (R92, R94, R95). -/
def PackRec.dense (r : PackRec) : Nat := if r.actWidth = 4 then 256 else 128
def PackRec.span (r : PackRec) : Nat :=
  if r.format = 1 then 128 else if r.format = 2 then 2 * r.dense else if r.format = 3 then r.extent else r.dense

/-- Row and column blocks of the padded tensor (R101), and the columns of master tiles. -/
def PackRec.rowBlocks (r : PackRec) : Nat := ceilDiv r.rows 128
def PackRec.colBlocks (r : PackRec) : Nat := ceilDiv r.columns r.span
def PackRec.masterCols (r : PackRec) : Nat := ceilDiv r.columns 128
def PackRec.masters (r : PackRec) : Nat := r.rowBlocks * r.masterCols

/-- Container bits, and the bytes of a DENSE payload. -/
def PackRec.bits (r : PackRec) : Nat := elementBits r.width
def PackRec.denseBytes (r : PackRec) : Nat := 128 * rowBytes r.dense r.bits

/-- Whether a WIDTH is one of R67. -/
def packWidth (e : Nat) : Bool := e == 0 || e == 2 || e == 4 || e == 5 || (0x11 ≤ e && e ≤ 0x20)

/-- The limits of Table 5-3, R34, R93 and R95 on one record (R100). -/
def PackRec.ok (r : PackRec) : Bool :=
  let wide := if isBell r.width then 4 else weightWidth r.width
  r.clean && r.tensor != 0xFFFF && r.format ≤ 3 && packWidth r.width &&
  (r.actWidth == 4 || r.actWidth == 8 || r.actWidth == 16) &&
  !(r.actWidth == 4 && 8 < wide) && !(r.actWidth == 16 && r.format == 2) &&
  !(r.format == 1 && (r.actWidth == 4 || 256 < r.keep)) &&
  (r.format != 3 || ([128, 256, 512, 1024].contains r.extent && r.extent % r.dense == 0 &&
    1 ≤ r.keep && 8 * r.keep < r.extent)) &&
  1 ≤ r.rows && 1 ≤ r.columns && !(r.sort && r.bias != 0xFFFF && r.biasOut == 0)

/-- The rules between records (R100). -/
def packTogether (rs : List PackRec) : Bool :=
  let named := rs.map (·.consumer)
  rs.zipIdx.all fun (r, i) =>
    (rs.zipIdx.all fun (q, j) => i == j || q.tensor != r.tensor || !(r.sort || q.sort || named.contains r.tensor)) &&
    (rs.all fun q => q.tensor != r.consumer || r.rows ≤ q.columns) &&
    (!r.sort || ((rs.any fun q => q.tensor == r.consumer) &&
       rs.zipIdx.all fun (q, j) => i == j || !q.sort || q.consumer != r.consumer))

/-- Whether two address ranges overlap. -/
def rangesMeet (a m b n : Nat) : Bool := a < b + n && b < a + m

/-- Bytes a section of `n` entries takes in the STATE area (R110, R325). -/
def sectionBytes (size n : Nat) : Nat :=
  let per := if size = 4 then 16380 else 2047
  ((List.range (ceilDiv n per)).map fun i => 64 + roundUp (16 + min per (n - i * per) * size) 64).sum

/-- Bytes the STATE area must hold. -/
def PackBlock.stateBytes (b : PackBlock) : Nat :=
  sectionBytes 32 b.count + ((b.recs.filter (·.sort)).map fun r => sectionBytes 4 (128 * r.rowBlocks)).sum

/-- The addresses of a tensor's master tiles, read from its array. -/
def State.masterTiles (s : State) (p : Nat) (r : PackRec) : State × Except Status (List Nat) :=
  s.readList p (r.master, r.masters)

/-- The addresses of every record's master tiles, record by record. -/
def State.allMasters (s : State) (p : Nat) (rs : List PackRec) : State × Except Status (List Nat) :=
  rs.foldl (fun acc r =>
    match acc with
    | (s, .error e) => (s, .error e)
    | (s, .ok as) =>
      match s.masterTiles p r with
      | (s, .error e) => (s, .error e)
      | (s, .ok more) => (s, .ok (as ++ more))) (s, .ok [])

/-- The checks of R100 on the block's own fields. -/
def PackBlock.ok (b : PackBlock) : Bool :=
  1 ≤ b.count && b.count ≤ 256 && b.clean && b.recs.all PackRec.ok && packTogether b.recs

/-- Every range the command writes is the partition's (R222). -/
def State.packMapped (s : State) (p : Nat) (b : PackBlock) : Bool :=
  (b.recs.all fun r => s.mapped p r.out r.outLen &&
    s.mapped p r.list (8 * r.rowBlocks * r.colBlocks * (if r.format = 3 then r.span / r.dense else 1))) &&
  s.mapped p b.state b.stateLen

/-- The checks of R325 on the areas, with the addresses of the master tiles; they precede every write. -/
def PackBlock.areasOk (b : PackBlock) (masters : List Nat) : Bool :=
  let outs := b.recs.map fun r => (r.out, r.outLen)
  let clear (a n : Nat) : Bool := masters.all fun m => !rangesMeet a n m 65600
  (b.recs.all fun r =>
    r.rowBlocks * r.colBlocks * (r.span / r.dense) * (64 + r.denseBytes) ≤ r.outLen && clear r.out r.outLen) &&
  (outs.zipIdx.all fun (x, i) => outs.zipIdx.all fun (y, j) => i == j || !rangesMeet x.1 x.2 y.1 y.2) &&
  b.state % 64 == 0 && b.stateBytes ≤ b.stateLen && clear b.state b.stateLen &&
  outs.all fun x => !rangesMeet b.state b.stateLen x.1 x.2

/-! ### Quantizing and pruning -/

/-- A position of the padded tensor (R101): the master's magnitude and rank, its code and value, whether it
was clipped, whether it is a real position, and whether pruning keeps it. -/
structure Cell where
  magnitude : Word
  rank : Int
  code : Nat
  value : Int
  clipped : Bool
  real : Bool
  keep : Bool
  deriving DecidableEq, Repr

/-- A master value under R67, with its rank: a NaN below every number (R102). The code is the whole container, so its bits
above the weight's width are the sign's (R63 leaves what is written there open: DESIGN CHOICE, log entry 57). -/
def PackRec.cell (r : PackRec) (scale w : Word) (real : Bool) : Cell :=
  let t := (elementTarget r.width).getD .int8
  let c := convert t t.qmax scale (.fp w)
  { magnitude := fpAbs w, rank := if fpIsNaN w then -1 else (w.toNat % 2 ^ 31 : Nat), code := c.bits,
    value := weightValue r.width c.bits, clipped := c.clipped, real := real, keep := true }

/-- A list of ranks, highest first and equal ones by index (R102). -/
def insertRank (x : Int × Nat) : List (Int × Nat) → List (Int × Nat)
  | [] => [x]
  | y :: ys => if y.1 < x.1 then x :: y :: ys else y :: insertRank x ys

/-- The indices of the `n` highest ranks. -/
def topRanks (n : Nat) (ranks : List Int) : List Nat :=
  ((ranks.zipIdx.foldl (fun acc x => insertRank x acc) []).take n).map (·.2)

/-- A group or row with only its `n` highest ranks kept. -/
def keepTop (n : Nat) (cells : List Cell) : List Cell :=
  let top := topRanks n (cells.map (·.rank))
  cells.zipIdx.map fun q => { q.1 with keep := top.contains q.2 }

/-- Block `n` of a tile that starts at column `c0`, row by row (R92). -/
def blockCells (rows : List (List Cell)) (c0 n : Nat) : List Cell :=
  (List.range 8).flatMap fun i => ((rows.getD (8 * (n / 16) + i) []).drop (c0 + 8 * (n % 16))).take 8

/-- A block's rank: the FP32 sum of its magnitudes, ties away, a NaN counting 0 (R102). -/
def blockRank (cells : List Cell) : Int :=
  let sum := cells.foldl (fun (a : Word) c => if fpIsNaN c.magnitude then a else (fpAddT .away a c.magnitude).bits) fpZero
  (sum.toNat % 2 ^ 31 : Nat)

/-- The blocks of a tile that pruning keeps (R101). -/
def keptBlocks (keep : Nat) (rows : List (List Cell)) (c0 : Nat) : List Nat :=
  if keep = 0 then List.range 256
  else topRanks keep ((List.range 256).map fun n => blockRank (blockCells rows c0 n))

/-- 128 rows pruned by blocks. -/
def pruneBlocks (keep colBlocks : Nat) (rows : List (List Cell)) : List (List Cell) :=
  let kept := (List.range colBlocks).map fun b => keptBlocks keep rows (128 * b)
  rows.zipIdx.map fun (row, y) => row.zipIdx.map fun (c, x) =>
    { c with keep := (kept.getD (x / 128) []).contains (16 * (y / 8) + x % 128 / 8) }

/-- The padded tensor pruned (R101). -/
def PackRec.prune (r : PackRec) (rows : List (List Cell)) : List (List Cell) :=
  if r.format = 1 then (rowsOf 128 r.rowBlocks rows).flatMap (pruneBlocks r.keep r.colBlocks)
  else if r.format = 2 then rows.map fun row => (rowsOf 4 (row.length / 4) row).flatMap (keepTop 2)
  else if r.format = 3 then rows.map fun row => (rowsOf r.span r.colBlocks row).flatMap (keepTop r.keep)
  else rows

/-- What a master tile must be (R325, Table 11-4). -/
def masterWant (row col : Nat) : TileExpect :=
  { format := some .dense, element := some 7, actWidth := some 0, rowOffset := some (128 * row), kOffset := some (128 * col),
    columns := some 128 }

/-- The words of one master tile; an error is how the command ends. -/
def State.masterTile (s : State) (p a row col : Nat) : State × Except (Status × Nat) Bytes :=
  match s.useTile p a (masterWant row col) with
  | (s, .error e) => (s, .error e)
  | (s, .ok (h, payload)) => (s, if h.rows = 128 ∧ !h.raw then .ok payload else .error (.metaFault, 0))

/-- The words of a tensor's master tiles, in position order. -/
def State.masterWords (s : State) (p : Nat) (r : PackRec) : State × Except (Status × Nat) (List Bytes) :=
  match s.masterTiles p r with
  | (s, .error e) => (s, .error (e, 0))
  | (s, .ok as) => as.zipIdx.foldl (fun acc q =>
      match acc with
      | (s, .error e) => (s, .error e)
      | (s, .ok ts) =>
        match s.masterTile p q.1 (q.2 / r.masterCols) (q.2 % r.masterCols) with
        | (s, .error e) => (s, .error e)
        | (s, .ok t) => (s, .ok (ts ++ [t]))) (s, .ok [])

/-- The padded and pruned tensor of a record over the words of its master tiles (R101, R102). -/
def PackRec.tensorOf (r : PackRec) (scale : Word) (tiles : List Bytes) : List (List Cell) :=
  let word (y x : Nat) : Word :=
    BitVec.ofNat 32 (leAt (tiles.getD (y / 128 * r.masterCols + x / 128) []) ((y % 128 * 128 + x % 128) * 4) 4)
  r.prune ((List.range (128 * r.rowBlocks)).map fun y =>
    (List.range (r.span * r.colBlocks)).map fun x =>
      let real := y < r.rows && x < r.columns
      r.cell scale (if real then word y x else fpZero) real)

/-- The padded and pruned tensor of a record: every master tile read under R229. -/
def State.packTensor (s : State) (p : Nat) (r : PackRec) (scale : Word) :
    State × Except (Status × Nat) (List (List Cell)) :=
  match s.masterWords p r with
  | (s, .error e) => (s, .error e)
  | (s, .ok ts) => (s, .ok (r.tensorOf scale ts))

/-! ### Sorting -/

/-- The value a position holds after pruning. -/
def Cell.stored (c : Cell) : Int := if c.keep then c.value else 0
def Cell.storedCode (c : Cell) : Nat := if c.keep then c.code else 0

/-- The most digits of a chunk over a row (R30, R105). -/
def maxDigits (chunk : Nat) (row : List Cell) : Nat :=
  row.foldl (fun m c => max m (chunkDigits chunk (naf c.stored)).length) 0

/-- The key of a row (R105). -/
def PackRec.rowKey (r : PackRec) (row : List Cell) : Nat × Nat :=
  let essential := maxDigits 0 row + maxDigits 1 row
  let nonzero := (row.filter fun c => c.stored != 0).length
  if r.format = 3 then (nonzero, essential) else (essential, nonzero)

/-- The rows of a unit, by the consumer's format (R105). -/
def unitSize (consumer : Option PackRec) : Nat :=
  match consumer with
  | some c => if c.format = 2 then 4 else if c.format = 1 ∧ 0 < c.keep then 8 else 1
  | none => 1

/-- The key of a unit: the larger first part, the sum of the second (R105). -/
def unitKey (keys : List (Nat × Nat)) : Nat × Nat :=
  keys.foldl (fun a k => (max a.1 k.1, a.2 + k.2)) (0, 0)

/-- A unit put behind every unit whose key is not below its own: equal keys stay by index (R105). -/
def insertUnit (x : (Nat × Nat) × Nat) : List ((Nat × Nat) × Nat) → List ((Nat × Nat) × Nat)
  | [] => [x]
  | y :: ys =>
    if y.1.1 < x.1.1 || (y.1.1 == x.1.1 && y.1.2 < x.1.2) then x :: y :: ys else y :: insertUnit x ys

/-- The row order of a sorted tensor: the original row at each position (R105, R106). -/
def sortRows (u : Nat) (keys : List (Nat × Nat)) : List Nat :=
  let units := ((rowsOf u (keys.length / u) keys).map unitKey).zipIdx
  (units.foldl (fun acc x => insertUnit x acc) []).flatMap fun x => (List.range u).map (x.2 * u + ·)

/-! ### Encoding -/

/-- Blocks of a 128 × 128 tile that hold a non-zero code (R92). -/
def storedBlocks (rows : List (List Cell)) : List Nat :=
  (List.range 256).filter fun n => (blockCells rows 0 n).any fun c => c.stored != 0

/-- The payload of a compressed tile (R92, R94, R95). -/
def PackRec.encode (r : PackRec) (rows : List (List Cell)) : Bytes :=
  let b := r.bits
  if r.format = 1 then
    let ns := storedBlocks rows
    leBytes 32 (maskOf ns) ++ ns.flatMap fun n => packRow b ((blockCells rows 0 n).map Cell.storedCode)
  else if r.format = 2 then
    let groups := rows.flatMap fun row => rowsOf 4 (row.length / 4) row
    let kept := groups.map fun g => (g.zipIdx.filter fun q => q.1.keep)
    packRow b (kept.flatMap fun k => k.map fun q => q.1.code) ++
      packRow 4 (kept.map fun k => (k.map (·.2)).getD 0 0 + 4 * (k.map (·.2)).getD 1 0)
  else
    let kept := rows.map fun row => row.zipIdx.filter fun q => q.1.stored != 0
    let sz := looseEntryBytes r.width
    let w := if isBell r.width then 4 else weightWidth r.width
    (kept.flatMap fun k => leBytes 2 k.length) ++
      kept.flatMap fun k => k.flatMap fun q => leBytes sz (q.2 + q.1.code % 2 ^ w * 2 ^ (if sz = 2 then 12 else 16))

/-- The positions that pruning kept and the tile stores, in the format it is written in (Table 5-4). -/
def PackRec.storedCells (r : PackRec) (fallback : Bool) (rows : List (List Cell)) : List Cell :=
  if fallback then rows.flatMap fun row => row.filter (·.keep)
  else if r.format = 1 then ((storedBlocks rows).flatMap (blockCells rows 0)).filter (·.keep)
  else if r.format = 3 then rows.flatMap fun row => row.filter fun c => c.stored != 0
  else rows.flatMap fun row => row.filter (·.keep)

/-- The counts of a packer record (Table 5-4). -/
structure PackCount where
  dropped : Nat := 0
  droppedMag : Nat := 0
  clipped : Nat := 0
  zeros : Nat := 0
  digits : Nat := 0
  tiles : Nat := 0
  fallback : Nat := 0
  deriving DecidableEq, Repr

/-- The counts of one tile position written as `tiles` tiles (R103). -/
def PackRec.countTile (r : PackRec) (rows : List (List Cell)) (tiles fallback : Nat) (n : PackCount) : PackCount :=
  let st := r.storedCells (fallback != 0) rows
  let gone := rows.flatMap fun row => row.filter fun c => !c.keep && c.value != 0
  { dropped := n.dropped + gone.length
    droppedMag := n.droppedMag + (gone.map fun c => c.value.natAbs).sum
    clipped := n.clipped + (st.filter fun c => c.clipped && c.real).length
    zeros := n.zeros + (st.filter fun c => c.value == 0 && c.real).length
    digits := n.digits + (st.map fun c => (naf c.value).length).sum
    tiles := n.tiles + tiles, fallback := n.fallback + fallback }

/-- The packer record (Table 5-4). -/
def PackRec.record (r : PackRec) (n : PackCount) : Bytes :=
  leBytes 4 (sat32 (r.rows * r.columns)) ++ leBytes 4 (sat32 n.dropped) ++ leBytes 4 (sat32 n.droppedMag) ++
  leBytes 4 (sat32 n.clipped) ++ leBytes 4 (sat32 n.zeros) ++ leBytes 4 (sat32 n.digits) ++
  leBytes 2 (min n.tiles 0xFFFF) ++ leBytes 2 (min n.fallback 0xFFFF) ++ leBytes 2 r.tensor ++ leBytes 1 r.format ++ zeros 1

/-- The tiles of one position: headers and payloads, and whether they stand in for the requested format (R99,
R104). A LOOSE consumer is pruned in its own column order and then permuted, so that a row of a written tile can hold E / 8
entries or more; the tile is written as it comes (DESIGN CHOICE, log entry 58). -/
def PackRec.tilesOf (r : PackRec) (rb cb : Nat) (rows : List (List Cell)) : List (TileHdr × Bytes) × Bool :=
  let base := { TileHdr.blank with element := r.width, actWidth := r.actWidth, rows := 128, tensor := r.tensor,
                                   rowOffset := 128 * rb, sorted := r.sort }
  let payload := if r.format = 0 then [] else r.encode rows
  if r.format = 0 ∨ r.denseBytes * (r.span / r.dense) < payload.length then
    ((List.range (r.span / r.dense)).map fun j =>
      ({ base with format := 0, columns := r.dense, kOffset := r.span * cb + r.dense * j, fallback := r.format != 0 },
       rows.flatMap fun row => packRow r.bits (((row.drop (r.dense * j)).take r.dense).map Cell.storedCode)),
     r.format != 0)
  else ([({ base with format := r.format, columns := r.span, kOffset := r.span * cb }, payload)], false)

/-! ### One tensor -/

/-- The order a list takes: position i gets element `order[i]`; beyond the order, its own. -/
def reorder {α : Type} (order : List Nat) (d : α) (xs : List α) : List α :=
  (List.range xs.length).map fun i => xs.getD (order.getD i i) d

/-- A tensor in the orders it is packed in: its own rows, and its producer's order over its columns (R106,
R499). -/
def arrange (rowOrder colOrder : List Nat) (d : Cell) (rows : List (List Cell)) : List (List Cell) :=
  (reorder rowOrder [] rows).map fun row => reorder colOrder d row

/-- What writing one tensor has come to: whether the map let every tile be written, the next free address, the tile
addresses, the counts. -/
structure PackOut where
  ok : Bool
  at_ : Nat
  addrs : List Nat
  count : PackCount
  deriving DecidableEq, Repr

/-- Sealed tiles written one after the other, each at the next multiple of 64, from an address on: the addresses and the first
free one; false where the map refuses one (R222, R227). -/
def State.writeTiles (s : State) (p at_ : Nat) (ts : List (TileHdr × Bytes)) : State × Bool × Nat × List Nat :=
  ts.foldl (fun q t =>
    let a := roundUp q.2.2.1 64
    match q.1.writeTile p a t.1 t.2 with
    | none => (q.1.refusal, false, q.2.2)
    | some s => (s, q.2.1, a + 64 + roundUp t.2.length 64, q.2.2.2 ++ [a])) (s, true, at_, [])

/-- The tiles of one position written (R101, R227, R325). -/
def State.packPosition (s : State) (p : Nat) (r : PackRec) (rb cb : Nat) (rows : List (List Cell)) (o : PackOut) :
    State × PackOut :=
  let (ts, fb) := r.tilesOf rb cb rows
  let (s, ok, at_, addrs) := s.writeTiles p o.at_ ts
  (s, { ok := o.ok && ok, at_ := at_, addrs := o.addrs ++ addrs,
        count := r.countTile rows ts.length (if fb then ts.length else 0) o.count })

/-- The bias's tiles at BIAS_OUT until every row is covered (R106): addresses, headers and values. `n` bounds
them. -/
def State.biasTiles (s : State) (p rows : Nat) : Nat → Nat → Nat →
    State × Except (Status × Nat) (List (Nat × TileHdr × Bytes))
  | 0, _, _ => (s, .ok [])
  | n + 1, a, got =>
    if rows ≤ got then (s, .ok [])
    else match s.useTile p a { format := some .dense, actWidth := some 0, rowOffset := some got, columns := some 1 } with
      | (s, .error e) => (s, .error e)
      | (s, .ok (h, b)) =>
        if h.rows = 0 ∨ h.raw ∨ (h.element ≠ 7 ∧ h.element ≠ 8) then (s, .error (.metaFault, 0))
        else match s.biasTiles p rows n (a + h.span) (got + h.rows) with
          | (s, .error e) => (s, .error e)
          | (s, .ok rest) => (s, .ok ((a, h, b) :: rest))

/-- The bias reordered in place (R106). Where its tiles cover fewer rows than the padded tensor has and a unit that holds both
real and padded rows moves, positions of padded rows take 0 and values of rows moved past the last tile are dropped (DESIGN
CHOICE, log entry 59). -/
def State.packBias (s : State) (p : Nat) (r : PackRec) (order : List Nat) : State × Except (Status × Nat) Unit :=
  match s.biasTiles p r.rows r.rows r.biasOut 0 with
  | (s, .error e) => (s, .error e)
  | (s, .ok ts) =>
    let old := ts.flatMap fun t => (List.range t.2.1.rows).map fun i => slice t.2.2 (4 * i) 4
    let new := reorder order (zeros 4) old
    ts.foldl (fun acc t =>
      match acc with
      | (s, .error e) => (s, .error e)
      | (s, .ok ()) =>
        match s.writeTile p t.1 { t.2.1 with sorted := true } ((new.drop t.2.1.rowOffset).take t.2.1.rows).flatten with
        | none => (s.refusal, .error (.badParam, 0))
        | some s => (s, .ok ())) (s, .ok ())

/-- The tiles and the list of a tensor in its orders written (R101, R325): its packer record and the counts. -/
def State.packTiles (s : State) (p : Nat) (r : PackRec) (rows : List (List Cell)) :
    State × Except (Status × Nat) (Bytes × PackCount) :=
  let places := (List.range r.rowBlocks).flatMap fun rb => (List.range r.colBlocks).map fun cb => (rb, cb)
  let (s, o) := places.foldl (fun (q : State × PackOut) w =>
    let tile := ((rows.drop (128 * w.1)).take 128).map fun row => (row.drop (r.span * w.2)).take r.span
    q.1.packPosition p r w.1 w.2 tile q.2) (s, { ok := true, at_ := r.out, addrs := [], count := {} })
  match if o.ok then s.write p r.list (o.addrs.flatMap (leBytes 8)) else none with
  | none => (s.refusal, .error (.badParam, 0))
  | some s => ((s.countFor p 38 3 o.count.dropped).countFor p 38 4 o.count.fallback, .ok (r.record o.count, o.count))

/-- One tensor packed: its tiles, its list and its packer record, or how the command ends with what has been
written (R101, R103, R109, R325). -/
def State.packOne (s : State) (p : Nat) (b : PackBlock) (orders : Table (List Nat)) (i : Nat) (r : PackRec) (scale : Word) :
    State × Except (Status × Nat) (Bytes × PackCount) :=
  let rowOrder := (Tab.find i orders).getD []
  let colOrder := ((b.recs.zipIdx.find? fun q => q.1.sort && q.1.consumer == r.tensor).bind fun q => Tab.find q.2 orders).getD []
  match s.packTensor p r scale with
  | (s, .error e) => (s, .error e)
  | (s, .ok rows0) =>
    match (if r.sort && r.bias != 0xFFFF then s.packBias p r rowOrder else (s, .ok ())) with
    | (s, .error e) => (s, .error e)
    | (s, .ok ()) => s.packTiles p r (arrange rowOrder colOrder (r.cell scale 0 false) rows0)

/-! ### The command -/

/-- The STATE area: packer records, then a row map per sorted tensor (R106, R110, R325); false where the map refuses a
write. -/
def State.packState (s : State) (p : Nat) (b : PackBlock) (orders : Table (List Nat)) (records : List Bytes) : State × Bool :=
  let maps := b.recs.zipIdx.filterMap fun (r, i) =>
    if r.sort then some ((sectionChunks 3 r.tensor 16380 (((Tab.find i orders).getD []).map (leBytes 4))).map fun c => (r.tensor, c))
    else none
  let chunks := (sectionChunks 2 0xFFFF 2047 records).map (fun c => (0xFFFF, c)) ++ maps.flatten
  let q := s.writeTiles p b.state (chunks.map fun c => ({ recordHdr .state with tensor := c.1 }, c.2))
  (q.1, q.2.1)

/-- The scale of each record, in record order (R70, R71, R325); an error is how the command ends. -/
def State.packScales (s : State) (p : Nat) (b : PackBlock) : State × Except (Status × Nat) (List Word) :=
  match s.useTile p b.scale { format := some .scale, element := some 0x31, actWidth := some 0 } with
  | (s, .error e) => (s, .error e)
  | (s, .ok (_, payload)) =>
    (s, match (scaleTable payload).bind fun es =>
        b.recs.mapM fun r => (findScale es r.tensor).bind fun e => if fpIsScale e.scale then some e.scale else none with
      | none => .error (.metaFault, 0)
      | some ss => .ok ss)

/-- A packing run ends with a status; tiles sealed before it stand (R300). -/
def State.endPacking (s : State) (id rid : Nat) (st : Status) (detail : Nat) : State :=
  { s with packing := Tab.erase id s.packing }.failRun rid st detail

/-- Every tensor packed in record order: the packer records, and how many tiles (R101, R107). -/
def State.packRecords (s : State) (p : Nat) (b : PackBlock) (orders : Table (List Nat)) (scales : List Word) :
    State × Except (Status × Nat) (List Bytes × Nat) :=
  b.recs.zipIdx.foldl (fun acc q =>
    match acc with
    | (s, .error e) => (s, .error e)
    | (s, .ok (recs, n)) =>
      match s.packOne p b orders q.2 q.1 (scales.getD q.2 fpOne) with
      | (s, .error e) => (s, .error e)
      | (s, .ok (rec_, c)) => (s, .ok (recs ++ [rec_], n + c.tiles))) (s, .ok ([], 0))

/-- The pass that writes: every tensor in record order, then the STATE area (R101, R107). -/
def State.packAll (s : State) (id rid p : Nat) (b : PackBlock) (orders : Table (List Nat)) (scales : List Word) : State :=
  match s.packRecords p b orders scales with
  | (s, .error (st, d)) => s.endPacking id rid st d
  | (s, .ok (recs, n)) =>
    match s.packState p b orders recs with
    | (s, false) => s.endPacking id rid .badParam 0
    | (s, true) => ({ s.removeRun rid with packing := Tab.erase id s.packing }.complete id n).settle

/-- The first pass over the sorted tensors: the key of every row (R105, R107, R499). -/
def State.packKeys (s : State) (p : Nat) (b : PackBlock) (scales : List Word) :
    State × Except (Status × Nat) (Table (List (Nat × Nat))) :=
  ((b.recs.zipIdx).filter (·.1.sort)).foldl (fun acc q =>
    match acc with
    | (s, .error e) => (s, .error e)
    | (s, .ok t) =>
      match s.packTensor p q.1 (scales.getD q.2 fpOne) with
      | (s, .error e) => (s, .error e)
      | (s, .ok rows) => (s, .ok (Tab.put q.2 (rows.map q.1.rowKey) t))) (s, .ok [])

/-- Whether a packing run may work on its cores now: it is at the head of every queue, no core runs a step and
no released frame waits (R107, R276, R280). -/
def State.packTurn (s : State) (rid : Nat) (cores : List Nat) : Bool :=
  !s.power.withhold && 200000 ≤ s.slotTime && cores.all fun c =>
    (s.core c).running == .idle && (s.core c).tail.isNone && (s.core c).queue.head? == some rid && (s.frameOn c).isNone

/-- A run that packs on every core of the partition (R325). -/
def State.queuePack (s : State) (id p : Nat) : State :=
  let rid := s.nextRun
  let s := { (s.setRun rid (Run.fresh noId (.command id) [])) with
             nextRun := rid + 1, packing := Tab.put id { keyed := false, keys := [], orders := [] } s.packing }
  (bitsOf 6 (s.part p).cores).foldl (fun s c => s.onCore c fun x => { x with queue := x.queue ++ [rid] }) s

/-- PACK_TILES taken: its checks, then its place in the queues (R100, R276, R325). -/
def State.startPack (s : State) (id : Nat) (c : Cmd) : State :=
  let b := decodePackBlock c.params
  if !c.packet.byRef ∨ !b.ok then s.fail id .badParam
  else if !s.packMapped c.part b then s.refusal.fail id .badParam
  else match s.allMasters c.part b.recs with
    | (s, .error e) => s.fail id e
    | (s, .ok masters) => if b.areasOk masters then s.queuePack id c.part else s.fail id .badParam

/-- A pass of a PACK_TILES command in its turn (R107): keys first where a tensor is sorted, and what it writes
once every sorted tensor has its order. -/
def State.packPass (s : State) (id : Nat) (c : Cmd) (k : Packing) (rid : Nat) : State :=
  let b := decodePackBlock c.params
  let p := c.part
  let sorted := (b.recs.zipIdx.filter (·.1.sort)).map (·.2)
  let ready := sorted.all fun i => (Tab.find i k.orders).isSome
  if !s.packTurn rid (bitsOf 6 (s.part p).cores) || (k.keyed && !ready) then s
  else match s.packScales p b with
    | (s, .error (st, d)) => s.endPacking id rid st d
    | (s, .ok scales) =>
      if ready then s.packAll id rid p b k.orders scales
      else match s.packKeys p b scales with
        | (s, .error (st, d)) => s.endPacking id rid st d
        | (s, .ok keys) => { s with packing := Tab.put id { k with keyed := true, keys := keys } s.packing }

/-- PACK_TILES: taken, or its next pass where it is in flight already. -/
def execPackTiles (id : Nat) (s : State) : Result :=
  match s.cmd id, Tab.find id s.packing, s.runOf id with
  | some c, some k, some rid => .next (onlyIf s.working (fun s => s.packPass id c k rid) s)
  | _, _, _ => opcodeRow id 0x0310 (fun c s => s.startPack id c) s

/-- PACK_SORT: one sorted tensor's rows sorted, on the lowest-numbered core, after the first pass (R105, R107,
R499). -/
def execPackSort (id : Nat) (s : State) : Result :=
  .next (onlyIf s.working (fun s =>
    match s.cmd id, Tab.find id s.packing, s.runOf id with
    | some c, some k, some rid =>
      let b := decodePackBlock c.params
      if !k.keyed || !s.packTurn rid (bitsOf 6 (s.part c.part).cores) then s
      else withSome (k.keys.find? fun e => (Tab.find e.1 k.orders).isNone) s fun e =>
        let consumer := (b.recs[e.1]?).bind fun r => b.recs.find? fun q => q.tensor == r.consumer
        { s with packing := Tab.put id { k with orders := Tab.put e.1 (sortRows (unitSize consumer) e.2) k.orders } s.packing }
    | _, _, _ => s) s)

end Sys2Proof.Machine
end

