-- ==== Sys2Proof/Machine/Streams.lean ====
section
/-! DEFINITION. Opening, closing and querying stream contexts (R274, R277, R326 to R328, R342, R343). -/

namespace Sys2Proof.Machine

/-! ### The descriptor -/

/-- A stream descriptor of 64 bytes (Table 16-3). PEER is a byte string in network order (log entry 29). -/
def decodeDesc (b : Bytes) : StreamDesc :=
  let v6 := bitOf (leAt b 1 1) 4
  { version := leAt b 0 1, port := leAt b 1 1 % 16, v6 := v6, box := leAt b 2 1 % 64, policy := leAt b 3 1 % 4,
    noResult := bitOf (leAt b 3 1) 2, localUdp := leAt b 4 2, peerUdp := leAt b 6 2, ssrcIn := leAt b 8 4,
    ssrcOut := leAt b 12 4, payloadType := leAt b 16 1, dscp := leAt b 17 1, frameLen := leAt b 18 2,
    outOffset := leAt b 20 4, outHandle := leAt b 24 1, outLen := leAt b 26 2, tsStep := leAt b 28 4,
    peer := if v6 then beAt b 32 16 else beAt b 44 4, period := leAt b 48 8, deadline := leAt b 56 8 }

/-- Whether the reserved bits of a descriptor are 0. -/
def descClean (b : Bytes) : Bool :=
  field (leAt b 1 1) 7 5 == 0 && leAt b 2 1 < 64 && field (leAt b 3 1) 7 3 == 0 && leAt b 25 1 == 0

/-- Whether every field of a descriptor lies in its range (R342, R274, Table 16-3). -/
def StreamDesc.inRange (d : StreamDesc) : Bool :=
  d.version == 0x10 && d.policy != 3 && 1024 ≤ d.localUdp && d.payloadType < 128 &&
  !(64 ≤ d.payloadType && d.payloadType ≤ 95) && d.dscp < 64 && d.frameLen % 64 == 0 && 64 ≤ d.frameLen &&
  d.frameLen ≤ 65472 && d.outOffset < 2 ^ 27 && 1 ≤ d.outLen && d.outLen ≤ 9160 &&
  1000000 ≤ d.period && d.period ≤ 10000000000 && 500000 ≤ d.deadline && d.deadline ≤ 10000000000

/-- Result bytes a port's MTU leaves room for (R342). -/
def outRoom (mtu : Nat) (v6 : Bool) : Nat := mtu - if v6 then 76 else 56

/-! ### The checks of OPEN_STREAM -/

/-- The cores the steps of a route run on. -/
def stepCores (steps : List RouteStep) : List Nat := (List.range 6).filter fun c => steps.any (RouteStep.onCore c)

/-- Whether a route may serve a stream on a core with a frame letterbox (R274). -/
def State.streamable (s : State) (r : Route) (core box : Nat) : Bool :=
  !r.bucketed && stepCores r.steps == [core] &&
  (r.steps.all fun st => match st with
    | .wait _ b _ => b == box
    | .layer l => !l.leavesOpen
    | _ => true) &&
  (numbered r.steps).all fun e =>
    stepCounted (floorPace s.admission) (stepWork (r.plan r.steps) core e.1 e.2) ≤ 100000

/-- Whether a letterbox can be a stream's frame letterbox (R342). -/
def Letterbox.frameBox (b : Letterbox) (frameLen : Nat) : Bool :=
  b.shape.slotSize != 0 && frameLen ≤ b.shape.slotSize && b.shape.senders.head? == some 0xFFFF

/-- Whether a local UDP port of an Ethernet port is free for a stream with this SSRC (R341, R342). -/
def State.udpFree (s : State) (d : StreamDesc) : Bool :=
  (s.streams.all fun e => !(e.2.desc.port == d.port && e.2.desc.localUdp == d.localUdp && e.2.desc.ssrcIn == d.ssrcIn)) &&
  s.channels.all fun e => !(e.2.port == d.port && e.2.localUdp == d.localUdp)

/-- Whether a key session of a partition is established for a purpose (R326, R329). -/
def State.keyReady (s : State) (p key purpose : Nat) : Bool :=
  (Tab.find key (s.part p).keys).any fun k => k.established && k.purpose == purpose

/-- Check 2 of R326: the route's core where the descriptor, the route and the key session serve. -/
def State.streamCore (s : State) (p : Nat) (b : Bytes) (route key : Nat) : Option (Route × Nat) :=
  let d := decodeDesc b
  match s.ownRoute p route with
  | none => none
  | some r =>
    match stepCores r.steps with
    | [core] =>
      let box := (Tab.find d.box (s.core core).boxes).any fun x => x.frameBox d.frameLen
      if descClean b && d.inRange && (s.port d.port).ethernet && r.boxes.contains (core, d.box) && box &&
          s.udpFree d && d.outLen ≤ outRoom (s.port d.port).addressing.mtu d.v6 && r.stream.isNone &&
          s.keyReady p key 0 && s.streamable r core d.box then
        some (r, core)
      else none
    | _ => none

/-- The counted time of one run of a route at the admission setting (R272). -/
def State.streamCount (s : State) (r : Route) (core : Nat) : Nat :=
  routeCounted (r.plan r.steps) (floorPace s.admission) core

/-- A stream context that has received nothing. -/
def Stream.fresh (p route core key counted : Nat) (d : StreamDesc) : Stream :=
  { partition := p, route := route, core := core, desc := d, key := key, counted := counted, closing := false,
    closers := [], arrivals := [], incoming := [], arrived := 0, released := 0, completed := 0, missing := 0,
    replayed := 0, worst := 0, lastRelease := none, highest := none, lastPayload := [], firstStamp := none,
    sent := 0, unresolved := 0, tally := List.replicate 8 0 }

/-- A frame letterbox opened for a stream, which becomes its first sender (R199, R343). -/
def Letterbox.serve (b : Letterbox) (n : Nat) : Letterbox :=
  { b.opening with shape := { b.shape with senders := b.shape.senders.set 0 (2 * 2 ^ 13 + n) }, stream := some n }

/-- A key session marked as used by a stream or a parcel channel (R353, R409). -/
def State.useKey (s : State) (p key : Nat) : State :=
  s.onPart p fun x => { x with keys := Tab.modify key (fun k => { k with used := true, since := s.now }) x.keys }

/-- A stream context opened (R326, R343). -/
def State.openContext (s : State) (id p route key : Nat) (r : Route) (core : Nat) (d : StreamDesc) : State :=
  let n := (Tab.freeKey s.streams 0 64).getD 0
  let s := s.setStream n (Stream.fresh p route core key (s.streamCount r core) d)
  let s := (s.onRoute route fun r => { r with stream := some n }).useKey p key
  (((s.onBox core d.box fun b => b.serve n).grantBox core d.box).askHop d.port d.v6 d.peer).complete id n

/-- OPEN_STREAM's effect, its checks in the order of R326. -/
def State.openStream (s : State) (id : Nat) (c : Cmd) : State :=
  let p := c.part
  let route := leAt c.params 12 2
  let key := leAt c.params 14 2
  if s.power.warn then s.fail id .powerHold
  else if leAt c.params 8 4 ≠ 64 then s.fail id .badParam
  else match s.readParams p (leAt c.params 0 8) 64 with
    | (s, .error e) => s.fail id e
    | (s, .ok b) =>
      match s.streamCore p b route key with
      | none => s.fail id .badParam
      | some (r, core) =>
        let d := decodeDesc b
        let mine := (s.streams.filter fun e => e.2.partition == p).length
        if (s.part p).streams ≤ mine ∨ 64 ≤ s.streams.length ∨ !(s.part p).perturb.isEmpty then s.fail id .admissionRefused
        else
          let (ok, s) := s.testAdmission s.admission [core]
            [{ t := d.period, d := d.deadline, c := s.streamCount r core }] (fun _ => 0)
          if ok then s.openContext id p route key r core d else s.fail id .admissionRefused

/-- OPEN_STREAM. -/
def execOpenStream (id : Nat) (s : State) : Result := opcodeRow id 0x0401 (fun c s => s.openStream id c) s

/-! ### Closing and querying -/

/-- A stream context of a partition. -/
def State.ownStream (s : State) (p n : Nat) : Option Stream := (s.stream n).filter fun x => x.partition == p

/-- CLOSE_STREAM: no further frame is released, and the command waits until the letterbox is closed (R327). -/
def execCloseStream (id : Nat) (s : State) : Result :=
  opcodeRow id 0x0402 (fun c s =>
    let n := leAt c.params 0 1
    match s.ownStream c.part n with
    | none => s.fail id .badParam
    | some _ => (s.onStream n fun x => { x with closing := true, closers := x.closers ++ [id] }).settle) s

/-- U of a core × 2^16, truncated (Table 15-11). -/
def State.coreUse (s : State) (core : Nat) : Nat :=
  let u := utilisation (s.loads (floorPace s.admission) core)
  min (2 ^ 32 - 1) (u.num * 65536 / u.den)

/-- The record of an open or closing context (Table 15-11). -/
def State.streamRecord (s : State) (x : Stream) : Bytes :=
  let c := match s.route x.route with
    | some r => s.streamCount r x.core
    | none => x.counted
  leBytes 1 (if x.closing then 2 else 1) ++ leBytes 1 x.core ++ leBytes 2 x.route ++ zeros 4 ++
  leBytes 8 x.desc.period ++ leBytes 8 x.desc.deadline ++ leBytes 4 (min c (2 ^ 32 - 1)) ++ leBytes 4 (s.coreUse x.core) ++
  leBytes 4 x.arrived ++ leBytes 4 x.released ++ leBytes 4 x.completed ++ leBytes 4 x.missing ++ leBytes 4 x.replayed ++
  leBytes 4 (min x.worst (2 ^ 32 - 1)) ++ leBytes 8 (x.lastRelease.getD 0)

/-- QUERY_STREAM: a context that is not open answers STATE 0 (R328; log entry 30). -/
def execQueryStream (id : Nat) (s : State) : Result :=
  opcodeRow id 0x0403 (fun c s =>
    let n := leAt c.params 0 1
    if 64 ≤ n ∨ (s.stream n).any (fun x => x.partition != c.part) ∨ resultAddr 0x0403 c.params % 64 ≠ 0 then s.fail id .badParam
    else
      let block := match s.stream n with
        | some x => s.streamRecord x
        | none => zeros 64
      (s.result id (resultAddr 0x0403 c.params) block).complete id) s

end Sys2Proof.Machine
end

