-- ==== Sys2Proof/Machine/Parcels.lean ====
section
/-! DEFINITION. Parcel channels: PARCEL_ACCEPT, PARCEL_SEND, the four datagram types and the channel timers
(R329, R348 to R353). Log entries 31 and 32 say how the model reads the header and the range. -/

namespace Sys2Proof

/-! ### The parcel header as received: its fields are big-endian (R4, Table 16-6) -/

def Parcel.magic (p : Parcel) : Nat := Machine.beAt p.header 0 2
def Parcel.version (p : Parcel) : Nat := Machine.beAt p.header 2 1
def Parcel.type (p : Parcel) : Nat := Machine.beAt p.header 3 1
def Parcel.length (p : Parcel) : Nat := Machine.beAt p.header 6 2
def Parcel.seq (p : Parcel) : Nat := Machine.beAt p.header 8 4
def Parcel.offset (p : Parcel) : Nat := Machine.beAt p.header 12 8
def Parcel.credit (p : Parcel) : Nat := Machine.beAt p.header 20 4
def Parcel.ack (p : Parcel) : Nat := Machine.beAt p.header 24 4

/-- Whether a datagram is as its sender made it: its tag verifies, over as many payload bytes as its header gives. -/
def Parcel.sound (p : Parcel) : Bool := p.tagOk && p.length == p.payload.length

end Sys2Proof

namespace Sys2Proof.Machine

/-! ### Datagrams -/

/-- Bytes a DATA parcel carries: whole lines that fit the port's MTU, at most 8,192 (R348). -/
def parcelSize (mtu : Nat) (v6 : Bool) : Nat := min 8192 ((mtu - if v6 then 96 else 76) / 64 * 64)
def State.dataSize (s : State) (x : Channel) : Nat := max 64 (parcelSize (s.port x.port).addressing.mtu x.v6)

/-- Parcels of a channel. -/
def State.parcelCount (s : State) (x : Channel) : Nat := ceilDiv x.length (s.dataSize x)

/-- The parcel header (Table 16-6). -/
def parcelHeader (version type channel : Nat) (last : Bool) (length seq offset credit ack : Nat) : Bytes :=
  beBytes 2 0xD2E1 ++ beBytes 1 version ++ beBytes 1 type ++ beBytes 1 channel ++ beBytes 1 (bit last) ++
  beBytes 2 length ++ beBytes 4 seq ++ beBytes 8 offset ++ beBytes 4 credit ++ beBytes 4 ack ++ zeros 4

/-- The GCM nonce of a parcel (R349). -/
def parcelNonce (salt : Bytes) (channel type seq : Nat) : Bytes :=
  slice salt 0 4 ++ beBytes 1 channel ++ beBytes 1 type ++ zeros 2 ++ beBytes 4 seq

/-- One datagram sent on a channel, where its next hop is there (R340, R348, R349; log entry 52). -/
def State.sendParcel (s : State) (ch : Nat) (x : Channel) (type : Nat) (last : Bool) (seq offset credit ack : Nat)
    (payload : Bytes) : State :=
  let h := parcelHeader x.version type ch last payload.length seq offset credit ack
  let (key, salt) := s.outboundKeys x.partition x.key
  s.sendVia x.port x.v6 x.peer fun mac =>
    .datagram x.port x.v6 mac x.peer x.localUdp x.peerUdp none (h ++ Config.gcmSeal key (parcelNonce salt ch type seq) h payload)

/-- A channel's extension counter raised (Table 23-8). -/
def Channel.bump (x : Channel) (i : Nat) : Channel := { x with tally := x.tally.set i (x.tally.getD i 0 + 1) }

/-- A channel closed; its key session ends with its last user (R353). -/
def State.dropChannel (s : State) (ch : Nat) : State :=
  match Tab.find ch s.channels with
  | none => s
  | some x => ({ s with channels := Tab.erase ch s.channels }.releaseKey x.partition x.key).settle

/-- A channel ends its command with a status. -/
def State.failChannel (s : State) (ch : Nat) (st : Status) (detail : Nat := 0) : State :=
  match Tab.find ch s.channels with
  | none => s
  | some x => (s.fail x.cmd st detail).dropChannel ch

/-- A control datagram, numbered by its side's counter; before the 2^32-th the channel ends (R349). -/
def State.sendControl (s : State) (ch type offset credit ack : Nat) (payload : Bytes) : State :=
  match Tab.find ch s.channels with
  | none => s
  | some x =>
    if 2 ^ 32 - 1 ≤ x.control then s.failChannel ch .badParam
    else (s.onChannel ch fun x => { x with control := x.control + 1 }).sendParcel ch x type false x.control offset credit ack payload

/-! ### The receiver -/

/-- The receiver's window in parcels (R350). -/
def Channel.window (x : Channel) : Nat := if x.box.isSome then 64 else 256

/-- A GRANT: everything below ACK has landed, and a window beyond it may be sent (R350, R353). -/
def State.sendGrant (s : State) (ch : Nat) : State :=
  match Tab.find ch s.channels with
  | none => s
  | some x =>
    let s := s.perturbed x.partition 5 ch 0
    let ack := if x.finished then s.parcelCount x else x.ack
    let s := s.onChannel ch fun x =>
      { x with sinceGrant := 0, grantAt := if x.ack = 0 && x.above.isEmpty && !x.finished then some (s.now + 1000000) else none }
    s.sendControl ch 2 0 (min (2 ^ 32 - 1) (ack + x.window)) ack []

/-- A landed or repeated parcel that no GRANT has acknowledged dates the next GRANT (R350). -/
def State.owesGrant (s : State) (ch : Nat) : State :=
  match Tab.find ch s.channels with
  | none => s
  | some x =>
    if 16 ≤ x.sinceGrant then s.sendGrant ch
    else s.onChannel ch fun x => { x with grantAt := some ((x.grantAt.filter fun t => t ≤ s.now + 50000).getD (s.now + 50000)) }

/-- Landed parcel numbers taken in: ACK moves past every one without a hole. `n` bounds the steps. -/
def Channel.advance (x : Channel) : Nat → Channel
  | 0 => x
  | n + 1 => if x.above.contains x.ack then { x with ack := x.ack + 1, above := x.above.erase x.ack }.advance n else x

/-- A parcel number recorded as landed. -/
def Channel.landed (x : Channel) (seq : Nat) : Channel :=
  let x := { x with above := if x.ack ≤ seq ∧ !x.above.contains seq then x.above ++ [seq] else x.above,
                    sinceGrant := x.sinceGrant + 1 }
  x.advance (x.above.length + 1)

/-- Whether a line of the range belongs to a tile that has been passed on. -/
def Channel.past (x : Channel) (l : Nat) : Bool :=
  l < x.tileAt / 64 || x.passed.any fun e => e.1 / 64 ≤ l && l < e.1 / 64 + e.2

/-- Lines of the range put on hold; a line already held or passed on stays as it is. -/
def Channel.keep (x : Channel) (offset : Nat) (data : Bytes) : Channel :=
  { x with hold := (List.range (data.length / 64)).foldl (fun t i =>
      let l := offset / 64 + i
      if x.past l || (Tab.find l t).isSome then t else Tab.put l (slice data (64 * i) 64, false) t) x.hold }

/-- Whether some line of a parcel is new to the channel. -/
def Channel.wants (x : Channel) (offset : Nat) (data : Bytes) : Bool :=
  (List.range (data.length / 64)).any fun i =>
    let l := offset / 64 + i
    !x.past l && (Tab.find l x.hold).isNone

/-- Lines `[l, l + n)` of the hold as bytes; none while one is missing. -/
def Channel.lines (x : Channel) (l n : Nat) : Option Bytes :=
  ((List.range n).mapM fun i => (Tab.find (l + i) x.hold).map (·.1)).map List.flatten

/-- The lines a tile at an offset takes by its header, where that fits the range and, into memory, one region (R224,
R351). -/
def Channel.tileLines (x : Channel) (at_ : Nat) (h : TileHdr) : Option Nat :=
  if 65536 < h.payloadLen ∨ x.length < at_ + h.span ∨ (x.box.isNone ∧ !withinRegion (x.area + at_) h.span) then none
  else some (h.span / 64)

/-- Lines dropped from the hold. -/
def Channel.forget (x : Channel) (l n : Nat) : Channel :=
  { x with hold := x.hold.filter fun e => !(l ≤ e.1 && e.1 < l + n) }

/-- A tile whose seal does not match: asked for again once, then the command ends (R352). The byte length in the RESEND is
little-endian (DESIGN CHOICE, log entry 60). -/
def State.badTile (s : State) (ch : Nat) (x : Channel) (at_ n : Nat) : State :=
  if x.retried.contains at_ then (s.countFor x.partition 42 2).failChannel ch .sealFault ((x.area + at_) / 64)
  else
    let s := s.onChannel ch fun x => ({ x with retried := x.retried ++ [at_] }.forget (at_ / 64) n).bump 4
    s.sendControl ch 4 at_ 0 0 (leBytes 8 (64 * n))

/-- The range passed on without a gap, past every passed tile that follows it. `n` bounds the tiles. -/
def Channel.settleTiles (x : Channel) : Nat → Channel
  | 0 => x
  | n + 1 =>
    match x.passed.find? (·.1 == x.tileAt) with
    | none => x
    | some e => { x with tileAt := x.tileAt + 64 * e.2, passed := x.passed.erase e }.settleTiles n

/-- A tile of the range checked and passed on. -/
def Channel.pass (x : Channel) (at_ n : Nat) : Channel :=
  let x := { x with tiles := x.tiles + 1, passed := x.passed ++ [(at_, n)] }.forget (at_ / 64) n
  x.settleTiles x.passed.length

/-- A channel whose area the partition no longer holds: the refused write ends its command (R222). -/
def State.lostArea (s : State) (ch : Nat) : State := s.refusal.failChannel ch .badParam

/-- A checked tile passed on: its header line into memory, or one class 3 write of the whole tile (R227, R351). -/
def State.passTile (s : State) (ch : Nat) (x : Channel) (at_ n : Nat) (tile : Bytes) : State :=
  match x.box with
  | none =>
    match s.write x.partition (x.area + at_) (slice tile 0 64) with
    | none => s.lostArea ch
    | some s => s.onChannel ch fun x => x.pass at_ n
  | some (core, box) =>
    match s.offerWrite core { sender := 3 * 2 ^ 13 + ch, box := box, offset := at_, data := tile, postmark := none,
                              teller := .parcel ch } with
    | (.accepted, s) => s.onChannel ch fun x => { x with boxWrites := x.boxWrites + 1 }.pass at_ n
    | (.refused d, s) => s.failChannel ch .windowClosed d
    | (.duplicate, s) => s.onChannel ch fun x => x.pass at_ n

/-- Payload lines of a tile whose header has landed, each written into memory once, ahead of the header (R351); none
where the map refuses one. -/
def State.landLines (s : State) (ch : Nat) (x : Channel) (at_ n : Nat) : Option State :=
  if x.box.isSome then some s
  else (List.range (n - 1)).foldlM (fun s i =>
    let l := at_ / 64 + 1 + i
    match Tab.find l x.hold with
    | some (b, false) => (s.write x.partition (x.area + 64 * l) b).map fun s =>
        s.onChannel ch fun x => { x with hold := Tab.put l (b, true) x.hold }
    | _ => some s) s

/-- What the landed lines allow, tile by tile from an offset on: payload written, and each tile checked and passed on when
its last byte has landed (R351, R352). Lines beyond a header that is missing wait, since nothing tells yet which of them are
headers (log entry 32). `n` bounds the tiles. -/
def State.takeTiles (s : State) (ch : Nat) : Nat → Nat → State
  | 0, _ => s
  | n + 1, at_ =>
    match Tab.find ch s.channels with
    | none => s
    | some x =>
      match x.passed.find? (·.1 == at_), Tab.find (at_ / 64) x.hold with
      | some e, _ => s.takeTiles ch n (at_ + 64 * e.2)
      | none, none => s
      | none, some (line, _) =>
        let h := TileHdr.decode line
        match x.tileLines at_ h with
        | none => s.badTile ch x at_ 1
        | some k =>
          match s.landLines ch x at_ k with
          | none => s.lostArea ch
          | some s =>
            match x.lines (at_ / 64) k with
            | none => s.takeTiles ch n (at_ + 64 * k)
            | some tile =>
              let good := h.magic = sealedMagic ∧ crc64 (line.take 56 ++ slice tile 64 h.payloadLen) = h.crc
              (if good then s.passTile ch x at_ k tile else s.badTile ch x at_ k).takeTiles ch n (at_ + 64 * k)

/-- Whether a DATA parcel is where its number says, and as long as it must be (R348). -/
def State.placed (s : State) (x : Channel) (p : Parcel) : Bool :=
  let size := s.dataSize x
  p.offset == p.seq * size && p.offset + p.payload.length ≤ x.length &&
  (p.payload.length == size || p.offset + p.payload.length == x.length) && !p.payload.isEmpty

/-- The bitmap of a NACK: parcels from ACK on that have not landed (R348). -/
def State.missingMap (s : State) (x : Channel) : Nat :=
  maskOf ((List.range 64).filter fun i => x.ack + i < s.parcelCount x && !x.above.contains (x.ack + i))

/-- A NACK where a parcel has landed above a hole, at most once per 50 µs, under version 1.1 (R350). Its bitmap is
little-endian (DESIGN CHOICE, log entry 60). -/
def State.nack (s : State) (ch seq : Nat) : State :=
  match Tab.find ch s.channels with
  | none => s
  | some x =>
    if x.version < 0x11 || !x.above.contains seq || x.lastNack.any (fun t => s.now < t + 50000) then s
    else (s.onChannel ch fun x => ({ x with lastNack := some s.now }.bump 2)).sendControl ch 3 0 0 x.ack (leBytes 8 (s.missingMap x))

/-- A DATA parcel at its receiver (R350 to R353). -/
def State.dataParcel (s : State) (ch : Nat) (x : Channel) (p : Parcel) : State :=
  if x.sending then s
  else if !s.placed x p then s.onChannel ch fun x => x.bump 6
  else if x.finished then (s.onChannel ch fun x => x.bump 5).sendGrant ch
  else if !x.wants p.offset p.payload then (s.onChannel ch fun x => x.bump 5).owesGrant ch
  else
    let s := s.onChannel ch fun x => (x.keep p.offset p.payload).landed p.seq
    let s := s.takeTiles ch (x.length / 64 + 1) x.tileAt
    ((s.nack ch p.seq).owesGrant ch).endReceive ch

/-! ### The sender -/

/-- Tiles of the area read and checked until the range is covered up to an offset (R229, R329); an error is how
the command ends. `n` bounds the tiles. -/
def State.readSource (s : State) (x : Channel) (upTo : Nat) : Nat → State × Except (Status × Nat) Channel
  | 0 => (s, .ok x)
  | n + 1 =>
    if min upTo x.length ≤ x.source.length then (s, .ok x)
    else
      let at_ := x.source.length
      match s.useTile x.partition (x.area + at_) {} with
      | (s, .error e) => (s, .error e)
      | (s, .ok (h, _)) =>
        if x.length < at_ + h.span then (s.countFor x.partition 42 2, .error (.sealFault, (x.area + at_) / 64))
        else s.readSource { x with source := x.source ++ (s.read x.partition (x.area + at_) h.span).getD [], tiles := x.tiles + 1 } upTo n

/-- A DATA parcel sent from the bytes read (R348, R349). -/
def State.sendData (s : State) (ch : Nat) (x : Channel) (seq : Nat) : State :=
  let size := s.dataSize x
  let b := (x.source.drop (seq * size)).take size
  (s.perturbed x.partition 5 ch 0).sendParcel ch x 1 (decide (seq + 1 = s.parcelCount x)) seq (seq * size) 0 0 b

/-- DATA parcels sent again: only those already sent (R350). -/
def State.sendAgain (s : State) (ch : Nat) (seqs : List Nat) : State :=
  seqs.foldl (fun s q =>
    match Tab.find ch s.channels with
    | none => s
    | some x => if q < x.nextSeq then (s.onChannel ch fun x => x.bump 1).sendData ch x q else s) s

/-- DATA parcels sent while credit lasts; a tile is read and checked before its first byte is sent (R329, R350).
`n` bounds the parcels. -/
def State.pumpData (s : State) (ch : Nat) : Nat → State
  | 0 => s
  | n + 1 =>
    match Tab.find ch s.channels with
    | none => s
    | some x =>
      if !x.granted || x.credit ≤ x.nextSeq || s.parcelCount x ≤ x.nextSeq then s
      else if 2 ^ 32 - 1 ≤ x.nextSeq then s.failChannel ch .badParam
      else match s.readSource x ((x.nextSeq + 1) * s.dataSize x) (x.length / 64 + 1) with
        | (s, .error (st, d)) => s.failChannel ch st d
        | (s, .ok x) =>
          let s := { s with channels := Tab.put ch { x with nextSeq := x.nextSeq + 1 } s.channels }
          (s.sendData ch x x.nextSeq).pumpData ch n

/-- A GRANT at its sender (R350, R353). -/
def State.grantParcel (s : State) (ch : Nat) (x : Channel) (p : Parcel) : State :=
  if !x.sending then s
  else
    let total := s.parcelCount x
    let s := s.onChannel ch fun x => { x with
      granted := true, credit := max x.credit p.credit, ack := max x.ack (min p.ack total)
      ackAt := if !x.granted ∨ x.ack < p.ack then s.now else x.ackAt }
    if total ≤ p.ack then (s.complete x.cmd x.tiles).dropChannel ch
    else s.pumpData ch (p.credit - x.nextSeq)

/-- A NACK at its sender: every listed parcel again at once (R350). -/
def State.nackParcel (s : State) (ch : Nat) (x : Channel) (p : Parcel) : State :=
  if !x.sending ∨ x.version < 0x11 then s
  else (s.onChannel ch fun x => x.bump 3).sendAgain ch ((bitsOf 64 (leAt p.payload 0 8)).map (p.ack + ·))

/-- A RESEND at its sender: the tile read again under R229 and R230, then the same parcels once more with their first
contents, since no nonce serves two plaintexts (R349, R352; log entry 61). -/
def State.resendParcel (s : State) (ch : Nat) (x : Channel) (p : Parcel) : State :=
  let n := leAt p.payload 0 8
  if !x.sending ∨ x.source.length < p.offset + 64 then s
  else
    match (s.onChannel ch fun x => x.bump 4).useTile x.partition (x.area + p.offset) {} with
    | (s, .error (st, d)) => s.failChannel ch st d
    | (s, .ok _) =>
      let size := s.dataSize x
      let first := p.offset / size
      s.sendAgain ch ((List.range (ceilDiv (p.offset + n) size - first)).map (first + ·))

/-! ### The commands -/

/-- A channel's block (Table 15-12) opened as a channel. -/
def newChannel (id p : Nat) (sending : Bool) (version now : Nat) (b : Bytes) : Channel :=
  let v6 := bitOf (leAt b 1 1) 0
  { partition := p, cmd := id, sending := sending, port := leAt b 0 1, v6 := v6, localUdp := leAt b 2 2,
    peerUdp := leAt b 4 2, peer := if v6 then beAt b 8 16 else beAt b 20 4, key := leAt b 24 2, version := version,
    timeout := leAt b 28 4, area := leAt b 32 8, length := leAt b 40 8,
    box := if !sending && bitOf (leAt b 48 1) 0 then some (leAt b 49 1, leAt b 50 1) else none,
    lastValid := now, control := 0, tiles := 0, ack := 0, above := [], sinceGrant := 0,
    grantAt := if sending then none else some now, lastNack := none, hold := [], tileAt := 0, passed := [], retried := [],
    boxWrites := 0, granted := false, credit := 0, nextSeq := 0, ackAt := now, source := [], finished := false,
    finalUntil := 0, tally := List.replicate 8 0 }

/-- Whether a channel may be opened (R329, R341). -/
def State.channelOk (s : State) (ch : Nat) (x : Channel) : Bool :=
  x.port < 16 && (s.port x.port).ethernet && ch < 64 && s.keyReady x.partition x.key 1 && (Tab.find ch s.channels).isNone &&
  1000 ≤ x.timeout && x.timeout ≤ 60000000 && x.length != 0 && x.length % 64 == 0 && x.area % 64 == 0 &&
  (x.box.isSome || s.mapped x.partition x.area x.length) &&
  (x.box.all fun b => b.1 < 6 && b.2 < 64 && bitOf (s.part x.partition).cores b.1) &&
  (s.streams.all fun e => !(e.2.desc.port == x.port && e.2.desc.localUdp == x.localUdp)) &&
  s.channels.all fun e => !(e.2.port == x.port && e.2.localUdp == x.localUdp)

/-- A parcel command taken: its channel opens, and the command lasts as long (R329). -/
def State.openChannel (s : State) (id : Nat) (c : Cmd) (sending : Bool) : State :=
  let x := newChannel id c.part sending c.parcel s.now c.params
  let ch := leAt c.params 26 1
  if !c.packet.byRef || !s.channelOk ch x then s.fail id .badParam
  else ({ s with channels := Tab.put ch x s.channels }.useKey x.partition x.key).askHop x.port x.v6 x.peer

/-- PARCEL_ACCEPT. -/
def execParcelAccept (id : Nat) (s : State) : Result := opcodeRow id 0x0210 (fun c s => s.openChannel id c false) s
/-- PARCEL_SEND. -/
def execParcelSend (id : Nat) (s : State) : Result := opcodeRow id 0x0211 (fun c s => s.openChannel id c true) s

/-! ### Received datagrams -/

/-- The oldest datagram at a port of a parcel type, with its channel (log entry 8). -/
def State.takeParcel (s : State) (port type : Nat) : Option (Nat × Channel × Parcel × State) :=
  let found := (s.port port).inbox.findSome? fun e => match e.2.2.2 with
    | .parcel p => if p.type = type then some (e, p) else none
    | _ => none
  found.bind fun (e, p) =>
    let s := s.onPort port fun x => { x with inbox := x.inbox.erase e }
    (s.channels.find? fun c => c.2.port == port && c.2.localUdp == e.2.2.1 && c.2.peer == e.1 && c.2.peerUdp == e.2.1).map
      fun c => (c.1, c.2, p, s)

/-- Guard of the rows of parcel datagrams: one of another VERSION, or whose tag fails, is counted and discarded;
a valid one restarts TIMEOUT (R329, R348, R350). -/
def parcelRow (port type : Nat) (s : State) (f : Nat → Channel → Parcel → State → State) : Result :=
  checked (port < 16) s (onlyIf s.working fun s =>
    match s.takeParcel port type with
    | none => s
    | some (ch, x, p, s) =>
      if p.version ≠ x.version then s.onChannel ch fun x => x.bump 7
      else if !p.sound then s.onChannel ch fun x => x.bump 0
      else
        let s := s.onChannel ch fun x => { x with lastValid := s.now }
        (f ch { x with lastValid := s.now } p s).settle)

/-- PARCEL_DATA. -/
def execParcelData (port : Nat) (s : State) : Result := parcelRow port 1 s fun ch x p s => s.dataParcel ch x p
/-- PARCEL_GRANT. -/
def execParcelGrant (port : Nat) (s : State) : Result := parcelRow port 2 s fun ch x p s => s.grantParcel ch x p
/-- PARCEL_NACK. -/
def execParcelNack (port : Nat) (s : State) : Result := parcelRow port 3 s fun ch x p s => s.nackParcel ch x p
/-- PARCEL_RESEND. -/
def execParcelResend (port : Nat) (s : State) : Result := parcelRow port 4 s fun ch x p s => s.resendParcel ch x p

/-! ### Timers -/

/-- Guard of the rows of channel timers. -/
def channelRow (channel : Nat) (s : State) (f : Channel → State → State) : Result :=
  checked (channel < 64) s (onlyIf s.working fun s => withSome (Tab.find channel s.channels) s fun x => f x s)

/-- GRANT_TIMER: the GRANT that is due (R350). -/
def execGrantTimer (channel : Nat) (s : State) : Result :=
  channelRow channel s fun x s =>
    if !x.sending && x.grantAt.any (fun t => t ≤ s.now) then s.sendGrant channel else s

/-- RETRANSMIT_TIMEOUT: parcel ACK again (R350). -/
def execRetransmitTimeout (channel : Nat) (s : State) : Result :=
  channelRow channel s fun x s =>
    if x.sending && x.ack < x.nextSeq && x.ackAt + 500000 ≤ s.now then
      (s.onChannel channel fun x => { x with ackAt := s.now }).sendAgain channel [x.ack]
    else s

/-- CHANNEL_TIMEOUT: nothing valid for TIMEOUT (R329). -/
def execChannelTimeout (channel : Nat) (s : State) : Result :=
  channelRow channel s fun x s =>
    if !x.finished && x.lastValid + 1000 * x.timeout ≤ s.now then s.failChannel channel .peerLost else s

/-- FINAL_GRANT_WINDOW_END: the receiver closes 10 ms after it completed (R353). -/
def execFinalGrantWindowEnd (channel : Nat) (s : State) : Result :=
  channelRow channel s fun x s => if x.finished && x.finalUntil ≤ s.now then s.dropChannel channel else s

end Sys2Proof.Machine
end

