-- ==== Sys2Proof/Machine/Ethernet.lean ====
section
/-! DEFINITION. Ethernet ports: link events, the receive classification, address resolution and the packets of
streams (R339, R341, R345, R354). Log entry 33 says where the model places what the manual only calls counted. -/

namespace Sys2Proof.Machine

/-! ### Classification -/

/-- A port's own addresses: whether a destination is one of them (R341, Table 16-2). -/
def Addressing.owns (a : Addressing) (v6 : Bool) (dest : Nat) : Bool :=
  if v6 then
    match a.v6Hi, a.v6Lo with
    | some hi, some lo => dest == hi * 2 ^ 64 + lo
    | _, _ => false
  else a.ipv4.any fun x => x.1 == dest

/-- Whether a frame carries the tag its port expects (Table 16-2). -/
def Addressing.tagged (a : Addressing) (tag : Option Nat) : Bool :=
  match a.vlan with
  | some v => if bitOf v 15 then tag == some (v % 2 ^ 12) else tag.isNone
  | none => tag.isNone

/-- Whether a frame's destination MAC address reaches a port: its own, or a group address. -/
def Addressing.reached (a : Addressing) (mac : Nat) : Bool := mac == a.mac || bitOf mac 40

/-- What becomes of a received frame: discarded against a counter of its port, handed on, a question for the
port's address, an answer to one of the port's own, discarded against a counter of a channel, or nothing (R341, R348). -/
inductive Verdict where
  | discard (counter : Nat)
  | hand (sender source dest : Nat) (d : Datagram)
  | ask (address : Nat)
  | learn (v6 : Bool) (address mac : Nat)
  | tally (channel counter : Nat)
  | pass
  deriving DecidableEq, Repr

def isPtp : Datagram → Bool
  | .ptp _ => true
  | _ => false

/-- Steps 4 and 5 of R341 for a UDP datagram. -/
def State.classifyUdp (s : State) (port sender source dest : Nat) (d : Datagram) : Verdict :=
  let streams := s.streams.filter fun e => e.2.desc.port == port && e.2.desc.localUdp == dest
  let channel := s.channels.find? fun e => e.2.port == port && e.2.localUdp == dest
  match d with
  | .ptp _ => .pass
  | .rtp p =>
    if streams.isEmpty then .discard (if channel.isSome then 5 else 4)
    else if streams.any (fun e => e.2.desc.ssrcIn == p.ssrc) && !(64 ≤ p.payloadType && p.payloadType ≤ 95) then
      .hand sender source dest d
    else .discard 5
  | .parcel p =>
    match channel with
    | none => .discard (if streams.isEmpty then 4 else 5)
    | some e =>
      if e.2.peer ≠ sender ∨ e.2.peerUdp ≠ source then .discard 5
      else if p.magic = 0xD2E1 ∧ 1 ≤ p.type ∧ p.type ≤ 4 ∧ (p.type ≠ 3 ∨ 0x11 ≤ e.2.version) then .hand sender source dest d
      else if p.version ≠ e.2.version then .tally e.1 7
      else if !p.sound then .tally e.1 0
      else .pass
  | .other => .discard (if streams.isEmpty ∧ channel.isNone then 4 else 5)

/-- The checks of R341 in order: a PTP message over UDP need not be addressed to the port (step 2). -/
def State.classify (s : State) (port : Nat) (k : EthPacket) : Verdict :=
  let a := (s.port port).addressing
  if !k.fcsOk then .discard 0
  else if k.body = .control then .discard 7
  else if !a.tagged k.vlan || !a.reached k.destination then .discard 1
  else match k.body with
    | .control => .pass
    | .arp t request mac => if !request then .learn false t mac else if a.owns false t then .ask t else .pass
    | .neighbour t solicit mac => if !solicit then .learn true t mac else if a.owns true t then .ask t else .pass
    | .ptp _ => .pass
    | .other => .discard 2
    | .otherIp v6 dest => .discard (if a.owns v6 dest then 3 else 2)
    | .udp v6 fragment present ok src dest sp dp d =>
      if !(a.owns v6 dest || isPtp d) then .discard 2
      else if fragment || !(if present then ok else !v6) then .discard 3
      else s.classifyUdp port src sp dp d

/-- PACKET_RECEIVE: only an Ethernet port whose link is up receives (R341). -/
def execPacketReceive (port : Nat) (packet : EthPacket) (s : State) : Result :=
  checked (port < 16) s (onlyIf s.linking fun s =>
    if !(s.port port).ethernet || !(s.port port).up then s
    else match s.classify port packet with
      | .discard i => s.count (6 + port) i
      | .hand a b c d => s.onPort port fun x => { x with inbox := x.inbox ++ [(a, b, c, d)] }
      | .ask t => s.onPort port fun x => { x with asks := x.asks ++ [t] }
      | .learn v6 a mac => s.onPort port fun x => { x with neighbours := Tab.put (hopKey v6 a) mac x.neighbours }
      | .tally ch i => s.onChannel ch fun x => x.bump i
      | .pass => s)

/-- ARP_OR_ND_REQUEST: the oldest question for an address of the port is answered (R339). -/
def execArpOrNdRequest (port : Nat) (s : State) : Result :=
  checked (port < 16) s (onlyIf s.linking fun s =>
    withSome (s.port port).asks.head? s fun t =>
      (s.onPort port fun x => { x with asks := x.asks.drop 1 }).emit (.neighbour port t (s.port port).addressing.mac))

/-! ### Links -/

/-- The next hops of a port's open streams and channels asked for (Table 16-1; log entry 52). -/
def State.askHops (s : State) (port : Nat) : State :=
  let peers := (s.streams.map fun e => (e.2.desc.port, e.2.desc.v6, e.2.desc.peer)) ++
    s.channels.map fun e => (e.2.port, e.2.v6, e.2.peer)
  (peers.filter (·.1 == port)).foldl (fun s q => s.askHop port q.2.1 q.2.2) s

/-- ETHERNET_LINK_UP: a port in Ethernet mode has trained (R339). -/
def execEthernetLinkUp (port : Nat) (s : State) : Result :=
  checked (port < 16) s (onlyIf s.linking fun s =>
    if (s.port port).ethernet && !(s.port port).up then
      ((s.onPort port fun x => { x with up := true }).count (6 + port) 6).askHops port
    else s)

/-- PORT_LINK_DOWN (R361, R364, R373). -/
def execPortLinkDown (port : Nat) (s : State) : Result :=
  checked (port < 16) s (onlyIf s.standby fun s => if (s.port port).up then s.linkDown port else s)

/-! ### Stream packets -/

/-- The packet index of RFC 3711 after the highest index taken so far; none where it lies before index 0
(R345). -/
def packetIndex (highest : Option Nat) (seq : Nat) : Option Nat :=
  match highest with
  | none => some seq
  | some h =>
    let roc := h / 2 ^ 16
    let last := h % 2 ^ 16
    if last < 32768 then
      if last + 32768 < seq then (if roc = 0 then none else some ((roc - 1) * 2 ^ 16 + seq)) else some (roc * 2 ^ 16 + seq)
    else if seq + 32768 < last then some ((roc + 1) * 2 ^ 16 + seq)
    else some (roc * 2 ^ 16 + seq)

/-- Frames missing by an accepted index (R345). -/
def skipped (highest : Option Nat) (index : Nat) : Nat :=
  match highest with
  | none => 0
  | some h => index - h - 1

/-- A packet that passes every check of R345: one letterbox write of FRAME_LEN bytes. -/
def State.writeFrame (s : State) (n : Nat) (x : Stream) (p : RtpPacket) (index : Nat) : State :=
  match s.offerWrite x.core (x.write n (slice p.payload 0 x.desc.frameLen)) with
  | (.accepted, s) =>
    let gap := skipped x.highest index
    s.onStream n fun x =>
      { x with missing := (x.missing + gap) % 2 ^ 32, highest := some index, lastPayload := p.payload
               firstStamp := some (x.firstStamp.getD p.timestamp), incoming := x.incoming ++ [false] }.bump 3 gap
  | (_, s) => s.onStream n fun x => ({ x with missing := (x.missing + 1) % 2 ^ 32 }.bump 3).bump 6

/-- One stream packet (R345). -/
def State.streamPacket (s : State) (n : Nat) (x : Stream) (p : RtpPacket) : State :=
  if !p.tagOk then s.onStream n fun x => x.bump 0
  else match (packetIndex x.highest p.seq).filter fun i => x.highest.all fun h => h < i with
    | none => s.onStream n fun x => x.bump 1
    | some i =>
      if x.desc.frameLen < p.payload.length then s.onStream n fun x => x.bump 2
      else (s.useKey x.partition x.key).writeFrame n x p i

/-- RTP_PACKET: the oldest stream packet at a port (R345; log entry 8). -/
def execRtpPacket (port : Nat) (s : State) : Result :=
  checked (port < 16) s (onlyIf s.working fun s =>
    let found := (s.port port).inbox.findSome? fun e => match e.2.2.2 with
      | .rtp p => some (e, p)
      | _ => none
    withSome found s fun (e, p) =>
      let s := s.onPort port fun x => { x with inbox := x.inbox.erase e }
      withSome (s.streams.find? fun q => q.2.desc.port == port && q.2.desc.localUdp == e.2.2.1 && q.2.desc.ssrcIn == p.ssrc) s
        fun q => s.streamPacket q.1 q.2 p)

end Sys2Proof.Machine
end

