-- ==== Sys2Proof/Machine/PLink.lean ====
section
/-! DEFINITION. How a PLink port comes up, replays and retrains, and how a device becomes master
(R357, R358, R361, R365, R413). -/

namespace Sys2Proof.Machine

/-- The PLink versions there are (Table 17-6), and the highest one two ends share (R365). -/
def plinkVersions : List Nat := [0x10, 0x11, 0x12]
def sharedPlink (h : PeerHello) : Option Nat :=
  (plinkVersions.filter fun v => h.lowVersion ≤ v && v ≤ h.highVersion).getLast?

/-- A link's key or salt: the agreed secret, and how often the port has trained, which makes it new (R413). -/
def linkSecret (label : String) (h : PeerHello) (training n : Nat) : Bytes :=
  slice (Config.deriveKey label h.keyMaterial (leBytes 8 training)) 0 n

/-- A link as training leaves it: every buffer free at the far end, MSG_NO 0, the credit pools leased
(R361, R362, R413, Table 17-7). -/
def Link.fresh (here now training version : Nat) (h : PeerHello) : Link :=
  let (tx, rx) := if here < h.device then ("link lo2hi ", "link hi2lo ") else ("link hi2lo ", "link lo2hi ")
  { peer := h.device, version := version,
    txKey := linkSecret (tx ++ "key") h training 32, txSalt := linkSecret (tx ++ "salt") h training 4,
    rxKey := linkSecret (rx ++ "key") h training 32, rxSalt := linkSecret (rx ++ "salt") h training 4,
    txMsg := 0, rxMsg := 0, replay := [], ackSeq := 0, expected := 0, nakSent := false, replays := 0, ackTime := now,
    retraining := false, credits := classBuffers, freed := [0, 0, 0, 0], queues := [[], [], [], []],
    partials := [[], [], [], []], poolExpiry := List.replicate 4 (now + 10000000) }

/-- A link held down and counted with the miswired ones (R358, R413). -/
def State.miswired (s : State) (p : Nat) : State := (s.count (22 + p) 4).event 7

/-- PLINK_LINK_UP: the checks of R358, R365 and R413 at training, then link-up. -/
def execPlinkLinkUp (port : Nat) (hello : PeerHello) (s : State) : Result :=
  checked (port < 16) s (onlyIf (s.linking && !(s.port port).ethernet && !(s.port port).up) fun s =>
    let x := s.port port
    if portPeer s.cascade.device port ≠ some hello.device ∨ !hello.certificateOk ∨ !hello.serialOk then s.miswired port
    else match sharedPlink hello with
      | none => s.count (22 + port) 5
      | some v =>
        (s.setPort port { x with
          up := true, trainings := x.trainings + 1
          link := some (Link.fresh s.cascade.device s.now x.trainings v hello) }).count 49 3)

/-- REPLAY_TIMEOUT: ACK has not advanced for 1 µs while flits are unacknowledged (R361). -/
def execReplayTimeout (port : Nat) (s : State) : Result :=
  checked (port < 16) s fun s =>
    withSome (s.port port).link s fun l =>
      if l.ackTime + 1000 ≤ s.now then s.replayOrRetrain port else s

/-- LINK_RETRAIN_END: within 5 ms the link is up again with its SEQ and its replay buffer; then it is down
(R361). -/
def execLinkRetrainEnd (port : Nat) (up : Bool) (s : State) : Result :=
  checked (port < 16) s fun s =>
    withSome (s.port port).link s fun l =>
      if !l.retraining then s
      else if up && s.now ≤ l.ackTime + 5000000 then
        State.pump port 1024
          (s.onPort port fun x => { x with link := some { l with retraining := false, replays := 0, ackTime := s.now } })
      else if l.ackTime + 5000000 ≤ s.now then s.linkDown port
      else s

/-- PCIE_LINK_L0 (R357). -/
def execPcieLinkL0 (s : State) : Result :=
  .next (onlyIf s.standby (fun s => { s with cascade := { s.cascade with linkL0 := true } }) s)

end Sys2Proof.Machine
end

