-- ==== Sys2Proof/Machine/Leases.lean ====
section
/-! DEFINITION. Leases at their home: renewal, expiry, revocation and what follows for the commands that wait on
them; the registrations of bucket tags (R256, R370 to R374, R381, Table 17-7). -/

namespace Sys2Proof.Machine

/-! ### Counts and notices -/

/-- An expiry or a revocation counted by kind; those of letterboxes and tags read 0 in a confidential partition
(R378, Table 23-7). -/
def State.countLease (s : State) (partition kind : Nat) (expired : Bool) : State :=
  if expired then s.count 46 kind
  else if kind = 1 ∨ kind = 4 then s.countFor partition 47 (kind - 1) else s.count 47 (kind - 1)

/-- RESOURCE of a lease of this device (R370). -/
def State.resource (s : State) (id : Nat) : Nat := s.cascade.device * 2 ^ 26 + id % 2 ^ 26

/-- REVOKED sent to a reachable holder; `refused` marks a registration that R381 refuses (log entry 36). -/
def State.tellRevoked (s : State) (holder partition kind id : Nat) (refused : Bool) : State :=
  if bitOf s.cascade.lost holder then s
  else s.send { Message.plain 10 s.cascade.device holder (kind + bit refused * 2 ^ 3 + s.resource id * 2 ^ 32) [] with
                partition := partition }

/-- How a command ends that waited for something of a holder: a lost one weighs more (R374). -/
def State.revokedStatus (s : State) (holder : Nat) : Status :=
  if bitOf s.cascade.lost holder then .peerLost else .leaseRevoked

/-! ### Letterbox leases -/

/-- The WAIT of a core on one of its letterboxes. -/
def State.waitsOn (s : State) (core box : Nat) : Option Nat :=
  match (s.core core).running with
  | .stalled rid i => match (s.run rid).bind fun r => r.steps[i]? with
    | some (.wait _ b _) => if b = box then some rid else none
    | _ => none
  | _ => none

/-- A letterbox lease revoked: its holder is refused until the letterbox is reopened, and a pending WAIT on the
letterbox ends its command (Table 17-7). -/
def State.revokeBox (s : State) (l : Lease) (expired tell : Bool) : State :=
  let core := l.resource / 2 ^ 8
  let p := (s.partitionOf core).getD 0
  let s : State := { s with leases := s.leases.map fun x => if x = l then { x with revoked := true } else x }
  let s := s.countLease p 1 expired
  let s := if tell then s.tellRevoked l.holder p 1 l.resource false else s
  match s.waitsOn core (l.resource % 2 ^ 8) with
  | some rid => s.failRun rid (s.revokedStatus l.holder)
  | none => s

/-! ### Claims -/

/-- A value put on a reissue list, which stays in ascending order (R254). -/
def insertValue (v : Nat) : List Nat → List Nat
  | [] => [v]
  | x :: xs => if v ≤ x then v :: x :: xs else x :: insertValue v xs

/-- Claims of a counter revoked: their values wait to be issued again (R256). -/
def State.revokeClaims (s : State) (n : Nat) (gone : List Claim) (expired tell : Bool) : State :=
  let c := s.counter n
  let s := s.setCounter n { c with
    outstanding := c.outstanding.filter (!gone.contains ·)
    reissue := gone.foldl (fun t o => insertValue o.value t) c.reissue }
  let s := gone.foldl (fun s _ => (s.countLease c.owner 2 expired).countFor c.owner 43 3) s
  let s := if tell then ((gone.map (·.device)).eraseDups).foldl (fun s d => s.tellRevoked d c.owner 2 n false) s else s
  s.serveHeld n

/-! ### Bucket tags -/

/-- The participants of a reduction (R381). -/
def State.participants (s : State) : Nat := if s.inCascade then s.cascade.members else 2 ^ s.cascade.device

/-- A bucket's command ended on this device. -/
def State.endBucket (s : State) (tag : Nat) (st : Status) : State :=
  match Tab.find tag s.buckets with
  | none => s
  | some b => (s.dropBucket tag b).fail b.cmd st

/-- ARG of a REDUCE message without a chunk (Table 18-2). -/
def reduceArg (tag kind value : Nat) : Nat := tag % 2 ^ 12 + kind * 2 ^ 12 + value % 2 ^ 32 * 2 ^ 32

/-- A REDUCE message sent, its flits counted where it leaves the device (R363, R394). -/
def State.sendReduce (s : State) (m : Message) : State :=
  (if m.dstDevice = s.cascade.device then s else s.count 48 1 (ceilDiv (64 + m.payload.length) 240)).send m

/-- START to every participant (R381). -/
def State.startTag (s : State) (tag : Nat) (h : TagHome) : State :=
  (bitsOf 64 s.participants).foldl
    (fun s d => s.sendReduce { Message.plain 8 s.cascade.device d (reduceArg tag 1 0) [] with partition := h.first.partition }) s

/-- A registration granted its lease; with the last one the reduction starts. -/
def State.grantTag (s : State) (tag : Nat) (h : TagHome) (r : Registration) : State :=
  let h := { h with registered := h.registered ||| 2 ^ r.device }
  let lease : Lease := { kind := 4, holder := r.device, resource := tag, expiry := s.now + 10000000, revoked := false }
  let s : State := if r.device = s.cascade.device then s else { s with leases := s.leases ++ [lease] }
  if h.registered &&& s.participants = s.participants then
    ({ s with tagHomes := Tab.put tag { h with running := true } s.tagHomes }).startTag tag h
  else { s with tagHomes := Tab.put tag h s.tagHomes }

/-- The holder of a tag told that it is revoked. -/
def State.revokeTagOf (s : State) (tag : Nat) (h : TagHome) (d : Nat) (expired : Bool) (st : Status) : State :=
  let s := s.countLease h.first.partition 4 expired
  if d = s.cascade.device then s.endBucket tag st else s.tellRevoked d h.first.partition 4 tag false

/-- A tag taken from every holder but `spare` and freed: what waited for it is handed back (R381). -/
def State.dropTag (s : State) (tag : Nat) (h : TagHome) (spare : Nat) (expired : Bool) (st : Status) : State :=
  let ds := (bitsOf 64 h.registered).filter fun d => !bitOf h.completed d && d != spare
  let s := ds.foldl (fun s d => s.revokeTagOf tag h d expired st) (s.count 48 4)
  { s with tagHomes := Tab.erase tag s.tagHomes
           leases := s.leases.filter fun l => !(l.kind == 4 && l.resource == tag) }

/-- A registration refused because it differs from the first one (R381). -/
def State.refuseTag (s : State) (tag : Nat) (r : Registration) : State :=
  let s := s.count 48 3
  if r.device = s.cascade.device then s.endBucket tag .badParam else s.tellRevoked r.device r.partition 4 tag true

/-- Whether two registrations agree (R381; the partition too, log entry 36). -/
def Registration.agrees (a b : Registration) : Bool :=
  a.partition == b.partition && a.values == b.values && a.bs16 == b.bs16 && a.tileSeal == b.tileSeal

/-- A registration at the home (R381). `n` bounds how many waiting ones a revocation hands back in turn. -/
def State.register : Nat → Nat → State → Registration → State
  | 0, _, s, _ => s
  | n + 1, tag, s, r =>
    match Tab.find tag s.tagHomes with
    | none =>
      s.grantTag tag { first := r, registered := 0, completed := 0, deadline := s.now + 1000000000, running := false, waiting := [] } r
    | some h =>
      if h.running || bitOf h.registered r.device then
        { s with tagHomes := Tab.put tag { h with waiting := h.waiting ++ [r] } s.tagHomes }
      else if r.agrees h.first then s.grantTag tag h r
      else h.waiting.foldl (State.register n tag) (((s.refuseTag tag r).dropTag tag h 64 false .leaseRevoked))

/-- A tag revoked, and what waited for it registered (R381, Table 17-7). -/
def State.revokeTag (s : State) (tag : Nat) (spare : Nat) (expired : Bool) (st : Status) : State :=
  match Tab.find tag s.tagHomes with
  | none => s
  | some h => h.waiting.foldl (State.register 64 tag) (s.dropTag tag h spare expired st)

/-- A holder that has completed; the tag is freed with the last one (R381). -/
def State.tagCompleted (s : State) (tag d : Nat) : State :=
  match Tab.find tag s.tagHomes with
  | none => s
  | some h =>
    let h := { h with completed := h.completed ||| 2 ^ d }
    let s : State := { s with leases := s.leases.filter fun l => !(l.kind == 4 && l.resource == tag && l.holder == d) }
    if h.completed &&& h.registered = h.registered then
      h.waiting.foldl (State.register 64 tag) ({ s with tagHomes := Tab.erase tag s.tagHomes })
    else { s with tagHomes := Tab.put tag h s.tagHomes }

/-! ### Revoking by name -/

/-- Whether KIND and RESOURCE name a lease of this device (R331, R370). -/
def State.names (s : State) (kind res k id : Nat) : Bool :=
  (kind == 0 || kind == k) && (res == 0xFFFFFFFF || res == s.resource id)

/-- The ports whose link ends at a device, and how many of its credit pools are named. -/
def State.poolsNamed (s : State) (d kind res : Nat) : List Nat :=
  (List.range 16).flatMap fun p =>
    if (s.port p).link.any fun l => l.peer == d then
      (List.range 4).filterMap fun c => if s.names kind res 3 (c * 2 ^ 4 + p) then some p else none
    else []

/-- The leases of a holder that are named, revoked at once: how many, and the state (R331, R372). -/
def State.revokeNamed (s : State) (d kind res : Nat) (tell : Bool) : Nat × State :=
  if d = s.cascade.device then (0, s)
  else
    let boxes := s.leases.filter fun l => l.kind == 1 && l.holder == d && !l.revoked && s.names kind res 1 l.resource
    let counters := ((s.counters.filter fun e => 72 ≤ e.1 && s.names kind res 2 e.1).map fun e =>
      (e.1, e.2.outstanding.filter fun o => o.device == d)).filter fun e => !e.2.isEmpty
    let pools := s.poolsNamed d kind res
    let tags := (s.leases.filter fun l => l.kind == 4 && l.holder == d && s.names kind res 4 l.resource).map (·.resource)
    let n := boxes.length + (counters.map (·.2.length)).sum + pools.length + tags.length
    let s := boxes.foldl (fun s l => s.revokeBox l false tell) s
    let s := counters.foldl (fun s e => s.revokeClaims e.1 e.2 false tell) s
    let s := tags.foldl (fun s t => s.revokeTag t 64 false (s.revokedStatus d)) s
    let s := pools.foldl (fun s _ => s.countLease 0 3 false) s
    let s := pools.eraseDups.foldl (fun s p => s.linkDown p) s
    (n, s)

/-- Every lease of a holder revoked (R373, R374), its held claims dropped. -/
def State.revokeAll (s : State) (d : Nat) (tell : Bool) : State :=
  let s : State := { s with counters := Tab.mapVal (fun _ c => { c with held := c.held.filter fun h => h.1 != d }) s.counters }
  (s.revokeNamed d 0 0xFFFFFFFF tell).2

/-! ### Renewal and expiry -/

/-- A member's renewal: its letterbox and tag leases run 10 ms from now; an expired one stays so (R371). -/
def State.renewFrom (s : State) (d : Nat) : State :=
  { s with
    cascade := { s.cascade with heard := Tab.put d s.now s.cascade.heard }
    leases := s.leases.map fun l =>
      if l.holder = d ∧ !l.revoked ∧ s.now < l.expiry then { l with expiry := s.now + 10000000 } else l }

/-- A claimer's renewal of one claim (Table 17-7; log entry 27). -/
def State.renewClaimOf (s : State) (d n v : Nat) : State :=
  let c := s.counter n
  s.setCounter n { c with outstanding := c.outstanding.map fun o =>
    if o.device = d ∧ o.value = v ∧ s.now < o.expiry then { o with expiry := s.now + 10000000 } else o }

/-- The oldest RENEW handled. -/
def State.renewal (s : State) : State :=
  match s.takeArrived fun m => m.type == 9 with
  | none => s
  | some (m, s) =>
    if bitOf m.arg 40 then s.renewClaimOf m.srcDevice (m.arg % 256) (field m.arg 39 8)
    else s.renewFrom m.srcDevice

/-- RENEW (R371). -/
def execRenew (s : State) : Result := .next (onlyIf s.working State.renewal s)

/-- RENEW_TIMER: every 1 ms from the join on (R371). -/
def execRenewTimer (s : State) : Result :=
  .next (onlyIf (s.working && s.inCascade && s.cascade.renewAt ≤ s.now) (fun s =>
    ({ s with cascade := { s.cascade with renewAt := s.cascade.renewAt + 1000000 } }).sendAll fun d =>
      Message.plain 9 s.cascade.device d 0 []) s)

/-- Every lease that has reached its expiry revoked (R371, Table 17-7). The holder of a claim is not told. -/
def State.expireLeases (s : State) : State :=
  let boxes := s.leases.filter fun l => l.kind == 1 && !l.revoked && l.expiry ≤ s.now
  let tags := ((s.leases.filter fun l => l.kind == 4 && l.expiry ≤ s.now).map (·.resource)).eraseDups
  let counters := ((s.counters.filter fun e => 72 ≤ e.1).map fun e =>
    (e.1, e.2.outstanding.filter fun o => o.device != s.cascade.device && o.expiry ≤ s.now)).filter fun e => !e.2.isEmpty
  let pools := (List.range 16).filter fun p => (s.port p).link.any fun l => l.poolExpiry.any (· ≤ s.now)
  let s := boxes.foldl (fun s l => s.revokeBox l true true) s
  let s := counters.foldl (fun s e => s.revokeClaims e.1 e.2 true false) s
  let s := tags.foldl (fun s t => s.revokeTag t 64 true .leaseRevoked) s
  pools.foldl (fun s p => (s.countLease 0 3 true).linkDown p) s

/-- LEASE_EXPIRY. -/
def execLeaseExpiry (s : State) : Result := .next (onlyIf s.working State.expireLeases s)

/-! ### LEASE_REVOKE and REVOKED -/

/-- The master's word to a home, and the home's answer with its count (R372; log entry 35). -/
def State.revokeOrder (s : State) (home holder kind res id : Nat) : Message :=
  Message.plain 11 s.cascade.device home (8 + holder * 2 ^ 8 + kind * 2 ^ 16 + res * 2 ^ 32) (leBytes 8 id)

/-- A command that awaits homes: it completes with the last answer (R331). -/
def State.revokeAnswered (s : State) (id home n : Nat) : State :=
  match Tab.find id s.cascade.revokes with
  | none => s
  | some (silent, sum) =>
    let silent := silent &&& (2 ^ 64 - 1 ^^^ 2 ^ home)
    if silent = 0 then ({ s with cascade := { s.cascade with revokes := Tab.erase id s.cascade.revokes } }).complete id (sum + n)
    else { s with cascade := { s.cascade with revokes := Tab.put id (silent, sum + n) s.cascade.revokes } }

/-- LEASE_REVOKE's effect: the homes it names, this device among them (R331, R370, R372). -/
def State.leaseRevoke (s : State) (id : Nat) (c : Cmd) : State :=
  let d := leAt c.params 0 1
  let kind := leAt c.params 1 1
  let res := leAt c.params 4 4
  let homes := if res = 0xFFFFFFFF then s.participants else 2 ^ (res / 2 ^ 26)
  if 64 ≤ d ∨ 4 < kind ∨ (s.inCascade ∧ !s.isMaster) ∨ homes &&& s.participants ≠ homes then s.fail id .badParam
  else
    let away := (bitsOf 64 homes).filter fun h => h != s.cascade.device && !bitOf s.cascade.lost h
    let (n, s) := if bitOf homes s.cascade.device then s.revokeNamed d kind res true else (0, s)
    if away.isEmpty then s.complete id n
    else
      let s : State := { s with cascade := { s.cascade with revokes := Tab.put id (maskOf away, n) s.cascade.revokes } }
      away.foldl (fun s h => s.send (s.revokeOrder h d kind res id)) s

/-- LEASE_REVOKE. -/
def execLeaseRevoke (id : Nat) (s : State) : Result := opcodeRow id 0x0504 (fun c s => s.leaseRevoke id c) s

/-- The master's orders and the homes' answers among the messages that have arrived, acted on at once
(R372; log entry 35). -/
def State.revokeTraffic (s : State) : State :=
  match s.takeArrived fun m => m.type == 11 && (m.arg % 256 == 8 || m.arg % 256 == 9) with
  | none => s
  | some (m, s) =>
    let id := leAt m.payload 0 8
    if m.arg % 256 = 9 then s.revokeAnswered id m.srcDevice (field m.arg 63 32)
    else if s.cascade.master ≠ some m.srcDevice then s
    else
      let (n, s) := s.revokeNamed (field m.arg 13 8) (field m.arg 18 16) (field m.arg 63 32) true
      s.send (Message.plain 11 s.cascade.device m.srcDevice (9 + n * 2 ^ 32) (leBytes 8 id))

/-- FLIT_RECEIVE (R360 to R364, R373). -/
def execFlitReceive (port : Nat) (flit : Bytes) (s : State) : Result :=
  checked (port < 16) s (onlyIf s.working fun s => (s.flit port flit).revokeTraffic)

/-- The runs at work on a SHARED layer step of a home, and counter where one is named (R372, R374). -/
def State.sharedRuns (s : State) (home : Nat) (counter : Option Nat) : List Nat :=
  ((List.range 6).flatMap fun c => (((s.layerOn c).map (·.2.2)).toList ++ (s.core c).tail.toList).filterMap fun e =>
    if e.claimsShared && e.layer.homeDevice == home && counter.all (· == e.layer.counter) then some e.run
    else none).eraseDups

/-- A holder told of a revoked lease: the command that held it ends (R372, R381). Leases of a letterbox are held
by no command of this model (log entry 34). -/
def State.revoked (s : State) (m : Message) : State :=
  let kind := m.arg % 8
  let id := field m.arg 57 32
  match kind with
  | 2 => (s.sharedRuns m.srcDevice (some (id % 256))).foldl (fun s r => s.failRun r .leaseRevoked) s
  | 3 => ((List.range 16).filter fun p => (s.port p).link.any fun l => l.peer == m.srcDevice).foldl (fun s p => s.linkDown p) s
  | 4 => s.endBucket (id % 2 ^ 12) (if bitOf m.arg 3 then .badParam else .leaseRevoked)
  | _ => s

/-- REVOKED. -/
def execRevoked (s : State) : Result :=
  .next (onlyIf s.working (fun s => withSome (s.takeArrived fun m => m.type == 10) s fun x => x.2.revoked x.1) s)

end Sys2Proof.Machine
end

