-- ==== Sys2Proof/Machine/Members.lean ====
section
/-! DEFINITION. Joining, leaving and losing members of a cascade (R330, R356, R357, R373 to R377). The replies of
a join are MEMBER messages 6 (accepted) and 7 (refused), which the manual leaves without a code (log entry 35). -/

namespace Sys2Proof.Machine

/-! ### Versions and reports -/

/-- The lowest version of each interface, packed (R299). -/
def lowest (a b : Nat) : Nat :=
  min (a % 256) (b % 256) + min (field a 15 8) (field b 15 8) * 2 ^ 8 + min (field a 23 16) (field b 23 16) * 2 ^ 16

/-- This device's own versions (Table 14-6). -/
def ownVersions : Nat := 0x111223

/-- The cascade versions over a set of members, of which this device is one (R299). -/
def State.lowestOf (s : State) (members : Nat) : Nat :=
  ((bitsOf 64 members).filter (· != s.cascade.device)).foldl
    (fun v d => lowest v (Tab.getD ownVersions s.cascade.peerVersions d)) ownVersions

/-- What a member's reply reports: its versions, then per partition its core mask and confidential flag (R377). -/
def State.report (s : State) : Bytes :=
  leBytes 4 ownVersions ++ [1, 2, 3, 4, 5, 6].flatMap fun p =>
    let x := s.part p
    if x.enabled then leBytes 1 x.cores ++ leBytes 1 (bit x.conf) else [0, 0]

/-- A member's report kept (R366, R377). -/
def Cascade.learn (c : Cascade) (d : Nat) (b : Bytes) : Cascade :=
  { c with
    peerVersions := Tab.put d (leAt b 0 4) c.peerVersions
    peers := [1, 2, 3, 4, 5, 6].foldl (fun t p =>
      Tab.put (d * 8 + p) { cores := leAt b (2 + 2 * p) 1, conf := leAt b (3 + 2 * p) 1 == 1 } t) c.peers }

/-- Whether a mask has the form of R356. -/
def cascadeShape (mask : Nat) : Bool :=
  (List.range 8).any fun k => (List.range 8).any fun m =>
    let n := (k + 1) * (m + 1)
    2 ≤ n && mask == maskOf ((List.range (k + 1)).flatMap fun i => (List.range (m + 1)).map fun p => i * 8 + p)

/-! ### Joining, at the master -/

/-- A cascade joined or enlarged: who is in it, from whom, and when it renews (R371, R376). -/
def State.join (s : State) (master members versions : Nat) : State :=
  let c := s.cascade
  { s with cascade := { c with
      members := members, master := some master, masterLost := false
      lost := c.lost &&& (2 ^ 64 - 1 ^^^ members), versions := versions, prepared := none
      renewAt := if c.members = 0 then s.now + 1000000 else c.renewAt
      heard := (bitsOf 64 members).foldl (fun t d => Tab.put d s.now t) c.heard } }

/-- JOIN_CASCADE's first phase: event 2 to every named device (R330, R356, R357, R376). -/
def State.joinCascade (s : State) (id : Nat) (c : Cmd) : State :=
  let members := leAt c.params 0 8
  let timeout := leAt c.params 8 4
  let present := s.cascade.members &&& (2 ^ 64 - 1 ^^^ s.cascade.lost)
  if !s.isMaster ∨ !bitOf members s.cascade.device ∨ !cascadeShape members ∨ timeout = 0 ∨ 60000 < timeout ∨
      members &&& present ≠ present then s.fail id .badParam
  else
    let others := members ^^^ 2 ^ s.cascade.device
    let s : State := { s with cascade := { s.cascade with
      join := some { cmd := id, members := members, waiting := others, refused := 0,
                     deadline := s.now + timeout * 1000000, versions := 0 } } }
    (bitsOf 64 others).foldl (fun s d =>
      s.send (Message.plain 11 s.cascade.device d (2 + d * 2 ^ 8 + timeout * 2 ^ 32) (leBytes 8 members))) s

/-- JOIN_CASCADE: one join at a time (R376). -/
def execJoinCascade (id : Nat) (s : State) : Result :=
  if s.cascade.join.isSome then .next s else opcodeRow id 0x0501 (fun c s => s.joinCascade id c) s

/-- The second phase: event 3 to every named device, and the command completes (R330, R376). -/
def State.commitJoin (s : State) (j : Join) : State :=
  let versions := s.lowestOf j.members
  let s := (bitsOf 64 (j.members ^^^ 2 ^ s.cascade.device)).foldl (fun s d =>
    s.send (Message.plain 11 s.cascade.device d (3 + d * 2 ^ 8 + versions * 2 ^ 32) (leBytes 8 j.members))) s
  (s.join s.cascade.device j.members versions).complete j.cmd versions

/-- A reply to the first phase: with the last one the join is committed, or refused whole (R357, R376). -/
def State.joinAnswered (s : State) (m : Message) : State :=
  match s.cascade.join with
  | none => s
  | some j =>
    if !bitOf j.waiting m.srcDevice then s
    else
      let refuses := m.arg % 256 == 7
      let j := { j with waiting := j.waiting ^^^ 2 ^ m.srcDevice
                        refused := if refuses then j.refused ||| 2 ^ m.srcDevice else j.refused }
      let c := if refuses then s.cascade else s.cascade.learn m.srcDevice m.payload
      if j.waiting ≠ 0 then { s with cascade := { c with join := some j } }
      else
        let s : State := { s with cascade := { c with join := none } }
        if j.refused ≠ 0 then s.fail j.cmd .badParam j.refused else s.commitJoin j

/-- JOIN_REPLY. -/
def execJoinReply (s : State) : Result :=
  .next (onlyIf s.working (fun s =>
    withSome (s.takeArrived fun m => m.type == 11 && (m.arg % 256 == 6 || m.arg % 256 == 7)) s fun x =>
      x.2.joinAnswered x.1) s)

/-- JOIN_TIMEOUT: silent members end the command (R330). -/
def execJoinTimeout (s : State) : Result :=
  .next (withSome s.cascade.join s fun j =>
    if j.deadline ≤ s.now then
      ({ s with cascade := { s.cascade with join := none } }).fail j.cmd .peerLost j.waiting
    else s)

/-! ### Joining, at a member -/

/-- Whether a device accepts a join: no master, named, and in no other master's cascade (R356, R357, R377). -/
def State.acceptsJoin (s : State) (from_ members : Nat) : Bool :=
  !s.isMaster && bitOf members s.cascade.device && cascadeShape members &&
  (s.cascade.members == 0 || s.cascade.master == some from_)

/-- Event 2 answered (R376, R377). -/
def State.prepare (s : State) (m : Message) : State :=
  let members := leAt m.payload 0 8
  let here := s.cascade.device
  if s.acceptsJoin m.srcDevice members then
    let p : Prepared := { master := m.srcDevice, members := members, until_ := s.now + field m.arg 63 32 * 1000000 }
    ({ s with cascade := { s.cascade with prepared := some p } }).send
      (Message.plain 11 here m.srcDevice (6 + here * 2 ^ 8) s.report)
  else s.send (Message.plain 11 here m.srcDevice (7 + here * 2 ^ 8) [])

/-- Handles the oldest MEMBER message of an event. -/
def memberRow (event : Nat) (s : State) (f : Message → State → State) : Result :=
  .next (onlyIf s.working (fun s =>
    withSome (s.takeArrived fun m => m.type == 11 && m.arg % 256 == event) s fun x => f x.1 x.2) s)

/-- MEMBER_PREPARE. -/
def execMemberPrepare (s : State) : Result := memberRow 2 s fun m s => s.prepare m

/-- MEMBER_COMMIT: a prepared device joins; one whose preparation has lapsed does not (R376). -/
def execMemberCommit (s : State) : Result :=
  memberRow 3 s fun m s =>
    withSome s.cascade.prepared s fun p =>
      if p.master = m.srcDevice ∧ p.members = leAt m.payload 0 8 ∧ s.now < p.until_ then
        s.join m.srcDevice p.members (field m.arg 63 32)
      else s

/-- JOIN_PREPARE_TIMEOUT: back to the earlier state (R376). -/
def execJoinPrepareTimeout (s : State) : Result :=
  .next (withSome s.cascade.prepared s fun p =>
    if p.until_ ≤ s.now then { s with cascade := { s.cascade with prepared := none } } else s)

/-! ### Leaving -/

/-- Relayed commands of this device ended with ST_PEER_LOST, their replies discarded (R374, R375). -/
def State.endRelayed (s : State) : State :=
  let ids := (s.cmds.filter fun e => e.2.relay.isSome).map (·.1)
  let s := ids.foldl (fun s id => s.cutShort id .peerLost) s
  { s with cmds := s.cmds.filter fun e => e.2.relay.isNone }

/-- Commands relayed to a device ended (R374). -/
def State.endRelayedTo (s : State) (d : Nat) : State :=
  s.cmds.foldl (fun s e => if e.2.phase = .relayed ∧ e.2.packet.target = d then s.fail e.1 .peerLost else s) s

/-- This device leaves its cascade and keeps its partitions (R330, R374). -/
def State.leave (s : State) : State :=
  let s := s.endRelayed
  { s with cascade := { s.cascade with
      members := 0, master := none, masterLost := false, lost := 0, versions := ownVersions, heard := [],
      prepared := none, peers := [], peerVersions := [] } }

/-- Other members gone: they are members no longer, their leases are revoked, and a cascade of one is none
(R330). -/
def State.removeMembers (s : State) (gone versions : Nat) : State :=
  let keep := 2 ^ 64 - 1 ^^^ gone
  let c := s.cascade
  let s : State := { s with cascade := { c with
      members := c.members &&& keep, lost := c.lost &&& keep, versions := versions
      heard := c.heard.filter fun e => !bitOf gone e.1
      peers := c.peers.filter fun e => !bitOf gone (e.1 / 8)
      peerVersions := c.peerVersions.filter fun e => !bitOf gone e.1 } }
  let s := (bitsOf 64 gone).foldl (fun s d => (s.endRelayedTo d).revokeAll d true) s
  if popCount 64 s.cascade.members ≤ 1 then s.leave else s

/-- LEAVE_CASCADE's effect (R330; log entry 35): event 4 to every member, then the leavers are removed. -/
def State.leaveCascade (s : State) (id : Nat) (c : Cmd) : State :=
  let gone := leAt c.params 0 8
  let all := s.cascade.members
  if !s.isMaster ∨ gone = 0 ∨ gone &&& all ≠ gone ∨ (bitOf gone s.cascade.device ∧ gone ≠ all) then s.fail id .badParam
  else
    let versions := s.lowestOf (all &&& (2 ^ 64 - 1 ^^^ gone))
    let s := s.sendAll fun d => Message.plain 11 s.cascade.device d (4 + d * 2 ^ 8 + versions * 2 ^ 32) (leBytes 8 gone)
    let others := if bitOf gone s.cascade.device then gone ^^^ 2 ^ s.cascade.device else gone
    (s.removeMembers others versions).complete id versions

/-- LEAVE_CASCADE. -/
def execLeaveCascade (id : Nat) (s : State) : Result := opcodeRow id 0x0502 (fun c s => s.leaveCascade id c) s

/-- MEMBER_LEAVE. -/
def execMemberLeave (s : State) : Result :=
  memberRow 4 s fun m s =>
    let gone := leAt m.payload 0 8
    if s.cascade.master ≠ some m.srcDevice then s
    else if bitOf gone s.cascade.device then s.leave
    else s.removeMembers gone (field m.arg 63 32)

/-! ### Losing a member -/

/-- Buckets and tags of a cascade that has lost a participant (Table 18-4). -/
def State.loseBuckets (s : State) : State :=
  let s := s.buckets.foldl (fun s e => s.endBucket e.1 .peerLost) s
  { s with tagHomes := [], leases := s.leases.filter fun l => l.kind != 4 }

/-- A join or a LEASE_REVOKE that awaits a lost device ended (R374, R376). -/
def State.endAwaiting (s : State) (x : Nat) : State :=
  let s := match s.cascade.join with
    | some j =>
      if bitOf j.members x then ({ s with cascade := { s.cascade with join := none } }).fail j.cmd .peerLost else s
    | none => s
  let ids := (s.cascade.revokes.filter fun e => bitOf e.2.1 x).map (·.1)
  let s := ids.foldl (fun s id => s.fail id .peerLost) s
  { s with cascade := { s.cascade with revokes := s.cascade.revokes.filter fun e => !bitOf e.2.1 x } }

/-- The first notice that another member is lost (R374): commands that depend on it end, then its leases go. -/
def State.loses (s : State) (x : Nat) : State :=
  if !bitOf s.cascade.members x || bitOf s.cascade.lost x || x = s.cascade.device then s
  else
    let s := (({ s with cascade := { s.cascade with lost := s.cascade.lost ||| 2 ^ x } }).count 46 0).event 5
    let s := (s.sharedRuns x none).foldl (fun s r => s.failRun r .peerLost) s
    (((s.loseBuckets.endRelayedTo x).endAwaiting x).revokeAll x false).settle

/-- This device's own loss: its buckets and its SHARED runs of other homes end with ST_PEER_LOST, and it leaves
(R374, Table 18-4). -/
def State.ownLoss (s : State) : State :=
  let homes := (bitsOf 64 s.cascade.members).filter (· != s.cascade.device)
  let runs := homes.flatMap fun d => s.sharedRuns d none
  let s := runs.foldl (fun s r => s.failRun r .peerLost) s
  s.loseBuckets.leave.settle

/-- A report of a loss: the master passes it on; the device concerned leaves (R373, R374). -/
def State.lossReported (s : State) (m : Message) : State :=
  let x := field m.arg 13 8
  if x = s.cascade.device then s.ownLoss
  else
    let fresh := bitOf s.cascade.members x && !bitOf s.cascade.lost x && !s.cascade.notices.contains x
    let s := if s.isMaster && fresh then s.sendAll fun d => s.member d 1 x (2 ^ x) else s
    s.loses x

/-- The oldest notice of this device's own finding that is, or is not, about the master. -/
def State.takeNotice (s : State) (aboutMaster : Bool) : Option (Nat × State) :=
  match s.cascade.notices.find? fun d => (s.cascade.master == some d) == aboutMaster with
  | none => none
  | some d => some (d, { s with cascade := { s.cascade with notices := s.cascade.notices.erase d } })

/-- MEMBER_LOST. -/
def execMemberLost (s : State) : Result :=
  .next (onlyIf s.working (fun s =>
    match s.takeNotice false with
    | some (x, s) => s.loses x
    | none => withSome (s.takeArrived fun m => m.type == 11 && m.arg % 256 == 1) s fun x => x.2.lossReported x.1) s)

/-- The first notice that the master is lost (R375). -/
def State.losesMaster (s : State) (x : Nat) : State :=
  if s.cascade.master ≠ some x ∨ s.cascade.masterLost ∨ x = s.cascade.device then s
  else (({ s with cascade := { s.cascade with masterLost := true } }).endRelayed).loses x

/-- MEMBER_MASTER_LOST. -/
def execMemberMasterLost (s : State) : Result :=
  .next (onlyIf s.working (fun s =>
    match s.takeNotice true with
    | some (x, s) => s.losesMaster x
    | none => withSome (s.takeArrived fun m => m.type == 11 && m.arg % 256 == 5) s fun x =>
        x.2.losesMaster (field x.1.arg 13 8)) s)

/-- MEMBER_RENEW_TIMEOUT: the master has not heard a member for 10 ms (R373). -/
def execMemberRenewTimeout (device : Nat) (s : State) : Result :=
  checked (device < 64) s (onlyIf (s.working && s.isMaster) fun s =>
    if bitOf s.cascade.members device && Tab.getD 0 s.cascade.heard device + 10000000 ≤ s.now then s.markLost device else s)

end Sys2Proof.Machine
end

