-- ==== Sys2Proof/Machine/Relay.lean ====
section
/-! DEFINITION. Relayed commands, remote letterbox writes and remote claims (R366 to R369, R256, R258). -/

namespace Sys2Proof.Machine

/-- Handles the oldest message of a type. -/
def messageRow (type : Nat) (s : State) (f : Message → State → State) : Result :=
  .next (onlyIf s.working (fun s => withSome (s.takeArrived fun m => m.type == type) s fun x => f x.1 x.2) s)

/-! ### Relayed commands -/

/-- A relayed command taken into flight as if issued on the same function here; from a lost master it is refused
(R367, R375). -/
def State.relayed (s : State) (m : Message) : State :=
  if s.cascade.master ≠ some m.srcDevice ∨ s.cascade.masterLost then s
  else
    let f := m.arg % 8
    let k := decodePacket (slice m.payload 0 64)
    let input := some (m.payload.drop 64)
    let pre := if (findOpcode k.opcode).isNone then some .badOpcode else if 6 < f then some .badParam else s.relayTransport f k
    s.takeCmd f (some (m.srcDevice, field m.arg 63 8)) k input pre

/-- RELAY_CMD. -/
def execRelayCmd (s : State) : Result := messageRow 1 s fun m s => s.relayed m

/-- What a relayed command that has succeeded tells the master of a member's partitions (R366). -/
def Cascade.learnCmd (c : Cascade) (d : Nat) (k : Packet) : Cascade :=
  let put (p : Nat) (x : PeerPart) : Cascade := { c with peers := Tab.put (d * 8 + p) x c.peers }
  let old (p : Nat) : PeerPart := Tab.getD { cores := 0, conf := false } c.peers (d * 8 + p)
  if k.opcode = 0x0120 then put (leAt k.params 0 1) { cores := leAt k.params 1 1, conf := false }
  else if k.opcode = 0x0121 then put (leAt k.params 0 1) { cores := 0, conf := false }
  else if k.opcode = 0x0603 then put k.partition { old k.partition with conf := true }
  else c

/-- The target's completion entry and result block, which the master writes as its own (R295, R367). -/
def State.relayAnswered (s : State) (m : Message) : State :=
  let id := field m.arg 63 8
  match s.cmd id with
  | none => s
  | some c =>
    if c.phase ≠ .relayed ∨ c.packet.target ≠ m.srcDevice ∨ c.fn ≠ m.arg % 8 then s
    else
      let status := leAt m.payload 4 2
      let block := m.payload.drop 32
      let params := if c.packet.byRef then (c.input.getD []).drop 64 else c.params
      let s : State := if status / 256 = 0 then { s with cascade := s.cascade.learnCmd m.srcDevice { c.packet with params := params } } else s
      let s := if block.isEmpty then s else s.result id (resultAddr c.packet.opcode params) block
      (s.endRaw id status (leAt m.payload 8 8)).onCmd id fun c =>
        { c with accepted := leAt m.payload 16 8, doneAt := leAt m.payload 24 8 }

/-- RELAY_REPLY. -/
def execRelayReply (s : State) : Result := messageRow 2 s fun m s => s.relayAnswered m

/-! ### Remote letterbox writes -/

/-- Whether a device holds the lease of a letterbox (Table 17-7, R371). -/
def State.boxLeased (s : State) (core box d : Nat) : Bool :=
  s.leases.any fun l => l.kind == 1 && l.holder == d && l.resource == core * 2 ^ 8 + box && !l.revoked && s.now < l.expiry

/-- A lease that an accepted write renews (Table 17-7). -/
def State.renewBox (s : State) (core box d : Nat) : State :=
  { s with leases := s.leases.map fun l =>
      if l.kind = 1 ∧ l.holder = d ∧ l.resource = core * 2 ^ 8 + box then { l with expiry := s.now + 10000000 } else l }

/-- Whether a remote write's sender is a core of its own device and partition that holds the lease (R198, R366). -/
def State.senderHolds (s : State) (core : Nat) (m : Message) : Bool :=
  field m.arg 15 13 == 4 && field m.arg 12 7 == m.srcDevice && s.partitionOf core == some m.partition &&
  s.boxLeased core m.box m.srcDevice

/-- A remote write: answered at once where it is refused or a duplicate, else after its last line has landed
(R258, R369). A sender that holds no lease meets check 2 under an identifier no letterbox names. -/
def State.remoteWrite (s : State) (m : Message) : State :=
  let core := m.dstCore
  if 6 ≤ core then s.send (s.boxAck core m.srcDevice m.srcCore m.box m.postmark (1 + 1 * 2 ^ 8))
  else
    let w : BoxWrite :=
      { sender := if s.senderHolds core m then m.arg % 2 ^ 16 else 0, box := m.box, offset := m.offset, data := m.payload,
        postmark := if m.postmark = 0 then none else some m.postmark,
        teller := .peer m.srcDevice m.srcCore m.box m.postmark }
    match s.offerWrite core w with
    | (.accepted, s) => s.renewBox core m.box m.srcDevice
    | (.refused d, s) => s.send (s.boxAck core m.srcDevice m.srcCore m.box m.postmark (1 + d * 2 ^ 8))
    | (.duplicate, s) => s.send (s.boxAck core m.srcDevice m.srcCore m.box m.postmark 2)

/-- LB_WRITE. -/
def execLbWrite (s : State) : Result := messageRow 3 s fun m s => s.remoteWrite m

/-- RELEASE of a claim whose result its destination has accepted (R256, R369). -/
def State.releaseMark (s : State) (core mark : Nat) : State :=
  match s.layerOn core with
  | none => s
  | some (_, _, e) =>
    if mark = 0 ∨ !e.claimsShared ∨ e.layer.counter ≠ markCounter mark then s
    else if e.layer.homeDevice = s.cascade.device then
      (s.setCounter e.layer.counter ((s.counter e.layer.counter).release (markClaim mark))).serveHeld e.layer.counter
    else s.send { Message.plain 7 s.cascade.device e.layer.homeDevice (e.layer.counter + markClaim mark * 2 ^ 8) [] with
                  srcCore := core }

/-- The outcome of a remote write told to the run that works on its core (R201, R259, R369; log entry 34). -/
def State.writeAnswered (s : State) (m : Message) : State :=
  match (s.core m.dstCore).running.run with
  | none => s
  | some rid =>
    match m.arg % 4 with
    | 0 => s.releaseMark m.dstCore m.postmark
    | 1 => s.failRun rid .windowClosed (field m.arg 15 8)
    | 2 => s.notice rid 5
    | _ => s

/-- LB_ACK. -/
def execLbAck (s : State) : Result := messageRow 4 s fun m s => if 6 ≤ m.dstCore then s else s.writeAnswered m

/-! ### Remote claims -/

/-- A remote claim served at home: held, or answered at once (R254, R255, R368). -/
def State.remoteClaim (s : State) (m : Message) : State :=
  let n := m.arg % 256
  let gen := field m.arg 23 8
  let w : Claimer := { device := m.srcDevice, core := m.srcCore, array := field m.arg 30 24 }
  if n < 72 ∨ (s.counter n).owner ≠ m.partition then s
  else
    let (a, s) := s.claim n w gen 0
    s.answerClaim n w gen a

/-- PLINK_CLAIM. -/
def execPlinkClaim (s : State) : Result := messageRow 5 s fun m s => s.remoteClaim m

/-- The answer to an array's claim (R368). -/
def State.claimAnswered (s : State) (m : Message) : State :=
  let array := m.offset % 128
  match s.layerOn m.dstCore with
  | none => s
  | some (_, _, e) =>
    if !((s.core m.dstCore).array array).claiming ∨ !e.claimsShared ∨ e.layer.homeDevice ≠ m.srcDevice then s
    else s.answerArray m.dstCore array e.layer.counter e.generation
      (if bitOf m.arg 32 then .exhausted else .value (m.arg % 2 ^ 32))

/-- CLAIM_REPLY. -/
def execClaimReply (s : State) : Result := messageRow 6 s fun m s => if 6 ≤ m.dstCore then s else s.claimAnswered m

/-- A tag lease given back: the holder has completed, or has aborted and the tag is revoked from the others
(R381, Table 18-4; log entry 36). -/
def State.tagReleased (s : State) (tag d : Nat) (aborted : Bool) : State :=
  match Tab.find tag s.tagHomes with
  | none => s
  | some h =>
    if !bitOf h.registered d then
      { s with tagHomes := Tab.put tag { h with waiting := h.waiting.filter fun r => r.device != d } s.tagHomes }
    else if aborted then s.revokeTag tag d false .leaseRevoked
    else s.tagCompleted tag d

/-- A claim given back by its claimer (R256). -/
def State.claimReleased (s : State) (n v d : Nat) : State :=
  let c := s.counter n
  if n < 72 ∨ !c.outstanding.any (fun o => o.value == v && o.device == d) then s
  else (s.setCounter n (c.release v)).serveHeld n

/-- PLINK_RELEASE. -/
def execPlinkRelease (s : State) : Result :=
  messageRow 7 s fun m s =>
    if bitOf m.arg 40 then s.tagReleased (field m.arg 19 8) m.srcDevice (bitOf m.arg 41)
    else s.claimReleased (m.arg % 256) (field m.arg 39 8) m.srcDevice

end Sys2Proof.Machine
end

