-- ==== Sys2Proof/Machine/Reduce.lean ====
section
/-! DEFINITION. Gradient reduction: REDUCE_BUCKET and the REDUCE messages (R332, R379 to R392). -/

namespace Sys2Proof.Machine

/-! ### Blocks, slices and chunks (R379) -/

def Bucket.blocks (b : Bucket) : Nat := ceilDiv b.values 32
def Bucket.sliceSize (b : Bucket) : Nat := ceilDiv b.blocks 8

/-- The first block of a chunk, and how many it has: at most 256. -/
def Bucket.chunkSpan (b : Bucket) (s c : Nat) : Nat × Nat :=
  let lo := s * b.sliceSize + 256 * c
  (lo, min (lo + 256) (min b.blocks ((s + 1) * b.sliceSize)) - lo)

/-- The chunks there are: slice and number. -/
def Bucket.chunks (b : Bucket) : List (Nat × Nat) :=
  (List.range 8).flatMap fun s => ((List.range 32).filter fun c => (b.chunkSpan s c).2 != 0).map fun c => (s, c)

/-! ### Values on the wire (little-endian, log entry 68) -/

/-- The forms a chunk travels in (Table 18-3). -/
inductive Wire where
  | fp32 | bs16 | redo
  deriving DecidableEq, Repr

/-- A sum of chunks: its bytes, and the vector steps and the counts of the adds that formed it here (R186). -/
structure Summed where
  bytes : Bytes
  steps : Nat := 0
  count : VCount := {}
  deriving DecidableEq, Repr

/-- FP32 values added pairwise, each one GRAD_ADD rounded under R172 (R182, R383). -/
def addFps (a b : Bytes) : Bytes × VCount :=
  let rs := (List.range (a.length / 4)).map fun i =>
    vAdd (BitVec.ofNat 32 (leAt a (4 * i) 4)) (BitVec.ofNat 32 (leAt b (4 * i) 4))
  (rs.flatMap fun r => leBytes 4 r.bits.toNat, rs.foldl (fun n r => n.add r.count) {})

/-- Entries of a REDO payload added pairwise: the block index, then 32 values. -/
def addRedo (a b : Bytes) : Bytes × VCount :=
  let rs := (List.range (a.length / 132)).map fun i =>
    let (v, n) := addFps (slice a (132 * i + 4) 128) (slice b (132 * i + 4) 128)
    (slice a (132 * i) 4 ++ v, n)
  (rs.flatMap (·.1), rs.foldl (fun n r => n.add r.2) {})

/-- A mantissa limited to ±32,767, and whether it was (R389). -/
def limitBs (v : Int) : Int × Bool := (max (-32767) (min 32767 v), v < -32767 || 32767 < v)

/-- Whether block j of a BS16 chunk of `n` blocks is flagged. -/
def bsFlag (n : Nat) (b : Bytes) (j : Nat) : Bool := bitOf (leAt b (64 * n + j / 8) 1) (j % 8)

/-- A BS16 chunk put together: mantissas and flags per block (Table 18-3). -/
def bsChunk (bs : List (List Int × Bool)) : Bytes :=
  (bs.flatMap fun q => q.1.flatMap fun m => leBytes 2 (unsigned 16 m)) ++
    leBytes 32 (maskOf ((List.range bs.length).filter fun j => (bs[j]?).any (·.2)))

/-- BS16 chunks of `n` blocks added: mantissas as integers, limited; the flags joined (R389). -/
def addBs (n : Nat) (a b : Bytes) : Bytes :=
  bsChunk ((List.range n).map fun j =>
    let ms := (List.range 32).map fun i => limitBs (signed 16 (leAt a (64 * j + 2 * i) 2) + signed 16 (leAt b (64 * j + 2 * i) 2))
    (ms.map (·.1), bsFlag n a j || bsFlag n b j || ms.any (·.2)))

/-- One FP32 value in units of 2^(e − 142), and whether it flags its block (R66, R389). -/
def toBs (e : Nat) (w : Word) : Int × Bool :=
  match fpUnpack w with
  | .nan => (0, true)
  | .inf neg => (if neg then -32767 else 32767, true)
  | .num neg m x =>
    let d : Int := x - ((e : Int) - 142)
    let r := if 0 ≤ d then m * 2 ^ d.toNat else roundAway m (2 ^ (-d).toNat)
    limitBs (if neg then -(r : Int) else r)

/-- m × 2^(e − 142) in FP32, which holds it exactly (R390). -/
def ofBs (e : Nat) (m : Int) : Nat := (roundDyadic .even (m < 0) m.natAbs ((e : Int) - 142) false).bits.toNat

/-- The FP32 values of `n` blocks of a bucket from block `lo`. -/
def Bucket.ownFp (b : Bucket) (lo n : Nat) : Bytes := slice b.own (128 * lo) (128 * n)

/-- The exponent of a block. -/
def Bucket.exponent (b : Bucket) (j : Nat) : Nat := (b.exponents.getD j 0).toNat

/-- This device's own chunk in BS16 (R389). -/
def Bucket.ownBs (b : Bucket) (lo n : Nat) : Bytes :=
  bsChunk ((List.range n).map fun j =>
    let v := b.ownFp (lo + j) 1
    let ms := (List.range 32).map fun i => toBs (b.exponent (lo + j)) (BitVec.ofNat 32 (leAt v (4 * i) 4))
    (ms.map (·.1), ms.any (·.2)))

/-- Keys: a reduced chunk, and a chunk sum of a stage from or to a device. -/
def finalKey (redo : Bool) (s c : Nat) : Nat := (bit redo * 8 + s) * 32 + c
def partialKey (redo : Bool) (s stage c d : Nat) : Nat := (((bit redo * 8 + s) * 8 + stage) * 32 + c) * 64 + d

/-- The flagged blocks of a reduced chunk, by their place in the chunk (R390). -/
def Bucket.flagged (b : Bucket) (s c : Nat) : List Nat :=
  if !b.bs16 then []
  else
    let n := (b.chunkSpan s c).2
    match Tab.find (finalKey false s c) b.finals with
    | none => []
    | some f => (List.range n).filter (bsFlag n f)

/-- The form of a pass, and this device's own part of a chunk in it. -/
def Bucket.wire (b : Bucket) (redo : Bool) : Wire := if redo then .redo else if b.bs16 then .bs16 else .fp32
def Bucket.ownPart (b : Bucket) (redo : Bool) (s c : Nat) : Bytes :=
  let (lo, n) := b.chunkSpan s c
  match b.wire redo with
  | .fp32 => b.ownFp lo n
  | .bs16 => b.ownBs lo n
  | .redo => (b.flagged s c).flatMap fun j => leBytes 4 (256 * c + j) ++ b.ownFp (lo + j) 1

/-- Two parts of a chunk added: one step of the vector unit (R380). -/
def Bucket.add (b : Bucket) (redo : Bool) (s c : Nat) (x y : Summed) : Summed :=
  let n := if redo then (b.flagged s c).length else (b.chunkSpan s c).2
  let (v, k) : Bytes × VCount := match b.wire redo with
    | .fp32 => addFps x.bytes y.bytes
    | .bs16 => (addBs (b.chunkSpan s c).2 x.bytes y.bytes, {})
    | .redo => addRedo x.bytes y.bytes
  { bytes := v, steps := x.steps + y.steps + ceilDiv (32 * n) 256 + 2, count := (x.count.add y.count).add k }

/-- Whether a received part of a chunk has the length of its form. -/
def Bucket.fits (b : Bucket) (redo : Bool) (s c : Nat) (x : Bytes) : Bool :=
  let n := (b.chunkSpan s c).2
  match b.wire redo with
  | .fp32 => x.length == 128 * n
  | .bs16 => x.length == 64 * n + 32
  | .redo => x.length % 132 == 0

/-- Whether a BS16 chunk holds the code −32,768, which can only be damage (R388). -/
def Bucket.damaged (b : Bucket) (redo : Bool) (s c : Nat) (x : Bytes) : Bool :=
  b.wire redo == .bs16 && (List.range (32 * (b.chunkSpan s c).2)).any fun i => leAt x (2 * i) 2 == 0x8000

/-! ### The tree (R383 to R385) -/

/-- The position on which the sum of the group of 2^l positions from g is formed for slice s (R384). -/
def groupPlace (members node l g s : Nat) : Option Nat :=
  let here (q : Nat) := bitOf members (node * 8 + q)
  if here (g + s % 2 ^ l) then some (g + s % 2 ^ l)
  else ((List.range (2 ^ l)).map (g + ·)).find? here

/-- One side of an addition: its value, none while it has not come; no value at all from an empty group. -/
abbrev Side := Option (Option Summed)

/-- Lower side + upper side; an empty side returns the other exactly (R383). -/
def Bucket.join (b : Bucket) (redo : Bool) (s c : Nat) : Side → Side → Side
  | none, y => y
  | x, none => x
  | some (some x), some (some y) => some (some (b.add redo s c x y))
  | _, _ => some none

/-- The sum of the group of 2^l positions from g as this device has it (R383, R384). -/
def Bucket.sum (b : Bucket) (members here : Nat) (redo : Bool) (s c : Nat) : Nat → Nat → Side
  | 0, _ => some (some { bytes := b.ownPart redo s c })
  | l + 1, g =>
    let side (h : Nat) : Side := match groupPlace members (here / 8) l h s with
      | none => none
      | some q =>
        if q = here % 8 then b.sum members here redo s c l h
        else some ((Tab.find (partialKey redo s (l + 1) c (here / 8 * 8 + q)) b.partials).map fun v => { bytes := v })
    b.join redo s c (side g) (side (g + 2 ^ l))

/-- The first and the last node of a reduction. -/
def firstNode (members : Nat) : Nat := (((bitsOf 64 members).head?).getD 0) / 8
def lastNode (members : Nat) : Nat := (((bitsOf 64 members).getLast?).getD 0) / 8

/-- The running sum of a slice's holder: the nodes before it, then its own (R385). -/
def Bucket.running (b : Bucket) (members here : Nat) (redo : Bool) (s c : Nat) : Option Summed :=
  let own := (b.sum members here redo s c 3 0).bind id
  if here / 8 = firstNode members then own
  else match Tab.find (partialKey redo s 4 c (here - 8)) b.partials, own with
    | some x, some y => some (b.add redo s c { bytes := x } y)
    | _, _ => none

/-! ### Sending -/

/-- ARG of a REDUCE message that carries a chunk (Table 18-2). -/
def chunkArg (tag kind : Nat) (bs : Bool) (s stage c : Nat) : Nat :=
  tag % 2 ^ 12 + kind * 2 ^ 12 + bit bs * 2 ^ 15 + s * 2 ^ 16 + stage * 2 ^ 19 + c * 2 ^ 22

/-- The vector unit's work of a sum counted on the core that adds (R186, R380). -/
def State.countSum (s : State) (core : Nat) (x : Summed) : State :=
  let s := (s.countCore core 41 0 x.steps).countCore core 41 1 x.count.invalid
  (s.countCore core 41 2 x.count.overflow).countCore core 41 3 x.count.nan

/-- A chunk sent once to a device, its flits and the adds behind it counted (R387, R394). -/
def State.sendChunk (s : State) (tag : Nat) (redo : Bool) (sl stage c dst : Nat) (x : Summed) : State :=
  match Tab.find tag s.buckets with
  | none => s
  | some b =>
    let key := partialKey redo sl stage c dst
    if b.sent.contains key then s
    else
      let kind := if redo then 4 else if stage = 5 then 3 else 2
      let s : State := { s with buckets := Tab.put tag { b with sent := b.sent ++ [key] } s.buckets }
      (s.countSum b.core x).sendReduce
        { Message.plain 8 s.cascade.device dst (chunkArg tag kind (b.bs16 && !redo) sl stage c) x.bytes with
          partition := b.partition }

/-- The reduced chunk handed down to the lower node's holder and to the other positions of this node (R385). -/
def State.broadcast (s : State) (tag : Nat) (redo : Bool) (sl c : Nat) (x : Bytes) : State :=
  let here := s.cascade.device
  let members := s.participants
  let down := if firstNode members < here / 8 then [here - 8] else []
  let across := ((List.range 8).map (here / 8 * 8 + ·)).filter fun d => d != here && bitOf members d
  (down ++ across).foldl (fun s d => s.sendChunk tag redo sl 5 c d { bytes := x }) s

/-- A chunk's sum of level l sent on where the next level is formed elsewhere (R384). -/
def State.sendLevel (s : State) (tag : Nat) (redo : Bool) (sl c : Nat) (b : Bucket) (l : Nat) : State :=
  let here := s.cascade.device
  let members := s.participants
  let g := here % 8 / 2 ^ l * 2 ^ l
  let g' := here % 8 / 2 ^ (l + 1) * 2 ^ (l + 1)
  match groupPlace members (here / 8) l g sl, groupPlace members (here / 8) (l + 1) g' sl, b.sum members here redo sl c l g with
  | some q, some q', some (some x) =>
    if q = here % 8 ∧ q' ≠ here % 8 then s.sendChunk tag redo sl (l + 1) c (here / 8 * 8 + q') x else s
  | _, _, _ => s

/-- What a slice's holder does with its running sum: the last node's is final, any other's goes to the next
node (R385). -/
def State.holderWork (s : State) (tag : Nat) (redo : Bool) (sl c : Nat) (b : Bucket) : State :=
  let here := s.cascade.device
  let members := s.participants
  match b.running members here redo sl c with
  | none => s
  | some x =>
    if here / 8 = lastNode members then
      ({ s with buckets := Tab.put tag { b with finals := Tab.put (finalKey redo sl c) x.bytes b.finals } s.buckets }).countSum
        b.core x
    else s.sendChunk tag redo sl 4 c (here + 8) x

/-- Everything a chunk's pass allows this device to do now. -/
def State.chunkWork (s : State) (tag : Nat) (redo : Bool) (sl c : Nat) : State :=
  match Tab.find tag s.buckets with
  | none => s
  | some b =>
    if !b.started || (redo && (b.flagged sl c).isEmpty) then s
    else
      let s := [0, 1, 2].foldl (fun s l => s.sendLevel tag redo sl c b l) s
      let holder := groupPlace s.participants (s.cascade.device / 8) 3 0 sl = some (s.cascade.device % 8)
      match Tab.find tag s.buckets with
      | none => s
      | some b =>
        let s := if holder ∧ (Tab.find (finalKey redo sl c) b.finals).isNone then s.holderWork tag redo sl c b else s
        match (Tab.find tag s.buckets).bind fun b => Tab.find (finalKey redo sl c) b.finals with
        | some x => if holder then s.broadcast tag redo sl c x else s
        | none => s

/-! ### Completion -/

/-- Whether every chunk, and every REDO of a flagged one, is reduced (R390). -/
def Bucket.reduced (b : Bucket) : Bool :=
  b.started && b.chunks.all fun q =>
    (Tab.find (finalKey false q.1 q.2) b.finals).isSome &&
    ((b.flagged q.1 q.2).isEmpty || (Tab.find (finalKey true q.1 q.2) b.finals).isSome)

/-- The FP32 values of a reduced chunk: a flagged block's REDO result in place of its own (R390). -/
def Bucket.chunkValues (b : Bucket) (s c : Nat) : Bytes :=
  let (lo, n) := b.chunkSpan s c
  let f := Tab.getD [] b.finals (finalKey false s c)
  if !b.bs16 then f
  else
    let flags := b.flagged s c
    let redo := Tab.getD [] b.finals (finalKey true s c)
    (List.range n).flatMap fun j =>
      match flags.findIdx? (· == j) with
      | some i => slice redo (132 * i + 4) 128
      | none => (List.range 32).flatMap fun i => leBytes 4 (ofBs (b.exponent (lo + j)) (signed 16 (leAt f (64 * j + 2 * i) 2)))

/-- The next exponent of a block from its reduced values (R391). -/
def nextExponent (old : Nat) (values : List Word) : Nat :=
  if values.any fun w => !fpIsFinite w then 254
  else
    let m := values.foldl (fun a w => max a (w.toNat % 2 ^ 31)) 0
    let e := m / 2 ^ 23
    if m = 0 then old
    else max 1 (min 254 ((if e = 0 then bit (2 ^ 22 < m) else if m % 2 ^ 23 = 0 then e else e + 1) + 1))

/-- The exponent tile's new bytes. -/
def Bucket.newExponents (b : Bucket) (values : Bytes) : Bytes :=
  (List.range b.blocks).map fun j =>
    BitVec.ofNat 8 (nextExponent (b.exponent j)
      ((List.range 32).map fun i => BitVec.ofNat 32 (leAt values (128 * j + 4 * i) 4)))

/-- The header of a destination tile: what R379 says of it, and the tensor and offsets that stand in it. -/
def destHdr (line : Bytes) : TileHdr :=
  let h := TileHdr.decode line
  { TileHdr.blank with format := Format.dense.code, element := Target.fp32.code, rows := 128, columns := 128,
                       tensor := h.tensor, rowOffset := h.rowOffset, kOffset := h.kOffset, sorted := h.sorted }

/-- A destination tile written whole and sealed: elements beyond VALUES become 0 (R227, R385; log entry 62). None where the
map refuses it. -/
def State.writeDest (s : State) (p a : Nat) (values : Bytes) : Option State :=
  s.writeTile p a (destHdr ((s.read p a 64).getD [])) (slice values 0 65536)

/-- The destinations and the exponent tile of a whole bucket written (R385, R391). -/
def State.writeBucket (s : State) (b : Bucket) (values : Bytes) : Option State :=
  ((List.range b.dests.length).foldlM (fun (s : State) (i : Nat) =>
    s.writeDest b.partition (b.dests.getD i 0) ((values.drop (65536 * i)).take 65536)) s).bind fun s =>
      if b.exponentTile = 0 then some s
      else s.writeTile b.partition b.exponentTile (TileHdr.decode ((s.read b.partition b.exponentTile 64).getD []))
        (b.newExponents (values ++ zeros 128))

/-- A bucket whose reduction is whole: the destinations sealed, the exponents written for the next step, the tag
given back, the command complete (R385, R390, R391). -/
def State.finishBucket (s : State) (tag : Nat) (b : Bucket) : State :=
  let values := slice (b.chunks.flatMap fun q => b.chunkValues q.1 q.2) 0 (4 * b.values)
  let blocks := (b.chunks.flatMap fun q => b.flagged q.1 q.2).length
  match s.writeBucket b values with
  | none => (((s.refusal.dropBucket tag b).releaseTag tag b.partition true).fail b.cmd .badParam).settle
  | some s =>
    (((((s.count 48 0).countFor b.partition 48 2 blocks).dropBucket tag b).releaseTag tag b.partition false).complete b.cmd blocks).settle

/-- Everything a bucket allows this device to do now. -/
def State.progress (s : State) (tag : Nat) : State :=
  match Tab.find tag s.buckets with
  | none => s
  | some b =>
    let s := b.chunks.foldl (fun s q => s.chunkWork tag false q.1 q.2) s
    let s := b.chunks.foldl (fun s q => s.chunkWork tag true q.1 q.2) s
    match Tab.find tag s.buckets with
    | none => s
    | some b => if b.reduced then s.finishBucket tag b else s

/-! ### REDUCE_BUCKET -/

/-- Whether no handle of a core has a row of a bank in a range. -/
def Core.rowsFree (c : Core) (bank base rows : Nat) : Bool :=
  c.handles.all fun e =>
    let h := e.2.1
    !(bitOf h.mask bank) || base + rows ≤ h.baseRow || h.baseRow + h.rows ≤ base

/-- A staging handle of 1 MiB in free rows: the fewest banks, the lowest row, the lowest banks (R380). -/
def Core.staging (c : Core) : Option Handle :=
  let bases := 0 :: c.handles.map fun e => e.2.1.baseRow + e.2.1.rows
  ((List.range 7).flatMap fun j => bases.map fun r => (2 ^ j, r)).findSome? fun q =>
    let rows := 16384 / q.1
    let banks := (List.range 64).filter fun b => c.rowsFree b q.2 rows
    if q.1 ≤ banks.length ∧ q.2 + rows ≤ 24576 then some { mask := maskOf (banks.take q.1), lines := 16384, baseRow := q.2 }
    else none

/-- Whether a header is that of a DENSE FP32 tile of 128 × 128 (R379, R380). -/
def TileHdr.isGrad (h : TileHdr) : Bool :=
  h.format == Format.dense.code && h.element == Target.fp32.code && h.rows == 128 && h.columns == 128 && !h.raw

/-- Whether a destination may be written: held whole, in one region, with the header of R379, sealed or not (R151, R392). -/
def State.isDest (s : State) (p a : Nat) : Bool :=
  s.mapped p a 65600 && withinRegion a 65600 && (TileHdr.decode ((s.read p a 64).getD [])).isGrad

/-- The values of source tiles in list order, each checked before anything of it is used, or why the command ends (R20,
R229, R380). -/
def State.readSources (s : State) (p : Nat) : List Nat → State × Except (Status × Nat) Bytes
  | [] => (s, .ok [])
  | a :: rest =>
    match s.useTile p a {} with
    | (s, .error e) => (s, .error e)
    | (s, .ok (h, payload)) =>
      if !h.isGrad then (s, .error (.badParam, 0))
      else match s.readSources p rest with
        | (s, .error e) => (s, .error e)
        | (s, .ok more) => (s, .ok (payload ++ more))

/-- The exponent tile's bytes and seal, or why the command ends (R388). Without one: no exponents, seal 0. -/
def State.readExponents (s : State) (p a blocks : Nat) (bs16 : Bool) : State × Except (Status × Nat) (Bytes × Nat) :=
  if a = 0 then (s, .ok ([], 0))
  else match s.useTile p a { format := some .state, element := some 0x31, actWidth := some 0 } with
    | (s, .error e) => (s, .error e)
    | (s, .ok (h, payload)) =>
      (s, if payload.length ≠ blocks then .error (.metaFault, 0)
          else if bs16 ∧ payload.any fun x => x == 0 || x == 255 then .error (.sealFault, a / 64)
          else .ok (payload, h.crc))

/-- Whether two tiles of 65,600 bytes overlap. -/
def tilesMeet (a b : Nat) : Bool := a < b + 65600 && b < a + 65600

/-- The block of a REDUCE_BUCKET command (R332). -/
structure BucketArgs where
  tag : Nat
  bs16 : Bool
  values : Nat
  sources : Nat
  dests : Nat
  exponents : Nat
  deriving DecidableEq, Repr

def decodeBucketArgs (k : Bytes) : BucketArgs :=
  { tag := leAt k 0 2 % 2 ^ 12, bs16 := bitOf (leAt k 2 1) 0, values := leAt k 4 4, sources := leAt k 8 8,
    dests := leAt k 16 8, exponents := leAt k 24 8 }

/-- What REDUCE_BUCKET refuses by its block alone (R332, R365, R379, R380). -/
def State.bucketOk (s : State) (k : BucketArgs) : Bool :=
  (Tab.find k.tag s.buckets).isNone && s.buckets.length < 64 && 1 ≤ k.values && k.values ≤ 2097152 &&
  !(k.bs16 && (k.exponents == 0 || field s.cascade.versions 15 8 < 0x12))

/-- Both tile lists, where the destinations are as R379 has them and none overlaps a source (R380). -/
def State.bucketLists (s : State) (p : Nat) (k : BucketArgs) : State × Except Status (List Nat × List Nat) :=
  let n := ceilDiv k.values 16384
  match s.readList p (k.sources, n) with
  | (s, .error e) => (s, .error e)
  | (s, .ok src) =>
    match s.readList p (k.dests, n) with
    | (s, .error e) => (s, .error e)
    | (s, .ok dst) =>
      if !dst.all (fun a => s.mapped p a 65600) then (s.refusal, .error .badParam)
      else (s, if dst.all (s.isDest p) && !src.any (fun a => dst.any (tilesMeet a)) then .ok (src, dst) else .error .badParam)

/-- What a bucket reads before it registers (R380): the destinations, the source values, the exponents and their seal. -/
def State.readBucket (s : State) (p : Nat) (k : BucketArgs) : State × Except (Status × Nat) (List Nat × Bytes × Bytes × Nat) :=
  match s.bucketLists p k with
  | (s, .error e) => (s, .error (e, 0))
  | (s, .ok (src, dst)) =>
    if s.participants &&& s.cascade.lost ≠ 0 then (s, .error (.peerLost, 0))
    else match s.readSources p src with
      | (s, .error e) => (s, .error e)
      | (s, .ok own) =>
        match s.readExponents p k.exponents (ceilDiv k.values 32) (k.bs16 && popCount 64 s.participants != 1) with
        | (s, .error e) => (s, .error e)
        | (s, .ok (es, crc)) => (s, .ok (dst, own, es, crc))

/-- The destinations' headers opened under R227, step 1 (R392). -/
def State.openDests (s : State) (p : Nat) (dst : List Nat) : Option State :=
  dst.foldlM (fun s a => s.openTile p a (destHdr ((s.read p a 64).getD []))) s

/-- A bucket opened and registered with its home (R380, R381). -/
def State.registerBucket (s : State) (id p core : Nat) (k : BucketArgs) (h : Handle) (dst : List Nat) (own es : Bytes) (crc : Nat) :
    State :=
  let alone := popCount 64 s.participants == 1
  let b : Bucket :=
    { cmd := id, partition := p, bs16 := k.bs16 && !alone, values := k.values, dests := dst, exponentTile := k.exponents,
      exponents := es, own := slice (own.take (4 * k.values)) 0 (128 * ceilDiv k.values 32), core := core,
      started := false, partials := [], finals := [], sent := [] }
  let s := s.onCore core fun x =>
    ({ x with handles := Tab.put (stagingHandle k.tag) (h, 2 ^ 16 + k.tag) x.handles }).raise h.mask
  ({ s with buckets := Tab.put k.tag b s.buckets }).sendReduce
    { Message.plain 8 s.cascade.device s.tagHome (reduceArg k.tag 0 k.values + bit k.bs16 * 2 ^ 15) (leBytes 8 crc) with
      partition := p }

/-- REDUCE_BUCKET's effect up to its registration (R380, R381). -/
def State.reduceBucket (s : State) (id : Nat) (c : Cmd) : State :=
  let p := c.part
  let k := decodeBucketArgs c.params
  if !s.bucketOk k then s.fail id .badParam
  else match s.readBucket p k with
    | (s, .error (st, d)) => s.fail id st d
    | (s, .ok (dst, own, es, crc)) =>
      let core := ((bitsOf 6 (s.part p).cores).head?).getD 0
      match (s.core core).staging with
      | none => s.fail id .badParam
      | some h =>
        match s.openDests p dst with
        | none => s.refusal.fail id .badParam
        | some s => s.registerBucket id p core k h dst own es crc

/-- REDUCE_BUCKET. -/
def execReduceBucket (id : Nat) (s : State) : Result := opcodeRow id 0x0503 (fun c s => s.reduceBucket id c) s

/-! ### Messages -/

/-- The port on which messages from a device reach this one (R359). -/
def inPort (here there : Nat) : Nat :=
  if there % 8 ≠ here % 8 then (there % 8 + 16 - here % 8 - 1) % 8 else if there < here then 7 else 8

/-- A REDUCE message discarded and counted (R387). -/
def State.dropReduce (s : State) (m : Message) : State :=
  if m.srcDevice = s.cascade.device then s else s.count (22 + inPort s.cascade.device m.srcDevice) 7

/-- Handles the oldest REDUCE message of a kind. -/
def reduceRow (kind : Nat) (s : State) (f : Message → Nat → State → State) : Result :=
  .next (onlyIf s.working (fun s =>
    withSome (s.takeArrived fun m => m.type == 8 && field m.arg 14 12 == kind) s fun x => f x.1 (x.1.arg % 2 ^ 12) x.2) s)

/-- REDUCE_REGISTER: a registration reaches the home (R381). -/
def execReduceRegister (s : State) : Result :=
  reduceRow 0 s fun m tag s =>
    if s.tagHome ≠ s.cascade.device ∨ !bitOf s.participants m.srcDevice then s.dropReduce m
    else s.register 64 tag
      { device := m.srcDevice, partition := m.partition, values := field m.arg 63 32, bs16 := bitOf m.arg 15,
        tileSeal := leAt m.payload 0 8 }

/-- REGISTRATION_TIMEOUT: not every participant has registered within 1,000 ms of the first (R381). -/
def execRegistrationTimeout (tag : Nat) (s : State) : Result :=
  .next (withSome (Tab.find tag s.tagHomes) s fun h =>
    if !h.running && h.deadline ≤ s.now then s.revokeTag tag 64 false .leaseRevoked else s)

/-- REDUCE_START (R381, R382). -/
def execReduceStart (s : State) : Result :=
  reduceRow 1 s fun m tag s =>
    match Tab.find tag s.buckets with
    | none => s.dropReduce m
    | some b =>
      if b.partition ≠ m.partition ∨ m.srcDevice ≠ s.tagHome then s.dropReduce m
      else ({ s with buckets := Tab.put tag { b with started := true } s.buckets }).progress tag

/-- A bucket whose data is damaged: its command ends, and the home takes the tag from the others (R388). -/
def State.spoilBucket (s : State) (tag : Nat) (b : Bucket) : State :=
  (((s.dropBucket tag b).releaseTag tag b.partition true).fail b.cmd .sealFault).settle

/-- A chunk taken up by a bucket: a reduced one, or a partial of a stage (R382, R385, R390). -/
def Bucket.takeChunk (b : Bucket) (redo : Bool) (s stage c d : Nat) (x : Bytes) : Bucket :=
  if stage = 5 then { b with finals := Tab.put (finalKey redo s c) x b.finals }
  else { b with partials := Tab.put (partialKey redo s stage c d) x b.partials }

/-- A message with a chunk, whose stages its kind allows (Table 18-2). -/
def State.chunkArrives (s : State) (m : Message) (tag : Nat) (redo : Bool) (stages : List Nat) : State :=
  let sl := field m.arg 18 16
  let stage := field m.arg 21 19
  let c := field m.arg 26 22
  match Tab.find tag s.buckets with
  | none => s.dropReduce m
  | some b =>
    if b.partition ≠ m.partition ∨ !stages.contains stage ∨ bitOf m.arg 15 ≠ (b.bs16 && !redo) ∨ !b.fits redo sl c m.payload then
      s.dropReduce m
    else if b.damaged redo sl c m.payload then s.spoilBucket tag b
    else ({ s with buckets := Tab.put tag (b.takeChunk redo sl stage c m.srcDevice m.payload) s.buckets }).progress tag

/-- REDUCE_PART. -/
def execReducePart (s : State) : Result := reduceRow 2 s fun m tag s => s.chunkArrives m tag false [1, 2, 3, 4]

/-- REDUCE_FINAL. -/
def execReduceFinal (s : State) : Result := reduceRow 3 s fun m tag s => s.chunkArrives m tag false [5]

/-- REDUCE_REDO. -/
def execReduceRedo (s : State) : Result := reduceRow 4 s fun m tag s => s.chunkArrives m tag true [1, 2, 3, 4, 5]

end Sys2Proof.Machine
end

