-- ==== Sys2Proof/Machine/Security.lean ====
section
/-! DEFINITION. Attestation, key sessions, confidential partitions and unlock tokens
(R333 to R335, R404 to R411, R415, R461). -/

namespace Sys2Proof.Machine

/-! ### Attestation -/

/-- Whether an unlock token of KIND 0 is in force (R415). -/
def State.tokenInForce (s : State) : Option Token := s.security.token.filter fun t => s.now < t.expiry

/-- ROUTES_DIGEST of a partition (R405). -/
def State.routesDigest (s : State) (p : Nat) : Bytes :=
  let rs := s.routes.filter fun e => e.2.partition == p
  if rs.isEmpty then zeros 48
  else slice (Config.sha384 (rs.flatMap fun e => leBytes 2 e.1 ++ slice e.2.digest 0 48 ++ leBytes 1 (bit e.2.exact))) 0 48

/-- OWNER_DIGEST of a partition, whose owner is kept as its two public keys (R410). -/
def Partition.ownerDigest (x : Partition) : Bytes :=
  match x.owner with
  | some keys => slice (Config.sha384 keys) 0 48
  | none => zeros 48

/-- Bytes 209 to 359 of a partition report; 0 in a device report (R404, Table 19-3). -/
def State.partReport (s : State) (p key : Nat) (binding : Bytes) : Bytes :=
  if p = 0 then zeros 151
  else
    let x := s.part p
    let flags := bit x.conf + bit s.tokenInForce.isSome * 2 ^ 1 + bit (!x.perturb.isEmpty) * 2 ^ 2 +
      bit (!x.conf) * 2 ^ 3 + bit s.flash.runningB * 2 ^ 4
    leBytes 1 p ++ leBytes 1 x.cores ++ leBytes 1 flags ++ leBytes 2 key ++
      leBytes 2 (s.routes.filter fun e => e.2.partition == p).length ++ s.routesDigest p ++ slice binding 0 48 ++ x.ownerDigest

/-- The report of Table 19-3 with both signatures (R404). -/
def State.attestReport (s : State) (p key : Nat) (nonce binding : Bytes) : Bytes :=
  let image := s.flash.running
  let c := s.cascade
  let body := leBytes 4 0x7D1E0601 ++ leBytes 1 1 ++ leBytes 1 (if p = 0 then 0 else 1) ++ leBytes 2 5741 ++ slice nonce 0 32 ++
    leBytes 8 s.now ++ leBytes 8 s.flash.serial ++ leBytes 4 (image.elim 0 (·.version)) ++ leBytes 4 (image.elim 0 (·.svn)) ++
    slice s.security.romDigest 0 48 ++ slice s.security.fwDigest 0 48 ++ slice s.security.configDigest 0 48 ++
    leBytes 1 (c.device + bit s.isMaster * 2 ^ 6 + bit s.inCascade * 2 ^ 7) ++ s.partReport p key binding ++
    leBytes 4 s.flash.credVersion ++ zeros 20 ++ slice Config.identityEd 0 32 ++ slice Config.identityMldsa 0 1952
  body ++ slice (Config.edSign "plynoa attest v1" body) 0 64 ++ slice (Config.mldsaSign "plynoa attest v1" body) 0 3309

/-- The transcript hash a report binds: none where the named key session is not open in the partition (R404). -/
def State.binding (s : State) (p key : Nat) : Option Bytes :=
  if key = 0 then some [] else (Tab.find key (s.part p).keys).map (·.th)

/-- ATTEST (R333, R404). -/
def execAttest (id : Nat) (s : State) : Result :=
  opcodeRow id 0x0601 (fun c s =>
    let key := leAt c.params 40 2
    let out := resultAddr 0x0601 c.params
    match s.binding c.part key with
    | none => s.fail id .badParam
    | some th =>
      if out % 64 ≠ 0 then s.fail id .badParam
      else (s.result id out (s.attestReport c.part key (slice c.params 0 32) th)).complete id 5741) s

/-! ### Key sessions -/

/-- The fields all key-exchange messages begin with (R406). -/
def keyHeader (kind purpose session : Nat) : Bytes :=
  leBytes 4 0x7D1E0602 ++ leBytes 1 1 ++ leBytes 1 kind ++ leBytes 1 purpose ++ leBytes 1 session

/-- Whether a message begins with them and has its length (Table 19-4). -/
def keyMessageOk (m : Bytes) (kind purpose length : Nat) : Bool :=
  m.length == length && slice m 0 7 == slice (keyHeader kind purpose 0) 0 7

/-- The derived keys of a purpose: labels and lengths (Table 19-5, R427). -/
def keyLabels (purpose : Nat) : List (String × Nat) :=
  [("confirm peer", 48), ("confirm device", 48)] ++
  if purpose = 0 then [("srtp p2d key", 32), ("srtp p2d salt", 12), ("srtp d2p key", 32), ("srtp d2p salt", 12)]
  else if purpose = 3 then [("mgt c2d key", 32), ("mgt c2d salt", 4), ("mgt d2c key", 32), ("mgt d2c salt", 4)]
  else [("parcel p2d key", 32), ("parcel p2d salt", 4), ("parcel d2p key", 32), ("parcel d2p salt", 4)]

/-- The key schedule (R408). -/
def keySchedule (purpose : Nat) (secret th : Bytes) : List Bytes :=
  (keyLabels purpose).map fun q => slice (Config.deriveKey q.1 secret th) 0 q.2

/-- The first 1,160 bytes of a RESPONSE with fresh ephemeral number `n` (Table 19-4). -/
def responseHead (n purpose session : Nat) (hello : Bytes) : Bytes :=
  keyHeader 2 purpose session ++ slice (Config.randomBytes n 32) 0 32 ++ slice (Config.ephemeralPublic n) 0 32 ++
    slice (Config.kemCiphertext n (slice hello 72 1184)) 0 1088

/-- TH of a HELLO and the head of its RESPONSE (R406). -/
def transcript (hello head : Bytes) : Bytes := slice (Config.sha384 (hello ++ head)) 0 48

/-- The whole RESPONSE, signed (Table 19-4). -/
def responseOf (serial : Nat) (head th : Bytes) : Bytes :=
  let body := head ++ th ++ leBytes 8 serial
  body ++ slice (Config.edSign "plynoa response v1" body) 0 64 ++ slice (Config.mldsaSign "plynoa response v1" body) 0 3309

/-- The shared secrets with a HELLO's sender (R408). -/
def secretOf (n : Nat) (hello : Bytes) : Bytes := Config.sharedSecret n (slice hello 40 32) (slice hello 72 1184)

/-- FINISHED over TH (Table 19-4). -/
def finishedOf (purpose session : Nat) (key th : Bytes) : Bytes :=
  keyHeader 4 purpose session ++ slice (Config.confirmMac "confirm device" key th) 0 48

/-- The peer's two public keys in a HELLO (R410). -/
def peerKeys (hello : Bytes) : Bytes := slice hello 1256 1984

/-- A key session opened by a HELLO that has passed every check (R406, R409). -/
def State.respond (s : State) (id p purpose out : Nat) (hello : Bytes) : State :=
  let n := (Tab.freeKey (s.part p).keys 1 64).getD 1
  let e := s.security.ephemerals
  let head := responseHead e purpose n hello
  let th := transcript hello head
  let k : KeySession := { purpose := purpose, established := false, th := th, keys := keySchedule purpose (secretOf e hello) th,
                          since := s.now, used := false }
  let s : State := { s with security := { s.security with ephemerals := e + 1 } }
  let s := s.onPart p fun x => { x with keys := Tab.put n k x.keys }
  (s.result id out (responseOf s.flash.serial head th)).complete id n

/-- A first message: the checks of R407 in order, the owner of R410 between the second and the third. -/
def State.hello (s : State) (id p purpose out : Nat) (m : KeyMessage) : State :=
  let x := s.part p
  if !keyMessageOk m.bytes 1 purpose 6613 ∨ 2 < purpose ∨ 64 ≤ x.keys.length ∨ (purpose = 2 ∧ !x.conf) then s.fail id .badParam
  else if !m.sigOk then (s.count 49 0).fail id .signatureFail
  else
    let owner := x.owner.getD (peerKeys m.bytes)
    let s := if x.conf then s.onPart p fun x => { x with owner := some owner } else s
    if x.conf ∧ owner ≠ peerKeys m.bytes then (s.count 49 0).fail id .signatureFail
    else if !m.keysOk then s.fail id .badParam
    else s.respond id p purpose out m.bytes

/-- A confirmation of a pending session (R334, R409). -/
def State.confirm (s : State) (id p purpose ref out : Nat) (m : KeyMessage) : State :=
  match Tab.find ref (s.part p).keys with
  | none => s.fail id .badParam
  | some k =>
    if k.established ∨ !keyMessageOk m.bytes 3 k.purpose 56 ∨ leAt m.bytes 7 1 ≠ ref ∨ purpose ≠ k.purpose then s.fail id .badParam
    else if !m.macOk then
      ((s.onPart p fun x => { x with keys := Tab.erase ref x.keys }).count 49 1).fail id .authFail
    else
      let s := s.onPart p fun x => { x with keys := Tab.put ref { k with established := true, since := s.now } x.keys }
      ((s.countFor p 50 (p - 1)).result id out (finishedOf k.purpose ref (k.keys.getD 1 []) k.th)).complete id ref

/-- OPEN_KEY_SESSION: `msg` is what the host address IN holds, with the franking unit's verdicts (R334). -/
def execOpenKeySession (id : Nat) (msg : KeyMessage) (s : State) : Result :=
  opcodeRow id 0x0602 (fun c s =>
    let k := c.params
    let out := resultAddr 0x0602 k
    let m : KeyMessage := { msg with bytes := slice msg.bytes 0 (leAt k 8 4) }
    if leAt k 0 8 % 64 ≠ 0 ∨ out % 64 ≠ 0 ∨ 8192 < leAt k 8 4 then s.fail id .badParam
    else if leAt k 14 2 = 0 then s.hello id c.part (leAt k 12 1) out m
    else s.confirm id c.part (leAt k 12 1) (leAt k 14 2) out m) s

/-- A key session of a partition that meets a test erased, counted where its time as pending ran out (R409). -/
def keyTimeout (p n : Nat) (s : State) (due : KeySession → Bool) (counted : Bool) : Result :=
  checked (1 ≤ p && p ≤ 6) s fun s =>
    withSome (Tab.find n (s.part p).keys) s fun k =>
      if !due k then s
      else
        let s := s.onPart p fun x => { x with keys := Tab.erase n x.keys }
        if counted then s.count 49 2 else s

/-- KEY_SESSION_PENDING_TIMEOUT: no CONFIRM within 10 s of its RESPONSE (R409). -/
def execKeySessionPendingTimeout (partition session : Nat) (s : State) : Result :=
  keyTimeout partition session s (fun k => !k.established && k.since + 10000000000 ≤ s.now) true

/-- KEY_SESSION_IDLE_TIMEOUT: established and not used within 60 s (R409). -/
def execKeySessionIdleTimeout (partition session : Nat) (s : State) : Result :=
  keyTimeout partition session s (fun k => k.established && !k.used && k.since + 60000000000 ≤ s.now) false

/-! ### Confidential partitions -/

/-- SET_CONFIDENTIAL (R335, R410). -/
def execSetConfidential (id : Nat) (s : State) : Result :=
  opcodeRow id 0x0603 (fun c s =>
    let p := c.part
    if !bitOf (leAt c.params 0 1) 0 then s.fail id .badParam
    else if !(s.held p).isEmpty || (s.routes.any fun e => e.2.partition == p) || (s.streams.any fun e => e.2.partition == p) then
      s.fail id .confidentialDenied
    else ((s.clearPerturb p 55 7).onPart p fun x => { x with conf := true, keys := [] }).complete id) s

/-! ### Unlock tokens -/

/-- The fields of a token that the device itself checks; `sigOk` is the franking unit's verdict on its signer and
signatures (R415, Table 19-8). -/
def State.tokenOk (s : State) (t : Bytes) (kind : Nat) (sigOk : Bool) : Bool :=
  sigOk && t.length == 8842 && leAt t 0 4 == 0x7D1E0702 && leAt t 4 1 == 1 && leAt t 5 1 == kind && leAt t 6 2 == 8842 &&
  leAt t 8 8 == s.flash.serial && (s.time.state == 1 || s.time.state == 2) && s.now < leAt t 16 8

/-- A token of KIND 0 brought into force in place of an earlier one, whichever expires first (R415, Table 23-3; the manual
names one token in force, DESIGN CHOICE, log entry 70). -/
def State.acceptToken (s : State) (t : Bytes) : State :=
  (({ s with security := { s.security with
      token := some { expiry := leAt t 16 8, partitions := leAt t 24 1 } } }).count 49 4).event 8

/-- TOKEN_EXPIRY: the token is out of force, and the perturbation it unlocked is cleared (R415, R461). -/
def execTokenExpiry (s : State) : Result :=
  .next (
    let s := [1, 2, 3, 4, 5, 6].foldl (fun (s : State) p =>
      if !(s.part p).perturb.isEmpty && (s.part p).perturbUntil ≤ s.now then s.clearPerturb p 56 0 else s) s
    { s with security := { s.security with token := s.tokenInForce } })

end Sys2Proof.Machine
end

