-- ==== Sys2Proof/Machine/Test.lean ====
section
/-! DEFINITION. Built-in test, perturbation settings and the counter mirror
(R336 to R338, R453 to R464, R471 to R473, R477). -/

namespace Sys2Proof.Machine

/-! ### Built-in test -/

/-- RUN_BIST's effect: both phases follow in their own rows (R336, R454, R455). -/
def State.startBist (s : State) (id : Nat) (c : Cmd) : State :=
  let parts := leAt c.params 0 1
  if parts = 0 ∨ s.inCascade ∨ s.parts.any (fun e => e.2.enabled) then s.fail id .badParam
  else
    let here := match s.power.change with | some c => c.goal | none => s.power.vcore
    let b : Bist := { cmd := id, parts := parts, phase := if parts % 2 ^ 7 = 0 then .memory else .logic, vcore := here }
    let s : State := { s with health := { s.health with bist := some b, logicDone := false, memoryDone := false } }
    (s.count 55 0).changeVcore 0

/-- RUN_BIST: one that was fetched before another began waits for its end (R336, R454). -/
def execRunBist (id : Nat) (s : State) : Result :=
  .next (onlyIf s.health.bist.isNone (fun s => s.begin id 0x0701 fun c s => s.startBist id c) s)

/-- Observed signatures put into the slots of a phase from slot `first` on, and the mismatch mask they leave
(R453, R456). -/
def State.observe (s : State) (slots : List Nat) (first : Nat) (observed : List Nat) : State :=
  let sigs := slots.foldl (fun t i => t.set i (observed.getD (i - first) 0 % 2 ^ 64)) s.health.sigs
  let expected := s.flash.running.elim [] (·.signatures)
  let bad := slots.filter fun i => sigs.getD i 0 != expected.getD i 0
  { s with health := { s.health with sigs := sigs, mismatch := maskOf bad } }

/-- A mismatch: the device halts with cause 2, and the command never completes (R336, R446, R456; log entry 37). -/
def State.bistFails (s : State) : State :=
  let bad := bitsOf 14 s.health.mismatch
  let cores := bad.filterMap fun i => if i < 6 then some i else if 7 ≤ i ∧ i < 13 then some (i - 7) else none
  let core := cores.foldl min 7
  let cmd := s.health.bist.elim s.nextCmd (·.cmd)
  let s : State := { s with health := { s.health with bist := none }, cmds := Tab.erase cmd s.cmds }
  (s.count 55 1).fault { faultOf 2 (s.health.sigs.getD ((bad.head?).getD 0) 0) with core := core }

/-- A RUN_BIST over once VCORE has gone back to its setting: it returns PARTS (R336, R455). -/
def State.bistRestored (s : State) : State :=
  match s.health.bist with
  | some b =>
    if b.phase = .restoring ∧ s.power.change = none then
      ({ s with health := { s.health with bist := none } }).complete b.cmd b.parts
    else s
  | none => s

/-- The phases of a passing run over: VCORE goes back (R455). -/
def State.bistEnds (s : State) (b : Bist) : State :=
  let s : State := { s with health := { s.health with bist := some { b with phase := .restoring } } }
  (s.changeVcore b.vcore).bistRestored

/-- The logic of a core cleared: PE registers, accumulator slots, FIFOs and pigeonholes hold 0 (R457). -/
def Core.clearLogic (c : Core) : Core := { c with arrays := [], bands := [], pigeons := [], scatter := none, groups := [] }

/-- Every SRAM of a core written to zero (R457). -/
def Core.clearMemory (c : Core) : Core := { c.clearLogic with pad := [], handles := [], boxes := [], seen := [] }

/-- Guard of the phases of a RUN_BIST: it runs and VCORE stands at setting 0 (R455). -/
def bistRow (s : State) (phase : BistPhase) (f : Bist → State → State) : Result :=
  .next (onlyIf (s.working && s.power.change.isNone) (fun s =>
    withSome s.health.bist s fun b => if b.phase = phase then f b s else s) s)

/-- BIST_LOGIC_PHASE_COMPLETE: `observed` are the signatures of slots 0 to 6 (R455, R457). -/
def execBistLogicPhaseComplete (observed : List Nat) (s : State) : Result :=
  bistRow s .logic fun b s =>
    let slots := bitsOf 7 b.parts
    let s := s.observe slots 0 observed
    let s : State := { s with health := { s.health with logicDone := true } }
    if s.health.mismatch ≠ 0 then s.bistFails
    else
      let s := s.onCores (b.parts % 2 ^ 6) Core.clearLogic
      if bitOf b.parts 7 then { s with health := { s.health with bist := some { b with phase := .memory } } }
      else s.bistEnds b

/-- BIST_MEMORY_PHASE_COMPLETE: `observed` are the signatures of slots 7 to 13 (R455, R457). -/
def execBistMemoryPhaseComplete (observed : List Nat) (s : State) : Result :=
  bistRow s .memory fun b s =>
    let s := s.observe [7, 8, 9, 10, 11, 12, 13] 7 observed
    let s : State := { s with health := { s.health with memoryDone := true } }
    if s.health.mismatch ≠ 0 then s.bistFails
    else (s.onCores 0x3F Core.clearMemory).bistEnds b

/-! ### Perturbation -/

/-- One entry (Table 22-2), and whether its reserved fields are 0. -/
def decodePerturb (b : Bytes) : PerturbEntry :=
  let k := leAt b 0 1
  { kind := k % 8, random := bitOf k 3, unit := leAt b 1 1, select := leAt b 2 1, value := leAt b 4 4, seed := leAt b 8 4,
    lfsr := leAt b 8 4 }
def perturbClean (b : Bytes) : Bool := leAt b 0 1 < 16 && leAt b 3 1 == 0 && leAt b 12 4 == 0

/-- The largest VALUE of a kind (Table 22-3). -/
def perturbMax (kind : Nat) : Nat :=
  match kind with
  | 1 => 255
  | 2 => 15
  | 3 => 16777215
  | _ => 1000000

/-- Whether an entry keeps to Tables 22-2 and 22-3 and names what is the partition's own (R459). -/
def State.perturbOk (s : State) (p : Nat) (e : PerturbEntry) : Bool :=
  1 ≤ e.kind && e.kind ≤ 5 && e.value ≤ perturbMax e.kind && (e.random == (e.seed != 0)) &&
  (if e.kind = 5 then (Tab.find e.unit s.channels).any fun c => c.partition == p
   else e.unit < 6 && bitOf (s.part p).cores e.unit) &&
  (if e.kind = 1 then e.select < 8 else if e.kind = 4 then e.select < 64 || e.select == 0xFF else e.select == 0)

/-- Settings read from their bytes; none where one breaks a rule (R459). -/
def State.perturbSettings (s : State) (p : Nat) (b : Bytes) : Option (List PerturbEntry) :=
  let n := b.length
  let parts := pieces 16 (n / 16) b
  if n < 16 ∨ 1024 < n ∨ n % 16 ≠ 0 ∨ !parts.all perturbClean then none
  else
    let es := parts.map decodePerturb
    if es.all (s.perturbOk p) then some es else none

/-- Whether a stream context is open on any core of a partition (R337). -/
def State.streamsOn (s : State) (p : Nat) : Bool := s.streams.any fun e => bitOf (s.part p).cores e.2.core

/-- A setting put into force in place of the partition's whole earlier one (R460). -/
def State.setPerturb (s : State) (p until_ : Nat) (es : List PerturbEntry) : State :=
  (s.onPart p fun x => { x with perturb := es, perturbUntil := until_ }).count 55 2

/-- SET_PERTURB with a token and settings (R304, R337, R415, R459): its checks in the order R337 lists them, after those of
its layout. -/
def State.perturbCmd (s : State) (id p : Nat) (b : Bytes) (sigOk : Bool) : State :=
  let tlen := leAt b 0 2
  let slen := leAt b 2 2
  let at_ := roundUp (64 + tlen) 64
  let token := slice b 64 tlen
  let refuse (s : State) (st : Status) : State := (s.count 55 3).fail id st
  let clean := (slice b 4 60 ++ slice b (64 + tlen) (at_ - (64 + tlen)) ++ b.drop (at_ + slen)).all (· == 0)
  if b.length < at_ + slen ∨ !clean then refuse s .badParam
  else if !(s.tokenOk token 0 sigOk && bitOf (leAt token 24 1) p) then refuse (s.count 49 5) .signatureFail
  else if s.isConf p then refuse s .confidentialDenied
  else if s.streamsOn p then refuse s .badParam
  else match s.perturbSettings p (slice b at_ slen) with
    | none => refuse s .badParam
    | some es => ((s.acceptToken token).setPerturb p (leAt token 16 8) es).complete id

/-- SET_PERTURB: PARAM_LEN 0, with no other parameter byte set, clears, and needs no token (R304, R337, R461). -/
def execSetPerturb (id : Nat) (tokenOk : Bool) (s : State) : Result :=
  opcodeRow id 0x0702 (fun c s =>
    if c.packet.byRef then s.perturbCmd id c.part c.params tokenOk
    else if c.packet.paramLen = 0 ∧ c.params.all (· == 0) then (s.clearPerturb c.part 55 5).complete id
    else (s.count 55 3).fail id .badParam) s

/-- Whether a GO write for a core's partition is accepted (R462, R477). -/
def State.goAllowed (s : State) (p : Nat) : Bool :=
  s.tokenInForce.any (fun t => bitOf t.partitions p) && !s.isConf p && !s.streamsOn p

/-- A GO write's outcome kept for its window: 1 accepted, 2 ignored, which is counted (R477). -/
def State.goOutcome (s : State) (core : Nat) (ok : Bool) : State :=
  let s : State := { s with health := { s.health with go := s.health.go.set core (if ok then 1 else 2) } }
  if ok then s else s.count 55 4

/-- The entry staged for a core, and whether it passes R459 with its UNIT equal to the core for kinds 1 to 4 (R477). -/
def State.stagedEntry (s : State) (core : Nat) : PerturbEntry := decodePerturb (s.health.staged.getD core [])
def State.stagedOk (s : State) (core p : Nat) : Bool :=
  perturbClean (s.health.staged.getD core []) && s.perturbOk p (s.stagedEntry core) &&
    ((s.stagedEntry core).kind == 5 || (s.stagedEntry core).unit == core)

/-- A GO write of either value on a core: without a partition, where R462 does not allow it, or with a staged entry that
breaks R459, it is ignored (R477). -/
def State.goWrite (s : State) (core : Nat) (f : Nat → State → State) : State :=
  match s.partitionOf core with
  | none => s.goOutcome core false
  | some p => if s.goAllowed p && s.stagedOk core p then (f p s).goOutcome core true else s.goOutcome core false

/-- GO 1: the staged entry in place of the whole setting (R477). -/
def State.goApply (s : State) (core : Nat) : State :=
  s.goWrite core fun p s => s.setPerturb p (s.tokenInForce.elim 0 (·.expiry)) [s.stagedEntry core]

/-- GO 2: the setting cleared (R477). -/
def State.goClear (s : State) (core : Nat) : State :=
  s.goWrite core fun p s => s.clearPerturb p 55 5

/-- PERTURB_GO_APPLY. -/
def execPerturbGoApply (core : Nat) (s : State) : Result :=
  checked (core < 6) s (onlyIf s.working fun s => s.goApply core)

/-- PERTURB_GO_CLEAR. -/
def execPerturbGoClear (core : Nat) (s : State) : Result :=
  checked (core < 6) s (onlyIf s.working fun s => s.goClear core)

/-! ### READ_COUNTERS -/

/-- The counters of a mask of groups, by 8 × group + counter (R471, R473). -/
def State.copyGroups (s : State) (groups : Nat) : Table Nat :=
  (bitsOf 57 groups).flatMap fun g => ((List.range 8).filterMap fun i =>
    let v := s.counterValue g i
    if v = 0 then none else some (8 * g + i, v))

/-- CNT_ as bytes: the header of Table 23-6, then 63 groups (R471). -/
def Mirror.bytes (m : Mirror) : Bytes :=
  leBytes 8 m.groups ++ leBytes 8 m.time ++ leBytes 4 m.seq ++ leBytes 4 (bit m.cleared) ++ zeros 40 ++
    (List.range 504).flatMap fun i => leBytes 8 (Tab.getD 0 m.values i)

/-- An extension record of eight counters; 0 where the function may not see it (R472). -/
def State.extension (s : State) (f : Nat) (x : Option (Nat × List Nat)) : Bytes :=
  match x with
  | some (p, tally) => if s.isConf p || (f != 0 && f != p) then zeros 64 else (List.range 8).flatMap fun i => leBytes 8 (tally.getD i 0)
  | none => zeros 64

/-- The records of the contexts and channels (R472, Table 23-8). -/
def State.extensions (s : State) (f : Nat) : Bytes :=
  ((List.range 64).flatMap fun n => s.extension f ((s.stream n).map fun x => (x.partition, x.tally))) ++
    (List.range 64).flatMap fun n => s.extension f ((Tab.find n s.channels).map fun x => (x.partition, x.tally))

/-- CLEAR: the selected counters restart, but for those the boot flash keeps (R338, R473). -/
def State.clearGroups (s : State) (groups : Nat) : State :=
  { s with tally := s.tally.filter fun e => !bitOf groups (e.1 / 8) }

/-- READ_COUNTERS (R338, R471 to R473). -/
def execReadCounters (id : Nat) (s : State) : Result :=
  opcodeRow id 0x0703 (fun c s =>
    let groups := leAt c.params 0 8
    let out := resultAddr 0x0703 c.params
    let clear := bitOf (leAt c.params 16 1) 0
    let ext := bitOf groups 63
    if field groups 62 57 ≠ 0 ∨ (ext ∧ out = 0) ∨ out % 64 ≠ 0 ∨ (clear ∧ c.part ≠ 0) then s.fail id .badParam
    else
      let sel := groups % 2 ^ 63
      let m : Mirror := { groups := sel, time := s.now, seq := ((s.fn c.fn).mirror.seq + 1) % 2 ^ 32, cleared := clear,
                          values := s.copyGroups sel }
      let s := s.onFn c.fn fun x => { x with mirror := m }
      let s := if out = 0 then s else s.result id out (m.bytes ++ if ext then s.extensions c.fn else [])
      (if clear then s.clearGroups sel else s).complete id) s

end Sys2Proof.Machine
end

