-- ==== Sys2Proof/Machine/Power.lean ====
section
/-! DEFINITION. The input, start-up, resets, faults, the power controller and the sensors
(R261 to R267, R418, R419, R435 to R452). -/

namespace Sys2Proof.Machine

/-! ### Resets -/

/-- What every reset leaves: the boot flash, and the input and sensors as they read (Table 21-5). A write of a
firmware slot is cut off; its slot was invalid from the start of the write (R433). -/
def State.restart (s : State) : State :=
  let b := State.blank s.flash
  let p := s.power
  { b with
    pending := s.pending, outbox := s.outbox, freeCount := s.freeCount, nextCmd := s.nextCmd
    power := { b.power with vin := p.vin, iin := p.iin, power := p.power, vins := p.vins, temps := p.temps,
                            tjMax := p.tjMax, warn := p.warn, warnSince := p.warnSince } }

/-- A cold reset: start-up from the start level (Table 21-5). -/
def State.coldReset (s : State) : State :=
  let s := s.restart
  { s with power := { s.power with boot := .started } }

/-- A warm reset: the standby rails, the straps with the link they wait for, and the training results are kept, and
start-up begins at the boot chain (Table 21-5, R357, R444; log entry 40). After a halt before the main rails were
up it waits for them. -/
def State.warmReset (s : State) : State :=
  let old := s
  let full := old.power.fullTraining || old.health.halt.any fun h => h.cause == 9
  let up := old.power.boot != .standby
  let s := s.restart
  { s with
    power := { s.power with boot := if up then .rails else .standby, fullTraining := full, armed := up }
    cascade := { s.cascade with device := old.cascade.device, masterSel := old.cascade.masterSel, linkL0 := old.cascade.linkL0 }
    mgt := { s.mgt with addr4 := s.flash.addr4, addr6 := s.flash.addr6, broadcastSeen := old.mgt.broadcastSeen } }

/-- FAULT# of a halted device is deasserted when a reset begins (R444). -/
def State.clearFaultPin (s : State) : State := if s.health.halt.isSome then s.emit (.pin .faultN false) else s

/-- A reset begins, counted under its cause (R452). -/
def State.beginReset (s : State) : ResetKind → State
  | .warm n => s.clearFaultPin.warmReset.count 54 n
  | .cold n => s.clearFaultPin.coldReset.count 54 n

/-- Of two requests that wait, a cold one is kept, otherwise the first (R444). -/
def ResetKind.join (new : ResetKind) : Option ResetKind → ResetKind
  | some (.cold n) => .cold n
  | some (.warm n) => match new with
    | .cold m => .cold m
    | .warm _ => .warm n
  | none => new

/-- Whether a start-up runs in which training has not begun. -/
def State.starting (s : State) : Bool :=
  s.health.halt.isNone && (s.power.boot == .standby || s.power.boot == .rails)

def ResetKind.isWarm : ResetKind → Bool
  | .warm _ => true
  | .cold _ => false

/-- A reset requested (R444): it waits for a fault record that is being written; a warm request before training has
begun is absorbed by the start-up that runs. -/
def State.requestReset (s : State) (k : ResetKind) : State :=
  if !s.standby then s
  else match s.health.halt with
    | some h =>
      if h.recorded then s.beginReset k
      else { s with health := { s.health with halt := some { h with request := some (k.join h.request) } } }
    | none => if k.isWarm && s.starting then s else s.beginReset k

/-- PERST_ASSERT (R419). -/
def execPerstAssert (s : State) : Result := .next (s.requestReset (.warm 0))

/-- HOT_RESET (R419). -/
def execHotReset (s : State) : Result := .next (s.requestReset (.warm 1))

/-- PCIE_LINK_DOWN_TIMEOUT (R419). -/
def execPcieLinkDownTimeout (s : State) : Result := .next (s.requestReset (.warm 2))

/-- FUNCTION_LEVEL_RESET: a warm reset for function 0. Of another function its configuration space is reset, Bus
Master Enable with it, and one that is enabled is disabled in ABORT mode (R418, R419). -/
def execFunctionLevelReset (function : Nat) (s : State) : Result :=
  checked (function ≤ 6) s (onlyIf s.standby fun s =>
    if function = 0 then s.requestReset (.warm 3)
    else
      let s := s.onFn function fun x => { x with busMaster := false }
      if s.working && (s.part function).enabled then s.disable function true none else s)

/-! ### Start-up -/

/-- INPUT_START_LEVEL: an unpowered module starts from cold (R435, R441). -/
def execInputStartLevel (s : State) : Result :=
  .next (onlyIf (s.power.boot == .off) (fun s =>
    let s : State := { s with power := { s.power with vin := 4000, vins := [4000] } }
    s.beginReset (.cold 5)) s)

/-- STANDBY_RAILS_UP: the straps are sampled and the chronometer starts at 0 (R355, R441). -/
def execStandbyRailsUp (masterSel : Bool) (cascadeId : Nat) (s : State) : Result :=
  .next (onlyIf (s.power.boot == .started) (fun s =>
    { s with
      power := { s.power with boot := .standby }
      cascade := { s.cascade with device := cascadeId % 64, masterSel := masterSel, linkL0 := false }
      time := .reset
      mgt := { s.mgt with addr4 := s.flash.addr4, addr6 := s.flash.addr6 } }) s)

/-- MAIN_RAILS_UP: at setting 2 once every die sensor reads below 95.0 °C; otherwise the wait is counted, once
(Table 21-4, R452). -/
def execMainRailsUp (temps : List Int) (s : State) : Result :=
  .next (onlyIf (s.power.boot == .standby && s.health.halt.isNone) (fun s =>
    let s : State := { s with power := { s.power with temps := temps.take 32 ++ s.power.temps.drop 32 } }
    if (temps.take 32).all (· < 950) then
      { s with power := { s.power with boot := .rails, vcore := 2, armed := true, coolWaits := false } }
    else if s.power.coolWaits then s
    else ({ s with power := { s.power with coolWaits := true } }).count 52 5) s)

/-- The row of Table 19-2, counted from 1, that a slot fails: 0 where its image is accepted. An absent image and one
with too low an SVN fail the row of the image check (R398; log entry 40). -/
def Flash.slotFails (f : Flash) (image : Option FwImage) (found : Nat) : Nat :=
  match image with
  | none => 5
  | some i => if found ≠ 0 then found else if i.svn < f.rollback then 5 else 0

/-- The slot tried first has the higher version; the other serves where it fails (R398). -/
def Flash.choose (f : Flash) (a b : Nat) : Option Bool :=
  let versionOf (i : Option FwImage) : Nat := i.elim 0 (·.version)
  let firstB := decide (versionOf f.slotA < versionOf f.slotB)
  let ok (second : Bool) : Bool := if second then b == 0 else a == 0
  if ok firstB then some firstB else if ok (!firstB) then some (!firstB) else none

/-- The ports as the signed configuration record sets them up (R339, R399, R441). -/
def Flash.ports (f : Flash) : Table Port :=
  (List.range 16).map fun p =>
    (p, { Port.reset with ethernet := bitOf f.portModes p, addressing := .reset (f.macs.getD p 0) })

/-- The boot chain accepted an image: the digests are fixed and the firmware runs (Table 19-2, R400). -/
def State.booted (s : State) (b : Bool) : State :=
  let f := { s.flash with runningB := b }
  { s with
    flash := f
    security := { s.security with romDigest := Config.romDigest, fwDigest := Config.sha384 (f.running.elim [] (·.bytes)),
                                  configDigest := Config.sha384 f.configBytes }
    ports := f.ports
    power := { s.power with boot := .booted } }

/-- A boot verification fault, whose detail names the failed row for each slot (R398, R399, Table 21-6). -/
def State.bootFault (s : State) (a b : Nat) : State := s.fault (faultOf 8 (a + b * 2 ^ 8))

/-- BOOT_CHAIN_COMPLETE: the rows of Table 19-2 in order (R395, R397 to R401). -/
def execBootChainComplete (verdict : BootVerdict) (s : State) : Result :=
  .next (onlyIf (s.power.boot == .rails && s.health.halt.isNone) (fun s =>
    let a := s.flash.slotFails s.flash.slotA verdict.slotA
    let b := s.flash.slotFails s.flash.slotB verdict.slotB
    if !verdict.identityOk then s.fault (faultOf 7 0)
    else if !verdict.antiRollbackOk then s.bootFault 3 3
    else if !verdict.chainOk then s.bootFault 4 4
    else match s.flash.choose a b with
      | none => s.bootFault a b
      | some slot => if verdict.configOk then s.booted slot else s.bootFault 6 6) s)

/-- LPDDR6_TRAINING_COMPLETE: `failing` are the channels that failed twice. A replay that fails on any channel goes on
to full training (R441, Table 21-5). -/
def execLpddr6TrainingComplete (replayFailed : Bool) (failing : List Nat) (s : State) : Result :=
  .next (onlyIf (s.power.boot == .booted && s.health.halt.isNone) (fun s =>
    if !s.power.fullTraining && replayFailed then { s with power := { s.power with fullTraining := true } }
    else if s.power.fullTraining && !failing.isEmpty then
      s.fault (faultOf 9 (failing.length % 2 ^ 16 + failing.foldl min 255 * 2 ^ 16))
    else { s with power := { s.power with boot := .trained, fullTraining := false, trainedAt := s.now } }) s)

/-- MEMORY_SCRUB_COMPLETE: all of memory reads 0, and the map holds the device's regions alone (R233). -/
def execMemoryScrubComplete (s : State) : Result :=
  .next (onlyIf (s.power.boot == .trained && s.health.halt.isNone) (fun s =>
    { s with mem := [], regions := regionsAtReset, power := { s.power with boot := .scrubbed } }) s)

/-- Whether every port is linked up or its time has elapsed: 800 ms of Ethernet, 500 ms of PLink, from the end of
training (Table 21-4). -/
def State.portsSettled (s : State) : Bool :=
  (List.range 16).all fun p =>
    (s.port p).up || s.power.trainedAt + (if (s.port p).ethernet then 800000000 else 500000000) ≤ s.now

/-- DEVICE_READY: the anti-rollback counter rises to the SVN of the image that runs (R402, R441). -/
def execDeviceReady (s : State) : Result :=
  .next (onlyIf (s.power.boot == .scrubbed && s.health.halt.isNone && s.portsSettled) (fun s =>
    { s with
      power := { s.power with boot := .ready }
      flash := { s.flash with rollback := max s.flash.rollback (s.flash.running.elim 0 (·.svn)) } }) s)

/-! ### The input -/

/-- PWR_WARN_ASSERT (R438). -/
def execPwrWarnAssert (s : State) : Result :=
  .next (onlyIf (s.standby && !s.power.warn) (fun s =>
    let s : State := { s with power := { s.power with warn := true, warnSince := s.now } }
    (((s.emit (.pin .pwrWarnN true)).count 52 0).signal 0 1 62).ibi) s)

/-- WARN_CLEAR_RESTART: the clearing time starts anew; it is no new warning (R438). -/
def execWarnClearRestart (s : State) : Result :=
  .next (onlyIf s.power.warn (fun s => { s with power := { s.power with warnSince := s.now } }) s)

/-- PWR_WARN_DEASSERT (R438). -/
def execPwrWarnDeassert (s : State) : Result :=
  .next (onlyIf (s.power.warn && decide (s.power.warnSince + 1000000 ≤ s.now)) (fun s =>
    let s : State := { s with power := { s.power with warn := false } }
    ((s.emit (.pin .pwrWarnN false)).signal 0 2 62).ibi) s)

/-- SHORT_RESET_LEVEL_DIP (R439). -/
def execShortResetLevelDip (s : State) : Result := .next (onlyIf s.standby (fun s => s.count 52 1) s)

/-- SUPPLY_LOSS: `microseconds` is how long the input was below 34.0 V (R440, Table 21-6). -/
def execSupplyLoss (microseconds : Nat) (s : State) : Result :=
  .next (onlyIf (s.standby && 20 ≤ microseconds) (fun s => s.fault (faultOf 6 microseconds)) s)

/-- INPUT_PROTECTION_DISCONNECT: a loss of input, found after its 20 µs (R435, R440). -/
def execInputProtectionDisconnect (s : State) : Result :=
  .next (onlyIf s.standby (fun s => s.fault (faultOf 6 20)) s)

/-- FAULT# and PWR_WARN# released, where they were asserted (R484). -/
def State.releasePins (s : State) : State :=
  let s := s.clearFaultPin
  if s.power.warn then s.emit (.pin .pwrWarnN false) else s

/-- An unpowered module: everything but the boot flash is lost (R440). -/
def State.unpowered (s : State) : State :=
  { State.blank s.flash with
    pending := s.pending, outbox := s.outbox, freeCount := s.freeCount, nextCmd := s.nextCmd }

/-- STANDBY_OFF: hold-up is exhausted, after the record (R440, R484). -/
def execStandbyOff (s : State) : Result :=
  .next (onlyIf (s.power.boot == .started || s.health.halt.any fun h => h.recorded) (fun s => s.releasePins.unpowered) s)

/-- OVER_RANGE_ENTRY (R435). -/
def execOverRangeEntry (s : State) : Result := .next (onlyIf s.standby (fun s => s.count 52 2) s)

/-! ### Faults -/

/-- The lowest input of the last 1 ms (Table 21-7). -/
def Power.vinMin (p : Power) : Nat := p.vins.foldl min p.vin

/-- The highest reading of a list of sensors. -/
def hottest (ts : List Int) : Int := ts.foldl max (ts.headD 0)

/-- The fault record of a halt (Table 21-7). -/
def State.faultRecord (s : State) (h : Halt) : Bytes :=
  let image := s.flash.running
  leBytes 4 0x7D1E0F01 ++ leBytes 1 1 ++ leBytes 1 h.cause ++ leBytes 2 h.mask ++ leBytes 4 (s.flash.halts + 1) ++
    leBytes 8 h.time ++ leBytes 1 (s.time.state + s.power.vcore * 2 ^ 2 + s.admission * 2 ^ 4 + bit s.isMaster * 2 ^ 6) ++
    leBytes 1 h.core ++ leBytes 2 h.unit ++ leBytes 4 (image.elim 0 (·.version)) ++ leBytes 4 (image.elim 0 (·.svn)) ++
    leBytes 2 h.stream ++ leBytes 2 s.power.paceMin ++ leBytes 4 h.frame ++ leBytes 8 h.deadline ++
    leBytes 2 s.power.vinMin ++ leBytes 2 (unsigned 16 (hottest s.power.temps)) ++ zeros 4 ++ leBytes 8 h.detail

/-- FAULT_RECORD_WRITTEN: the newest of at most 64 records, and the halt is counted under its cause; a reset that waited
begins (R444, R449, R452). -/
def execFaultRecordWritten (s : State) : Result :=
  .next (withSome s.health.halt s fun h =>
    if h.recorded then s
    else
      let s : State := { s with
        flash := { s.flash with records := ((s.faultRecord h) :: s.flash.records).take 64, halts := (s.flash.halts + 1) % 2 ^ 32 }
        health := { s.health with halt := some { h with recorded := true, request := none } } }
      let s := s.countHalt h.cause
      match h.request with
      | some k => s.beginReset k
      | none => s)

/-- INTERNAL_LOGIC_ERROR: `block` is the checker's number (Table 21-6). -/
def execInternalLogicError (block : Nat) (s : State) : Result :=
  .next (onlyIf s.standby (fun s => s.fault (faultOf 1 block)) s)

/-- CONTROL_CORE_WATCHDOG_EXPIRE: the control core runs from the end of the boot chain (Table 19-2, Table 21-6). -/
def execControlCoreWatchdogExpire (s : State) : Result :=
  .next (onlyIf (s.bar0 && s.health.halt.isNone) (fun s => s.fault (faultOf 1 Config.watchdogBlock)) s)

/-! ### Pace -/

/-- PACE_WINDOW_END: taken once in each window of 1,000 ns of chronometer time; the 88 readings change together; the first
of them below the floor less 64 Mst/s is a breach (R266, R267). -/
def execPaceWindowEnd (readings : List Nat) (s : State) : Result :=
  .next (onlyIf (s.power.armed && readings.length == 88 && s.now / 1000 != s.power.window) (fun s =>
    let s : State := { s with power := { s.power with
      readings := readings, window := s.now / 1000, windows := (s.power.windows + 1) % 2 ^ 32, paceMin := readings.foldl min 65535 } }
    match (List.range 88).find? fun n => readings.getD n 0 + 64 < s.floor with
    | none => s
    | some n =>
      s.fault { faultOf 3 (readings.getD n 0 + s.floor * 2 ^ 32) with unit := n, core := if n < 84 then n / 14 else 7 }) s)

/-! ### Power and temperature -/

/-- Whether an epoch's energy would exceed the cap at the present power, of 100 readings in all (R262). -/
def Power.wouldExceed (p : Power) (cap : Nat) : Bool := 10 * cap * 100 < p.epochSum + (100 - p.epochCount) * p.power

/-- POWER_SAMPLE: voltage and current, the power they give, and the energy of 100 µs (R450). With a cap below 470 W at
setting 0, non-stream steps wait for the epoch's end where its energy would exceed the cap (R262). -/
def execPowerSample (vin iin : Nat) (s : State) : Result :=
  .next (onlyIf s.standby (fun s =>
    let w := vin * iin / 1000
    let p := { s.power with
      vin := vin, iin := iin, power := w, vins := (vin :: s.power.vins).take 10
      epochSum := s.power.epochSum + w, epochCount := s.power.epochCount + 1, energy := s.power.energy + w }
    let hold := p.withhold || (s.config.cap < 470 && p.vcore == 0 && p.wouldExceed s.config.cap)
    { s with power := { p with withhold := hold } }) s)

/-- The later of a highest reading so far and another. -/
def laterMax (so : Option Int) (t : Int) : Option Int := some (so.elim t (max · t))

/-- TEMPERATURE_SAMPLE: a sensor above 105.0 °C twice in a row halts the device (R451). -/
def execTemperatureSample (readings : List Int) (s : State) : Result :=
  .next (onlyIf (s.standby && readings.length == 48) (fun s =>
    let above := (List.range 48).map fun n => if 1050 < readings.getD n 0 then s.power.overCount.getD n 0 + 1 else 0
    let s : State := { s with power := { s.power with
      temps := readings, overCount := above
      epochMax := laterMax s.power.epochMax (hottest readings)
      epochDie := laterMax s.power.epochDie (hottest (readings.take 32)) } }
    match (List.range 48).find? fun n => 2 ≤ above.getD n 0 with
    | none => s
    | some n =>
      s.fault { faultOf 5 (unsigned 64 (readings.getD n 0)) with unit := n, core := if n < 24 then n / 4 else 7 }) s)

/-- What an epoch's readings make of the state, before the controller acts on them: the averages reported, what is
counted, and the next epoch's start (R262, R451). -/
def State.closeEpoch (s : State) (avg : Nat) (above hot : Bool) : State :=
  let p := s.power
  let s : State := { s with power := { p with
    epoch := s.now / 10000000, epochAvg := avg, epochSum := 0, epochCount := 0, epochMax := none, epochDie := none
    tjMax := p.epochDie.getD p.tjMax, withhold := false } }
  let s := if above then (s.count 44 6).event 4 else s
  if hot then s.count 52 4 else s

/-- The power controller at an epoch boundary (R262, R263, R438, R451). -/
def State.controlVcore (s : State) (avg : Nat) (above hot cool : Bool) : State :=
  let here := match s.power.change with | some c => c.goal | none => s.power.vcore
  let byCap := above && s.capSetting < here
  let byHeat := hot && s.admission < here
  let setQuiet (s : State) (n : Nat) : State := { s with power := { s.power with quiet := n } }
  if byCap || byHeat then
    let s := ((setQuiet s 0).changeVcore (here - 1)).count 44 5
    let s := if byCap then s.event 2 else s
    if byHeat then (s.count 52 3).event 3 else s
  else
    let n := if avg < 9 * s.config.cap && cool then s.power.quiet + 1 else 0
    if 10 ≤ n && here < s.config.knob && !s.power.warn then ((setQuiet s 0).changeVcore (here + 1)).count 44 5
    else setQuiet s n

/-- EPOCH_BOUNDARY: taken once in each epoch (R262, R271). Averages are of the readings since the last boundary. -/
def execEpochBoundary (s : State) : Result :=
  .next (onlyIf (s.power.armed && s.now / 10000000 != s.power.epoch) (fun s =>
    let p := s.power
    let avg := if p.epochCount = 0 then p.power else p.epochSum / p.epochCount
    let above := decide (10 * s.config.cap * p.epochCount < p.epochSum)
    let hot := p.epochMax.any (1000 < ·)
    let cool := p.epochMax.all (· < 950)
    let s := s.closeEpoch avg above hot
    if s.health.halt.isNone && s.health.bist.isNone then s.controlVcore avg above hot cool else s) s)

/-- Whether a change that waits may begin: one that a commit made only while every core sits between route steps, and none
that raises VCORE while PWR_WARN# is asserted (R264, R438). -/
def State.mayMove (s : State) (c : VChange) : Bool :=
  (!c.commit || s.allBetween) && !(s.power.warn && decide (s.power.vcore < c.goal))

/-- RESERVED_SLOT_START: in the slot no route step starts, and the rail begins a change that waits for it
(R264, R271). -/
def execReservedSlotStart (s : State) : Result :=
  .next (onlyIf (decide (s.slotTime < 200000)) (fun s =>
    { s with power := { s.power with change := s.power.change.map fun c =>
        { c with moving := c.moving || s.mayMove c } } }) s)

/-- VCORE_CHANGE_COMPLETE: only inside a reserved slot, a commit's change with every core between route steps (R264). The
lower floor holds for 100 µs more, and the commits that made the change complete, as does a RUN_BIST that waits for it
(R267, R294, R455). -/
def execVcoreChangeComplete (s : State) : Result :=
  .next (withSome s.power.change s fun c =>
    if !c.moving || 200000 ≤ s.slotTime || (c.commit && !s.allBetween) then s
    else
      let s : State := { s with power := { s.power with
        vcore := c.goal, change := none, floorUntil := s.now + 100000, floorLow := min c.source c.goal } }
      (c.waiters.foldl (fun s w => s.complete w.1 w.2) s).bistRestored)

/-! ### Self-refresh -/

/-- SELF_REFRESH_ENTRY: no stream context open, and no request for 100 µs (R214). -/
def execSelfRefreshEntry (stack : Nat) (s : State) : Result :=
  checked (stack < 16) s (onlyIf (s.working && s.streams.isEmpty && !s.refreshing.contains stack &&
      decide (Tab.getD 0 s.memUsed stack + 100000 ≤ s.now)) fun s =>
    { s with refreshing := (List.range 16).filter fun k => k == stack || s.refreshing.contains k })

/-- SELF_REFRESH_EXIT: a request has come to the stack, and its channels have been asked (R214). -/
def execSelfRefreshExit (stack : Nat) (s : State) : Result :=
  checked (stack < 16) s (onlyIf (s.refreshing.contains stack) fun s =>
    { s with refreshing := s.refreshing.filter (· != stack), memUsed := Tab.put stack s.now s.memUsed })

/-- REFRESH_MANAGEMENT_REQUEST: the controller issues refresh management to the stack (R213). It changes no data and no
other state the manual names. -/
def execRefreshManagementRequest (stack : Nat) (s : State) : Result := checked (stack < 16) s id

end Sys2Proof.Machine
end

