-- ==== Sys2Proof/Machine/Tick.lean ====
section
/-! DEFINITION. What happens with no command waiting: one oscillator period passes (R268; log entry 6). -/

namespace Sys2Proof.Machine

/-- Whether any stream context is open (R270). -/
def State.streaming (s : State) : Bool := !s.streams.isEmpty

/-- One period of the 25 MHz oscillator: 40 ns × (1 + rate), rate in units of 2^−40, in units of 2^−32 ns
(R268). The remainder below 2^−32 ns is dropped. -/
def periodUnits (rate : Int) : Nat := ((40 * (2 ^ 40 + rate)) / 2 ^ 8).toNat

/-- The chronometer advanced by a time in units of 2^−32 ns. -/
def Chron.advance (c : Chron) (units : Nat) : Chron :=
  let t := c.ns * 2 ^ 32 + c.frac + units
  { c with ns := t / 2 ^ 32 % 2 ^ 64, frac := t % 2 ^ 32 }

/-- One oscillator period: the chronometer advances while the standby rails are up (R268, R441, R447). -/
def tick (s : State) : State :=
  if s.standby then { s with time := s.time.advance (periodUnits s.time.rate) } else s

end Sys2Proof.Machine
end

