-- ==== Sys2Proof/Machine/Clock.lean ====
section
/-! DEFINITION. The chronometer's references: edges, PTP messages and holdover (R268 to R270, R475). The manual gives
no servo law: the rate and the fraction a measurement leads to are free values (log entry 39). -/

namespace Sys2Proof.Machine

/-- A moment before a step of the chronometer, as the stepped chronometer counts it. -/
def Chron.moved (c : Chron) (ns t : Nat) : Nat := ns + t - c.ns

/-- The chronometer stepped to a time, counted (R270); the ages of its last measurement and of the Announce messages
stay. -/
def State.stepClock (s : State) (ns : Nat) : State :=
  let c := s.time
  (({ s with time := { c with
      ns := ns % 2 ^ 64, frac := 0, stepHeld := false, lastMeasure := c.moved ns c.lastMeasure
      heard := Tab.mapVal (fun _ e => (c.moved ns e.1, e.2)) c.heard } }).count 44 7).event 0

/-- The servo's rate after measurement `n`, kept within ±100 ppm (R270). -/
def servoRate (n : Nat) : Int :=
  let most : Int := 109951162
  max (-most) (min most (Config.servoRate n))

/-- One measured offset from the reference: reported, and counted toward lock (R269). `locked` is the state of its
kind. -/
def Chron.measured (c : Chron) (off : Int) (locked : Nat) : Chron :=
  let good := if off.natAbs < 100 then c.good + 1 else 0
  { c with
    offset := max (-2147483647) (min 2147483647 off), measures := c.measures + 1, lastMeasure := c.ns
    good := good, state := if 16 ≤ good then locked else c.state, rate := servoRate c.measures }

/-- A measurement taken: the chronometer steps to its reference where it is 100 ns off or more, and only while no
stream context is open, when it is steered instead and the step is held (R269, R270; log entry 39). -/
def State.measure (s : State) (off : Int) (locked : Nat) : State :=
  let s : State := { s with time := s.time.measured off locked }
  if 100 ≤ off.natAbs then
    if s.streaming then { s with time := { s.time with stepHeld := true } }
    else s.stepClock ((s.now : Int) - off).toNat
  else if s.streaming then s
  else { s with time := { s.time with stepHeld := false, frac := Config.servoFraction s.time.measures % 2 ^ 32 } }

/-- The distance from the nearest whole second (R269). -/
def secondOffset (ns : Nat) : Int := (ns : Int) - ((ns + 500000000) / 1000000000 * 1000000000 : Nat)

/-- PPS_EDGE: a pending second count is applied as a step, which an open stream context holds back; otherwise the edge is
measured (R269, R270, R475). -/
def execPpsEdge (s : State) : Result :=
  .next (onlyIf (s.standby && s.time.source == 1) (fun s =>
    match s.time.seconds with
    | some n =>
      if s.streaming then
        let s := s.measure (secondOffset s.now) 1
        { s with time := { s.time with stepHeld := true } }
      else
        let s := s.stepClock (n * 1000000000)
        { s with time := { s.time with seconds := none, lastMeasure := s.now } }
    | none => s.measure (secondOffset s.now) 1) s)

/-- Whether a PTP message reaches the chronometer: over the port its source names, which is the management port for
source 3 (Table 13-2, R426). -/
def State.ptpHeard (s : State) (port : Option Nat) : Bool :=
  match port with
  | none => s.time.source == 3
  | some p => s.time.source == 2 && s.time.port == p && (s.port p).ethernet && (s.port p).up

/-- The transmitters that are visible: those whose last Announce is less than 3 of its intervals old (log entry 39). -/
def Chron.visible (c : Chron) : List Nat :=
  (c.heard.filter fun e => c.ns < e.2.1 + 3 * e.2.2).map (·.1)

/-- The best visible transmitter: the one of the lowest rank (Table 13-2). -/
def Chron.best (c : Chron) : Option Nat := c.visible.head?

/-- A Sync of the best transmitter: its offset is measured, and a delay request answers it (Table 13-2). -/
def State.followSync (s : State) (port : Option Nat) (off : Int) (interval : Nat) : State :=
  let s : State := { s with time := { s.time with syncInterval := interval } }
  (s.measure off 2).emit (.delayRequest port s.config.ptpDomain)

/-- PTP_MESSAGE: the best visible transmitter of the domain is followed; its Sync messages are measured (R269,
Table 13-2). -/
def execPtpMessage (port : Option Nat) (msg : PtpMsg) (s : State) : Result :=
  checked (port.all (· < 16)) s (onlyIf (s.standby && s.ptpHeard port && msg.domain == s.config.ptpDomain) fun s =>
    match msg.kind with
    | .announce interval => { s with time := { s.time with heard := Tab.put msg.rank (s.now, interval) s.time.heard } }
    | .sync off interval => if s.time.best == some msg.rank then s.followSync port off interval else s
    | .other => s)

/-- The time between two references: a second of edges, or the Sync interval (R269). -/
def Chron.interval (c : Chron) : Nat := if c.state = 1 then 1000000000 else c.syncInterval

/-- HOLDOVER_ENTRY: of a locked chronometer, after 3 missed Sync intervals or edges, at the last rate (R269). -/
def execHoldoverEntry (s : State) : Result :=
  .next (onlyIf ((s.time.state == 1 || s.time.state == 2) && decide (s.time.lastMeasure + 3 * s.time.interval ≤ s.now)) (fun s =>
    (({ s with time := { s.time with state := 3, good := 0 } }).count 45 0).event 1) s)

/-- CHR_SECONDS written with its 64-bit value (R475): refused while a stream context is open. -/
def State.writeSeconds (s : State) (v : Nat) : State :=
  if s.streaming then { s with time := { s.time with secRefused := true } }
  else { s with time := { s.time with secondsReg := v % 2 ^ 64, seconds := if s.time.source = 1 then some (v % 2 ^ 64) else none } }

/-- One half of CHR_SECONDS written (R467). -/
def State.writeSecondsHalf (s : State) (high : Bool) (v : Nat) : State :=
  let old := s.time.secondsReg
  s.writeSeconds (if high then old % 2 ^ 32 + v % 2 ^ 32 * 2 ^ 32 else old / 2 ^ 32 * 2 ^ 32 + v % 2 ^ 32)

/-- SEC_REFUSED cleared by writing 1 (Table 23-10). -/
def State.clearRefused (s : State) (v : Nat) : State :=
  if bitOf v 13 then { s with time := { s.time with secRefused := false } } else s

end Sys2Proof.Machine
end

