-- ==== Sys2Proof/Machine/Registers.lean ====
section
/-! DEFINITION. BAR0 as it reads and as it is written, and the BAR2 window (R10 to R12, R421 to R425, R465 to R477). -/

namespace Sys2Proof.Machine

/-! ### Reading BAR0 -/

/-- The half of a 64-bit register that an offset names (R467). -/
def halfOf (v o : Nat) : Nat := if o % 8 = 4 then v / 2 ^ 32 % 2 ^ 32 else v % 2 ^ 32

/-- The ASCII order code (Table 23-2). -/
def partCode : Bytes := ("PD6-1024-L44".toList.map fun c => BitVec.ofNat 8 c.toNat) ++ zeros 4

/-- The ID_ block (Table 23-2). -/
def State.idWord (s : State) (f o : Nat) : Nat :=
  let image := s.flash.running
  let c := s.cascade
  if 0x10 ≤ o ∧ o < 0x20 then leAt partCode (o - 0x10) 4
  else match o with
    | 0x00 => 0x7D1E0D60
    | 0x04 => f * 2 ^ 8
    | 0x08 | 0x0C => halfOf s.flash.serial o
    | 0x20 => image.elim 0 (·.version)
    | 0x24 => image.elim 0 (·.svn)
    | 0x28 => bit s.flash.runningB + 3 * 2 ^ 8
    | 0x30 => 0x12102310
    | 0x34 => 0x10101110
    | 0x38 => c.device + bit c.masterSel * 2 ^ 8 + bit s.isMaster * 2 ^ 9 + bit s.inCascade * 2 ^ 10
    | 0x3C => c.versions
    | 0x40 => if f = 0 then maskOf ((s.parts.filter fun e => e.2.enabled).map (·.1)) else 0
    | 0x44 =>
      if f = 0 then 0
      else (s.part f).cores + bit (s.part f).enabled * 2 ^ 8 + bit (s.part f).conf * 2 ^ 9
    | _ => 0

/-- The GST_ block, the same on every function (Table 23-3, R468). -/
def State.gstWord (s : State) (o : Nat) : Nat :=
  if 0x140 ≤ o then leAt (s.flash.records.headD []) (o - 0x140) 4
  else match o with
    | 0x100 =>
      bit s.working + bit s.health.halt.isSome * 2 + bit s.health.bist.isSome * 2 ^ 2 + bit s.power.warn * 2 ^ 3 +
        bit s.config.commit.isSome * 2 ^ 4 + bit (!s.flash.records.isEmpty) * 2 ^ 5 + s.health.halt.elim 0 (·.cause) * 2 ^ 8 +
        s.streams.length * 2 ^ 16
    | 0x104 => s.health.events
    | 0x108 => s.flash.records.length
    | _ => 0

/-- The INT_ block of a function (Table 23-4). -/
def State.intWord (s : State) (f o : Nat) : Nat :=
  let x := s.fn f
  match o with
  | 0x200 => x.cause % 8 + bit (x.ring.tailErr || x.ring.headErr || x.ring.fetchErr) * 2 ^ 3
  | 0x204 => x.completions
  | 0x208 => x.messages
  | _ => 0

/-- A RING_ block (Table 23-5). -/
def State.ringWord (s : State) (r o : Nat) : Nat :=
  let x := s.ring r
  match o with
  | 0x00 | 0x04 => halfOf x.sqBase o
  | 0x08 | 0x0C => halfOf x.cqBase o
  | 0x10 => x.sqLog + x.cqLog * 2 ^ 8
  | 0x14 => bit x.enable
  | 0x18 => x.sqTail
  | 0x1C => x.sqHead
  | 0x20 => x.cqHead
  | 0x24 => x.cqTail
  | 0x28 => bit x.tailErr + bit x.headErr * 2 + bit x.fetchErr * 2 ^ 2 + bit (s.ringIdle r) * 2 ^ 8 + x.phase * 2 ^ 9
  | 0x2C => x.count + x.window * 2 ^ 16
  | 0x30 | 0x34 => halfOf x.apBase o
  | _ => 0

/-- The CNT_ block of a function: the header of Table 23-6 and the copied groups (R471). -/
def Mirror.word (m : Mirror) (o : Nat) : Nat :=
  match o with
  | 0x2000 | 0x2004 => halfOf m.groups o
  | 0x2008 | 0x200C => halfOf m.time o
  | 0x2010 => m.seq
  | 0x2014 => bit m.cleared
  | _ => if o < 0x2040 then 0 else halfOf (Tab.getD 0 m.values ((o - 0x2040) / 8)) o

/-- The PACE_ block (Table 23-9). -/
def State.paceWord (s : State) (o : Nat) : Nat :=
  if o < 0x3160 then s.power.readings.getD ((o - 0x3000) / 4) 0 % 2 ^ 16
  else if o = 0x3160 then s.floor + s.power.paceMin * 2 ^ 16
  else if o = 0x3164 then s.power.windows
  else 0

/-- The CHR_ block (Table 23-10). `latch` is what the high half of CHR_TIME reads; `own` tells function 0 and the
management controller, which alone see CHR_SECONDS and SEC_REFUSED (R465, R474, R475). -/
def State.chrWord (s : State) (latch : Nat) (own : Bool) (o : Nat) : Nat :=
  let c := s.time
  match o with
  | 0x3400 => c.ns % 2 ^ 32
  | 0x3404 => latch
  | 0x3408 => c.frac
  | 0x3410 =>
    c.state + bit (c.source != 0 && c.state != 1 && c.state != 2) * 2 ^ 2 + c.source * 2 ^ 3 + c.port * 2 ^ 8 +
      bit c.stepHeld * 2 ^ 12 + bit (own && c.secRefused) * 2 ^ 13
  | 0x3414 => unsigned 32 c.offset
  | 0x3418 => unsigned 32 c.rate
  | 0x3420 | 0x3424 => if own then halfOf c.secondsReg o else 0
  | _ => 0

/-- Two sensors of a list, each signed 16 bits (Table 23-11). -/
def sensorPair (ts : List Int) (n : Nat) : Nat := unsigned 16 (ts.getD n 0) + unsigned 16 (ts.getD (n + 1) 0) * 2 ^ 16

/-- The PWR_ block (Table 23-11). -/
def State.pwrWord (s : State) (o : Nat) : Nat :=
  let p := s.power
  if 0x4100 ≤ o ∧ o < 0x4160 then sensorPair p.temps (2 * ((o - 0x4100) / 4))
  else match o with
    | 0x4000 => p.vin % 2 ^ 16 + p.iin % 2 ^ 16 * 2 ^ 16
    | 0x4004 => p.power % 2 ^ 16 + p.epochAvg % 2 ^ 16 * 2 ^ 16
    | 0x4008 => s.config.cap
    | 0x400C =>
      s.config.knob + s.capSetting * 2 ^ 2 + s.admission * 2 ^ 4 + p.vcore * 2 ^ 6 + bit (p.change.any (·.moving)) * 2 ^ 8 +
        bit p.warn * 2 ^ 9
    | 0x4010 | 0x4014 => halfOf (p.energy / 100) o
    | 0x4160 => unsigned 16 p.tjMax
    | _ => 0

/-- The MSI-X table and pending bits of a function (Table 23-1). -/
def Msix.word (m : Msix) (o : Nat) : Nat :=
  if o = 0x5400 ∨ o = 0x5404 then halfOf m.pba o
  else if 0x5400 ≤ o then 0
  else
    let v := (o - 0x5000) / 16
    match o % 16 with
    | 0 | 4 => halfOf (Tab.getD 0 m.addr v) o
    | 8 => Tab.getD 0 m.data v
    | _ => bit (bitOf m.mask v)

/-- The TST_ block of function 0 (Table 23-12, R476). -/
def State.tstWord (s : State) (o : Nat) : Nat :=
  let h := s.health
  let t := s.tokenInForce
  if o < 0x8070 then halfOf (h.sigs.getD ((o - 0x8000) / 8) 0) o
  else if 0x8100 ≤ o ∧ o < 0x81C0 then
    let c := (o - 0x8100) / 0x20
    let r := o % 0x20
    if t.isNone then 0
    else if r < 0x10 then leAt (h.staged.getD c []) r 4
    else if r = 0x14 then h.go.getD c 0
    else 0
  else match o with
    | 0x8070 => h.mismatch + bit h.bist.isSome * 2 ^ 16 + bit h.logicDone * 2 ^ 17 + bit h.memoryDone * 2 ^ 18
    | 0x8080 => bit t.isSome + t.elim 0 (fun t => t.partitions % 2 ^ 7 / 2 * 2)
    | 0x8088 | 0x808C => halfOf (t.elim 0 (·.expiry)) o
    | _ => 0

/-- The aligned 32-bit word at an offset of a function's BAR0 (R11, R466, Tables 20-2 and 23-1). -/
def State.bar0Word (s : State) (f o : Nat) : Nat :=
  if o < 0x100 then s.idWord f o
  else if o < 0x180 then s.gstWord o
  else if 0x200 ≤ o ∧ o < 0x300 then s.intWord f o
  else if 0x1000 ≤ o ∧ o < 0x1700 then
    (if ringView f ((o - 0x1000) / 0x100) then s.ringWord ((o - 0x1000) / 0x100) (o % 0x100) else 0)
  else if 0x2000 ≤ o ∧ o < 0x3000 then (s.fn f).mirror.word o
  else if 0x3000 ≤ o ∧ o < 0x3400 then s.paceWord o
  else if 0x3400 ≤ o ∧ o < 0x3500 then s.chrWord (s.fn f).latch (f == 0) o
  else if 0x4000 ≤ o ∧ o < 0x5000 then s.pwrWord o
  else if 0x5000 ≤ o ∧ o < 0x6000 then (s.fn f).msix.word o
  else if 0x8000 ≤ o ∧ o < 0x9000 ∧ f = 0 then s.tstWord o
  else 0

/-! ### BAR0 accesses -/

/-- A BAR0 access of a wrong size or alignment: it is counted, a read returns 0 and a write is discarded (R422). -/
def State.badAccess (s : State) (f size : Nat) (isWrite : Bool) : State :=
  let s := s.count 51 0
  if isWrite then s else s.emit (.readData f (zeros size))

/-- BAR0_BAD_ACCESS. -/
def execBar0BadAccess (function size : Nat) (isWrite : Bool) (s : State) : Result :=
  checked (function ≤ 6) s (onlyIf s.bar0 fun s => s.badAccess function size isWrite)

/-- CHR_TIME_READ: a read of the low half, which latches the high half for its function (R467, R474). -/
def execChrTimeRead (function size : Nat) (s : State) : Result :=
  checked (function ≤ 6) s (onlyIf s.bar0 fun s =>
    if size ≠ 4 ∧ size ≠ 8 then s.badAccess function size false
    else (s.onFn function fun x => { x with latch := s.now / 2 ^ 32 % 2 ^ 32 }).emit (.readData function (leBytes size s.now)))

/-- CHR_SECONDS_WRITE: by function 0; another function's write is ignored (R465, R475). -/
def execChrSecondsWrite (caller value : Nat) (s : State) : Result :=
  checked (caller ≤ 6) s (onlyIf (s.bar0 && caller == 0) fun s => s.writeSeconds value)

/-! ### Writing BAR0 -/

/-- A 64-bit register with one half replaced (R467). -/
def withHalf (old o v : Nat) : Nat :=
  if o % 8 = 4 then old % 2 ^ 32 + v * 2 ^ 32 else old / 2 ^ 32 * 2 ^ 32 + v

/-- A word written to a RING_ block (Table 23-5, R286, R470). -/
def State.writeRing (s : State) (r o v : Nat) : State :=
  let x := s.ring r
  match o with
  | 0x00 | 0x04 => if x.enable then s else s.onRing r fun x => { x with sqBase := withHalf x.sqBase o v / 4096 * 4096 }
  | 0x08 | 0x0C => if x.enable then s else s.onRing r fun x => { x with cqBase := withHalf x.cqBase o v / 4096 * 4096 }
  | 0x10 =>
    let a := v % 2 ^ 5
    let b := field v 12 8
    if x.enable ∨ a < 4 ∨ 16 < a ∨ b < 4 ∨ 16 < b then s else s.onRing r fun x => { x with sqLog := a, cqLog := b }
  | 0x14 => s.writeCtrl r v
  | 0x18 => s.writeTail r (v % 2 ^ 16)
  | 0x20 => s.writeHead r (v % 2 ^ 16)
  | 0x28 => s.onRing r fun x => { x with
      tailErr := x.tailErr && !bitOf v 0, headErr := x.headErr && !bitOf v 1, fetchErr := x.fetchErr && !bitOf v 2 }
  | 0x2C =>
    let n := v % 2 ^ 7
    if n = 0 ∨ 64 < n then s else s.onRing r fun x => { x with count := n, window := field v 31 16 }
  | 0x30 | 0x34 => s.onRing r fun x => { x with apBase := withHalf x.apBase o v / 2 ^ 20 * 2 ^ 20 }
  | _ => s

/-- A word written to an MSI-X table; pending messages that it unmasks are sent. -/
def State.writeMsix (s : State) (f o v : Nat) : State :=
  let n := (o - 0x5000) / 16
  let s := s.onFn f fun x =>
    let m := x.msix
    { x with msix := match o % 16 with
      | 0 | 4 => { m with addr := Tab.setD 0 m.addr n (withHalf (Tab.getD 0 m.addr n) o v) }
      | 8 => { m with data := Tab.setD 0 m.data n v }
      | _ => { m with mask := if bitOf v 0 then m.mask ||| 2 ^ n else m.mask &&& ((2 ^ 64 - 1) ^^^ 2 ^ n) } }
  s.flushMsix f

/-- The bits of the word at an offset of a perturbation entry that Table 22-2 gives a field. -/
def entryMask (r : Nat) : Nat := if r = 0 then 0x00FFFF0F else if r = 12 then 0 else 0xFFFFFFFF

/-- A word of a staged entry written into the window of a core, where R462 allows it; its reserved fields stay 0 (R11). -/
def State.writeEntry (s : State) (core r v : Nat) : State :=
  let old := s.health.staged.getD core []
  { s with health := { s.health with
      staged := s.health.staged.set core (slice old 0 r ++ leBytes 4 (v &&& entryMask r) ++ slice old (r + 4) (12 - r)) } }

/-- Whether R462 lets function 0 write the perturbation fields of a core. -/
def State.windowOpen (s : State) (core : Nat) : Bool := (s.partitionOf core).any s.goAllowed

/-- A word written to a perturbation window (Table 23-12, R477). -/
def State.writeWindow (s : State) (o v : Nat) : State :=
  let core := (o - 0x8100) / 0x20
  let r := o % 0x20
  if r < 0x10 then s.writeEntry core r v
  else if r = 0x10 then (if v % 4 = 1 then s.goApply core else if v % 4 = 2 then s.goClear core else s)
  else s

/-- Bits cleared by writing 1 (Table 0-3). -/
def clearOnes (old v : Nat) : Nat := old &&& (v ^^^ (2 ^ 32 - 1))

/-- An aligned 32-bit word written at an offset of a function's BAR0, each field under its access code
(R10, R11, Table 20-2). -/
def State.writeWord (s : State) (f o v : Nat) : State :=
  let v := v % 2 ^ 32
  if o = 0x104 then
    (if f = 0 then { s with health := { s.health with events := clearOnes s.health.events v } } else s)
  else if o = 0x200 then s.onFn f fun x => { x with cause := clearOnes x.cause v }
  else if 0x1000 ≤ o ∧ o < 0x1700 then
    (if ringView f ((o - 0x1000) / 0x100) then s.writeRing ((o - 0x1000) / 0x100) (o % 0x100) v else s)
  else if o = 0x3410 then (if f = 0 then s.clearRefused v else s)
  else if o = 0x3420 ∨ o = 0x3424 then (if f = 0 then s.writeSecondsHalf (o == 0x3424) v else s)
  else if 0x5000 ≤ o ∧ o < 0x5400 then s.writeMsix f o v
  else if 0x8100 ≤ o ∧ o < 0x81C0 ∧ f = 0 ∧ s.working then s.writeWindow o v
  else s

/-- Whether an access touches the staged entry of a perturbation window. -/
def entryOffset (o : Nat) : Bool := 0x8100 ≤ o && o < 0x81C0 && o % 0x20 < 0x10

/-- A write to BAR0: 8 bytes are their two halves, the low one first (R467). A write to a staged entry that R462 does
not allow is ignored and counted once. -/
def State.writeBar0 (s : State) (f o size v : Nat) : State :=
  if (size ≠ 4 ∧ size ≠ 8) ∨ o % size ≠ 0 then s.badAccess f size true
  else if f = 0 && entryOffset o && s.working && !s.windowOpen ((o - 0x8100) / 0x20) then s.count 55 4
  else
    let s := s.writeWord f o v
    if size = 8 then s.writeWord f (o + 4) (v / 2 ^ 32) else s

/-- REGISTER_WRITE. -/
def execRegisterWrite (caller offset size value : Nat) (s : State) : Result :=
  checked (caller ≤ 6 && offset < 65536) s (onlyIf s.bar0 fun s => s.writeBar0 caller offset size value)

/-! ### BAR2 -/

/-- The physical address a BAR2 access of a function reaches; none where it is refused: by the map, or because the
function's partition is confidential. Function 0 reaches any region of a partition that is not confidential (R222 to
R224, R412, R425). -/
def State.bar2Phys (s : State) (f a : Nat) : Option Nat :=
  if 2 ^ 40 ≤ a then none
  else if f = 0 then
    let x := s.region (a / 2 ^ 30)
    if 1 ≤ x.owner ∧ x.owner ≤ 6 ∧ !x.conf ∧ !x.unmapping then some a else none
  else if s.isConf f then none
  else s.phys f a

/-- The parts of a request that lie in one 64-byte line each: offset and length (R424). -/
def linesOf : Nat → Nat → Nat → List (Nat × Nat)
  | 0, _, _ => []
  | fuel + 1, o, n =>
    if n = 0 then []
    else
      let k := min n (64 - o % 64)
      (o, k) :: linesOf fuel (o + k) (n - k)

/-- A refused line counted in both counts that name it (R222, R434). -/
def State.bar2Refusal (s : State) : State := s.refusal.count 51 1

/-- The bytes of a read put in place where their line was reached; the others read 0. -/
def reachedBytes (reached : List Bool) (data : Bytes) : Bytes :=
  (data.zip reached).map fun x => if x.2 then x.1 else 0

/-- BAR2_READ: line by line; a refused line reads 0, and a line check that fails twice returns the bytes as read. A halted
device reads 0 (R216, R222, R424, R425, R447). -/
def execBar2Read (function offset length : Nat) (response : LinkResponse) (s : State) : Result :=
  checked (function ≤ 6 && offset + length ≤ 2 ^ 28) s (onlyIf s.bar0 fun s =>
    let base := (s.ring function).apBase
    if s.health.halt.isSome then s.emit (.readData function (zeros length))
    else
      let lines := linesOf (length + 1) (base + offset) length
      let reached := lines.flatMap fun q => List.replicate q.2 (s.bar2Phys function q.1).isSome
      let (s, data) := lines.foldl (fun (r : State × Bytes) q =>
        match r.1.bar2Phys function q.1 with
        | some pa => (r.1.request pa q.2, r.2 ++ readBytes r.1.mem pa q.2)
        | none => (r.1.bar2Refusal, r.2 ++ zeros q.2)) (s, [])
      let failed := response.firstFails && response.secondFails && reached.any id
      let s := if failed then s.count 42 0 else s
      s.emit (.readData function (if failed then reachedBytes reached (flipBytes data response.flips) else data)))

/-- Bytes written where their byte enables are set. -/
def writeEnabled (m : ByteStore) (a : Nat) : List (Byte × Bool) → ByteStore
  | [] => m
  | (b, on) :: bs => writeEnabled (if on then Tab.setD 0 m a b else m) (a + 1) bs

/-- BAR2_WRITE: line by line under the byte enables; a refused line is discarded. A halted device discards the whole
(R222, R424, R425, R447). -/
def execBar2Write (function offset : Nat) (data : Bytes) (enables : List Bool) (s : State) : Result :=
  checked (function ≤ 6 && offset + data.length ≤ 2 ^ 28) s (onlyIf (s.bar0 && s.health.halt.isNone) fun s =>
    let base := (s.ring function).apBase
    (linesOf (data.length + 1) (base + offset) data.length).foldl (fun s q =>
      match s.bar2Phys function q.1 with
      | some pa =>
        let at_ := q.1 - (base + offset)
        { s.request pa q.2 with mem := writeEnabled s.mem pa (((data.zip enables).drop at_).take q.2) }
      | none => s.bar2Refusal) s)

end Sys2Proof.Machine
end

