-- ==== Sys2Proof/Machine/Management.lean ====
section
/-! DEFINITION. The management port, I3C and SMBus, the management registers, firmware update and the management
credential (R402, R403, R414, R415, R426 to R434, R449, R478). Log entry 38 says what a recorded reply stands for. -/

namespace Sys2Proof.Machine

/-! ### Sessions -/

/-- A management datagram discarded and counted (R428, R434). -/
def State.mgtDiscard (s : State) : State := s.count 51 3

/-- A reply outside or inside a session (R428). -/
def State.mgtReply (s : State) (session type status seq : Nat) (data : Bytes) : State :=
  s.emit (.mgt session type status seq data)

/-- A session destroyed: an established one is counted (R427, R434). -/
def State.endMgt (s : State) (n : Nat) : State :=
  let open_ := (Tab.find n s.mgt.sessions).any (·.established)
  let s : State := { s with mgt := { s.mgt with sessions := Tab.erase n s.mgt.sessions } }
  if open_ then s.count 51 5 else s

/-- Room made for a session: of two, the one used least recently goes (R427). -/
def State.makeRoom (s : State) : State :=
  if s.mgt.sessions.length < 2 then s
  else withSome (s.mgt.sessions.find? fun e => s.mgt.sessions.all fun o => e.2.lastUsed ≤ o.2.lastUsed) s fun e => s.endMgt e.1

/-- A HELLO that has passed every check: a pending session with fresh keys, and its RESPONSE (R406, R427). -/
def State.mgtRespond (s : State) (hello : Bytes) : State :=
  let s := s.makeRoom
  let n := (Tab.freeKey s.mgt.sessions 1 64).getD 1
  let e := s.security.ephemerals
  let head := responseHead e 3 n hello
  let th := transcript hello head
  let x : MgtSession := { established := false, th := th, keys := keySchedule 3 (secretOf e hello) th, lastSeq := none,
                          lastReply := (0, 0, []), lastUsed := s.now }
  let s : State := { s with
    security := { s.security with ephemerals := e + 1 }
    mgt := { s.mgt with sessions := Tab.put n x s.mgt.sessions } }
  s.mgtReply n 1 0 0 (responseOf s.flash.serial head th)

/-- MGT_HELLO: the checks of R407 with the enrolled credential in place of the owner; without one, bit 0 of byte 7
enrols the peer's keys (R414, R427). -/
def execMgtHello (msg : KeyMessage) (s : State) : Result :=
  .next (onlyIf s.standby (fun s =>
    let keys := peerKeys msg.bytes
    let enrols := s.flash.credential.isNone && bitOf (leAt msg.bytes 7 1) 0
    if !keyMessageOk msg.bytes 1 3 6613 then s.mgtReply 0 1 1 0 []
    else if !msg.sigOk ∨ !(s.flash.credential == some keys || enrols) then (s.count 49 0).mgtReply 0 1 4 0 []
    else if !msg.keysOk then s.mgtReply 0 1 1 0 []
    else
      let s : State := if enrols then { s with flash := { s.flash with credential := some keys } } else s
      s.mgtRespond msg.bytes) s)

/-- MGT_CONFIRM: a pending session is established, or destroyed where the MAC fails (R409, R427). -/
def execMgtConfirm (session : Nat) (macOk : Bool) (s : State) : Result :=
  .next (onlyIf s.standby (fun s =>
    match (Tab.find session s.mgt.sessions).filter fun x => !x.established with
    | none => s.mgtReply session 2 1 0 []
    | some x =>
      if !macOk then ((s.endMgt session).count 49 1).mgtReply session 2 4 0 []
      else
        let s : State := { s with mgt := { s.mgt with
          sessions := Tab.put session { x with established := true, lastUsed := s.now } s.mgt.sessions } }
        (s.count 51 4).mgtReply session 2 0 0 (finishedOf 3 session (x.keys.getD 1 []) x.th)) s)

/-- MGT_SESSION_IDLE_TIMEOUT: an established session idle for 60 s, and a pending one with no CONFIRM within 10 s
(R409, R427). -/
def execMgtSessionIdleTimeout (session : Nat) (s : State) : Result :=
  .next (withSome (Tab.find session s.mgt.sessions) s fun x =>
    if x.established then (if x.lastUsed + 60000000000 ≤ s.now then s.endMgt session else s)
    else if x.lastUsed + 10000000000 ≤ s.now then (s.endMgt session).count 49 2 else s)

/-- What a request does: its reply's STATUS and payload, and the state. -/
abbrev Answer := Nat × Bytes × State

/-- A request inside a session: its tag and SEQ are checked, a repeated SEQ receives the reply it received, and the
reply is kept (R428, R429). A session ends before its SEQ would reach 2^64. -/
def mgtRow (req : MgtRequest) (type : Nat) (s : State) (f : State → Answer) : Result :=
  .next (onlyIf s.standby (fun s =>
    match (Tab.find req.session s.mgt.sessions).filter (·.established) with
    | none => s.mgtDiscard
    | some x =>
      if !req.tagOk ∨ 2 ^ 64 ≤ req.seq then s.mgtDiscard
      else if x.lastSeq.any (req.seq < ·) then s.mgtDiscard
      else if x.lastSeq = some req.seq then
        s.mgtReply req.session x.lastReply.1 x.lastReply.2.1 req.seq x.lastReply.2.2
      else
        let (status, data, s) := f s
        let s : State := { s with mgt := { s.mgt with
          sessions := Tab.modify req.session (fun x =>
            { x with lastSeq := some req.seq, lastReply := (type, status, data), lastUsed := s.now }) s.mgt.sessions } }
        let s := s.mgtReply req.session type status req.seq data
        if req.seq = 2 ^ 64 - 1 then s.endMgt req.session else s) s)

/-! ### The management space -/

/-- The aligned word at an offset of the management space (Tables 20-5 and 23-13, R478). -/
def State.mgtWord (s : State) (o : Nat) : Nat :=
  let m := s.mgt
  if 0x1000 ≤ o ∧ o < 0x2000 then s.pwrWord (o + 0x3000)
  else if 0x2000 ≤ o ∧ o < 0x2400 then s.paceWord (o + 0x1000)
  else if 0x2400 ≤ o ∧ o < 0x2500 then s.chrWord (s.now / 2 ^ 32 % 2 ^ 32) true (o + 0x1000)
  else if 0x108 ≤ o ∧ o < 0x118 then s.flash.addr6 / 2 ^ (8 * (o - 0x108)) % 2 ^ 32
  else match o with
    | 0x000 | 0x004 => halfOf s.flash.serial o
    | 0x008 => s.idWord 0 0x20
    | 0x00C => s.idWord 0 0x28
    | 0x010 => s.flash.credVersion
    | 0x044 => bit s.health.halt.isSome + s.health.halt.elim 0 (·.cause) * 2 ^ 8 + s.flash.records.length * 2 ^ 16
    | 0x080 => m.capW
    | 0x084 => m.capState + s.config.cap * 2 ^ 16
    | 0x0C4 => m.fwLen
    | 0x0C8 => m.fwStatus
    | 0x100 | 0x104 => halfOf s.flash.addr4 o
    | _ => 0

/-- Bytes of the management space from an aligned offset on. -/
def State.mgtBytes (s : State) (o n : Nat) : Bytes := (List.range (n / 4)).flatMap fun i => leBytes 4 (s.mgtWord (o + 4 * i))

/-- MGT_READ (Table 20-4). -/
def execMgtRead (req : MgtRequest) (offset length : Nat) (s : State) : Result :=
  mgtRow req 3 s fun s =>
    if offset % 4 ≠ 0 ∨ length % 4 ≠ 0 ∨ length < 4 ∨ 1024 < length then (1, [], s)
    else (0, s.mgtBytes offset length, s)

/-- The status that a word's write is answered with (R431 to R433, R478; log entry 38). -/
def State.mgtWritable (s : State) (o v : Nat) : Nat :=
  let m := s.mgt
  if o = 0x080 then
    (if s.health.halt.isSome then 2
     else if m.commit.isSome || m.actions.any (fun a => match a with | .cap _ => true | _ => false) then 3 else 0)
  else if o = 0x0C0 then (if v % 4 = 1 ∧ (m.fwStatus = 2 ∨ m.fwStatus = 3) then 3 else 0)
  else if o = 0x0C4 then (if m.fwStatus = 2 ∨ m.fwStatus = 3 then 3 else if 33554432 < v % 2 ^ 26 then 1 else 0)
  else if o = 0x104 then (if 32 < v % 2 ^ 8 then 1 else 0)
  else if o = 0x040 ∨ o = 0x100 ∨ (0x108 ≤ o ∧ o < 0x118) ∨ o = 0x2410 ∨ o = 0x2420 ∨ o = 0x2424 then 0
  else 2

/-- An action that a WRITE starts once it is acknowledged. -/
def State.mgtAct (s : State) (a : MgtAction) : State := { s with mgt := { s.mgt with actions := s.mgt.actions ++ [a] } }

/-- A word written to the management space: it takes effect, or its action waits for its own row. -/
def State.mgtWriteWord (s : State) (o v : Nat) : State :=
  if o = 0x040 then
    (if field v 15 8 ≠ 0x5A then s
     else if v % 2 ^ 8 = 1 then s.mgtAct .warm else if v % 2 ^ 8 = 2 then s.mgtAct .cold else s)
  else if o = 0x080 then s.mgtAct (.cap (v % 2 ^ 16))
  else if o = 0x0C0 then
    (if v % 4 = 1 then s.mgtAct .fwStart else if v % 4 = 2 then s.mgtAct .fwCommit else if v % 4 = 3 then s.mgtAct .fwAbort else s)
  else if o = 0x0C4 then { s with mgt := { s.mgt with fwLen := v % 2 ^ 26 } }
  else if o = 0x2410 then s.clearRefused v
  else if o = 0x2420 ∨ o = 0x2424 then s.writeSecondsHalf (o == 0x2424) v
  else s

/-- The words of a WRITE by offset. -/
def mgtWords (offset : Nat) (data : Bytes) : List (Nat × Nat) :=
  (List.range (data.length / 4)).map fun i => (offset + 4 * i, leAt data (4 * i) 4)

/-- Whether an offset is of MGT_ADDR4 or MGT_ADDR6. -/
def addrOffset (o : Nat) : Bool := o == 0x100 || o == 0x104 || (0x108 ≤ o && o < 0x118)

/-- MGT_WRITE: a word that may not be written refuses the whole (R431, R434). -/
def execMgtWrite (req : MgtRequest) (offset : Nat) (data : Bytes) (s : State) : Result :=
  mgtRow req 4 s fun s =>
    let n := data.length
    let ws := mgtWords offset data
    if offset % 4 ≠ 0 ∨ n % 4 ≠ 0 ∨ n < 4 ∨ 1024 < n then (1, [], s.count 51 6)
    else match (ws.map fun w => s.mgtWritable w.1 w.2).find? (· ≠ 0) with
      | some st => (st, [], s.count 51 6)
      | none =>
        let addrs := ws.filter fun w => addrOffset w.1
        let s := ws.foldl (fun s w => s.mgtWriteWord w.1 w.2) s
        (0, [], if addrs.isEmpty then s else s.mgtAct (.addr addrs s.now))

/-! ### Actions -/

/-- A waiting action of one kind taken: `pick` says what it carries. -/
def State.takeAction {α : Type} (s : State) (pick : MgtAction → Option α) (f : α → State → State) : State :=
  match s.mgt.actions.findSome? fun a => (pick a).map fun x => (a, x) with
  | none => s
  | some (a, x) => f x { s with mgt := { s.mgt with actions := s.mgt.actions.erase a } }

/-- The row of an action without a value. -/
def actionRow (a : MgtAction) (s : State) (f : State → State) : Result :=
  .next (s.takeAction (fun b => if b = a then some () else none) fun _ s => f s)

/-- MGT_RESET_WARM (R431, R432). -/
def execMgtResetWarm (s : State) : Result := actionRow .warm s fun s => s.requestReset (.warm 4)

/-- MGT_RESET_COLD (R431, R432). -/
def execMgtResetCold (s : State) : Result := actionRow .cold s fun s => s.requestReset (.cold 6)

/-- MGT_CAP_WRITE: CAP_W takes the value written (R10); a bad value stages nothing and sets STATE 5, any other is staged and
committed as the management controller's commit, which is checked now and applied at a boundary (R311, R312, R432, R478). -/
def execMgtCapWrite (s : State) : Result :=
  .next (s.takeAction (fun a => match a with | .cap w => some w | _ => none) fun w s =>
    if s.health.halt.isSome then s
    else
      let s : State := { s with mgt := { s.mgt with capW := w } }
      if w < 400 ∨ 1100 < w ∨ w % 10 ≠ 0 then s.setCapState 5
      else
        match s.checkCommit 7 (s.shadow 7) with
        | (some st, s) => (s.count 44 3).commitFails 7 { cmd := none, since := s.now } st
        | (none, s) => (s.setCommit 7 (some { cmd := none, since := s.now })).setCapState 1)

/-! ### Firmware update -/

/-- FW_STATUS set, with the chunks received kept or dropped. -/
def State.fwState (s : State) (n : Nat) (keep : Bool) : State :=
  { s with mgt := { s.mgt with fwStatus := n, fwChunks := if keep then s.mgt.fwChunks else [] } }

/-- FW_START (R433); ignored while an image is checked or written (R478). -/
def execFwStart (s : State) : Result :=
  actionRow .fwStart s fun s => if s.mgt.fwStatus = 2 ∨ s.mgt.fwStatus = 3 then s else s.fwState 1 false

/-- The length of the chunk at an offset of an image (Table 20-4). -/
def chunkLength (len offset : Nat) : Nat := min 1024 (len - offset)

/-- FW_CHUNK: chunks come in any order, and a repeated offset overwrites its chunk (R433; log entry 38). -/
def execFwChunk (req : MgtRequest) (offset : Nat) (data : Bytes) (s : State) : Result :=
  mgtRow req 5 s fun s =>
    let m := s.mgt
    if m.fwStatus = 2 ∨ m.fwStatus = 3 then (3, [], s)
    else if m.fwStatus ≠ 1 then (2, [], s)
    else if offset % 1024 ≠ 0 ∨ m.fwLen ≤ offset ∨ data.length ≠ chunkLength m.fwLen offset then (1, [], s)
    else (0, [], { s with mgt := { m with fwChunks := Tab.put offset data m.fwChunks } })

/-- Whether every chunk of FW_LEN is there; an image has at least one. -/
def Mgt.complete (m : Mgt) : Bool :=
  m.fwLen != 0 && (List.range ((m.fwLen + 1023) / 1024)).all fun i =>
    (Tab.find (1024 * i) m.fwChunks).any fun b => b.length == chunkLength m.fwLen (1024 * i)

/-- FW_COMMIT: a missing chunk refuses the image, otherwise its check begins (R433). -/
def execFwCommit (s : State) : Result :=
  actionRow .fwCommit s fun s =>
    if s.mgt.fwStatus = 2 ∨ s.mgt.fwStatus = 3 then s
    else if s.mgt.complete then s.fwState 2 true
    else (s.fwState 12 true).count 49 6

/-- FW_ABORT (R478). -/
def execFwAbort (s : State) : Result :=
  actionRow .fwAbort s fun s => if s.mgt.fwStatus = 3 then s else s.fwState 0 false

/-- FW_STATUS of a check's outcome, in the order of R398 (Table 20-5). -/
def FwVerdict.status (v : FwVerdict) (rollback : Nat) : Nat :=
  if v.format ≠ 3 then 8 else if !v.signerOk then 9 else if !v.signatureOk then 10 else if v.svn < rollback then 11 else 3

/-- A firmware slot of the one that does not run. -/
def Flash.setOther (f : Flash) (i : Option FwImage) : Flash := if f.runningB then { f with slotA := i } else { f with slotB := i }

/-- FW_CHECK_COMPLETE: a refused image changes no slot; an accepted one is being written, and its slot holds no valid
image meanwhile (R398, R403, R433). -/
def execFwCheckComplete (verdict : FwVerdict) (s : State) : Result :=
  .next (onlyIf (s.standby && s.mgt.fwStatus == 2) (fun s =>
    let st := FwVerdict.status verdict s.flash.rollback
    if st ≠ 3 then (s.fwState st false).count 49 6
    else
      let image : FwImage := { bytes := s.mgt.fwChunks.flatMap (·.2), version := verdict.version, svn := verdict.svn,
                               signatures := verdict.signatures }
      let s := s.fwState 3 false
      { s with mgt := { s.mgt with fwImage := some image }, flash := s.flash.setOther none }) s)

/-- FW_WRITE_COMPLETE: the running image is unchanged, and the new one serves from the next reset on (R403, R433). -/
def execFwWriteComplete (s : State) : Result :=
  .next (onlyIf (s.standby && s.mgt.fwStatus == 3) (fun s =>
    let flash := s.flash.setOther s.mgt.fwImage
    let s := s.fwState 4 false
    { s with flash := flash, mgt := { s.mgt with fwImage := none } }) s)

/-! ### Addresses -/

/-- Words of the address registers put over their values (Table 23-13). -/
def setAddr (words : List (Nat × Nat)) (a : Nat × Nat) : Nat × Nat :=
  words.foldl (fun a w =>
    if w.1 < 0x108 then (withHalf a.1 w.1 w.2 % 2 ^ 40, a.2)
    else
      let k := 8 * (w.1 - 0x108)
      (a.1, a.2 % 2 ^ k + w.2 * 2 ^ k + a.2 / 2 ^ (k + 32) * 2 ^ (k + 32))) a

/-- MGT_ADDR_WRITE: stored in the boot flash, and in force 100 ms after its acknowledgement (R478). -/
def execMgtAddrWrite (s : State) : Result :=
  .next (s.takeAction (fun a => match a with | .addr ws t => some (ws, t) | _ => none) fun w s =>
    let (a4, a6) := setAddr w.1 (s.flash.addr4, s.flash.addr6)
    { s with
      flash := { s.flash with addr4 := a4, addr6 := a6 }
      mgt := { s.mgt with nextAddr := s.mgt.nextAddr ++ [(w.2 + 100000000, a4, a6)] } })

/-- MGT_ADDR_TAKE_EFFECT: every write whose 100 ms have passed, the latest last (R478). -/
def execMgtAddrTakeEffect (s : State) : Result :=
  .next (onlyIf s.standby (fun s =>
    let due := s.mgt.nextAddr.filter fun e => e.1 ≤ s.now
    let rest := s.mgt.nextAddr.filter fun e => !(e.1 ≤ s.now)
    due.foldl (fun s e => { s with mgt := { s.mgt with addr4 := e.2.1, addr6 := e.2.2 } })
      { s with mgt := { s.mgt with nextAddr := rest } }) s)

/-! ### Identity, attestation and records -/

/-- MGT_CERT (Table 20-4). -/
def execMgtCert (req : MgtRequest) (s : State) : Result := mgtRow req 6 s fun s => (0, slice Config.deviceCertificate 0 5405, s)

/-- MGT_ATTEST: the device report of KIND 0 (R404, Table 20-4). -/
def execMgtAttest (req : MgtRequest) (nonce : Bytes) (s : State) : Result :=
  mgtRow req 7 s fun s => if nonce.length ≠ 32 then (1, [], s) else (0, s.attestReport 0 0 nonce [], s)

/-- FAULT_READ: index 0 is the newest record (R449). -/
def execFaultRead (req : MgtRequest) (index : Nat) (s : State) : Result :=
  mgtRow req 8 s fun s =>
    match s.flash.records[index]? with
    | some r => (0, r, s)
    | none => (4, [], s)

/-! ### The credential -/

/-- CREDENTIAL_REPLACEMENT: `sigOk` is whether the request is signed under both keys of the enrolled credential (R414;
log entry 38). -/
def execCredentialReplacement (req : MgtRequest) (keys : Bytes) (sigOk : Bool) (s : State) : Result :=
  mgtRow req 0 s fun s =>
    if keys.length ≠ 1984 then (1, [], s)
    else if s.flash.credential.isNone ∨ !sigOk then (4, [], s)
    else (0, [], { s with flash := { s.flash with
      credential := some keys, credVersion := (s.flash.credVersion + 1) % 2 ^ 32 } })

/-- MANAGEMENT_CREDENTIAL_RECOVERY: an unlock token of KIND 1 clears the credential (R414, R415). -/
def execManagementCredentialRecovery (token : Bytes) (sigOk : Bool) (s : State) : Result :=
  .next (onlyIf s.standby (fun s =>
    if s.tokenOk token 1 sigOk then ({ s with flash := { s.flash with credential := none } }).count 49 4
    else s.count 49 5) s)

/-! ### I3C and SMBus -/

/-- SMBUS_BLOCK_READ: telemetry alone, and only where no I3C broadcast has been seen (R430). -/
def execSmbusBlockRead (command : Nat) (s : State) : Result :=
  .next (onlyIf (s.standby && !s.mgt.broadcastSeen) (fun s =>
    if command = 0x00 then s.emit (.sideband (s.mgtBytes 0x000 20))
    else if command = 0x01 then s.emit (.sideband (s.mgtBytes 0x044 4))
    else if 0x10 ≤ command ∧ command < 0x20 then s.emit (.sideband (s.mgtBytes (0x1000 + 32 * (command - 0x10)) 32))
    else s) s)

/-- I3C_COMMON_COMMAND: every common command begins with the broadcast address (R430; log entry 38). -/
def execI3cCommonCommand (command : I3cCommand) (s : State) : Result :=
  .next (onlyIf s.standby (fun s =>
    let s : State := { s with mgt := { s.mgt with broadcastSeen := true } }
    let m := s.mgt
    match command with
    | .setdasa static address =>
      if static = 0x4C ∧ m.i3cAddress.isNone then { s with mgt := { m with i3cAddress := some address } } else s
    | .entdaa address => if m.i3cAddress.isNone then { s with mgt := { m with i3cAddress := some address } } else s
    | .rstdaa => { s with mgt := { m with i3cAddress := none } }
    | .getpid => s.emit (.sideband (slice Config.i3cPid 0 6))
    | .getbcr => s.emit (.sideband [Config.i3cBcr])
    | .getdcr => s.emit (.sideband [Config.i3cDcr])
    | .getstatus =>
      let (n, s) := s.draw
      s.emit (.sideband (leBytes 2 (Config.i3cStatus n)))
    | .enec events => { s with mgt := { m with i3cEvents := m.i3cEvents ||| events % 2 ^ 8 } }
    | .disec events => { s with mgt := { m with i3cEvents := m.i3cEvents &&& (events % 2 ^ 8 ^^^ 255) } }) s)

end Sys2Proof.Machine
end

