-- ==== Sys2Proof/Machine/Dispatch.lean ====
section
/-! DEFINITION. The dispatch of a command to its meaning, one arm per row of the opcode table. -/

namespace Sys2Proof.Machine

/-- The effect of a command on everything but the queue of waiting commands. -/
def exec (i : Instr) (s : State) : Host.Outcome State Fault Refusal :=
  match i with
  | .openSession id => Sys2Proof.Machine.execOpenSession id s
  | .closeSession id => Sys2Proof.Machine.execCloseSession id s
  | .queryDevice id => Sys2Proof.Machine.execQueryDevice id s
  | .stageConfig id => Sys2Proof.Machine.execStageConfig id s
  | .commitConfig id => Sys2Proof.Machine.execCommitConfig id s
  | .commitApply => Sys2Proof.Machine.execCommitApply s
  | .commitTimeout set => Sys2Proof.Machine.execCommitTimeout set s
  | .enableFunction id => Sys2Proof.Machine.execEnableFunction id s
  | .disableFunction id => Sys2Proof.Machine.execDisableFunction id s
  | .teardownComplete partition => Sys2Proof.Machine.execTeardownComplete partition s
  | .allocRegion id => Sys2Proof.Machine.execAllocRegion id s
  | .freeRegion id => Sys2Proof.Machine.execFreeRegion id s
  | .unmappingComplete region => Sys2Proof.Machine.execUnmappingComplete region s
  | .scrubRegion id => Sys2Proof.Machine.execScrubRegion id s
  | .regionScrubComplete region => Sys2Proof.Machine.execRegionScrubComplete region s
  | .parcelAccept id => Sys2Proof.Machine.execParcelAccept id s
  | .parcelSend id => Sys2Proof.Machine.execParcelSend id s
  | .loadRoute id => Sys2Proof.Machine.execLoadRoute id s
  | .verifyRoute id => Sys2Proof.Machine.execVerifyRoute id s
  | .runRoute id => Sys2Proof.Machine.execRunRoute id s
  | .abortRoute id => Sys2Proof.Machine.execAbortRoute id s
  | .packTiles id => Sys2Proof.Machine.execPackTiles id s
  | .packSort id => Sys2Proof.Machine.execPackSort id s
  | .openStream id => Sys2Proof.Machine.execOpenStream id s
  | .closeStream id => Sys2Proof.Machine.execCloseStream id s
  | .queryStream id => Sys2Proof.Machine.execQueryStream id s
  | .joinCascade id => Sys2Proof.Machine.execJoinCascade id s
  | .leaveCascade id => Sys2Proof.Machine.execLeaveCascade id s
  | .reduceBucket id => Sys2Proof.Machine.execReduceBucket id s
  | .leaseRevoke id => Sys2Proof.Machine.execLeaseRevoke id s
  | .attest id => Sys2Proof.Machine.execAttest id s
  | .openKeySession id msg => Sys2Proof.Machine.execOpenKeySession id msg s
  | .setConfidential id => Sys2Proof.Machine.execSetConfidential id s
  | .runBist id => Sys2Proof.Machine.execRunBist id s
  | .bistLogicPhaseComplete observed => Sys2Proof.Machine.execBistLogicPhaseComplete observed s
  | .bistMemoryPhaseComplete observed => Sys2Proof.Machine.execBistMemoryPhaseComplete observed s
  | .setPerturb id tokenOk => Sys2Proof.Machine.execSetPerturb id tokenOk s
  | .readCounters id => Sys2Proof.Machine.execReadCounters id s
  | .ringSqTailWrite caller ring value => Sys2Proof.Machine.execRingSqTailWrite caller ring value s
  | .ringCqHeadWrite caller ring value => Sys2Proof.Machine.execRingCqHeadWrite caller ring value s
  | .ringCtrlWrite caller ring value => Sys2Proof.Machine.execRingCtrlWrite caller ring value s
  | .ringApBaseWrite caller ring value => Sys2Proof.Machine.execRingApBaseWrite caller ring value s
  | .commandFetch entry block => Sys2Proof.Machine.execCommandFetch entry block s
  | .commandCompletion id => Sys2Proof.Machine.execCommandCompletion id s
  | .coalesceWindowExpire function vector => Sys2Proof.Machine.execCoalesceWindowExpire function vector s
  | .busMasterEnableChange function on => Sys2Proof.Machine.execBusMasterEnableChange function on s
  | .bar0BadAccess function size isWrite => Sys2Proof.Machine.execBar0BadAccess function size isWrite s
  | .bar2Read function offset length response => Sys2Proof.Machine.execBar2Read function offset length response s
  | .bar2Write function offset data enables => Sys2Proof.Machine.execBar2Write function offset data enables s
  | .chrTimeRead function size => Sys2Proof.Machine.execChrTimeRead function size s
  | .chrSecondsWrite caller value => Sys2Proof.Machine.execChrSecondsWrite caller value s
  | .registerWrite caller offset size value => Sys2Proof.Machine.execRegisterWrite caller offset size value s
  | .perturbGoApply core => Sys2Proof.Machine.execPerturbGoApply core s
  | .perturbGoClear core => Sys2Proof.Machine.execPerturbGoClear core s
  | .mgtResetWarm => Sys2Proof.Machine.execMgtResetWarm s
  | .mgtResetCold => Sys2Proof.Machine.execMgtResetCold s
  | .mgtCapWrite => Sys2Proof.Machine.execMgtCapWrite s
  | .fwStart => Sys2Proof.Machine.execFwStart s
  | .fwCommit => Sys2Proof.Machine.execFwCommit s
  | .fwAbort => Sys2Proof.Machine.execFwAbort s
  | .fwCheckComplete verdict => Sys2Proof.Machine.execFwCheckComplete verdict s
  | .fwWriteComplete => Sys2Proof.Machine.execFwWriteComplete s
  | .mgtAddrWrite => Sys2Proof.Machine.execMgtAddrWrite s
  | .mgtAddrTakeEffect => Sys2Proof.Machine.execMgtAddrTakeEffect s
  | .mgtHello msg => Sys2Proof.Machine.execMgtHello msg s
  | .mgtConfirm session macOk => Sys2Proof.Machine.execMgtConfirm session macOk s
  | .mgtRead req offset length => Sys2Proof.Machine.execMgtRead req offset length s
  | .mgtWrite req offset data => Sys2Proof.Machine.execMgtWrite req offset data s
  | .fwChunk req offset data => Sys2Proof.Machine.execFwChunk req offset data s
  | .mgtCert req => Sys2Proof.Machine.execMgtCert req s
  | .mgtAttest req nonce => Sys2Proof.Machine.execMgtAttest req nonce s
  | .faultRead req index => Sys2Proof.Machine.execFaultRead req index s
  | .mgtSessionIdleTimeout session => Sys2Proof.Machine.execMgtSessionIdleTimeout session s
  | .smbusBlockRead command => Sys2Proof.Machine.execSmbusBlockRead command s
  | .i3cCommonCommand command => Sys2Proof.Machine.execI3cCommonCommand command s
  | .inputStartLevel => Sys2Proof.Machine.execInputStartLevel s
  | .perstAssert => Sys2Proof.Machine.execPerstAssert s
  | .hotReset => Sys2Proof.Machine.execHotReset s
  | .pcieLinkDownTimeout => Sys2Proof.Machine.execPcieLinkDownTimeout s
  | .functionLevelReset function => Sys2Proof.Machine.execFunctionLevelReset function s
  | .standbyRailsUp masterSel cascadeId => Sys2Proof.Machine.execStandbyRailsUp masterSel cascadeId s
  | .mainRailsUp temps => Sys2Proof.Machine.execMainRailsUp temps s
  | .bootChainComplete verdict => Sys2Proof.Machine.execBootChainComplete verdict s
  | .lpddr6TrainingComplete replayFailed failing => Sys2Proof.Machine.execLpddr6TrainingComplete replayFailed failing s
  | .memoryScrubComplete => Sys2Proof.Machine.execMemoryScrubComplete s
  | .deviceReady => Sys2Proof.Machine.execDeviceReady s
  | .pwrWarnAssert => Sys2Proof.Machine.execPwrWarnAssert s
  | .warnClearRestart => Sys2Proof.Machine.execWarnClearRestart s
  | .pwrWarnDeassert => Sys2Proof.Machine.execPwrWarnDeassert s
  | .shortResetLevelDip => Sys2Proof.Machine.execShortResetLevelDip s
  | .supplyLoss microseconds => Sys2Proof.Machine.execSupplyLoss microseconds s
  | .standbyOff => Sys2Proof.Machine.execStandbyOff s
  | .overRangeEntry => Sys2Proof.Machine.execOverRangeEntry s
  | .inputProtectionDisconnect => Sys2Proof.Machine.execInputProtectionDisconnect s
  | .faultRecordWritten => Sys2Proof.Machine.execFaultRecordWritten s
  | .internalLogicError block => Sys2Proof.Machine.execInternalLogicError block s
  | .controlCoreWatchdogExpire => Sys2Proof.Machine.execControlCoreWatchdogExpire s
  | .paceWindowEnd readings => Sys2Proof.Machine.execPaceWindowEnd readings s
  | .powerSample vin iin => Sys2Proof.Machine.execPowerSample vin iin s
  | .temperatureSample readings => Sys2Proof.Machine.execTemperatureSample readings s
  | .epochBoundary => Sys2Proof.Machine.execEpochBoundary s
  | .vcoreChangeComplete => Sys2Proof.Machine.execVcoreChangeComplete s
  | .reservedSlotStart => Sys2Proof.Machine.execReservedSlotStart s
  | .ppsEdge => Sys2Proof.Machine.execPpsEdge s
  | .ptpMessage port msg => Sys2Proof.Machine.execPtpMessage port msg s
  | .holdoverEntry => Sys2Proof.Machine.execHoldoverEntry s
  | .frameRelease stream => Sys2Proof.Machine.execFrameRelease stream s
  | .beatMissed stream => Sys2Proof.Machine.execBeatMissed stream s
  | .deadlineMiss stream => Sys2Proof.Machine.execDeadlineMiss stream s
  | .routeStepDispatch core => Sys2Proof.Machine.execRouteStepDispatch core s
  | .routeStepComplete core => Sys2Proof.Machine.execRouteStepComplete core s
  | .resultHandover stream => Sys2Proof.Machine.execResultHandover stream s
  | .layerStep core => Sys2Proof.Machine.execLayerStep core s
  | .openBox core => Sys2Proof.Machine.execOpenBox core s
  | .closeBox core => Sys2Proof.Machine.execCloseBox core s
  | .waitBox core => Sys2Proof.Machine.execWaitBox core s
  | .waitSatisfied core => Sys2Proof.Machine.execWaitSatisfied core s
  | .orderStep core => Sys2Proof.Machine.execOrderStep core s
  | .releaseSlots core => Sys2Proof.Machine.execReleaseSlots core s
  | .vecAdd core => Sys2Proof.Machine.execVecAdd core s
  | .vecSub core => Sys2Proof.Machine.execVecSub core s
  | .vecMul core => Sys2Proof.Machine.execVecMul core s
  | .vecFma core => Sys2Proof.Machine.execVecFma core s
  | .vecMin core => Sys2Proof.Machine.execVecMin core s
  | .vecMax core => Sys2Proof.Machine.execVecMax core s
  | .vecAbs core => Sys2Proof.Machine.execVecAbs core s
  | .vecNeg core => Sys2Proof.Machine.execVecNeg core s
  | .vecCmp core => Sys2Proof.Machine.execVecCmp core s
  | .vecSelect core => Sys2Proof.Machine.execVecSelect core s
  | .vecConvert core => Sys2Proof.Machine.execVecConvert core s
  | .vecDiv core => Sys2Proof.Machine.execVecDiv core s
  | .vecSqrt core => Sys2Proof.Machine.execVecSqrt core s
  | .vecRsqrt core => Sys2Proof.Machine.execVecRsqrt core s
  | .vecRecip core => Sys2Proof.Machine.execVecRecip core s
  | .vecExp2 core => Sys2Proof.Machine.execVecExp2 core s
  | .vecLog2 core => Sys2Proof.Machine.execVecLog2 core s
  | .vecSum core => Sys2Proof.Machine.execVecSum core s
  | .vecSumsq core => Sys2Proof.Machine.execVecSumsq core s
  | .vecMaxi core => Sys2Proof.Machine.execVecMaxi core s
  | .vecMini core => Sys2Proof.Machine.execVecMini core s
  | .vecLse core => Sys2Proof.Machine.execVecLse core s
  | .vecSoftmax core => Sys2Proof.Machine.execVecSoftmax core s
  | .vecRmsnorm core => Sys2Proof.Machine.execVecRmsnorm core s
  | .vecLayernorm core => Sys2Proof.Machine.execVecLayernorm core s
  | .vecGradAdd core => Sys2Proof.Machine.execVecGradAdd core s
  | .vecSgdStep core => Sys2Proof.Machine.execVecSgdStep core s
  | .vecAdamStep core => Sys2Proof.Machine.execVecAdamStep core s
  | .vecScaleUpdate core => Sys2Proof.Machine.execVecScaleUpdate core s
  | .vecScatterAdd core => Sys2Proof.Machine.execVecScatterAdd core s
  | .vecRelu core => Sys2Proof.Machine.execVecRelu core s
  | .vecClamp core => Sys2Proof.Machine.execVecClamp core s
  | .vecGelu core => Sys2Proof.Machine.execVecGelu core s
  | .vecSilu core => Sys2Proof.Machine.execVecSilu core s
  | .tileFetch core array => Sys2Proof.Machine.execTileFetch core array s
  | .tileArrival core array => Sys2Proof.Machine.execTileArrival core array s
  | .recoderLoad core array => Sys2Proof.Machine.execRecoderLoad core array s
  | .laneTileSwitch core array lane => Sys2Proof.Machine.execLaneTileSwitch core array lane s
  | .residencyLoad core array => Sys2Proof.Machine.execResidencyLoad core array s
  | .bandRead core band => Sys2Proof.Machine.execBandRead core band s
  | .feedVector core array => Sys2Proof.Machine.execFeedVector core array s
  | .laneStep core array lane => Sys2Proof.Machine.execLaneStep core array lane s
  | .runPromotion core array lane => Sys2Proof.Machine.execRunPromotion core array lane s
  | .columnClaim core array => Sys2Proof.Machine.execColumnClaim core array s
  | .guestAttach core array => Sys2Proof.Machine.execGuestAttach core array s
  | .drainRead core band => Sys2Proof.Machine.execDrainRead core band s
  | .pigeonholeUpdate core bank => Sys2Proof.Machine.execPigeonholeUpdate core bank s
  | .sackRecordWrite core => Sys2Proof.Machine.execSackRecordWrite core s
  | .scatterGroupClose core => Sys2Proof.Machine.execScatterGroupClose core s
  | .sortingFramePass core => Sys2Proof.Machine.execSortingFramePass core s
  | .bankAccessGrant core bank => Sys2Proof.Machine.execBankAccessGrant core bank s
  | .letterboxWriteArrival core write => Sys2Proof.Machine.execLetterboxWriteArrival core write s
  | .letterboxWriteLanded core landing => Sys2Proof.Machine.execLetterboxWriteLanded core landing s
  | .bankDrainComplete core bank => Sys2Proof.Machine.execBankDrainComplete core bank s
  | .bankPowerUpComplete core bank => Sys2Proof.Machine.execBankPowerUpComplete core bank s
  | .scratchpadZeroComplete partition => Sys2Proof.Machine.execScratchpadZeroComplete partition s
  | .memoryReadResponse core array response => Sys2Proof.Machine.execMemoryReadResponse core array response s
  | .selfRefreshEntry stack => Sys2Proof.Machine.execSelfRefreshEntry stack s
  | .selfRefreshExit stack => Sys2Proof.Machine.execSelfRefreshExit stack s
  | .refreshManagementRequest stack => Sys2Proof.Machine.execRefreshManagementRequest stack s
  | .flitReceive port flit => Sys2Proof.Machine.execFlitReceive port flit s
  | .replayTimeout port => Sys2Proof.Machine.execReplayTimeout port s
  | .linkRetrainEnd port up => Sys2Proof.Machine.execLinkRetrainEnd port up s
  | .plinkLinkUp port hello => Sys2Proof.Machine.execPlinkLinkUp port hello s
  | .relayCmd => Sys2Proof.Machine.execRelayCmd s
  | .relayReply => Sys2Proof.Machine.execRelayReply s
  | .lbWrite => Sys2Proof.Machine.execLbWrite s
  | .lbAck => Sys2Proof.Machine.execLbAck s
  | .plinkClaim => Sys2Proof.Machine.execPlinkClaim s
  | .claimReply => Sys2Proof.Machine.execClaimReply s
  | .plinkRelease => Sys2Proof.Machine.execPlinkRelease s
  | .renew => Sys2Proof.Machine.execRenew s
  | .renewTimer => Sys2Proof.Machine.execRenewTimer s
  | .revoked => Sys2Proof.Machine.execRevoked s
  | .leaseExpiry => Sys2Proof.Machine.execLeaseExpiry s
  | .memberRenewTimeout device => Sys2Proof.Machine.execMemberRenewTimeout device s
  | .memberLost => Sys2Proof.Machine.execMemberLost s
  | .memberPrepare => Sys2Proof.Machine.execMemberPrepare s
  | .memberCommit => Sys2Proof.Machine.execMemberCommit s
  | .memberLeave => Sys2Proof.Machine.execMemberLeave s
  | .memberMasterLost => Sys2Proof.Machine.execMemberMasterLost s
  | .joinTimeout => Sys2Proof.Machine.execJoinTimeout s
  | .joinPrepareTimeout => Sys2Proof.Machine.execJoinPrepareTimeout s
  | .reduceRegister => Sys2Proof.Machine.execReduceRegister s
  | .registrationTimeout tag => Sys2Proof.Machine.execRegistrationTimeout tag s
  | .reduceStart => Sys2Proof.Machine.execReduceStart s
  | .reducePart => Sys2Proof.Machine.execReducePart s
  | .reduceFinal => Sys2Proof.Machine.execReduceFinal s
  | .reduceRedo => Sys2Proof.Machine.execReduceRedo s
  | .ethernetLinkUp port => Sys2Proof.Machine.execEthernetLinkUp port s
  | .portLinkDown port => Sys2Proof.Machine.execPortLinkDown port s
  | .packetReceive port packet => Sys2Proof.Machine.execPacketReceive port packet s
  | .arpOrNdRequest port => Sys2Proof.Machine.execArpOrNdRequest port s
  | .rtpPacket port => Sys2Proof.Machine.execRtpPacket port s
  | .parcelData port => Sys2Proof.Machine.execParcelData port s
  | .parcelGrant port => Sys2Proof.Machine.execParcelGrant port s
  | .parcelNack port => Sys2Proof.Machine.execParcelNack port s
  | .parcelResend port => Sys2Proof.Machine.execParcelResend port s
  | .grantTimer channel => Sys2Proof.Machine.execGrantTimer channel s
  | .retransmitTimeout channel => Sys2Proof.Machine.execRetransmitTimeout channel s
  | .channelTimeout channel => Sys2Proof.Machine.execChannelTimeout channel s
  | .finalGrantWindowEnd channel => Sys2Proof.Machine.execFinalGrantWindowEnd channel s
  | .keySessionPendingTimeout partition session => Sys2Proof.Machine.execKeySessionPendingTimeout partition session s
  | .keySessionIdleTimeout partition session => Sys2Proof.Machine.execKeySessionIdleTimeout partition session s
  | .tokenExpiry => Sys2Proof.Machine.execTokenExpiry s
  | .pcieLinkL0 => Sys2Proof.Machine.execPcieLinkL0 s
  | .joinReply => Sys2Proof.Machine.execJoinReply s
  | .credentialReplacement req keys sigOk => Sys2Proof.Machine.execCredentialReplacement req keys sigOk s
  | .managementCredentialRecovery token sigOk => Sys2Proof.Machine.execManagementCredentialRecovery token sigOk s

end Sys2Proof.Machine
end

