-- ==== Sys2Proof/Safety.lean ====
section
/-! DEFINITION. What a well-kept state is: the canonical form of device memory, and the legal ranges of
the settings and modes that every step keeps. -/

namespace Sys2Proof.Machine

/-- Device memory is in canonical form: rising addresses, and no entry equal to what an unlisted byte
reads as. -/
def State.memWf (s : State) : Bool := Tab.wf 0 s.mem

/-! ### How a command stands -/

/-- Command `id` waits, carries opcode `code`, is for this device, was checked when it was fetched, and may start: the
device works and ring order and FENCE allow it (R293, R304, R308). -/
structure State.Starts (s : State) (id code : Nat) (c : Cmd) : Prop where
  found : s.cmd id = some c
  waits : c.phase = .waiting
  opcode : c.packet.opcode = code
  checked : c.checked = true
  works : s.working = true
  stays : s.toRelay c = false
  order : s.mayStart c = true

/-- The state in which a command has started: nothing but its phase differs. -/
def State.started (s : State) (id : Nat) (c : Cmd) : State := s.setCmd id { c with phase := .running, checked := true }

/-- Command `id` is in flight and has not ended. -/
def State.Open (s : State) (id : Nat) : Prop := ∃ c, s.cmd id = some c ∧ c.phase ≠ .ended

/-- Command `id` has ended with a status code and a DETAIL, and awaits its completion entry. -/
def State.EndsWith (s : State) (id status detail : Nat) : Prop :=
  ∃ c, s.cmd id = some c ∧ c.phase = .ended ∧ c.status = status ∧ c.detail = detail

/-! ### How a management request stands -/

/-- A management request names an established session, its tag verifies, and its SEQ is above every one before it and
below the last (R428, R429). -/
structure State.Asks (s : State) (req : MgtRequest) (x : MgtSession) : Prop where
  standby : s.standby = true
  found : Tab.find req.session s.mgt.sessions = some x
  established : x.established = true
  tag : req.tagOk = true
  bounded : req.seq < 2 ^ 64 - 1
  fresh : ∀ n, x.lastSeq = some n → n < req.seq

/-- The state once a request has been answered: the session keeps the SEQ and the reply, and the reply is sent. -/
def State.answered (s : State) (req : MgtRequest) (type status : Nat) (data : Bytes) : State :=
  let t : State := { s with mgt := { s.mgt with sessions := Tab.modify req.session (fun x =>
    { x with lastSeq := some req.seq, lastReply := (type, status, data), lastUsed := s.now }) s.mgt.sessions } }
  t.mgtReply req.session type status req.seq data

/-! ### What a core is at -/

/-- Core `k` of a working device has dispatched vector step `v`, step `i` of run `rid`, whose route is `x`. -/
structure State.HasVector (s : State) (k rid i : Nat) (x : Route) (v : VectorStep) : Prop where
  works : s.working = true
  core : k < 6
  step : s.readyStep k = some (rid, i, .vector v)
  route : ∃ r, s.routeOf rid = some (r, x)

/-- Core `k` of a working device runs a layer step, step `i` of run `rid`; `a` is one of its arrays, and `r` and `x`
are the run and its route. -/
structure State.HasLayer (s : State) (k a rid i : Nat) (e : LayerExec) (r : Run) (x : Route) : Prop where
  works : s.working = true
  core : k < 6
  array : a < 96
  layer : s.layerOn k = some (rid, i, e)
  route : s.routeOf rid = some (r, x)

/-! ### What a command may change -/

/-- The components of the state, one for each field of `State`; the counters that the boot flash holds
(groups 52 to 54, R473) stand apart from the rest of the flash. -/
inductive Fld where
  | pending | outbox | freeCount | fns | parts | cmds | nextCmd | ended | turn
  | config | mem | regions | scrubs | unmaps | refreshing | memUsed | cores | counters
  | routes | runs | nextRun | streams | channels | ports | cascade | leases | buckets
  | tagHomes | security | mgt | time | power | health | flash | tally | packing | flashTally | links
  deriving DecidableEq, Repr

/-- The number of a component. -/
def Fld.bit : Fld → Nat
  | .pending => 0 | .outbox => 1 | .freeCount => 2 | .fns => 3 | .parts => 4 | .cmds => 5
  | .nextCmd => 6 | .ended => 7 | .turn => 8 | .config => 9 | .mem => 10 | .regions => 11
  | .scrubs => 12 | .unmaps => 13 | .refreshing => 14 | .memUsed => 15 | .cores => 16
  | .counters => 17 | .routes => 18 | .runs => 19 | .nextRun => 20 | .streams => 21
  | .channels => 22 | .ports => 23 | .cascade => 24 | .leases => 25 | .buckets => 26
  | .tagHomes => 27 | .security => 28 | .mgt => 29 | .time => 30 | .power => 31 | .health => 32
  | .flash => 33 | .tally => 34 | .packing => 35 | .flashTally => 36 | .links => 37

/-- A set of components, as a mask. -/
def fields (l : List Fld) : Nat := l.foldr (fun f m => m ||| 2 ^ f.bit) 0

/-- Every component but those of a list. -/
def fieldsBut (l : List Fld) : Nat := (2 ^ 38 - 1) ^^^ fields l

/-- `t` differs from `s` at most in the components of the set `w`: the frame of whatever leads from one
to the other. -/
structure State.Only (w : Nat) (s t : State) : Prop where
  pending : w.testBit 0 = false → t.pending = s.pending
  outbox : w.testBit 1 = false → t.outbox = s.outbox
  freeCount : w.testBit 2 = false → t.freeCount = s.freeCount
  fns : w.testBit 3 = false → t.fns = s.fns
  parts : w.testBit 4 = false → t.parts = s.parts
  cmds : w.testBit 5 = false → t.cmds = s.cmds
  nextCmd : w.testBit 6 = false → t.nextCmd = s.nextCmd
  ended : w.testBit 7 = false → t.ended = s.ended
  turn : w.testBit 8 = false → t.turn = s.turn
  config : w.testBit 9 = false → t.config = s.config
  mem : w.testBit 10 = false → t.mem = s.mem
  regions : w.testBit 11 = false → t.regions = s.regions
  scrubs : w.testBit 12 = false → t.scrubs = s.scrubs
  unmaps : w.testBit 13 = false → t.unmaps = s.unmaps
  refreshing : w.testBit 14 = false → t.refreshing = s.refreshing
  memUsed : w.testBit 15 = false → t.memUsed = s.memUsed
  cores : w.testBit 16 = false → t.cores = s.cores
  counters : w.testBit 17 = false → t.counters = s.counters
  routes : w.testBit 18 = false → t.routes = s.routes
  runs : w.testBit 19 = false → t.runs = s.runs
  nextRun : w.testBit 20 = false → t.nextRun = s.nextRun
  streams : w.testBit 21 = false → t.streams = s.streams
  channels : w.testBit 22 = false → t.channels = s.channels
  ports : w.testBit 23 = false → t.ports = s.ports
  cascade : w.testBit 24 = false → t.cascade = s.cascade
  leases : w.testBit 25 = false → t.leases = s.leases
  buckets : w.testBit 26 = false → t.buckets = s.buckets
  tagHomes : w.testBit 27 = false → t.tagHomes = s.tagHomes
  security : w.testBit 28 = false → t.security = s.security
  mgt : w.testBit 29 = false → t.mgt = s.mgt
  time : w.testBit 30 = false → t.time = s.time
  power : w.testBit 31 = false → t.power = s.power
  health : w.testBit 32 = false → t.health = s.health
  flash : w.testBit 33 = false → t.flash = { s.flash with tally := t.flash.tally }
  tally : w.testBit 34 = false → t.tally = s.tally
  packing : w.testBit 35 = false → t.packing = s.packing
  flashTally : w.testBit 36 = false → t.flash.tally = s.flash.tally
  links : w.testBit 37 = false → t.links = s.links

/-- The commands in flight are listed by rising number, each below the number of the next (R292). -/
def State.cmdsWf (s : State) : Bool := Tab.rising s.cmds && s.cmds.all fun e => decide (e.1 < s.nextCmd)

/-- The partition map has one record a region, listed by rising number (R221). -/
def State.regionsWf (s : State) : Bool := Tab.rising s.regions

/-- A well-kept state: device memory is canonical, the commands in flight are numbered, and the partition map has
one record a region. -/
def State.Inv (s : State) : Prop := s.memWf = true ∧ s.cmdsWf = true ∧ s.regionsWf = true

end Sys2Proof.Machine

namespace Sys2Proof
open Sys2Proof.Machine

/-- The components each command may change: everything else is left as it was. -/
def Instr.writes : Instr → Nat
  | .openSession _ | .closeSession _ | .queryDevice _ | .verifyRoute _ | .queryStream _ | .attest _
  | .readCounters _ =>
    fields [.outbox, .fns, .cmds, .ended, .memUsed, .links, .tally, .flashTally]
  | .stageConfig _ =>
    fields [.outbox, .fns, .parts, .cmds, .ended, .config, .memUsed, .links, .tally, .flashTally]
  | .commitConfig _ =>
    fields [.outbox, .fns, .parts, .cmds, .ended, .config, .memUsed, .links, .mgt, .tally, .flashTally]
  | .commitApply =>
    fields [.outbox, .parts, .cmds, .ended, .config, .cores, .routes, .ports, .mgt, .time, .power,
      .health, .tally, .flashTally]
  | .commitTimeout _ | .mgtCapWrite =>
    fields [.outbox, .parts, .cmds, .ended, .config, .mgt, .tally, .flashTally]
  | .enableFunction _ | .setConfidential _ =>
    fields [.outbox, .fns, .parts, .cmds, .ended, .memUsed, .links, .tally, .flashTally]
  | .disableFunction _ =>
    fieldsBut [.pending, .nextCmd, .turn, .config, .mem, .regions, .refreshing, .nextRun, .tagHomes,
      .security, .mgt, .time, .power, .health, .flash]
  | .teardownComplete _ =>
    fields [.fns, .parts, .cmds, .ended, .tally, .flashTally]
  | .allocRegion _ =>
    fields [.outbox, .fns, .cmds, .ended, .regions, .scrubs, .memUsed, .links, .tally, .flashTally]
  | .freeRegion _ =>
    fields [.outbox, .fns, .cmds, .ended, .regions, .unmaps, .memUsed, .links, .tally, .flashTally]
  | .unmappingComplete _ =>
    fields [.parts, .cmds, .ended, .regions, .scrubs, .unmaps, .cores, .counters, .routes, .streams,
      .channels, .leases, .tally, .flashTally]
  | .scrubRegion _ =>
    fields [.outbox, .fns, .cmds, .ended, .scrubs, .memUsed, .links, .tally, .flashTally]
  | .regionScrubComplete _ =>
    fields [.parts, .cmds, .ended, .mem, .regions, .scrubs, .memUsed, .cores, .counters, .routes,
      .streams, .channels, .leases, .tally, .flashTally]
  | .parcelAccept _ | .parcelSend _ =>
    fields [.outbox, .fns, .parts, .cmds, .ended, .memUsed, .links, .channels, .tally, .flashTally]
  | .loadRoute _ =>
    fields [.outbox, .fns, .cmds, .ended, .memUsed, .links, .cores, .counters, .routes, .tally,
      .flashTally]
  | .runRoute _ =>
    fields [.outbox, .fns, .cmds, .ended, .memUsed, .links, .cores, .counters, .routes, .runs, .nextRun,
      .tally, .flashTally]
  | .abortRoute _ =>
    fields [.outbox, .freeCount, .fns, .parts, .cmds, .ended, .memUsed, .links, .cores, .counters,
      .routes, .runs, .streams, .channels, .leases, .tally, .flashTally]
  | .packTiles _ =>
    fields [.outbox, .freeCount, .fns, .parts, .cmds, .ended, .mem, .memUsed, .links, .cores, .counters,
      .routes, .runs, .nextRun, .streams, .channels, .leases, .tally, .packing, .flashTally]
  | .packSort _ =>
    fields [.packing]
  | .openStream _ =>
    fields [.outbox, .fns, .parts, .cmds, .ended, .memUsed, .links, .cores, .routes, .streams, .leases,
      .tally, .flashTally]
  | .closeStream _ =>
    fields [.outbox, .fns, .parts, .cmds, .ended, .memUsed, .links, .cores, .counters, .routes,
      .streams, .channels, .leases, .tally, .flashTally]
  | .joinCascade _ =>
    fields [.outbox, .fns, .cmds, .ended, .memUsed, .links, .ports, .cascade, .tally, .flashTally]
  | .leaveCascade _ =>
    fieldsBut [.pending, .nextCmd, .turn, .config, .mem, .regions, .refreshing, .nextRun, .security,
      .mgt, .time, .power, .flash]
  | .reduceBucket _ =>
    fields [.outbox, .fns, .cmds, .ended, .mem, .memUsed, .links, .cores, .runs, .ports, .cascade,
      .buckets, .tally, .flashTally]
  | .leaseRevoke _ =>
    fields [.outbox, .freeCount, .fns, .parts, .cmds, .ended, .memUsed, .links, .cores, .counters,
      .routes, .runs, .streams, .channels, .ports, .cascade, .leases, .buckets, .tagHomes, .health,
      .tally, .flashTally]
  | .openKeySession _ _ =>
    fields [.outbox, .fns, .parts, .cmds, .ended, .memUsed, .links, .security, .tally, .flashTally]
  | .runBist _ =>
    fields [.outbox, .fns, .cmds, .ended, .memUsed, .links, .power, .health, .tally, .flashTally]
  | .bistLogicPhaseComplete _ | .bistMemoryPhaseComplete _ =>
    fields [.outbox, .fns, .cmds, .ended, .cores, .ports, .power, .health, .tally, .flashTally]
  | .setPerturb _ _ =>
    fields [.outbox, .fns, .parts, .cmds, .ended, .memUsed, .links, .security, .health, .tally,
      .flashTally]
  | .ringSqTailWrite _ _ _ | .ringCqHeadWrite _ _ _ | .coalesceWindowExpire _ _ =>
    fields [.outbox, .fns]
  | .ringCtrlWrite _ _ _ | .ringApBaseWrite _ _ _ =>
    fields [.fns]
  | .commandFetch _ _ =>
    fields [.outbox, .fns, .cmds, .nextCmd, .ended, .turn, .memUsed, .links, .ports, .cascade, .tally,
      .flashTally]
  | .commandCompletion _ =>
    fields [.outbox, .fns, .cmds, .ended, .ports, .cascade, .tally, .flashTally]
  | .busMasterEnableChange _ _ =>
    fields [.outbox, .fns, .cmds]
  | .bar0BadAccess _ _ _ =>
    fields [.outbox, .tally, .flashTally]
  | .bar2Read _ _ _ _ =>
    fields [.outbox, .memUsed, .tally, .flashTally]
  | .bar2Write _ _ _ _ =>
    fields [.mem, .memUsed, .tally, .flashTally]
  | .chrTimeRead _ _ =>
    fields [.outbox, .fns, .tally, .flashTally]
  | .chrSecondsWrite _ _ =>
    fields [.time]
  | .registerWrite _ _ _ _ =>
    fields [.outbox, .fns, .parts, .time, .health, .tally, .flashTally]
  | .perturbGoApply _ | .perturbGoClear _ =>
    fields [.parts, .health, .tally, .flashTally]
  | .mgtResetWarm | .mgtResetCold | .inputStartLevel | .perstAssert | .hotReset | .pcieLinkDownTimeout
  | .faultRecordWritten =>
    fieldsBut [.pending, .freeCount, .nextCmd]
  | .fwStart | .fwAbort | .mgtAddrTakeEffect =>
    fields [.mgt]
  | .fwCommit | .mgtSessionIdleTimeout _ =>
    fields [.mgt, .tally, .flashTally]
  | .fwCheckComplete _ =>
    fields [.mgt, .flash, .tally, .flashTally]
  | .fwWriteComplete | .mgtAddrWrite =>
    fields [.mgt, .flash, .flashTally]
  | .mgtHello _ =>
    fields [.outbox, .security, .mgt, .flash, .tally, .flashTally]
  | .mgtConfirm _ _ | .mgtRead _ _ _ | .fwChunk _ _ _ | .mgtCert _ | .mgtAttest _ _ | .faultRead _ _ =>
    fields [.outbox, .mgt, .tally, .flashTally]
  | .mgtWrite _ _ _ =>
    fields [.outbox, .mgt, .time, .tally, .flashTally]
  | .smbusBlockRead _ =>
    fields [.outbox]
  | .i3cCommonCommand _ =>
    fields [.outbox, .freeCount, .mgt]
  | .functionLevelReset _ =>
    fieldsBut [.pending, .nextCmd]
  | .standbyRailsUp _ _ =>
    fields [.cascade, .mgt, .time, .power]
  | .mainRailsUp _ =>
    fields [.power, .tally, .flashTally]
  | .bootChainComplete _ =>
    fields [.outbox, .fns, .cmds, .ended, .ports, .security, .power, .health, .flash, .tally, .flashTally]
  | .lpddr6TrainingComplete _ _ | .paceWindowEnd _ | .temperatureSample _ =>
    fields [.outbox, .fns, .cmds, .ended, .ports, .power, .health, .tally, .flashTally]
  | .memoryScrubComplete =>
    fields [.mem, .regions, .power]
  | .deviceReady =>
    fields [.power, .flash, .flashTally]
  | .pwrWarnAssert =>
    fields [.outbox, .fns, .power, .tally, .flashTally]
  | .warnClearRestart | .powerSample _ _ | .reservedSlotStart =>
    fields [.power]
  | .pwrWarnDeassert =>
    fields [.outbox, .fns, .power]
  | .shortResetLevelDip | .overRangeEntry =>
    fields [.tally, .flashTally]
  | .supplyLoss _ | .inputProtectionDisconnect | .internalLogicError _ | .controlCoreWatchdogExpire
  | .deadlineMiss _ =>
    fields [.outbox, .fns, .cmds, .ended, .ports, .health, .tally, .flashTally]
  | .standbyOff =>
    fieldsBut [.pending, .freeCount, .nextCmd]
  | .epochBoundary =>
    fields [.power, .health, .tally, .flashTally]
  | .vcoreChangeComplete =>
    fields [.cmds, .ended, .power, .health, .tally, .flashTally]
  | .ppsEdge | .holdoverEntry =>
    fields [.time, .health, .tally, .flashTally]
  | .ptpMessage _ _ =>
    fields [.outbox, .time, .health, .tally, .flashTally]
  | .frameRelease _ =>
    fields [.runs, .nextRun, .streams, .tally, .flashTally]
  | .beatMissed _ =>
    fields [.parts, .cores, .runs, .streams, .tally, .flashTally]
  | .routeStepDispatch _ | .bandRead _ _ | .memoryReadResponse _ _ _ =>
    fields [.freeCount, .parts, .cmds, .ended, .memUsed, .links, .cores, .counters, .routes, .runs,
      .streams, .channels, .leases, .tally, .flashTally]
  | .routeStepComplete _ | .layerStep _ =>
    fields [.outbox, .freeCount, .fns, .parts, .cmds, .ended, .mem, .memUsed, .links, .cores, .counters,
      .routes, .runs, .streams, .channels, .ports, .cascade, .leases, .health, .tally, .flashTally]
  | .resultHandover _ =>
    fields [.outbox, .freeCount, .fns, .parts, .cmds, .ended, .cores, .counters, .routes, .runs,
      .streams, .channels, .ports, .leases, .health, .tally, .flashTally]
  | .openBox _ | .closeBox _ | .waitBox _ | .waitSatisfied _ | .orderStep _ | .releaseSlots _ =>
    fields [.outbox, .freeCount, .fns, .parts, .cmds, .ended, .mem, .memUsed, .cores, .counters,
      .routes, .runs, .streams, .channels, .ports, .leases, .health, .tally, .flashTally]
  | .vecAdd _ | .vecSub _ | .vecMul _ | .vecFma _ | .vecMin _ | .vecMax _ | .vecAbs _ | .vecNeg _ | .vecCmp _
  | .vecSelect _ | .vecDiv _ | .vecSqrt _ | .vecRsqrt _ | .vecRecip _ | .vecExp2 _ | .vecLog2 _ | .vecSum _
  | .vecSumsq _ | .vecMaxi _ | .vecMini _ | .vecLse _ | .vecSoftmax _ | .vecRmsnorm _ | .vecLayernorm _
  | .vecGradAdd _ | .vecSgdStep _ | .vecAdamStep _ | .vecScaleUpdate _ | .vecScatterAdd _ | .vecRelu _
  | .vecClamp _ | .vecGelu _ | .vecSilu _ | .tileArrival _ _ | .recoderLoad _ _ | .pigeonholeUpdate _ _
  | .sackRecordWrite _ | .sortingFramePass _ | .letterboxWriteArrival _ _ =>
    fields [.freeCount, .parts, .cmds, .ended, .cores, .counters, .routes, .runs, .streams, .channels,
      .leases, .tally, .flashTally]
  | .vecConvert _ =>
    fields [.freeCount, .parts, .cmds, .ended, .mem, .memUsed, .cores, .counters, .routes, .runs,
      .streams, .channels, .leases, .tally, .flashTally]
  | .tileFetch _ _ | .guestAttach _ _ | .scatterGroupClose _ =>
    fields [.cores]
  | .laneTileSwitch _ _ _ =>
    fields [.outbox, .cores, .ports, .cascade]
  | .residencyLoad _ _ | .lbAck =>
    fields [.outbox, .freeCount, .parts, .cmds, .ended, .cores, .counters, .routes, .runs, .streams,
      .channels, .ports, .cascade, .leases, .tally, .flashTally]
  | .feedVector _ _ | .bankAccessGrant _ _ =>
    fields [.parts, .cores, .tally, .flashTally]
  | .laneStep _ _ _ | .runPromotion _ _ _ | .columnClaim _ _ | .drainRead _ _ =>
    fields [.outbox, .freeCount, .parts, .cmds, .ended, .mem, .memUsed, .cores, .counters, .routes,
      .runs, .streams, .channels, .ports, .cascade, .leases, .tally, .flashTally]
  | .letterboxWriteLanded _ _ =>
    fields [.outbox, .freeCount, .fns, .parts, .cmds, .ended, .cores, .counters, .routes, .runs,
      .streams, .channels, .ports, .cascade, .leases, .health, .tally, .flashTally]
  | .bankDrainComplete _ _ =>
    fields [.cores, .tally, .flashTally]
  | .bankPowerUpComplete _ _ | .channelTimeout _ | .finalGrantWindowEnd _ =>
    fields [.parts, .cmds, .ended, .cores, .counters, .routes, .streams, .channels, .leases, .tally,
      .flashTally]
  | .scratchpadZeroComplete _ =>
    fields [.parts, .regions, .unmaps, .cores]
  | .selfRefreshEntry _ =>
    fields [.refreshing]
  | .selfRefreshExit _ =>
    fields [.refreshing, .memUsed]
  | .refreshManagementRequest _ =>
    fields []
  | .flitReceive _ _ | .leaseExpiry =>
    fields [.outbox, .freeCount, .parts, .cmds, .ended, .cores, .counters, .routes, .runs, .streams,
      .channels, .ports, .cascade, .leases, .buckets, .tagHomes, .health, .tally, .flashTally]
  | .replayTimeout _ | .ethernetLinkUp _ =>
    fields [.outbox, .ports, .tally, .flashTally]
  | .linkRetrainEnd _ _ | .portLinkDown _ =>
    fields [.outbox, .ports, .cascade, .health]
  | .plinkLinkUp _ _ =>
    fields [.ports, .health, .tally, .flashTally]
  | .relayCmd =>
    fields [.outbox, .fns, .cmds, .nextCmd, .ended, .memUsed, .links, .cascade, .tally, .flashTally]
  | .relayReply | .joinTimeout =>
    fields [.cmds, .ended, .cascade, .tally, .flashTally]
  | .lbWrite =>
    fields [.outbox, .parts, .cores, .runs, .ports, .cascade, .leases, .tally, .flashTally]
  | .plinkClaim =>
    fields [.outbox, .cores, .counters, .ports, .cascade, .tally, .flashTally]
  | .claimReply =>
    fields [.cores, .counters, .cascade, .tally, .flashTally]
  | .plinkRelease =>
    fields [.outbox, .cmds, .ended, .cores, .counters, .ports, .cascade, .leases, .buckets, .tagHomes,
      .tally, .flashTally]
  | .renew =>
    fields [.counters, .cascade, .leases]
  | .renewTimer | .memberRenewTimeout _ | .memberPrepare =>
    fields [.outbox, .ports, .cascade]
  | .revoked =>
    fields [.outbox, .freeCount, .parts, .cmds, .ended, .cores, .counters, .routes, .runs, .streams,
      .channels, .ports, .cascade, .leases, .buckets, .health, .tally, .flashTally]
  | .memberLost | .memberLeave | .memberMasterLost =>
    fields [.outbox, .freeCount, .parts, .cmds, .ended, .scrubs, .unmaps, .cores, .counters, .routes,
      .runs, .streams, .channels, .ports, .cascade, .leases, .buckets, .tagHomes, .health, .tally,
      .packing, .flashTally]
  | .memberCommit | .joinPrepareTimeout | .pcieLinkL0 =>
    fields [.cascade]
  | .reduceRegister | .registrationTimeout _ =>
    fields [.outbox, .cmds, .ended, .cores, .ports, .cascade, .leases, .buckets, .tagHomes, .tally,
      .flashTally]
  | .reduceStart | .reducePart | .reduceFinal | .reduceRedo =>
    fields [.outbox, .parts, .cmds, .ended, .mem, .memUsed, .cores, .counters, .routes, .streams,
      .channels, .ports, .cascade, .leases, .buckets, .tally, .flashTally]
  | .packetReceive _ _ =>
    fields [.channels, .ports, .tally, .flashTally]
  | .arpOrNdRequest _ =>
    fields [.outbox, .ports]
  | .rtpPacket _ =>
    fields [.parts, .cores, .runs, .streams, .ports, .tally, .flashTally]
  | .parcelData _ =>
    fields [.outbox, .parts, .cmds, .ended, .mem, .memUsed, .cores, .counters, .routes, .runs, .streams,
      .channels, .ports, .leases, .tally, .flashTally]
  | .parcelGrant _ | .parcelResend _ =>
    fields [.outbox, .parts, .cmds, .ended, .memUsed, .links, .cores, .counters, .routes, .runs,
      .streams, .channels, .ports, .leases, .tally, .flashTally]
  | .parcelNack _ =>
    fields [.outbox, .parts, .cmds, .ended, .cores, .counters, .routes, .streams, .channels, .ports,
      .leases, .tally, .flashTally]
  | .grantTimer _ =>
    fields [.outbox, .parts, .cmds, .ended, .cores, .counters, .routes, .streams, .channels, .leases,
      .tally, .flashTally]
  | .retransmitTimeout _ =>
    fields [.outbox, .parts, .channels, .tally, .flashTally]
  | .keySessionPendingTimeout _ _ | .keySessionIdleTimeout _ _ =>
    fields [.parts, .tally, .flashTally]
  | .tokenExpiry =>
    fields [.parts, .security, .tally, .flashTally]
  | .joinReply =>
    fields [.outbox, .cmds, .ended, .ports, .cascade, .tally, .flashTally]
  | .credentialReplacement _ _ _ =>
    fields [.outbox, .mgt, .flash, .tally, .flashTally]
  | .managementCredentialRecovery _ _ =>
    fields [.flash, .tally, .flashTally]

end Sys2Proof
end

