-- ==== Sys2Proof/WellFormed.lean ====
section
/-! DEFINITION. Well-formed commands: the operands name units the device has and packets, flits and
other inputs have the sizes the manual gives them. -/

namespace Sys2Proof

/-- Whether a byte string, where there is one, has a given length. -/
def sized (n : Nat) (b : Option Bytes) : Bool := b.all fun x => x.length == n

def coreOk (c : Nat) : Bool := c < 6
def fnOk (f : Nat) : Bool := f < 7
def portOk (p : Nat) : Bool := p < 16
def partOk (p : Nat) : Bool := 1 ≤ p && p ≤ 6

/-- Whether a parcel datagram, where a frame carries one, has a whole header (Table 16-6). -/
def frameOk (p : EthPacket) : Bool :=
  match p.body with
  | .udp _ _ _ _ _ _ _ _ (.parcel q) => q.header.length == 32
  | _ => true

/-- The checks of a command's operands: Table 0-2 for the numbers of parts. -/
def Instr.wf : Instr → Bool
  | .openSession _ | .closeSession _ | .queryDevice _ | .stageConfig _ | .commitConfig _ | .commitApply => true
  | .commitTimeout set => set ≤ 7
  | .enableFunction _ | .disableFunction _ => true
  | .teardownComplete partition => partOk partition
  | .allocRegion _ | .freeRegion _ => true
  | .unmappingComplete region => region < 1020
  | .scrubRegion _ => true
  | .regionScrubComplete region => region < 1020
  | .parcelAccept _ | .parcelSend _ | .loadRoute _ | .verifyRoute _ | .runRoute _ | .abortRoute _
  | .packTiles _ | .packSort _ | .openStream _ | .closeStream _ | .queryStream _ | .joinCascade _
  | .leaveCascade _ | .reduceBucket _ | .leaseRevoke _ | .attest _ | .openKeySession _ _ | .setConfidential _
  | .runBist _ => true
  | .bistLogicPhaseComplete observed | .bistMemoryPhaseComplete observed => observed.length == 7
  | .setPerturb _ _ | .readCounters _ => true
  | .ringSqTailWrite caller ring _ | .ringCqHeadWrite caller ring _ | .ringCtrlWrite caller ring _
  | .ringApBaseWrite caller ring _ => fnOk caller && fnOk ring
  | .commandFetch entry _ => sized 64 entry
  | .commandCompletion _ => true
  | .coalesceWindowExpire function vector => fnOk function && vector < 60
  | .busMasterEnableChange function _ | .bar0BadAccess function _ _ => fnOk function
  | .bar2Read function offset length _ => fnOk function && offset + length ≤ 2 ^ 28
  | .bar2Write function offset data enables => fnOk function && offset + data.length ≤ 2 ^ 28 && data.length == enables.length
  | .chrTimeRead function size => fnOk function && (size == 4 || size == 8)
  | .chrSecondsWrite caller _ => fnOk caller
  | .registerWrite caller offset size _ => fnOk caller && (size == 4 || size == 8) && offset % size == 0 && offset < 65536
  | .perturbGoApply core | .perturbGoClear core => coreOk core
  | .mgtResetWarm | .mgtResetCold | .mgtCapWrite | .fwStart | .fwCommit | .fwAbort | .fwCheckComplete _
  | .fwWriteComplete | .mgtAddrWrite | .mgtAddrTakeEffect | .mgtHello _ | .mgtConfirm _ _ | .mgtRead _ _ _
  | .mgtWrite _ _ _ | .fwChunk _ _ _ | .mgtCert _ => true
  | .mgtAttest _ nonce => nonce.length == 32
  | .faultRead _ _ | .mgtSessionIdleTimeout _ => true
  | .smbusBlockRead command => command < 256
  | .i3cCommonCommand _ | .inputStartLevel | .perstAssert | .hotReset | .pcieLinkDownTimeout => true
  | .functionLevelReset function => fnOk function
  | .standbyRailsUp _ cascadeId => cascadeId < 64
  | .mainRailsUp temps => temps.length == 32
  | .bootChainComplete _ => true
  | .lpddr6TrainingComplete _ failing => failing.all (· < 256)
  | .memoryScrubComplete | .deviceReady | .pwrWarnAssert | .warnClearRestart | .pwrWarnDeassert
  | .shortResetLevelDip | .supplyLoss _ | .standbyOff | .overRangeEntry | .inputProtectionDisconnect
  | .faultRecordWritten | .internalLogicError _ | .controlCoreWatchdogExpire => true
  | .paceWindowEnd readings => readings.length == 88
  | .powerSample _ _ => true
  | .temperatureSample readings => readings.length == 48
  | .epochBoundary | .vcoreChangeComplete | .reservedSlotStart | .ppsEdge => true
  | .ptpMessage port _ => port.all portOk
  | .holdoverEntry => true
  | .frameRelease stream | .beatMissed stream | .deadlineMiss stream => stream < 64
  | .routeStepDispatch core | .routeStepComplete core => coreOk core
  | .resultHandover stream => stream < 64
  | .layerStep core | .openBox core | .closeBox core | .waitBox core | .waitSatisfied core | .orderStep core
  | .releaseSlots core | .vecAdd core | .vecSub core | .vecMul core | .vecFma core | .vecMin core
  | .vecMax core | .vecAbs core | .vecNeg core | .vecCmp core | .vecSelect core | .vecConvert core
  | .vecDiv core | .vecSqrt core | .vecRsqrt core | .vecRecip core | .vecExp2 core | .vecLog2 core
  | .vecSum core | .vecSumsq core | .vecMaxi core | .vecMini core | .vecLse core | .vecSoftmax core
  | .vecRmsnorm core | .vecLayernorm core | .vecGradAdd core | .vecSgdStep core | .vecAdamStep core
  | .vecScaleUpdate core | .vecScatterAdd core | .vecRelu core | .vecClamp core | .vecGelu core
  | .vecSilu core => coreOk core
  | .tileFetch core array | .tileArrival core array | .recoderLoad core array => coreOk core && array < 96
  | .laneTileSwitch core array lane => coreOk core && array < 96 && lane < 128
  | .residencyLoad core array => coreOk core && array < 96
  | .bandRead core band => coreOk core && band < 12
  | .feedVector core array => coreOk core && array < 96
  | .laneStep core array lane | .runPromotion core array lane => coreOk core && array < 96 && lane < 128
  | .columnClaim core array | .guestAttach core array => coreOk core && array < 96
  | .drainRead core band => coreOk core && band < 12
  | .pigeonholeUpdate core bank => coreOk core && bank < 16
  | .sackRecordWrite core | .scatterGroupClose core | .sortingFramePass core => coreOk core
  | .bankAccessGrant core bank => coreOk core && bank < 64
  | .letterboxWriteArrival core write => coreOk core && coreOk write.core
  | .letterboxWriteLanded core _ => coreOk core
  | .bankDrainComplete core bank | .bankPowerUpComplete core bank => coreOk core && bank < 64
  | .scratchpadZeroComplete partition => partOk partition
  | .memoryReadResponse core array (.tile _) => coreOk core && array < 96
  | .memoryReadResponse _ _ (.line n _) => n < 2 ^ 34
  | .selfRefreshEntry stack | .selfRefreshExit stack | .refreshManagementRequest stack => stack < 16
  | .flitReceive port flit => portOk port && flit.length == 256
  | .replayTimeout port | .linkRetrainEnd port _ | .plinkLinkUp port _ => portOk port
  | .relayCmd | .relayReply | .lbWrite | .lbAck | .plinkClaim | .claimReply | .plinkRelease | .renew
  | .renewTimer | .revoked | .leaseExpiry => true
  | .memberRenewTimeout device => device < 64
  | .memberLost | .memberPrepare | .memberCommit | .memberLeave | .memberMasterLost | .joinTimeout
  | .joinPrepareTimeout | .reduceRegister => true
  | .registrationTimeout tag => tag < 4096
  | .reduceStart | .reducePart | .reduceFinal | .reduceRedo => true
  | .ethernetLinkUp port | .portLinkDown port | .arpOrNdRequest port | .rtpPacket port
  | .parcelData port | .parcelGrant port | .parcelNack port | .parcelResend port => portOk port
  | .packetReceive port packet => portOk port && frameOk packet
  | .grantTimer channel | .retransmitTimeout channel | .channelTimeout channel | .finalGrantWindowEnd channel => channel < 64
  | .keySessionPendingTimeout partition _ | .keySessionIdleTimeout partition _ => partOk partition
  | .tokenExpiry | .pcieLinkL0 | .joinReply | .credentialReplacement _ _ _ | .managementCredentialRecovery _ _ => true

end Sys2Proof
end

