-- ==== Sys2Proof/Certificates/Slice0/Obligations.lean ====
section
/-! DEFINITION. The statements for the provers. -/

open Sys2Proof Sys2Proof.Machine

/-! ### The machine as a whole -/

/-- A step takes the command at the front of the queue and runs it on the state with the queue's rest. -/
def Obligations.StepRunsFrontCommand : Prop :=
  ∀ (s : State) (c : Instr) (rest : List Instr),
    step { s with pending := c :: rest } = exec c { s with pending := rest }

/-- On an empty queue one oscillator period passes: the chronometer advances by the period at its rate while the
standby rails are up, and nothing else changes (R268, R441; that the idle step is one period is the model's choice,
log entry 6). -/
def Obligations.IdleStepAdvancesChronometer : Prop :=
  ∀ s : State, s.pending = [] →
    (s.standby = true → step s = .next { s with time := s.time.advance (periodUnits s.time.rate) }) ∧
    (s.standby = false → step s = .next s)

/-- Every command whose operands name units the device has, with inputs of their sizes, has a next state in every
state: no row is refused, and ordinary data ends no run. -/
def Obligations.EveryWellFormedCommandAnswers : Prop :=
  ∀ (i : Instr) (s : State), i.wf = true → ∃ t, exec i s = .next t

/-- A command that names a core, array, lane, bank, band, port, function, partition, region, stream, channel or stack
the device does not have stops with the fault that says so (the guard is the model's own). -/
def Obligations.AbsentUnitsFault : Prop :=
  ∀ s : State,
    (∀ core, 6 ≤ core → ∀ i ∈ ([.layerStep core, .openBox core, .closeBox core, .waitBox core, .waitSatisfied core,
        .orderStep core, .releaseSlots core, .routeStepDispatch core, .routeStepComplete core, .vecAdd core,
        .vecConvert core, .vecSoftmax core, .vecAdamStep core, .vecScatterAdd core, .sackRecordWrite core,
        .scatterGroupClose core, .sortingFramePass core, .perturbGoApply core, .perturbGoClear core] : List Instr),
      exec i s = .fault .noSuchUnit) ∧
    (∀ core array lane, 96 ≤ array ∨ 128 ≤ lane → exec (.laneStep core array lane) s = .fault .noSuchUnit ∧
      exec (.runPromotion core array lane) s = .fault .noSuchUnit ∧
      exec (.laneTileSwitch core array lane) s = .fault .noSuchUnit) ∧
    (∀ core band, 12 ≤ band → exec (.bandRead core band) s = .fault .noSuchUnit ∧
      exec (.drainRead core band) s = .fault .noSuchUnit) ∧
    (∀ core bank, 64 ≤ bank → exec (.bankAccessGrant core bank) s = .fault .noSuchUnit ∧
      exec (.bankDrainComplete core bank) s = .fault .noSuchUnit ∧
      exec (.bankPowerUpComplete core bank) s = .fault .noSuchUnit) ∧
    (∀ port, 16 ≤ port → ∀ i ∈ ([.flitReceive port [], .replayTimeout port,
        .ethernetLinkUp port, .portLinkDown port, .arpOrNdRequest port, .rtpPacket port, .parcelData port,
        .parcelGrant port, .parcelNack port, .parcelResend port] : List Instr), exec i s = .fault .noSuchUnit) ∧
    (∀ n, 64 ≤ n → ∀ i ∈ ([.frameRelease n, .beatMissed n, .deadlineMiss n, .resultHandover n, .grantTimer n,
        .retransmitTimeout n, .channelTimeout n, .finalGrantWindowEnd n, .memberRenewTimeout n] : List Instr),
      exec i s = .fault .noSuchUnit) ∧
    (∀ p, 7 ≤ p → exec (.teardownComplete p) s = .fault .noSuchUnit ∧
      exec (.scratchpadZeroComplete p) s = .fault .noSuchUnit ∧
      exec (.functionLevelReset p) s = .fault .noSuchUnit ∧
      exec (.ringSqTailWrite 0 p 0) s = .fault .noSuchUnit)

/-- What each command leaves alone: it changes at most the components that `Instr.writes` lists for its row, so every
other register, table, queue, memory and flag of the device is as it was. The counters of the boot flash stand apart
from the rest of the flash. -/
def Obligations.CommandsChangeOnlyTheirComponents : Prop :=
  ∀ (i : Instr) (s t : State), exec i s = .next t → s.Only i.writes t

/-- Right after reset a cold start has just begun with nothing but the boot flash kept: device memory is empty, every
ring is disabled with a depth of 16 entries, no session, partition, route, run, stream, channel, lease or halt exists,
Table 15-4 gives the settings in force, and the four regions of the device are its own (R220, R233, R441, R443). That
the start is counted follows R452; the input of 40.00 V is the model's choice. -/
def Obligations.ResetIsAColdStart : Prop :=
  State.reset.power.boot = .started ∧ State.reset.health.halt = none ∧ State.reset.pending = [] ∧
  State.reset.mem = [] ∧ State.reset.cmds = [] ∧ State.reset.routes = [] ∧ State.reset.runs = [] ∧
  State.reset.streams = [] ∧ State.reset.channels = [] ∧ State.reset.leases = [] ∧
  State.reset.config.knob = 2 ∧ State.reset.config.cap = 1100 ∧ State.reset.time.source = 0 ∧
  State.reset.inCascade = false ∧ State.reset.time.ns = 0 ∧ State.reset.working = false ∧
  (∀ f, (State.reset.ring f).enable = false ∧ (State.reset.ring f).sqLog = 4 ∧ (State.reset.ring f).phase = 1 ∧
    (State.reset.fn f).sessions = [] ∧ (State.reset.fn f).nextSession = 1) ∧
  (∀ p, (State.reset.part p).enabled = false ∧ State.reset.isConf p = false) ∧
  (∀ c, (State.reset.core c).pad = [] ∧ (State.reset.core c).running = .idle) ∧
  (∀ r, r < 1020 → (State.reset.region r).owner = 0) ∧
  (∀ r, 1020 ≤ r → r < 1024 → (State.reset.region r).owner = 7) ∧
  State.reset.counterValue 54 5 = 1

/-- The machine right after reset is well kept. -/
def Obligations.ResetIsWellKept : Prop := State.reset.Inv

/-- Every step keeps a well-kept state well kept: device memory stays in its canonical form (rising addresses, and no
byte listed that equals what an unlisted one reads as), and the commands in flight stay listed by rising number, each
below the next number to give; the partition map keeps one record a region. -/
def Obligations.StepKeepsStateWellKept : Prop :=
  ∀ s t : State, s.Inv → step s = .next t → t.Inv

/-- How a command ends (R291, R302): a command in flight that completes has the first notice of the ranking as its
status, the notice mask in DETAIL[7:0] and the result value in DETAIL[63:32]; one that fails has the status and DETAIL
given. Every other command in flight stays as it was, and only the commands, their count and the counters change. -/
def Obligations.CommandsEndWithStatusAndDetail : Prop :=
  ∀ (s : State) (id : Nat), s.Open id →
    (∀ v n, (s.complete id v n).EndsWith id (rankedNotice (n % 64)).code (n % 64 + v % 2 ^ 32 * 2 ^ 32) ∧
      (∀ j, j ≠ id → (s.complete id v n).cmd j = s.cmd j) ∧
      s.Only (fields [.cmds, .ended, .tally, .flashTally]) (s.complete id v n)) ∧
    (∀ st d, (s.fail id st d).EndsWith id st.code (d % 2 ^ 64) ∧
      (∀ j, j ≠ id → (s.fail id st d).cmd j = s.cmd j) ∧
      s.Only (fields [.cmds, .ended, .tally, .flashTally]) (s.fail id st d))

/-- The notice mask and the ranking (R302): a run that meets a notice keeps its bit and every other; a command that
completes with notices 1 to 5 in a mask has the mask in DETAIL[7:0], zeros in [31:8] and the result value in [63:32],
and the first notice of the ranking, or ST_OK, in STATUS. -/
def Obligations.CompletionsRankTheirNotices : Prop :=
  (∀ (s : State) (rid b : Nat) (r : Run), s.run rid = some r → ∃ r', (s.notice rid b).run rid = some r' ∧
    ∀ j, r'.notices.testBit j = (r.notices.testBit j || j == b)) ∧
  (∀ (s : State) (id v n : Nat), s.Open id → n < 64 → n.testBit 0 = false →
    ∃ c, (s.complete id v n).cmd id = some c ∧ c.phase = .ended ∧ c.detail % 2 ^ 8 = n ∧ c.detail / 2 ^ 8 % 2 ^ 24 = 0 ∧
      c.detail / 2 ^ 32 = v % 2 ^ 32 ∧
      c.status = if n.testBit 2 then 0x0002 else if n.testBit 3 then 0x0003 else if n.testBit 4 then 0x0004
        else if n.testBit 5 then 0x0005 else if n.testBit 1 then 0x0001 else 0x0000)

/-! ### Device memory and partitions -/

/-- A write through the partition map (R221, R222): where every byte of the range is mapped, the bytes written are
read back, and every physical byte that no address of the range names is as it was; where one is not, nothing is
written. -/
def Obligations.MemoryWriteIsReadBack : Prop :=
  ∀ (s : State) (p a : Nat) (b : Bytes), s.Inv →
    (s.mapped p a b.length = true → ∃ t, s.write p a b = some t ∧ t.read p a b.length = some b ∧
      ∀ x, (∀ i, i < b.length → s.phys p (a + i) ≠ some x) → Tab.getD 0 t.mem x = Tab.getD 0 s.mem x) ∧
    (s.mapped p a b.length = false → s.write p a b = none)

/-- Partitions are apart (R222): no write of one partition changes a byte that another reads. -/
def Obligations.PartitionsCannotWriteEachOther : Prop :=
  ∀ (s t : State) (p q a x n : Nat) (b : Bytes), s.Inv → p ≠ q → s.write p a b = some t → t.read q x n = s.read q x n

/-- ALLOC_REGION (R221, R317): an index the partition holds, or none left, or a full quota ends it with ST_BAD_PARAM;
otherwise a free region that needs no scrub for the partition becomes its, or the command waits for a scrub. The
region taken gets the owner and index, the partition's confidential flag, and no scrub pending. Which region
ALLOC_REGION takes (R221): the lowest-numbered free region, not under scrub, that has no scrub pending or was last the
partition's own. FREE_REGION and SCRUB_REGION (R223, R318): both end with ST_BAD_PARAM for an index the partition does
not hold or a region that something loaded or open names; otherwise a free sets UNMAPPING and a scrub waits for its
end. UNMAPPING_COMPLETE and REGION_SCRUB_COMPLETE (R223, R234): a region whose unmapping ends is free, remembers its
last owner (none after a teardown) and has its scrub pending, which starts at once where it was CONF; a region whose
scrub ends reads as zero in every byte, and no byte of device memory outside it has changed. -/
def Obligations.RegionsAreGivenFreedAndScrubbed : Prop :=
  (
    ∀ (s : State) (id : Nat) (c : Cmd), s.Starts id 0x0201 c →
      let p := c.part
      let have_ := (s.held p).map (fun r => (s.region r).logical) ++ s.allocsWaiting p
      let want := leAt c.params 0 2
      (∀ l, (want = l ∧ l ≤ 1019 ∧ l ∉ have_) ∨
          (want = 0xFFFF ∧ l < 1020 ∧ l ∉ have_ ∧ ∀ m, m < l → m ∈ have_) →
        have_.length < (s.part p).regions →
        (∀ r, s.allocFrom p = some (.ready r) →
          exec (.allocRegion id) s = .next (((s.started id c).setRegion r { s.region r with
            logical := l, owner := p, conf := s.isConf p, scrubPending := false, unmapping := false }).complete id l)) ∧
        (∀ r, s.allocFrom p = some (.wait r) ∨ s.allocFrom p = some (.scrub r) →
          exec (.allocRegion id) s = .next { s.started id c with scrubs := Tab.put r (.alloc id l ((Tab.find r s.scrubs).elim 0 ScrubWhy.torn)) s.scrubs }) ∧
        (s.allocFrom p = none → exec (.allocRegion id) s = .next ((s.started id c).fail id .badParam))) ∧
      ((want ∈ have_ ∧ want ≠ 0xFFFF) ∨ (1019 < want ∧ want ≠ 0xFFFF) ∨ (s.part p).regions ≤ have_.length →
        exec (.allocRegion id) s = .next ((s.started id c).fail id .badParam))
  ) ∧
  (
    ∀ (s : State) (p r : Nat), s.allocFrom p = some (.ready r) ↔
      (r < 1020 ∧ (s.region r).owner = 0 ∧ Tab.find r s.scrubs = none ∧
        ((s.region r).scrubPending = false ∨ (s.region r).lastOwner = p)) ∧
      ∀ q, q < r → ¬ ((s.region q).owner = 0 ∧ Tab.find q s.scrubs = none ∧
        ((s.region q).scrubPending = false ∨ (s.region q).lastOwner = p))
  ) ∧
  (
    ∀ (s : State) (id : Nat) (c : Cmd),
      (s.physRegion c.part (leAt c.params 0 2) = none ∨ s.namesRegion c.part (leAt c.params 0 2) = true →
        (s.Starts id 0x0202 c → exec (.freeRegion id) s = .next ((s.started id c).fail id .badParam)) ∧
        (s.Starts id 0x0203 c → exec (.scrubRegion id) s = .next ((s.started id c).fail id .badParam))) ∧
      (∀ r, s.physRegion c.part (leAt c.params 0 2) = some r → s.namesRegion c.part (leAt c.params 0 2) = false →
        (s.Starts id 0x0202 c → exec (.freeRegion id) s = .next
          { (s.started id c).setRegion r { s.region r with unmapping := true } with
            unmaps := Tab.put r (.command id) s.unmaps }) ∧
        (s.Starts id 0x0203 c → Tab.find r s.scrubs = none → exec (.scrubRegion id) s = .next
          { s.started id c with scrubs := Tab.put r (.kept [id]) s.scrubs }))
  ) ∧
  (
    ∀ (s : State) (r : Nat), r < 1020 →
      (∀ why, Tab.find r s.unmaps = some why → Tab.find r s.scrubs = none →
        exec (.unmappingComplete r) s = .next (s.unmapped r why).settle ∧
        ((s.unmapped r why).region r).owner = 0 ∧ ((s.unmapped r why).region r).scrubPending = true ∧
        ((s.unmapped r why).region r).lastOwner = (if why = .teardown then 0 else (s.region r).owner) ∧
        Tab.find r (s.unmapped r why).scrubs = (if (s.region r).conf then
          some (.freed (if why = .teardown then (s.region r).owner else 0)) else none)) ∧
      (∀ why, s.Inv → Tab.find r s.scrubs = some why →
        exec (.regionScrubComplete r) s = .next (s.scrubbed r why).settle ∧
        ∃ u, exec (.regionScrubComplete r) s = .next u ∧
          (∀ x, r * 2 ^ 30 ≤ x → x < (r + 1) * 2 ^ 30 → Tab.getD 0 u.mem x = 0) ∧
          (∀ x, x < r * 2 ^ 30 ∨ (r + 1) * 2 ^ 30 ≤ x → Tab.getD 0 u.mem x = Tab.getD 0 s.mem x))
  )

/-! ### Sessions, settings and functions -/

/-- OPEN_SESSION (R297, R298): with room for a session it opens the next identifier under the highest shared versions
and returns identifier and versions; with no shared version it ends with ST_BAD_VERSION; with 16 sessions open, or no
identifier left, with ST_BAD_PARAM. The version chosen is the highest of the device's in the offer. CLOSE_SESSION and
QUERY_DEVICE (R297, R309, Table 15-2): a close takes the packet's session off its function's list and nothing else; a
query answers the item's value in DETAIL[63:32], and an item the table does not list ends with ST_BAD_PARAM. -/
def Obligations.SessionsOpenCloseAndAnswer : Prop :=
  (
    (∀ (s : State) (id : Nat) (c : Cmd), s.Starts id 0x0101 c →
      (∀ v, chosenVersions c.params = some v → (s.fn c.fn).sessions.length < 16 → (s.fn c.fn).nextSession ≤ 65535 →
        exec (.openSession id) s = .next (((s.started id c).setFn c.fn { s.fn c.fn with
          sessions := Tab.put (s.fn c.fn).nextSession v (s.fn c.fn).sessions
          nextSession := (s.fn c.fn).nextSession + 1 }).complete id
            ((s.fn c.fn).nextSession + v.command * 2 ^ 16 + v.parcel * 2 ^ 24))) ∧
      (chosenVersions c.params = none → exec (.openSession id) s = .next ((s.started id c).fail id .badVersion)) ∧
      (∀ v, chosenVersions c.params = some v →
        16 ≤ (s.fn c.fn).sessions.length ∨ 65535 < (s.fn c.fn).nextSession →
        exec (.openSession id) s = .next ((s.started id c).fail id .badParam))) ∧
    (∀ lo hi, ∀ vs ∈ [commandVersions, parcelVersions, descriptorVersions],
      (∀ v, bestVersion vs lo hi = some v ↔
        v ∈ vs ∧ lo ≤ v ∧ v ≤ hi ∧ ∀ u ∈ vs, lo ≤ u → u ≤ hi → u ≤ v))
  ) ∧
  (
    ∀ (s : State) (id : Nat) (c : Cmd),
      (s.Starts id 0x0102 c →
        exec (.closeSession id) s = .next (((s.started id c).setFn c.fn { s.fn c.fn with
          sessions := Tab.erase c.packet.session (s.fn c.fn).sessions }).complete id)) ∧
      (s.Starts id 0x0103 c →
        (leAt c.params 2 2 = 0 →
          (leAt c.params 0 2 = 0 → exec (.queryDevice id) s =
            .next ((s.started id c).complete id (s.cascade.device + bit s.isMaster * 2 ^ 8))) ∧
          (leAt c.params 0 2 = 2 → exec (.queryDevice id) s =
            .next ((s.started id c).complete id s.cascade.versions)) ∧
          (leAt c.params 0 2 = 5 → exec (.queryDevice id) s =
            .next ((s.started id c).complete id
              (((List.range 1020).filter fun r => (s.region r).owner == 0).length))) ∧
          (leAt c.params 0 2 = 7 → exec (.queryDevice id) s =
            .next ((s.started id c).complete id (s.config.knob + s.capSetting * 2 ^ 2 + s.admission * 2 ^ 4))) ∧
          (leAt c.params 0 2 = 8 → exec (.queryDevice id) s =
            .next ((s.started id c).complete id s.routes.length)) ∧
          (8 < leAt c.params 0 2 → exec (.queryDevice id) s = .next ((s.started id c).fail id .badParam))) ∧
        (leAt c.params 0 2 = 4 →
          (1 ≤ leAt c.params 2 2 → leAt c.params 2 2 ≤ 6 → exec (.queryDevice id) s =
            .next ((s.started id c).complete id ((s.part (leAt c.params 2 2)).cores +
              (s.part (leAt c.params 2 2)).streams * 2 ^ 8 + bit (s.part (leAt c.params 2 2)).conf * 2 ^ 16))) ∧
          (6 < leAt c.params 2 2 → exec (.queryDevice id) s = .next ((s.started id c).fail id .badParam))))
  )

/-- STAGE_CONFIG (R310, R312): while a commit waits it ends with ST_CONFIG_BUSY, counted; where every entry passes
Table 15-4 the entries are staged in order, a later one for the same item in place of the earlier; where one does not
pass, none is staged. A device item staged for a partition, or a partition item staged for PARTITION 0, does not pass
(R310). -/
def Obligations.ConfigStagesAllOrNothing : Prop :=
  (
    (∀ (s : State) (id : Nat) (c : Cmd), s.Starts id 0x0110 c →
      ((s.commit c.part).isSome = true →
        exec (.stageConfig id) s = .next (((s.started id c).count 44 4).fail id .configBusy)) ∧
      ((s.commit c.part) = none → ∀ es, stagedItems c = some es → es ≠ [] →
        ((∀ e ∈ es, s.itemOk c.part e = true) →
          exec (.stageConfig id) s = .next (((s.started id c).setShadow c.part
            (es.foldl stageItem (s.shadow c.part))).complete id es.length)) ∧
        (∀ e ∈ es, s.itemOk c.part e = false →
          exec (.stageConfig id) s = .next ((s.started id c).fail id .badParam)))) ∧
    (∀ (set : List ConfigItem) (e : ConfigItem),
      e ∈ stageItem set e ∧ (∀ x ∈ stageItem set e, x.same e = true → x = e) ∧
      (∀ x ∈ set, x.same e = false → x ∈ stageItem set e))
  ) ∧
  (
    ∀ (s : State) (p : Nat) (e : ConfigItem),
      (p ≠ 0 → e.item ≠ 0x0010 → e.item ≠ 0x0011 → s.itemOk p e = false) ∧
      (e.item = 0x0010 ∨ e.item = 0x0011 → s.itemOk 0 e = false)
  )

/-- COMMIT_CONFIG (R311, R312): a second commit of a set ends with ST_CONFIG_BUSY; DISCARD empties the shadow set;
otherwise the checks run on the set and it waits for its boundary, or ends with the status of the first check that
refuses it. COMMIT_APPLY and COMMIT_TIMEOUT (R280, R312): at an epoch boundary the commits are taken in the order
management controller, function 0, partitions 1 to 6, each applied whole or refused; a commit that has waited 50 ms
ends with ST_CONFIG_BUSY and nothing of it is applied. -/
def Obligations.CommitsWaitAndApplyAtTheBoundary : Prop :=
  (
    ∀ (s : State) (id : Nat) (c : Cmd), s.Starts id 0x0111 c →
      ((s.commit c.part).isSome = true →
        exec (.commitConfig id) s = .next (((s.started id c).count 44 4).fail id .configBusy)) ∧
      (s.commit c.part = none → bitOf (leAt c.params 0 1) 0 = true →
        exec (.commitConfig id) s = .next (((s.started id c).setShadow c.part []).complete id)) ∧
      (s.commit c.part = none → bitOf (leAt c.params 0 1) 0 = false →
        (∀ t, (s.started id c).checkCommit c.part (s.shadow c.part) = (none, t) →
          exec (.commitConfig id) s = .next (t.setCommit c.part (some { cmd := some id, since := s.now }))) ∧
        (∀ st t, (s.started id c).checkCommit c.part (s.shadow c.part) = (some st, t) →
          exec (.commitConfig id) s = .next ((t.count 44 3).fail id st)))
  ) ∧
  (
    ∀ s : State,
      (s.working = true → s.slotTime ≤ 100000 → (∀ k, k < 6 → s.between k = true) →
        exec .commitApply s = .next
          ((((((((s.applyCommit 7).applyCommit 0).applyCommit 1).applyCommit 2).applyCommit 3).applyCommit 4).applyCommit
            5).applyCommit 6)) ∧
      (∀ p, s.commit p = none → s.applyCommit p = s) ∧
      (∀ p k, s.commit p = some k → k.since + 50000000 < s.now →
        s.applyCommit p = ((s.setCommit p none).count 44 4).commitFails p k .configBusy) ∧
      (∀ p k t, s.commit p = some k → s.now ≤ k.since + 50000000 → 1 ≤ p → p ≤ 6 →
        (s.setCommit p none).checkCommit p (s.shadow p) = (none, t) →
        s.applyCommit p = ((((s.shadow p).foldl (State.applyItem p) t).setShadow p []).count 44 2).commitDone p
          (s.shadow p).length k) ∧
      (∀ p k st t, s.commit p = some k → s.now ≤ k.since + 50000000 → (s.setCommit p none).checkCommit p (s.shadow p) = (some st, t) →
        s.applyCommit p = (t.count 44 3).commitFails p k st) ∧
      (∀ p k, p ≤ 7 → s.commit p = some k → k.since + 50000000 ≤ s.now →
        exec (.commitTimeout p) s = .next (((s.setCommit p none).count 44 4).commitFails p k .configBusy))
  )

/-- ENABLE_FUNCTION (R313): with values that pass it leaves the partition enabled with the cores, stream quota and
region quota given and nothing else set, and the function's ring as at reset; a core that another enabled function
holds, an enabled function, no core at all, or a quota beyond the device's ends it with ST_BAD_PARAM. DISABLE_FUNCTION
and teardown (R209, R314 to R316): disabling an enabled function starts its teardown in the mode given; the
scratchpads of its cores end up empty before its regions begin to be freed; and with every region freed the last step
clears the partition, its sessions and its ring's enable. -/
def Obligations.FunctionsEnableAndTearDown : Prop :=
  (
    ∀ (s : State) (id : Nat) (c : Cmd), s.Starts id 0x0120 c →
      let f := leAt c.params 0 1; let cores := leAt c.params 1 1
      let streams := leAt c.params 2 1; let regions := leAt c.params 4 2
      (1 ≤ f → f ≤ 6 → (s.part f).enabled = false → cores ≠ 0 → (∀ e ∈ s.parts, e.2.enabled = true → e.2.cores &&& cores = 0) →
        s.quotaGranted + streams ≤ 64 → regions ≤ 1020 →
        exec (.enableFunction id) s = .next ((((s.started id c).setPart f { Partition.reset with
          enabled := true, cores := cores, streams := streams, regions := regions }).onRing f
            fun _ => Ring.reset).complete id)) ∧
      (f = 0 ∨ 6 < f ∨ (s.part f).enabled = true ∨ cores = 0 ∨
        (∃ e ∈ s.parts, e.2.enabled = true ∧ e.2.cores &&& cores ≠ 0) ∨ 64 < s.quotaGranted + streams ∨ 1020 < regions →
        exec (.enableFunction id) s = .next ((s.started id c).fail id .badParam))
  ) ∧
  (
    ∀ s : State,
      (∀ id c, s.Starts id 0x0121 c →
        (∀ f, leAt c.params 0 1 = f → 1 ≤ f → f ≤ 6 → (s.part f).enabled = true → leAt c.params 1 1 ≤ 1 →
          exec (.disableFunction id) s = .next ((s.started id c).disable f (leAt c.params 1 1 == 1) (some id))) ∧
        (∀ f, leAt c.params 0 1 = f → f = 0 ∨ 6 < f ∨ (s.part f).enabled = false ∨ 1 < leAt c.params 1 1 →
          exec (.disableFunction id) s = .next ((s.started id c).fail id .badParam))) ∧
      (∀ p t, 1 ≤ p → p ≤ 6 → (s.part p).teardown = some t → t.step = 3 →
        exec (.scratchpadZeroComplete p) s = .next
          (((s.held p).foldl (fun s r => s.startUnmap r .teardown)
            (s.onCores (s.part p).cores fun k => { k with pad := [], seen := [] })).setTeardownStep p 4)) ∧
      (∀ (mask k : Nat), k < 6 →
        ((s.onCores mask fun k => { k with pad := [], seen := [] }).core k).pad =
          if bitOf mask k then [] else (s.core k).pad) ∧
      (∀ p t, 1 ≤ p → p ≤ 6 → (s.part p).teardown = some t → t.step = 4 → s.held p = [] →
        t.waiters = [] ∨ (∀ e ∈ s.scrubs, e.2.torn ≠ p) → ∃ u, exec (.teardownComplete p) s = .next u ∧ u.part p = .reset ∧ (u.fn p).sessions = [] ∧
          (u.ring p).enable = false ∧ u.mem = s.mem ∧ u.cores = s.cores)
  )

/-- A partition opcode on function 0 for a confidential partition (R307): where the transport's checks pass it is in
flight and has ended with ST_CONFIDENTIAL_DENIED, and nothing but the ring and the command itself has changed; one
that FENCE defers ends so when it would start. -/
def Obligations.ConfidentialPartitionsDenyFunctionZero : Prop :=
  (∀ (s : State) (b : Bytes) (block : Option Bytes) (o : Opcode), s.working = true → s.health.bist = none →
    (rotation s.turn).find? s.fetchable = some 0 →
    let k := decodePacket b
    s.transport 0 k = none → k.target = 0xFF ∨ (k.target = s.cascade.device ∧ homeOnly k.opcode = false) → findOpcode k.opcode = some o →
    o.scope = .partition ∨ o.scope = .own ∨ (o.scope = .config ∧ k.partition ≠ 0) → s.isConf k.partition = true →
    k.fence = false →
    ∃ t, exec (.commandFetch (some b) block) s = .next t ∧ t.EndsWith s.nextCmd 0x0402 0 ∧
      s.Only (fields [.fns, .turn, .cmds, .nextCmd, .ended, .tally, .flashTally]) t) ∧
  (∀ (s : State) (id code : Nat) (c : Cmd) (o : Opcode) (f : Cmd → State → State), s.working = true →
    s.cmd id = some c → c.phase = .waiting → c.packet.opcode = code → s.mayStart c = true → s.toRelay c = false → c.checked = false →
    findOpcode code = some o → o.scope = .partition ∨ o.scope = .own ∨ (o.scope = .config ∧ c.packet.partition ≠ 0) →
    s.isConf c.packet.partition = true → c.fn = 0 →
    opcodeRow id code f s = .next (s.fail id .confidentialDenied))

/-! ### Routes and packing -/

/-- LOAD_ROUTE and VERIFY_ROUTE (R248, R277, R319): an image that fails a check ends either with that check's status
and DETAIL; one that passes completes VERIFY_ROUTE with nothing else changed. LOAD_ROUTE then takes the admission
test: refused, it ends with ST_ADMISSION_REFUSED; passed, the route gets the lowest free identifier, its handles and
letterboxes and its counters, and the command completes with the identifier once every bank it needs is powered. -/
def Obligations.LoadRouteChecksThenPlaces : Prop :=
  ∀ (s : State) (id : Nat) (c : Cmd),
    (s.Starts id 0x0302 c →
      (∀ e u, (s.started id c).checkImage c false = (u, .error e) →
        exec (.verifyRoute id) s = .next (u.fail id e.status e.detail)) ∧
      (∀ v u, (s.started id c).checkImage c false = (u, .ok v) →
        exec (.verifyRoute id) s = .next (u.complete id))) ∧
    (∀ keep u r, s.checkImage c keep = (u, r) → s.Only (fields [.memUsed, .links, .tally, .flashTally]) u) ∧
    (s.Starts id 0x0301 c →
      (∀ e u, (s.started id c).checkImage c true = (u, .error e) →
        exec (.loadRoute id) s = .next (u.fail id e.status e.detail)) ∧
      (∀ v replay bytes w, (s.started id c).checkImage c true = (w, .ok (v, replay, bytes)) →
        ∀ ok t, w.testAdmission w.admission (v.image.cores v.good) []
            (routeBlocking (v.plan (bitOf (leAt c.params 12 1) 0) replay) (floorPace w.admission)) = (ok, t) →
          (ok = false → exec (.loadRoute id) s = .next (t.fail id .admissionRefused)) ∧
          (ok = true → ∃ r u, r.partition = c.part ∧ r.image = v.image ∧ r.replay = replay ∧ r.cascade = t.cascadeSize ∧
            r.exact = bitOf (leAt c.params 12 1) 0 ∧ r.releasing = false ∧ r.stream = none ∧ r.loading = none ∧
            u = (((t.setRoute ((Tab.freeKey t.routes 0 256).getD 0) r).placeImage
              ((Tab.freeKey t.routes 0 256).getD 0) v.image).takeCounters c.part (v.homeCounters t.cascade.device)).allotSeen
                v.good ∧
            (u.imagePowered v.image = true →
              exec (.loadRoute id) s = .next (u.complete id ((Tab.freeKey t.routes 0 256).getD 0))) ∧
            (u.imagePowered v.image = false →
              exec (.loadRoute id) s = .next (u.onRoute ((Tab.freeKey t.routes 0 256).getD 0)
                fun r => { r with loading := some id })))))

/-- RUN_ROUTE (R252, R276, R323): a route that is not the partition's, serves a stream, or whose patches fail ends it
with ST_BAD_PARAM; otherwise its run, with the patched steps, is queued last on every core its steps name, and nothing
runs yet. ABORT_ROUTE (R324): for a loaded route of the partition that serves no stream, every run of the route ends
with ST_ABORTED; without RELEASE the command completes with their number, with it the release starts and the command
waits for its end. -/
def Obligations.RunsAreQueuedAndAborted : Prop :=
  (
    (∀ (s : State) (id : Nat) (c : Cmd), s.Starts id 0x0303 c →
      let rid := leAt c.params 0 2
      (s.ownRoute c.part rid = none → exec (.runRoute id) s = .next ((s.started id c).fail id .badParam)) ∧
      (∀ r, s.ownRoute c.part rid = some r →
        (r.stream.isSome = true ∨ 2 ^ 24 ≤ leAt c.params 4 4 ∨ r.patched (runArgs c.params) = none →
          exec (.runRoute id) s = .next ((s.started id c).fail id .badParam)) ∧
        (∀ recs, r.stream = none → leAt c.params 4 4 < 2 ^ 24 → r.patched (runArgs c.params) = some recs →
          (∀ st d t, (s.started id c).retile rid r (leAt c.params 4 4) = .error (st, d, t) →
            exec (.runRoute id) s = .next (t.fail id st d)) ∧
          (∀ t, (s.started id c).retile rid r (leAt c.params 4 4) = .ok t →
            (r.runSteps (leAt c.params 4 4) recs = none → exec (.runRoute id) s = .next (t.fail id .badParam)) ∧
            (∀ steps, r.runSteps (leAt c.params 4 4) recs = some steps →
              exec (.runRoute id) s = .next (t.queueRun (Run.fresh rid (.command id) steps)))) ∧
          (leAt c.params 4 4 = 0 → (s.started id c).retile rid r (leAt c.params 4 4) = .ok (s.started id c))))) ∧
    (∀ (s : State) (r : Run) (k : Nat), k < 6 →
      ((s.queueRun r).core k).queue =
        (s.core k).queue ++ (if r.steps.any (RouteStep.onCore k) then [s.nextRun] else []) ∧
      (s.queueRun r).run s.nextRun = some r ∧ (s.queueRun r).nextRun = s.nextRun + 1)
  ) ∧
  (
    ∀ (s : State) (id : Nat) (c : Cmd), s.Starts id 0x0304 c →
      let rid := leAt c.params 0 2
      let ended := ((s.runsOf rid).foldl (fun s n => s.failRun n .aborted) (s.started id c))
      (s.ownRoute c.part rid = none → exec (.abortRoute id) s = .next ((s.started id c).fail id .badParam)) ∧
      (∀ r, s.ownRoute c.part rid = some r →
        (r.stream.isSome = true → exec (.abortRoute id) s = .next ((s.started id c).fail id .badParam)) ∧
        (r.stream = none → bitOf (leAt c.params 2 1) 0 = false →
          exec (.abortRoute id) s = .next (ended.complete id (s.runsOf rid).length)) ∧
        (r.stream = none → bitOf (leAt c.params 2 1) 0 = true →
          exec (.abortRoute id) s = .next
            ((ended.onCmd id fun c => { c with detail := (s.runsOf rid).length }).startRelease rid (some id)).settle))
  )

/-- PACK_TILES and PACK_SORT (R105, R107, R325): a block that passes its checks queues a packing run on every core of
the partition, any other ends with ST_BAD_PARAM; a pass in its turn gives every sorted tensor its keys, then writes
once each has its order; a sort orders the first tensor that has none. -/
def Obligations.PackTilesRunsInPasses : Prop :=
  ∀ (s : State) (id : Nat) (c : Cmd),
    (s.Starts id 0x0310 c → s.runOf id = none →
      let b := decodePackBlock c.params
      let s0 := s.started id c
      (c.packet.byRef = false ∨ b.ok = false → exec (.packTiles id) s = .next (s0.fail id .badParam)) ∧
      (c.packet.byRef = true → b.ok = true →
        (s0.packMapped c.part b = false → exec (.packTiles id) s = .next (s0.refusal.fail id .badParam)) ∧
        (s0.packMapped c.part b = true →
          (∀ t st, s0.allMasters c.part b.recs = (t, .error st) → exec (.packTiles id) s = .next (t.fail id st)) ∧
          (∀ t masters, s0.allMasters c.part b.recs = (t, .ok masters) →
            (b.areasOk masters = true → exec (.packTiles id) s = .next (t.queuePack id c.part)) ∧
            (b.areasOk masters = false → exec (.packTiles id) s = .next (t.fail id .badParam)))))) ∧
    (∀ k rid scales t, s.working = true → s.cmd id = some c → Tab.find id s.packing = some k → s.runOf id = some rid →
      s.packTurn rid (bitsOf 6 (s.part c.part).cores) = true →
      s.packScales c.part (decodePackBlock c.params) = (t, .ok scales) →
      let b := decodePackBlock c.params
      let ready := ∀ q ∈ b.recs.zipIdx, q.1.sort = true → (Tab.find q.2 k.orders).isSome = true
      (ready → exec (.packTiles id) s = .next (t.packAll id rid c.part b k.orders scales)) ∧
      (¬ ready → k.keyed = false → ∀ keys u, t.packKeys c.part b scales = (u, .ok keys) →
        exec (.packTiles id) s =
          .next { u with packing := Tab.put id { k with keyed := true, keys := keys } u.packing }) ∧
      (∀ e, k.keyed = true → (k.keys.find? fun e => (Tab.find e.1 k.orders).isNone) = some e →
        exec (.packSort id) s = .next { s with packing := Tab.put id { k with
          orders := Tab.put e.1 (sortRows (unitSize ((b.recs[e.1]?).bind fun r =>
            b.recs.find? fun q => q.tensor == r.consumer)) e.2) k.orders } s.packing }))

/-! ### Streams -/

/-- OPEN_STREAM (R326): during a power warning it ends with ST_POWER_HOLD; a descriptor, route or key that does not
serve ends it with ST_BAD_PARAM; a quota used up, or a partition with perturbation set, with ST_ADMISSION_REFUSED;
then the admission test decides, and a context opened takes the lowest free number. CLOSE_STREAM and QUERY_STREAM
(R327, R328): a close of a context of the partition marks it closing and waits for its end, any other number ends with
ST_BAD_PARAM; a query writes the context's record, or one of zeros for a context that is not open, and changes nothing
of the context. -/
def Obligations.StreamsOpenCloseAndAnswer : Prop :=
  (
    ∀ (s : State) (id : Nat) (c : Cmd), s.Starts id 0x0401 c →
      let s0 := s.started id c
      let route := leAt c.params 12 2; let key := leAt c.params 14 2
      (s.power.warn = true → exec (.openStream id) s = .next (s0.fail id .powerHold)) ∧
      (s.power.warn = false → leAt c.params 8 4 ≠ 64 → exec (.openStream id) s = .next (s0.fail id .badParam)) ∧
      (∀ w e, s.power.warn = false → leAt c.params 8 4 = 64 → s0.readParams c.part (leAt c.params 0 8) 64 = (w, .error e) →
        exec (.openStream id) s = .next (w.fail id e)) ∧
      (∀ w b, s.power.warn = false → leAt c.params 8 4 = 64 → s0.readParams c.part (leAt c.params 0 8) 64 = (w, .ok b) →
        (w.streamCore c.part b route key = none → exec (.openStream id) s = .next (w.fail id .badParam)) ∧
        (∀ r core, w.streamCore c.part b route key = some (r, core) →
          ((w.part c.part).streams ≤ (w.streams.filter fun e => e.2.partition == c.part).length ∨
              64 ≤ w.streams.length ∨ (w.part c.part).perturb ≠ [] →
            exec (.openStream id) s = .next (w.fail id .admissionRefused)) ∧
          ((w.streams.filter fun e => e.2.partition == c.part).length < (w.part c.part).streams →
              w.streams.length < 64 → (w.part c.part).perturb = [] →
            ∀ ok t, w.testAdmission w.admission [core]
                [{ t := (decodeDesc b).period, d := (decodeDesc b).deadline, c := w.streamCount r core }]
                (fun _ => 0) = (ok, t) →
              (ok = true → exec (.openStream id) s = .next (t.openContext id c.part route key r core (decodeDesc b))) ∧
              (ok = false → exec (.openStream id) s = .next (t.fail id .admissionRefused)))))
  ) ∧
  (
    ∀ (s : State) (id : Nat) (c : Cmd),
      (s.Starts id 0x0402 c →
        (∀ x, s.ownStream c.part (leAt c.params 0 1) = some x →
          exec (.closeStream id) s = .next (((s.started id c).onStream (leAt c.params 0 1)
            fun x => { x with closing := true, closers := x.closers ++ [id] }).settle)) ∧
        (s.ownStream c.part (leAt c.params 0 1) = none →
          exec (.closeStream id) s = .next ((s.started id c).fail id .badParam))) ∧
      (s.Starts id 0x0403 c →
        let n := leAt c.params 0 1
        let out := resultAddr 0x0403 c.params
        (∀ x, n < 64 → out % 64 = 0 → s.stream n = some x → x.partition = c.part →
          exec (.queryStream id) s = .next (((s.started id c).result id out
            ((s.started id c).streamRecord x)).complete id)) ∧
        (n < 64 → out % 64 = 0 → s.stream n = none →
          exec (.queryStream id) s = .next (((s.started id c).result id out (zeros 64)).complete id)) ∧
        (64 ≤ n ∨ out % 64 ≠ 0 ∨ (∃ x, s.stream n = some x ∧ x.partition ≠ c.part) →
          exec (.queryStream id) s = .next ((s.started id c).fail id .badParam)))
  )

/-- Stream events (R275, R282, R346): a frame that has arrived is released at the later of its arrival and its beat
with the deadline that follows; with nothing arrived by the beat a replay policy writes the substitute; a released
frame whose deadline has passed without handover halts the device with cause 4. Dispatch (R142, R276, R280): a core
between steps takes the step its candidate gives, a started run's at once; no route step starts in a reserved slot; a
core that runs a step takes none, but for a layer step while the one before it only drains. -/
def Obligations.FramesReleaseAndCoresStep : Prop :=
  (
    ∀ (s : State) (n : Nat) (x : Stream), s.working = true → n < 64 → s.stream n = some x →
      (∀ a sub rest r, x.arrivals = (a, sub) :: rest → s.route x.route = some r → x.closing = false →
        (max a (x.beat.getD 0) ≤ s.now → exec (.frameRelease n) s = .next (s.releaseFrame n x r a sub) ∧
          ∃ run, (s.releaseFrame n x r a sub).run s.nextRun = some run ∧ run.route = x.route ∧ run.serves =
            .frame n (x.released + 1) (max a (x.beat.getD 0)) (max a (x.beat.getD 0) + x.desc.deadline)) ∧
        (s.now < max a (x.beat.getD 0) → exec (.frameRelease n) s = .next s)) ∧
      (∀ b, x.beat = some b → b < s.now → x.arrivals = [] → x.incoming = [] → s.packetBy x b = false → x.closing = false →
        x.desc.policy ≠ 0 → exec (.beatMissed n) s = .next (s.writeSubstitute n x)) ∧
      (x.desc.policy = 0 → exec (.beatMissed n) s = .next s) ∧
      (∀ rid r no rel d, s.runs = [(rid, r)] → r.serves = .frame n no rel d → r.handed = false →
        (d < s.now → exec (.deadlineMiss n) s = .next (s.fault (missHalt x.core n no d r))) ∧
        (s.now ≤ d → exec (.deadlineMiss n) s = .next s)) ∧
      (∀ no d r, (missHalt x.core n no d r).cause = 4 ∧ (missHalt x.core n no d r).frame = no)
  ) ∧
  (
    ∀ (s : State) (k : Nat), s.working = true → k < 6 →
      (∀ st, ((s.core k).running = .idle → (s.core k).tail = none → s.mayBegin k st = true) ∧
        ((s.core k).running ≠ .idle → (∀ l, st ≠ .layer l) ∨ s.onlyDrains k = none → s.mayBegin k st = false) ∧
        (s.mayBegin k st = true → (∀ l, st ≠ .layer l) → (s.core k).tail = none)) ∧
      (∀ e, s.onlyDrains k = some e → (s.core k).tail = none ∧ e.finished = false ∧ e.layer.leavesOpen = false ∧
        ∀ a, a < 96 → e.spent (s.core k) a = true) ∧
      (∀ rid r i st, s.candidate k = some (rid, r, i, st) →
        (s.mayBegin k st = false → exec (.routeStepDispatch k) s = .next s) ∧
        (st.counts = true → s.slotTime < 200000 → exec (.routeStepDispatch k) s = .next s) ∧
        (r.started = true → s.mayBegin k st = true → st.counts = false ∨ 200000 ≤ s.slotTime →
          exec (.routeStepDispatch k) s = .next (s.setCore k ((s.core k).readyFor rid i (s.onlyDrains k))) ∧
          ((s.core k).readyFor rid i (s.onlyDrains k)).running = .ready rid i)) ∧
      (s.candidate k = none → exec (.routeStepDispatch k) s = .next s)
  )

/-- The control steps of a route (R199, R203 to R205, R246): OPEN opens its letterbox with its counts at 0 and CLOSE
closes it; WAIT goes on where the count has been reached and stalls the core otherwise; ORDER goes on once the step it
names has ended; RELEASE frees at most the slots delivered. The stall a satisfied wait counts is free (log entry 3).
-/
def Obligations.ControlStepsActOnLetterboxes : Prop :=
  ∀ (s : State) (k rid i : Nat) (st : RouteStep), s.working = true → k < 6 →
    (s.readyStep k = some (rid, i, st) →
      (∀ c b, st = .openBox c b →
        exec (.openBox k) s = .next (((s.onBox k b Letterbox.opening).grantBox k b).stepEnds rid i [k])) ∧
      (∀ c b, st = .closeBox c b → exec (.closeBox k) s = .next (((s.closeBox k b).stepEnds rid i [k]).settle)) ∧
      (∀ c b v, st = .wait c b v → s.boxRevoked k b = none →
        (s.reached k b v = true → exec (.waitBox k) s = .next (s.stepEnds rid i [k])) ∧
        (s.reached k b v = false →
          exec (.waitBox k) s = .next (s.setCore k { s.core k with running := .stalled rid i }))) ∧
      (∀ c b v e, st = .wait c b v → s.boxRevoked k b = some e → exec (.waitBox k) s = .next (s.failRun rid e)) ∧
      (∀ c n r, st = .order c n → s.run rid = some r →
        (n ∈ r.done → exec (.orderStep k) s = .next (s.stepEnds rid i [k])) ∧
        (n ∉ r.done → exec (.orderStep k) s = .next s)) ∧
      (∀ c b n, st = .release c b n →
        exec (.releaseSlots k) s = .next ((s.onBox k b fun x => x.release n).stepEnds rid i [k]))) ∧
    (∀ r c b v, (s.core k).running = .stalled rid i → s.run rid = some r → r.steps[i]? = some (.wait c b v) →
      s.reached k b v = true → exec (.waitSatisfied k) s =
        .next ((({ s with freeCount := s.freeCount + 1 }).countCore k k 5 (Config.stallSteps s.freeCount)).stepEnds rid i [k])) ∧
    (∀ (x : Letterbox) (n : Nat), x.shape.slotSize ≠ 0 → x.consumed < 2 ^ 32 → x.consumed ≤ x.delivery →
      x.delivery < 2 ^ 32 → (x.release n).consumed = min (x.consumed + n) x.delivery % 2 ^ 32 ∧
        (x.release n).delivery = x.delivery)

/-! ### Security and test commands -/

/-- ATTEST and SET_CONFIDENTIAL (R333, R335, R404): the report is written to the result address and 5,741 returned; a
key session that is not open, or a result address off 64 bytes, ends with ST_BAD_PARAM. A partition without regions,
routes and streams becomes confidential, loses its key sessions and its perturbation; one that has any ends with
ST_CONFIDENTIAL_DENIED. OPEN_KEY_SESSION (R334, R406 to R410): a HELLO that passes leaves a pending session with the
keys derived from it and answers a RESPONSE with its number; a bad signature counts and ends with ST_SIGNATURE_FAIL; a
confirmation whose code verifies establishes the session, one whose code does not removes it and ends with
ST_AUTH_FAIL. The two timers of key sessions and the token's expiry (R409, R415, R461): a session pending for 10 s, or
established and unused for 60 s, is erased; at its expiry a token is out of force. -/
def Obligations.AttestAndKeySessionsTakeEffect : Prop :=
  (
    ∀ (s : State) (id : Nat) (c : Cmd),
      (s.Starts id 0x0601 c →
        let out := resultAddr 0x0601 c.params
        (∀ th, s.binding c.part (leAt c.params 40 2) = some th → out % 64 = 0 →
          exec (.attest id) s = .next (((s.started id c).result id out ((s.started id c).attestReport c.part
            (leAt c.params 40 2) (slice c.params 0 32) th)).complete id 5741)) ∧
        (s.binding c.part (leAt c.params 40 2) = none ∨ out % 64 ≠ 0 →
          exec (.attest id) s = .next ((s.started id c).fail id .badParam))) ∧
      (s.Starts id 0x0603 c →
        (bitOf (leAt c.params 0 1) 0 = false →
          exec (.setConfidential id) s = .next ((s.started id c).fail id .badParam)) ∧
        (bitOf (leAt c.params 0 1) 0 = true →
          s.held c.part ≠ [] ∨ (∃ e ∈ s.routes, e.2.partition = c.part) ∨ (∃ e ∈ s.streams, e.2.partition = c.part) →
          exec (.setConfidential id) s = .next ((s.started id c).fail id .confidentialDenied)) ∧
        (bitOf (leAt c.params 0 1) 0 = true → s.held c.part = [] → (∀ e ∈ s.routes, e.2.partition ≠ c.part) →
          (∀ e ∈ s.streams, e.2.partition ≠ c.part) →
          ∃ t, exec (.setConfidential id) s = .next t ∧ t.isConf c.part = true ∧ (t.part c.part).keys = [] ∧
            (t.part c.part).perturb = [] ∧ (t.part c.part).owner = (s.part c.part).owner ∧
            (∀ p, p ≠ c.part → t.part p = s.part p)))
  ) ∧
  (
    ∀ (s : State) (id : Nat) (c : Cmd) (msg : KeyMessage), s.Starts id 0x0602 c →
      leAt c.params 0 8 % 64 = 0 → resultAddr 0x0602 c.params % 64 = 0 → leAt c.params 8 4 ≤ 8192 →
      let s0 := s.started id c
      let m : KeyMessage := { msg with bytes := slice msg.bytes 0 (leAt c.params 8 4) }
      let purpose := leAt c.params 12 1
      let ref := leAt c.params 14 2
      let x := s.part c.part
      let out := resultAddr 0x0602 c.params
      (ref = 0 → keyMessageOk m.bytes 1 purpose 6613 = true → purpose ≤ 2 → x.keys.length < 64 →
        (purpose = 2 → x.conf = true) →
        (m.sigOk = false → exec (.openKeySession id msg) s = .next ((s0.count 49 0).fail id .signatureFail)) ∧
        (m.sigOk = true → x.conf = false → m.keysOk = false →
          exec (.openKeySession id msg) s = .next (s0.fail id .badParam)) ∧
        (m.sigOk = true → x.conf = false → m.keysOk = true →
          exec (.openKeySession id msg) s = .next (s0.respond id c.part purpose out m.bytes))) ∧
      (∀ k, ref ≠ 0 → Tab.find ref x.keys = some k → k.established = false →
        keyMessageOk m.bytes 3 k.purpose 56 = true → leAt m.bytes 7 1 = ref → purpose = k.purpose →
        (m.macOk = false → exec (.openKeySession id msg) s = .next
          (((s0.setPart c.part { x with keys := Tab.erase ref x.keys }).count 49 1).fail id .authFail)) ∧
        (m.macOk = true → exec (.openKeySession id msg) s = .next
          ((((s0.setPart c.part { x with keys := Tab.put ref { k with established := true, since := s.now } x.keys }).countFor
            c.part 50 (c.part - 1)).result id out (finishedOf k.purpose ref (k.keys.getD 1 []) k.th)).complete id ref)))
  ) ∧
  (
    ∀ (s : State) (p n : Nat), 1 ≤ p → p ≤ 6 →
      (∀ k, Tab.find n (s.part p).keys = some k → k.established = false → k.since + 10000000000 ≤ s.now →
        exec (.keySessionPendingTimeout p n) s = .next
          ((s.setPart p { s.part p with keys := Tab.erase n (s.part p).keys }).count 49 2)) ∧
      (∀ k, Tab.find n (s.part p).keys = some k → k.established = true → k.used = false → k.since + 60000000000 ≤ s.now →
        exec (.keySessionIdleTimeout p n) s = .next (s.setPart p { s.part p with keys := Tab.erase n (s.part p).keys })) ∧
      (∃ t, exec .tokenExpiry s = .next t ∧
        (∀ tok, s.security.token = some tok → tok.expiry ≤ s.now → t.security.token = none) ∧
        (∀ tok, s.security.token = some tok → s.now < tok.expiry → t.security.token = some tok) ∧
        ((s.part p).perturb ≠ [] → (s.part p).perturbUntil ≤ s.now → (t.part p).perturb = []) ∧
        (s.now < (s.part p).perturbUntil → t.part p = s.part p))
  )

/-- RUN_BIST and its phases (R336, R455 to R457): with no part named, in a cascade, or with a function enabled it ends
with ST_BAD_PARAM; otherwise the test stands in its first phase and VCORE goes to setting 0. A phase whose observed
signatures match clears what it tests; one with a mismatch halts the device with cause 2. SET_PERTURB and the GO
writes (R337, R460 to R462, R477): an empty parameter block clears; one by reference goes through the checks of R337;
anything else is refused and counted. A GO write the rules allow puts the staged entry in place of the whole setting,
or clears it, and shows 1; one they do not allow changes only the outcome 2 and the count. READ_COUNTERS (R338, R471,
R473): with a mask, address and CLEAR that pass, the selected groups are copied into the function's CNT_ window with
the time and the next sequence number; CLEAR restarts the selected counters, but those of groups 52 to 54, which the
boot flash keeps, run on. -/
def Obligations.TestPerturbationAndCountersTakeEffect : Prop :=
  (
    ∀ s : State,
      (∀ id c, s.Starts id 0x0701 c →
        (s.health.bist.isSome = true → exec (.runBist id) s = .next s) ∧
        (s.health.bist = none → leAt c.params 0 1 = 0 ∨ s.inCascade = true ∨ (∃ e ∈ s.parts, e.2.enabled = true) →
          exec (.runBist id) s = .next ((s.started id c).fail id .badParam)) ∧
        (s.health.bist = none → leAt c.params 0 1 ≠ 0 → s.inCascade = false → (∀ e ∈ s.parts, e.2.enabled = false) →
          ∃ t b, exec (.runBist id) s = .next t ∧ t.health.bist = some b ∧ b.cmd = id ∧ b.parts = leAt c.params 0 1 ∧
            b.phase = (if leAt c.params 0 1 % 2 ^ 7 = 0 then .memory else .logic) ∧ t.health.logicDone = false ∧
            t.health.memoryDone = false ∧ (t.power.change = none → t.power.vcore = 0) ∧
            (∀ v, t.power.change = some v → v.goal = 0))) ∧
      (∀ b obs, s.working = true → s.power.change = none → s.health.bist = some b → b.phase = .logic →
        let t := s.observe (bitsOf 7 b.parts) 0 obs
        (t.health.mismatch = 0 → bitOf b.parts 7 = true → exec (.bistLogicPhaseComplete obs) s = .next
          { ({ t with health := { t.health with logicDone := true } }.onCores (b.parts % 2 ^ 6) Core.clearLogic) with
            health := { t.health with logicDone := true, bist := some { b with phase := .memory } } }) ∧
        (t.health.mismatch ≠ 0 → ∃ u h, exec (.bistLogicPhaseComplete obs) s = .next u ∧ u.health.halt = some h ∧
          h.cause = 2 ∧ u.health.bist = none)) ∧
      (∀ b obs, s.working = true → s.power.change = none → s.health.bist = some b → b.phase = .memory →
        let t := s.observe [7, 8, 9, 10, 11, 12, 13] 7 obs
        (t.health.mismatch = 0 → exec (.bistMemoryPhaseComplete obs) s = .next
          (({ t with health := { t.health with memoryDone := true } }.onCores 0x3F Core.clearMemory).bistEnds b)) ∧
        (t.health.mismatch ≠ 0 → ∃ u h, exec (.bistMemoryPhaseComplete obs) s = .next u ∧ u.health.halt = some h ∧
          h.cause = 2))
  ) ∧
  (
    (∀ (s : State) (id : Nat) (c : Cmd) (ok : Bool), s.Starts id 0x0702 c →
      (c.packet.byRef = true → exec (.setPerturb id ok) s = .next ((s.started id c).perturbCmd id c.part c.params ok)) ∧
      (c.packet.byRef = false → c.packet.paramLen = 0 → (∀ x ∈ c.params, x = 0) →
        exec (.setPerturb id ok) s = .next (((s.started id c).clearPerturb c.part 55 5).complete id)) ∧
      (c.packet.byRef = false → c.packet.paramLen ≠ 0 ∨ (∃ x ∈ c.params, x ≠ 0) →
        exec (.setPerturb id ok) s = .next (((s.started id c).count 55 3).fail id .badParam))) ∧
    (∀ (s : State) (k : Nat), s.working = true → k < 6 →
      (∀ p, s.partitionOf k = some p → s.goAllowed p = true →
        let b := s.health.staged.getD k []
        let e := decodePerturb b
        (perturbClean b = true → s.perturbOk p e = true → e.kind = 5 ∨ e.unit = k →
          exec (.perturbGoApply k) s = .next
            ((s.setPerturb p (s.tokenInForce.elim 0 (·.expiry)) [e]).goOutcome k true)) ∧
        (perturbClean b = false ∨ s.perturbOk p e = false ∨ (e.kind ≠ 5 ∧ e.unit ≠ k) →
          exec (.perturbGoApply k) s = .next (s.goOutcome k false)) ∧
        (perturbClean b = true → s.perturbOk p e = true → e.kind = 5 ∨ e.unit = k →
          exec (.perturbGoClear k) s = .next ((s.clearPerturb p 55 5).goOutcome k true)) ∧
        (perturbClean b = false ∨ s.perturbOk p e = false ∨ (e.kind ≠ 5 ∧ e.unit ≠ k) →
          exec (.perturbGoClear k) s = .next (s.goOutcome k false))) ∧
      (s.partitionOf k = none ∨ (∃ p, s.partitionOf k = some p ∧ s.goAllowed p = false) →
        exec (.perturbGoApply k) s = .next (s.goOutcome k false) ∧
        exec (.perturbGoClear k) s = .next (s.goOutcome k false)))
  ) ∧
  (
    (∀ (s : State) (id : Nat) (c : Cmd), s.Starts id 0x0703 c →
      let groups := leAt c.params 0 8
      let out := resultAddr 0x0703 c.params
      let clear := bitOf (leAt c.params 16 1) 0
      (field groups 62 57 ≠ 0 ∨ (bitOf groups 63 = true ∧ out = 0) ∨ out % 64 ≠ 0 ∨ (clear = true ∧ c.part ≠ 0) →
        exec (.readCounters id) s = .next ((s.started id c).fail id .badParam)) ∧
      let m : Mirror := { groups := groups % 2 ^ 63, time := s.now, seq := ((s.fn c.fn).mirror.seq + 1) % 2 ^ 32,
                          cleared := clear, values := s.copyGroups (groups % 2 ^ 63) }
      let t := (s.started id c).setFn c.fn { s.fn c.fn with mirror := m }
      (field groups 62 57 = 0 → out = 0 → bitOf groups 63 = false → (clear = true → c.part = 0) →
        exec (.readCounters id) s = .next ((if clear then t.clearGroups (groups % 2 ^ 63) else t).complete id)) ∧
      (field groups 62 57 = 0 → out ≠ 0 → out % 64 = 0 → (clear = true → c.part = 0) →
        let u := t.result id out (m.bytes ++ if bitOf groups 63 then t.extensions c.fn else [])
        exec (.readCounters id) s = .next ((if clear then u.clearGroups (groups % 2 ^ 63) else u).complete id))) ∧
    (∀ (s : State) (groups g i : Nat), i < 8 →
      (g < 52 ∨ 54 < g → bitOf groups g = true → (s.clearGroups groups).counterValue g i = 0) ∧
      (g < 52 ∨ 54 < g → bitOf groups g = false → (s.clearGroups groups).counterValue g i = s.counterValue g i) ∧
      (52 ≤ g → g ≤ 54 → (s.clearGroups groups).counterValue g i = s.counterValue g i))
  )

/-- The anti-rollback counter (R402): no command, event or reset lowers it; a device that becomes ready with an image
of a higher SVN raises it to that SVN; an image below it fails the boot chain's image check and a firmware update's.
-/
def Obligations.AntiRollbackCounterNeverFalls : Prop :=
  (∀ (i : Instr) (s t : State), exec i s = .next t → s.flash.rollback ≤ t.flash.rollback) ∧
  (∀ (s : State) (x : FwImage), s.power.boot = .scrubbed → s.health.halt = none → s.portsSettled = true →
    s.flash.running = some x → ∃ t, exec .deviceReady s = .next t ∧ t.power.boot = .ready ∧
      t.flash.rollback = max s.flash.rollback x.svn) ∧
  (∀ (f : Flash) (x : FwImage) (n : Nat), x.svn < f.rollback → f.slotFails (some x) n ≠ 0) ∧
  (∀ (v : FwVerdict) (n : Nat), v.svn < n → FwVerdict.status v n ≠ 3)

/-! ### Rings, fetching and completion -/

/-- A submission doorbell (R287): an index below the depth becomes the tail; one at or beyond it is ignored, sets
TAIL_ERROR and signals vector 60, and the tail stays. A completion doorbell (R287): an index that releases only
written entries becomes the head; one that does not, or lies at or beyond the depth, is ignored, sets HEAD_ERROR and
signals vector 60. RING_CTRL and RING_AP_BASE (R286, R423): ENABLE set anew zeroes every index and sets the phase to
1, cleared it stops reading and keeps the rest; the aperture base keeps bits 63 to 20. A function that may not write
the block changes nothing (Table 20-2). While ENABLE is 1 the bases and sizes cannot be written. -/
def Obligations.RingRegistersKeepTheirRules : Prop :=
  (
    ∀ (s : State) (caller r v : Nat), caller ≤ 6 → r ≤ 6 → s.bar0 = true → ringView caller r = true →
      (v % 2 ^ 16 < 2 ^ (s.ring r).sqLog → exec (.ringSqTailWrite caller r v) s =
        .next (s.onRing r fun x => { x with sqTail := v % 2 ^ 16 })) ∧
      (2 ^ (s.ring r).sqLog ≤ v % 2 ^ 16 → exec (.ringSqTailWrite caller r v) s =
          .next ((s.onRing r fun x => { x with tailErr := true }).msix r 60) ∧
        (((s.onRing r fun x => { x with tailErr := true }).msix r 60).ring r).sqTail = (s.ring r).sqTail)
  ) ∧
  (
    ∀ (s : State) (caller r v : Nat), caller ≤ 6 → r ≤ 6 → s.bar0 = true → ringView caller r = true →
      let x := s.ring r
      let depth := 2 ^ x.cqLog
      (v % 2 ^ 16 < depth → ringUsed depth (v % 2 ^ 16) x.cqHead ≤ ringUsed depth x.cqTail x.cqHead →
        exec (.ringCqHeadWrite caller r v) s = .next (s.onRing r fun x => { x with cqHead := v % 2 ^ 16 })) ∧
      (depth ≤ v % 2 ^ 16 ∨ ringUsed depth x.cqTail x.cqHead < ringUsed depth (v % 2 ^ 16) x.cqHead →
        exec (.ringCqHeadWrite caller r v) s =
          .next ((s.onRing r fun x => { x with headErr := true }).msix r 60) ∧
        (((s.onRing r fun x => { x with headErr := true }).msix r 60).ring r).cqHead = x.cqHead)
  ) ∧
  (
    ∀ (s : State) (caller r v : Nat), caller ≤ 6 → r ≤ 6 → s.bar0 = true →
      (ringView caller r = true →
        (bitOf v 0 = true → (s.ring r).enable = false → exec (.ringCtrlWrite caller r v) s =
          .next (s.onRing r fun x =>
            { x with enable := true, sqTail := 0, sqHead := 0, cqHead := 0, cqTail := 0, phase := 1 })) ∧
        (bitOf v 0 = false → exec (.ringCtrlWrite caller r v) s = .next (s.onRing r fun x => { x with enable := false })) ∧
        exec (.ringApBaseWrite caller r v) s =
          .next (s.onRing r fun x => { x with apBase := v % 2 ^ 64 / 2 ^ 20 * 2 ^ 20 }) ∧
        ((s.ring r).enable = true → ∀ o ∈ [0x00, 0x04, 0x08, 0x0C, 0x10],
          exec (.registerWrite caller (0x1000 + 0x100 * r + o) 4 v) s = .next s)) ∧
      (ringView caller r = false →
        exec (.ringSqTailWrite caller r v) s = .next s ∧ exec (.ringCqHeadWrite caller r v) s = .next s ∧
        exec (.ringCtrlWrite caller r v) s = .next s ∧ exec (.ringApBaseWrite caller r v) s = .next s)
  )

/-- COMMAND_FETCH (R286 to R288, R292): one entry of the next function in rotation that has one to read is taken, the
index moves on by one and the turn is that function's; nothing is read while ENABLE or Bus Master Enable is 0, with
256 commands in flight, or with no completion entry to reserve; a failed read clears ENABLE and shows FETCH_ERROR.
Transport failures have no effect (R292): a command whose session, version or function fails a check of Table 14-4 is
in flight with that check's status, and the checks stand in the table's order. -/
def Obligations.CommandFetchChecksAndTakesOneEntry : Prop :=
  (
    ∀ (s : State) (entry block : Option Bytes), s.working = true → s.health.bist = none →
      (∀ f, (rotation s.turn).find? s.fetchable = some f →
        exec (.commandFetch entry block) s = .next (s.fetch f entry block) ∧
        s.fetch f none block =
          (s.onRing f fun r => { r with fetchErr := true, enable := false }).msix f 60 ∧
        (∀ b, ((s.fetch f (some b) block).ring f).sqHead = ((s.ring f).sqHead + 1) % 2 ^ (s.ring f).sqLog ∧
          (s.fetch f (some b) block).turn = f ∧ (s.fetch f (some b) block).nextCmd = s.nextCmd + 1)) ∧
      ((∀ f, f < 7 → s.fetchable f = false) → exec (.commandFetch entry block) s = .next s) ∧
      (∀ f, (s.ring f).enable = false ∨ (s.fn f).busMaster = false ∨ 256 ≤ s.inFlight f ∨
        (s.ring f).sqHead = (s.ring f).sqTail ∨
        2 ^ (s.ring f).cqLog ≤ ringUsed (2 ^ (s.ring f).cqLog) (s.ring f).cqTail (s.ring f).cqHead + s.inFlight f + 1 →
        s.fetchable f = false)
  ) ∧
  (
    ∀ (s : State) (f : Nat) (k : Packet),
      (s.serves f = false → s.transport f k = some .functionDisabled) ∧
      (s.serves f = true → commandVersions.contains k.version = false → s.transport f k = some .badVersion) ∧
      (s.serves f = true → commandVersions.contains k.version = true → k.target = 0xFF → sessionless k.opcode = false →
        Tab.find k.session (s.fn f).sessions = none → s.transport f k = some .noSession) ∧
      (s.serves f = true → commandVersions.contains k.version = true → k.target = 0xFF →
        (∀ x, Tab.find k.session (s.fn f).sessions = some x → sessionless k.opcode = false →
          x.command ≠ k.version → s.transport f k = some .badVersion)) ∧
      (s.transport f k = none → s.serves f = true ∧ commandVersions.contains k.version = true ∧
        (sessionless k.opcode = false → (Tab.find k.session (s.fn f).sessions).isSome = true) ∧ k.vector ≤ 59 ∧
        (f = 0 → k.partition ≤ 6) ∧ (f ≠ 0 → k.partition = f))
  )

/-- COMMAND_COMPLETION (R291, R293, R294, R420): of the ended commands of a ring the one that ended first writes its
result block, then its completion entry at the tail, then, unless NO_IRQ, joins its vector's window; while Bus Master
Enable is 0 it is held and nothing changes; a relayed command's completion goes to the master as RELAY_REPLY.
Coalescing and Bus Master Enable (R296, R420): a window that has ended sends its one message and is gone; setting Bus
Master Enable to 0 changes that bit and nothing else, setting it to 1 writes what was held. MSI-X (R296): a message
whose vector is not masked is sent with the table's address and data while Bus Master Enable is 1; otherwise its
pending bit is set and nothing is sent (that masking works so is presumed, log entry 12). -/
def Obligations.CompletionsAreWrittenAndSignalled : Prop :=
  (
    ∀ (s : State) (id : Nat) (c : Cmd), s.Inv → s.cmd id = some c → c.phase = .ended →
      (∀ e ∈ s.cmds, e.2.sameRing c.fn c.relay = true → e.2.phase = .ended → c.ended ≤ e.2.ended) →
      (c.relay = none → (s.fn c.fn).busMaster = false →
        exec (.commandCompletion id) s = .next (s.relayDue s.cmds.length)) ∧
      (∀ (u : State) n, (∀ e ∈ u.cmds, u.toRelay e.2 = false) → u.relayDue n = u) ∧
      (c.relay = none → (s.fn c.fn).busMaster = true → c.result = none → c.packet.noIrq = true → ∃ u : State,
        exec (.commandCompletion id) s = .next (u.relayDue u.cmds.length) ∧ u = { ((s.emit (.host c.fn ((s.ring c.fn).cqBase + 32 * (s.ring c.fn).cqTail)
            (completionEntry c (s.ring c.fn).phase))).onFn c.fn fun x => { x with
              completions := (x.completions + 1) % 2 ^ 32
              ring := { x.ring with
                cqTail := (x.ring.cqTail + 1) % 2 ^ x.ring.cqLog
                phase := if (x.ring.cqTail + 1) % 2 ^ x.ring.cqLog = 0 then 1 - x.ring.phase else x.ring.phase } }) with
          cmds := Tab.erase id s.cmds }) ∧
      (c.relay = none → (s.fn c.fn).busMaster = true → ∃ (t : State) (tail : List Out),
        exec (.commandCompletion id) s = .next (t.relayDue t.cmds.length) ∧ t.cmd id = none ∧
        t.outbox = s.outbox ++ (c.result.elim [] fun r => [.host c.fn r.1 r.2]) ++
          .host c.fn ((s.ring c.fn).cqBase + 32 * (s.ring c.fn).cqTail) (completionEntry c (s.ring c.fn).phase) :: tail ∧
        (c.packet.noIrq = true → tail = [])) ∧
      (∀ m n, c.relay = some (m, n) → ∃ t : State, exec (.commandCompletion id) s = .next (t.relayDue t.cmds.length) ∧
        t.cmd id = none ∧ t = ({ s with cmds := Tab.erase id s.cmds }).send
          { Message.plain 2 s.cascade.device m (c.fn + n * 2 ^ 8)
              (completionEntry c 0 ++ c.result.elim [] (fun r => r.2)) with partition := c.packet.partition })
  ) ∧
  (
    ∀ (s : State) (f v : Nat), f ≤ 6 →
      (∀ n t, v ≤ 59 → Tab.find v (s.fn f).windows = some (n, t) →
        (t ≤ s.now → exec (.coalesceWindowExpire f v) s = .next ((s.setFn f { s.fn f with
          messages := ((s.fn f).messages + 1) % 2 ^ 32, windows := Tab.erase v (s.fn f).windows }).msix f v)) ∧
        (s.now < t → exec (.coalesceWindowExpire f v) s = .next s)) ∧
      exec (.busMasterEnableChange f false) s = .next (s.setFn f { s.fn f with busMaster := false }) ∧
      exec (.busMasterEnableChange f true) s =
        .next (State.writeHeld f 256 ((s.setFn f { s.fn f with busMaster := true }).flushMsix f))
  ) ∧
  (
    ∀ (s : State) (f v : Nat),
      (bitOf (s.fn f).msix.mask v = false → (s.fn f).busMaster = true →
        s.msix f v = s.emit (.msix f v (Tab.getD 0 (s.fn f).msix.addr v) (Tab.getD 0 (s.fn f).msix.data v))) ∧
      (bitOf (s.fn f).msix.mask v = true ∨ (s.fn f).busMaster = false →
        (s.msix f v).outbox = s.outbox ∧ bitOf ((s.msix f v).fn f).msix.pba v = true ∧
        ∀ w, w ≠ v → bitOf ((s.msix f v).fn f).msix.pba w = bitOf (s.fn f).msix.pba w)
  )

/-! ### Registers and apertures -/

/-- BAR0 accesses (R422, R474, R475, R477): one of a wrong size or alignment is counted, a read returns 0 and a write
is discarded; a read of the low half of CHR_TIME returns the time and latches the high half for its function; the
latch is what a read of the high half answers. -/
def Obligations.RegisterAccessesKeepTheirRules : Prop :=
  ∀ (s : State) (f : Nat), f ≤ 6 → s.bar0 = true →
    (∀ size, exec (.bar0BadAccess f size false) s = .next ((s.count 51 0).emit (.readData f (zeros size))) ∧
      exec (.bar0BadAccess f size true) s = .next (s.count 51 0)) ∧
    (∀ size o v, o < 65536 → (size ≠ 4 ∧ size ≠ 8) ∨ o % size ≠ 0 →
      exec (.registerWrite f o size v) s = .next (s.count 51 0)) ∧
    (∀ size, size = 4 ∨ size = 8 → ∃ t, exec (.chrTimeRead f size) s = .next t ∧
      t.outbox = s.outbox ++ [.readData f (leBytes size s.now)] ∧
      t.bar0Word f 0x3404 = s.now / 2 ^ 32 % 2 ^ 32 ∧ (∀ g, g ≠ f → t.fn g = s.fn g)) ∧
    (∀ v, f = 0 → exec (.chrSecondsWrite f v) s = .next (s.writeSeconds v)) ∧
    (∀ v, f ≠ 0 → exec (.chrSecondsWrite f v) s = .next s) ∧
    (∀ o v, o = 0x104 → f = 0 → exec (.registerWrite f o 4 v) s =
      .next { s with health := { s.health with events := clearOnes s.health.events (v % 2 ^ 32) } }) ∧
    (∀ v, exec (.registerWrite f 0x200 4 v) s =
      .next (s.onFn f fun x => { x with cause := clearOnes x.cause (v % 2 ^ 32) }))

/-- BAR2 (R222, R412, R424, R425, R447): a halted device answers a request with zeros and writes nothing; every line
of a function whose partition is confidential is refused; a line of a function's own partition reads what memory
holds; a line that is refused reads as zero and is counted; a write changes exactly the enabled bytes of its line. -/
def Obligations.ApertureReadsAndWritesThroughTheMap : Prop :=
  ∀ (s : State) (f off : Nat) (resp : LinkResponse) (b : Bytes) (en : List Bool), f ≤ 6 → s.bar0 = true →
    off + b.length ≤ 2 ^ 28 →
    (f ≠ 0 → s.isConf f = true → s.bar2Phys f ((s.ring f).apBase + off) = none) ∧
    (s.health.halt.isSome = true →
      exec (.bar2Read f off b.length resp) s = .next (s.emit (.readData f (zeros b.length))) ∧
      exec (.bar2Write f off b en) s = .next s) ∧
    (s.health.halt.isSome = false → 1 ≤ b.length → ((s.ring f).apBase + off) % 64 + b.length ≤ 64 →
      (∀ pa, s.bar2Phys f ((s.ring f).apBase + off) = some pa →
        (resp.firstFails = false → exec (.bar2Read f off b.length resp) s =
          .next ((s.request pa b.length).emit (.readData f (readBytes s.mem pa b.length)))) ∧
        (en.length = b.length → exec (.bar2Write f off b en) s =
          .next { s.request pa b.length with mem := writeEnabled s.mem pa (b.zip en) })) ∧
      (s.bar2Phys f ((s.ring f).apBase + off) = none →
        (resp.firstFails = false → exec (.bar2Read f off b.length resp) s =
          .next (s.bar2Refusal.emit (.readData f (zeros b.length)))) ∧
        exec (.bar2Write f off b en) s = .next s.bar2Refusal)) ∧
    (∀ (m : ByteStore) (pa i : Nat) (q : List (Byte × Bool)), Tab.wf 0 m = true →
      (∀ d, q[i]? = some (d, true) → Tab.getD 0 (writeEnabled m pa q) (pa + i) = d) ∧
      (∀ d, q[i]? = some (d, false) → Tab.getD 0 (writeEnabled m pa q) (pa + i) = Tab.getD 0 m (pa + i)))

/-- Reading the chronometer over BAR0 (R474): a read of the low half, of 4 or 8 bytes, returns the time and latches
its high half for the function that reads, and for no other; the high half reads as the function's latch, which is 0
from reset on until the first low-half read. -/
def Obligations.ChrTimeReadsLatchTheHighHalf : Prop :=
  (∀ (s : State) (f size : Nat), f ≤ 6 → s.bar0 = true → size = 4 ∨ size = 8 →
    ∃ t, exec (.chrTimeRead f size) s = .next t ∧ t.outbox = s.outbox ++ [.readData f (leBytes size s.now)] ∧
      t.bar0Word f 0x3404 = s.now / 2 ^ 32 % 2 ^ 32 ∧ ∀ g, g ≠ f → t.bar0Word g 0x3404 = s.bar0Word g 0x3404) ∧
  (∀ f, State.reset.bar0Word f 0x3404 = 0) ∧
  (∀ (s : State) (k : ResetKind) (f : Nat), (s.beginReset k).bar0Word f 0x3404 = 0)

/-! ### Management -/

/-- The actions of the management registers (R431 to R433, R478): each takes its waiting action off the list and has
its effect: the two resets, START, COMMIT with every chunk or without, ABORT, a cap that is out of range, and an
address write, which is stored in the flash and takes effect 100 ms after its acknowledgement. The end of a firmware
update (R398, R403, R433): an image whose check fails is refused with its status and changes no slot; one that passes
is being written, and once written it stands in the slot that does not run, with the running image unchanged. -/
def Obligations.ManagementActionsAndFirmwareTakeEffect : Prop :=
  (
    ∀ s : State,
      (s.mgt.actions = [.warm] → exec .mgtResetWarm s =
        .next ({ s with mgt := { s.mgt with actions := [] } }.requestReset (.warm 4))) ∧
      (s.mgt.actions = [.cold] → exec .mgtResetCold s =
        .next ({ s with mgt := { s.mgt with actions := [] } }.requestReset (.cold 6))) ∧
      (s.mgt.actions = [.fwStart] → s.mgt.fwStatus ≠ 2 → s.mgt.fwStatus ≠ 3 → exec .fwStart s =
        .next { s with mgt := { s.mgt with actions := [], fwStatus := 1, fwChunks := [] } }) ∧
      (s.mgt.actions = [.fwCommit] → s.mgt.fwStatus ≠ 2 → s.mgt.fwStatus ≠ 3 →
        (s.mgt.complete = true → exec .fwCommit s =
          .next { s with mgt := { s.mgt with actions := [], fwStatus := 2 } }) ∧
        (s.mgt.complete = false → exec .fwCommit s =
          .next ({ s with mgt := { s.mgt with actions := [], fwStatus := 12 } }.count 49 6))) ∧
      (s.mgt.actions = [.fwAbort] → s.mgt.fwStatus ≠ 3 → exec .fwAbort s =
        .next { s with mgt := { s.mgt with actions := [], fwStatus := 0, fwChunks := [] } }) ∧
      (∀ w, s.mgt.actions = [.cap w] → s.health.halt = none →
        (w < 400 ∨ 1100 < w ∨ w % 10 ≠ 0 → exec .mgtCapWrite s =
          .next ({ s with mgt := { s.mgt with actions := [], capW := w } }.setCapState 5)) ∧
        (400 ≤ w → w ≤ 1100 → w % 10 = 0 → ∀ t,
          { s with mgt := { s.mgt with actions := [], capW := w } }.checkCommit 7
            [{ item := 2, arg := 0, index := 0, value := w }] = (none, t) →
          exec .mgtCapWrite s = .next ((t.setCommit 7 (some { cmd := none, since := s.now })).setCapState 1))) ∧
      (∀ ws t, s.mgt.actions = [.addr ws t] → ∃ u, exec .mgtAddrWrite s = .next u ∧
        (u.flash.addr4, u.flash.addr6) = setAddr ws (s.flash.addr4, s.flash.addr6) ∧ u.mgt.addr4 = s.mgt.addr4 ∧
        u.mgt.addr6 = s.mgt.addr6 ∧
        u.mgt.nextAddr = s.mgt.nextAddr ++ [(t + 100000000, u.flash.addr4, u.flash.addr6)]) ∧
      (∀ t a4 a6, s.standby = true → s.mgt.nextAddr = [(t, a4, a6)] →
        (t ≤ s.now → exec .mgtAddrTakeEffect s =
          .next { s with mgt := { s.mgt with nextAddr := [], addr4 := a4, addr6 := a6 } }) ∧
        (s.now < t → exec .mgtAddrTakeEffect s = .next s))
  ) ∧
  (
    ∀ s : State, s.standby = true →
      (∀ v, s.mgt.fwStatus = 2 → FwVerdict.status v s.flash.rollback ≠ 3 →
        exec (.fwCheckComplete v) s = .next ((s.fwState (FwVerdict.status v s.flash.rollback) false).count 49 6)) ∧
      (∀ v, s.mgt.fwStatus = 2 → FwVerdict.status v s.flash.rollback = 3 →
        ∃ t, exec (.fwCheckComplete v) s = .next t ∧ t.mgt.fwStatus = 3 ∧ t.flash.running = s.flash.running ∧
          (if s.flash.runningB then t.flash.slotA else t.flash.slotB) = none ∧ t.mgt.fwImage = some
            { bytes := s.mgt.fwChunks.flatMap (·.2), version := v.version, svn := v.svn, signatures := v.signatures }) ∧
      (s.mgt.fwStatus = 3 → ∃ t, exec .fwWriteComplete s = .next t ∧ t.mgt.fwStatus = 4 ∧
        t.flash.running = s.flash.running ∧
        (if s.flash.runningB then t.flash.slotA else t.flash.slotB) = s.mgt.fwImage)
  )

/-- Management sessions (R409, R427): a HELLO signed with the enrolled credential opens a pending session and answers
a RESPONSE, a wrong signer is counted; a CONFIRM whose code verifies establishes it, one whose code does not destroys
it; a session idle for 60 s is destroyed. The statuses of failures are the model's (log entry 38). Requests inside a
session (R428, R429, R431, R449, R478): each is answered once under its SEQ and the reply kept: a READ of aligned
words with their values, a WRITE of writable words with effect, a chunk stored at its offset, the certificate, a
report, the fault record of an index or STATUS 4 where there is none, and a new credential signed under the old (log
entry 38 for that one's TYPE). A WRITE of words of which one may not be written changes none. Credential recovery,
SMBus and I3C (R414, R415, R430): a token of KIND 1 that passes clears the credential, any other is counted; SMBus
serves its three kinds of telemetry until an I3C broadcast has been seen; a common command counts as that broadcast
and assigns, drops or masks as its name says (log entry 38). -/
def Obligations.ManagementRequestsAreAnswered : Prop :=
  (
    ∀ s : State,
      (∀ m : KeyMessage, s.standby = true → keyMessageOk m.bytes 1 3 6613 = true →
        (m.sigOk = false → exec (.mgtHello m) s = .next ((s.count 49 0).mgtReply 0 1 4 0 [])) ∧
        (m.sigOk = true → m.keysOk = true → s.flash.credential = some (peerKeys m.bytes) →
          exec (.mgtHello m) s = .next (s.mgtRespond m.bytes)) ∧
        (m.sigOk = true → m.keysOk = true → s.flash.credential = none → bitOf (leAt m.bytes 7 1) 0 = true →
          exec (.mgtHello m) s =
            .next ({ s with flash := { s.flash with credential := some (peerKeys m.bytes) } }.mgtRespond m.bytes)) ∧
        (s.flash.credential = none → bitOf (leAt m.bytes 7 1) 0 = false →
          exec (.mgtHello m) s = .next ((s.count 49 0).mgtReply 0 1 4 0 []))) ∧
      (∀ n x, s.standby = true → Tab.find n s.mgt.sessions = some x → x.established = false →
        exec (.mgtConfirm n true) s = .next (({ s with mgt := { s.mgt with
          sessions := Tab.put n { x with established := true, lastUsed := s.now } s.mgt.sessions } }.count 51 4).mgtReply
            n 2 0 0 (finishedOf 3 n (x.keys.getD 1 []) x.th)) ∧
        exec (.mgtConfirm n false) s = .next (({ s with mgt := { s.mgt with
          sessions := Tab.erase n s.mgt.sessions } }.count 49 1).mgtReply n 2 4 0 [])) ∧
      (∀ n x, Tab.find n s.mgt.sessions = some x → x.established = true →
        (x.lastUsed + 60000000000 ≤ s.now → exec (.mgtSessionIdleTimeout n) s = .next
          ({ s with mgt := { s.mgt with sessions := Tab.erase n s.mgt.sessions } }.count 51 5)) ∧
        (s.now < x.lastUsed + 60000000000 → exec (.mgtSessionIdleTimeout n) s = .next s)) ∧
      (∀ hello, 2 ≤ s.mgt.sessions.length → (s.mgtRespond hello).mgt.sessions.length ≤ s.mgt.sessions.length)
  ) ∧
  (
    ∀ (s : State) (req : MgtRequest) (x : MgtSession), s.Asks req x →
      (∀ o n, o % 4 = 0 → n % 4 = 0 → 4 ≤ n → n ≤ 1024 →
        exec (.mgtRead req o n) s = .next (s.answered req 3 0 (s.mgtBytes o n))) ∧
      (∀ o n, o % 4 ≠ 0 ∨ n % 4 ≠ 0 ∨ n < 4 ∨ 1024 < n → exec (.mgtRead req o n) s = .next (s.answered req 3 1 [])) ∧
      (∀ v, v < 2 ^ 26 → v ≤ 33554432 → s.mgt.fwStatus ≠ 2 → s.mgt.fwStatus ≠ 3 →
        exec (.mgtWrite req 0x0C4 (leBytes 4 v)) s =
          .next ({ s with mgt := { s.mgt with fwLen := v } }.answered req 4 0 [])) ∧
      (∀ o v, o % 4 = 0 → s.mgtWritable o (v % 2 ^ 32) ≠ 0 → exec (.mgtWrite req o (leBytes 4 v)) s =
        .next ((s.count 51 6).answered req 4 (s.mgtWritable o (v % 2 ^ 32)) [])) ∧
      (∀ v, v % 2 ^ 32 = 0x5A01 → exec (.mgtWrite req 0x040 (leBytes 4 v)) s = .next
        ({ s with mgt := { s.mgt with actions := s.mgt.actions ++ [MgtAction.warm] } }.answered req 4 0 [])) ∧
      (∀ o b, s.mgt.fwStatus = 1 → o % 1024 = 0 → o < s.mgt.fwLen → b.length = min 1024 (s.mgt.fwLen - o) →
        exec (.fwChunk req o b) s = .next
          ({ s with mgt := { s.mgt with fwChunks := Tab.put o b s.mgt.fwChunks } }.answered req 5 0 [])) ∧
      exec (.mgtCert req) s = .next (s.answered req 6 0 (slice Config.deviceCertificate 0 5405)) ∧
      (∀ nonce : Bytes, nonce.length = 32 →
        exec (.mgtAttest req nonce) s = .next (s.answered req 7 0 (s.attestReport 0 0 nonce []))) ∧
      (∀ i r, s.flash.records[i]? = some r → exec (.faultRead req i) s = .next (s.answered req 8 0 r)) ∧
      (∀ i, s.flash.records[i]? = none → exec (.faultRead req i) s = .next (s.answered req 8 4 [])) ∧
      (∀ keys : Bytes, keys.length = 1984 → s.flash.credential.isSome = true →
        exec (.credentialReplacement req keys true) s = .next ({ s with flash := { s.flash with
          credential := some keys, credVersion := (s.flash.credVersion + 1) % 2 ^ 32 } }.answered req 0 0 []))
  ) ∧
  (
    ∀ s : State, s.standby = true →
      (∀ t ok, s.tokenOk t 1 ok = true → exec (.managementCredentialRecovery t ok) s =
        .next ({ s with flash := { s.flash with credential := none } }.count 49 4)) ∧
      (∀ t ok, s.tokenOk t 1 ok = false → exec (.managementCredentialRecovery t ok) s = .next (s.count 49 5)) ∧
      (s.mgt.broadcastSeen = false →
        exec (.smbusBlockRead 0x00) s = .next (s.emit (.sideband (s.mgtBytes 0x000 20))) ∧
        exec (.smbusBlockRead 0x01) s = .next (s.emit (.sideband (s.mgtBytes 0x044 4))) ∧
        (∀ k, k < 16 → exec (.smbusBlockRead (0x10 + k)) s =
          .next (s.emit (.sideband (s.mgtBytes (0x1000 + 32 * k) 32))))) ∧
      (s.mgt.broadcastSeen = true → ∀ k, exec (.smbusBlockRead k) s = .next s) ∧
      (∀ a, s.mgt.i3cAddress = none → exec (.i3cCommonCommand (.setdasa 0x4C a)) s =
        .next { s with mgt := { s.mgt with broadcastSeen := true, i3cAddress := some a } }) ∧
      exec (.i3cCommonCommand .rstdaa) s = .next { s with mgt := { s.mgt with broadcastSeen := true, i3cAddress := none } } ∧
      (∀ e, exec (.i3cCommonCommand (.disec e)) s = .next { s with mgt := { s.mgt with
        broadcastSeen := true, i3cEvents := s.mgt.i3cEvents &&& (e % 2 ^ 8 ^^^ 255) } })
  )

/-! ### Start-up, resets, power and time -/

/-- Start-up in its order (R233, R355, R441, Table 21-4): from off, the start level begins a cold reset; the standby
rails sample the straps and start the chronometer at 0; the main rails come up at setting 2 once every die sensor
reads below 95.0 °C; training, or its replay, leads to the scrub, which leaves all of memory zero and the map with the
device's regions alone; with the ports settled the device is ready and the anti-rollback counter has risen to the
running image's SVN. The boot chain (R395, R398, R399, R402): of two valid images the one with the higher version
runs, and the other where it fails; with every check passed the digests are fixed and the ports take the modes of the
record; an identity mismatch halts with cause 7, a failed row with cause 8 (its DETAIL's row numbers are the model's,
log entry 40). -/
def Obligations.StartUpRunsInOrder : Prop :=
  (
    ∀ s : State,
      (s.power.boot = .off → exec .inputStartLevel s =
        .next ({ s with power := { s.power with vin := 4000, vins := [4000] } }.beginReset (.cold 5))) ∧
      (∀ m d, s.power.boot = .started → d < 64 → ∃ t, exec (.standbyRailsUp m d) s = .next t ∧ t.power.boot = .standby ∧
        t.cascade.device = d ∧ t.cascade.masterSel = m ∧ t.time = .reset ∧ t.mgt.addr4 = s.flash.addr4 ∧
        t.mgt.addr6 = s.flash.addr6 ∧ t.flash = s.flash) ∧
      (∀ ts : List Int, s.power.boot = .standby → s.health.halt = none → ts.length = 32 → (∀ x ∈ ts, x < 950) →
        ∃ t, exec (.mainRailsUp ts) s = .next t ∧ t.power.boot = .rails ∧ t.power.vcore = 2 ∧
          t.power.temps = ts ++ s.power.temps.drop 32) ∧
      (∀ ts : List Int, s.power.boot = .standby → s.health.halt = none → ts.length = 32 → (∃ x ∈ ts, 950 ≤ x) →
        ∃ t, exec (.mainRailsUp ts) s = .next t ∧ t.power.boot = .standby ∧
          (s.power.coolWaits = true → t.counterValue 52 5 = s.counterValue 52 5) ∧
          (s.power.coolWaits = false → s.counterValue 52 5 < 2 ^ 64 - 1 →
            t.counterValue 52 5 = s.counterValue 52 5 + 1)) ∧
      (∀ replay failing, s.power.boot = .booted → s.health.halt = none → s.power.fullTraining = true → failing = [] →
        exec (.lpddr6TrainingComplete replay failing) s =
          .next { s with power := { s.power with boot := .trained, fullTraining := false, trainedAt := s.now } }) ∧
      (s.power.boot = .booted → s.health.halt = none → s.power.fullTraining = false →
        exec (.lpddr6TrainingComplete true []) s = .next { s with power := { s.power with fullTraining := true } }) ∧
      (s.power.boot = .trained → s.health.halt = none → exec .memoryScrubComplete s =
        .next { s with mem := [], regions := regionsAtReset, power := { s.power with boot := .scrubbed } }) ∧
      (s.power.boot = .scrubbed → s.health.halt = none → s.portsSettled = true → ∃ t, exec .deviceReady s = .next t ∧
        t.working = true ∧ t.flash.rollback = max s.flash.rollback (s.flash.running.elim 0 (·.svn)) ∧
        t.flash.running = s.flash.running)
  ) ∧
  (
    (∀ (s : State) (v : BootVerdict), s.power.boot = .rails → s.health.halt = none →
      (v.identityOk = false → exec (.bootChainComplete v) s = .next (s.fault (faultOf 7 0))) ∧
      (v.identityOk = true → v.antiRollbackOk = true → v.chainOk = true → v.configOk = true →
        ∀ b, s.flash.choose (s.flash.slotFails s.flash.slotA v.slotA) (s.flash.slotFails s.flash.slotB v.slotB) = some b →
          exec (.bootChainComplete v) s = .next (s.booted b) ∧ (s.booted b).power.boot = .booted ∧
          (s.booted b).flash.runningB = b) ∧
      (v.identityOk = true → v.antiRollbackOk = false ∨ v.chainOk = false ∨ v.configOk = false →
        ∃ t h, exec (.bootChainComplete v) s = .next t ∧ t.health.halt = some h ∧ h.cause = 8)) ∧
    (∀ (f : Flash) (x y : FwImage), f.slotA = some x → f.slotB = some y →
      (f.choose 0 0 = some (decide (x.version < y.version))) ∧ (∀ b, b ≠ 0 → f.choose 0 b = some false) ∧
      (∀ a, a ≠ 0 → f.choose a 0 = some true) ∧ (∀ a b, a ≠ 0 → b ≠ 0 → f.choose a b = none))
  )

/-- Resets (R419, R444, R452, Table 21-5): PERST#, a hot reset, a link that stays down and a function-level reset of
function 0 each request a warm reset, which is counted under its cause; on a device that works the reset begins at
once, keeps the boot flash, the queue and the sensors' readings, and leaves every register, session, partition, route,
run, stream and memory byte as at reset; on a halted device whose record is not yet written it waits. A function-level
reset of functions 1 to 6 (R418): the function's Bus Master Enable clears, and where it is enabled its partition is
torn down in ABORT mode; nothing else of the device is reset. -/
def Obligations.ResetsClearAllButTheFlash : Prop :=
  (
    (∀ s : State,
      exec .perstAssert s = .next (s.requestReset (.warm 0)) ∧ exec .hotReset s = .next (s.requestReset (.warm 1)) ∧
      exec .pcieLinkDownTimeout s = .next (s.requestReset (.warm 2)) ∧
      (s.standby = true → exec (.functionLevelReset 0) s = .next (s.requestReset (.warm 3)))) ∧
    (∀ (s : State) (n : Nat), s.working = true → n < 8 →
      let t := s.requestReset (.warm n)
      t = s.beginReset (.warm n) ∧ t.power.boot = .rails ∧ t.mem = [] ∧ t.cmds = [] ∧ t.routes = [] ∧ t.runs = [] ∧
      t.streams = [] ∧ t.channels = [] ∧ t.leases = [] ∧ t.health.halt = none ∧ t.working = false ∧
      (∀ f, (t.ring f).enable = false ∧ (t.fn f).sessions = []) ∧ (∀ p, (t.part p).enabled = false) ∧
      (∀ c, (t.core c).pad = []) ∧ t.pending = s.pending ∧ t.power.temps = s.power.temps ∧
      t.cascade.device = s.cascade.device ∧ t.flash.serial = s.flash.serial ∧ t.flash.records = s.flash.records ∧
      t.flash.slotA = s.flash.slotA ∧ t.flash.slotB = s.flash.slotB ∧ t.flash.credential = s.flash.credential ∧
      (s.counterValue 54 n < 2 ^ 64 - 1 → t.counterValue 54 n = s.counterValue 54 n + 1)) ∧
    (∀ (s : State) (k : ResetKind) (h : Halt), s.standby = true → s.health.halt = some h →
      (h.recorded = true → s.requestReset k = s.beginReset k) ∧
      (h.recorded = false → s.requestReset k =
        { s with health := { s.health with halt := some { h with request := some (k.join h.request) } } }))
  ) ∧
  (
    ∀ (s : State) (f : Nat), s.standby = true → 1 ≤ f → f ≤ 6 →
      let t := s.setFn f { s.fn f with busMaster := false }
      (s.working = true → (s.part f).enabled = true →
        exec (.functionLevelReset f) s = .next (t.disable f true none)) ∧
      (s.working = false ∨ (s.part f).enabled = false → exec (.functionLevelReset f) s = .next t)
  )

/-- The supply's events (R435, R438 to R440): a warning asserts PWR_WARN#, is counted and signalled on function 0, and
ends, the pin released, no earlier than 1 ms after it last began; dips and over-range entries are counted; a loss of
20 µs or more, or a disconnection, halts with cause 6; once the record is written, or before the rails have ever come
up, the device goes dark: both pins are released (R484) and only the boot flash is kept. -/
def Obligations.SupplyEventsWarnCountAndHalt : Prop :=
  ∀ s : State,
    (s.standby = true → s.power.warn = false → exec .pwrWarnAssert s =
      .next ((((({ s with power := { s.power with warn := true, warnSince := s.now } }).emit (.pin .pwrWarnN true)).count 52 0).signal 0 1 62).ibi)) ∧
    (s.power.warn = true → exec .warnClearRestart s = .next { s with power := { s.power with warnSince := s.now } }) ∧
    (s.power.warn = true → s.power.warnSince + 1000000 ≤ s.now → exec .pwrWarnDeassert s =
      .next (((({ s with power := { s.power with warn := false } }).emit (.pin .pwrWarnN false)).signal 0 2 62).ibi)) ∧
    (s.now < s.power.warnSince + 1000000 → exec .pwrWarnDeassert s = .next s) ∧
    (s.standby = true → exec .shortResetLevelDip s = .next (s.count 52 1) ∧
      exec .overRangeEntry s = .next (s.count 52 2) ∧
      exec .inputProtectionDisconnect s = .next (s.fault (faultOf 6 20)) ∧
      ∀ n, (20 ≤ n → exec (.supplyLoss n) s = .next (s.fault (faultOf 6 n))) ∧
        (n < 20 → exec (.supplyLoss n) s = .next s)) ∧
    ((s.power.boot = .started ∨ ∃ h, s.health.halt = some h ∧ h.recorded = true) → ∃ t, exec .standbyOff s = .next t ∧
      t.power.boot = .off ∧ t.mem = [] ∧ t.cmds = [] ∧ t.pending = s.pending ∧ t.flash = s.flash ∧
      t.outbox = s.outbox ++ (if s.health.halt.isSome = true then [.pin .faultN false] else []) ++
        (if s.power.warn = true then [.pin .pwrWarnN false] else []))

/-- A device fault (R292, R445 to R449, R452): the device halts with the cause, its time and its detail; FAULT# is
asserted, every command in flight ends with ST_DEVICE_HALTED and Ethernet links go down; a further cause joins the
mask until the record is written; the record goes to the front of at most 64 and the cause is counted. A halted device
computes nothing more. While the device is halted no command of these rows changes anything (R446): no frame is
released, no step is dispatched or carried out, no array, band or bank moves, and no stream event happens. -/
def Obligations.FaultsHaltTheDevice : Prop :=
  (
    ∀ s : State,
      (∀ h, s.health.halt = none → ∃ g, (s.fault h).health.halt = some g ∧ g.cause = h.cause ∧ g.detail = h.detail ∧
        g.mask = 2 ^ h.cause ∧ g.time = s.now ∧ g.recorded = h.recorded ∧ (s.fault h).working = false ∧
        (s.fault h).mem = s.mem ∧ (s.fault h).cores = s.cores ∧
        .pin .faultN true ∈ (s.fault h).outbox ∧
        (∀ id c, s.cmd id = some c → c.phase ≠ .ended → ∃ d, (s.fault h).cmd id = some d ∧ d.phase = .ended ∧
          d.status = Status.deviceHalted.code) ∧
        (∀ p, (s.port p).ethernet = true → ((s.fault h).port p).up = false)) ∧
      (∀ h old, s.health.halt = some old → old.recorded = false → s.fault h =
        { s with health := { s.health with halt := some (old.join h s.now) } }) ∧
      (∀ h old, s.health.halt = some old → old.recorded = true → s.fault h = s.count 52 6) ∧
      (∀ h, s.health.halt = some h → h.recorded = false → h.request = none → ∃ t, exec .faultRecordWritten s = .next t ∧
        t.flash.records = (s.faultRecord h :: s.flash.records).take 64 ∧ t.flash.halts = (s.flash.halts + 1) % 2 ^ 32 ∧
        t.health.halt = some { h with recorded := true } ∧ t.mem = s.mem ∧ t.cores = s.cores) ∧
      (∀ n, s.standby = true → exec (.internalLogicError n) s = .next (s.fault (faultOf 1 n))) ∧
      (s.bar0 = true → s.health.halt = none →
        exec .controlCoreWatchdogExpire s = .next (s.fault (faultOf 1 Config.watchdogBlock)))
  ) ∧
  (
    ∀ s : State, s.health.halt.isSome = true →
      (∀ k, k < 6 → ∀ i ∈ ([.routeStepDispatch k, .routeStepComplete k, .layerStep k, .openBox k, .closeBox k, .waitBox k,
        .waitSatisfied k, .orderStep k, .releaseSlots k, .vecAdd k, .vecConvert k, .vecDiv k, .vecSoftmax k,
        .vecAdamStep k, .vecScatterAdd k, .sackRecordWrite k, .scatterGroupClose k, .sortingFramePass k,
        .perturbGoApply k, .perturbGoClear k] : List Instr), exec i s = .next s) ∧
      (∀ k a, k < 6 → a < 96 → ∀ i ∈ ([.tileFetch k a, .tileArrival k a, .recoderLoad k a, .residencyLoad k a,
        .feedVector k a, .columnClaim k a, .guestAttach k a] : List Instr), exec i s = .next s) ∧
      (∀ k a l, k < 6 → a < 96 → l < 128 → exec (.laneStep k a l) s = .next s ∧ exec (.runPromotion k a l) s = .next s ∧
        exec (.laneTileSwitch k a l) s = .next s) ∧
      (∀ n, n < 64 → ∀ i ∈ ([.frameRelease n, .beatMissed n, .deadlineMiss n, .grantTimer n, .retransmitTimeout n,
        .channelTimeout n, .finalGrantWindowEnd n] : List Instr), exec i s = .next s) ∧
      (∀ id c, c ∈ [0x0101, 0x0102, 0x0103] → ∀ f, opcodeRow id c f s = .next s)
  )

/-- Causes after the first (R448), a step being one value of the chronometer: one found in the first one's step gives
the record's CAUSE where its code is lower; every one before the record is written sets its bit in the mask; one after
it is counted and changes no record. -/
def Obligations.FurtherCausesJoinTheRecord : Prop :=
  ∀ (s : State) (h old : Halt), s.health.halt = some old →
    (old.recorded = false → ∃ g, (s.fault h).health.halt = some g ∧ g.mask = old.mask ||| 2 ^ h.cause ∧
      g.cause = (if old.time = s.now then min old.cause h.cause else old.cause) ∧ g.time = old.time ∧
      s.fault h = { s with health := { s.health with halt := some g } }) ∧
    (old.recorded = true → s.fault h = s.count 52 6)

/-- The samples (R262, R266, R267, R450, R451): a power sample sets the readings and adds its energy; once in each
microsecond 88 pace readings replace the old ones, and one more than 64 Mst/s below the floor halts with cause 3; a
temperature above 105.0 °C in two samples in a row halts with cause 5. The power controller (R262 to R264, R267, R271,
R451): once an epoch it closes the averages and, over the cap or too hot, lowers VCORE by one setting, to no less than
the cap setting or the admission setting; after ten quiet epochs in a row it raises it by one, never above SUPPLY_KNOB
and not during a supply warning; the rail begins a waiting change in the reserved slot, a commit's with every core
between steps, and ends it only there; then the lower floor holds for 100 µs more and the waiting commits complete. -/
def Obligations.SamplesMoveVcoreAndHalt : Prop :=
  (
    ∀ s : State,
      (∀ v i, s.standby = true → ∃ t, exec (.powerSample v i) s = .next t ∧ t.power.vin = v ∧ t.power.iin = i ∧
        t.power.power = v * i / 1000 ∧ t.power.energy = s.power.energy + v * i / 1000 ∧
        t.power.epochCount = s.power.epochCount + 1 ∧ t.power.vcore = s.power.vcore ∧
        t.power.vins = (v :: s.power.vins).take 10) ∧
      (∀ rs : List Nat, s.now / 1000 = s.power.window → exec (.paceWindowEnd rs) s = .next s) ∧
      (∀ rs : List Nat, s.power.armed = true → rs.length = 88 → s.now / 1000 ≠ s.power.window →
        let u : State := { s with power := { s.power with
          readings := rs, window := s.now / 1000, windows := (s.power.windows + 1) % 2 ^ 32, paceMin := rs.foldl min 65535 } }
        ((∀ n, n < 88 → s.floor ≤ rs.getD n 0 + 64) → exec (.paceWindowEnd rs) s = .next u) ∧
        ((∃ n, n < 88 ∧ rs.getD n 0 + 64 < s.floor) → ∃ h, h.cause = 3 ∧ exec (.paceWindowEnd rs) s = .next (u.fault h))) ∧
      (∀ ts : List Int, s.standby = true → ts.length = 48 →
        ((∀ n, n < 48 → ts.getD n 0 ≤ 1050 ∨ s.power.overCount.getD n 0 = 0) → s.health.halt = none →
          ∃ t, exec (.temperatureSample ts) s = .next t ∧ t.power.temps = ts ∧ t.health.halt = none) ∧
        (∀ n, n < 48 → 1050 < ts.getD n 0 → 1 ≤ s.power.overCount.getD n 0 → s.health.halt = none →
          ∃ t h, exec (.temperatureSample ts) s = .next t ∧ t.health.halt = some h ∧ h.cause = 5))
  ) ∧
  (
    (∀ s : State, s.power.armed = true → s.now / 10000000 ≠ s.power.epoch →
      s.health.halt = none → s.health.bist = none →
        let avg := if s.power.epochCount = 0 then s.power.power else s.power.epochSum / s.power.epochCount
        let above := decide (10 * s.config.cap * s.power.epochCount < s.power.epochSum)
        let hot := s.power.epochMax.any (1000 < ·)
        exec .epochBoundary s = .next ((s.closeEpoch avg above hot).controlVcore avg above hot
          (s.power.epochMax.all (· < 950)))) ∧
    (∀ (s : State) (avg : Nat) (above hot cool : Bool), s.power.change = none →
      let t := s.controlVcore avg above hot cool
      let down := (above = true ∧ s.capSetting < s.power.vcore) ∨ (hot = true ∧ s.admission < s.power.vcore)
      let n := if avg < 9 * s.config.cap ∧ cool = true then s.power.quiet + 1 else 0
      t.power.vcore = s.power.vcore ∧
      (down → t.power.quiet = 0 ∧ ∃ c, t.power.change = some c ∧ c.goal + 1 = s.power.vcore) ∧
      (¬ down → 10 ≤ n → s.power.vcore < s.config.knob → s.power.warn = false →
        t.power.quiet = 0 ∧ ∃ c, t.power.change = some c ∧ c.goal = s.power.vcore + 1) ∧
      (¬ down → n < 10 ∨ s.config.knob ≤ s.power.vcore ∨ s.power.warn = true →
        t.power.quiet = n ∧ t.power.change = none)) ∧
    (∀ s : State, s.slotTime < 200000 → exec .reservedSlotStart s =
      .next { s with power := { s.power with change := s.power.change.map fun c =>
        { c with moving := c.moving || (!c.commit || s.allBetween) && !(s.power.warn && decide (s.power.vcore < c.goal)) } } }) ∧
    (∀ s : State, 200000 ≤ s.slotTime → exec .reservedSlotStart s = .next s ∧ exec .vcoreChangeComplete s = .next s) ∧
    (∀ (s : State) (c : VChange), s.power.change = some c → c.commit = true → s.allBetween = false →
      exec .vcoreChangeComplete s = .next s) ∧
    (∀ (s : State) (c : VChange), s.power.change = some c → c.moving = true → s.slotTime < 200000 →
      c.commit = false ∨ s.allBetween = true → s.health.bist = none → exec .vcoreChangeComplete s = .next (c.waiters.foldl (fun s w => s.complete w.1 w.2)
        { s with power := { s.power with vcore := c.goal, change := none, floorUntil := s.now + 100000,
                                         floorLow := min c.source c.goal } }))
  )

/-- The chronometer's references (R269, R270, R475): a pending second count is applied at the next edge as a counted
step, and held while a stream is open; an edge or a Sync message of the best visible transmitter is measured, the Sync
answered with a delay request, and sixteen measurements in a row within 100 ns lock; three missed edges or Sync
intervals lead to holdover. A transmitter stays visible for three of its Announce intervals (log entry 39). The rate
after a measurement is free within ±100 ppm (log entry 39). -/
def Obligations.ChronometerFollowsItsReference : Prop :=
  ∀ s : State,
    (∀ n, s.standby = true → s.time.source = 1 → s.time.seconds = some n → s.streams = [] →
      ∃ t, exec .ppsEdge s = .next t ∧ t.time.ns = n * 1000000000 % 2 ^ 64 ∧ t.time.frac = 0 ∧ t.time.seconds = none ∧
        (s.counterValue 44 7 < 2 ^ 64 - 1 → t.counterValue 44 7 = s.counterValue 44 7 + 1) ∧
        bitOf t.health.events 0 = true) ∧
    (∀ n, s.standby = true → s.time.source = 1 → s.time.seconds = some n → s.streams ≠ [] →
      ∃ t, exec .ppsEdge s = .next t ∧ t.time.ns = s.time.ns ∧ t.time.seconds = some n ∧ t.time.stepHeld = true) ∧
    (s.standby = true → s.time.source = 1 → s.time.seconds = none →
      exec .ppsEdge s = .next (s.measure (secondOffset s.now) 1)) ∧
    (∀ p m, s.standby = true → p < 16 → s.ptpHeard (some p) = true → m.domain = s.config.ptpDomain →
      (∀ i, m.kind = .announce i → exec (.ptpMessage (some p) m) s =
        .next { s with time := { s.time with heard := Tab.put m.rank (s.now, i) s.time.heard } }) ∧
      (∀ off i, m.kind = .sync off i →
        (s.time.best = some m.rank → exec (.ptpMessage (some p) m) s = .next
          ((({ s with time := { s.time with syncInterval := i } }).measure off 2).emit
            (.delayRequest (some p) s.config.ptpDomain))) ∧
        (s.time.best ≠ some m.rank → exec (.ptpMessage (some p) m) s = .next s))) ∧
    (∀ r, s.time.best = some r → (∃ e ∈ s.time.heard, e.1 = r ∧ s.now < e.2.1 + 3 * e.2.2) ∧
      ((s.time.heard.map (·.1)).Pairwise (· < ·) → ∀ e ∈ s.time.heard, s.now < e.2.1 + 3 * e.2.2 → r ≤ e.1)) ∧
    (∀ off k, off.natAbs < 100 → s.streams ≠ [] → ∃ t, s.measure off k = t ∧ t.time.good = s.time.good + 1 ∧
      t.time.state = (if 15 ≤ s.time.good then k else s.time.state) ∧ t.time.ns = s.time.ns ∧ t.time.offset = off ∧
      -109951162 ≤ t.time.rate ∧ t.time.rate ≤ 109951162) ∧
    (∀ off k, 100 ≤ off.natAbs → (s.measure off k).time.good = 0 ∧
      (s.streams ≠ [] → (s.measure off k).time.ns = s.time.ns ∧ (s.measure off k).time.stepHeld = true) ∧
      (s.streams = [] → (s.measure off k).time.ns = ((s.now : Int) - off).toNat % 2 ^ 64)) ∧
    (s.time.state = 1 → s.time.lastMeasure + 3000000000 ≤ s.now → exec .holdoverEntry s =
      .next ((({ s with time := { s.time with state := 3, good := 0 } }).count 45 0).event 1)) ∧
    (s.time.state = 2 → s.time.lastMeasure + 3 * s.time.syncInterval ≤ s.now → exec .holdoverEntry s =
      .next ((({ s with time := { s.time with state := 3, good := 0 } }).count 45 0).event 1)) ∧
    (s.time.state = 2 → s.now < s.time.lastMeasure + 3 * s.time.syncInterval → exec .holdoverEntry s = .next s) ∧
    (s.time.state ≠ 1 → s.time.state ≠ 2 → exec .holdoverEntry s = .next s)

/-! ### Vector operations and digit arrays -/

/-- A vector operation carried out (R171 to R186, R191, R501): for every operation whose result depends on its
operands alone, the core that has dispatched a step of it writes the operation's result through the result's handle,
counts what R186 counts and has ended the step; counting its steps and asking for its operands' banks leaves the
scratchpad as it was; an access that leaves its handle ends the run with ST_BAD_PARAM. CONVERT and SCATTER_ADD (R119,
R171, R185): a CONVERT to FP32 or INT32 writes each value in its result's type, one to a narrower code runs the
conversion of its tensor; a SCATTER_ADD opens its group with every update issued and the core waits for its merge. -/
def Obligations.VectorOperationsWriteTheirResults : Prop :=
  (
    ∀ (s : State) (k rid i : Nat) (x : Route) (v : VectorStep), s.HasVector k rid i x v →
      ∀ q ∈ ([(.vecAdd k, .add, fun _ v c => v.map2 c (v.form iAdd vAdd)),
        (.vecSub k, .sub, fun _ v c => v.map2 c (v.form iSub vSub)),
        (.vecMul k, .mul, fun _ v c => v.map2 c (v.form iMul vMul)),
        (.vecFma k, .fma, fun _ v c => v.map3 c vFma),
        (.vecMin k, .min, fun _ v c => v.map2 c (v.form (fun a b => { bits := iMin a b }) fun a b => .pass (fpMin a b))),
        (.vecMax k, .max, fun _ v c => v.map2 c (v.form (fun a b => { bits := iMax a b }) fun a b => .pass (fpMax a b))),
        (.vecAbs k, .abs, fun _ v c => v.map1 c (v.form (fun a => .ofInt (int32 a).natAbs) fun a => .pass (fpAbs a))),
        (.vecNeg k, .neg, fun _ v c => v.map1 c (v.form (fun a => .ofInt (-int32 a)) fun a => .pass (fpNeg a))),
        (.vecCmp k, .cmp, fun _ v c => v.map2 c v.compare), (.vecSelect k, .select, fun _ v c => v.map3 c v.select),
        (.vecDiv k, .div, fun _ v c => v.map2 c fun a b => .ofFp (fpDiv a b)),
        (.vecSqrt k, .sqrt, fun _ v c => v.map1 c fun a => .ofFp (fpSqrt a)),
        (.vecRsqrt k, .rsqrt, fun _ v c => v.map1 c fun a => .ofFp (fpRsqrt a)),
        (.vecRecip k, .recip, fun _ v c => v.map1 c fun a => .ofFp (fpRecip a)),
        (.vecExp2 k, .exp2, fun _ v c => v.map1 c fun a => .ofFp (fpExp2 a)),
        (.vecLog2 k, .log2, fun _ v c => v.map1 c fun a => .ofFp (fpLog2 a)),
        (.vecGradAdd k, .gradAdd, fun _ v c => v.map2 c vAdd),
        (.vecRelu k, .relu, fun _ v c => v.map1 c fun a => .pass (relu a)),
        (.vecClamp k, .clamp, fun _ v c => v.map1 c fun a => .pass (clampFp (v.scalar 0) (v.scalar 1) a)),
        (.vecGelu k, .gelu, fun _ v c => v.map1 c fun a => .pass (gelu a)),
        (.vecSilu k, .silu, fun _ v c => v.map1 c fun a => .pass (silu a)),
        (.vecSum k, .sum, fun _ v c => v.reduceRows c (sumRow v.ints)),
        (.vecSumsq k, .sumsq, fun _ v c => v.reduceRows c fun row =>
          (sumSqRow v.ints (row.map (·.bits))).after (countAll (row.map (·.count)))),
        (.vecMaxi k, .maxi, fun _ v c => v.tapRows c true), (.vecMini k, .mini, fun _ v c => v.tapRows c false),
        (.vecLse k, .lse, fun e v c => v.reduceRows c (lseRow e)),
        (.vecSoftmax k, .softmax, fun e v c => v.mapRows c (softmaxRow e)),
        (.vecRmsnorm k, .rmsnorm, fun _ v c => v.norm c rmsNormRow),
        (.vecLayernorm k, .layernorm, fun _ v c => v.norm c layerNormRow),
        (.vecSgdStep k, .sgdStep, fun _ v c => v.sgd c), (.vecAdamStep k, .adamStep, fun _ v c => v.adam c),
        (.vecScaleUpdate k, .scaleUpdate, fun _ v c => v.scaleUpdate c)] :
          List (Instr × VecOp × (Bool → VectorStep → Core → Option VecResult))),
        v.op = q.2.1 →
        let u := s.countOp k v (v.exactPath x)
        (u.core k).pad = (s.core k).pad ∧
        (∀ res c, q.2.2 (v.exactPath x) v (u.core k) = some res → (u.core k).writeAll res.writes = some c →
          exec q.1 s = .next (u.vectorEnds k rid i c res.count)) ∧
        (q.2.2 (v.exactPath x) v (u.core k) = none ∨
            (∃ res, q.2.2 (v.exactPath x) v (u.core k) = some res ∧ (u.core k).writeAll res.writes = none) →
          exec q.1 s = .next (u.failRun rid .badParam))
  ) ∧
  (
    ∀ (s : State) (k rid i : Nat) (x : Route) (v : VectorStep), s.HasVector k rid i x v →
      let u := s.countOp k v (v.exactPath x)
      (u.core k).pad = (s.core k).pad ∧
      (v.op = .convert → v.narrows = false → ∀ res c, v.plainConvert (u.core k) = some res →
        (u.core k).writeAll res.writes = some c →
        exec (.vecConvert k) s = .next (u.vectorEnds k rid i c res.count)) ∧
      (v.op = .convert → v.narrows = true → ∀ r xs, s.run rid = some r → v.values (u.core k) v.a v.total = some xs →
        exec (.vecConvert k) s = .next (u.narrowing k rid i r v
          (if v.ints then xs.map fun a => .int (int32 (a.load true).bits) else xs.map fun a => .fp a.toFp)
          (if v.ints then countAll (xs.map fun a => (a.load true).count) else {}))) ∧
      (v.op = .scatterAdd → ∀ xs idx, v.operand (u.core k) v.a v.total = some xs →
        (u.core k).readPad v.b.handle v.b.offset (4 * v.rows) = some idx →
        ∃ g, exec (.vecScatterAdd k) s = .next ((u.setCore k { u.core k with
            running := .scattering rid i, scatter := some g }).countVector k rid (countAll (xs.map (·.count)))) ∧
          g.issued = true ∧ g.phase = .updating ∧ g.spills = [] ∧ g.waiting.length = xs.length ∧ g.isFp = !v.ints ∧
          g.sorting = (x.exact || !v.ints))
  )

/-- INT32 arithmetic and comparisons of the vector unit (R171, R173, R174): ADD, SUB and MUL limit the exact result to
±(2^31 − 1), and a limited result counts one saturation; MIN and MAX answer one of their operands, the first where
they are equal, and never a NaN while one is a number; a NaN makes every relation false but NE. -/
def Obligations.VectorIntegersSaturateAndCompare : Prop :=
  (∀ a b : Word, ∀ q ∈ ([(iAdd a b, int32 a + int32 b), (iSub a b, int32 a - int32 b), (iMul a b, int32 a * int32 b)] :
      List (VOut × Int)),
    int32 q.1.bits = max (-(2 ^ 31 - 1)) (min (2 ^ 31 - 1) q.2) ∧
    q.1.count.sat = (if -(2 ^ 31 - 1) ≤ q.2 ∧ q.2 ≤ 2 ^ 31 - 1 then 0 else 1)) ∧
  (∀ a b : Word, int32 (iMin a b) = min (int32 a) (int32 b) ∧ int32 (iMax a b) = max (int32 a) (int32 b)) ∧
  (∀ a b : Word, (fpIsNaN a = true → fpIsNaN b = false → fpMin a b = b ∧ fpMax a b = b) ∧
    (fpIsNaN b = true → fpIsNaN a = false → fpMin a b = a ∧ fpMax a b = a) ∧
    (fpEq a b = true → fpMin a b = a ∧ fpMax a b = a)) ∧
  (∀ a b : Word, fpIsNaN a = true ∨ fpIsNaN b = true → ∀ r : Relation, r.holds false a b = (r == .ne))

/-- The recoder's digits (R23): for every width from 1 to 16 and every two's complement weight of that width, the
stored digits have the weight's value, lie at ascending positions below the width, no two at neighbouring positions,
and number at most half the width, rounded up; a weight of 0 stores none; and no other such list has that value. -/
def Obligations.RecoderStoresTheNaf : Prop :=
  ∀ (w : Nat) (v : Int), 1 ≤ w → w ≤ 16 → -(2 ^ (w - 1) : Int) ≤ v → v < 2 ^ (w - 1) →
    digitsValue (naf v) = v ∧
    (∀ d ∈ naf v, d.pos < 8 ∧ d.pos + 8 * d.chunk < w) ∧
    ((naf v).map fun d => d.pos + 8 * d.chunk).Pairwise (fun a b => a + 1 < b) ∧
    2 * (naf v).length ≤ w + 1 ∧ (v = 0 → naf v = []) ∧
    (∀ ds : List Digit, (∀ d ∈ ds, d.pos < 8 ∧ d.pos + 8 * d.chunk < w) →
      (ds.map fun d => d.pos + 8 * d.chunk).Pairwise (fun a b => a + 1 < b) → digitsValue ds = v → ds = naf v)

/-- Promotion (R134, R135): the total plus the register's value times 2^shift, limited to ±(2^31 − 1), so that a total
never holds −2^31; it counts as a saturation exactly where the exact sum lies outside. -/
def Obligations.PromotionLimitsTheTotal : Prop :=
  (∀ (total reg : Int) (shift : Nat),
    (promote total reg shift).1 = max (-(2 ^ 31 - 1)) (min (2 ^ 31 - 1) (total + reg * 2 ^ shift)) ∧
    ((promote total reg shift).2 = true ↔
      total + reg * 2 ^ shift < -(2 ^ 31 - 1) ∨ 2 ^ 31 - 1 < total + reg * 2 ^ shift)) ∧
  (∀ (l : LayerStep) (pos : Nat) (total : Int) (runs : Table Int), -(2 ^ 31 - 1) ≤ total → total ≤ 2 ^ 31 - 1 →
    -(2 ^ 31 - 1) ≤ (promoteAll l pos total runs).1 ∧ (promoteAll l pos total runs).1 ≤ 2 ^ 31 - 1 ∧
    (promoteAll l pos total runs).2.1 ≤ l.registers.length ∧
    (Tab.rising runs = true → ∀ r ∈ l.registers, Tab.getD 0 (promoteAll l pos total runs).2.2 (runKey pos r.1 r.2) = 0))

/-- Claims and guests (R40, R41, R242): an array whose column has entered its queue whole claims its next, and nothing
while it has one or its list is exhausted; arrays ganged on the rows of a shared column claim together, by their
first; a guest joins its host band before the band's sweep has begun. The tile queue (R37, R214, R216, R229 to R231):
with room, the next tile of the array's column enters the queue; the bytes of the oldest tile asked for arrive as
memory holds them, whatever the first link check said, unless the second fails too, which is counted; a tile that
passes its checks is marked checked, a seal mismatch is read once more and then ends the run with ST_SEAL_FAULT, and
any other failure ends it at once. Lanes loaded (R22, R37, R50, R111): a checked tile at the head of the queue goes
into the lanes' shadow registers, two lanes a step in order 0 to 127, and then leaves the queue; a lane that has done
with its tile takes its shadow register; in table mode both halves of a residency enter every lane together. -/
def Obligations.TilesAreClaimedCheckedAndLoaded : Prop :=
  (
    ∀ (s : State) (k a rid i : Nat) (e : LayerExec) (r : Run) (x : Route), s.HasLayer k a rid i e r x →
      let q := (s.core k).array a
      (e.finished = false → (e.team a).head? = some a → (∀ j ∈ e.team a, let z := (s.core k).array j
          z.next = none ∧ z.claiming = false ∧ z.exhausted = false ∧
          ∀ c, z.column = some c → c.allFetched e.layer.tilesPerK = true) →
        exec (.columnClaim k a) s = .next ((s.claimColumn k a e).advance k)) ∧
      (e.claimsShared = false → e.team a = [a]) ∧
      ((e.team a).head? ≠ some a ∨ e.finished = true ∨ q.next.isSome = true ∨ q.claiming = true ∨ q.exhausted = true →
        exec (.columnClaim k a) s = .next s) ∧
      (∀ c, q.next = some c → c.attached = false → q.column = none → ((s.core k).band c.band).tile = 0 →
        ((s.core k).band c.band).pos = 0 →
        exec (.guestAttach k a) s = .next (s.setCore k (((s.core k).setArray a { q with
          next := some { c with attached := true, sweep := ((s.core k).band c.band).sweep } }).setBand c.band
            { (s.core k).band c.band with guests := ((s.core k).band c.band).guests.filter (· != a) ++ [a] })))
  ) ∧
  (
    ∀ (s : State) (k a rid i : Nat) (e : LayerExec) (r : Run) (x : Route), s.HasLayer k a rid i e r x →
      (∀ c, e.condition ≠ .forward → e.order ≠ .rows → ((s.core k).array a).fetching e.layer.tilesPerK = some c →
        ((s.core k).array a).queue.length < 2 → exec (.tileFetch k a) s = .next (s.setCore k ((s.core k).setArray a
          { ((s.core k).array a).fetched c.ordinal with queue := ((s.core k).array a).queue ++ [e.fetchOf x c] }))) ∧
      (∀ q pa line payload resp, ((s.core k).array a).queue.find? (fun q => q.line.isEmpty && !q.checked) = some q →
        s.phys x.partition q.addr = some pa → s.readTile x.partition q.addr = some (line, payload) →
        (s.asleep pa (64 + payload.length) = true → exec (.memoryReadResponse k a (.tile resp)) s = .next s) ∧
        (s.asleep pa (64 + payload.length) = false → resp.firstFails = false ∨ resp.secondFails = false →
          exec (.memoryReadResponse k a (.tile resp)) s = .next (((s.request pa (64 + payload.length)).perturbedOn k 3
            0).onCore k fun c => c.onTile (e.gang a) q fun t => { t with line := line, payload := payload })) ∧
        (s.asleep pa (64 + payload.length) = false → resp.firstFails = true → resp.secondFails = true →
          ∃ bytes : Bytes, bytes = flipBytes (line ++ payload) resp.flips ∧
          exec (.memoryReadResponse k a (.tile resp)) s = .next ((((s.request pa (64 + payload.length)).perturbedOn k 3
            0).countCore k 42 0).onCore k fun c => c.onTile (e.gang a) q fun t =>
              { t with line := bytes.take 64, payload := bytes.drop 64 }))) ∧
      (∀ n resp, n < 2 ^ 34 → exec (.memoryReadResponse k a (.line n resp)) s = .next { s with links := s.links ++ [(n, resp)] }) ∧
      (∀ q c, ((s.core k).array a).queue.find? (fun q => !q.line.isEmpty && !q.checked) = some q → q.half ≠ neuronMark →
        ((s.core k).array a).columnOf q.ordinal = some c →
        (checkTile (e.expects c q) q.addr q.line q.payload = .good → q.retried = false → exec (.tileArrival k a) s =
          .next (s.onCore k fun c => c.onTile (e.gang a) q fun t => { t with checked := true })) ∧
        (checkTile (e.expects c q) q.addr q.line q.payload = .mismatch → q.retried = true → exec (.tileArrival k a) s =
          .next ((s.countTile x.partition .mismatch).failRun rid .sealFault (q.addr / 64))) ∧
        (checkTile (e.expects c q) q.addr q.line q.payload = .missing → exec (.tileArrival k a) s =
          .next ((s.countTile x.partition .missing).failRun rid .sealMissing)) ∧
        (checkTile (e.expects c q) q.addr q.line q.payload = .metaFault → exec (.tileArrival k a) s =
          .next (s.failRun rid .metaFault)))
  ) ∧
  (
    ∀ (s : State) (k a rid i : Nat) (e : LayerExec) (r : Run) (x : Route), s.HasLayer k a rid i e r x →
      let q := (s.core k).array a
      (∀ t rest c, q.queue = t :: rest → t.checked = true → q.columnOf t.ordinal = some c → e.layer.isTable = false →
        let i := 2 * q.loading
        ((q.lane i).shadow = none → (q.lane (i + 1)).shadow = none → (e.load c t i).drops = 0 →
          (e.load c t (i + 1)).drops = 0 →
          exec (.recoderLoad k a) s = .next (((s.onCore k (e.askGather a c t)).perturbedOn k 1 2).onCore k fun z =>
            z.setArray a (let w := (q.loadLane t i (e.load c t i).pes).loadLane t (i + 1) (e.load c t (i + 1)).pes
              if i + 2 < 128 then { w with loading := w.loading + 1 } else { w with loading := 0, queue := rest }))) ∧
        ((q.lane i).shadow.isSome = true ∨ (q.lane (i + 1)).shadow.isSome = true →
          exec (.recoderLoad k a) s = .next s)) ∧
      (∀ (w : ArrayState) t i pes, ((w.loadLane t i pes).lane i).shadow =
        some { ordinal := t.ordinal, tile := t.tile, pes := pes }) ∧
      (∀ l c g, l < 128 → q.column.or q.next = some c → (q.lane l).shadow = some g → e.claimsShared = false →
        (e.switches c (q.lane l) g = true → exec (.laneTileSwitch k a l) s =
          .next (s.setCore k ((s.core k).setArray a (q.setLane l { q.lane l with
            active := some g, shadow := none, seen := 0, stepNo := 0 })))) ∧
        (e.switches c (q.lane l) g = false → exec (.laneTileSwitch k a l) s = .next s) ∧
        (g.ordinal = c.ordinal → e.switches c (q.lane l) g = (q.lane l).tileDone c (e.perTile c))) ∧
      (∀ t u rest c, q.queue = t :: u :: rest → q.column = some c → e.layer.isTable = true → t.checked = true →
        u.checked = true → t.ordinal = c.ordinal → u.ordinal = c.ordinal → e.claimsShared = false →
        (∀ l, l < 128 → (q.lane l).tileDone c (e.perTile c) = true) →
        (isResidency t u = true → exec (.residencyLoad k a) s = .next (s.setCore k ((s.core k).setArray a { q with
          queue := rest
          lanes := (List.range 128).map fun l => (l, { q.lane l with
            active := some { ordinal := c.ordinal, tile := t.tile, pes := tableLane t.payload u.payload l }
            seen := 0, stepNo := 0 }) }))) ∧
        (isResidency t u = false → exec (.residencyLoad k a) s = .next (s.failRun rid .metaFault)))
  )

/-- Streams (R38, R39): with room among sixteen vectors the band takes the next one of its stream, and its reader
moves on; an array's feed puts an entry into every lane FIFO, or waits where the band has not read it yet. Lane steps
and promotions (R28 to R31, R131, R134): a step adds the lane sum to the run register of its position, chunk and pass
and moves on; a lane whose run has ended promotes its due positions into the totals of the slot that fills, and its
saturations are counted. -/
def Obligations.BandsFeedAndLanesStep : Prop :=
  (
    ∀ (s : State) (k a rid i : Nat) (e : LayerExec) (r : Run) (x : Route), s.HasLayer k a rid i e r x →
      (∀ b j vs, b < 12 → e.bandBlock b = some j → e.finished = false → ((s.core k).band b).fifo.length < 16 →
        ((((s.core k).band b).tile = 0 ∧ ((s.core k).band b).pos = 0) →
          (s.core k).sweepBegins b ((s.core k).band b).sweep = true) →
        s.awaits k r e j ((s.core k).band b).tile = false →
        ∀ u, s.streamVector k x e j ((s.core k).band b).tile ((s.core k).band b).pos = (u, .ok vs) →
        exec (.bandRead k b) s = .next ((u.perturbedOn k 1 1).onCore k fun z =>
          ((e.askStream b j ((s.core k).band b).tile ((s.core k).band b).pos z).setBand b
          ({ (s.core k).band b with fifo := ((s.core k).band b).fifo ++ [StreamVec.mk ((s.core k).band b).sweep
              ((s.core k).band b).tile ((s.core k).band b).pos vs] }.advance
            (e.layer.positions j) e.layer.kTiles)).trimBand b (e.sweepLength j))) ∧
      (∀ b, b < 12 → 16 ≤ ((s.core k).band b).fifo.length → exec (.bandRead k b) s = .next s) ∧
      (∀ c v, ((s.core k).array a).column = some c → ((s.core k).band c.band).fifoBase ≤ ((s.core k).array a).feedAt →
        ((s.core k).band c.band).fifo[((s.core k).array a).feedAt - ((s.core k).band c.band).fifoBase]? = some v →
        ((s.core k).array a).feedAt < (c.sweep + 1) * e.sweepLength c.block →
        exec (.feedVector k a) s = .next ((s.perturbedOn k 1 1).setCore k
          (((s.core k).setArray a (((s.core k).array a).feed e c v)).trimBand c.band (e.sweepLength c.block)))) ∧
      (∀ q c v, q.fed.length < 8 → e.layer.transposed = false → c.first ≤ v.tile → v.tile < c.first + c.tiles →
        (ArrayState.feed q e c v).fed = q.fed ++ [e.entry c v q.feedSlice])
  ) ∧
  (
    ∀ (s : State) (k a rid i : Nat) (e : LayerExec) (r : Run) (x : Route), s.HasLayer k a rid i e r x →
      let q := (s.core k).array a
      (∀ l c v g p rest, l < 128 → q.column = some c → q.entryOf c l = some (v, g) → e.layer.transposed = false →
        e.schedule c l v g = (e.schedule c l v g).take (q.lane l).stepNo ++ p :: rest → rest ≠ [] →
        (q.lane l).stepNo = ((e.schedule c l v g).take (q.lane l).stepNo).length →
        exec (.laneStep k a l) s = .next (((s.perturbedOn k 1 0).setCore k
          ((s.core k).setArray a (q.setLane l (e.stepLane v g p (q.lane l))).trimFed)).finishColumn k a e)) ∧
      (∀ v g p (n : Lane), let key := runKey v.pos p.2.1 p.1
        (e.stepLane v g p n).stepNo = n.stepNo + 1 ∧ (Tab.wf 0 n.runs = true →
          Tab.getD 0 (e.stepLane v g p n).runs key = Tab.getD 0 n.runs key + laneSum e.layer g.pes v.values v.slice p ∧
          ∀ j, j ≠ key → Tab.getD 0 (e.stepLane v g p n).runs j = Tab.getD 0 n.runs j)) ∧
      (∀ l j, l < 128 → (q.lane l).due ≠ [] → e.estimating = false →
        q.fillSlot = some j →
        ∃ y totals n, e.promoteLane l (q.lane l) ((q.slots[j]?).getD .empty).totals = (y, totals, n) ∧ y.due = [] ∧
          exec (.runPromotion k a l) s = .next (((s.onCore k fun c => c.setArray a { q.setLane l y with
            slots := q.slots.set j { (q.slots[j]?).getD .empty with
              totals := totals
              flags := if n = 0 then ((q.slots[j]?).getD .empty).flags else ((q.slots[j]?).getD .empty).flags ||| 2 ^ l } }).countSats
                k rid n).finishColumn k a e))
  )

/-- Layer steps begin, drain and end (R76 to R81, R143, R236): LAYER_STEP starts the dispatched step on its core;
DRAIN_READ reads one position of the draining slot, under the step that filled it; ROUTE_STEP_COMPLETE ends a vector
step at once and a layer step when all its cores are ready, with the excursion test; RESULT_HANDOVER sends a frame's
result once all its steps have ended, or drops and counts it while its next hop is not resolved (R347), and past its
deadline it is the miss that halts (R282). -/
def Obligations.LayerStepsStartDrainAndEnd : Prop :=
  ∀ (s : State) (k rid i : Nat), s.working = true → k < 6 →
    (∀ l r x, s.readyStep k = some (rid, i, .layer l) → s.run rid = some r → s.route r.route = some x →
      (x.exact = true → isPredictor r.steps x.cascade l = true → exec (.layerStep k) s = .next (s.stepEnds rid i [k])) ∧
      (x.exact = false → exec (.layerStep k) s = .next (s.startLayer k rid i r x l 0))) ∧
    (∀ e r x b a j q c, b < 12 → (s.core k).drainHead b = some (a, j, q, c) →
      (s.core k).execFor q.run q.step = some e → s.routeOf q.run = some (r, x) → 0 < ((s.core k).band b).drainPos →
      ((s.core k).band b).drainPos + 1 < e.layer.positions c.block →
      let u := (s.perturbedOn k 1 3).onCore k (e.askDrain b c ((s.core k).band b).drainPos)
      let t := u.drainPosition k q.run x r (((u.core k).execFor q.run q.step).getD e) q c ((s.core k).band b).drainPos false
      (t.run q.run).isSome = true → exec (.drainRead k b) s = .next (t.drainOn k b a j false)) ∧
    ((s.core k).running = .vectorDone rid i → exec (.routeStepComplete k) s = .next (s.stepEnds rid i [k])) ∧
    (∀ e r x, (∀ n m, (s.core k).running ≠ .vectorDone n m) → s.layerDue k = some e → s.routeOf e.run = some (r, x) →
      ((∀ c ∈ bitsOf 6 e.layer.cores, s.layerReady e.run e.step c = true) → exec (.routeStepComplete k) s =
        .next (s.completeLayer e.run e.step r x (s.layerExecs e.run e.step (bitsOf 6 e.layer.cores)))) ∧
      ((∃ c ∈ bitsOf 6 e.layer.cores, s.layerReady e.run e.step c = false) →
        exec (.routeStepComplete k) s = .next s)) ∧
    (∀ n x r f, n < 64 → s.stream n = some x → s.handing n = some (rid, r, f) → x.desc.noResult = false →
      (∀ h, s.missed r = some h → exec (.resultHandover n) s = .next (s.fault h)) ∧
      (∀ b, s.missed r = none → (s.core x.core).readPad x.desc.outHandle x.desc.outOffset x.desc.outLen = some b →
        exec (.resultHandover n) s = .next ((((((s.onCore x.core (Core.ask 3 1 x.desc.outHandle x.desc.outOffset
          x.desc.outLen)).perturbedOn x.core 1 7).sendVia x.desc.port x.desc.v6 x.desc.peer fun mac =>
            .datagram x.desc.port x.desc.v6 mac x.desc.peer x.desc.localUdp x.desc.peerUdp (some x.desc.dscp)
              (s.resultPacket x f b)).onStream n fun y => { y with
                sent := y.sent + 1
                unresolved := y.unresolved + bit (s.resolved x.desc.port x.desc.v6 x.desc.peer).isNone }).onRun rid
          fun r => { r with handed := true }).tryEnd rid))) ∧
    (∀ (u : State) (port peer mac : Nat) (v6 : Bool) (o : Nat → Out),
      (u.resolved port v6 peer = some mac → u.sendVia port v6 peer o = u.emit (o mac)) ∧
      (u.resolved port v6 peer = none → u.sendVia port v6 peer o = u.askHop port v6 peer) ∧
      ((u.port port).up = false → u.resolved port v6 peer = none))

/-! ### Scatter groups, scratchpads and stacks -/

/-- One pigeonhole set (R121 to R123): a held key's entry takes the limited sum and becomes the most recent; a new key
takes a way, and in a full set the least recent entry is spilled; a set never holds more than four entries nor a key
twice. The rows of a scatter group (R119 to R126): an update in range goes into its set, one beyond the destination is
dropped; a spill, or in sorting-frame mode an update, becomes the sack's next record, and a full sack ends the run
with ST_SACK_FULL; a group with everything arrived closes into the sorting frame; a pass that leaves one run adds it
into the destination and the group is gone; a record that leaves the destination's handle ends the run with
ST_BAD_PARAM. -/
def Obligations.ScatterGroupsUpdateSpillAndMerge : Prop :=
  (
    ∀ (ways : List (Nat × Int)) (key : Nat) (v : Int), ways.length ≤ 4 → (ways.map (·.1)).Nodup →
      let q := updateSet ways key v
      q.1.length ≤ 4 ∧ (q.1.map (·.1)).Nodup ∧
      (∀ w, (key, w) ∈ ways → q.1.head? = some (key, limit32 (w + v)) ∧ q.2.1 = none ∧
        (q.2.2 = if limit32 (w + v) = w + v then 0 else 1)) ∧
      (key ∉ ways.map (·.1) → q.1.head? = some (key, v) ∧ q.2.2 = 0 ∧
        (ways.length < 4 → q.1 = (key, v) :: ways ∧ q.2.1 = none) ∧
        (∀ a b c d, ways = [a, b, c, d] → q.1 = [(key, v), a, b, c] ∧ q.2.1 = some d))
  ) ∧
  (
    ∀ (s : State) (k rid : Nat) (g : Scatter), s.working = true → k < 6 → (s.core k).scatter = some g →
      s.scatterRun k = some rid →
      (∀ b r, b < 16 → g.sorting = false → g.waiting.find? (fun r => pigeonBank (pigeonSet r.key) == b) = some r →
        (r.key < g.destCount → exec (.pigeonholeUpdate k b) s = .next ((s.perturbedOn k 1 5).pigeonUpdate k rid r)) ∧
        (g.destCount ≤ r.key → exec (.pigeonholeUpdate k b) s = .next (s.dropUpdate k rid r))) ∧
      (∀ r rest, (g.sorting = false ∧ g.spills = r :: rest) ∨
          (g.sorting = true ∧ g.waiting = r :: rest ∧ r.key < g.destCount) →
        (g.capacity ≤ g.sackCount → exec (.sackRecordWrite k) s =
          .next (((s.perturbedOn k 1 5).countCore k 39 4).failRun rid .sackFull)) ∧
        (g.sackCount < g.capacity → exec (.sackRecordWrite k) s = .next ((s.perturbedOn k 1 5).sackWrite k rid g r))) ∧
      ((s.core k).canClose g = true → exec (.scatterGroupClose k) s = .next (s.setCore k { s.core k with
        pigeons := []
        scatter := some { g with phase := .merging (((s.core k).sackRecords g ++
          if g.sorting then [] else (s.core k).residents).map fun r => [r]) 0 } })) ∧
      ((s.core k).canClose g = false → exec (.scatterGroupClose k) s = .next s) ∧
      (∀ runs n, g.phase = .merging runs n → 1 < (mergePass g.sorting runs).1.length → exec (.sortingFramePass k) s =
        .next ((((s.perturbedOn k 1 5).countSats k rid (mergePass g.sorting runs).2).passBuffer k g n
          (mergePass g.sorting runs).1).onScatter k fun h =>
            { h with phase := .merging (mergePass g.sorting runs).1 (n + 1) })) ∧
      (∀ runs n, g.phase = .merging runs n → (mergePass g.sorting runs).1.length ≤ 1 →
        let u := (s.perturbedOn k 1 5).countSats k rid (mergePass g.sorting runs).2
        (∀ c m, (mergePass g.sorting runs).1.flatten.foldlM (fun q r => Core.addTo q g r) (u.core k, 0) = some (c, m) →
          exec (.sortingFramePass k) s = .next ((u.setCore k c.groupDone).countSats k rid m) ∧
          c.groupDone.scatter = none) ∧
        ((mergePass g.sorting runs).1.flatten.foldlM (fun q r => Core.addTo q g r) (u.core k, 0) = none →
          exec (.sortingFramePass k) s = .next (u.failRun rid .badParam)))
  )

/-- Letterbox writes (R200 to R203): a write of another core that passes every check lands whole as bank requests and
changes nothing else of the letterbox but its count of acceptances; a refused one leaves the core's memory and
requests alone and ends its sender's command with ST_WINDOW_CLOSED and the check's number. DELIVERY and CONSUMED
(R203): when the last line of an accepted write has landed, its letterbox's DELIVERY rises by 1 modulo 2^32 and the
landing is gone; writes count in the order in which they finish; a RELEASE advances CONSUMED by no more than DELIVERY
− CONSUMED. -/
def Obligations.LetterboxWritesLandAndAreCounted : Prop :=
  (
    ∀ (s : State) (k : Nat) (w : BoxOffer), s.working = true → k < 6 → w.core < 6 →
      exec (.letterboxWriteArrival k w) s = .next (s.coreWrite k w) ∧
      (∀ b : BoxWrite, s.boxChecks k b ≠ 0 → b.postmark = none → ∃ t, s.offerWrite k b = (.refused (s.boxChecks k b), t) ∧
        (t.core k).pad = (s.core k).pad ∧ (t.core k).reqs = (s.core k).reqs ∧
        (t.core k).landings = (s.core k).landings) ∧
      (∀ (b : BoxWrite) (x : Letterbox), s.boxChecks k b = 0 → b.postmark = none →
        Tab.find b.box (s.core k).boxes = some x →
        ∃ t, s.offerWrite k b = (.accepted, t) ∧ t.core k = (s.core k).accept x b) ∧
      (∀ (c : Core) (x : Letterbox) (b : BoxWrite), (c.accept x b).pad = c.pad ∧
        (c.accept x b).landings.length = c.landings.length + 1 ∧ (c.accept x b).nextLanding = c.nextLanding + 1)
  ) ∧
  (
    (∀ (s : State) (k n : Nat) (l : Landing) (b : Letterbox), s.health.halt = none → k < 6 →
      (s.core k).landings.find? (fun l => l.id == n && l.linesLeft == 0) = some l →
      Tab.find l.box (s.core k).boxes = some b →
      ∃ b' t, exec (.letterboxWriteLanded k n) s = .next t ∧ b'.delivery = (b.delivery + 1) % 2 ^ 32 ∧
        b'.consumed = b.consumed ∧ b'.shape = b.shape ∧
        t = ((s.setCore k { s.core k with
          landings := (s.core k).landings.filter fun x => x.id != n
          boxes := Tab.put l.box b' (s.core k).boxes }).landed k l b').settle) ∧
    (∀ (s : State) (k n : Nat), s.health.halt = none → k < 6 →
      (s.core k).landings.find? (fun l => l.id == n && l.linesLeft == 0) = none →
      exec (.letterboxWriteLanded k n) s = .next s) ∧
    (∀ (x : Letterbox) (n : Nat), x.consumed < 2 ^ 32 → x.delivery < 2 ^ 32 → ∃ m, m ≤ n ∧
      m ≤ (x.delivery + 2 ^ 32 - x.consumed) % 2 ^ 32 ∧ (x.release n).consumed = (x.consumed + m) % 2 ^ 32 ∧
      (x.release n).delivery = x.delivery)
  )

/-- Banks (R187, R194, R206 to R208): a bank grants the waiting access of the lowest class and requester, whose bytes
are then in its row and no other byte changed; a bank whose drain ends with no access waiting is off, one whose power-
up ends serves, and either then holds zeros in every row while every other bank keeps its bytes. Self-refresh and
refresh management (R213, R214): a stack enters self-refresh only with no stream context open and no request to it for
100 µs; an exit dates a request to the stack; refresh management changes nothing of the state. -/
def Obligations.BanksGrantAndStacksRefresh : Prop :=
  (
    ∀ (s : State) (k b : Nat), k < 6 → b < 64 →
      (∀ r, s.health.halt = none → (s.core k).granted b = some r →
        (r ∈ (s.core k).reqs ∧ r.bank = b ∧ ∀ o ∈ (s.core k).reqs, o.bank = b → o.before r = false) ∧
        exec (.bankAccessGrant k b) s = .next (((s.setCore k ((s.core k).grant r)).perturbedOn k 2 0).countCore k k 4
          (((s.core k).reqs.filter (·.bank == b)).length - 1)) ∧
        (Tab.wf 0 (s.core k).pad = true →
          (∀ j, j < r.data.length → Tab.getD 0 ((s.core k).grant r).pad (padKey b r.row + r.offset + j) = r.data.getD j 0) ∧
          (∀ y, y < padKey b r.row + r.offset ∨ padKey b r.row + r.offset + r.data.length ≤ y →
            Tab.getD 0 ((s.core k).grant r).pad y = Tab.getD 0 (s.core k).pad y))) ∧
      (Tab.getD .off (s.core k).banks b = .draining → (∀ r ∈ (s.core k).reqs, r.bank ≠ b) →
        (s.core k).bankUsed b = false → exec (.bankDrainComplete k b) s = .next ((s.setCore k { s.core k with
          banks := Tab.put b .off (s.core k).banks
          pad := clearBytes (s.core k).pad (padKey b 0) (24576 * 64) }).count k 6)) ∧
      (Tab.getD .off (s.core k).banks b = .rising → exec (.bankPowerUpComplete k b) s = .next
        (((((s.setCore k { s.core k with
          banks := Tab.put b .on (s.core k).banks
          pad := clearBytes (s.core k).pad (padKey b 0) (24576 * 64) }).count k 7).onCore k fun c =>
            c.drainUnused (s.alwaysOn k)).finishLoads).settle)) ∧
      (∀ m : ByteStore, Tab.wf 0 m = true → ∀ y,
        Tab.getD 0 (clearBytes m (padKey b 0) (24576 * 64)) y =
          if b * (24576 * 64) ≤ y ∧ y < (b + 1) * (24576 * 64) then 0 else Tab.getD 0 m y)
  ) ∧
  (
    ∀ (s : State) (n : Nat), n < 16 →
      (s.working = true → s.streams = [] → n ∉ s.refreshing → Tab.getD 0 s.memUsed n + 100000 ≤ s.now →
        ∃ t, exec (.selfRefreshEntry n) s = .next t ∧ n ∈ t.refreshing ∧ (∀ k, k ∈ t.refreshing → k = n ∨ k ∈ s.refreshing) ∧
          t = { s with refreshing := t.refreshing }) ∧
      (s.streams ≠ [] ∨ s.now < Tab.getD 0 s.memUsed n + 100000 → exec (.selfRefreshEntry n) s = .next s) ∧
      (n ∈ s.refreshing → exec (.selfRefreshExit n) s = .next
        { s with refreshing := s.refreshing.filter (· != n), memUsed := Tab.put n s.now s.memUsed }) ∧
      exec (.refreshManagementRequest n) s = .next s
  )

/-! ### Cascades and links -/

/-- A port's link events (R339, R357, R358, R361, R364, R365, R413): training brings a link up with the highest shared
PLink version, every far buffer free and its pools leased, or leaves it down and counts why; a replay is due 1 µs
after the last progress and the seventeenth retrains; a retrained link goes on with its SEQ and replay buffer, or is
down after 5 ms; a link lost tells GST_EVENT; an Ethernet link coming up asks for its next hops; PCI Express reaching
L0 makes a device strapped so the master, but never one that is a member under another. Flits (R360 to R362): the
checksum of a flit covers bytes 0 to 247; a flit that fails it changes nothing but counts and one NAK, an out-of-order
one is not accepted and asks for nothing, an accepted one moves EXPECTED on by one and frees its buffer; ACK releases
from the replay buffer only flits that stand in it, and a class never has more credit than its buffers. Paths (R359):
a message reaches every device of a cascade: along the nodes by ports 7 and 8, then by one port of the node; the port
it leaves by ends at a device one step nearer, and no step leaves the shape. -/
def Obligations.LinksTrainAcceptAndRouteFlits : Prop :=
  (
    ∀ (s : State) (p : Nat), p < 16 →
      (∀ h : PeerHello, s.linking = true → (s.port p).ethernet = false → (s.port p).up = false →
        (portPeer s.cascade.device p ≠ some h.device ∨ h.certificateOk = false ∨ h.serialOk = false →
          exec (.plinkLinkUp p h) s = .next (s.miswired p)) ∧
        (portPeer s.cascade.device p = some h.device → h.certificateOk = true → h.serialOk = true →
          (sharedPlink h = none → exec (.plinkLinkUp p h) s = .next (s.count (22 + p) 5)) ∧
          (∀ v, sharedPlink h = some v → exec (.plinkLinkUp p h) s = .next ((s.setPort p { s.port p with
            up := true, trainings := (s.port p).trainings + 1
            link := some (Link.fresh s.cascade.device s.now (s.port p).trainings v h) }).count 49 3)))) ∧
      (∀ l, (s.port p).link = some l → l.ackTime + 1000 ≤ s.now → l.retraining = false → l.replay ≠ [] →
        (l.replays < 16 → exec (.replayTimeout p) s = .next (((s.onPort p fun x => { x with
          link := some { l with ackTime := s.now, replays := l.replays + 1 } }).replayAll p).count (22 + p) 1)) ∧
        (16 ≤ l.replays → exec (.replayTimeout p) s = .next ((s.onPort p fun x => { x with
          link := some { l with ackTime := s.now, retraining := true } }).count (22 + p) 3))) ∧
      (∀ l, (s.port p).link = some l → l.retraining = true →
        (s.now ≤ l.ackTime + 5000000 → exec (.linkRetrainEnd p true) s = .next (State.pump p 1024 (s.onPort p fun x =>
          { x with link := some { l with retraining := false, replays := 0, ackTime := s.now } }))) ∧
        (l.ackTime + 5000000 ≤ s.now → exec (.linkRetrainEnd p false) s = .next (s.linkDown p)) ∧
        (s.now < l.ackTime + 5000000 → exec (.linkRetrainEnd p false) s = .next s)) ∧
      (s.standby = true → (s.port p).up = true → ∃ t, exec (.portLinkDown p) s = .next t ∧ t.health.events =
        s.health.events ||| 2 ^ 6 ∧ ((s.port p).link = none → (t.port p).up = false ∧ t.cascade = s.cascade)) ∧
      (s.linking = true → (s.port p).ethernet = true → (s.port p).up = false → exec (.ethernetLinkUp p) s =
        .next (((s.setPort p { s.port p with up := true }).count (6 + p) 6).askHops p)) ∧
      (s.standby = true → ∃ t, exec .pcieLinkL0 s = .next t ∧
        t.isMaster = (s.cascade.masterSel && s.cascade.master.all (· == s.cascade.device)) ∧
        t = { s with cascade := t.cascade })
  ) ∧
  (
    (∀ (s : State) (p : Nat) (raw : Bytes), p < 16 → s.working = true →
      exec (.flitReceive p raw) s = .next (s.flit p raw).revokeTraffic) ∧
    (∀ (s : State) (p : Nat) (raw : Bytes) (l : Link), (s.port p).link = some l →
      crc64 (slice raw 0 248) ≠ leAt raw 248 8 →
      (l.version < 0x11 ∨ l.nakSent = true → s.flit p raw = s.count (22 + p) 0) ∧
      (0x11 ≤ l.version → l.nakSent = false → s.flit p raw = (((s.count (22 + p) 0).onPort p fun x =>
        { x with link := some { l with nakSent := true } }).count (22 + p) 2).sendIdle p true)) ∧
    (∀ (s : State) (p : Nat) (raw : Bytes) (l : Link), (s.port p).link = some l →
      crc64 (slice raw 0 248) = leAt raw 248 8 → field (leAt (slice raw 0 248) 0 8) 3 0 ≠ 0 →
      field (leAt (slice raw 0 248) 0 8) 19 8 ≠ l.expected → bitOf (leAt (slice raw 0 248) 0 8) 6 = false →
      ∃ m, ((s.flit p raw).port p).link = some m ∧ m.expected = l.expected ∧ m.partials = l.partials ∧
        m.nakSent = l.nakSent ∧ (s.flit p raw).cascade = s.cascade) ∧
    (∀ (s : State) (p cls : Nat) (b : Bytes) (l : Link), (s.port p).link = some l →
      s.acceptFlit p 2 cls b = s.onPort p fun x => { x with link := some { l with
        expected := (l.expected + 1) % 4096, nakSent := false, freed := l.freed.set cls (l.freed.getD cls 0 + 1)
        partials := l.partials.set cls (l.partials.getD cls [] ++ [b]) } }) ∧
    (∀ (l : Link) (now ack cc credit : Nat) (counts : Bool), ack < 4096 → l.ackSeq < 4096 →
      let t := l.take now ack counts cc credit
      t.ackSeq < 4096 ∧ (∃ n, n ≤ l.replay.length ∧ t.replay = l.replay.drop n ∧ t.ackSeq = (l.ackSeq + n) % 4096) ∧
      (∀ n, n ≤ l.replay.length → l.replay.length < 4096 → ack = (l.ackSeq + n) % 4096 → t.replay = l.replay.drop n) ∧
      (∀ c, (∀ d, l.credits.getD d 0 ≤ classBuffers.getD d 0) → t.credits.getD c 0 ≤ classBuffers.getD c 0) ∧
      (counts = false → t.credits = l.credits) ∧ t.poolExpiry = l.poolExpiry.map fun _ => now + 10000000)
  ) ∧
  (
    ∀ here there, here < 64 → there < 64 → here ≠ there → ∃ d, portPeer here (nextPort here there) = some d ∧ d < 64 ∧
      (there / 8 < here / 8 → d = here - 8) ∧ (here / 8 < there / 8 → d = here + 8) ∧
      (here / 8 = there / 8 → d = there)
  )

/-- Relayed commands (R366, R367, R375): a RELAY_CMD of the cascade's master is taken into flight here as one of the
function it names, after the checks of its target; from any other device, or once that master is lost, it is
discarded; a RELAY_REPLY ends the command at the master with the target's status, DETAIL and times. Remote letterbox
writes and their answers (R258, R259, R369): a write is answered with 1 and its check's number where it is refused,
with 2 where it is a duplicate, and only after it has landed where it is accepted, which renews its lease; an answer
ends the sender's command with ST_WINDOW_CLOSED, sets its notice, or gives its claim back (that it is the command at
work on the core named is the model's, log entry 34). -/
def Obligations.RelayedCommandsAndRemoteWritesAreAnswered : Prop :=
  (
    ∀ (s t : State) (m : Message), s.working = true →
      (s.takeArrived (fun m => m.type == 1) = some (m, t) →
        (s.cascade.master = some m.srcDevice → s.cascade.masterLost = false →
          let k := decodePacket (slice m.payload 0 64)
          exec .relayCmd s = .next (t.takeCmd (m.arg % 8) (some (m.srcDevice, field m.arg 63 8)) k (some (m.payload.drop 64))
            (if (findOpcode k.opcode).isNone then some .badOpcode else if 6 < m.arg % 8 then some .badParam
              else t.relayTransport (m.arg % 8) k))) ∧
        (s.cascade.master ≠ some m.srcDevice ∨ s.cascade.masterLost = true → exec .relayCmd s = .next t)) ∧
      (s.takeArrived (fun m => m.type == 2) = some (m, t) →
        (∀ c, s.cmd (field m.arg 63 8) = some c → c.phase = .relayed → c.packet.target = m.srcDevice →
          c.fn = m.arg % 8 → ∃ u d, exec .relayReply s = .next u ∧ u.cmd (field m.arg 63 8) = some d ∧ d.phase = .ended ∧
            d.status = leAt m.payload 4 2 ∧ d.detail = leAt m.payload 8 8 % 2 ^ 64 ∧ d.accepted = leAt m.payload 16 8 ∧
            d.doneAt = leAt m.payload 24 8) ∧
        ((s.cmd (field m.arg 63 8) = none ∨ ∃ c, s.cmd (field m.arg 63 8) = some c ∧ c.phase ≠ .relayed) →
          exec .relayReply s = .next t))
  ) ∧
  (
    ∀ (s t : State) (m : Message), s.working = true →
      (s.takeArrived (fun m => m.type == 3) = some (m, t) →
        (6 ≤ m.dstCore → exec .lbWrite s =
          .next (t.send (t.boxAck m.dstCore m.srcDevice m.srcCore m.box m.postmark 0x101))) ∧
        (m.dstCore < 6 → ∀ a u, t.offerWrite m.dstCore {
              sender := if t.senderHolds m.dstCore m then m.arg % 2 ^ 16 else 0, box := m.box, offset := m.offset
              data := m.payload, postmark := if m.postmark = 0 then none else some m.postmark
              teller := .peer m.srcDevice m.srcCore m.box m.postmark } = (a, u) →
          (a = .accepted → exec .lbWrite s = .next (u.renewBox m.dstCore m.box m.srcDevice)) ∧
          (∀ d, a = .refused d → exec .lbWrite s =
            .next (u.send (u.boxAck m.dstCore m.srcDevice m.srcCore m.box m.postmark (1 + d * 2 ^ 8)))) ∧
          (a = .duplicate → exec .lbWrite s =
            .next (u.send (u.boxAck m.dstCore m.srcDevice m.srcCore m.box m.postmark 2))))) ∧
      (s.takeArrived (fun m => m.type == 4) = some (m, t) → m.dstCore < 6 →
        (∀ rid, (s.core m.dstCore).running.run = some rid →
          (m.arg % 4 = 0 → exec .lbAck s = .next (t.releaseMark m.dstCore m.postmark)) ∧
          (m.arg % 4 = 1 → exec .lbAck s = .next (t.failRun rid .windowClosed (field m.arg 15 8))) ∧
          (m.arg % 4 = 2 → exec .lbAck s = .next (t.notice rid 5))) ∧
        ((s.core m.dstCore).running.run = none → exec .lbAck s = .next t))
  )

/-- Dispatch counters (R254 to R256, R368, Table 17-5): a claim of the armed generation takes the lowest reissued
value, then the next new one below the limit, and finds the list exhausted after the last; one of the next generation
is held; a claim given back or revoked is outstanding no longer, and a revoked value is issued again. Leases (R370 to
R374, Table 17-7): a member's renewal lets its live leases run 10 ms from now and no expired or revoked one; renewals
go to every other member each millisecond; a letterbox lease at its expiry is revoked and counted; a holder told of a
revoked lease ends what it held. -/
def Obligations.CountersAndLeasesKeepTheirRules : Prop :=
  (
    (∀ (c : Counter) (now gen sweep : Nat) (w : Claimer), c.armed = true → gen = c.generation → c.ganged = false →
      c.outstanding.length < 1024 →
      (∀ v rest, c.reissue = v :: rest → (c.claim true now w gen sweep).1 = .value v ∧
        (c.claim true now w gen sweep).2.reissue = rest ∧ (c.claim true now w gen sweep).2.value = c.value) ∧
      (c.reissue = [] → c.value < c.limit → (c.claim true now w gen sweep).1 = .value c.value ∧
        (c.claim true now w gen sweep).2.value = c.value + 1) ∧
      (c.reissue = [] → c.limit ≤ c.value → c.claim true now w gen sweep = (.exhausted, c)) ∧
      (∀ v, (c.claim true now w gen sweep).1 = .value v → (c.claim true now w gen sweep).2.outstanding =
        c.outstanding ++ [Claim.mk v w.device w.core w.array (now + 10000000)])) ∧
    (∀ (c : Counter) (now gen sweep : Nat) (w : Claimer), c.armed = false ∨ gen = (c.generation + 1) % 2 ^ 16 →
      gen ≠ c.generation ∨ c.armed = false → (c.claim true now w gen sweep).1 = .held) ∧
    (∀ (s t : State) (m : Message), s.working = true →
      (s.takeArrived (fun m => m.type == 5) = some (m, t) → 72 ≤ m.arg % 256 →
        (s.counter (m.arg % 256)).owner = m.partition → ∀ a u,
        t.claim (m.arg % 256) { device := m.srcDevice, core := m.srcCore, array := field m.arg 30 24 } (field m.arg 23 8) 0 =
            (a, u) →
          exec .plinkClaim s = .next (u.answerClaim (m.arg % 256)
            { device := m.srcDevice, core := m.srcCore, array := field m.arg 30 24 } (field m.arg 23 8) a)) ∧
      (s.takeArrived (fun m => m.type == 6) = some (m, t) → m.dstCore < 6 → ∀ rid i e,
        s.layerOn m.dstCore = some (rid, i, e) → ((s.core m.dstCore).array (m.offset % 128)).claiming = true →
        e.claimsShared = true → e.layer.homeDevice = m.srcDevice →
        exec .claimReply s = .next (t.answerArray m.dstCore (m.offset % 128) e.layer.counter e.generation
          (if bitOf m.arg 32 then .exhausted else .value (m.arg % 2 ^ 32)))) ∧
      (s.takeArrived (fun m => m.type == 7) = some (m, t) → bitOf m.arg 40 = false → 72 ≤ m.arg % 256 →
        (s.counter (m.arg % 256)).outstanding.any
          (fun o => o.value == field m.arg 39 8 && o.device == m.srcDevice) = true →
        exec .plinkRelease s = .next ((t.setCounter (m.arg % 256)
          ((t.counter (m.arg % 256)).release (field m.arg 39 8))).serveHeld (m.arg % 256)))) ∧
    (∀ (v : Nat) (l : List Nat), (insertValue v l).Perm (v :: l) ∧
      (l.Pairwise (· ≤ ·) → (insertValue v l).Pairwise (· ≤ ·)))
  ) ∧
  (
    (∀ (s t : State) (m : Message), s.working = true → s.takeArrived (fun m => m.type == 9) = some (m, t) →
      (bitOf m.arg 40 = false → exec .renew s = .next (t.renewFrom m.srcDevice)) ∧
      (bitOf m.arg 40 = true → exec .renew s = .next (t.renewClaimOf m.srcDevice (m.arg % 256) (field m.arg 39 8)))) ∧
    (∀ (s : State) (d : Nat), (s.renewFrom d).leases.length = s.leases.length ∧
      ∀ (i : Nat) (l : Lease), s.leases[i]? = some l → ∃ r, (s.renewFrom d).leases[i]? = some r ∧ r.holder = l.holder ∧
        r.resource = l.resource ∧ r.revoked = l.revoked ∧
        r.expiry = (if l.holder = d ∧ l.revoked = false ∧ s.now < l.expiry then s.now + 10000000 else l.expiry)) ∧
    (∀ s : State, s.working = true → s.inCascade = true →
      (s.cascade.renewAt ≤ s.now → exec .renewTimer s =
        .next (({ s with cascade := { s.cascade with renewAt := s.cascade.renewAt + 1000000 } }).sendAll fun d =>
          Message.plain 9 s.cascade.device d 0 [])) ∧
      (s.now < s.cascade.renewAt → exec .renewTimer s = .next s)) ∧
    (∀ s : State, s.working = true → s.counters = [] → s.ports = [] →
      ((∀ l ∈ s.leases, s.now < l.expiry) → exec .leaseExpiry s = .next s) ∧
      (∀ l, s.leases = [l] → l.kind = 1 → l.revoked = false → l.expiry ≤ s.now → bitOf s.cascade.lost l.holder = true →
        s.waitsOn (l.resource / 2 ^ 8) (l.resource % 2 ^ 8) = none →
        exec .leaseExpiry s = .next ({ s with leases := [{ l with revoked := true }] }.count 46 1))) ∧
    (∀ (s t : State) (m : Message), s.working = true → s.takeArrived (fun m => m.type == 10) = some (m, t) →
      (m.arg % 8 = 4 → exec .revoked s = .next (t.endBucket (field m.arg 57 32 % 2 ^ 12)
        (if bitOf m.arg 3 then .badParam else .leaseRevoked))) ∧
      (m.arg % 8 = 1 → exec .revoked s = .next t) ∧
      (m.arg % 8 = 2 → (∀ k, k < 6 → s.layerOn k = none ∧ (s.core k).tail = none) → exec .revoked s = .next t))
  )

/-- JOIN_CASCADE (R330, R356, R357, R376): from a device that is not the master, without itself, with a mask of
another shape, without a member that is present, or with a TIMEOUT out of range it ends with ST_BAD_PARAM; otherwise
the first phase begins: the join waits for every other device named until TIMEOUT, and each is sent MEMBER event 2.
The order of events and the place of TIMEOUT in it are the model's (log entry 35). LEAVE_CASCADE (R330): only the
master, only for members, and for itself only when it names all; the leavers are told, removed with their leases, and
the command returns the versions of those who stay (log entry 35 for its parameters and messages). LEASE_REVOKE (R331,
R372): a device number, KIND or home outside the cascade, or a member that is not the master, ends it with
ST_BAD_PARAM; where this device is the only home, the named leases of the holder are revoked at once and their number
is returned. -/
def Obligations.CascadeCommandsAskEveryMember : Prop :=
  (
    ∀ (s : State) (id : Nat) (c : Cmd), s.Starts id 0x0501 c → s.cascade.join = none →
      let members := leAt c.params 0 8
      let timeout := leAt c.params 8 4
      let others := members ^^^ 2 ^ s.cascade.device
      (s.isMaster = false ∨ bitOf members s.cascade.device = false ∨ cascadeShape members = false ∨ timeout = 0 ∨
          60000 < timeout →
        exec (.joinCascade id) s = .next ((s.started id c).fail id .badParam)) ∧
      (s.isMaster = true → bitOf members s.cascade.device = true → cascadeShape members = true → 1 ≤ timeout →
          timeout ≤ 60000 → members &&& (s.cascade.members &&& (2 ^ 64 - 1 ^^^ s.cascade.lost)) =
            s.cascade.members &&& (2 ^ 64 - 1 ^^^ s.cascade.lost) →
        exec (.joinCascade id) s = .next ((bitsOf 64 others).foldl (fun t d =>
            t.send (Message.plain 11 t.cascade.device d (2 + d * 2 ^ 8 + timeout * 2 ^ 32) (leBytes 8 members)))
          { s.started id c with cascade := { s.cascade with join := some {
              cmd := id, members := members, waiting := others, refused := 0, deadline := s.now + timeout * 1000000,
              versions := 0 } } }))
  ) ∧
  (
    ∀ (s : State) (id : Nat) (c : Cmd), s.Starts id 0x0502 c →
      let gone := leAt c.params 0 8
      let all := s.cascade.members
      let versions := s.lowestOf (all &&& (2 ^ 64 - 1 ^^^ gone))
      (s.isMaster = false ∨ gone = 0 ∨ gone &&& all ≠ gone ∨ (bitOf gone s.cascade.device = true ∧ gone ≠ all) →
        exec (.leaveCascade id) s = .next ((s.started id c).fail id .badParam)) ∧
      (s.isMaster = true → gone ≠ 0 → gone &&& all = gone → bitOf gone s.cascade.device = false ∨ gone = all →
        exec (.leaveCascade id) s = .next
          ((((s.started id c).sendAll fun d =>
              Message.plain 11 s.cascade.device d (4 + d * 2 ^ 8 + versions * 2 ^ 32) (leBytes 8 gone)).removeMembers
            (if bitOf gone s.cascade.device then gone ^^^ 2 ^ s.cascade.device else gone) versions).complete id versions))
  ) ∧
  (
    ∀ (s : State) (id : Nat) (c : Cmd), s.Starts id 0x0504 c →
      let d := leAt c.params 0 1; let kind := leAt c.params 1 1; let res := leAt c.params 4 4
      (64 ≤ d ∨ 4 < kind ∨ (s.inCascade = true ∧ s.isMaster = false) ∨
          (res ≠ 0xFFFFFFFF ∧ bitOf s.participants (res / 2 ^ 26) = false) →
        exec (.leaseRevoke id) s = .next ((s.started id c).fail id .badParam)) ∧
      (d < 64 → kind ≤ 4 → s.inCascade = false → res = 0xFFFFFFFF → s.cascade.device < 64 →
        ∀ n t, (s.started id c).revokeNamed d kind res true = (n, t) →
          exec (.leaseRevoke id) s = .next (t.complete id n))
  )

/-- Joining (R330, R357, R376, R377; the events' numbers 6 and 7 and the order of a reply's bytes are the model's, log
entry 35): an accepting device is prepared until its time and reports itself, a refusing one only answers; a commit of
what was prepared makes it a member under that master; the last acceptance completes the join for all, one refusal or
silence ends it for all. Leaving and losing members (R330, R373 to R375): a member its master names leaves, and keeps
all else where no command of the master is in flight there; another sees the leavers go; a member unheard for 10 ms is
marked lost; the first notice of a loss marks the device, is counted and ends what depends on it, and a second changes
nothing; a device told of its own loss belongs to no cascade; a lost master ends the commands it relayed. -/
def Obligations.CascadesFormAndLoseMembers : Prop :=
  (
    (∀ (s t : State) (m : Message), s.working = true →
      (s.takeArrived (fun m => m.type == 11 && m.arg % 256 == 2) = some (m, t) →
        (s.acceptsJoin m.srcDevice (leAt m.payload 0 8) = true → exec .memberPrepare s = .next
          (({ t with cascade := { t.cascade with
                prepared := some ⟨m.srcDevice, leAt m.payload 0 8, s.now + field m.arg 63 32 * 1000000⟩ } }).send (Message.plain 11 s.cascade.device m.srcDevice
                (6 + s.cascade.device * 2 ^ 8) s.report))) ∧
        (s.acceptsJoin m.srcDevice (leAt m.payload 0 8) = false → exec .memberPrepare s = .next
          (t.send (Message.plain 11 s.cascade.device m.srcDevice (7 + s.cascade.device * 2 ^ 8) [])))) ∧
      (s.takeArrived (fun m => m.type == 11 && m.arg % 256 == 3) = some (m, t) → ∀ q, s.cascade.prepared = some q →
        (q.master = m.srcDevice → q.members = leAt m.payload 0 8 → s.now < q.until_ → ∃ u, exec .memberCommit s = .next u ∧
          u.cascade.members = q.members ∧ u.cascade.master = some m.srcDevice ∧ u.cascade.prepared = none ∧
          u.cascade.versions = field m.arg 63 32 ∧ u = { t with cascade := u.cascade }) ∧
        (s.isMaster = false → q.until_ ≤ s.now → exec .memberCommit s = .next t)) ∧
      (s.takeArrived (fun m => m.type == 11 && (m.arg % 256 == 6 || m.arg % 256 == 7)) = some (m, t) →
        ∀ j, s.cascade.join = some j → bitOf j.waiting m.srcDevice = true →
        (j.waiting = 2 ^ m.srcDevice → j.refused = 0 → m.arg % 256 = 6 → exec .joinReply s = .next
          (({ t with cascade := { t.cascade.learn m.srcDevice m.payload with join := none } }).commitJoin
            { j with waiting := 0 })) ∧
        (j.waiting = 2 ^ m.srcDevice → m.arg % 256 = 7 → exec .joinReply s = .next
          (({ t with cascade := { t.cascade with join := none } }).fail j.cmd .badParam (j.refused ||| 2 ^ m.srcDevice))))) ∧
    (∀ s : State,
      (∀ j, s.cascade.join = some j → (j.deadline ≤ s.now → exec .joinTimeout s =
          .next (({ s with cascade := { s.cascade with join := none } }).fail j.cmd .peerLost j.waiting)) ∧
        (s.now < j.deadline → exec .joinTimeout s = .next s)) ∧
      (∀ q, s.cascade.prepared = some q → (q.until_ ≤ s.now → exec .joinPrepareTimeout s =
          .next { s with cascade := { s.cascade with prepared := none } }) ∧
        (s.now < q.until_ → exec .joinPrepareTimeout s = .next s)))
  ) ∧
  (
    (∀ (s t : State) (m : Message), s.working = true →
      (s.takeArrived (fun m => m.type == 11 && m.arg % 256 == 4) = some (m, t) → s.cascade.master = some m.srcDevice →
        (bitOf (leAt m.payload 0 8) s.cascade.device = true → exec .memberLeave s = .next t.leave) ∧
        (bitOf (leAt m.payload 0 8) s.cascade.device = false → exec .memberLeave s =
          .next (t.removeMembers (leAt m.payload 0 8) (field m.arg 63 32)))) ∧
      (s.cascade.notices = [] → s.takeArrived (fun m => m.type == 11 && m.arg % 256 == 1) = some (m, t) →
        exec .memberLost s = .next (t.lossReported m)) ∧
      (s.cascade.notices = [] → s.takeArrived (fun m => m.type == 11 && m.arg % 256 == 5) = some (m, t) →
        exec .memberMasterLost s = .next (t.losesMaster (field m.arg 13 8)))) ∧
    (∀ s : State, s.leave.inCascade = false ∧ s.leave.cascade.master = none ∧
      ((∀ e ∈ s.cmds, e.2.relay = none) → s.leave = { s with cascade := s.leave.cascade })) ∧
    (∀ (s : State) (x : Nat) (rest : List Nat), s.working = true → s.cascade.notices = x :: rest →
      let t : State := { s with cascade := { s.cascade with notices := rest } }
      (s.cascade.master ≠ some x → exec .memberLost s = .next (t.loses x)) ∧
      (s.cascade.master = some x → exec .memberMasterLost s = .next (t.losesMaster x))) ∧
    (∀ (s : State) (d : Nat), d < 64 → s.working = true → s.isMaster = true → bitOf s.cascade.members d = true →
      (Tab.getD 0 s.cascade.heard d + 10000000 ≤ s.now → exec (.memberRenewTimeout d) s = .next (s.markLost d)) ∧
      (s.now < Tab.getD 0 s.cascade.heard d + 10000000 → exec (.memberRenewTimeout d) s = .next s)) ∧
    (∀ (s : State) (x : Nat), bitOf s.cascade.members x = false ∨ bitOf s.cascade.lost x = true ∨ x = s.cascade.device →
      s.loses x = s) ∧
    (∀ (s : State) (m : Message), field m.arg 13 8 = s.cascade.device →
      (s.lossReported m).inCascade = false ∧ (s.lossReported m).cascade.master = none)
  )

/-- REDUCE_BUCKET and its registration (R332, R379 to R381): lists the rules refuse end it with ST_BAD_PARAM, a lost
member with ST_PEER_LOST, a damaged source with its check's status, no room for the staging buffer with ST_BAD_PARAM;
otherwise the bucket stands and its registration is sent to the tag's home, where the first grants the tag, one that
agrees joins, one that differs is refused, and with every participant registered the reduction starts. Chunks of a
reduction (R382 to R390): a START of the home starts its bucket; a chunk is taken up where its bucket, partition,
stage, form and length fit and dropped where they do not; a BS16 chunk that holds −32,768 ends its command with
ST_SEAL_FAULT; and the wire's sums are what Table 18-3 says. -/
def Obligations.ReductionsRegisterAndAdd : Prop :=
  (
    (∀ (s : State) (id : Nat) (c : Cmd), s.Starts id 0x0503 c →
      let k := decodeBucketArgs c.params
      let s0 := s.started id c
      (s0.bucketOk k = false → exec (.reduceBucket id) s = .next (s0.fail id .badParam)) ∧
      (s0.bucketOk k = true →
        (∀ e u, s0.bucketLists c.part k = (u, .error e) → exec (.reduceBucket id) s = .next (u.fail id e)) ∧
        (∀ src dst u, s0.bucketLists c.part k = (u, .ok (src, dst)) →
          (u.participants &&& u.cascade.lost ≠ 0 → exec (.reduceBucket id) s = .next (u.fail id .peerLost)) ∧
          (u.participants &&& u.cascade.lost = 0 →
            (∀ e v, u.readSources c.part src = (v, .error e) →
              exec (.reduceBucket id) s = .next (v.fail id e.1 e.2)) ∧
            (∀ own v, u.readSources c.part src = (v, .ok own) → ∀ es crc w,
              v.readExponents c.part k.exponents (ceilDiv k.values 32) (k.bs16 && popCount 64 v.participants != 1) =
                (w, .ok (es, crc)) →
              let core := ((bitsOf 6 (w.part c.part).cores).head?).getD 0
              ((w.core core).staging = none → exec (.reduceBucket id) s = .next (w.fail id .badParam)) ∧
              (∀ h, (w.core core).staging = some h → exec (.reduceBucket id) s = .next (match w.openDests c.part dst with
                | some x => x.registerBucket id c.part core k h dst own es crc
                | none => w.refusal.fail id .badParam))))))) ∧
    (∀ (s : State) (id p core : Nat) (k : BucketArgs) (h : Handle) (dst : List Nat) (own es : Bytes) (crc : Nat),
      ∃ u : State, s.registerBucket id p core k h dst own es crc = u.sendReduce
          { Message.plain 8 s.cascade.device s.tagHome (reduceArg k.tag 0 k.values + bit k.bs16 * 2 ^ 15) (leBytes 8 crc) with
            partition := p } ∧
        ∃ b, Tab.find k.tag u.buckets = some b ∧ b.cmd = id ∧ b.partition = p ∧ b.values = k.values ∧ b.dests = dst ∧
          b.started = false) ∧
    (∀ (s t : State) (m : Message), s.working = true →
      s.takeArrived (fun m => m.type == 8 && field m.arg 14 12 == 0) = some (m, t) →
      let r : Registration := { device := m.srcDevice, partition := m.partition, values := field m.arg 63 32,
                                bs16 := bitOf m.arg 15, tileSeal := leAt m.payload 0 8 }
      (s.tagHome = s.cascade.device → bitOf s.participants m.srcDevice = true → exec .reduceRegister s =
        .next (State.register 64 (m.arg % 2 ^ 12) t r)) ∧
      (s.tagHome ≠ s.cascade.device ∨ bitOf s.participants m.srcDevice = false →
        exec .reduceRegister s = .next (t.dropReduce m))) ∧
    (∀ (s : State) (tag : Nat) (r : Registration),
      (Tab.find tag s.tagHomes = none → s.participants &&& (2 ^ r.device) ≠ s.participants →
        Tab.find tag (State.register 64 tag s r).tagHomes =
          some ⟨r, 2 ^ r.device, 0, s.now + 1000000000, false, []⟩) ∧
      (∀ h, Tab.find tag s.tagHomes = some h → h.running = true ∨ bitOf h.registered r.device = true →
        State.register 64 tag s r =
          { s with tagHomes := Tab.put tag { h with waiting := h.waiting ++ [r] } s.tagHomes }) ∧
      (∀ h, Tab.find tag s.tagHomes = some h → h.running = false → bitOf h.registered r.device = false →
        r.agrees h.first = true → (h.registered ||| 2 ^ r.device) &&& s.participants ≠ s.participants →
        Tab.find tag (State.register 64 tag s r).tagHomes =
          some { h with registered := h.registered ||| 2 ^ r.device })) ∧
    (∀ (s : State) (tag : Nat) (h : TagHome), Tab.find tag s.tagHomes = some h →
      (h.running = false → h.deadline ≤ s.now → exec (.registrationTimeout tag) s =
        .next (s.revokeTag tag 64 false .leaseRevoked)) ∧
      (h.running = true ∨ s.now < h.deadline → exec (.registrationTimeout tag) s = .next s))
  ) ∧
  (
    (∀ (s t : State) (m : Message), s.working = true →
      let tag := m.arg % 2 ^ 12
      (s.takeArrived (fun m => m.type == 8 && field m.arg 14 12 == 1) = some (m, t) →
        (∀ b, Tab.find tag s.buckets = some b → b.partition = m.partition → m.srcDevice = s.tagHome →
          exec .reduceStart s = .next
            (({ t with buckets := Tab.put tag { b with started := true } t.buckets }).progress tag)) ∧
        (Tab.find tag s.buckets = none → exec .reduceStart s = .next (t.dropReduce m))) ∧
      (∀ q ∈ ([(.reducePart, 2, false, [1, 2, 3, 4]), (.reduceFinal, 3, false, [5]),
          (.reduceRedo, 4, true, [1, 2, 3, 4, 5])] : List (Instr × Nat × Bool × List Nat)),
        s.takeArrived (fun m => m.type == 8 && field m.arg 14 12 == q.2.1) = some (m, t) →
        let sl := field m.arg 18 16
        let stage := field m.arg 21 19
        let c := field m.arg 26 22
        (∀ b, Tab.find tag s.buckets = some b → b.partition = m.partition → stage ∈ q.2.2.2 →
          bitOf m.arg 15 = (b.bs16 && !q.2.2.1) → b.fits q.2.2.1 sl c m.payload = true →
          (b.damaged q.2.2.1 sl c m.payload = true → exec q.1 s = .next (t.spoilBucket tag b)) ∧
          (b.damaged q.2.2.1 sl c m.payload = false → exec q.1 s = .next (({ t with
            buckets := Tab.put tag (b.takeChunk q.2.2.1 sl stage c m.srcDevice m.payload) t.buckets }).progress tag))) ∧
        (∀ b, Tab.find tag s.buckets = some b → b.partition ≠ m.partition ∨ stage ∉ q.2.2.2 ∨
            b.fits q.2.2.1 sl c m.payload = false →
          exec q.1 s = .next (t.dropReduce m)))) ∧
    (∀ v : Int, (limitBs v).1 = max (-32767) (min 32767 v) ∧ ((limitBs v).2 = true ↔ (limitBs v).1 ≠ v)) ∧
    (∀ (b : Bucket) (redo : Bool) (s c : Nat) (x y : Side), b.join redo s c none y = y ∧ b.join redo s c x none = x)
  )

/-! ### Ethernet and parcels -/

/-- Received packets (R339, R341): what a packet becomes by the classification: a counter of its port, a datagram for
a stream or channel, a question for one of the port's addresses, the address of a neighbour, a count of its channel,
or nothing; a question is answered with the port's own MAC address. The checks stand in the order FCS, control, tag
and MAC address. A stream's packet (R345): a packet whose tag fails, that repeats or precedes what was taken, or is
longer than a frame is counted and writes nothing; any other is one letterbox write of a whole frame. The packet index
is the one nearest the last that RFC 3711 gives. -/
def Obligations.PacketsAreClassifiedAndStreamsWritten : Prop :=
  (
    (∀ (s : State) (p : Nat) (k : EthPacket), p < 16 → s.linking = true → (s.port p).ethernet = true →
      (s.port p).up = true →
      (∀ i, s.classify p k = .discard i → exec (.packetReceive p k) s = .next (s.count (6 + p) i)) ∧
      (∀ a b c d, s.classify p k = .hand a b c d → exec (.packetReceive p k) s =
        .next (s.setPort p { s.port p with inbox := (s.port p).inbox ++ [(a, b, c, d)] })) ∧
      (∀ t, s.classify p k = .ask t → exec (.packetReceive p k) s =
        .next (s.setPort p { s.port p with asks := (s.port p).asks ++ [t] })) ∧
      (∀ v6 a mac, s.classify p k = .learn v6 a mac → exec (.packetReceive p k) s =
        .next (s.setPort p { s.port p with neighbours := Tab.put (hopKey v6 a) mac (s.port p).neighbours })) ∧
      (∀ ch i, s.classify p k = .tally ch i → exec (.packetReceive p k) s = .next (s.onChannel ch fun x => x.bump i)) ∧
      (s.classify p k = .pass → exec (.packetReceive p k) s = .next s) ∧
      (∀ t rest, (s.port p).asks = t :: rest → exec (.arpOrNdRequest p) s =
        .next ((s.setPort p { s.port p with asks := rest }).emit (.neighbour p t (s.port p).addressing.mac)))) ∧
    (∀ (s : State) (p : Nat) (k : EthPacket),
      (k.fcsOk = false → s.classify p k = .discard 0) ∧
      (k.fcsOk = true → k.body = .control → s.classify p k = .discard 7) ∧
      (k.fcsOk = true → k.body ≠ .control → (s.port p).addressing.tagged k.vlan = false ∨
          (s.port p).addressing.reached k.destination = false → s.classify p k = .discard 1) ∧
      (k.fcsOk = true → (s.port p).addressing.tagged k.vlan = true → (s.port p).addressing.reached k.destination = true →
        (∀ a r mac, k.body = .arp a r mac → s.classify p k = if r = false then .learn false a mac
          else if (s.port p).addressing.owns false a = true then .ask a else .pass) ∧
        (∀ a r mac, k.body = .neighbour a r mac → s.classify p k = if r = false then .learn true a mac
          else if (s.port p).addressing.owns true a = true then .ask a else .pass))) ∧
    (∀ (s : State) (p src sp dest : Nat) (d : Datagram),
      (∀ e ∈ s.streams, ¬ (e.2.desc.port = p ∧ e.2.desc.localUdp = dest)) →
      (∀ e ∈ s.channels, ¬ (e.2.port = p ∧ e.2.localUdp = dest)) → (∀ m, d ≠ .ptp m) →
      s.classifyUdp p src sp dest d = .discard 4)
  ) ∧
  (
    (∀ (s : State) (port n : Nat) (x : Stream) (p : RtpPacket), port < 16 → s.working = true →
      (∃ a b, (s.port port).inbox = [(a, b, x.desc.localUdp, .rtp p)]) → s.streams = [(n, x)] → x.desc.port = port →
      x.desc.ssrcIn = p.ssrc →
      let t := s.setPort port { s.port port with inbox := [] }
      (p.tagOk = false → exec (.rtpPacket port) s = .next (t.onStream n fun x => x.bump 0)) ∧
      (p.tagOk = true → (packetIndex x.highest p.seq).filter (fun i => x.highest.all fun h => h < i) = none →
        exec (.rtpPacket port) s = .next (t.onStream n fun x => x.bump 1)) ∧
      (∀ i, p.tagOk = true → (packetIndex x.highest p.seq).filter (fun i => x.highest.all fun h => h < i) = some i →
        (x.desc.frameLen < p.payload.length → exec (.rtpPacket port) s = .next (t.onStream n fun x => x.bump 2)) ∧
        (p.payload.length ≤ x.desc.frameLen → exec (.rtpPacket port) s =
          .next ((t.useKey x.partition x.key).writeFrame n x p i)))) ∧
    (∀ seq, seq < 2 ^ 16 → packetIndex none seq = some seq ∧ ∀ h i, packetIndex (some h) seq = some i →
      i % 2 ^ 16 = seq ∧ i ≤ h + 2 ^ 15 ∧ h ≤ i + 2 ^ 15)
  )

/-- PARCEL_ACCEPT and PARCEL_SEND (R329): a block that passes opens the channel it names, which marks its key session
as used, and the command stays in flight as long as the channel; any other block ends with ST_BAD_PARAM. Parcels
(R329, R348 to R353): a valid datagram restarts its channel's time and is handled by its type; one of another version,
or whose tag fails or length differs, is counted; a GRANT of every parcel completes the sender's command with its
tiles; a NACK under version 1.1 sends what it lists again, and a datagram a side cannot take changes nothing more. The
timers of a channel (R329, R350, R353): a GRANT that is due is sent, a parcel unacknowledged for 500 µs is sent again,
a channel with nothing valid for TIMEOUT ends its command with ST_PEER_LOST, and a finished receiver closes 10 ms
after it ended. -/
def Obligations.ParcelsOpenMoveAndLapse : Prop :=
  (
    ∀ (s : State) (id : Nat) (c : Cmd) (sending : Bool) (i : Instr),
      (sending = false ∧ i = .parcelAccept id ∧ s.Starts id 0x0210 c) ∨
        (sending = true ∧ i = .parcelSend id ∧ s.Starts id 0x0211 c) →
      let x := newChannel id c.part sending c.parcel s.now c.params
      let ch := leAt c.params 26 1
      (c.packet.byRef = true → (s.started id c).channelOk ch x = true →
        exec i s = .next (({ s.started id c with channels := Tab.put ch x s.channels }.useKey c.part x.key).askHop x.port x.v6
          x.peer)) ∧
      (c.packet.byRef = false ∨ (s.started id c).channelOk ch x = false →
        exec i s = .next ((s.started id c).fail id .badParam))
  ) ∧
  (
    ∀ (s t : State) (port ch : Nat) (x : Channel) (p : Parcel), port < 16 → s.working = true →
      ∀ q ∈ ([(.parcelData port, 1, fun x p s => s.dataParcel ch x p), (.parcelGrant port, 2, fun x p s => s.grantParcel ch x p),
          (.parcelNack port, 3, fun x p s => s.nackParcel ch x p),
          (.parcelResend port, 4, fun x p s => s.resendParcel ch x p)] :
            List (Instr × Nat × (Channel → Parcel → State → State))),
        s.takeParcel port q.2.1 = some (ch, x, p, t) →
        (p.version ≠ x.version → exec q.1 s = .next (t.onChannel ch fun x => x.bump 7)) ∧
        (p.version = x.version → p.sound = false → exec q.1 s = .next (t.onChannel ch fun x => x.bump 0)) ∧
        (p.version = x.version → p.sound = true → exec q.1 s = .next ((q.2.2 { x with lastValid := s.now } p
          (t.onChannel ch fun x => { x with lastValid := s.now })).settle)) ∧
        (x.sending = true → t.dataParcel ch x p = t) ∧
        (x.sending = false → t.grantParcel ch x p = t ∧ t.nackParcel ch x p = t ∧ t.resendParcel ch x p = t) ∧
        (x.version < 0x11 → t.nackParcel ch x p = t) ∧
        (x.sending = true → t.parcelCount x ≤ p.ack →
          t.grantParcel ch x p = ((t.onChannel ch fun c => { c with
            granted := true, credit := max c.credit p.credit, ack := max c.ack (min p.ack (t.parcelCount x))
            ackAt := if !c.granted ∨ c.ack < p.ack then t.now else c.ackAt }).complete x.cmd x.tiles).dropChannel ch)
  ) ∧
  (
    ∀ (s : State) (ch : Nat) (x : Channel), ch < 64 → s.working = true → Tab.find ch s.channels = some x →
      (x.sending = false → ∀ a, x.grantAt = some a →
        (a ≤ s.now → exec (.grantTimer ch) s = .next (s.sendGrant ch)) ∧
        (s.now < a → exec (.grantTimer ch) s = .next s)) ∧
      (x.sending = true → x.ack < x.nextSeq →
        (x.ackAt + 500000 ≤ s.now → exec (.retransmitTimeout ch) s =
          .next ((s.onChannel ch fun x => { x with ackAt := s.now }).sendAgain ch [x.ack])) ∧
        (s.now < x.ackAt + 500000 → exec (.retransmitTimeout ch) s = .next s)) ∧
      (x.finished = false →
        (x.lastValid + 1000 * x.timeout ≤ s.now → exec (.channelTimeout ch) s =
          .next ((s.fail x.cmd .peerLost).dropChannel ch)) ∧
        (s.now < x.lastValid + 1000 * x.timeout → exec (.channelTimeout ch) s = .next s)) ∧
      (x.finished = true →
        (x.finalUntil ≤ s.now → exec (.finalGrantWindowEnd ch) s = .next (s.dropChannel ch)) ∧
        (s.now < x.finalUntil → exec (.finalGrantWindowEnd ch) s = .next s))
  )
end

