-- ==== Sys2Proof/Laws/Tab.lean ====
section
/-! SUPPORT. The laws of the sparse tables and byte stores: what a put, an erase and a write leave, and that
each keeps the canonical form. -/

namespace Sys2Proof.Machine.Tab

variable {β : Type}

theorem rising_cons {a : Nat} {v : β} {t : Table β} :
    rising ((a, v) :: t) = true ↔ (∀ e ∈ t, a < e.1) ∧ rising t = true := by
  induction t generalizing a v with
  | nil => simp [rising]
  | cons e t ih =>
    obtain ⟨b, w⟩ := e
    simp only [rising, Bool.and_eq_true, decide_eq_true_eq, List.mem_cons, forall_eq_or_imp]
    rw [ih]
    constructor
    · rintro ⟨h, h1, h2⟩
      exact ⟨⟨h, fun e he => Nat.lt_trans h (h1 e he)⟩, h1, h2⟩
    · rintro ⟨⟨h, _⟩, h1, h2⟩
      exact ⟨h, h1, h2⟩

theorem mem_put {k : Nat} {v : β} {t : Table β} {e : Nat × β} (h : e ∈ put k v t) : e = (k, v) ∨ e ∈ t := by
  induction t with
  | nil => exact .inl (List.mem_singleton.mp h)
  | cons d t ih =>
    obtain ⟨a, w⟩ := d
    simp only [put] at h
    split at h
    · exact List.mem_cons.mp h
    · split at h
      · rcases List.mem_cons.mp h with h | h
        · exact .inl h
        · exact .inr (List.mem_cons_of_mem _ h)
      · rcases List.mem_cons.mp h with h | h
        · exact .inr (h ▸ List.mem_cons_self)
        · exact (ih h).imp_right (List.mem_cons_of_mem _)

/-- A put keeps the keys rising. -/
theorem rising_put {k : Nat} {v : β} {t : Table β} (h : rising t = true) : rising (put k v t) = true := by
  induction t with
  | nil => rfl
  | cons d t ih =>
    obtain ⟨a, w⟩ := d
    obtain ⟨h1, h2⟩ := rising_cons.mp h
    simp only [put]
    split
    · next hk =>
      refine rising_cons.mpr ⟨fun e he => ?_, h⟩
      rcases List.mem_cons.mp he with rfl | he
      · exact hk
      · exact Nat.lt_trans hk (h1 e he)
    · split
      · next hk => exact rising_cons.mpr ⟨hk ▸ h1, h2⟩
      · refine rising_cons.mpr ⟨fun e he => ?_, ih h2⟩
        rcases mem_put he with rfl | he
        · show a < k
          omega
        · exact h1 e he

theorem mem_erase {k : Nat} {t : Table β} {e : Nat × β} (h : e ∈ erase k t) : e ∈ t := by
  induction t with
  | nil => exact h
  | cons d t ih =>
    obtain ⟨a, w⟩ := d
    simp only [erase] at h
    split at h
    · exact List.mem_cons_of_mem _ h
    · rcases List.mem_cons.mp h with h | h
      · exact h ▸ List.mem_cons_self
      · exact List.mem_cons_of_mem _ (ih h)

/-- An erase keeps the keys rising. -/
theorem rising_erase {k : Nat} {t : Table β} (h : rising t = true) : rising (erase k t) = true := by
  induction t with
  | nil => rfl
  | cons d t ih =>
    obtain ⟨a, w⟩ := d
    obtain ⟨h1, h2⟩ := rising_cons.mp h
    simp only [erase]
    split
    · exact h2
    · exact rising_cons.mpr ⟨fun e he => h1 e (mem_erase he), ih h2⟩

/-- A filter keeps the keys rising. -/
theorem rising_filter {p : Nat × β → Bool} {t : Table β} (h : rising t = true) : rising (t.filter p) = true := by
  induction t with
  | nil => rfl
  | cons d t ih =>
    obtain ⟨a, w⟩ := d
    obtain ⟨h1, h2⟩ := rising_cons.mp h
    simp only [List.filter]
    split
    · exact rising_cons.mpr ⟨fun e he => h1 e ((List.mem_filter.mp he).1), ih h2⟩
    · exact ih h2

/-- What is put at a key is found there. -/
@[simp] theorem find_put_self (k : Nat) (v : β) (t : Table β) : find k (put k v t) = some v := by
  induction t with
  | nil => simp [put, find]
  | cons d t ih =>
    obtain ⟨a, w⟩ := d
    simp only [put]
    split
    · simp [find]
    · split
      · simp [find]
      · next h1 h2 => simp [find, ih, Ne.symm h2]

/-- A put at one key leaves every other. -/
@[simp] theorem find_put_ne {j k : Nat} (h : j ≠ k) (v : β) (t : Table β) : find j (put k v t) = find j t := by
  induction t with
  | nil => simp [put, find, Ne.symm h]
  | cons d t ih =>
    obtain ⟨a, w⟩ := d
    simp only [put]
    split
    · simp [find, Ne.symm h]
    · split
      · next h2 => subst h2; simp [find, Ne.symm h]
      · simp [find, ih]

/-- An erase at one key leaves every other. -/
@[simp] theorem find_erase_ne {j k : Nat} (h : j ≠ k) (t : Table β) : find j (erase k t) = find j t := by
  induction t with
  | nil => rfl
  | cons d t ih =>
    obtain ⟨a, w⟩ := d
    simp only [erase]
    split
    · next h2 => subst h2; simp [find, Ne.symm h]
    · simp [find, ih]

theorem find_none_of_lt {k : Nat} {t : Table β} (h : ∀ e ∈ t, k < e.1) : find k t = none := by
  induction t with
  | nil => rfl
  | cons d t ih =>
    obtain ⟨a, w⟩ := d
    have ha : k < a := h (a, w) List.mem_cons_self
    simp only [find]
    rw [if_neg (by omega), ih fun e he => h e (List.mem_cons_of_mem _ he)]

/-- Nothing is found at an erased key. -/
theorem find_erase_self {k : Nat} {t : Table β} (h : rising t = true) : find k (erase k t) = none := by
  induction t with
  | nil => rfl
  | cons d t ih =>
    obtain ⟨a, w⟩ := d
    obtain ⟨h1, h2⟩ := rising_cons.mp h
    simp only [erase]
    split
    · next hk => exact find_none_of_lt (hk ▸ h1)
    · next hk => simp [find, hk, ih h2]

theorem mem_of_find {k : Nat} {v : β} {t : Table β} (h : find k t = some v) : (k, v) ∈ t := by
  induction t with
  | nil => simp [find] at h
  | cons d t ih =>
    obtain ⟨a, w⟩ := d
    simp only [find] at h
    split at h
    · next hk => cases h; subst hk; exact List.mem_cons_self
    · exact List.mem_cons_of_mem _ (ih h)

@[simp] theorem getD_put_self (d : β) (t : Table β) (k : Nat) (v : β) : getD d (put k v t) k = v := by
  simp [getD]

@[simp] theorem getD_put_ne (d : β) (t : Table β) {j k : Nat} (v : β) (h : j ≠ k) :
    getD d (put k v t) j = getD d t j := by
  simp [getD, h]

/-- Putting a value over an entry found keeps the set of keys below a bound. -/
theorem all_put {p : Nat → Bool} {k : Nat} {v : β} {t : Table β} (hk : p k = true)
    (h : t.all (fun e => p e.1) = true) : (put k v t).all (fun e => p e.1) = true := by
  rw [List.all_eq_true] at h ⊢
  intro e he
  rcases mem_put he with rfl | he
  · exact hk
  · exact h e he

section
variable [DecidableEq β]

theorem wf_iff {d : β} {t : Table β} : wf d t = true ↔ rising t = true ∧ ∀ e ∈ t, e.2 ≠ d := by
  simp [wf, List.all_eq_true]

/-- Setting a value keeps the canonical form. -/
theorem wf_setD {d : β} {t : Table β} {k : Nat} {v : β} (h : wf d t = true) : wf d (setD d t k v) = true := by
  obtain ⟨h1, h2⟩ := wf_iff.mp h
  unfold setD
  split
  · exact wf_iff.mpr ⟨rising_erase h1, fun e he => h2 e (mem_erase he)⟩
  · next hv =>
    refine wf_iff.mpr ⟨rising_put h1, fun e he => ?_⟩
    rcases mem_put he with rfl | he
    · exact hv
    · exact h2 e he

/-- Dropping entries keeps the canonical form. -/
theorem wf_filter {d : β} {t : Table β} {p : Nat × β → Bool} (h : wf d t = true) : wf d (t.filter p) = true := by
  obtain ⟨h1, h2⟩ := wf_iff.mp h
  exact wf_iff.mpr ⟨rising_filter h1, fun e he => h2 e ((List.mem_filter.mp he).1)⟩

/-- What is set at a key is read there. -/
theorem getD_setD_self {d : β} {t : Table β} {k : Nat} {v : β} (h : rising t = true) :
    getD d (setD d t k v) k = v := by
  unfold setD getD
  split
  · next hv => simp [find_erase_self h, hv]
  · simp

/-- Setting one key leaves every other as it reads. -/
theorem getD_setD_ne {d : β} {t : Table β} {j k : Nat} {v : β} (h : j ≠ k) :
    getD d (setD d t k v) j = getD d t j := by
  unfold setD getD
  split <;> simp [h]

end

end Sys2Proof.Machine.Tab

namespace Sys2Proof.Machine

/-- A write keeps a byte store canonical. -/
theorem wf_writeBytes {m : ByteStore} {a : Nat} {b : Bytes} (h : Tab.wf 0 m = true) :
    Tab.wf 0 (writeBytes m a b) = true := by
  induction b generalizing m a with
  | nil => exact h
  | cons x b ih => exact ih (Tab.wf_setD h)

/-- A clear keeps a byte store canonical. -/
theorem wf_clearBytes {m : ByteStore} {a n : Nat} (h : Tab.wf 0 m = true) :
    Tab.wf 0 (clearBytes m a n) = true := Tab.wf_filter h

/-- A write leaves every byte outside its range as it was. -/
theorem getD_writeBytes_out {m : ByteStore} {a x : Nat} {b : Bytes} (h : x < a ∨ a + b.length ≤ x) :
    Tab.getD 0 (writeBytes m a b) x = Tab.getD 0 m x := by
  induction b generalizing m a with
  | nil => rfl
  | cons y b ih =>
    simp only [List.length_cons] at h
    simp only [writeBytes]
    rw [ih (by omega), Tab.getD_setD_ne (by omega)]

theorem rising_writeBytes {m : ByteStore} {a : Nat} {b : Bytes} (h : Tab.rising m = true) :
    Tab.rising (writeBytes m a b) = true := by
  induction b generalizing m a with
  | nil => exact h
  | cons x b ih =>
    refine ih ?_
    unfold Tab.setD
    split
    · exact Tab.rising_erase h
    · exact Tab.rising_put h

/-- A write leaves each byte of its range at the value written. -/
theorem getD_writeBytes_in {m : ByteStore} {a i : Nat} {b : Bytes} (hm : Tab.rising m = true)
    (h : i < b.length) : Tab.getD 0 (writeBytes m a b) (a + i) = b[i] := by
  induction b generalizing m a i with
  | nil => exact absurd h (Nat.not_lt_zero _)
  | cons y b ih =>
    have hr : Tab.rising (Tab.setD 0 m a y) = true := rising_writeBytes (a := a) (b := [y]) hm
    cases i with
    | zero =>
      simp only [writeBytes, Nat.add_zero, List.getElem_cons_zero]
      rw [getD_writeBytes_out (by omega), Tab.getD_setD_self hm]
    | succ i =>
      simp only [writeBytes, List.getElem_cons_succ]
      rw [show a + (i + 1) = a + 1 + i by omega]
      exact ih hr (by simpa using h)

end Sys2Proof.Machine
end

