-- ==== Sys2Proof/Laws/Frame.lean ====
section
/-! SUPPORT. How frames compose: what a chain of operations may change is the union of what its links may
change. `first`-choice scripts in the files beside this one build every frame from these. -/

namespace Sys2Proof.Machine.State

theorem Only.refl {w : Nat} {s : State} : s.Only w s := by
  constructor <;> intro _ <;> rfl

theorem testBit_sub {v w i : Nat} (h : v &&& w = v) (hw : w.testBit i = false) : v.testBit i = false := by
  rw [← h, Nat.testBit_and, hw, Bool.and_false]

/-- A larger set says less. -/
theorem Only.mono {v w : Nat} {s t : State} (h : s.Only v t) (hs : v &&& w = v) : s.Only w t where
  pending hw := h.pending (testBit_sub hs hw)
  outbox hw := h.outbox (testBit_sub hs hw)
  freeCount hw := h.freeCount (testBit_sub hs hw)
  fns hw := h.fns (testBit_sub hs hw)
  parts hw := h.parts (testBit_sub hs hw)
  cmds hw := h.cmds (testBit_sub hs hw)
  nextCmd hw := h.nextCmd (testBit_sub hs hw)
  ended hw := h.ended (testBit_sub hs hw)
  turn hw := h.turn (testBit_sub hs hw)
  config hw := h.config (testBit_sub hs hw)
  mem hw := h.mem (testBit_sub hs hw)
  regions hw := h.regions (testBit_sub hs hw)
  scrubs hw := h.scrubs (testBit_sub hs hw)
  unmaps hw := h.unmaps (testBit_sub hs hw)
  refreshing hw := h.refreshing (testBit_sub hs hw)
  memUsed hw := h.memUsed (testBit_sub hs hw)
  cores hw := h.cores (testBit_sub hs hw)
  counters hw := h.counters (testBit_sub hs hw)
  routes hw := h.routes (testBit_sub hs hw)
  runs hw := h.runs (testBit_sub hs hw)
  nextRun hw := h.nextRun (testBit_sub hs hw)
  streams hw := h.streams (testBit_sub hs hw)
  channels hw := h.channels (testBit_sub hs hw)
  ports hw := h.ports (testBit_sub hs hw)
  cascade hw := h.cascade (testBit_sub hs hw)
  leases hw := h.leases (testBit_sub hs hw)
  buckets hw := h.buckets (testBit_sub hs hw)
  tagHomes hw := h.tagHomes (testBit_sub hs hw)
  security hw := h.security (testBit_sub hs hw)
  mgt hw := h.mgt (testBit_sub hs hw)
  time hw := h.time (testBit_sub hs hw)
  power hw := h.power (testBit_sub hs hw)
  health hw := h.health (testBit_sub hs hw)
  flash hw := h.flash (testBit_sub hs hw)
  tally hw := h.tally (testBit_sub hs hw)
  packing hw := h.packing (testBit_sub hs hw)
  flashTally hw := h.flashTally (testBit_sub hs hw)
  links hw := h.links (testBit_sub hs hw)

/-- Frames of one set compose. -/
theorem Only.trans {w : Nat} {s t u : State} (h : s.Only w t) (k : t.Only w u) : s.Only w u where
  pending hw := (k.pending hw).trans (h.pending hw)
  outbox hw := (k.outbox hw).trans (h.outbox hw)
  freeCount hw := (k.freeCount hw).trans (h.freeCount hw)
  fns hw := (k.fns hw).trans (h.fns hw)
  parts hw := (k.parts hw).trans (h.parts hw)
  cmds hw := (k.cmds hw).trans (h.cmds hw)
  nextCmd hw := (k.nextCmd hw).trans (h.nextCmd hw)
  ended hw := (k.ended hw).trans (h.ended hw)
  turn hw := (k.turn hw).trans (h.turn hw)
  config hw := (k.config hw).trans (h.config hw)
  mem hw := (k.mem hw).trans (h.mem hw)
  regions hw := (k.regions hw).trans (h.regions hw)
  scrubs hw := (k.scrubs hw).trans (h.scrubs hw)
  unmaps hw := (k.unmaps hw).trans (h.unmaps hw)
  refreshing hw := (k.refreshing hw).trans (h.refreshing hw)
  memUsed hw := (k.memUsed hw).trans (h.memUsed hw)
  cores hw := (k.cores hw).trans (h.cores hw)
  counters hw := (k.counters hw).trans (h.counters hw)
  routes hw := (k.routes hw).trans (h.routes hw)
  runs hw := (k.runs hw).trans (h.runs hw)
  nextRun hw := (k.nextRun hw).trans (h.nextRun hw)
  streams hw := (k.streams hw).trans (h.streams hw)
  channels hw := (k.channels hw).trans (h.channels hw)
  ports hw := (k.ports hw).trans (h.ports hw)
  cascade hw := (k.cascade hw).trans (h.cascade hw)
  leases hw := (k.leases hw).trans (h.leases hw)
  buckets hw := (k.buckets hw).trans (h.buckets hw)
  tagHomes hw := (k.tagHomes hw).trans (h.tagHomes hw)
  security hw := (k.security hw).trans (h.security hw)
  mgt hw := (k.mgt hw).trans (h.mgt hw)
  time hw := (k.time hw).trans (h.time hw)
  power hw := (k.power hw).trans (h.power hw)
  health hw := (k.health hw).trans (h.health hw)
  flash hw := by rw [k.flash hw, h.flash hw]
  tally hw := (k.tally hw).trans (h.tally hw)
  packing hw := (k.packing hw).trans (h.packing hw)
  flashTally hw := (k.flashTally hw).trans (h.flashTally hw)
  links hw := (k.links hw).trans (h.links hw)

/-- An operation whose frame is `v`, after what led from `s` to `t`. -/
theorem Only.step {v w : Nat} {s t u : State} (k : t.Only v u) (hs : v &&& w = v) (h : s.Only w t) :
    s.Only w u := h.trans (k.mono hs)

/-- What an operation does to a state as a whole: it changes only the components of `w`, and keeps a
well-kept state well kept. -/
structure Frame (w : Nat) (s t : State) : Prop where
  only : s.Only w t
  inv : s.Inv → t.Inv

theorem Frame.refl {w : Nat} {s : State} : s.Frame w s := ⟨Only.refl, id⟩

theorem Frame.mono {v w : Nat} {s t : State} (h : s.Frame v t) (hs : v &&& w = v) : s.Frame w t :=
  ⟨h.only.mono hs, h.inv⟩

theorem Frame.trans {w : Nat} {s t u : State} (h : s.Frame w t) (k : t.Frame w u) : s.Frame w u :=
  ⟨h.only.trans k.only, k.inv ∘ h.inv⟩

/-- An operation whose frame is `v`, after what led from `s` to `t`. -/
theorem Frame.step {v w : Nat} {s t u : State} (k : t.Frame v u) (hs : v &&& w = v) (h : s.Frame w t) :
    s.Frame w u := h.trans (k.mono hs)

/-- A value bound on the way. -/
theorem Frame.cut {w : Nat} {s x t : State} (f : s.Frame w x → s.Frame w t) (h : s.Frame w x) : s.Frame w t := f h

theorem Frame.ite {w : Nat} {s a b : State} {c : Prop} [Decidable c] (ha : s.Frame w a) (hb : s.Frame w b) :
    s.Frame w (if c then a else b) := by split <;> assumption

theorem Frame.foldl {w : Nat} {α : Type} {s a : State} {l : List α} {f : State → α → State}
    (hf : ∀ x t, s.Frame w t → s.Frame w (f t x)) (ha : s.Frame w a) : s.Frame w (l.foldl f a) := by
  induction l generalizing a with
  | nil => exact ha
  | cons x l ih => exact ih (hf x a ha)

theorem Frame.withSome {w : Nat} {α : Type} {s a : State} {o : Option α} {f : α → State}
    (ha : s.Frame w a) (hf : ∀ x, s.Frame w (f x)) : s.Frame w (Machine.withSome o a f) := by
  cases o with
  | none => exact ha
  | some x => exact hf x

theorem Frame.withSomeEq {w : Nat} {α : Type} {s a : State} {o : Option α} {f : α → State} (ha : s.Frame w a)
    (hf : ∀ x, o = some x → s.Frame w (f x)) : s.Frame w (Machine.withSome o a f) := by
  unfold Machine.withSome
  split
  · exact ha
  · exact hf _ rfl

theorem Frame.onlyIf {w : Nat} {s a : State} {c : Bool} {f : State → State}
    (ha : s.Frame w a) (hf : s.Frame w (f a)) : s.Frame w (Machine.onlyIf c f a) := by
  cases c with
  | false => exact ha
  | true => exact hf

/-- The state of a pair. -/
theorem Frame.snd {w : Nat} {α : Type} {a : α} {s t : State} {p : α × State} (e : p = (a, t))
    (h : s.Frame w p.2) : s.Frame w t := by subst e; exact h

theorem Frame.fst {w : Nat} {α : Type} {a : α} {s t : State} {p : State × α} (e : p = (t, a))
    (h : s.Frame w p.1) : s.Frame w t := by subst e; exact h

theorem Frame.getD {w : Nat} {s a : State} {o : Option State} (ho : ∀ t, o = some t → s.Frame w t)
    (ha : s.Frame w a) : s.Frame w (o.getD a) := by
  cases o with
  | none => exact ha
  | some t => exact ho t rfl

theorem Frame.ofIte {w : Nat} {α : Type} {c : Prop} [Decidable c] {a : α} {s t : State} {p q : α × State}
    (e : (if c then p else q) = (a, t)) (hp : s.Frame w p.2) (hq : s.Frame w q.2) : s.Frame w t := by
  split at e
  · exact Frame.snd e hp
  · exact Frame.snd e hq

theorem Frame.foldlPair {w : Nat} {α β : Type} {s : State} {l : List α} {q : State × β}
    {f : State × β → α → State × β} (hf : ∀ q a, s.Frame w q.1 → s.Frame w (f q a).1) (h : s.Frame w q.1) :
    s.Frame w (l.foldl f q).1 := by
  induction l generalizing q with
  | nil => exact h
  | cons a l ih => exact ih (hf q a h)

/-- The state in a pair. -/
theorem Frame.mk1 {w : Nat} {α : Type} {b : α} {s a : State} (h : s.Frame w a) : s.Frame w (a, b).1 := h

theorem Frame.mk2 {w : Nat} {α : Type} {b : α} {s a : State} (h : s.Frame w a) : s.Frame w (b, a).2 := h

theorem Frame.mk22 {w : Nat} {α β : Type} {b : α} {s : State} {p : β × State} (h : s.Frame w p.2) :
    s.Frame w (b, p).2.2 := h

theorem Frame.ite1 {w : Nat} {α : Type} {s : State} {p q : State × α} {c : Prop} [Decidable c] (hp : s.Frame w p.1)
    (hq : s.Frame w q.1) : s.Frame w (if c then p else q).1 := by split <;> assumption

theorem Frame.ite2 {w : Nat} {α : Type} {s : State} {p q : α × State} {c : Prop} [Decidable c] (hp : s.Frame w p.2)
    (hq : s.Frame w q.2) : s.Frame w (if c then p else q).2 := by split <;> assumption

theorem Frame.ite22 {w : Nat} {α β : Type} {s : State} {p q : α × β × State} {c : Prop} [Decidable c]
    (hp : s.Frame w p.2.2) (hq : s.Frame w q.2.2) : s.Frame w (if c then p else q).2.2 := by split <;> assumption

theorem Frame.ofIte1 {w : Nat} {α : Type} {c : Prop} [Decidable c] {a : α} {s t : State} {p q : State × α}
    (e : (if c then p else q) = (t, a)) (hp : s.Frame w p.1) (hq : s.Frame w q.1) : s.Frame w t := by
  split at e
  · exact Frame.fst e hp
  · exact Frame.fst e hq

theorem Frame.snd2 {w : Nat} {α β : Type} {a : α} {b : β} {s t : State} {p : α × β × State} (e : p = (a, b, t))
    (h : s.Frame w p.2.2) : s.Frame w t := by subst e; exact h

theorem Frame.foldlPair2 {w : Nat} {α β : Type} {s : State} {l : List α} {q : β × State}
    {f : β × State → α → β × State} (hf : ∀ q a, s.Frame w q.2 → s.Frame w (f q a).2) (h : s.Frame w q.2) :
    s.Frame w (l.foldl f q).2 := by
  induction l generalizing q with
  | nil => exact h
  | cons a l ih => exact ih (hf q a h)

/-- A fold that may stop. -/
theorem Frame.foldlM {w : Nat} {α : Type} {s a : State} {l : List α} {f : State → α → Option State}
    (hf : ∀ x t u, s.Frame w t → f t x = some u → s.Frame w u) (ha : s.Frame w a) :
    ∀ t, l.foldlM f a = some t → s.Frame w t := by
  induction l generalizing a with
  | nil => intro t h; cases h; exact ha
  | cons x l ih =>
    intro t h
    rw [List.foldlM_cons] at h
    cases hx : f a x with
    | none => rw [hx] at h; cases h
    | some u => rw [hx] at h; exact ih (hf x a u ha hx) t h

theorem Frame.foldlMPair {w : Nat} {α β : Type} {s : State} {q : State × β} {l : List α}
    {f : State × β → α → Option (State × β)}
    (hf : ∀ x q u b, s.Frame w q.1 → f q x = some (u, b) → s.Frame w u) (ha : s.Frame w q.1) :
    ∀ t b, l.foldlM f q = some (t, b) → s.Frame w t := by
  induction l generalizing q with
  | nil => intro t b h; cases h; exact ha
  | cons x l ih =>
    intro t b h
    rw [List.foldlM_cons] at h
    cases hx : f q x with
    | none => rw [hx] at h; cases h
    | some u => rw [hx] at h; exact ih (hf x q u.1 u.2 ha hx) t b h

/-- The frame of an outcome: that of the next state, where there is one. -/
def FrameOut (w : Nat) (s : State) (r : Result) : Prop := ∀ t, r = .next t → s.Frame w t

theorem FrameOut.next {w : Nat} {s t : State} (h : s.Frame w t) : s.FrameOut w (.next t) := by
  intro u hu; cases hu; exact h

theorem FrameOut.checked {w : Nat} {s a : State} {c : Bool} {f : State → State} (h : s.Frame w (f a)) :
    s.FrameOut w (Machine.checked c a f) := by
  cases c with
  | false => intro u hu; cases hu
  | true => exact FrameOut.next h

theorem FrameOut.mono {v w : Nat} {s : State} {r : Result} (h : s.FrameOut v r) (hs : v &&& w = v) :
    s.FrameOut w r := fun t ht => (h t ht).mono hs

/-! ### What keeps a state well kept -/

theorem Inv.same {s t : State} (hm : t.mem = s.mem) (hc : t.cmds = s.cmds) (hn : t.nextCmd = s.nextCmd)
    (hr : t.regions = s.regions) (h : s.Inv) : t.Inv := by
  unfold Inv memWf cmdsWf regionsWf at *
  rw [hm, hc, hn, hr]
  exact h

theorem Inv.ofMem {s : State} {m : ByteStore} (h : s.Inv) (hm : Tab.wf 0 m = true) : { s with mem := m }.Inv :=
  ⟨hm, h.2⟩

theorem Inv.regionsPut {s : State} {r : Nat} {x : RegionRec} (h : s.Inv) :
    { s with regions := Tab.put r x s.regions }.Inv := ⟨h.1, h.2.1, Tab.rising_put h.2.2⟩

theorem Inv.memWf' {s : State} (h : s.Inv) : Tab.wf 0 s.mem = true := h.1

theorem cmdsWf_iff {s : State} : s.cmdsWf = true ↔ Tab.rising s.cmds = true ∧ ∀ e ∈ s.cmds, e.1 < s.nextCmd := by
  simp [cmdsWf, List.all_eq_true]

theorem Inv.cmdsErase {s : State} {id : Nat} (h : s.Inv) : { s with cmds := Tab.erase id s.cmds }.Inv := by
  obtain ⟨h1, h2⟩ := cmdsWf_iff.mp h.2.1
  exact ⟨h.1, cmdsWf_iff.mpr ⟨Tab.rising_erase h1, fun e he => h2 e (Tab.mem_erase he)⟩, h.2.2⟩

theorem Inv.cmdsFilter {s : State} {p : Nat × Cmd → Bool} (h : s.Inv) : { s with cmds := s.cmds.filter p }.Inv := by
  obtain ⟨h1, h2⟩ := cmdsWf_iff.mp h.2.1
  exact ⟨h.1, cmdsWf_iff.mpr ⟨Tab.rising_filter h1, fun e he => h2 e (List.mem_filter.mp he).1⟩, h.2.2⟩

theorem Inv.cmdsPut {s : State} {id : Nat} {c : Cmd} (hid : id < s.nextCmd) (h : s.Inv) :
    { s with cmds := Tab.put id c s.cmds }.Inv := by
  obtain ⟨h1, h2⟩ := cmdsWf_iff.mp h.2.1
  refine ⟨h.1, cmdsWf_iff.mpr ⟨Tab.rising_put h1, fun e he => ?_⟩, h.2.2⟩
  rcases Tab.mem_put he with rfl | he
  · exact hid
  · exact h2 e he

/-- The number of a command found is below the next one. -/
theorem Inv.lt_of_cmd {s : State} {id : Nat} {c : Cmd} (h : s.Inv) (hc : s.cmd id = some c) : id < s.nextCmd :=
  (cmdsWf_iff.mp h.2.1).2 _ (Tab.mem_of_find hc)

theorem Inv.cmdsModify {s : State} {id : Nat} {g : Cmd → Cmd} (h : s.Inv) :
    { s with cmds := Tab.modify id g s.cmds }.Inv := by
  unfold Tab.modify
  split
  · exact h
  · next he => exact Inv.cmdsPut (h.lt_of_cmd he) h

/-! ### Updates of one component or a few -/

theorem Frame.upd_cmds {w : Nat} {s t : State} {a0} (hs : fields [.cmds] &&& w = fields [.cmds])
    (hi : t.Inv → { t with cmds := a0 }.Inv) (h : s.Frame w t) : s.Frame w { t with cmds := a0 } :=
  Frame.step (v := fields [.cmds]) (t := t) ⟨by constructor <;> intro hw <;> first | rfl | exact absurd hw (by decide), hi⟩ hs h

theorem Frame.upd_cmds_ended {w : Nat} {s t : State} {a0} {a1} (hs : fields [.cmds, .ended] &&& w = fields [.cmds, .ended])
    (hi : t.Inv → { t with cmds := a0, ended := a1 }.Inv) (h : s.Frame w t) : s.Frame w { t with cmds := a0, ended := a1 } :=
  Frame.step (v := fields [.cmds, .ended]) (t := t) ⟨by constructor <;> intro hw <;> first | rfl | exact absurd hw (by decide), hi⟩ hs h

theorem Frame.upd_power {w : Nat} {s t : State} {a0} (hs : fields [.power] &&& w = fields [.power]) (h : s.Frame w t) :
    s.Frame w { t with power := a0 } :=
  Frame.step (v := fields [.power]) (t := t) ⟨by constructor <;> intro hw <;> first | rfl | exact absurd hw (by decide), fun h => h⟩ hs h

theorem Frame.upd_buckets {w : Nat} {s t : State} {a0} (hs : fields [.buckets] &&& w = fields [.buckets]) (h : s.Frame w t) :
    s.Frame w { t with buckets := a0 } :=
  Frame.step (v := fields [.buckets]) (t := t) ⟨by constructor <;> intro hw <;> first | rfl | exact absurd hw (by decide), fun h => h⟩ hs h

theorem Frame.upd_packing {w : Nat} {s t : State} {a0} (hs : fields [.packing] &&& w = fields [.packing]) (h : s.Frame w t) :
    s.Frame w { t with packing := a0 } :=
  Frame.step (v := fields [.packing]) (t := t) ⟨by constructor <;> intro hw <;> first | rfl | exact absurd hw (by decide), fun h => h⟩ hs h

theorem Frame.upd_cascade_mgt_power {w : Nat} {s t : State} {a0} {a1} {a2} (hs : fields [.cascade, .mgt, .power] &&& w = fields [.cascade, .mgt, .power]) (h : s.Frame w t) :
    s.Frame w { t with cascade := a0, mgt := a1, power := a2 } :=
  Frame.step (v := fields [.cascade, .mgt, .power]) (t := t) ⟨by constructor <;> intro hw <;> first | rfl | exact absurd hw (by decide), fun h => h⟩ hs h

theorem Frame.upd_channels {w : Nat} {s t : State} {a0} (hs : fields [.channels] &&& w = fields [.channels]) (h : s.Frame w t) :
    s.Frame w { t with channels := a0 } :=
  Frame.step (v := fields [.channels]) (t := t) ⟨by constructor <;> intro hw <;> first | rfl | exact absurd hw (by decide), fun h => h⟩ hs h

theorem Frame.upd_cascade {w : Nat} {s t : State} {a0} (hs : fields [.cascade] &&& w = fields [.cascade]) (h : s.Frame w t) :
    s.Frame w { t with cascade := a0 } :=
  Frame.step (v := fields [.cascade]) (t := t) ⟨by constructor <;> intro hw <;> first | rfl | exact absurd hw (by decide), fun h => h⟩ hs h

theorem Frame.upd_tagHomes {w : Nat} {s t : State} {a0} (hs : fields [.tagHomes] &&& w = fields [.tagHomes]) (h : s.Frame w t) :
    s.Frame w { t with tagHomes := a0 } :=
  Frame.step (v := fields [.tagHomes]) (t := t) ⟨by constructor <;> intro hw <;> first | rfl | exact absurd hw (by decide), fun h => h⟩ hs h

theorem Frame.upd_leases {w : Nat} {s t : State} {a0} (hs : fields [.leases] &&& w = fields [.leases]) (h : s.Frame w t) :
    s.Frame w { t with leases := a0 } :=
  Frame.step (v := fields [.leases]) (t := t) ⟨by constructor <;> intro hw <;> first | rfl | exact absurd hw (by decide), fun h => h⟩ hs h

theorem Frame.upd_mem {w : Nat} {s t : State} {a0} (hs : fields [.mem] &&& w = fields [.mem])
    (hi : t.Inv → { t with mem := a0 }.Inv) (h : s.Frame w t) : s.Frame w { t with mem := a0 } :=
  Frame.step (v := fields [.mem]) (t := t) ⟨by constructor <;> intro hw <;> first | rfl | exact absurd hw (by decide), hi⟩ hs h

theorem Frame.upd_time {w : Nat} {s t : State} {a0} (hs : fields [.time] &&& w = fields [.time]) (h : s.Frame w t) :
    s.Frame w { t with time := a0 } :=
  Frame.step (v := fields [.time]) (t := t) ⟨by constructor <;> intro hw <;> first | rfl | exact absurd hw (by decide), fun h => h⟩ hs h

theorem Frame.upd_cascade_leases {w : Nat} {s t : State} {a0} {a1} (hs : fields [.cascade, .leases] &&& w = fields [.cascade, .leases]) (h : s.Frame w t) :
    s.Frame w { t with cascade := a0, leases := a1 } :=
  Frame.step (v := fields [.cascade, .leases]) (t := t) ⟨by constructor <;> intro hw <;> first | rfl | exact absurd hw (by decide), fun h => h⟩ hs h

theorem Frame.upd_streams {w : Nat} {s t : State} {a0} (hs : fields [.streams] &&& w = fields [.streams]) (h : s.Frame w t) :
    s.Frame w { t with streams := a0 } :=
  Frame.step (v := fields [.streams]) (t := t) ⟨by constructor <;> intro hw <;> first | rfl | exact absurd hw (by decide), fun h => h⟩ hs h

theorem Frame.upd_mgt {w : Nat} {s t : State} {a0} (hs : fields [.mgt] &&& w = fields [.mgt]) (h : s.Frame w t) :
    s.Frame w { t with mgt := a0 } :=
  Frame.step (v := fields [.mgt]) (t := t) ⟨by constructor <;> intro hw <;> first | rfl | exact absurd hw (by decide), fun h => h⟩ hs h

theorem Frame.upd_health {w : Nat} {s t : State} {a0} (hs : fields [.health] &&& w = fields [.health]) (h : s.Frame w t) :
    s.Frame w { t with health := a0 } :=
  Frame.step (v := fields [.health]) (t := t) ⟨by constructor <;> intro hw <;> first | rfl | exact absurd hw (by decide), fun h => h⟩ hs h

theorem Frame.upd_config {w : Nat} {s t : State} {a0} (hs : fields [.config] &&& w = fields [.config]) (h : s.Frame w t) :
    s.Frame w { t with config := a0 } :=
  Frame.step (v := fields [.config]) (t := t) ⟨by constructor <;> intro hw <;> first | rfl | exact absurd hw (by decide), fun h => h⟩ hs h

theorem Frame.upd_config_time {w : Nat} {s t : State} {a0} {a1} (hs : fields [.config, .time] &&& w = fields [.config, .time]) (h : s.Frame w t) :
    s.Frame w { t with config := a0, time := a1 } :=
  Frame.step (v := fields [.config, .time]) (t := t) ⟨by constructor <;> intro hw <;> first | rfl | exact absurd hw (by decide), fun h => h⟩ hs h

theorem Frame.upd_counters {w : Nat} {s t : State} {a0} (hs : fields [.counters] &&& w = fields [.counters]) (h : s.Frame w t) :
    s.Frame w { t with counters := a0 } :=
  Frame.step (v := fields [.counters]) (t := t) ⟨by constructor <;> intro hw <;> first | rfl | exact absurd hw (by decide), fun h => h⟩ hs h

theorem Frame.upd_routes {w : Nat} {s t : State} {a0} (hs : fields [.routes] &&& w = fields [.routes]) (h : s.Frame w t) :
    s.Frame w { t with routes := a0 } :=
  Frame.step (v := fields [.routes]) (t := t) ⟨by constructor <;> intro hw <;> first | rfl | exact absurd hw (by decide), fun h => h⟩ hs h

theorem Frame.upd_flash {w : Nat} {s t : State} {a0} (hs : fields [.flash, .flashTally] &&& w = fields [.flash, .flashTally]) (h : s.Frame w t) :
    s.Frame w { t with flash := a0 } :=
  Frame.step (v := fields [.flash, .flashTally]) (t := t) ⟨by constructor <;> intro hw <;> first | rfl | exact absurd hw (by decide), fun h => h⟩ hs h

theorem Frame.upd_cascade_mgt_time_power {w : Nat} {s t : State} {a0} {a1} {a2} {a3} (hs : fields [.cascade, .mgt, .time, .power] &&& w = fields [.cascade, .mgt, .time, .power]) (h : s.Frame w t) :
    s.Frame w { t with cascade := a0, mgt := a1, time := a2, power := a3 } :=
  Frame.step (v := fields [.cascade, .mgt, .time, .power]) (t := t) ⟨by constructor <;> intro hw <;> first | rfl | exact absurd hw (by decide), fun h => h⟩ hs h

theorem Frame.upd_memUsed {w : Nat} {s t : State} {a0} (hs : fields [.memUsed] &&& w = fields [.memUsed]) (h : s.Frame w t) :
    s.Frame w { t with memUsed := a0 } :=
  Frame.step (v := fields [.memUsed]) (t := t) ⟨by constructor <;> intro hw <;> first | rfl | exact absurd hw (by decide), fun h => h⟩ hs h

theorem Frame.upd_ports {w : Nat} {s t : State} {a0} (hs : fields [.ports] &&& w = fields [.ports]) (h : s.Frame w t) :
    s.Frame w { t with ports := a0 } :=
  Frame.step (v := fields [.ports]) (t := t) ⟨by constructor <;> intro hw <;> first | rfl | exact absurd hw (by decide), fun h => h⟩ hs h

theorem Frame.upd_turn {w : Nat} {s t : State} {a0} (hs : fields [.turn] &&& w = fields [.turn]) (h : s.Frame w t) :
    s.Frame w { t with turn := a0 } :=
  Frame.step (v := fields [.turn]) (t := t) ⟨by constructor <;> intro hw <;> first | rfl | exact absurd hw (by decide), fun h => h⟩ hs h

theorem Frame.upd_leases_tagHomes {w : Nat} {s t : State} {a0} {a1} (hs : fields [.leases, .tagHomes] &&& w = fields [.leases, .tagHomes]) (h : s.Frame w t) :
    s.Frame w { t with leases := a0, tagHomes := a1 } :=
  Frame.step (v := fields [.leases, .tagHomes]) (t := t) ⟨by constructor <;> intro hw <;> first | rfl | exact absurd hw (by decide), fun h => h⟩ hs h

theorem Frame.upd_cores_runs {w : Nat} {s t : State} {a0} {a1} (hs : fields [.cores, .runs] &&& w = fields [.cores, .runs]) (h : s.Frame w t) :
    s.Frame w { t with cores := a0, runs := a1 } :=
  Frame.step (v := fields [.cores, .runs]) (t := t) ⟨by constructor <;> intro hw <;> first | rfl | exact absurd hw (by decide), fun h => h⟩ hs h

theorem Frame.upd_security {w : Nat} {s t : State} {a0} (hs : fields [.security] &&& w = fields [.security]) (h : s.Frame w t) :
    s.Frame w { t with security := a0 } :=
  Frame.step (v := fields [.security]) (t := t) ⟨by constructor <;> intro hw <;> first | rfl | exact absurd hw (by decide), fun h => h⟩ hs h

theorem Frame.upd_security_mgt {w : Nat} {s t : State} {a0} {a1} (hs : fields [.security, .mgt] &&& w = fields [.security, .mgt]) (h : s.Frame w t) :
    s.Frame w { t with security := a0, mgt := a1 } :=
  Frame.step (v := fields [.security, .mgt]) (t := t) ⟨by constructor <;> intro hw <;> first | rfl | exact absurd hw (by decide), fun h => h⟩ hs h

theorem Frame.upd_mgt_flash {w : Nat} {s t : State} {a0} {a1} (hs : fields [.mgt, .flash, .flashTally] &&& w = fields [.mgt, .flash, .flashTally]) (h : s.Frame w t) :
    s.Frame w { t with mgt := a0, flash := a1 } :=
  Frame.step (v := fields [.mgt, .flash, .flashTally]) (t := t) ⟨by constructor <;> intro hw <;> first | rfl | exact absurd hw (by decide), fun h => h⟩ hs h

theorem Frame.upd_health_flash {w : Nat} {s t : State} {a0} {a1} (hs : fields [.health, .flash, .flashTally] &&& w = fields [.health, .flash, .flashTally]) (h : s.Frame w t) :
    s.Frame w { t with health := a0, flash := a1 } :=
  Frame.step (v := fields [.health, .flash, .flashTally]) (t := t) ⟨by constructor <;> intro hw <;> first | rfl | exact absurd hw (by decide), fun h => h⟩ hs h

theorem Frame.upd_refreshing {w : Nat} {s t : State} {a0} (hs : fields [.refreshing] &&& w = fields [.refreshing]) (h : s.Frame w t) :
    s.Frame w { t with refreshing := a0 } :=
  Frame.step (v := fields [.refreshing]) (t := t) ⟨by constructor <;> intro hw <;> first | rfl | exact absurd hw (by decide), fun h => h⟩ hs h

theorem Frame.upd_nextRun {w : Nat} {s t : State} {a0} (hs : fields [.nextRun] &&& w = fields [.nextRun]) (h : s.Frame w t) :
    s.Frame w { t with nextRun := a0 } :=
  Frame.step (v := fields [.nextRun]) (t := t) ⟨by constructor <;> intro hw <;> first | rfl | exact absurd hw (by decide), fun h => h⟩ hs h

theorem Frame.upd_fns {w : Nat} {s t : State} {a0} (hs : fields [.fns] &&& w = fields [.fns]) (h : s.Frame w t) :
    s.Frame w { t with fns := a0 } :=
  Frame.step (v := fields [.fns]) (t := t) ⟨by constructor <;> intro hw <;> first | rfl | exact absurd hw (by decide), fun h => h⟩ hs h

theorem Frame.upd_refreshing_memUsed {w : Nat} {s t : State} {a0} {a1} (hs : fields [.refreshing, .memUsed] &&& w = fields [.refreshing, .memUsed]) (h : s.Frame w t) :
    s.Frame w { t with refreshing := a0, memUsed := a1 } :=
  Frame.step (v := fields [.refreshing, .memUsed]) (t := t) ⟨by constructor <;> intro hw <;> first | rfl | exact absurd hw (by decide), fun h => h⟩ hs h

theorem Frame.upd_scrubs {w : Nat} {s t : State} {a0} (hs : fields [.scrubs] &&& w = fields [.scrubs]) (h : s.Frame w t) :
    s.Frame w { t with scrubs := a0 } :=
  Frame.step (v := fields [.scrubs]) (t := t) ⟨by constructor <;> intro hw <;> first | rfl | exact absurd hw (by decide), fun h => h⟩ hs h

theorem Frame.upd_unmaps {w : Nat} {s t : State} {a0} (hs : fields [.unmaps] &&& w = fields [.unmaps]) (h : s.Frame w t) :
    s.Frame w { t with unmaps := a0 } :=
  Frame.step (v := fields [.unmaps]) (t := t) ⟨by constructor <;> intro hw <;> first | rfl | exact absurd hw (by decide), fun h => h⟩ hs h

theorem Frame.upd_parts {w : Nat} {s t : State} {a0} (hs : fields [.parts] &&& w = fields [.parts]) (h : s.Frame w t) :
    s.Frame w { t with parts := a0 } :=
  Frame.step (v := fields [.parts]) (t := t) ⟨by constructor <;> intro hw <;> first | rfl | exact absurd hw (by decide), fun h => h⟩ hs h

theorem Frame.upd_freeCount {w : Nat} {s t : State} {a0} (hs : fields [.freeCount] &&& w = fields [.freeCount]) (h : s.Frame w t) :
    s.Frame w { t with freeCount := a0 } :=
  Frame.step (v := fields [.freeCount]) (t := t) ⟨by constructor <;> intro hw <;> first | rfl | exact absurd hw (by decide), fun h => h⟩ hs h

theorem Frame.upd_cores {w : Nat} {s t : State} {a0} (hs : fields [.cores] &&& w = fields [.cores]) (h : s.Frame w t) :
    s.Frame w { t with cores := a0 } :=
  Frame.step (v := fields [.cores]) (t := t) ⟨by constructor <;> intro hw <;> first | rfl | exact absurd hw (by decide), fun h => h⟩ hs h

theorem Frame.upd_mem_regions_power {w : Nat} {s t : State} {a0} {a1} {a2} (hs : fields [.mem, .regions, .power] &&& w = fields [.mem, .regions, .power])
    (hi : t.Inv → { t with mem := a0, regions := a1, power := a2 }.Inv) (h : s.Frame w t) : s.Frame w { t with mem := a0, regions := a1, power := a2 } :=
  Frame.step (v := fields [.mem, .regions, .power]) (t := t) ⟨by constructor <;> intro hw <;> first | rfl | exact absurd hw (by decide), hi⟩ hs h

theorem Frame.upd_scrubs_unmaps {w : Nat} {s t : State} {a0} {a1} (hs : fields [.scrubs, .unmaps] &&& w = fields [.scrubs, .unmaps]) (h : s.Frame w t) :
    s.Frame w { t with scrubs := a0, unmaps := a1 } :=
  Frame.step (v := fields [.scrubs, .unmaps]) (t := t) ⟨by constructor <;> intro hw <;> first | rfl | exact absurd hw (by decide), fun h => h⟩ hs h

theorem Frame.upd_mem_scrubs {w : Nat} {s t : State} {a0} {a1} (hs : fields [.mem, .scrubs] &&& w = fields [.mem, .scrubs])
    (hi : t.Inv → { t with mem := a0, scrubs := a1 }.Inv) (h : s.Frame w t) : s.Frame w { t with mem := a0, scrubs := a1 } :=
  Frame.step (v := fields [.mem, .scrubs]) (t := t) ⟨by constructor <;> intro hw <;> first | rfl | exact absurd hw (by decide), hi⟩ hs h

theorem Frame.upd_nextRun_packing {w : Nat} {s t : State} {a0} {a1} (hs : fields [.nextRun, .packing] &&& w = fields [.nextRun, .packing]) (h : s.Frame w t) :
    s.Frame w { t with nextRun := a0, packing := a1 } :=
  Frame.step (v := fields [.nextRun, .packing]) (t := t) ⟨by constructor <;> intro hw <;> first | rfl | exact absurd hw (by decide), fun h => h⟩ hs h

theorem Frame.upd_outbox {w : Nat} {s t : State} {a0} (hs : fields [.outbox] &&& w = fields [.outbox]) (h : s.Frame w t) :
    s.Frame w { t with outbox := a0 } :=
  Frame.step (v := fields [.outbox]) (t := t) ⟨by constructor <;> intro hw <;> first | rfl | exact absurd hw (by decide), fun h => h⟩ hs h

theorem Frame.upd_nextCmd {w : Nat} {s t : State} {a0} (hs : fields [.nextCmd] &&& w = fields [.nextCmd])
    (hi : t.Inv → { t with nextCmd := a0 }.Inv) (h : s.Frame w t) : s.Frame w { t with nextCmd := a0 } :=
  Frame.step (v := fields [.nextCmd]) (t := t) ⟨by constructor <;> intro hw <;> first | rfl | exact absurd hw (by decide), hi⟩ hs h

theorem Frame.upd_runs {w : Nat} {s t : State} {a0} (hs : fields [.runs] &&& w = fields [.runs]) (h : s.Frame w t) :
    s.Frame w { t with runs := a0 } :=
  Frame.step (v := fields [.runs]) (t := t) ⟨by constructor <;> intro hw <;> first | rfl | exact absurd hw (by decide), fun h => h⟩ hs h

theorem Frame.upd_regions {w : Nat} {s t : State} {a0} (hs : fields [.regions] &&& w = fields [.regions])
    (hi : t.Inv → { t with regions := a0 }.Inv) (h : s.Frame w t) : s.Frame w { t with regions := a0 } :=
  Frame.step (v := fields [.regions]) (t := t) ⟨by constructor <;> intro hw <;> first | rfl | exact absurd hw (by decide), hi⟩ hs h

theorem Frame.upd_tally {w : Nat} {s t : State} {a0} (hs : fields [.tally] &&& w = fields [.tally]) (h : s.Frame w t) :
    s.Frame w { t with tally := a0 } :=
  Frame.step (v := fields [.tally]) (t := t) ⟨by constructor <;> intro hw <;> first | rfl | exact absurd hw (by decide), fun h => h⟩ hs h

theorem Frame.upd_ports_security_power_flash {w : Nat} {s t : State} {a0} {a1} {a2} {a3} (hs : fields [.ports, .security, .power, .flash, .flashTally] &&& w = fields [.ports, .security, .power, .flash, .flashTally]) (h : s.Frame w t) :
    s.Frame w { t with ports := a0, security := a1, power := a2, flash := a3 } :=
  Frame.step (v := fields [.ports, .security, .power, .flash, .flashTally]) (t := t) ⟨by constructor <;> intro hw <;> first | rfl | exact absurd hw (by decide), fun h => h⟩ hs h

theorem Frame.upd_power_flash {w : Nat} {s t : State} {a0} {a1} (hs : fields [.power, .flash, .flashTally] &&& w = fields [.power, .flash, .flashTally]) (h : s.Frame w t) :
    s.Frame w { t with power := a0, flash := a1 } :=
  Frame.step (v := fields [.power, .flash, .flashTally]) (t := t) ⟨by constructor <;> intro hw <;> first | rfl | exact absurd hw (by decide), fun h => h⟩ hs h

theorem Frame.upd_links {w : Nat} {s t : State} {a0} (hs : fields [.links] &&& w = fields [.links]) (h : s.Frame w t) :
    s.Frame w { t with links := a0 } :=
  Frame.step (v := fields [.links]) (t := t) ⟨by constructor <;> intro hw <;> first | rfl | exact absurd hw (by decide), fun h => h⟩ hs h

theorem Frame.upd_cmds_health {w : Nat} {s t : State} {a0} {a1} (hs : fields [.cmds, .health] &&& w = fields [.cmds, .health])
    (hi : t.Inv → { t with cmds := a0, health := a1 }.Inv) (h : s.Frame w t) :
    s.Frame w { t with cmds := a0, health := a1 } :=
  Frame.step (v := fields [.cmds, .health]) (t := t) ⟨by constructor <;> intro hw <;> first | rfl | exact absurd hw (by decide), hi⟩ hs h

end Sys2Proof.Machine.State
end

