-- ==== Sys2Proof/Laws/FramesCore.lean ====
section
/-! SUPPORT. Frames of the named operations, messages, commands, rings, the loader and runs: for each operation, the
components it may change, and that it keeps a well-kept state well kept. -/

namespace Sys2Proof.Machine
open State

theorem State.setPart_frame (s : State) (p) (x) : s.Frame (fields [.parts]) (State.setPart s p x) := by
  unfold State.setPart
  refine Frame.upd_parts (by decide) ?_
  first | with_reducible exact Frame.refl | assumption

theorem State.draw_frame (s : State) : s.Frame (fields [.freeCount]) (State.draw s).2 := by
  unfold State.draw
  refine Frame.mk2 ?_
  refine Frame.upd_freeCount (by decide) ?_
  first | with_reducible exact Frame.refl | assumption

theorem State.count_frame (s : State) (g) (i) (n) : s.Frame (fields [.tally, .flashTally]) (s.count g i n) := by
  unfold State.count
  split
  · refine ⟨?_, id⟩
    constructor <;> intro hw <;> first | rfl | exact absurd hw (by decide)
  · exact Frame.upd_tally (by decide) Frame.refl

theorem State.countFor_frame (s : State) (p) (g) (i) (n) :
    s.Frame (fields [.tally, .flashTally])
      (State.countFor s p g i n) := by
  unfold State.countFor
  refine Frame.ite ?_ ?_
  · first | with_reducible exact Frame.refl | assumption
  · refine Frame.step (State.count_frame ..) (by decide) ?_
    first | with_reducible exact Frame.refl | assumption

theorem State.request_frame (s : State) (pa) (n) : s.Frame (fields [.memUsed]) (State.request s pa n) := by
  unfold State.request
  refine Frame.ite ?_ ?_
  · first | with_reducible exact Frame.refl | assumption
  · refine Frame.upd_memUsed (by decide) ?_
    first | with_reducible exact Frame.refl | assumption

theorem State.request_mem (s : State) (pa n : Nat) : (s.request pa n).mem = s.mem := by
  unfold State.request
  split <;> rfl

theorem State.write_frame {s t : State} {p a b} (h : s.write p a b = some t) : s.Frame (fields [.mem, .memUsed]) t := by
  unfold State.write at h
  split at h
  · cases h
    refine Frame.foldl (fun _ _ h => ?_) Frame.refl
    exact Frame.upd_mem (by decide) (fun h => Inv.ofMem h (wf_writeBytes (State.request_mem .. ▸ h.1)))
      (Frame.step (State.request_frame ..) (by decide) h)
  · cases h

theorem State.openTile_frame {s t : State} {p a h} (h : State.openTile s p a h = some t) :
    s.Frame (fields [.mem, .memUsed]) t := by
  unfold State.openTile at h
  refine Frame.step (State.write_frame h) (by decide) ?_
  first | with_reducible exact Frame.refl | assumption

theorem State.endRaw_frame (s : State) (id status detail) : s.Frame (fields [.cmds, .ended, .tally, .flashTally]) (s.endRaw id status detail) := by
  unfold State.endRaw
  split
  · exact Frame.refl
  · rename_i hc
    refine Frame.ite Frame.refl ?_
    extract_lets -merge s1
    have h1 : s.Frame (fields [.cmds, .ended, .tally, .flashTally]) s1 :=
      Frame.upd_cmds_ended (by decide) (fun h => Inv.cmdsPut (h.lt_of_cmd hc) h) Frame.refl
    exact Frame.ite (Frame.step (State.count_frame ..) (by decide) h1) h1

theorem State.onCmd_frame (s : State) (id) (g) : s.Frame (fields [.cmds]) (State.onCmd s id g) := by
  unfold State.onCmd
  refine Frame.upd_cmds (by decide) (fun h => ?_) ?_
  · first | exact Inv.cmdsErase h | exact Inv.cmdsFilter h | exact Inv.cmdsModify h | exact Inv.regionsPut h | exact ⟨wf_clearBytes h.1, h.2⟩
  · first | with_reducible exact Frame.refl | assumption

theorem State.fail_frame (s : State) (id) (st) (detail) :
    s.Frame (fields [.cmds, .ended, .tally, .flashTally])
      (State.fail s id st detail) := by
  unfold State.fail
  refine Frame.step (State.endRaw_frame ..) (by decide) ?_
  refine Frame.step (State.onCmd_frame ..) (by decide) ?_
  first | with_reducible exact Frame.refl | assumption

theorem State.countTile_frame (s : State) (p) (x2) :
    s.Frame (fields [.tally, .flashTally])
      (State.countTile s p x2) := by
  unfold State.countTile
  split
  · refine Frame.step (State.count_frame ..) (by decide) ?_
    first | with_reducible exact Frame.refl | assumption
  · refine Frame.step (State.countFor_frame ..) (by decide) ?_
    first | with_reducible exact Frame.refl | assumption
  · first | with_reducible exact Frame.refl | assumption

theorem State.setCore_frame (s : State) (c) (x) : s.Frame (fields [.cores]) (State.setCore s c x) := by
  unfold State.setCore
  refine Frame.upd_cores (by decide) ?_
  first | with_reducible exact Frame.refl | assumption

theorem State.onCore_frame (s : State) (c) (g) : s.Frame (fields [.cores]) (State.onCore s c g) := by
  unfold State.onCore
  refine Frame.step (State.setCore_frame ..) (by decide) ?_
  first | with_reducible exact Frame.refl | assumption

theorem State.setStream_frame (s : State) (n) (x) : s.Frame (fields [.streams]) (State.setStream s n x) := by
  unfold State.setStream
  refine Frame.upd_streams (by decide) ?_
  first | with_reducible exact Frame.refl | assumption

theorem State.readOnce_frame (s : State) (p) (a) (n) :
    s.Frame (fields [.memUsed, .links, .tally, .flashTally])
      (State.readOnce s p a n).1 := by
  unfold State.readOnce
  refine Frame.foldlPair (fun _ _ _ => ?_) ?_
  · extract_lets -merge -underBinder +onlyGivenNames x
    try clear_value x
    split
    · extract_lets -merge -underBinder +onlyGivenNames x
      try clear_value x
      refine Frame.mk1 ?_
      refine Frame.step (State.countFor_frame ..) (by decide) ?_
      extract_lets -merge -underBinder +onlyGivenNames x
      refine Frame.cut (x := x) (fun hx => ?_) ?_
      · try clear_value x
        refine Frame.upd_links (by decide) ?_
        first | with_reducible exact Frame.refl | assumption
      · subst x
        refine Frame.step (State.request_frame ..) (by decide) ?_
        first | with_reducible exact Frame.refl | assumption
  · refine Frame.mk1 ?_
    first | with_reducible exact Frame.refl | assumption

theorem State.refusal_frame (s : State) : s.Frame (fields [.tally, .flashTally]) (State.refusal s) := by
  unfold State.refusal
  refine Frame.step (State.count_frame ..) (by decide) ?_
  first | with_reducible exact Frame.refl | assumption

theorem State.readParams_frame (s : State) (p) (a) (n) :
    s.Frame (fields [.memUsed, .links, .tally, .flashTally])
      (State.readParams s p a n).1 := by
  unfold State.readParams
  refine Frame.ite1 ?_ ?_
  · refine Frame.mk1 ?_
    refine Frame.step (State.refusal_frame ..) (by decide) ?_
    first | with_reducible exact Frame.refl | assumption
  · split
    · refine Frame.mk1 ?_
      first
        | with_reducible exact Frame.refl
        | assumption
        | (refine Frame.step (Frame.fst ‹_› (State.readOnce_frame ..)) (by decide) ?_
           first | with_reducible exact Frame.refl | assumption)

theorem State.setCounter_frame (s : State) (n) (x) : s.Frame (fields [.counters]) (State.setCounter s n x) := by
  unfold State.setCounter
  refine Frame.upd_counters (by decide) ?_
  first | with_reducible exact Frame.refl | assumption

theorem State.onRoute_frame (s : State) (r) (g) : s.Frame (fields [.routes]) (State.onRoute s r g) := by
  unfold State.onRoute
  refine Frame.upd_routes (by decide) ?_
  first | with_reducible exact Frame.refl | assumption

theorem State.onPart_frame (s : State) (p) (g) : s.Frame (fields [.parts]) (State.onPart s p g) := by
  unfold State.onPart
  refine Frame.step (State.setPart_frame ..) (by decide) ?_
  first | with_reducible exact Frame.refl | assumption

theorem State.perturbed_frame (s : State) (p) (kind) (unit) (select) :
    s.Frame (fields [.parts, .tally, .flashTally])
      (State.perturbed s p kind unit select) := by
  unfold State.perturbed
  extract_lets -merge -underBinder +onlyGivenNames x
  try clear_value x
  refine Frame.ite ?_ ?_
  · first | with_reducible exact Frame.refl | assumption
  · extract_lets -merge -underBinder +onlyGivenNames x
    try clear_value x
    extract_lets -merge -underBinder +onlyGivenNames x
    refine Frame.cut (x := x) (fun hx => ?_) ?_
    · try clear_value x
      refine Frame.ite ?_ ?_
      · refine Frame.step (State.count_frame ..) (by decide) ?_
        first | with_reducible exact Frame.refl | assumption
      · first | with_reducible exact Frame.refl | assumption
    · subst x
      refine Frame.step (State.onPart_frame ..) (by decide) ?_
      first | with_reducible exact Frame.refl | assumption

theorem State.perturbedOn_frame (s : State) (core) (kind) (select) :
    s.Frame (fields [.parts, .tally, .flashTally])
      (State.perturbedOn s core kind select) := by
  unfold State.perturbedOn
  split
  · refine Frame.step (State.perturbed_frame ..) (by decide) ?_
    first | with_reducible exact Frame.refl | assumption
  · first | with_reducible exact Frame.refl | assumption

theorem State.emit_frame (s : State) (o) : s.Frame (fields [.outbox]) (State.emit s o) := by
  unfold State.emit
  refine Frame.upd_outbox (by decide) ?_
  first | with_reducible exact Frame.refl | assumption

theorem State.event_frame (s : State) (i) : s.Frame (fields [.health]) (State.event s i) := by
  unfold State.event
  refine Frame.upd_health (by decide) ?_
  first | with_reducible exact Frame.refl | assumption

theorem State.ibi_frame (s : State) : s.Frame (fields [.outbox]) (State.ibi s) := by
  unfold State.ibi
  refine Frame.ite ?_ ?_
  · refine Frame.step (State.emit_frame ..) (by decide) ?_
    first | with_reducible exact Frame.refl | assumption
  · first | with_reducible exact Frame.refl | assumption

theorem State.sendIdle_frame (s : State) (p) (nak) (f) : s.Frame (fields [.outbox]) (State.sendIdle s p nak f) := by
  unfold State.sendIdle
  split
  · first | with_reducible exact Frame.refl | assumption
  · refine Frame.step (State.emit_frame ..) (by decide) ?_
    first | with_reducible exact Frame.refl | assumption

theorem State.setFn_frame (s : State) (f) (x) : s.Frame (fields [.fns]) (State.setFn s f x) := by
  unfold State.setFn
  refine Frame.upd_fns (by decide) ?_
  first | with_reducible exact Frame.refl | assumption

theorem State.msix_frame (s : State) (f) (v) : s.Frame (fields [.outbox, .fns]) (State.msix s f v) := by
  unfold State.msix
  extract_lets -merge -underBinder +onlyGivenNames x
  try clear_value x
  refine Frame.ite ?_ ?_
  · refine Frame.step (State.setFn_frame ..) (by decide) ?_
    first | with_reducible exact Frame.refl | assumption
  · refine Frame.step (State.emit_frame ..) (by decide) ?_
    first | with_reducible exact Frame.refl | assumption

theorem State.onFn_frame (s : State) (f) (g) : s.Frame (fields [.fns]) (State.onFn s f g) := by
  unfold State.onFn
  refine Frame.step (State.setFn_frame ..) (by decide) ?_
  first | with_reducible exact Frame.refl | assumption

theorem State.signal_frame (s : State) (f) (causeBit) (vector) :
    s.Frame (fields [.outbox, .fns])
      (State.signal s f causeBit vector) := by
  unfold State.signal
  refine Frame.step (State.msix_frame ..) (by decide) ?_
  refine Frame.step (State.onFn_frame ..) (by decide) ?_
  first | with_reducible exact Frame.refl | assumption

theorem State.showHalt_frame (s : State) : s.Frame (fields [.outbox, .fns, .ports, .health]) (State.showHalt s) := by
  unfold State.showHalt
  extract_lets -merge -underBinder +onlyGivenNames x
  refine Frame.cut (x := x) (fun hx => ?_) ?_
  · try clear_value x
    extract_lets -merge -underBinder +onlyGivenNames x
    try clear_value x
    extract_lets -merge -underBinder +onlyGivenNames x
    refine Frame.cut (x := x) (fun hx => ?_) ?_
    · try clear_value x
      extract_lets -merge -underBinder +onlyGivenNames x
      refine Frame.cut (x := x) (fun hx => ?_) ?_
      · try clear_value x
        extract_lets -merge -underBinder +onlyGivenNames x
        refine Frame.cut (x := x) (fun hx => ?_) ?_
        · try clear_value x
          extract_lets -merge -underBinder +onlyGivenNames x
          refine Frame.cut (x := x) (fun hx => ?_) ?_
          · try clear_value x
            refine Frame.upd_ports (by decide) ?_
            first | with_reducible exact Frame.refl | assumption
          · subst x
            refine Frame.ite ?_ ?_
            · refine Frame.step (State.event_frame ..) (by decide) ?_
              first | with_reducible exact Frame.refl | assumption
            · first | with_reducible exact Frame.refl | assumption
        · subst x
          refine Frame.foldl (fun _ _ _ => ?_) ?_
          · refine Frame.ite ?_ ?_
            · refine Frame.step (State.sendIdle_frame ..) (by decide) ?_
              first | with_reducible exact Frame.refl | assumption
            · first | with_reducible exact Frame.refl | assumption
          · first | with_reducible exact Frame.refl | assumption
      · subst x
        refine Frame.step (State.ibi_frame ..) (by decide) ?_
        first | with_reducible exact Frame.refl | assumption
    · subst x
      refine Frame.foldl (fun _ _ _ => ?_) ?_
      · refine Frame.step (State.signal_frame ..) (by decide) ?_
        first | with_reducible exact Frame.refl | assumption
      · first | with_reducible exact Frame.refl | assumption
  · subst x
    refine Frame.step (State.emit_frame ..) (by decide) ?_
    first | with_reducible exact Frame.refl | assumption

theorem State.haltCommands_frame (s : State) :
    s.Frame (fields [.cmds, .ended, .tally, .flashTally])
      (State.haltCommands s) := by
  unfold State.haltCommands
  refine Frame.foldl (fun _ _ _ => ?_) ?_
  · refine Frame.ite ?_ ?_
    · first | with_reducible exact Frame.refl | assumption
    · refine Frame.step (State.fail_frame ..) (by decide) ?_
      refine Frame.step (State.onCmd_frame ..) (by decide) ?_
      first | with_reducible exact Frame.refl | assumption
  · first | with_reducible exact Frame.refl | assumption

theorem State.fault_frame (s : State) (h) :
    s.Frame (fields [.outbox, .fns, .cmds, .ended, .ports, .health, .tally, .flashTally])
      (State.fault s h) := by
  unfold State.fault
  split
  · refine Frame.ite ?_ ?_
    · refine Frame.step (State.count_frame ..) (by decide) ?_
      first | with_reducible exact Frame.refl | assumption
    · refine Frame.upd_health (by decide) ?_
      first | with_reducible exact Frame.refl | assumption
  · extract_lets -merge -underBinder +onlyGivenNames x
    try clear_value x
    extract_lets -merge -underBinder +onlyGivenNames x
    refine Frame.cut (x := x) (fun hx => ?_) ?_
    · try clear_value x
      refine Frame.step (State.showHalt_frame ..) (by decide) ?_
      refine Frame.step (State.haltCommands_frame ..) (by decide) ?_
      first | with_reducible exact Frame.refl | assumption
    · subst x
      refine Frame.upd_health (by decide) ?_
      first | with_reducible exact Frame.refl | assumption

theorem State.setPort_frame (s : State) (p) (x) : s.Frame (fields [.ports]) (State.setPort s p x) := by
  unfold State.setPort
  refine Frame.upd_ports (by decide) ?_
  first | with_reducible exact Frame.refl | assumption

theorem State.onPort_frame (s : State) (p) (g) : s.Frame (fields [.ports]) (State.onPort s p g) := by
  unfold State.onPort
  refine Frame.step (State.setPort_frame ..) (by decide) ?_
  first | with_reducible exact Frame.refl | assumption

theorem State.readList_frame (s : State) (p) (e) :
    s.Frame (fields [.memUsed, .links, .tally, .flashTally])
      (State.readList s p e).1 := by
  unfold State.readList
  split
  · refine Frame.mk1 ?_
    first
      | with_reducible exact Frame.refl
      | assumption
      | (refine Frame.step (Frame.fst ‹_› (State.readParams_frame ..)) (by decide) ?_
         first | with_reducible exact Frame.refl | assumption)
  · refine Frame.mk1 ?_
    first
      | with_reducible exact Frame.refl
      | assumption
      | (refine Frame.step (Frame.fst ‹_› (State.readParams_frame ..)) (by decide) ?_
         first | with_reducible exact Frame.refl | assumption)

theorem State.writeTile_frame {s t : State} {p a h payload} (h : State.writeTile s p a h payload = some t) :
    s.Frame (fields [.mem, .memUsed]) t := by
  unfold State.writeTile at h
  extract_lets -merge -underBinder +onlyGivenNames x at h
  try clear_value x
  refine Frame.step (State.write_frame h) (by decide) ?_
  first | with_reducible exact Frame.refl | assumption

theorem State.tileOnce_frame (s : State) (p) (a) (want) :
    s.Frame (fields [.memUsed, .links, .tally, .flashTally])
      (State.tileOnce s p a want).1 := by
  unfold State.tileOnce
  split
  · refine Frame.mk1 ?_
    first
      | with_reducible exact Frame.refl
      | assumption
      | (refine Frame.step (Frame.fst ‹_› (State.readOnce_frame ..)) (by decide) ?_
         first | with_reducible exact Frame.refl | assumption)

theorem State.result_frame (s : State) (id) (addr) (block) :
    s.Frame (fields [.cmds])
      (State.result s id addr block) := by
  unfold State.result
  refine Frame.step (State.onCmd_frame ..) (by decide) ?_
  first | with_reducible exact Frame.refl | assumption

theorem State.countCore_frame (s : State) (core) (g) (i) (n) :
    s.Frame (fields [.tally, .flashTally])
      (State.countCore s core g i n) := by
  unfold State.countCore
  split
  · refine Frame.step (State.countFor_frame ..) (by decide) ?_
    first | with_reducible exact Frame.refl | assumption
  · refine Frame.step (State.count_frame ..) (by decide) ?_
    first | with_reducible exact Frame.refl | assumption

/-- A command put in place of the one of its number, or of the next number. -/
theorem State.setCmd_frame {s : State} {id : Nat} {c : Cmd} (hid : s.Inv → id < s.nextCmd) :
    s.Frame (fields [.cmds]) (s.setCmd id c) :=
  Frame.upd_cmds (by decide) (fun h => Inv.cmdsPut (hid h) h) Frame.refl

theorem State.onCores_frame (s : State) (mask) (f) : s.Frame (fields [.cores]) (State.onCores s mask f) := by
  unfold State.onCores
  refine Frame.foldl (fun _ _ _ => ?_) ?_
  · refine Frame.step (State.onCore_frame ..) (by decide) ?_
    first | with_reducible exact Frame.refl | assumption
  · first | with_reducible exact Frame.refl | assumption

theorem State.flushMsix_frame (s : State) (f) : s.Frame (fields [.outbox, .fns]) (State.flushMsix s f) := by
  unfold State.flushMsix
  extract_lets -merge -underBinder +onlyGivenNames x
  try clear_value x
  refine Frame.ite ?_ ?_
  · first | with_reducible exact Frame.refl | assumption
  · extract_lets -merge -underBinder +onlyGivenNames x
    try clear_value x
    refine Frame.foldl (fun _ _ _ => ?_) ?_
    · refine Frame.step (State.emit_frame ..) (by decide) ?_
      first | with_reducible exact Frame.refl | assumption
    · refine Frame.step (State.setFn_frame ..) (by decide) ?_
      first | with_reducible exact Frame.refl | assumption

theorem State.onRun_frame (s : State) (r) (g) : s.Frame (fields [.runs]) (State.onRun s r g) := by
  unfold State.onRun
  refine Frame.upd_runs (by decide) ?_
  first | with_reducible exact Frame.refl | assumption

theorem State.useTile_frame (s : State) (p) (a) (want) (rid) :
    s.Frame (fields [.memUsed, .links, .runs, .tally, .flashTally])
      (State.useTile s p a want rid).1 := by
  unfold State.useTile
  refine Frame.ite1 ?_ ?_
  · refine Frame.mk1 ?_
    refine Frame.step (State.refusal_frame ..) (by decide) ?_
    first | with_reducible exact Frame.refl | assumption
  · extract_lets -merge -underBinder +onlyGivenNames g
    have hg : ∀ t a0 a1, s.Frame (fields [.memUsed, .links, .runs, .tally, .flashTally]) t → s.Frame (fields [.memUsed, .links, .runs, .tally, .flashTally]) (g t a0 a1).1 := by
      intro t a0 a1 ht
      subst g
      dsimp -zeta only
      split
      · refine Frame.mk1 ?_
        first | with_reducible exact Frame.refl | assumption
      · refine Frame.mk1 ?_
        refine Frame.step (State.countTile_frame ..) (by decide) ?_
        first | with_reducible exact Frame.refl | assumption
    clear_value g
    split
    · refine Frame.ite1 ?_ ?_
      · refine hg _ _ _ ?_
        first
          | with_reducible exact Frame.refl
          | assumption
          | (refine Frame.step (Frame.fst ‹_› (State.tileOnce_frame ..)) (by decide) ?_
             first | with_reducible exact Frame.refl | assumption)
      · extract_lets -merge -underBinder +onlyGivenNames x
        refine Frame.cut (x := x) (fun hx => ?_) ?_
        · try clear_value x
          split
          · refine hg _ _ _ ?_
            refine Frame.step (State.countFor_frame ..) (by decide) ?_
            first
              | with_reducible exact Frame.refl
              | assumption
              | (refine Frame.step (Frame.fst ‹_› (State.tileOnce_frame ..)) (by decide) ?_
                 first
                   | with_reducible exact Frame.refl
                   | assumption
                   | (refine Frame.step (Frame.fst ‹_› (State.tileOnce_frame ..)) (by decide) ?_
                      first | with_reducible exact Frame.refl | assumption))
              | (refine Frame.step (Frame.fst ‹_› (State.tileOnce_frame ..)) (by decide) ?_
                 first
                   | with_reducible exact Frame.refl
                   | assumption
                   | (refine Frame.step (Frame.fst ‹_› (State.tileOnce_frame ..)) (by decide) ?_
                      first | with_reducible exact Frame.refl | assumption))
          · refine hg _ _ _ ?_
            first
              | with_reducible exact Frame.refl
              | assumption
              | (refine Frame.step (Frame.fst ‹_› (State.tileOnce_frame ..)) (by decide) ?_
                 first
                   | with_reducible exact Frame.refl
                   | assumption
                   | (refine Frame.step (Frame.fst ‹_› (State.tileOnce_frame ..)) (by decide) ?_
                      first | with_reducible exact Frame.refl | assumption))
              | (refine Frame.step (Frame.fst ‹_› (State.tileOnce_frame ..)) (by decide) ?_
                 first
                   | with_reducible exact Frame.refl
                   | assumption
                   | (refine Frame.step (Frame.fst ‹_› (State.tileOnce_frame ..)) (by decide) ?_
                      first | with_reducible exact Frame.refl | assumption))
        · subst x
          split
          · refine Frame.step (State.onRun_frame ..) (by decide) ?_
            first
              | with_reducible exact Frame.refl
              | assumption
              | (refine Frame.step (Frame.fst ‹_› (State.tileOnce_frame ..)) (by decide) ?_
                 first | with_reducible exact Frame.refl | assumption)
          · first
              | with_reducible exact Frame.refl
              | assumption
              | (refine Frame.step (Frame.fst ‹_› (State.tileOnce_frame ..)) (by decide) ?_
                 first | with_reducible exact Frame.refl | assumption)
    · refine hg _ _ _ ?_
      first
        | with_reducible exact Frame.refl
        | assumption
        | (refine Frame.step (Frame.fst ‹_› (State.tileOnce_frame ..)) (by decide) ?_
           first | with_reducible exact Frame.refl | assumption)

theorem State.onChannel_frame (s : State) (n) (g) : s.Frame (fields [.channels]) (State.onChannel s n g) := by
  unfold State.onChannel
  refine Frame.upd_channels (by decide) ?_
  first | with_reducible exact Frame.refl | assumption

theorem State.onStream_frame (s : State) (n) (g) : s.Frame (fields [.streams]) (State.onStream s n g) := by
  unfold State.onStream
  refine Frame.upd_streams (by decide) ?_
  first | with_reducible exact Frame.refl | assumption

theorem State.onRing_frame (s : State) (f) (g) : s.Frame (fields [.fns]) (State.onRing s f g) := by
  unfold State.onRing
  refine Frame.step (State.onFn_frame ..) (by decide) ?_
  first | with_reducible exact Frame.refl | assumption

theorem State.setRegion_frame (s : State) (r) (x) : s.Frame (fields [.regions]) (State.setRegion s r x) := by
  unfold State.setRegion
  refine Frame.upd_regions (by decide) (fun h => ?_) ?_
  · first | exact Inv.cmdsErase h | exact Inv.cmdsFilter h | exact Inv.cmdsModify h | exact Inv.regionsPut h | exact ⟨wf_clearBytes h.1, h.2⟩
  · first | with_reducible exact Frame.refl | assumption

theorem State.complete_frame (s : State) (id) (value) (notices) :
    s.Frame (fields [.cmds, .ended, .tally, .flashTally])
      (State.complete s id value notices) := by
  unfold State.complete
  extract_lets -merge -underBinder +onlyGivenNames x
  try clear_value x
  refine Frame.step (State.endRaw_frame ..) (by decide) ?_
  first | with_reducible exact Frame.refl | assumption

theorem State.countHalt_frame (s : State) (cause) :
    s.Frame (fields [.tally, .flashTally])
      (State.countHalt s cause) := by
  unfold State.countHalt
  refine Frame.ite ?_ ?_
  · refine Frame.step (State.count_frame ..) (by decide) ?_
    first | with_reducible exact Frame.refl | assumption
  · refine Frame.step (State.count_frame ..) (by decide) ?_
    first | with_reducible exact Frame.refl | assumption

theorem State.setRun_frame (s : State) (r) (x) : s.Frame (fields [.runs]) (State.setRun s r x) := by
  unfold State.setRun
  refine Frame.upd_runs (by decide) ?_
  first | with_reducible exact Frame.refl | assumption

theorem State.setRoute_frame (s : State) (r) (x) : s.Frame (fields [.routes]) (State.setRoute s r x) := by
  unfold State.setRoute
  refine Frame.upd_routes (by decide) ?_
  first | with_reducible exact Frame.refl | assumption

theorem State.takeArrived_frame {s t : State} {is} {y} (h : State.takeArrived s is = some (y, t)) :
    s.Frame (fields [.cascade]) t := by
  unfold State.takeArrived at h
  split at h
  · cases h
  · cases h
    refine Frame.upd_cascade (by decide) ?_
    first | with_reducible exact Frame.refl | assumption

theorem State.pump_frame (p n : Nat) (s : State) : s.Frame (fields [.outbox, .ports]) (State.pump p n s) := by
  induction n generalizing s with
  | zero => exact Frame.refl
  | succ n ih =>
    unfold State.pump
    split
    · exact Frame.refl
    · refine Frame.ite Frame.refl ?_
      split
      · exact Frame.refl
      · split
        · exact Frame.refl
        · exact Frame.trans (Frame.step (State.emit_frame ..) (by decide) (Frame.step (State.onPort_frame ..) (by decide) Frame.refl)) (ih _)

theorem State.sendOn_frame (s : State) (p) (m) : s.Frame (fields [.outbox, .ports]) (State.sendOn s p m) := by
  unfold State.sendOn
  split
  · first | with_reducible exact Frame.refl | assumption
  · extract_lets -merge -underBinder +onlyGivenNames x
    try clear_value x
    extract_lets -merge -underBinder +onlyGivenNames x
    try clear_value x
    extract_lets -merge -underBinder +onlyGivenNames x
    try clear_value x
    extract_lets -merge -underBinder +onlyGivenNames x
    try clear_value x
    refine Frame.step (State.pump_frame ..) (by decide) ?_
    refine Frame.step (State.onPort_frame ..) (by decide) ?_
    first | with_reducible exact Frame.refl | assumption

theorem State.send_frame (s : State) (m) : s.Frame (fields [.outbox, .ports, .cascade]) (State.send s m) := by
  unfold State.send
  refine Frame.ite ?_ ?_
  · refine Frame.upd_cascade (by decide) ?_
    first | with_reducible exact Frame.refl | assumption
  · refine Frame.step (State.sendOn_frame ..) (by decide) ?_
    first | with_reducible exact Frame.refl | assumption

theorem State.sendAll_frame (s : State) (f) : s.Frame (fields [.outbox, .ports, .cascade]) (State.sendAll s f) := by
  unfold State.sendAll
  refine Frame.foldl (fun _ _ _ => ?_) ?_
  · refine Frame.step (State.send_frame ..) (by decide) ?_
    first | with_reducible exact Frame.refl | assumption
  · first | with_reducible exact Frame.refl | assumption

theorem State.markLost_frame (s : State) (d) : s.Frame (fields [.outbox, .ports, .cascade]) (State.markLost s d) := by
  unfold State.markLost
  refine Frame.ite ?_ ?_
  · first | with_reducible exact Frame.refl | assumption
  · extract_lets -merge -underBinder +onlyGivenNames x
    try clear_value x
    extract_lets -merge -underBinder +onlyGivenNames x
    refine Frame.cut (x := x) (fun hx => ?_) ?_
    · try clear_value x
      refine Frame.ite ?_ ?_
      · refine Frame.step (State.sendAll_frame ..) (by decide) ?_
        first | with_reducible exact Frame.refl | assumption
      · refine Frame.ite ?_ ?_
        · refine Frame.step (State.sendAll_frame ..) (by decide) ?_
          first | with_reducible exact Frame.refl | assumption
        · split
          · refine Frame.step (State.send_frame ..) (by decide) ?_
            first | with_reducible exact Frame.refl | assumption
          · first | with_reducible exact Frame.refl | assumption
    · subst x
      refine Frame.upd_cascade (by decide) ?_
      first | with_reducible exact Frame.refl | assumption

theorem State.linkDown_frame (s : State) (p) :
    s.Frame (fields [.outbox, .ports, .cascade, .health])
      (State.linkDown s p) := by
  unfold State.linkDown
  extract_lets -merge -underBinder +onlyGivenNames x
  try clear_value x
  extract_lets -merge -underBinder +onlyGivenNames x
  refine Frame.cut (x := x) (fun hx => ?_) ?_
  · try clear_value x
    split
    · first | with_reducible exact Frame.refl | assumption
    · refine Frame.step (State.markLost_frame ..) (by decide) ?_
      first | with_reducible exact Frame.refl | assumption
  · subst x
    refine Frame.step (State.event_frame ..) (by decide) ?_
    refine Frame.step (State.onPort_frame ..) (by decide) ?_
    first | with_reducible exact Frame.refl | assumption

theorem State.receiveMessage_frame (s : State) (p) (bytes) :
    s.Frame (fields [.outbox, .ports, .cascade, .health, .tally, .flashTally])
      (State.receiveMessage s p bytes) := by
  unfold State.receiveMessage
  split
  · first | with_reducible exact Frame.refl | assumption
  · extract_lets -merge -underBinder +onlyGivenNames x
    try clear_value x
    extract_lets -merge -underBinder +onlyGivenNames x
    try clear_value x
    split
    · refine Frame.step (State.linkDown_frame ..) (by decide) ?_
      refine Frame.step (State.count_frame ..) (by decide) ?_
      first | with_reducible exact Frame.refl | assumption
    · extract_lets -merge -underBinder +onlyGivenNames x
      try clear_value x
      extract_lets -merge -underBinder +onlyGivenNames x
      refine Frame.cut (x := x) (fun hx => ?_) ?_
      · try clear_value x
        refine Frame.ite ?_ ?_
        · refine Frame.step (State.count_frame ..) (by decide) ?_
          first | with_reducible exact Frame.refl | assumption
        · refine Frame.ite ?_ ?_
          · refine Frame.step (State.send_frame ..) (by decide) ?_
            first | with_reducible exact Frame.refl | assumption
          · refine Frame.ite ?_ ?_
            · refine Frame.step (State.count_frame ..) (by decide) ?_
              first | with_reducible exact Frame.refl | assumption
            · refine Frame.upd_cascade (by decide) ?_
              first | with_reducible exact Frame.refl | assumption
      · subst x
        refine Frame.step (State.onPort_frame ..) (by decide) ?_
        first | with_reducible exact Frame.refl | assumption

theorem State.acceptFlit_frame (s : State) (p) (kind) (cls) (payload) :
    s.Frame (fields [.outbox, .ports, .cascade, .health, .tally, .flashTally])
      (State.acceptFlit s p kind cls payload) := by
  unfold State.acceptFlit
  split
  · first | with_reducible exact Frame.refl | assumption
  · extract_lets -merge -underBinder +onlyGivenNames x
    try clear_value x
    extract_lets -merge -underBinder +onlyGivenNames x
    try clear_value x
    extract_lets -merge -underBinder +onlyGivenNames x
    try clear_value x
    extract_lets -merge -underBinder +onlyGivenNames x
    try clear_value x
    extract_lets -merge -underBinder +onlyGivenNames x
    refine Frame.cut (x := x) (fun hx => ?_) ?_
    · try clear_value x
      refine Frame.ite ?_ ?_
      · refine Frame.step (State.count_frame ..) (by decide) ?_
        first | with_reducible exact Frame.refl | assumption
      · refine Frame.ite ?_ ?_
        · refine Frame.step (State.receiveMessage_frame ..) (by decide) ?_
          first | with_reducible exact Frame.refl | assumption
        · first | with_reducible exact Frame.refl | assumption
    · subst x
      refine Frame.step (State.onPort_frame ..) (by decide) ?_
      first | with_reducible exact Frame.refl | assumption

theorem State.replayAll_frame (s : State) (p) : s.Frame (fields [.outbox]) (State.replayAll s p) := by
  unfold State.replayAll
  split
  · first | with_reducible exact Frame.refl | assumption
  · refine Frame.foldl (fun _ _ _ => ?_) ?_
    · refine Frame.step (State.emit_frame ..) (by decide) ?_
      first | with_reducible exact Frame.refl | assumption
    · first | with_reducible exact Frame.refl | assumption

theorem State.replayOrRetrain_frame (s : State) (p) :
    s.Frame (fields [.outbox, .ports, .tally, .flashTally])
      (State.replayOrRetrain s p) := by
  unfold State.replayOrRetrain
  split
  · first | with_reducible exact Frame.refl | assumption
  · extract_lets -merge -underBinder +onlyGivenNames x
    try clear_value x
    refine Frame.ite ?_ ?_
    · first | with_reducible exact Frame.refl | assumption
    · refine Frame.ite ?_ ?_
      · refine Frame.step (State.count_frame ..) (by decide) ?_
        refine Frame.step (State.onPort_frame ..) (by decide) ?_
        first | with_reducible exact Frame.refl | assumption
      · refine Frame.step (State.count_frame ..) (by decide) ?_
        refine Frame.step (State.replayAll_frame ..) (by decide) ?_
        refine Frame.step (State.onPort_frame ..) (by decide) ?_
        first | with_reducible exact Frame.refl | assumption

theorem State.flit_frame (s : State) (p) (raw) :
    s.Frame (fields [.outbox, .ports, .cascade, .health, .tally, .flashTally])
      (State.flit s p raw) := by
  unfold State.flit
  split
  · first | with_reducible exact Frame.refl | assumption
  · extract_lets -merge -underBinder +onlyGivenNames x
    try clear_value x
    refine Frame.ite ?_ ?_
    · extract_lets -merge -underBinder +onlyGivenNames y
      have hy : s.Frame (fields [.outbox, .ports, .cascade, .health, .tally, .flashTally]) y :=
        Frame.step (State.count_frame ..) (by decide) Frame.refl
      clear_value y
      refine Frame.ite ?_ ?_
      · refine Frame.step (State.sendIdle_frame ..) (by decide) ?_
        refine Frame.step (State.count_frame ..) (by decide) ?_
        refine Frame.step (State.onPort_frame ..) (by decide) ?_
        exact hy
      · exact hy
    · extract_lets -merge -underBinder +onlyGivenNames x
      try clear_value x
      extract_lets -merge -underBinder +onlyGivenNames x
      try clear_value x
      extract_lets -merge -underBinder +onlyGivenNames x
      try clear_value x
      extract_lets -merge -underBinder +onlyGivenNames x
      try clear_value x
      extract_lets -merge -underBinder +onlyGivenNames x
      try clear_value x
      extract_lets -merge -underBinder +onlyGivenNames x
      try clear_value x
      extract_lets -merge -underBinder +onlyGivenNames x
      refine Frame.cut (x := x) (fun hx => ?_) ?_
      · try clear_value x
        extract_lets -merge -underBinder +onlyGivenNames x
        refine Frame.cut (x := x) (fun hx => ?_) ?_
        · try clear_value x
          extract_lets -merge -underBinder +onlyGivenNames x
          refine Frame.cut (x := x) (fun hx => ?_) ?_
          · try clear_value x
            extract_lets -merge -underBinder +onlyGivenNames x
            refine Frame.cut (x := x) (fun hx => ?_) ?_
            · try clear_value x
              extract_lets -merge -underBinder +onlyGivenNames x
              refine Frame.cut (x := x) (fun hx => ?_) ?_
              · try clear_value x
                split
                · first | with_reducible exact Frame.refl | assumption
                · refine Frame.ite ?_ ?_
                  · first | with_reducible exact Frame.refl | assumption
                  · split
                    · extract_lets -merge -underBinder +onlyGivenNames x
                      refine Frame.cut (x := x) (fun hx => ?_) ?_
                      · try clear_value x
                        refine Frame.step (State.sendIdle_frame ..) (by decide) ?_
                        first | with_reducible exact Frame.refl | assumption
                      · subst x
                        refine Frame.step (State.onPort_frame ..) (by decide) ?_
                        first | with_reducible exact Frame.refl | assumption
              · subst x
                refine Frame.step (State.pump_frame ..) (by decide) ?_
                first | with_reducible exact Frame.refl | assumption
            · subst x
              refine Frame.ite ?_ ?_
              · first | with_reducible exact Frame.refl | assumption
              · refine Frame.ite ?_ ?_
                · refine Frame.step (State.acceptFlit_frame ..) (by decide) ?_
                  first | with_reducible exact Frame.refl | assumption
                · refine Frame.step (State.count_frame ..) (by decide) ?_
                  first | with_reducible exact Frame.refl | assumption
          · subst x
            refine Frame.ite ?_ ?_
            · refine Frame.step (State.replayOrRetrain_frame ..) (by decide) ?_
              first | with_reducible exact Frame.refl | assumption
            · first | with_reducible exact Frame.refl | assumption
        · subst x
          refine Frame.ite ?_ ?_
          · refine Frame.step (State.markLost_frame ..) (by decide) ?_
            first | with_reducible exact Frame.refl | assumption
          · first | with_reducible exact Frame.refl | assumption
      · subst x
        refine Frame.step (State.onPort_frame ..) (by decide) ?_
        first | with_reducible exact Frame.refl | assumption

theorem State.completionMsix_frame (s : State) (f) (v) :
    s.Frame (fields [.outbox, .fns])
      (State.completionMsix s f v) := by
  unfold State.completionMsix
  refine Frame.step (State.msix_frame ..) (by decide) ?_
  refine Frame.step (State.onFn_frame ..) (by decide) ?_
  first | with_reducible exact Frame.refl | assumption

theorem State.coalesce_frame (s : State) (f) (v) : s.Frame (fields [.outbox, .fns]) (State.coalesce s f v) := by
  unfold State.coalesce
  extract_lets -merge -underBinder +onlyGivenNames x
  try clear_value x
  refine Frame.ite ?_ ?_
  · refine Frame.step (State.completionMsix_frame ..) (by decide) ?_
    first | with_reducible exact Frame.refl | assumption
  · split
    · refine Frame.ite ?_ ?_
      · refine Frame.step (State.completionMsix_frame ..) (by decide) ?_
        first | with_reducible exact Frame.refl | assumption
      · refine Frame.step (State.setFn_frame ..) (by decide) ?_
        first | with_reducible exact Frame.refl | assumption

theorem State.writeCompletion_frame (s : State) (id) (c) :
    s.Frame (fields [.outbox, .fns, .cmds])
      (State.writeCompletion s id c) := by
  unfold State.writeCompletion
  extract_lets -merge -underBinder +onlyGivenNames x
  try clear_value x
  extract_lets -merge -underBinder +onlyGivenNames x
  refine Frame.cut (x := x) (fun hx => ?_) ?_
  · try clear_value x
    extract_lets -merge -underBinder +onlyGivenNames x
    refine Frame.cut (x := x) (fun hx => ?_) ?_
    · try clear_value x
      extract_lets -merge -underBinder +onlyGivenNames x
      try clear_value x
      extract_lets -merge -underBinder +onlyGivenNames x
      refine Frame.cut (x := x) (fun hx => ?_) ?_
      · try clear_value x
        extract_lets -merge -underBinder +onlyGivenNames x
        refine Frame.cut (x := x) (fun hx => ?_) ?_
        · try clear_value x
          refine Frame.ite ?_ ?_
          · first | with_reducible exact Frame.refl | assumption
          · refine Frame.step (State.coalesce_frame ..) (by decide) ?_
            first | with_reducible exact Frame.refl | assumption
        · subst x
          refine Frame.upd_cmds (by decide) (fun h => ?_) ?_
          · first | exact Inv.cmdsErase h | exact Inv.cmdsFilter h | exact Inv.cmdsModify h | exact Inv.regionsPut h | exact ⟨wf_clearBytes h.1, h.2⟩
          · first | with_reducible exact Frame.refl | assumption
      · subst x
        refine Frame.step (State.onFn_frame ..) (by decide) ?_
        first | with_reducible exact Frame.refl | assumption
    · subst x
      refine Frame.step (State.emit_frame ..) (by decide) ?_
      first | with_reducible exact Frame.refl | assumption
  · subst x
    split
    · refine Frame.step (State.emit_frame ..) (by decide) ?_
      first | with_reducible exact Frame.refl | assumption
    · first | with_reducible exact Frame.refl | assumption

theorem State.relayCmd_frame (s : State) (id) (c) :
    s.Frame (fields [.outbox, .cmds, .ended, .ports, .cascade, .tally, .flashTally])
      (State.relayCmd s id c) := by
  unfold State.relayCmd
  refine Frame.ite ?_ ?_
  · refine Frame.step (State.fail_frame ..) (by decide) ?_
    first | with_reducible exact Frame.refl | assumption
  · refine Frame.step (State.send_frame ..) (by decide) ?_
    refine Frame.step (State.onCmd_frame ..) (by decide) ?_
    first | with_reducible exact Frame.refl | assumption

theorem State.relayDue_frame (n : Nat) (s : State) : s.Frame (fields [.outbox, .cmds, .ended, .ports, .cascade, .tally, .flashTally]) (s.relayDue n) := by
  induction n generalizing s with
  | zero => exact Frame.refl
  | succ n ih =>
    unfold State.relayDue
    split
    · exact Frame.refl
    · exact Frame.trans ((State.relayCmd_frame ..).mono (by decide)) (ih _)

theorem State.completeNext_frame (s : State) (id) (c) :
    s.Frame (fields [.outbox, .fns, .cmds, .ports, .cascade])
      (State.completeNext s id c) := by
  unfold State.completeNext
  extract_lets -merge -underBinder +onlyGivenNames x
  try clear_value x
  refine Frame.ite ?_ ?_
  · first | with_reducible exact Frame.refl | assumption
  · split
    · refine Frame.ite ?_ ?_
      · refine Frame.step (State.writeCompletion_frame ..) (by decide) ?_
        first | with_reducible exact Frame.refl | assumption
      · first | with_reducible exact Frame.refl | assumption
    · refine Frame.step (State.send_frame ..) (by decide) ?_
      refine Frame.upd_cmds (by decide) (fun h => ?_) ?_
      · first | exact Inv.cmdsErase h | exact Inv.cmdsFilter h | exact Inv.cmdsModify h | exact Inv.regionsPut h | exact ⟨wf_clearBytes h.1, h.2⟩
      · first | with_reducible exact Frame.refl | assumption

theorem execCommandCompletion_frame (id : Nat) (s : State) :
    s.FrameOut (fields [.outbox, .fns, .cmds, .ended, .ports, .cascade, .tally, .flashTally]) (execCommandCompletion id s) := by
  refine FrameOut.next (Frame.step (State.relayDue_frame ..) (by decide) (Frame.withSome Frame.refl fun _ => ?_))
  exact (State.completeNext_frame ..).mono (by decide)

theorem State.hostReadFailed_frame (s : State) (f) : s.Frame (fields [.outbox, .fns]) (State.hostReadFailed s f) := by
  unfold State.hostReadFailed
  refine Frame.step (State.msix_frame ..) (by decide) ?_
  refine Frame.step (State.onRing_frame ..) (by decide) ?_
  first | with_reducible exact Frame.refl | assumption

theorem State.block_frame (s : State) (f) (k) (input) :
    s.Frame (fields [.outbox, .fns, .memUsed, .links, .tally, .flashTally])
      (State.block s f k input).1 := by
  unfold State.block
  refine Frame.ite1 ?_ ?_
  · refine Frame.mk1 ?_
    first | with_reducible exact Frame.refl | assumption
  · extract_lets -merge -underBinder +onlyGivenNames x
    try clear_value x
    extract_lets -merge -underBinder +onlyGivenNames x
    try clear_value x
    refine Frame.ite1 ?_ ?_
    · refine Frame.mk1 ?_
      first | with_reducible exact Frame.refl | assumption
    · refine Frame.ite1 ?_ ?_
      · split
        · refine Frame.mk1 ?_
          refine Frame.step (State.hostReadFailed_frame ..) (by decide) ?_
          first | with_reducible exact Frame.refl | assumption
        · refine Frame.mk1 ?_
          first | with_reducible exact Frame.refl | assumption
      · refine Frame.ite1 ?_ ?_
        · refine Frame.mk1 ?_
          first | with_reducible exact Frame.refl | assumption
        · refine Frame.step (State.readParams_frame ..) (by decide) ?_
          first | with_reducible exact Frame.refl | assumption

theorem State.admitCmd_frame (s : State) (f) (k) (input) (late) :
    s.Frame (fields [.outbox, .fns, .memUsed, .links, .tally, .flashTally])
      (State.admitCmd s f k input late).1 := by
  unfold State.admitCmd
  split
  · refine Frame.mk1 ?_
    first | with_reducible exact Frame.refl | assumption
  · split
    · refine Frame.mk1 ?_
      first | with_reducible exact Frame.refl | assumption
    · split
      · refine Frame.mk1 ?_
        first
          | with_reducible exact Frame.refl
          | assumption
          | (refine Frame.step (Frame.fst ‹_› (State.block_frame ..)) (by decide) ?_
             first | with_reducible exact Frame.refl | assumption)
      · refine Frame.mk1 ?_
        first
          | with_reducible exact Frame.refl
          | assumption
          | (refine Frame.step (Frame.fst ‹_› (State.block_frame ..)) (by decide) ?_
             first | with_reducible exact Frame.refl | assumption)

theorem State.newCmd_frame (s : State) (f r k i ph c) :
    s.Frame (fields [.cmds, .nextCmd]) (s.newCmd f r k i ph c).2 := by
  unfold State.newCmd
  refine ⟨by constructor <;> intro hw <;> first | rfl | exact absurd hw (by decide), fun h => ?_⟩
  obtain ⟨h1, h2⟩ := cmdsWf_iff.mp h.2.1
  refine ⟨h.1, cmdsWf_iff.mpr ⟨Tab.rising_put h1, fun e he => ?_⟩, h.2.2⟩
  rcases Tab.mem_put he with rfl | he
  · exact Nat.lt_succ_self _
  · exact Nat.lt_succ_of_lt (h2 e he)

theorem State.takeCmd_frame (s : State) (f) (relay) (k) (input) (pre) :
    s.Frame (fields [.outbox, .fns, .cmds, .nextCmd, .ended, .memUsed, .links, .tally, .flashTally])
      (State.takeCmd s f relay k input pre) := by
  unfold State.takeCmd
  extract_lets -merge -underBinder +onlyGivenNames x
  try clear_value x
  split
  · split
    · refine Frame.step (State.fail_frame ..) (by decide) ?_
      first
        | with_reducible exact Frame.refl
        | assumption
        | (refine Frame.step (Frame.snd ‹_› (State.newCmd_frame ..)) (by decide) ?_
           first | with_reducible exact Frame.refl | assumption)
    · refine Frame.ite ?_ ?_
      · first
          | with_reducible exact Frame.refl
          | assumption
          | (refine Frame.step (Frame.snd ‹_› (State.newCmd_frame ..)) (by decide) ?_
             first | with_reducible exact Frame.refl | assumption)
      · split
        · refine Frame.step (State.fail_frame ..) (by decide) ?_
          first
            | with_reducible exact Frame.refl
            | assumption
            | (refine Frame.step (Frame.fst ‹_› (State.admitCmd_frame ..)) (by decide) ?_
               first
                 | with_reducible exact Frame.refl
                 | assumption
                 | (refine Frame.step (Frame.snd ‹_› (State.newCmd_frame ..)) (by decide) ?_
                    first | with_reducible exact Frame.refl | assumption))
            | (refine Frame.step (Frame.snd ‹_› (State.newCmd_frame ..)) (by decide) ?_
               first
                 | with_reducible exact Frame.refl
                 | assumption
                 | (refine Frame.step (Frame.fst ‹_› (State.admitCmd_frame ..)) (by decide) ?_
                    first | with_reducible exact Frame.refl | assumption))
        · refine Frame.step (State.onCmd_frame ..) (by decide) ?_
          first
            | with_reducible exact Frame.refl
            | assumption
            | (refine Frame.step (Frame.fst ‹_› (State.admitCmd_frame ..)) (by decide) ?_
               first
                 | with_reducible exact Frame.refl
                 | assumption
                 | (refine Frame.step (Frame.snd ‹_› (State.newCmd_frame ..)) (by decide) ?_
                    first | with_reducible exact Frame.refl | assumption))
            | (refine Frame.step (Frame.snd ‹_› (State.newCmd_frame ..)) (by decide) ?_
               first
                 | with_reducible exact Frame.refl
                 | assumption
                 | (refine Frame.step (Frame.fst ‹_› (State.admitCmd_frame ..)) (by decide) ?_
                    first | with_reducible exact Frame.refl | assumption))

theorem State.takeRelay_frame (s : State) (f) (k) (entry) (input) :
    s.Frame (fields [.outbox, .fns, .cmds, .nextCmd, .ended, .memUsed, .links, .ports, .cascade, .tally,
      .flashTally])
      (State.takeRelay s f k entry input) := by
  unfold State.takeRelay
  refine Frame.ite ?_ ?_
  · refine Frame.step (State.takeCmd_frame ..) (by decide) ?_
    refine Frame.step (State.hostReadFailed_frame ..) (by decide) ?_
    first | with_reducible exact Frame.refl | assumption
  · extract_lets -merge -underBinder +onlyGivenNames x
    refine Frame.cut (x := x) (fun hx => ?_) ?_
    · try clear_value x
      refine Frame.step (State.relayDue_frame ..) (by decide) ?_
      first | with_reducible exact Frame.refl | assumption
    · subst x
      refine Frame.step (State.newCmd_frame ..) (by decide) ?_
      first | with_reducible exact Frame.refl | assumption

theorem State.fetch_frame (s : State) (f) (entry) (input) :
    s.Frame (fields [.outbox, .fns, .cmds, .nextCmd, .ended, .turn, .memUsed, .links, .ports, .cascade, .tally,
      .flashTally])
      (State.fetch s f entry input) := by
  unfold State.fetch
  split
  · refine Frame.step (State.hostReadFailed_frame ..) (by decide) ?_
    first | with_reducible exact Frame.refl | assumption
  · extract_lets -merge -underBinder +onlyGivenNames x
    try clear_value x
    extract_lets -merge -underBinder +onlyGivenNames x
    refine Frame.cut (x := x) (fun hx => ?_) ?_
    · try clear_value x
      extract_lets -merge -underBinder +onlyGivenNames x
      refine Frame.cut (x := x) (fun hx => ?_) ?_
      · try clear_value x
        refine Frame.ite ?_ ?_
        · refine Frame.step (State.takeCmd_frame ..) (by decide) ?_
          first | with_reducible exact Frame.refl | assumption
        · refine Frame.ite ?_ ?_
          · refine Frame.step (State.takeCmd_frame ..) (by decide) ?_
            first | with_reducible exact Frame.refl | assumption
          · split
            · refine Frame.step (State.takeCmd_frame ..) (by decide) ?_
              first | with_reducible exact Frame.refl | assumption
            · refine Frame.ite ?_ ?_
              · refine Frame.step (State.takeCmd_frame ..) (by decide) ?_
                first | with_reducible exact Frame.refl | assumption
              · refine Frame.ite ?_ ?_
                · refine Frame.step (State.takeRelay_frame ..) (by decide) ?_
                  first | with_reducible exact Frame.refl | assumption
                · refine Frame.step (State.takeCmd_frame ..) (by decide) ?_
                  first | with_reducible exact Frame.refl | assumption
      · subst x
        refine Frame.upd_turn (by decide) ?_
        first | with_reducible exact Frame.refl | assumption
    · subst x
      refine Frame.step (State.onRing_frame ..) (by decide) ?_
      first | with_reducible exact Frame.refl | assumption

theorem execCommandFetch_frame (entry) (block) (s : State) :
    s.FrameOut (fields [.outbox, .fns, .cmds, .nextCmd, .ended, .turn, .memUsed, .links, .ports, .cascade, .tally,
      .flashTally])
      (execCommandFetch entry block s) := by
  unfold execCommandFetch
  refine FrameOut.next ?_
  refine Frame.onlyIf ?_ ?_
  · first | with_reducible exact Frame.refl | assumption
  · refine Frame.withSome ?_ (fun _ => ?_)
    · first | with_reducible exact Frame.refl | assumption
    · refine Frame.step (State.fetch_frame ..) (by decide) ?_
      first | with_reducible exact Frame.refl | assumption

theorem State.begin_frame {w : Nat} {s a : State} {id code : Nat} {f : Cmd → State → State}
    (hs : fields [.outbox, .fns, .cmds, .ended, .memUsed, .links, .tally, .flashTally] &&& w = fields [.outbox, .fns, .cmds, .ended, .memUsed, .links, .tally, .flashTally])
    (hf : ∀ c t, s.Frame w t → s.Frame w (f c t)) (ha : s.Frame w a) : s.Frame w (a.begin id code f) := by
  unfold State.begin
  split
  · exact ha
  · rename_i hc
    have hset : ∀ c, s.Frame w (a.setCmd id c) := fun c =>
      Frame.step ((State.setCmd_frame fun h => h.lt_of_cmd hc).mono (w := fields [.outbox, .fns, .cmds, .ended, .memUsed, .links, .tally, .flashTally]) (by decide)) hs ha
    refine Frame.ite ha ?_
    refine Frame.ite (hf _ _ (hset _)) ?_
    split
    · rename_i e
      have h1 := (Frame.fst e (State.admitCmd_frame ..)).mono (w := fields [.outbox, .fns, .cmds, .ended, .memUsed, .links, .tally, .flashTally]) (by decide)
      exact Frame.step (Frame.step (State.fail_frame ..) (by decide) h1) hs ha
    · rename_i e
      have h0 := Frame.fst e (State.admitCmd_frame ..)
      have h1 := h0.mono (w := fields [.outbox, .fns, .cmds, .ended, .memUsed, .links, .tally, .flashTally]) (by decide)
      have hk : ∀ c', Frame (fields [.outbox, .fns, .cmds, .ended, .memUsed, .links, .tally, .flashTally]) _ (State.setCmd _ id c') := fun c' =>
        h1.trans ((State.setCmd_frame (c := c') fun h => h.lt_of_cmd ((by unfold State.cmd at *; rw [h0.only.cmds (by decide)]; exact hc : State.cmd _ id = some _))).mono (by decide))
      exact hf _ _ (Frame.step (hk _) hs ha)

theorem State.FrameOut.opcodeRow {w : Nat} {s : State} {id code : Nat} {f : Cmd → State → State}
    (hs : fields [.outbox, .fns, .cmds, .ended, .memUsed, .links, .tally, .flashTally] &&& w = fields [.outbox, .fns, .cmds, .ended, .memUsed, .links, .tally, .flashTally])
    (hf : ∀ c t, s.Frame w t → s.Frame w (f c t)) : s.FrameOut w (Machine.opcodeRow id code f s) :=
  FrameOut.next (State.begin_frame hs hf Frame.refl)

theorem State.writeTail_frame (s : State) (r) (value) :
    s.Frame (fields [.outbox, .fns])
      (State.writeTail s r value) := by
  unfold State.writeTail
  refine Frame.ite ?_ ?_
  · refine Frame.step (State.onRing_frame ..) (by decide) ?_
    first | with_reducible exact Frame.refl | assumption
  · refine Frame.step (State.msix_frame ..) (by decide) ?_
    refine Frame.step (State.onRing_frame ..) (by decide) ?_
    first | with_reducible exact Frame.refl | assumption

theorem State.FrameOut.ringRow {w : Nat} {s : State} {c r : Nat} {f : State → State}
    (hf : ∀ t, s.Frame w t → s.Frame w (f t)) : s.FrameOut w (Machine.ringRow c r s f) :=
  FrameOut.checked (Frame.onlyIf Frame.refl (hf _ Frame.refl))

theorem execRingSqTailWrite_frame (caller) (ring) (value) (s : State) :
    s.FrameOut (fields [.outbox, .fns])
      (execRingSqTailWrite caller ring value s) := by
  unfold execRingSqTailWrite
  refine FrameOut.ringRow (fun _ _ => ?_)
  refine Frame.step (State.writeTail_frame ..) (by decide) ?_
  first | with_reducible exact Frame.refl | assumption

theorem State.writeHead_frame (s : State) (r) (value) :
    s.Frame (fields [.outbox, .fns])
      (State.writeHead s r value) := by
  unfold State.writeHead
  extract_lets -merge -underBinder +onlyGivenNames x
  try clear_value x
  extract_lets -merge -underBinder +onlyGivenNames x
  try clear_value x
  refine Frame.ite ?_ ?_
  · refine Frame.step (State.onRing_frame ..) (by decide) ?_
    first | with_reducible exact Frame.refl | assumption
  · refine Frame.step (State.msix_frame ..) (by decide) ?_
    refine Frame.step (State.onRing_frame ..) (by decide) ?_
    first | with_reducible exact Frame.refl | assumption

theorem execRingCqHeadWrite_frame (caller) (ring) (value) (s : State) :
    s.FrameOut (fields [.outbox, .fns])
      (execRingCqHeadWrite caller ring value s) := by
  unfold execRingCqHeadWrite
  refine FrameOut.ringRow (fun _ _ => ?_)
  refine Frame.step (State.writeHead_frame ..) (by decide) ?_
  first | with_reducible exact Frame.refl | assumption

theorem State.writeHeld_frame (f n : Nat) (s : State) : s.Frame (fields [.outbox, .fns, .cmds]) (State.writeHeld f n s) := by
  induction n generalizing s with
  | zero => exact Frame.refl
  | succ n ih =>
    unfold State.writeHeld
    split
    · exact Frame.refl
    · exact Frame.trans (Frame.step (State.writeCompletion_frame ..) (by decide) Frame.refl) (ih _)

theorem execRingApBaseWrite_frame (caller) (ring) (value) (s : State) :
    s.FrameOut (fields [.fns])
      (execRingApBaseWrite caller ring value s) := by
  unfold execRingApBaseWrite
  refine FrameOut.ringRow (fun _ _ => ?_)
  refine Frame.step (State.onRing_frame ..) (by decide) ?_
  first | with_reducible exact Frame.refl | assumption

theorem State.writeCtrl_frame (s : State) (r) (value) : s.Frame (fields [.fns]) (State.writeCtrl s r value) := by
  unfold State.writeCtrl
  refine Frame.step (State.onRing_frame ..) (by decide) ?_
  first | with_reducible exact Frame.refl | assumption

theorem execRingCtrlWrite_frame (caller) (ring) (value) (s : State) :
    s.FrameOut (fields [.fns])
      (execRingCtrlWrite caller ring value s) := by
  unfold execRingCtrlWrite
  refine FrameOut.ringRow (fun _ _ => ?_)
  refine Frame.step (State.writeCtrl_frame ..) (by decide) ?_
  first | with_reducible exact Frame.refl | assumption

theorem execBusMasterEnableChange_frame (function) (on) (s : State) :
    s.FrameOut (fields [.outbox, .fns, .cmds])
      (execBusMasterEnableChange function on s) := by
  unfold execBusMasterEnableChange
  refine FrameOut.checked ?_
  extract_lets -merge -underBinder +onlyGivenNames x
  refine Frame.cut (x := x) (fun hx => ?_) ?_
  · try clear_value x
    refine Frame.ite ?_ ?_
    · refine Frame.step (State.writeHeld_frame ..) (by decide) ?_
      refine Frame.step (State.flushMsix_frame ..) (by decide) ?_
      first | with_reducible exact Frame.refl | assumption
    · first | with_reducible exact Frame.refl | assumption
  · subst x
    refine Frame.step (State.onFn_frame ..) (by decide) ?_
    first | with_reducible exact Frame.refl | assumption

theorem execCoalesceWindowExpire_frame (function) (vector) (s : State) :
    s.FrameOut (fields [.outbox, .fns])
      (execCoalesceWindowExpire function vector s) := by
  unfold execCoalesceWindowExpire
  refine FrameOut.checked ?_
  refine Frame.withSome ?_ (fun _ => ?_)
  · first | with_reducible exact Frame.refl | assumption
  · refine Frame.ite ?_ ?_
    · refine Frame.step (State.completionMsix_frame ..) (by decide) ?_
      first | with_reducible exact Frame.refl | assumption
    · first | with_reducible exact Frame.refl | assumption

theorem State.testAdmission_frame (s : State) (setting) (cores) (extra) (b) :
    s.Frame (fields [.tally, .flashTally])
      (State.testAdmission s setting cores extra b).2 := by
  unfold State.testAdmission
  extract_lets -merge -underBinder +onlyGivenNames x
  try clear_value x
  extract_lets -merge -underBinder +onlyGivenNames x
  refine Frame.cut (x := x) (fun hx => ?_) ?_
  · try clear_value x
    refine Frame.mk2 ?_
    refine Frame.ite ?_ ?_
    · first | with_reducible exact Frame.refl | assumption
    · refine Frame.step (State.count_frame ..) (by decide) ?_
      first | with_reducible exact Frame.refl | assumption
  · subst x
    refine Frame.step (State.count_frame ..) (by decide) ?_
    first | with_reducible exact Frame.refl | assumption

theorem State.viewImage_frame (s : State) (p) (exact) (b) :
    s.Frame (fields [.memUsed, .links, .tally, .flashTally])
      (State.viewImage s p exact b).1 := by
  unfold State.viewImage
  extract_lets -merge -underBinder +onlyGivenNames x
  try clear_value x
  extract_lets -merge -underBinder +onlyGivenNames x
  try clear_value x
  extract_lets -merge -underBinder +onlyGivenNames x
  try clear_value x
  extract_lets -merge -underBinder +onlyGivenNames x
  try clear_value x
  split
  · refine Frame.ite1 ?_ ?_
    · refine Frame.mk1 ?_
      first
        | with_reducible exact Frame.refl
        | assumption
        | (refine Frame.fst ‹_› (Frame.foldlPair (fun _ _ _ => ?_) ?_)
           · split
             · refine Frame.mk1 ?_
               first
                 | with_reducible exact Frame.refl
                 | assumption
                 | (refine Frame.step (Frame.fst ‹_› (State.readList_frame ..)) (by decide) ?_
                    first | with_reducible exact Frame.refl | assumption)
           · refine Frame.mk1 ?_
             first | with_reducible exact Frame.refl | assumption)
    · extract_lets -merge -underBinder +onlyGivenNames x
      try clear_value x
      refine Frame.mk1 ?_
      first
        | with_reducible exact Frame.refl
        | assumption
        | (refine Frame.fst ‹_› (Frame.foldlPair (fun _ _ _ => ?_) ?_)
           · split
             · refine Frame.mk1 ?_
               first
                 | with_reducible exact Frame.refl
                 | assumption
                 | (refine Frame.step (Frame.fst ‹_› (State.readList_frame ..)) (by decide) ?_
                    first | with_reducible exact Frame.refl | assumption)
           · refine Frame.mk1 ?_
             first | with_reducible exact Frame.refl | assumption)

theorem State.imageBytes_frame (s : State) (p) (params) :
    s.Frame (fields [.memUsed, .links, .tally, .flashTally]) (State.imageBytes s p params).1 := by
  unfold State.imageBytes
  extract_lets -merge a len no size
  have hn : ∀ t st o, (no t st o).1 = t := fun _ _ _ => rfl
  have hs : ∀ t st, (size t st).1 = t := fun t st => by cases st <;> rfl
  clear_value no size
  refine Frame.ite1 (hn .. ▸ Frame.refl) ?_
  split
  · rename_i e
    exact hs .. ▸ (Frame.fst e (State.readParams_frame ..)).mono (by decide)
  · rename_i e
    have h := (Frame.fst e (State.readParams_frame ..)).mono (w := fields [.memUsed, .links, .tally, .flashTally]) (by decide)
    extract_lets -merge hd
    refine Frame.ite1 (hn .. ▸ h) (Frame.ite1 (hn .. ▸ h) ?_)
    split
    · rename_i e; exact hs .. ▸ Frame.step (Frame.fst e (State.readParams_frame ..)) (by decide) h
    · rename_i e; exact Frame.step (Frame.fst e (State.readParams_frame ..)) (by decide) h

theorem State.replayTensors_frame (s : State) (p) (v) :
    s.Frame (fields [.memUsed, .links, .tally, .flashTally])
      (State.replayTensors s p v).1 := by
  unfold State.replayTensors
  extract_lets -merge -underBinder +onlyGivenNames x
  try clear_value x
  extract_lets -merge -underBinder +onlyGivenNames x
  try clear_value x
  split
  · refine Frame.mk1 ?_
    first | with_reducible exact Frame.refl | assumption
  · refine Frame.ite1 ?_ ?_
    · refine Frame.mk1 ?_
      first | with_reducible exact Frame.refl | assumption
    · split
      · split
        · refine Frame.mk1 ?_
          first
            | with_reducible exact Frame.refl
            | assumption
            | (refine Frame.step (Frame.fst ‹_› (State.tileOnce_frame ..)) (by decide) ?_
               first | with_reducible exact Frame.refl | assumption)
        · refine Frame.mk1 ?_
          first
            | with_reducible exact Frame.refl
            | assumption
            | (refine Frame.step (Frame.fst ‹_› (State.tileOnce_frame ..)) (by decide) ?_
               first | with_reducible exact Frame.refl | assumption)
      · refine Frame.mk1 ?_
        first
          | with_reducible exact Frame.refl
          | assumption
          | (refine Frame.step (Frame.fst ‹_› (State.tileOnce_frame ..)) (by decide) ?_
             first | with_reducible exact Frame.refl | assumption)

theorem State.verifyImage_frame (s : State) (p) (params) :
    s.Frame (fields [.memUsed, .links, .tally, .flashTally])
      (State.verifyImage s p params).1 := by
  unfold State.verifyImage
  extract_lets -merge -underBinder +onlyGivenNames x
  try clear_value x
  split
  · refine Frame.mk1 ?_
    first
      | with_reducible exact Frame.refl
      | assumption
      | (refine Frame.step (Frame.fst ‹_› (State.imageBytes_frame ..)) (by decide) ?_
         first | with_reducible exact Frame.refl | assumption)
  · split
    · refine Frame.mk1 ?_
      first
        | with_reducible exact Frame.refl
        | assumption
        | (refine Frame.step (Frame.fst ‹_› (State.viewImage_frame ..)) (by decide) ?_
           first
             | with_reducible exact Frame.refl
             | assumption
             | (refine Frame.step (Frame.fst ‹_› (State.imageBytes_frame ..)) (by decide) ?_
                first | with_reducible exact Frame.refl | assumption))
        | (refine Frame.step (Frame.fst ‹_› (State.imageBytes_frame ..)) (by decide) ?_
           first
             | with_reducible exact Frame.refl
             | assumption
             | (refine Frame.step (Frame.fst ‹_› (State.viewImage_frame ..)) (by decide) ?_
                first | with_reducible exact Frame.refl | assumption))
    · split
      · split
        · refine Frame.mk1 ?_
          first
            | with_reducible exact Frame.refl
            | assumption
            | (refine Frame.step (Frame.fst ‹_› (State.replayTensors_frame ..)) (by decide) ?_
               first
                 | with_reducible exact Frame.refl
                 | assumption
                 | (refine Frame.step (Frame.fst ‹_› (State.viewImage_frame ..)) (by decide) ?_
                    first
                      | with_reducible exact Frame.refl
                      | assumption
                      | (refine Frame.step (Frame.fst ‹_› (State.imageBytes_frame ..)) (by decide) ?_
                         first | with_reducible exact Frame.refl | assumption))
                 | (refine Frame.step (Frame.fst ‹_› (State.imageBytes_frame ..)) (by decide) ?_
                    first
                      | with_reducible exact Frame.refl
                      | assumption
                      | (refine Frame.step (Frame.fst ‹_› (State.viewImage_frame ..)) (by decide) ?_
                         first | with_reducible exact Frame.refl | assumption)))
            | (refine Frame.step (Frame.fst ‹_› (State.viewImage_frame ..)) (by decide) ?_
               first
                 | with_reducible exact Frame.refl
                 | assumption
                 | (refine Frame.step (Frame.fst ‹_› (State.replayTensors_frame ..)) (by decide) ?_
                    first
                      | with_reducible exact Frame.refl
                      | assumption
                      | (refine Frame.step (Frame.fst ‹_› (State.imageBytes_frame ..)) (by decide) ?_
                         first | with_reducible exact Frame.refl | assumption))
                 | (refine Frame.step (Frame.fst ‹_› (State.imageBytes_frame ..)) (by decide) ?_
                    first
                      | with_reducible exact Frame.refl
                      | assumption
                      | (refine Frame.step (Frame.fst ‹_› (State.replayTensors_frame ..)) (by decide) ?_
                         first | with_reducible exact Frame.refl | assumption)))
            | (refine Frame.step (Frame.fst ‹_› (State.imageBytes_frame ..)) (by decide) ?_
               first
                 | with_reducible exact Frame.refl
                 | assumption
                 | (refine Frame.step (Frame.fst ‹_› (State.replayTensors_frame ..)) (by decide) ?_
                    first
                      | with_reducible exact Frame.refl
                      | assumption
                      | (refine Frame.step (Frame.fst ‹_› (State.viewImage_frame ..)) (by decide) ?_
                         first | with_reducible exact Frame.refl | assumption))
                 | (refine Frame.step (Frame.fst ‹_› (State.viewImage_frame ..)) (by decide) ?_
                    first
                      | with_reducible exact Frame.refl
                      | assumption
                      | (refine Frame.step (Frame.fst ‹_› (State.replayTensors_frame ..)) (by decide) ?_
                         first | with_reducible exact Frame.refl | assumption)))
        · refine Frame.mk1 ?_
          first
            | with_reducible exact Frame.refl
            | assumption
            | (refine Frame.step (Frame.fst ‹_› (State.replayTensors_frame ..)) (by decide) ?_
               first
                 | with_reducible exact Frame.refl
                 | assumption
                 | (refine Frame.step (Frame.fst ‹_› (State.viewImage_frame ..)) (by decide) ?_
                    first
                      | with_reducible exact Frame.refl
                      | assumption
                      | (refine Frame.step (Frame.fst ‹_› (State.imageBytes_frame ..)) (by decide) ?_
                         first | with_reducible exact Frame.refl | assumption))
                 | (refine Frame.step (Frame.fst ‹_› (State.imageBytes_frame ..)) (by decide) ?_
                    first
                      | with_reducible exact Frame.refl
                      | assumption
                      | (refine Frame.step (Frame.fst ‹_› (State.viewImage_frame ..)) (by decide) ?_
                         first | with_reducible exact Frame.refl | assumption)))
            | (refine Frame.step (Frame.fst ‹_› (State.viewImage_frame ..)) (by decide) ?_
               first
                 | with_reducible exact Frame.refl
                 | assumption
                 | (refine Frame.step (Frame.fst ‹_› (State.replayTensors_frame ..)) (by decide) ?_
                    first
                      | with_reducible exact Frame.refl
                      | assumption
                      | (refine Frame.step (Frame.fst ‹_› (State.imageBytes_frame ..)) (by decide) ?_
                         first | with_reducible exact Frame.refl | assumption))
                 | (refine Frame.step (Frame.fst ‹_› (State.imageBytes_frame ..)) (by decide) ?_
                    first
                      | with_reducible exact Frame.refl
                      | assumption
                      | (refine Frame.step (Frame.fst ‹_› (State.replayTensors_frame ..)) (by decide) ?_
                         first | with_reducible exact Frame.refl | assumption)))
            | (refine Frame.step (Frame.fst ‹_› (State.imageBytes_frame ..)) (by decide) ?_
               first
                 | with_reducible exact Frame.refl
                 | assumption
                 | (refine Frame.step (Frame.fst ‹_› (State.replayTensors_frame ..)) (by decide) ?_
                    first
                      | with_reducible exact Frame.refl
                      | assumption
                      | (refine Frame.step (Frame.fst ‹_› (State.viewImage_frame ..)) (by decide) ?_
                         first | with_reducible exact Frame.refl | assumption))
                 | (refine Frame.step (Frame.fst ‹_› (State.viewImage_frame ..)) (by decide) ?_
                    first
                      | with_reducible exact Frame.refl
                      | assumption
                      | (refine Frame.step (Frame.fst ‹_› (State.replayTensors_frame ..)) (by decide) ?_
                         first | with_reducible exact Frame.refl | assumption)))

theorem State.setTeardownStep_frame (s : State) (p) (n) :
    s.Frame (fields [.parts])
      (State.setTeardownStep s p n) := by
  unfold State.setTeardownStep
  refine Frame.step (State.onPart_frame ..) (by decide) ?_
  first | with_reducible exact Frame.refl | assumption

theorem State.releaseKey_frame (s : State) (p) (key) : s.Frame (fields [.parts]) (State.releaseKey s p key) := by
  unfold State.releaseKey
  extract_lets -merge -underBinder +onlyGivenNames x
  try clear_value x
  refine Frame.ite ?_ ?_
  · first | with_reducible exact Frame.refl | assumption
  · refine Frame.step (State.onPart_frame ..) (by decide) ?_
    first | with_reducible exact Frame.refl | assumption

theorem State.dropStream_frame (s : State) (n) (x) :
    s.Frame (fields [.parts, .cmds, .ended, .routes, .streams, .tally, .flashTally])
      (State.dropStream s n x) := by
  unfold State.dropStream
  extract_lets -merge -underBinder +onlyGivenNames x
  refine Frame.cut (x := x) (fun hx => ?_) ?_
  · try clear_value x
    extract_lets -merge -underBinder +onlyGivenNames x
    refine Frame.cut (x := x) (fun hx => ?_) ?_
    · try clear_value x
      extract_lets -merge -underBinder +onlyGivenNames x
      refine Frame.cut (x := x) (fun hx => ?_) ?_
      · try clear_value x
        refine Frame.step (State.releaseKey_frame ..) (by decide) ?_
        first | with_reducible exact Frame.refl | assumption
      · subst x
        refine Frame.foldl (fun _ _ _ => ?_) ?_
        · refine Frame.step (State.complete_frame ..) (by decide) ?_
          first | with_reducible exact Frame.refl | assumption
        · first | with_reducible exact Frame.refl | assumption
    · subst x
      refine Frame.step (State.onRoute_frame ..) (by decide) ?_
      first | with_reducible exact Frame.refl | assumption
  · subst x
    refine Frame.upd_streams (by decide) ?_
    first | with_reducible exact Frame.refl | assumption

theorem State.dropBucket_frame (s : State) (tag) (b) :
    s.Frame (fields [.cores, .buckets])
      (State.dropBucket s tag b) := by
  unfold State.dropBucket
  extract_lets -merge -underBinder +onlyGivenNames x
  refine Frame.cut (x := x) (fun hx => ?_) ?_
  · try clear_value x
    refine Frame.step (State.onCore_frame ..) (by decide) ?_
    first | with_reducible exact Frame.refl | assumption
  · subst x
    refine Frame.upd_buckets (by decide) ?_
    first | with_reducible exact Frame.refl | assumption

theorem State.releaseTag_frame (s : State) (tag) (partition) (aborted) :
    s.Frame (fields [.outbox, .ports, .cascade])
      (State.releaseTag s tag partition aborted) := by
  unfold State.releaseTag
  refine Frame.step (State.send_frame ..) (by decide) ?_
  first | with_reducible exact Frame.refl | assumption

theorem State.countStall_frame (s : State) (core) :
    s.Frame (fields [.freeCount, .tally, .flashTally])
      (State.countStall s core) := by
  unfold State.countStall
  split
  · refine Frame.step (State.countCore_frame ..) (by decide) ?_
    first
      | with_reducible exact Frame.refl
      | assumption
      | (refine Frame.step (Frame.snd ‹_› (State.draw_frame ..)) (by decide) ?_
         first | with_reducible exact Frame.refl | assumption)

theorem State.disarm_frame (s : State) (core) : s.Frame (fields [.counters]) (State.disarm s core) := by
  unfold State.disarm
  refine Frame.foldl (fun _ _ _ => ?_) ?_
  · extract_lets -merge -underBinder +onlyGivenNames x
    try clear_value x
    refine Frame.step (State.setCounter_frame ..) (by decide) ?_
    first | with_reducible exact Frame.refl | assumption
  · first | with_reducible exact Frame.refl | assumption

theorem State.leaveRun_frame (s : State) (rid) (core) :
    s.Frame (fields [.freeCount, .cores, .counters, .tally, .flashTally])
      (State.leaveRun s rid core) := by
  unfold State.leaveRun
  extract_lets -merge -underBinder +onlyGivenNames x
  try clear_value x
  refine Frame.ite ?_ ?_
  · first | with_reducible exact Frame.refl | assumption
  · extract_lets -merge -underBinder +onlyGivenNames x
    refine Frame.cut (x := x) (fun hx => ?_) ?_
    · try clear_value x
      refine Frame.step (State.disarm_frame ..) (by decide) ?_
      refine Frame.step (State.onCore_frame ..) (by decide) ?_
      first | with_reducible exact Frame.refl | assumption
    · subst x
      split
      · refine Frame.step (State.countStall_frame ..) (by decide) ?_
        first | with_reducible exact Frame.refl | assumption
      · first | with_reducible exact Frame.refl | assumption

theorem State.removeRun_frame (s : State) (rid) :
    s.Frame (fields [.freeCount, .cores, .counters, .runs, .tally, .flashTally])
      (State.removeRun s rid) := by
  unfold State.removeRun
  extract_lets -merge -underBinder +onlyGivenNames x
  refine Frame.cut (x := x) (fun hx => ?_) ?_
  · try clear_value x
    refine Frame.upd_cores_runs (by decide) ?_
    first | with_reducible exact Frame.refl | assumption
  · subst x
    refine Frame.foldl (fun _ _ _ => ?_) ?_
    · refine Frame.step (State.leaveRun_frame ..) (by decide) ?_
      first | with_reducible exact Frame.refl | assumption
    · first | with_reducible exact Frame.refl | assumption

theorem State.dropBoxLeases_frame (s : State) (core) (box) :
    s.Frame (fields [.leases])
      (State.dropBoxLeases s core box) := by
  unfold State.dropBoxLeases
  refine Frame.upd_leases (by decide) ?_
  first | with_reducible exact Frame.refl | assumption

theorem State.closeBox_frame (s : State) (core) (box) :
    s.Frame (fields [.cores, .leases])
      (State.closeBox s core box) := by
  unfold State.closeBox
  refine Frame.step (State.dropBoxLeases_frame ..) (by decide) ?_
  refine Frame.step (State.onCore_frame ..) (by decide) ?_
  first | with_reducible exact Frame.refl | assumption

theorem State.startRelease_frame (s : State) (rid) (waiter) :
    s.Frame (fields [.cores, .routes, .leases])
      (State.startRelease s rid waiter) := by
  unfold State.startRelease
  split
  · first | with_reducible exact Frame.refl | assumption
  · extract_lets -merge -underBinder +onlyGivenNames x
    refine Frame.cut (x := x) (fun hx => ?_) ?_
    · try clear_value x
      refine Frame.step (State.setRoute_frame ..) (by decide) ?_
      first | with_reducible exact Frame.refl | assumption
    · subst x
      refine Frame.foldl (fun _ _ _ => ?_) ?_
      · refine Frame.step (State.closeBox_frame ..) (by decide) ?_
        first | with_reducible exact Frame.refl | assumption
      · first | with_reducible exact Frame.refl | assumption

theorem State.withdraw_frame (s : State) (id) :
    s.Frame (fields [.outbox, .freeCount, .parts, .scrubs, .unmaps, .cores, .counters, .routes, .runs,
      .channels, .ports, .cascade, .leases, .buckets, .tally, .packing, .flashTally])
      (State.withdraw s id) := by
  unfold State.withdraw
  extract_lets -merge -underBinder +onlyGivenNames x
  refine Frame.cut (x := x) (fun hx => ?_) ?_
  · try clear_value x
    extract_lets -merge -underBinder +onlyGivenNames x
    refine Frame.cut (x := x) (fun hx => ?_) ?_
    · try clear_value x
      extract_lets -merge -underBinder +onlyGivenNames x
      refine Frame.cut (x := x) (fun hx => ?_) ?_
      · try clear_value x
        extract_lets -merge -underBinder +onlyGivenNames x
        refine Frame.cut (x := x) (fun hx => ?_) ?_
        · try clear_value x
          extract_lets -merge -underBinder +onlyGivenNames x
          refine Frame.cut (x := x) (fun hx => ?_) ?_
          · try clear_value x
            extract_lets -merge -underBinder +onlyGivenNames x
            refine Frame.cut (x := x) (fun hx => ?_) ?_
            · try clear_value x
              extract_lets -merge -underBinder +onlyGivenNames x
              refine Frame.cut (x := x) (fun hx => ?_) ?_
              · try clear_value x
                refine Frame.foldl (fun _ _ _ => ?_) ?_
                · refine Frame.ite ?_ ?_
                  · refine Frame.step (State.releaseKey_frame ..) (by decide) ?_
                    refine Frame.upd_channels (by decide) ?_
                    first | with_reducible exact Frame.refl | assumption
                  · first | with_reducible exact Frame.refl | assumption
                · first | with_reducible exact Frame.refl | assumption
              · subst x
                refine Frame.foldl (fun _ _ _ => ?_) ?_
                · refine Frame.ite ?_ ?_
                  · refine Frame.step (State.startRelease_frame ..) (by decide) ?_
                    first | with_reducible exact Frame.refl | assumption
                  · first | with_reducible exact Frame.refl | assumption
                · first | with_reducible exact Frame.refl | assumption
            · subst x
              refine Frame.foldl (fun _ _ _ => ?_) ?_
              · refine Frame.ite ?_ ?_
                · refine Frame.step (State.releaseTag_frame ..) (by decide) ?_
                  refine Frame.step (State.dropBucket_frame ..) (by decide) ?_
                  first | with_reducible exact Frame.refl | assumption
                · first | with_reducible exact Frame.refl | assumption
              · first | with_reducible exact Frame.refl | assumption
          · subst x
            refine Frame.upd_parts (by decide) ?_
            first | with_reducible exact Frame.refl | assumption
        · subst x
          refine Frame.upd_unmaps (by decide) ?_
          first | with_reducible exact Frame.refl | assumption
      · subst x
        refine Frame.upd_scrubs (by decide) ?_
        first | with_reducible exact Frame.refl | assumption
    · subst x
      refine Frame.upd_packing (by decide) ?_
      first | with_reducible exact Frame.refl | assumption
  · subst x
    split
    · refine Frame.step (State.removeRun_frame ..) (by decide) ?_
      first | with_reducible exact Frame.refl | assumption
    · first | with_reducible exact Frame.refl | assumption

theorem State.cutShort_frame (s : State) (id) (st) (detail) :
    s.Frame (fields [.outbox, .freeCount, .parts, .cmds, .ended, .scrubs, .unmaps, .cores, .counters, .routes,
      .runs, .channels, .ports, .cascade, .leases, .buckets, .tally, .packing, .flashTally])
      (State.cutShort s id st detail) := by
  unfold State.cutShort
  split
  · first | with_reducible exact Frame.refl | assumption
  · refine Frame.ite ?_ ?_
    · first | with_reducible exact Frame.refl | assumption
    · refine Frame.step (State.fail_frame ..) (by decide) ?_
      refine Frame.step (State.withdraw_frame ..) (by decide) ?_
      first | with_reducible exact Frame.refl | assumption

theorem State.finishRelease_frame (s : State) (rid) (r) :
    s.Frame (fields [.cmds, .ended, .cores, .counters, .routes, .tally, .flashTally])
      (State.finishRelease s rid r) := by
  unfold State.finishRelease
  extract_lets -merge -underBinder +onlyGivenNames x
  refine Frame.cut (x := x) (fun hx => ?_) ?_
  · try clear_value x
    extract_lets -merge -underBinder +onlyGivenNames x
    refine Frame.cut (x := x) (fun hx => ?_) ?_
    · try clear_value x
      extract_lets -merge -underBinder +onlyGivenNames x
      refine Frame.cut (x := x) (fun hx => ?_) ?_
      · try clear_value x
        extract_lets -merge -underBinder +onlyGivenNames x
        refine Frame.cut (x := x) (fun hx => ?_) ?_
        · try clear_value x
          refine Frame.foldl (fun _ _ _ => ?_) ?_
          · split
            · refine Frame.step (State.complete_frame ..) (by decide) ?_
              first | with_reducible exact Frame.refl | assumption
            · first | with_reducible exact Frame.refl | assumption
          · first | with_reducible exact Frame.refl | assumption
        · subst x
          refine Frame.upd_routes (by decide) ?_
          first | with_reducible exact Frame.refl | assumption
      · subst x
        refine Frame.foldl (fun _ _ _ => ?_) ?_
        · refine Frame.step (State.setCounter_frame ..) (by decide) ?_
          first | with_reducible exact Frame.refl | assumption
        · first | with_reducible exact Frame.refl | assumption
    · subst x
      refine Frame.step (State.onCores_frame ..) (by decide) ?_
      first | with_reducible exact Frame.refl | assumption
  · subst x
    refine Frame.foldl (fun _ _ _ => ?_) ?_
    · refine Frame.step (State.onCore_frame ..) (by decide) ?_
      first | with_reducible exact Frame.refl | assumption
    · first | with_reducible exact Frame.refl | assumption

theorem State.settleRoutes_frame (s : State) :
    s.Frame (fields [.cmds, .ended, .cores, .counters, .routes, .tally, .flashTally])
      (State.settleRoutes s) := by
  unfold State.settleRoutes
  refine Frame.foldl (fun _ _ _ => ?_) ?_
  · refine Frame.ite ?_ ?_
    · refine Frame.step (State.finishRelease_frame ..) (by decide) ?_
      first | with_reducible exact Frame.refl | assumption
    · first | with_reducible exact Frame.refl | assumption
  · first | with_reducible exact Frame.refl | assumption

theorem State.teardownRoutes_frame (s : State) (p) :
    s.Frame (fields [.cores, .routes, .leases])
      (State.teardownRoutes s p) := by
  unfold State.teardownRoutes
  refine Frame.foldl (fun _ _ _ => ?_) ?_
  · refine Frame.ite ?_ ?_
    · refine Frame.step (State.startRelease_frame ..) (by decide) ?_
      first | with_reducible exact Frame.refl | assumption
    · first | with_reducible exact Frame.refl | assumption
  · first | with_reducible exact Frame.refl | assumption

theorem State.teardownStreams_frame (s : State) (p) :
    s.Frame (fields [.parts, .cmds, .ended, .cores, .routes, .streams, .channels, .leases, .tally, .flashTally])
      (State.teardownStreams s p) := by
  unfold State.teardownStreams
  extract_lets -merge -underBinder +onlyGivenNames x
  refine Frame.cut (x := x) (fun hx => ?_) ?_
  · try clear_value x
    extract_lets -merge -underBinder +onlyGivenNames x
    refine Frame.cut (x := x) (fun hx => ?_) ?_
    · try clear_value x
      refine Frame.step (State.onPart_frame ..) (by decide) ?_
      first | with_reducible exact Frame.refl | assumption
    · subst x
      refine Frame.upd_channels (by decide) ?_
      first | with_reducible exact Frame.refl | assumption
  · subst x
    refine Frame.foldl (fun _ _ _ => ?_) ?_
    · refine Frame.ite ?_ ?_
      · refine Frame.step (State.dropStream_frame ..) (by decide) ?_
        refine Frame.step (State.closeBox_frame ..) (by decide) ?_
        first | with_reducible exact Frame.refl | assumption
      · first | with_reducible exact Frame.refl | assumption
    · first | with_reducible exact Frame.refl | assumption

theorem State.advanceTeardown_frame (s : State) (p) :
    s.Frame (fields [.parts, .cmds, .ended, .cores, .counters, .routes, .streams, .channels, .leases, .tally,
      .flashTally])
      (State.advanceTeardown s p) := by
  unfold State.advanceTeardown
  split
  · first | with_reducible exact Frame.refl | assumption
  · extract_lets -merge -underBinder +onlyGivenNames x
    refine Frame.cut (x := x) (fun hx => ?_) ?_
    · try clear_value x
      extract_lets -merge -underBinder +onlyGivenNames x
      refine Frame.cut (x := x) (fun hx => ?_) ?_
      · try clear_value x
        split
        · first | with_reducible exact Frame.refl | assumption
        · refine Frame.ite ?_ ?_
          · refine Frame.step (State.setTeardownStep_frame ..) (by decide) ?_
            first | with_reducible exact Frame.refl | assumption
          · first | with_reducible exact Frame.refl | assumption
      · subst x
        refine Frame.step (State.settleRoutes_frame ..) (by decide) ?_
        first | with_reducible exact Frame.refl | assumption
    · subst x
      refine Frame.ite ?_ ?_
      · refine Frame.step (State.setTeardownStep_frame ..) (by decide) ?_
        refine Frame.step (State.teardownRoutes_frame ..) (by decide) ?_
        refine Frame.step (State.teardownStreams_frame ..) (by decide) ?_
        first | with_reducible exact Frame.refl | assumption
      · first | with_reducible exact Frame.refl | assumption

theorem State.settleStream_frame (s : State) (n) (x) :
    s.Frame (fields [.parts, .cmds, .ended, .cores, .routes, .streams, .leases, .tally, .flashTally])
      (State.settleStream s n x) := by
  unfold State.settleStream
  refine Frame.ite ?_ ?_
  · first | with_reducible exact Frame.refl | assumption
  · extract_lets -merge -underBinder +onlyGivenNames x
    refine Frame.cut (x := x) (fun hx => ?_) ?_
    · try clear_value x
      split
      · refine Frame.ite ?_ ?_
        · refine Frame.step (State.dropStream_frame ..) (by decide) ?_
          first | with_reducible exact Frame.refl | assumption
        · first | with_reducible exact Frame.refl | assumption
      · refine Frame.step (State.dropStream_frame ..) (by decide) ?_
        first | with_reducible exact Frame.refl | assumption
    · subst x
      split
      · refine Frame.ite ?_ ?_
        · refine Frame.step (State.closeBox_frame ..) (by decide) ?_
          first | with_reducible exact Frame.refl | assumption
        · first | with_reducible exact Frame.refl | assumption
      · first | with_reducible exact Frame.refl | assumption

theorem State.settleStreams_frame (s : State) :
    s.Frame (fields [.parts, .cmds, .ended, .cores, .routes, .streams, .leases, .tally, .flashTally])
      (State.settleStreams s) := by
  unfold State.settleStreams
  refine Frame.foldl (fun _ _ _ => ?_) ?_
  · refine Frame.step (State.settleStream_frame ..) (by decide) ?_
    first | with_reducible exact Frame.refl | assumption
  · first | with_reducible exact Frame.refl | assumption

theorem State.settle_frame (s : State) :
    s.Frame (fields [.parts, .cmds, .ended, .cores, .counters, .routes, .streams, .channels, .leases, .tally,
      .flashTally])
      (State.settle s) := by
  unfold State.settle
  extract_lets -merge -underBinder +onlyGivenNames x
  refine Frame.cut (x := x) (fun hx => ?_) ?_
  · try clear_value x
    refine Frame.foldl (fun _ _ _ => ?_) ?_
    · refine Frame.step (State.advanceTeardown_frame ..) (by decide) ?_
      first | with_reducible exact Frame.refl | assumption
    · first | with_reducible exact Frame.refl | assumption
  · subst x
    refine Frame.step (State.settleRoutes_frame ..) (by decide) ?_
    refine Frame.step (State.settleStreams_frame ..) (by decide) ?_
    first | with_reducible exact Frame.refl | assumption

theorem State.disable_frame (s : State) (p) (abort) (waiter) :
    s.Frame (fields [.outbox, .freeCount, .parts, .cmds, .ended, .scrubs, .unmaps, .cores, .counters, .routes,
      .runs, .streams, .channels, .ports, .cascade, .leases, .buckets, .tally, .packing,
      .flashTally])
      (State.disable s p abort waiter) := by
  unfold State.disable
  extract_lets -merge -underBinder +onlyGivenNames x
  try clear_value x
  extract_lets -merge -underBinder +onlyGivenNames x
  try clear_value x
  extract_lets -merge -underBinder +onlyGivenNames x
  try clear_value x
  extract_lets -merge -underBinder +onlyGivenNames x
  try clear_value x
  extract_lets -merge -underBinder +onlyGivenNames x
  try clear_value x
  extract_lets -merge -underBinder +onlyGivenNames x
  refine Frame.cut (x := x) (fun hx => ?_) ?_
  · try clear_value x
    extract_lets -merge -underBinder +onlyGivenNames x
    refine Frame.cut (x := x) (fun hx => ?_) ?_
    · try clear_value x
      extract_lets -merge -underBinder +onlyGivenNames x
      refine Frame.cut (x := x) (fun hx => ?_) ?_
      · try clear_value x
        extract_lets -merge -underBinder +onlyGivenNames x
        refine Frame.cut (x := x) (fun hx => ?_) ?_
        · try clear_value x
          refine Frame.step (State.settle_frame ..) (by decide) ?_
          first | with_reducible exact Frame.refl | assumption
        · subst x
          refine Frame.ite ?_ ?_
          · refine Frame.foldl (fun _ _ _ => ?_) ?_
            · split
              · refine Frame.ite ?_ ?_
                · refine Frame.step (State.removeRun_frame ..) (by decide) ?_
                  first | with_reducible exact Frame.refl | assumption
                · first | with_reducible exact Frame.refl | assumption
              · first | with_reducible exact Frame.refl | assumption
            · first | with_reducible exact Frame.refl | assumption
          · first | with_reducible exact Frame.refl | assumption
      · subst x
        refine Frame.foldl (fun _ _ _ => ?_) ?_
        · refine Frame.step (State.cutShort_frame ..) (by decide) ?_
          first | with_reducible exact Frame.refl | assumption
        · first | with_reducible exact Frame.refl | assumption
    · subst x
      refine Frame.upd_streams (by decide) ?_
      first | with_reducible exact Frame.refl | assumption
  · subst x
    refine Frame.step (State.onPart_frame ..) (by decide) ?_
    first | with_reducible exact Frame.refl | assumption

theorem State.frameEnds_frame (s : State) (st) (release) (ok) :
    s.Frame (fields [.streams])
      (State.frameEnds s st release ok) := by
  unfold State.frameEnds
  refine Frame.step (State.onStream_frame ..) (by decide) ?_
  first | with_reducible exact Frame.refl | assumption

theorem State.failRun_frame (s : State) (rid) (st) (detail) :
    s.Frame (fields [.freeCount, .parts, .cmds, .ended, .cores, .counters, .routes, .runs, .streams, .channels,
      .leases, .tally, .flashTally])
      (State.failRun s rid st detail) := by
  unfold State.failRun
  split
  · first | with_reducible exact Frame.refl | assumption
  · extract_lets -merge -underBinder +onlyGivenNames x
    refine Frame.cut (x := x) (fun hx => ?_) ?_
    · try clear_value x
      extract_lets -merge -underBinder +onlyGivenNames x
      refine Frame.cut (x := x) (fun hx => ?_) ?_
      · try clear_value x
        refine Frame.step (State.settle_frame ..) (by decide) ?_
        first | with_reducible exact Frame.refl | assumption
      · subst x
        split
        · refine Frame.step (State.fail_frame ..) (by decide) ?_
          first | with_reducible exact Frame.refl | assumption
        · refine Frame.step (State.frameEnds_frame ..) (by decide) ?_
          first | with_reducible exact Frame.refl | assumption
    · subst x
      refine Frame.step (State.removeRun_frame ..) (by decide) ?_
      first | with_reducible exact Frame.refl | assumption

theorem State.finishRun_frame (s : State) (rid) :
    s.Frame (fields [.freeCount, .parts, .cmds, .ended, .cores, .counters, .routes, .runs, .streams, .channels,
      .leases, .tally, .flashTally])
      (State.finishRun s rid) := by
  unfold State.finishRun
  split
  · first | with_reducible exact Frame.refl | assumption
  · extract_lets -merge -underBinder +onlyGivenNames x
    refine Frame.cut (x := x) (fun hx => ?_) ?_
    · try clear_value x
      extract_lets -merge -underBinder +onlyGivenNames x
      refine Frame.cut (x := x) (fun hx => ?_) ?_
      · try clear_value x
        refine Frame.step (State.settle_frame ..) (by decide) ?_
        first | with_reducible exact Frame.refl | assumption
      · subst x
        split
        · refine Frame.step (State.complete_frame ..) (by decide) ?_
          first | with_reducible exact Frame.refl | assumption
        · refine Frame.step (State.frameEnds_frame ..) (by decide) ?_
          first | with_reducible exact Frame.refl | assumption
    · subst x
      refine Frame.step (State.removeRun_frame ..) (by decide) ?_
      first | with_reducible exact Frame.refl | assumption

theorem State.startUnmap_frame (s : State) (r) (why) :
    s.Frame (fields [.regions, .unmaps])
      (State.startUnmap s r why) := by
  unfold State.startUnmap
  extract_lets -merge -underBinder +onlyGivenNames x
  try clear_value x
  extract_lets -merge -underBinder +onlyGivenNames x
  refine Frame.cut (x := x) (fun hx => ?_) ?_
  · try clear_value x
    refine Frame.upd_unmaps (by decide) ?_
    first | with_reducible exact Frame.refl | assumption
  · subst x
    refine Frame.step (State.setRegion_frame ..) (by decide) ?_
    first | with_reducible exact Frame.refl | assumption

end Sys2Proof.Machine
end

