-- ==== Sys2Proof/Laws/FramesHost.lean ====
section
/-! SUPPORT. Frames of sessions, settings, functions, regions and routes: for each operation, the
components it may change, and that it keeps a well-kept state well kept. -/

namespace Sys2Proof.Machine
open State

theorem execCloseSession_frame (id) (s : State) :
    s.FrameOut (fields [.outbox, .fns, .cmds, .ended, .memUsed, .links, .tally, .flashTally])
      (execCloseSession id s) := by
  unfold execCloseSession
  refine FrameOut.opcodeRow (by decide) (fun _ _ _ => ?_)
  refine Frame.step (State.complete_frame ..) (by decide) ?_
  refine Frame.step (State.onFn_frame ..) (by decide) ?_
  first | with_reducible exact Frame.refl | assumption

theorem execQueryDevice_frame (id) (s : State) :
    s.FrameOut (fields [.outbox, .fns, .cmds, .ended, .memUsed, .links, .tally, .flashTally])
      (execQueryDevice id s) := by
  unfold execQueryDevice
  refine FrameOut.opcodeRow (by decide) (fun _ _ _ => ?_)
  split
  · refine Frame.step (State.fail_frame ..) (by decide) ?_
    first | with_reducible exact Frame.refl | assumption
  · refine Frame.step (State.complete_frame ..) (by decide) ?_
    first | with_reducible exact Frame.refl | assumption

theorem State.openSession_frame (s : State) (id) (c) :
    s.Frame (fields [.fns, .cmds, .ended, .tally, .flashTally])
      (State.openSession s id c) := by
  unfold State.openSession
  extract_lets -merge -underBinder +onlyGivenNames x
  try clear_value x
  split
  · refine Frame.step (State.fail_frame ..) (by decide) ?_
    first | with_reducible exact Frame.refl | assumption
  · refine Frame.ite ?_ ?_
    · refine Frame.step (State.fail_frame ..) (by decide) ?_
      first | with_reducible exact Frame.refl | assumption
    · extract_lets -merge -underBinder +onlyGivenNames x
      try clear_value x
      extract_lets -merge -underBinder +onlyGivenNames x
      refine Frame.cut (x := x) (fun hx => ?_) ?_
      · try clear_value x
        refine Frame.step (State.complete_frame ..) (by decide) ?_
        first | with_reducible exact Frame.refl | assumption
      · subst x
        refine Frame.step (State.setFn_frame ..) (by decide) ?_
        first | with_reducible exact Frame.refl | assumption

theorem execOpenSession_frame (id) (s : State) :
    s.FrameOut (fields [.outbox, .fns, .cmds, .ended, .memUsed, .links, .tally, .flashTally])
      (execOpenSession id s) := by
  unfold execOpenSession
  refine FrameOut.opcodeRow (by decide) (fun _ _ _ => ?_)
  refine Frame.step (State.openSession_frame ..) (by decide) ?_
  first | with_reducible exact Frame.refl | assumption

theorem State.setShadow_frame (s : State) (p) (set) :
    s.Frame (fields [.parts, .config])
      (State.setShadow s p set) := by
  unfold State.setShadow
  refine Frame.ite ?_ ?_
  · refine Frame.upd_config (by decide) ?_
    first | with_reducible exact Frame.refl | assumption
  · refine Frame.step (State.onPart_frame ..) (by decide) ?_
    first | with_reducible exact Frame.refl | assumption

theorem State.changeVcore_frame (s : State) (goal) : s.Frame (fields [.power]) (State.changeVcore s goal) := by
  unfold State.changeVcore
  extract_lets -merge -underBinder +onlyGivenNames x
  try clear_value x
  refine Frame.ite ?_ ?_
  · first | with_reducible exact Frame.refl | assumption
  · extract_lets -merge -underBinder +onlyGivenNames x
    try clear_value x
    refine Frame.upd_power (by decide) ?_
    first | with_reducible exact Frame.refl | assumption

theorem State.fitVcore_frame (s : State) : s.Frame (fields [.power]) (State.fitVcore s) := by
  unfold State.fitVcore
  refine Frame.ite ?_ ?_
  · first | with_reducible exact Frame.refl | assumption
  · extract_lets -merge -underBinder +onlyGivenNames x
    try clear_value x
    extract_lets -merge -underBinder +onlyGivenNames x
    refine Frame.cut (x := x) (fun hx => ?_) ?_
    · try clear_value x
      refine Frame.upd_power (by decide) ?_
      first | with_reducible exact Frame.refl | assumption
    · subst x
      refine Frame.step (State.changeVcore_frame ..) (by decide) ?_
      first | with_reducible exact Frame.refl | assumption

theorem State.setCommit_frame (s : State) (p) (c) :
    s.Frame (fields [.parts, .config, .mgt])
      (State.setCommit s p c) := by
  unfold State.setCommit
  refine Frame.ite ?_ ?_
  · refine Frame.upd_config (by decide) ?_
    first | with_reducible exact Frame.refl | assumption
  · refine Frame.ite ?_ ?_
    · refine Frame.upd_mgt (by decide) ?_
      first | with_reducible exact Frame.refl | assumption
    · refine Frame.step (State.onPart_frame ..) (by decide) ?_
      first | with_reducible exact Frame.refl | assumption

theorem State.setCap_frame (s : State) (p) (w) : s.Frame (fields [.outbox, .config]) (State.setCap s p w) := by
  unfold State.setCap
  extract_lets -merge -underBinder +onlyGivenNames x
  try clear_value x
  extract_lets -merge -underBinder +onlyGivenNames x
  refine Frame.cut (x := x) (fun hx => ?_) ?_
  · try clear_value x
    refine Frame.ite ?_ ?_
    · first | with_reducible exact Frame.refl | assumption
    · refine Frame.step (State.ibi_frame ..) (by decide) ?_
      first | with_reducible exact Frame.refl | assumption
  · subst x
    refine Frame.upd_config (by decide) ?_
    first | with_reducible exact Frame.refl | assumption

theorem State.setPortMode_frame (s : State) (p) (v) :
    s.Frame (fields [.ports, .health])
      (State.setPortMode s p v) := by
  unfold State.setPortMode
  extract_lets -merge -underBinder +onlyGivenNames x
  try clear_value x
  refine Frame.ite ?_ ?_
  · first | with_reducible exact Frame.refl | assumption
  · extract_lets -merge -underBinder +onlyGivenNames x
    refine Frame.cut (x := x) (fun hx => ?_) ?_
    · try clear_value x
      refine Frame.ite ?_ ?_
      · refine Frame.step (State.event_frame ..) (by decide) ?_
        first | with_reducible exact Frame.refl | assumption
      · first | with_reducible exact Frame.refl | assumption
    · subst x
      refine Frame.step (State.setPort_frame ..) (by decide) ?_
      first | with_reducible exact Frame.refl | assumption

theorem State.applyItem_frame (p) (s : State) (e) :
    s.Frame (fields [.outbox, .parts, .config, .cores, .routes, .ports, .time, .health])
      (State.applyItem p s e) := by
  unfold State.applyItem
  split
  · refine Frame.upd_config (by decide) ?_
    first | with_reducible exact Frame.refl | assumption
  · refine Frame.step (State.setCap_frame ..) (by decide) ?_
    first | with_reducible exact Frame.refl | assumption
  · refine Frame.upd_time (by decide) ?_
    first | with_reducible exact Frame.refl | assumption
  · refine Frame.upd_config_time (by decide) ?_
    first | with_reducible exact Frame.refl | assumption
  · refine Frame.step (State.setPortMode_frame ..) (by decide) ?_
    first | with_reducible exact Frame.refl | assumption
  · extract_lets -merge -underBinder +onlyGivenNames x
    refine Frame.cut (x := x) (fun hx => ?_) ?_
    · try clear_value x
      refine Frame.step (State.onCores_frame ..) (by decide) ?_
      first | with_reducible exact Frame.refl | assumption
    · subst x
      refine Frame.step (State.onPart_frame ..) (by decide) ?_
      first | with_reducible exact Frame.refl | assumption
  · refine Frame.step (State.onRoute_frame ..) (by decide) ?_
    first | with_reducible exact Frame.refl | assumption
  · refine Frame.step (State.onPort_frame ..) (by decide) ?_
    first | with_reducible exact Frame.refl | assumption

theorem State.checkCommit_frame (s : State) (p) (set) :
    s.Frame (fields [.tally, .flashTally])
      (State.checkCommit s p set).2 := by
  unfold State.checkCommit
  split
  · split
    · refine Frame.ite2 ?_ ?_
      · refine Frame.mk2 ?_
        first
          | with_reducible exact Frame.refl
          | assumption
          | (refine Frame.ofIte ‹_› ?_ ?_
             · refine Frame.step (State.testAdmission_frame ..) (by decide) ?_
               first | with_reducible exact Frame.refl | assumption
             · first | with_reducible exact Frame.refl | assumption)
      · refine Frame.ite2 ?_ ?_
        · refine Frame.mk2 ?_
          first
            | with_reducible exact Frame.refl
            | assumption
            | (refine Frame.ofIte ‹_› ?_ ?_
               · refine Frame.step (State.testAdmission_frame ..) (by decide) ?_
                 first | with_reducible exact Frame.refl | assumption
               · first | with_reducible exact Frame.refl | assumption)
        · refine Frame.mk2 ?_
          first
            | with_reducible exact Frame.refl
            | assumption
            | (refine Frame.ofIte ‹_› ?_ ?_
               · refine Frame.step (State.testAdmission_frame ..) (by decide) ?_
                 first | with_reducible exact Frame.refl | assumption
               · first | with_reducible exact Frame.refl | assumption)

theorem State.setCapState_frame (s : State) (n) : s.Frame (fields [.outbox, .mgt]) (State.setCapState s n) := by
  unfold State.setCapState
  extract_lets -merge -underBinder +onlyGivenNames x
  try clear_value x
  extract_lets -merge -underBinder +onlyGivenNames x
  refine Frame.cut (x := x) (fun hx => ?_) ?_
  · try clear_value x
    refine Frame.ite ?_ ?_
    · first | with_reducible exact Frame.refl | assumption
    · refine Frame.step (State.ibi_frame ..) (by decide) ?_
      first | with_reducible exact Frame.refl | assumption
  · subst x
    refine Frame.upd_mgt (by decide) ?_
    first | with_reducible exact Frame.refl | assumption

theorem State.commitDone_frame (s : State) (p) (n) (c) :
    s.Frame (fields [.outbox, .cmds, .ended, .mgt, .power, .tally, .flashTally])
      (State.commitDone s p n c) := by
  unfold State.commitDone
  refine Frame.ite ?_ ?_
  · refine Frame.step (State.setCapState_frame ..) (by decide) ?_
    first | with_reducible exact Frame.refl | assumption
  · split
    · first | with_reducible exact Frame.refl | assumption
    · refine Frame.ite ?_ ?_
      · refine Frame.upd_power (by decide) ?_
        first | with_reducible exact Frame.refl | assumption
      · refine Frame.step (State.complete_frame ..) (by decide) ?_
        first | with_reducible exact Frame.refl | assumption
    · refine Frame.step (State.complete_frame ..) (by decide) ?_
      first | with_reducible exact Frame.refl | assumption

theorem State.commitFails_frame (s : State) (p) (c) (st) :
    s.Frame (fields [.outbox, .cmds, .ended, .mgt, .tally, .flashTally])
      (State.commitFails s p c st) := by
  unfold State.commitFails
  refine Frame.ite ?_ ?_
  · refine Frame.step (State.setCapState_frame ..) (by decide) ?_
    first | with_reducible exact Frame.refl | assumption
  · split
    · first | with_reducible exact Frame.refl | assumption
    · refine Frame.step (State.fail_frame ..) (by decide) ?_
      first | with_reducible exact Frame.refl | assumption

theorem State.applyCommit_frame (s : State) (p) : s.Frame (fields [.outbox, .parts, .cmds, .ended, .config, .cores, .routes, .ports, .mgt, .time, .power, .health, .tally, .flashTally]) (s.applyCommit p) := by
  unfold State.applyCommit
  split
  · exact Frame.refl
  · have h1 : s.Frame (fields [.outbox, .parts, .cmds, .ended, .config, .cores, .routes, .ports, .mgt, .time, .power, .health, .tally, .flashTally]) (s.setCommit p none) := Frame.step (State.setCommit_frame ..) (by decide) Frame.refl
    refine Frame.ite (Frame.step (State.commitFails_frame ..) (by decide) (Frame.step (State.count_frame ..) (by decide) h1)) ?_
    extract_lets -merge set s1
    replace h1 : s.Frame (fields [.outbox, .parts, .cmds, .ended, .config, .cores, .routes, .ports, .mgt, .time, .power, .health, .tally, .flashTally]) s1 := h1
    clear_value s1 set
    split
    · rename_i e
      exact Frame.step (State.commitFails_frame ..) (by decide) (Frame.step (State.count_frame ..) (by decide)
        (Frame.step (Frame.snd e (State.checkCommit_frame ..)) (by decide) h1))
    · rename_i e
      have h2 := Frame.step (Frame.snd e (State.checkCommit_frame ..)) (by decide) h1
      have h3 := Frame.foldl (f := State.applyItem p) (l := set) (fun x t h => Frame.step (State.applyItem_frame p t x) (by decide) h) h2
      have h4 := Frame.ite (c := p = 0 ∨ p = 7) (Frame.step (State.fitVcore_frame ..) (by decide) h3) h3
      have h5 := Frame.ite (c := p = 7) h4 (Frame.step (State.setShadow_frame _ p []) (by decide) h4)
      exact Frame.step (State.commitDone_frame ..) (by decide) (Frame.step (State.count_frame ..) (by decide) h5)

theorem execCommitApply_frame (s : State) :
    s.FrameOut (fields [.outbox, .parts, .cmds, .ended, .config, .cores, .routes, .ports, .mgt, .time, .power, .health, .tally, .flashTally])
      (execCommitApply s) :=
  FrameOut.next (Frame.onlyIf Frame.refl
    (Frame.foldl (fun _ _ h => Frame.step (State.applyCommit_frame ..) (by decide) h) Frame.refl))

theorem State.commitConfig_frame (s : State) (id) (c) :
    s.Frame (fields [.parts, .cmds, .ended, .config, .mgt, .tally, .flashTally])
      (State.commitConfig s id c) := by
  unfold State.commitConfig
  extract_lets -merge -underBinder +onlyGivenNames x
  try clear_value x
  refine Frame.ite ?_ ?_
  · refine Frame.step (State.fail_frame ..) (by decide) ?_
    refine Frame.step (State.count_frame ..) (by decide) ?_
    first | with_reducible exact Frame.refl | assumption
  · refine Frame.ite ?_ ?_
    · refine Frame.step (State.complete_frame ..) (by decide) ?_
      refine Frame.step (State.setShadow_frame ..) (by decide) ?_
      first | with_reducible exact Frame.refl | assumption
    · split
      · refine Frame.step (State.fail_frame ..) (by decide) ?_
        refine Frame.step (State.count_frame ..) (by decide) ?_
        first
          | with_reducible exact Frame.refl
          | assumption
          | (refine Frame.step (Frame.snd ‹_› (State.checkCommit_frame ..)) (by decide) ?_
             first | with_reducible exact Frame.refl | assumption)
      · refine Frame.step (State.setCommit_frame ..) (by decide) ?_
        first
          | with_reducible exact Frame.refl
          | assumption
          | (refine Frame.step (Frame.snd ‹_› (State.checkCommit_frame ..)) (by decide) ?_
             first | with_reducible exact Frame.refl | assumption)

theorem execCommitConfig_frame (id) (s : State) :
    s.FrameOut (fields [.outbox, .fns, .parts, .cmds, .ended, .config, .memUsed, .links, .mgt, .tally, .flashTally])
      (execCommitConfig id s) := by
  unfold execCommitConfig
  refine FrameOut.opcodeRow (by decide) (fun _ _ _ => ?_)
  refine Frame.step (State.commitConfig_frame ..) (by decide) ?_
  first | with_reducible exact Frame.refl | assumption

theorem execCommitTimeout_frame (set) (s : State) :
    s.FrameOut (fields [.outbox, .parts, .cmds, .ended, .config, .mgt, .tally, .flashTally])
      (execCommitTimeout set s) := by
  unfold execCommitTimeout
  refine FrameOut.checked ?_
  refine Frame.withSome ?_ (fun _ => ?_)
  · first | with_reducible exact Frame.refl | assumption
  · refine Frame.ite ?_ ?_
    · refine Frame.step (State.commitFails_frame ..) (by decide) ?_
      refine Frame.step (State.count_frame ..) (by decide) ?_
      refine Frame.step (State.setCommit_frame ..) (by decide) ?_
      first | with_reducible exact Frame.refl | assumption
    · first | with_reducible exact Frame.refl | assumption

theorem State.stageConfig_frame (s : State) (id) (c) :
    s.Frame (fields [.parts, .cmds, .ended, .config, .tally, .flashTally])
      (State.stageConfig s id c) := by
  unfold State.stageConfig
  extract_lets -merge -underBinder +onlyGivenNames x
  try clear_value x
  refine Frame.ite ?_ ?_
  · refine Frame.step (State.fail_frame ..) (by decide) ?_
    refine Frame.step (State.count_frame ..) (by decide) ?_
    first | with_reducible exact Frame.refl | assumption
  · split
    · refine Frame.step (State.fail_frame ..) (by decide) ?_
      first | with_reducible exact Frame.refl | assumption
    · refine Frame.ite ?_ ?_
      · refine Frame.step (State.fail_frame ..) (by decide) ?_
        first | with_reducible exact Frame.refl | assumption
      · refine Frame.step (State.complete_frame ..) (by decide) ?_
        refine Frame.step (State.setShadow_frame ..) (by decide) ?_
        first | with_reducible exact Frame.refl | assumption

theorem execStageConfig_frame (id) (s : State) :
    s.FrameOut (fields [.outbox, .fns, .parts, .cmds, .ended, .config, .memUsed, .links, .tally, .flashTally])
      (execStageConfig id s) := by
  unfold execStageConfig
  refine FrameOut.opcodeRow (by decide) (fun _ _ _ => ?_)
  refine Frame.step (State.stageConfig_frame ..) (by decide) ?_
  first | with_reducible exact Frame.refl | assumption

theorem State.discardHeld_frame (s : State) (f) : s.Frame (fields [.cmds]) (State.discardHeld s f) := by
  unfold State.discardHeld
  refine Frame.upd_cmds (by decide) (fun h => ?_) ?_
  · first | exact Inv.cmdsErase h | exact Inv.cmdsFilter h | exact Inv.cmdsModify h | exact Inv.regionsPut h | exact ⟨wf_clearBytes h.1, h.2⟩
  · first | with_reducible exact Frame.refl | assumption

theorem State.disableFunction_frame (s : State) (id) (c) :
    s.Frame (fields [.outbox, .freeCount, .parts, .cmds, .ended, .scrubs, .unmaps, .cores, .counters, .routes,
      .runs, .streams, .channels, .ports, .cascade, .leases, .buckets, .tally, .packing,
      .flashTally])
      (State.disableFunction s id c) := by
  unfold State.disableFunction
  extract_lets -merge -underBinder +onlyGivenNames x
  try clear_value x
  extract_lets -merge -underBinder +onlyGivenNames x
  try clear_value x
  refine Frame.ite ?_ ?_
  · refine Frame.step (State.fail_frame ..) (by decide) ?_
    first | with_reducible exact Frame.refl | assumption
  · refine Frame.step (State.disable_frame ..) (by decide) ?_
    first | with_reducible exact Frame.refl | assumption

theorem execDisableFunction_frame (id) (s : State) :
    s.FrameOut (fieldsBut [.pending, .nextCmd, .turn, .config, .mem, .regions, .refreshing, .nextRun, .tagHomes,
      .security, .mgt, .time, .power, .health, .flash])
      (execDisableFunction id s) := by
  unfold execDisableFunction
  refine FrameOut.opcodeRow (by decide) (fun _ _ _ => ?_)
  refine Frame.step (State.disableFunction_frame ..) (by decide) ?_
  first | with_reducible exact Frame.refl | assumption

theorem State.scrubRegion_frame (s : State) (id) (c) :
    s.Frame (fields [.cmds, .ended, .scrubs, .tally, .flashTally])
      (State.scrubRegion s id c) := by
  unfold State.scrubRegion
  extract_lets -merge -underBinder +onlyGivenNames x
  try clear_value x
  split
  · refine Frame.step (State.fail_frame ..) (by decide) ?_
    first | with_reducible exact Frame.refl | assumption
  · refine Frame.ite ?_ ?_
    · refine Frame.step (State.fail_frame ..) (by decide) ?_
      first | with_reducible exact Frame.refl | assumption
    · extract_lets -merge -underBinder +onlyGivenNames x
      try clear_value x
      refine Frame.upd_scrubs (by decide) ?_
      first | with_reducible exact Frame.refl | assumption

theorem execScrubRegion_frame (id) (s : State) :
    s.FrameOut (fields [.outbox, .fns, .cmds, .ended, .scrubs, .memUsed, .links, .tally, .flashTally])
      (execScrubRegion id s) := by
  unfold execScrubRegion
  refine FrameOut.opcodeRow (by decide) (fun _ _ _ => ?_)
  refine Frame.step (State.scrubRegion_frame ..) (by decide) ?_
  first | with_reducible exact Frame.refl | assumption

theorem State.clearPerturb_frame (s : State) (p) (g) (i) :
    s.Frame (fields [.parts, .tally, .flashTally])
      (State.clearPerturb s p g i) := by
  unfold State.clearPerturb
  extract_lets -merge -underBinder +onlyGivenNames x
  try clear_value x
  extract_lets -merge -underBinder +onlyGivenNames x
  refine Frame.cut (x := x) (fun hx => ?_) ?_
  · try clear_value x
    refine Frame.ite ?_ ?_
    · refine Frame.step (State.count_frame ..) (by decide) ?_
      first | with_reducible exact Frame.refl | assumption
    · first | with_reducible exact Frame.refl | assumption
  · subst x
    refine Frame.step (State.onPart_frame ..) (by decide) ?_
    first | with_reducible exact Frame.refl | assumption

theorem State.unmapped_frame (s : State) (r) (why) :
    s.Frame (fields [.cmds, .ended, .regions, .scrubs, .unmaps, .tally, .flashTally])
      (State.unmapped s r why) := by
  unfold State.unmapped
  extract_lets -merge -underBinder +onlyGivenNames x
  try clear_value x
  extract_lets -merge -underBinder +onlyGivenNames x
  try clear_value x
  extract_lets -merge -underBinder +onlyGivenNames x
  try clear_value x
  extract_lets -merge -underBinder +onlyGivenNames x
  refine Frame.cut (x := x) (fun hx => ?_) ?_
  · try clear_value x
    extract_lets -merge -underBinder +onlyGivenNames x
    refine Frame.cut (x := x) (fun hx => ?_) ?_
    · try clear_value x
      split
      · first | with_reducible exact Frame.refl | assumption
      · refine Frame.step (State.complete_frame ..) (by decide) ?_
        first | with_reducible exact Frame.refl | assumption
    · subst x
      refine Frame.upd_scrubs_unmaps (by decide) ?_
      first | with_reducible exact Frame.refl | assumption
  · subst x
    refine Frame.step (State.setRegion_frame ..) (by decide) ?_
    first | with_reducible exact Frame.refl | assumption

theorem State.freeRegion_frame (s : State) (id) (c) :
    s.Frame (fields [.cmds, .ended, .regions, .unmaps, .tally, .flashTally])
      (State.freeRegion s id c) := by
  unfold State.freeRegion
  extract_lets -merge -underBinder +onlyGivenNames x
  try clear_value x
  split
  · refine Frame.step (State.fail_frame ..) (by decide) ?_
    first | with_reducible exact Frame.refl | assumption
  · refine Frame.ite ?_ ?_
    · refine Frame.step (State.fail_frame ..) (by decide) ?_
      first | with_reducible exact Frame.refl | assumption
    · refine Frame.step (State.startUnmap_frame ..) (by decide) ?_
      first | with_reducible exact Frame.refl | assumption

theorem execFreeRegion_frame (id) (s : State) :
    s.FrameOut (fields [.outbox, .fns, .cmds, .ended, .regions, .unmaps, .memUsed, .links, .tally, .flashTally])
      (execFreeRegion id s) := by
  unfold execFreeRegion
  refine FrameOut.opcodeRow (by decide) (fun _ _ _ => ?_)
  refine Frame.step (State.freeRegion_frame ..) (by decide) ?_
  first | with_reducible exact Frame.refl | assumption

theorem State.giveRegion_frame (s : State) (r) (p) (logical) :
    s.Frame (fields [.regions])
      (State.giveRegion s r p logical) := by
  unfold State.giveRegion
  refine Frame.step (State.setRegion_frame ..) (by decide) ?_
  first | with_reducible exact Frame.refl | assumption

theorem State.scrubbed_frame (s : State) (r) (why) :
    s.Frame (fields [.cmds, .ended, .mem, .regions, .scrubs, .memUsed, .tally, .flashTally])
      (State.scrubbed s r why) := by
  unfold State.scrubbed
  extract_lets -merge -underBinder +onlyGivenNames x
  refine Frame.cut (x := x) (fun hx => ?_) ?_
  · try clear_value x
    extract_lets -merge -underBinder +onlyGivenNames x
    try clear_value x
    extract_lets -merge -underBinder +onlyGivenNames x
    refine Frame.cut (x := x) (fun hx => ?_) ?_
    · try clear_value x
      split
      · first | with_reducible exact Frame.refl | assumption
      · refine Frame.foldl (fun _ _ _ => ?_) ?_
        · refine Frame.step (State.complete_frame ..) (by decide) ?_
          first | with_reducible exact Frame.refl | assumption
        · first | with_reducible exact Frame.refl | assumption
      · split
        · first | with_reducible exact Frame.refl | assumption
        · refine Frame.step (State.complete_frame ..) (by decide) ?_
          refine Frame.step (State.giveRegion_frame ..) (by decide) ?_
          first | with_reducible exact Frame.refl | assumption
    · subst x
      refine Frame.step (State.request_frame ..) (by decide) ?_
      refine Frame.step (State.count_frame ..) (by decide) ?_
      refine Frame.step (State.setRegion_frame ..) (by decide) ?_
      first | with_reducible exact Frame.refl | assumption
  · subst x
    refine Frame.upd_mem_scrubs (by decide) (fun h => ?_) ?_
    · first | exact Inv.cmdsErase h | exact Inv.cmdsFilter h | exact Inv.cmdsModify h | exact Inv.regionsPut h | exact ⟨wf_clearBytes h.1, h.2⟩
    · first | with_reducible exact Frame.refl | assumption

theorem State.allocRegion_frame (s : State) (id) (c) :
    s.Frame (fields [.cmds, .ended, .regions, .scrubs, .tally, .flashTally])
      (State.allocRegion s id c) := by
  unfold State.allocRegion
  extract_lets -merge -underBinder +onlyGivenNames x
  try clear_value x
  extract_lets -merge -underBinder +onlyGivenNames x
  try clear_value x
  extract_lets -merge -underBinder +onlyGivenNames x
  try clear_value x
  extract_lets -merge -underBinder +onlyGivenNames x
  try clear_value x
  split
  · refine Frame.step (State.fail_frame ..) (by decide) ?_
    first | with_reducible exact Frame.refl | assumption
  · refine Frame.ite ?_ ?_
    · refine Frame.step (State.fail_frame ..) (by decide) ?_
      first | with_reducible exact Frame.refl | assumption
    · split
      · refine Frame.step (State.fail_frame ..) (by decide) ?_
        first | with_reducible exact Frame.refl | assumption
      · refine Frame.step (State.complete_frame ..) (by decide) ?_
        refine Frame.step (State.giveRegion_frame ..) (by decide) ?_
        first | with_reducible exact Frame.refl | assumption
      · refine Frame.upd_scrubs (by decide) ?_
        first | with_reducible exact Frame.refl | assumption
      · refine Frame.upd_scrubs (by decide) ?_
        first | with_reducible exact Frame.refl | assumption

theorem execAllocRegion_frame (id) (s : State) :
    s.FrameOut (fields [.outbox, .fns, .cmds, .ended, .regions, .scrubs, .memUsed, .links, .tally, .flashTally])
      (execAllocRegion id s) := by
  unfold execAllocRegion
  refine FrameOut.opcodeRow (by decide) (fun _ _ _ => ?_)
  refine Frame.step (State.allocRegion_frame ..) (by decide) ?_
  first | with_reducible exact Frame.refl | assumption

theorem execRegionScrubComplete_frame (region) (s : State) :
    s.FrameOut (fields [.parts, .cmds, .ended, .mem, .regions, .scrubs, .memUsed, .cores, .counters, .routes,
      .streams, .channels, .leases, .tally, .flashTally])
      (execRegionScrubComplete region s) := by
  unfold execRegionScrubComplete
  refine FrameOut.checked ?_
  refine Frame.withSome ?_ (fun _ => ?_)
  · first | with_reducible exact Frame.refl | assumption
  · refine Frame.step (State.settle_frame ..) (by decide) ?_
    refine Frame.step (State.scrubbed_frame ..) (by decide) ?_
    first | with_reducible exact Frame.refl | assumption

theorem execScratchpadZeroComplete_frame (partition) (s : State) :
    s.FrameOut (fields [.parts, .regions, .unmaps, .cores])
      (execScratchpadZeroComplete partition s) := by
  unfold execScratchpadZeroComplete
  refine FrameOut.checked ?_
  refine Frame.withSome ?_ (fun _ => ?_)
  · first | with_reducible exact Frame.refl | assumption
  · refine Frame.ite ?_ ?_
    · first | with_reducible exact Frame.refl | assumption
    · extract_lets -merge -underBinder +onlyGivenNames x
      refine Frame.cut (x := x) (fun hx => ?_) ?_
      · try clear_value x
        extract_lets -merge -underBinder +onlyGivenNames x
        refine Frame.cut (x := x) (fun hx => ?_) ?_
        · try clear_value x
          refine Frame.step (State.setTeardownStep_frame ..) (by decide) ?_
          first | with_reducible exact Frame.refl | assumption
        · subst x
          refine Frame.foldl (fun _ _ _ => ?_) ?_
          · refine Frame.step (State.startUnmap_frame ..) (by decide) ?_
            first | with_reducible exact Frame.refl | assumption
          · first | with_reducible exact Frame.refl | assumption
      · subst x
        refine Frame.step (State.onCores_frame ..) (by decide) ?_
        first | with_reducible exact Frame.refl | assumption

theorem execUnmappingComplete_frame (region) (s : State) :
    s.FrameOut (fields [.parts, .cmds, .ended, .regions, .scrubs, .unmaps, .cores, .counters, .routes, .streams,
      .channels, .leases, .tally, .flashTally])
      (execUnmappingComplete region s) := by
  unfold execUnmappingComplete
  refine FrameOut.checked ?_
  refine Frame.withSome ?_ (fun _ => ?_)
  · first | with_reducible exact Frame.refl | assumption
  · refine Frame.ite ?_ ?_
    · first | with_reducible exact Frame.refl | assumption
    · refine Frame.step (State.settle_frame ..) (by decide) ?_
      refine Frame.step (State.unmapped_frame ..) (by decide) ?_
      first | with_reducible exact Frame.refl | assumption

theorem State.enableFunction_frame (s : State) (id) (c) :
    s.Frame (fields [.fns, .parts, .cmds, .ended, .tally, .flashTally])
      (State.enableFunction s id c) := by
  unfold State.enableFunction
  extract_lets -merge -underBinder +onlyGivenNames x
  try clear_value x
  extract_lets -merge -underBinder +onlyGivenNames x
  try clear_value x
  extract_lets -merge -underBinder +onlyGivenNames x
  try clear_value x
  extract_lets -merge -underBinder +onlyGivenNames x
  try clear_value x
  extract_lets -merge -underBinder +onlyGivenNames x
  try clear_value x
  refine Frame.ite ?_ ?_
  · refine Frame.step (State.fail_frame ..) (by decide) ?_
    first | with_reducible exact Frame.refl | assumption
  · extract_lets -merge -underBinder +onlyGivenNames x
    try clear_value x
    extract_lets -merge -underBinder +onlyGivenNames x
    refine Frame.cut (x := x) (fun hx => ?_) ?_
    · try clear_value x
      refine Frame.step (State.complete_frame ..) (by decide) ?_
      refine Frame.step (State.onRing_frame ..) (by decide) ?_
      first | with_reducible exact Frame.refl | assumption
    · subst x
      refine Frame.step (State.setPart_frame ..) (by decide) ?_
      first | with_reducible exact Frame.refl | assumption

theorem State.endTeardown_frame (s : State) (p) (t) :
    s.Frame (fields [.fns, .parts, .cmds, .ended, .tally, .flashTally])
      (State.endTeardown s p t) := by
  unfold State.endTeardown
  extract_lets -merge -underBinder +onlyGivenNames x
  refine Frame.cut (x := x) (fun hx => ?_) ?_
  · try clear_value x
    extract_lets -merge -underBinder +onlyGivenNames x
    refine Frame.cut (x := x) (fun hx => ?_) ?_
    · try clear_value x
      extract_lets -merge -underBinder +onlyGivenNames x
      refine Frame.cut (x := x) (fun hx => ?_) ?_
      · try clear_value x
        extract_lets -merge -underBinder +onlyGivenNames x
        refine Frame.cut (x := x) (fun hx => ?_) ?_
        · try clear_value x
          refine Frame.foldl (fun _ _ _ => ?_) ?_
          · refine Frame.step (State.complete_frame ..) (by decide) ?_
            first | with_reducible exact Frame.refl | assumption
          · first | with_reducible exact Frame.refl | assumption
        · subst x
          refine Frame.step (State.setPart_frame ..) (by decide) ?_
          first | with_reducible exact Frame.refl | assumption
      · subst x
        refine Frame.step (State.onFn_frame ..) (by decide) ?_
        first | with_reducible exact Frame.refl | assumption
    · subst x
      refine Frame.step (State.discardHeld_frame ..) (by decide) ?_
      first | with_reducible exact Frame.refl | assumption
  · subst x
    refine Frame.step (State.clearPerturb_frame ..) (by decide) ?_
    first | with_reducible exact Frame.refl | assumption

theorem execEnableFunction_frame (id) (s : State) :
    s.FrameOut (fields [.outbox, .fns, .parts, .cmds, .ended, .memUsed, .links, .tally, .flashTally])
      (execEnableFunction id s) := by
  unfold execEnableFunction
  refine FrameOut.opcodeRow (by decide) (fun _ _ _ => ?_)
  refine Frame.step (State.enableFunction_frame ..) (by decide) ?_
  first | with_reducible exact Frame.refl | assumption

theorem execTeardownComplete_frame (partition) (s : State) :
    s.FrameOut (fields [.fns, .parts, .cmds, .ended, .tally, .flashTally])
      (execTeardownComplete partition s) := by
  unfold execTeardownComplete
  refine FrameOut.checked ?_
  refine Frame.withSome ?_ (fun _ => ?_)
  · first | with_reducible exact Frame.refl | assumption
  · refine Frame.ite ?_ ?_
    · refine Frame.step (State.endTeardown_frame ..) (by decide) ?_
      first | with_reducible exact Frame.refl | assumption
    · first | with_reducible exact Frame.refl | assumption

theorem State.queueRun_frame (s : State) (r) : s.Frame (fields [.cores, .runs, .nextRun]) (State.queueRun s r) := by
  unfold State.queueRun
  extract_lets -merge -underBinder +onlyGivenNames x
  try clear_value x
  extract_lets -merge -underBinder +onlyGivenNames x
  refine Frame.cut (x := x) (fun hx => ?_) ?_
  · try clear_value x
    extract_lets -merge -underBinder +onlyGivenNames x
    refine Frame.cut (x := x) (fun hx => ?_) ?_
    · try clear_value x
      refine Frame.foldl (fun _ _ _ => ?_) ?_
      · refine Frame.step (State.onCore_frame ..) (by decide) ?_
        first | with_reducible exact Frame.refl | assumption
      · first | with_reducible exact Frame.refl | assumption
    · subst x
      refine Frame.upd_nextRun (by decide) ?_
      first | with_reducible exact Frame.refl | assumption
  · subst x
    refine Frame.step (State.setRun_frame ..) (by decide) ?_
    first | with_reducible exact Frame.refl | assumption

theorem State.without_frame (s : State) (rid) (r) : s.Frame (fields [.cores, .counters]) (State.without s rid r) := by
  unfold State.without
  extract_lets -merge -underBinder +onlyGivenNames x
  refine Frame.cut (x := x) (fun hx => ?_) ?_
  · try clear_value x
    refine Frame.foldl (fun _ _ _ => ?_) ?_
    · refine Frame.step (State.setCounter_frame ..) (by decide) ?_
      first | with_reducible exact Frame.refl | assumption
    · first | with_reducible exact Frame.refl | assumption
  · subst x
    refine Frame.foldl (fun _ _ _ => ?_) ?_
    · refine Frame.step (State.onCore_frame ..) (by decide) ?_
      first | with_reducible exact Frame.refl | assumption
    · first | with_reducible exact Frame.refl | assumption

theorem State.retile_frame {s : State} {rid r p} :
    (∀ t, s.retile rid r p = .ok t → s.Frame (fields [.cores, .counters, .routes, .tally, .flashTally]) t) ∧
    (∀ a b t, s.retile rid r p = .error (a, b, t) → s.Frame (fields [.cores, .counters, .routes, .tally, .flashTally]) t) := by
  suffices h : ∀ e, s.retile rid r p = e → (∀ t, e = .ok t → s.Frame (fields [.cores, .counters, .routes, .tally, .flashTally]) t) ∧
      (∀ a b t, e = .error (a, b, t) → s.Frame (fields [.cores, .counters, .routes, .tally, .flashTally]) t) from h _ rfl
  intro e h
  have hc : s.Frame (fields [.cores, .counters, .routes, .tally, .flashTally]) (s.count 43 5) := Frame.step (State.count_frame ..) (by decide) Frame.refl
  unfold State.retile at h
  split at h
  · subst h
    exact ⟨fun t h => (by cases h; exact Frame.refl), fun _ _ _ h => nomatch h⟩
  · extract_lets -merge keep s1 steps at h
    have hk : ∀ t, s.Frame (fields [.cores, .counters, .routes, .tally, .flashTally]) t → s.Frame (fields [.cores, .counters, .routes, .tally, .flashTally]) (keep t) := fun t ht =>
      Frame.step (State.onRoute_frame ..) (by decide) ht
    split at h
    · subst h
      exact ⟨fun t h => (by cases h; exact hk _ Frame.refl), fun _ _ _ h => nomatch h⟩
    · split at h
      · subst h
        exact ⟨fun _ h => (nomatch h), fun _ _ _ h => by cases h; exact hc⟩
      · split at h
        rename_i e
        have h1 := Frame.trans hc ((Frame.snd e (State.testAdmission_frame ..)).mono (w := fields [.cores, .counters, .routes, .tally, .flashTally]) (by decide))
        split at h <;> subst h
        · exact ⟨fun t h => (by cases h; exact hk _ h1), fun _ _ _ h => nomatch h⟩
        · exact ⟨fun _ h => (nomatch h), fun _ _ _ h => by cases h; exact h1⟩

theorem State.runRoute_frame (s : State) (id) (c) :
    s.Frame (fields [.cmds, .ended, .cores, .counters, .routes, .runs, .nextRun, .tally, .flashTally])
      (State.runRoute s id c) := by
  unfold State.runRoute
  extract_lets -merge -underBinder +onlyGivenNames x
  try clear_value x
  extract_lets -merge -underBinder +onlyGivenNames x
  try clear_value x
  split
  · refine Frame.step (State.fail_frame ..) (by decide) ?_
    first | with_reducible exact Frame.refl | assumption
  · refine Frame.ite ?_ ?_
    · refine Frame.step (State.fail_frame ..) (by decide) ?_
      first | with_reducible exact Frame.refl | assumption
    · split
      · refine Frame.step (State.fail_frame ..) (by decide) ?_
        first | with_reducible exact Frame.refl | assumption
      · split
        · refine Frame.step (State.fail_frame ..) (by decide) ?_
          first
            | with_reducible exact Frame.refl
            | assumption
            | (refine Frame.step (State.retile_frame.1 _ ‹_›) (by decide) ?_
               first | with_reducible exact Frame.refl | assumption)
            | (refine Frame.step (State.retile_frame.2 _ _ _ ‹_›) (by decide) ?_
               first | with_reducible exact Frame.refl | assumption)
            | (refine Frame.step (State.retile_frame.2 _ ‹_›) (by decide) ?_
               first | with_reducible exact Frame.refl | assumption)
        · split
          · refine Frame.step (State.fail_frame ..) (by decide) ?_
            first
              | with_reducible exact Frame.refl
              | assumption
              | (refine Frame.step (State.retile_frame.1 _ ‹_›) (by decide) ?_
                 first | with_reducible exact Frame.refl | assumption)
              | (refine Frame.step (State.retile_frame.2 _ _ _ ‹_›) (by decide) ?_
                 first | with_reducible exact Frame.refl | assumption)
              | (refine Frame.step (State.retile_frame.2 _ ‹_›) (by decide) ?_
                 first | with_reducible exact Frame.refl | assumption)
          · refine Frame.step (State.queueRun_frame ..) (by decide) ?_
            first
              | with_reducible exact Frame.refl
              | assumption
              | (refine Frame.step (State.retile_frame.1 _ ‹_›) (by decide) ?_
                 first | with_reducible exact Frame.refl | assumption)
              | (refine Frame.step (State.retile_frame.2 _ _ _ ‹_›) (by decide) ?_
                 first | with_reducible exact Frame.refl | assumption)
              | (refine Frame.step (State.retile_frame.2 _ ‹_›) (by decide) ?_
                 first | with_reducible exact Frame.refl | assumption)

theorem execRunRoute_frame (id) (s : State) :
    s.FrameOut (fields [.outbox, .fns, .cmds, .ended, .memUsed, .links, .cores, .counters, .routes, .runs,
      .nextRun, .tally, .flashTally])
      (execRunRoute id s) := by
  unfold execRunRoute
  refine FrameOut.opcodeRow (by decide) (fun _ _ _ => ?_)
  refine Frame.step (State.runRoute_frame ..) (by decide) ?_
  first | with_reducible exact Frame.refl | assumption

theorem State.takeCounters_frame (s : State) (p) (ns) : s.Frame (fields [.counters]) (State.takeCounters s p ns) := by
  unfold State.takeCounters
  refine Frame.foldl (fun _ _ _ => ?_) ?_
  · refine Frame.step (State.setCounter_frame ..) (by decide) ?_
    first | with_reducible exact Frame.refl | assumption
  · first | with_reducible exact Frame.refl | assumption

theorem State.placeImage_frame (s : State) (rid) (i) : s.Frame (fields [.cores]) (State.placeImage s rid i) := by
  unfold State.placeImage
  extract_lets -merge -underBinder +onlyGivenNames x
  refine Frame.cut (x := x) (fun hx => ?_) ?_
  · try clear_value x
    refine Frame.foldl (fun _ _ _ => ?_) ?_
    · refine Frame.step (State.onCore_frame ..) (by decide) ?_
      first | with_reducible exact Frame.refl | assumption
    · first | with_reducible exact Frame.refl | assumption
  · subst x
    refine Frame.foldl (fun _ _ _ => ?_) ?_
    · refine Frame.step (State.onCore_frame ..) (by decide) ?_
      first | with_reducible exact Frame.refl | assumption
    · first | with_reducible exact Frame.refl | assumption

theorem State.allotSeen_frame (s : State) (steps) : s.Frame (fields [.cores]) (State.allotSeen s steps) := by
  unfold State.allotSeen
  refine Frame.foldl (fun _ _ _ => ?_) ?_
  · refine Frame.ite ?_ ?_
    · first | with_reducible exact Frame.refl | assumption
    · refine Frame.foldl (fun _ _ _ => ?_) ?_
      · refine Frame.step (State.onCore_frame ..) (by decide) ?_
        first | with_reducible exact Frame.refl | assumption
      · first | with_reducible exact Frame.refl | assumption
  · first | with_reducible exact Frame.refl | assumption

theorem State.checkImage_frame (s : State) (c) (keep) :
    s.Frame (fields [.memUsed, .links, .tally, .flashTally])
      (State.checkImage s c keep).1 := by
  unfold State.checkImage
  extract_lets -merge -underBinder +onlyGivenNames x
  try clear_value x
  extract_lets -merge -underBinder +onlyGivenNames x
  try clear_value x
  split
  · refine Frame.mk1 ?_
    first
      | with_reducible exact Frame.refl
      | assumption
      | (refine Frame.step (Frame.fst ‹_› (State.verifyImage_frame ..)) (by decide) ?_
         first | with_reducible exact Frame.refl | assumption)
  · refine Frame.mk1 ?_
    first
      | with_reducible exact Frame.refl
      | assumption
      | (refine Frame.step (Frame.fst ‹_› (State.verifyImage_frame ..)) (by decide) ?_
         first | with_reducible exact Frame.refl | assumption)

theorem State.loadRoute_frame (s : State) (id) (c) :
    s.Frame (fields [.cmds, .ended, .memUsed, .links, .cores, .counters, .routes, .tally, .flashTally])
      (State.loadRoute s id c) := by
  unfold State.loadRoute
  split
  · refine Frame.step (State.fail_frame ..) (by decide) ?_
    first
      | with_reducible exact Frame.refl
      | assumption
      | (refine Frame.step (Frame.fst ‹_› (State.checkImage_frame ..)) (by decide) ?_
         first | with_reducible exact Frame.refl | assumption)
  · extract_lets -merge -underBinder +onlyGivenNames x
    try clear_value x
    extract_lets -merge -underBinder +onlyGivenNames x
    try clear_value x
    extract_lets -merge -underBinder +onlyGivenNames x
    try clear_value x
    split
    · refine Frame.ite ?_ ?_
      · refine Frame.step (State.fail_frame ..) (by decide) ?_
        first
          | with_reducible exact Frame.refl
          | assumption
          | (refine Frame.step (Frame.snd ‹_› (State.testAdmission_frame ..)) (by decide) ?_
             first
               | with_reducible exact Frame.refl
               | assumption
               | (refine Frame.step (Frame.fst ‹_› (State.checkImage_frame ..)) (by decide) ?_
                  first | with_reducible exact Frame.refl | assumption))
          | (refine Frame.step (Frame.fst ‹_› (State.checkImage_frame ..)) (by decide) ?_
             first
               | with_reducible exact Frame.refl
               | assumption
               | (refine Frame.step (Frame.snd ‹_› (State.testAdmission_frame ..)) (by decide) ?_
                  first | with_reducible exact Frame.refl | assumption))
      · extract_lets -merge -underBinder +onlyGivenNames x
        try clear_value x
        extract_lets -merge -underBinder +onlyGivenNames x
        try clear_value x
        extract_lets -merge -underBinder +onlyGivenNames x
        try clear_value x
        extract_lets -merge -underBinder +onlyGivenNames x
        refine Frame.cut (x := x) (fun hx => ?_) ?_
        · try clear_value x
          refine Frame.ite ?_ ?_
          · refine Frame.step (State.complete_frame ..) (by decide) ?_
            first
              | with_reducible exact Frame.refl
              | assumption
              | (refine Frame.step (Frame.snd ‹_› (State.testAdmission_frame ..)) (by decide) ?_
                 first
                   | with_reducible exact Frame.refl
                   | assumption
                   | (refine Frame.step (Frame.fst ‹_› (State.checkImage_frame ..)) (by decide) ?_
                      first | with_reducible exact Frame.refl | assumption))
              | (refine Frame.step (Frame.fst ‹_› (State.checkImage_frame ..)) (by decide) ?_
                 first
                   | with_reducible exact Frame.refl
                   | assumption
                   | (refine Frame.step (Frame.snd ‹_› (State.testAdmission_frame ..)) (by decide) ?_
                      first | with_reducible exact Frame.refl | assumption))
          · refine Frame.step (State.onRoute_frame ..) (by decide) ?_
            first
              | with_reducible exact Frame.refl
              | assumption
              | (refine Frame.step (Frame.snd ‹_› (State.testAdmission_frame ..)) (by decide) ?_
                 first
                   | with_reducible exact Frame.refl
                   | assumption
                   | (refine Frame.step (Frame.fst ‹_› (State.checkImage_frame ..)) (by decide) ?_
                      first | with_reducible exact Frame.refl | assumption))
              | (refine Frame.step (Frame.fst ‹_› (State.checkImage_frame ..)) (by decide) ?_
                 first
                   | with_reducible exact Frame.refl
                   | assumption
                   | (refine Frame.step (Frame.snd ‹_› (State.testAdmission_frame ..)) (by decide) ?_
                      first | with_reducible exact Frame.refl | assumption))
        · subst x
          refine Frame.step (State.allotSeen_frame ..) (by decide) ?_
          refine Frame.step (State.takeCounters_frame ..) (by decide) ?_
          refine Frame.step (State.placeImage_frame ..) (by decide) ?_
          refine Frame.step (State.setRoute_frame ..) (by decide) ?_
          first
            | with_reducible exact Frame.refl
            | assumption
            | (refine Frame.step (Frame.snd ‹_› (State.testAdmission_frame ..)) (by decide) ?_
               first
                 | with_reducible exact Frame.refl
                 | assumption
                 | (refine Frame.step (Frame.fst ‹_› (State.checkImage_frame ..)) (by decide) ?_
                    first | with_reducible exact Frame.refl | assumption))
            | (refine Frame.step (Frame.fst ‹_› (State.checkImage_frame ..)) (by decide) ?_
               first
                 | with_reducible exact Frame.refl
                 | assumption
                 | (refine Frame.step (Frame.snd ‹_› (State.testAdmission_frame ..)) (by decide) ?_
                    first | with_reducible exact Frame.refl | assumption))

theorem State.abortRoute_frame (s : State) (id) (c) :
    s.Frame (fields [.freeCount, .parts, .cmds, .ended, .cores, .counters, .routes, .runs, .streams, .channels,
      .leases, .tally, .flashTally])
      (State.abortRoute s id c) := by
  unfold State.abortRoute
  extract_lets -merge -underBinder +onlyGivenNames x
  try clear_value x
  split
  · refine Frame.step (State.fail_frame ..) (by decide) ?_
    first | with_reducible exact Frame.refl | assumption
  · refine Frame.ite ?_ ?_
    · refine Frame.step (State.fail_frame ..) (by decide) ?_
      first | with_reducible exact Frame.refl | assumption
    · extract_lets -merge -underBinder +onlyGivenNames x
      try clear_value x
      extract_lets -merge -underBinder +onlyGivenNames x
      refine Frame.cut (x := x) (fun hx => ?_) ?_
      · try clear_value x
        refine Frame.ite ?_ ?_
        · refine Frame.step (State.settle_frame ..) (by decide) ?_
          refine Frame.step (State.startRelease_frame ..) (by decide) ?_
          refine Frame.step (State.onCmd_frame ..) (by decide) ?_
          first | with_reducible exact Frame.refl | assumption
        · refine Frame.step (State.complete_frame ..) (by decide) ?_
          first | with_reducible exact Frame.refl | assumption
      · subst x
        refine Frame.foldl (fun _ _ _ => ?_) ?_
        · refine Frame.step (State.failRun_frame ..) (by decide) ?_
          first | with_reducible exact Frame.refl | assumption
        · first | with_reducible exact Frame.refl | assumption

theorem execAbortRoute_frame (id) (s : State) :
    s.FrameOut (fields [.outbox, .freeCount, .fns, .parts, .cmds, .ended, .memUsed, .links, .cores, .counters,
      .routes, .runs, .streams, .channels, .leases, .tally, .flashTally])
      (execAbortRoute id s) := by
  unfold execAbortRoute
  refine FrameOut.opcodeRow (by decide) (fun _ _ _ => ?_)
  refine Frame.step (State.abortRoute_frame ..) (by decide) ?_
  first | with_reducible exact Frame.refl | assumption

theorem execVerifyRoute_frame (id) (s : State) :
    s.FrameOut (fields [.outbox, .fns, .cmds, .ended, .memUsed, .links, .tally, .flashTally])
      (execVerifyRoute id s) := by
  unfold execVerifyRoute
  refine FrameOut.opcodeRow (by decide) (fun _ _ _ => ?_)
  split
  · refine Frame.step (State.fail_frame ..) (by decide) ?_
    first
      | with_reducible exact Frame.refl
      | assumption
      | (refine Frame.step (Frame.fst ‹_› (State.checkImage_frame ..)) (by decide) ?_
         first | with_reducible exact Frame.refl | assumption)
  · refine Frame.step (State.complete_frame ..) (by decide) ?_
    first
      | with_reducible exact Frame.refl
      | assumption
      | (refine Frame.step (Frame.fst ‹_› (State.checkImage_frame ..)) (by decide) ?_
         first | with_reducible exact Frame.refl | assumption)

theorem execLoadRoute_frame (id) (s : State) :
    s.FrameOut (fields [.outbox, .fns, .cmds, .ended, .memUsed, .links, .cores, .counters, .routes, .tally,
      .flashTally])
      (execLoadRoute id s) := by
  unfold execLoadRoute
  refine FrameOut.opcodeRow (by decide) (fun _ _ _ => ?_)
  refine Frame.step (State.loadRoute_frame ..) (by decide) ?_
  first | with_reducible exact Frame.refl | assumption

theorem State.refusedRun_frame (s : State) (rid) :
    s.Frame (fields [.freeCount, .parts, .cmds, .ended, .cores, .counters, .routes, .runs, .streams, .channels,
      .leases, .tally, .flashTally])
      (State.refusedRun s rid) := by
  unfold State.refusedRun
  refine Frame.step (State.failRun_frame ..) (by decide) ?_
  refine Frame.step (State.refusal_frame ..) (by decide) ?_
  first | with_reducible exact Frame.refl | assumption

theorem State.writeTracker_frame {s t : State} {r} (h : s.writeTracker r = some t) :
    s.Frame (fields [.mem, .memUsed]) t := by
  unfold State.writeTracker at h
  split at h
  · cases h; exact Frame.refl
  · exact Frame.foldlM (fun _ _ _ hx e => hx.trans ((State.writeTile_frame e).mono (by decide))) Frame.refl t h

theorem State.trackerWrites_frame (s : State) (rid) :
    s.Frame (fields [.freeCount, .parts, .cmds, .ended, .mem, .memUsed, .cores, .counters, .routes, .runs,
      .streams, .channels, .leases, .tally, .flashTally])
      (State.trackerWrites s rid) := by
  unfold State.trackerWrites
  refine Frame.withSome ?_ (fun _ => ?_)
  · first | with_reducible exact Frame.refl | assumption
  · refine Frame.getD (fun _ h => ?_) ?_
    · refine Frame.step (State.writeTracker_frame h) (by decide) ?_
      first | with_reducible exact Frame.refl | assumption
    · refine Frame.step (State.refusedRun_frame ..) (by decide) ?_
      first | with_reducible exact Frame.refl | assumption

theorem State.tryEnd_frame (s : State) (rid) :
    s.Frame (fields [.outbox, .freeCount, .fns, .parts, .cmds, .ended, .cores, .counters, .routes, .runs,
      .streams, .channels, .ports, .leases, .health, .tally, .flashTally])
      (State.tryEnd s rid) := by
  unfold State.tryEnd
  split
  · first | with_reducible exact Frame.refl | assumption
  · refine Frame.ite ?_ ?_
    · split
      · refine Frame.step (State.fault_frame ..) (by decide) ?_
        first | with_reducible exact Frame.refl | assumption
      · refine Frame.step (State.finishRun_frame ..) (by decide) ?_
        first | with_reducible exact Frame.refl | assumption
    · first | with_reducible exact Frame.refl | assumption

theorem State.stepEnds_frame (s : State) (rid) (step) (cores) :
    s.Frame (fields [.outbox, .freeCount, .fns, .parts, .cmds, .ended, .mem, .memUsed, .cores, .counters,
      .routes, .runs, .streams, .channels, .ports, .leases, .health, .tally, .flashTally])
      (State.stepEnds s rid step cores) := by
  unfold State.stepEnds
  extract_lets -merge -underBinder +onlyGivenNames x
  refine Frame.cut (x := x) (fun hx => ?_) ?_
  · try clear_value x
    extract_lets -merge -underBinder +onlyGivenNames x
    refine Frame.cut (x := x) (fun hx => ?_) ?_
    · try clear_value x
      split
      · first | with_reducible exact Frame.refl | assumption
      · extract_lets -merge -underBinder +onlyGivenNames x
        refine Frame.cut (x := x) (fun hx => ?_) ?_
        · try clear_value x
          refine Frame.ite ?_ ?_
          · refine Frame.step (State.tryEnd_frame ..) (by decide) ?_
            refine Frame.step (State.trackerWrites_frame ..) (by decide) ?_
            first | with_reducible exact Frame.refl | assumption
          · first | with_reducible exact Frame.refl | assumption
        · subst x
          refine Frame.foldl (fun _ _ _ => ?_) ?_
          · refine Frame.ite ?_ ?_
            · first | with_reducible exact Frame.refl | assumption
            · refine Frame.step (State.onCore_frame ..) (by decide) ?_
              first | with_reducible exact Frame.refl | assumption
          · first | with_reducible exact Frame.refl | assumption
    · subst x
      refine Frame.foldl (fun _ _ _ => ?_) ?_
      · refine Frame.step (State.onCore_frame ..) (by decide) ?_
        first | with_reducible exact Frame.refl | assumption
      · first | with_reducible exact Frame.refl | assumption
  · subst x
    refine Frame.step (State.onRun_frame ..) (by decide) ?_
    first | with_reducible exact Frame.refl | assumption

end Sys2Proof.Machine
end

