-- ==== Sys2Proof/Laws/FramesCompute.lean ====
section
/-! SUPPORT. Frames of the escapement, the arrays, the vector unit, the scatter unit and the packer: for each operation, the
components it may change, and that it keeps a well-kept state well kept. -/

namespace Sys2Proof.Machine
open State

theorem State.notice_frame (s : State) (rid) (bit_) : s.Frame (fields [.runs]) (State.notice s rid bit_) := by
  unfold State.notice
  refine Frame.step (State.onRun_frame ..) (by decide) ?_
  first | with_reducible exact Frame.refl | assumption

theorem State.discardDup_frame (s : State) (core) :
    s.Frame (fields [.runs, .tally, .flashTally])
      (State.discardDup s core) := by
  unfold State.discardDup
  extract_lets -merge -underBinder +onlyGivenNames x
  refine Frame.cut (x := x) (fun hx => ?_) ?_
  · try clear_value x
    refine Frame.withSome ?_ (fun _ => ?_)
    · first | with_reducible exact Frame.refl | assumption
    · refine Frame.step (State.notice_frame ..) (by decide) ?_
      first | with_reducible exact Frame.refl | assumption
  · subst x
    refine Frame.step (State.countCore_frame ..) (by decide) ?_
    first | with_reducible exact Frame.refl | assumption

theorem State.offerWrite_frame (s : State) (core) (w) :
    s.Frame (fields [.parts, .cores, .runs, .tally, .flashTally])
      (State.offerWrite s core w).2 := by
  unfold State.offerWrite
  extract_lets -merge -underBinder +onlyGivenNames x
  refine Frame.cut (x := x) (fun hx => ?_) ?_
  · try clear_value x
    extract_lets -merge -underBinder +onlyGivenNames x
    try clear_value x
    refine Frame.ite2 ?_ ?_
    · extract_lets -merge -underBinder +onlyGivenNames x
      refine Frame.cut (x := x) (fun hx => ?_) ?_
      · try clear_value x
        refine Frame.mk2 ?_
        refine Frame.step (State.countCore_frame ..) (by decide) ?_
        first | with_reducible exact Frame.refl | assumption
      · subst x
        refine Frame.step (State.onCore_frame ..) (by decide) ?_
        first | with_reducible exact Frame.refl | assumption
    · split
      · refine Frame.ite2 ?_ ?_
        · refine Frame.mk2 ?_
          refine Frame.step (State.discardDup_frame ..) (by decide) ?_
          first | with_reducible exact Frame.refl | assumption
        · split
          · refine Frame.mk2 ?_
            first | with_reducible exact Frame.refl | assumption
          · refine Frame.mk2 ?_
            refine Frame.step (State.setCore_frame ..) (by decide) ?_
            first | with_reducible exact Frame.refl | assumption
  · subst x
    refine Frame.step (State.perturbedOn_frame ..) (by decide) ?_
    refine Frame.step (State.perturbedOn_frame ..) (by decide) ?_
    first | with_reducible exact Frame.refl | assumption

theorem State.coreWrite_frame (s : State) (core) (w) :
    s.Frame (fields [.freeCount, .parts, .cmds, .ended, .cores, .counters, .routes, .runs, .streams, .channels,
      .leases, .tally, .flashTally])
      (State.coreWrite s core w) := by
  unfold State.coreWrite
  extract_lets -merge -underBinder +onlyGivenNames x
  try clear_value x
  split
  · split
    · refine Frame.step (State.onRun_frame ..) (by decide) ?_
      first
        | with_reducible exact Frame.refl
        | assumption
        | (refine Frame.step (Frame.snd ‹_› (State.offerWrite_frame ..)) (by decide) ?_
           first | with_reducible exact Frame.refl | assumption)
    · refine Frame.step (State.failRun_frame ..) (by decide) ?_
      first
        | with_reducible exact Frame.refl
        | assumption
        | (refine Frame.step (Frame.snd ‹_› (State.offerWrite_frame ..)) (by decide) ?_
           first | with_reducible exact Frame.refl | assumption)
    · refine Frame.step (State.notice_frame ..) (by decide) ?_
      first
        | with_reducible exact Frame.refl
        | assumption
        | (refine Frame.step (Frame.snd ‹_› (State.offerWrite_frame ..)) (by decide) ?_
           first | with_reducible exact Frame.refl | assumption)

theorem execLetterboxWriteArrival_frame (core) (write) (s : State) :
    s.FrameOut (fields [.freeCount, .parts, .cmds, .ended, .cores, .counters, .routes, .runs, .streams, .channels,
      .leases, .tally, .flashTally])
      (execLetterboxWriteArrival core write s) := by
  unfold execLetterboxWriteArrival
  refine FrameOut.checked ?_
  refine Frame.onlyIf ?_ ?_
  · first | with_reducible exact Frame.refl | assumption
  · refine Frame.step (State.coreWrite_frame ..) (by decide) ?_
    first | with_reducible exact Frame.refl | assumption

theorem State.writePad_frame {s t : State} {core h off data} (e : s.writePad core h off data = some t) :
    s.Frame (fields [.cores]) t := by
  unfold State.writePad at e
  obtain ⟨c, _, rfl⟩ := Option.map_eq_some_iff.mp e
  exact State.setCore_frame ..

theorem execBankDrainComplete_frame (core) (bank) (s : State) :
    s.FrameOut (fields [.cores, .tally, .flashTally])
      (execBankDrainComplete core bank s) := by
  unfold execBankDrainComplete
  refine FrameOut.checked ?_
  extract_lets -merge -underBinder +onlyGivenNames x
  try clear_value x
  refine Frame.ite ?_ ?_
  · first | with_reducible exact Frame.refl | assumption
  · extract_lets -merge -underBinder +onlyGivenNames x
    try clear_value x
    extract_lets -merge -underBinder +onlyGivenNames x
    try clear_value x
    refine Frame.step (State.count_frame ..) (by decide) ?_
    refine Frame.step (State.setCore_frame ..) (by decide) ?_
    first | with_reducible exact Frame.refl | assumption

theorem State.finishLoads_frame (s : State) :
    s.Frame (fields [.cmds, .ended, .routes, .tally, .flashTally])
      (State.finishLoads s) := by
  unfold State.finishLoads
  refine Frame.foldl (fun _ _ _ => ?_) ?_
  · split
    · first | with_reducible exact Frame.refl | assumption
    · refine Frame.ite ?_ ?_
      · refine Frame.step (State.complete_frame ..) (by decide) ?_
        refine Frame.step (State.onRoute_frame ..) (by decide) ?_
        first | with_reducible exact Frame.refl | assumption
      · first | with_reducible exact Frame.refl | assumption
  · first | with_reducible exact Frame.refl | assumption

theorem execBankPowerUpComplete_frame (core) (bank) (s : State) :
    s.FrameOut (fields [.parts, .cmds, .ended, .cores, .counters, .routes, .streams, .channels, .leases, .tally,
      .flashTally])
      (execBankPowerUpComplete core bank s) := by
  unfold execBankPowerUpComplete
  refine FrameOut.checked ?_
  extract_lets -merge -underBinder +onlyGivenNames x
  try clear_value x
  refine Frame.ite ?_ ?_
  · first | with_reducible exact Frame.refl | assumption
  · extract_lets -merge -underBinder +onlyGivenNames x
    try clear_value x
    refine Frame.step (State.settle_frame ..) (by decide) ?_
    refine Frame.step (State.finishLoads_frame ..) (by decide) ?_
    refine Frame.step (State.onCore_frame ..) (by decide) ?_
    refine Frame.step (State.count_frame ..) (by decide) ?_
    refine Frame.step (State.setCore_frame ..) (by decide) ?_
    first | with_reducible exact Frame.refl | assumption

theorem State.endReceive_frame (s : State) (ch) :
    s.Frame (fields [.cmds, .ended, .channels, .tally, .flashTally])
      (State.endReceive s ch) := by
  unfold State.endReceive
  split
  · first | with_reducible exact Frame.refl | assumption
  · refine Frame.ite ?_ ?_
    · first | with_reducible exact Frame.refl | assumption
    · refine Frame.step (State.complete_frame ..) (by decide) ?_
      refine Frame.step (State.onChannel_frame ..) (by decide) ?_
      first | with_reducible exact Frame.refl | assumption

theorem State.landed_frame (s : State) (core) (l) (b) :
    s.Frame (fields [.outbox, .freeCount, .fns, .parts, .cmds, .ended, .cores, .counters, .routes, .runs,
      .streams, .channels, .ports, .cascade, .leases, .health, .tally, .flashTally])
      (State.landed s core l b) := by
  unfold State.landed
  extract_lets -merge -underBinder +onlyGivenNames x
  refine Frame.cut (x := x) (fun hx => ?_) ?_
  · try clear_value x
    split
    · refine Frame.step (State.tryEnd_frame ..) (by decide) ?_
      refine Frame.step (State.onRun_frame ..) (by decide) ?_
      first | with_reducible exact Frame.refl | assumption
    · refine Frame.step (State.endReceive_frame ..) (by decide) ?_
      refine Frame.step (State.onChannel_frame ..) (by decide) ?_
      first | with_reducible exact Frame.refl | assumption
    · refine Frame.step (State.send_frame ..) (by decide) ?_
      first | with_reducible exact Frame.refl | assumption
    · first | with_reducible exact Frame.refl | assumption
  · subst x
    split
    · first | with_reducible exact Frame.refl | assumption
    · refine Frame.step (State.onStream_frame ..) (by decide) ?_
      first | with_reducible exact Frame.refl | assumption

theorem execLetterboxWriteLanded_frame (core) (landing) (s : State) :
    s.FrameOut (fields [.outbox, .freeCount, .fns, .parts, .cmds, .ended, .cores, .counters, .routes, .runs,
      .streams, .channels, .ports, .cascade, .leases, .health, .tally, .flashTally])
      (execLetterboxWriteLanded core landing s) := by
  unfold execLetterboxWriteLanded
  refine FrameOut.checked ?_
  refine Frame.onlyIf ?_ ?_
  · first | with_reducible exact Frame.refl | assumption
  · extract_lets -merge -underBinder +onlyGivenNames x
    try clear_value x
    refine Frame.withSome ?_ (fun _ => ?_)
    · first | with_reducible exact Frame.refl | assumption
    · extract_lets -merge -underBinder +onlyGivenNames x
      try clear_value x
      split
      · refine Frame.step (State.setCore_frame ..) (by decide) ?_
        first | with_reducible exact Frame.refl | assumption
      · extract_lets -merge -underBinder +onlyGivenNames x
        try clear_value x
        extract_lets -merge -underBinder +onlyGivenNames x
        try clear_value x
        refine Frame.step (State.settle_frame ..) (by decide) ?_
        refine Frame.step (State.landed_frame ..) (by decide) ?_
        refine Frame.step (State.setCore_frame ..) (by decide) ?_
        first | with_reducible exact Frame.refl | assumption

theorem execBankAccessGrant_frame (core) (bank) (s : State) :
    s.FrameOut (fields [.parts, .cores, .tally, .flashTally])
      (execBankAccessGrant core bank s) := by
  unfold execBankAccessGrant
  refine FrameOut.checked ?_
  refine Frame.onlyIf ?_ ?_
  · first | with_reducible exact Frame.refl | assumption
  · extract_lets -merge -underBinder +onlyGivenNames x
    try clear_value x
    refine Frame.withSome ?_ (fun _ => ?_)
    · first | with_reducible exact Frame.refl | assumption
    · extract_lets -merge -underBinder +onlyGivenNames x
      try clear_value x
      refine Frame.step (State.countCore_frame ..) (by decide) ?_
      refine Frame.step (State.perturbedOn_frame ..) (by decide) ?_
      refine Frame.step (State.setCore_frame ..) (by decide) ?_
      first | with_reducible exact Frame.refl | assumption

theorem State.FrameOut.controlRow {w : Nat} {s : State} {core : Nat} {f : Nat → Nat → RouteStep → State → State}
    (hf : ∀ a b c t, s.Frame w t → s.Frame w (f a b c t)) : s.FrameOut w (Machine.controlRow core s f) :=
  FrameOut.checked (Frame.onlyIf Frame.refl (Frame.withSome Frame.refl fun _ => hf _ _ _ _ Frame.refl))

theorem execOrderStep_frame (core) (s : State) :
    s.FrameOut (fields [.outbox, .freeCount, .fns, .parts, .cmds, .ended, .mem, .memUsed, .cores, .counters,
      .routes, .runs, .streams, .channels, .ports, .leases, .health, .tally, .flashTally])
      (execOrderStep core s) := by
  unfold execOrderStep
  refine FrameOut.controlRow (fun _ _ _ _ _ => ?_)
  split
  · refine Frame.ite ?_ ?_
    · refine Frame.step (State.stepEnds_frame ..) (by decide) ?_
      first | with_reducible exact Frame.refl | assumption
    · first | with_reducible exact Frame.refl | assumption
  · first | with_reducible exact Frame.refl | assumption

theorem State.onBox_frame (s : State) (core) (box) (f) : s.Frame (fields [.cores]) (State.onBox s core box f) := by
  unfold State.onBox
  refine Frame.step (State.onCore_frame ..) (by decide) ?_
  first | with_reducible exact Frame.refl | assumption

theorem execReleaseSlots_frame (core) (s : State) :
    s.FrameOut (fields [.outbox, .freeCount, .fns, .parts, .cmds, .ended, .mem, .memUsed, .cores, .counters,
      .routes, .runs, .streams, .channels, .ports, .leases, .health, .tally, .flashTally])
      (execReleaseSlots core s) := by
  unfold execReleaseSlots
  refine FrameOut.controlRow (fun _ _ _ _ _ => ?_)
  split
  · refine Frame.step (State.stepEnds_frame ..) (by decide) ?_
    refine Frame.step (State.onBox_frame ..) (by decide) ?_
    first | with_reducible exact Frame.refl | assumption
  · first | with_reducible exact Frame.refl | assumption

theorem State.grantBox_frame (s : State) (core) (box) : s.Frame (fields [.leases]) (State.grantBox s core box) := by
  unfold State.grantBox
  refine Frame.withSome ?_ (fun _ => ?_)
  · first | with_reducible exact Frame.refl | assumption
  · extract_lets -merge -underBinder +onlyGivenNames x
    refine Frame.cut (x := x) (fun hx => ?_) ?_
    · try clear_value x
      extract_lets -merge -underBinder +onlyGivenNames x
      try clear_value x
      refine Frame.upd_leases (by decide) ?_
      first | with_reducible exact Frame.refl | assumption
    · subst x
      refine Frame.step (State.dropBoxLeases_frame ..) (by decide) ?_
      first | with_reducible exact Frame.refl | assumption

theorem execOpenBox_frame (core) (s : State) :
    s.FrameOut (fields [.outbox, .freeCount, .fns, .parts, .cmds, .ended, .mem, .memUsed, .cores, .counters,
      .routes, .runs, .streams, .channels, .ports, .leases, .health, .tally, .flashTally])
      (execOpenBox core s) := by
  unfold execOpenBox
  refine FrameOut.controlRow (fun _ _ _ _ _ => ?_)
  split
  · refine Frame.step (State.stepEnds_frame ..) (by decide) ?_
    refine Frame.step (State.grantBox_frame ..) (by decide) ?_
    refine Frame.step (State.onBox_frame ..) (by decide) ?_
    first | with_reducible exact Frame.refl | assumption
  · first | with_reducible exact Frame.refl | assumption

theorem State.releaseFrame_frame (s : State) (n) (x) (r) (arrival) (substitute) :
    s.Frame (fields [.runs, .nextRun, .streams, .tally, .flashTally])
      (State.releaseFrame s n x r arrival substitute) := by
  unfold State.releaseFrame
  extract_lets -merge -underBinder +onlyGivenNames x
  try clear_value x
  extract_lets -merge -underBinder +onlyGivenNames x
  try clear_value x
  extract_lets -merge -underBinder +onlyGivenNames x
  try clear_value x
  extract_lets -merge -underBinder +onlyGivenNames x
  refine Frame.cut (x := x) (fun hx => ?_) ?_
  · try clear_value x
    extract_lets -merge -underBinder +onlyGivenNames x
    refine Frame.cut (x := x) (fun hx => ?_) ?_
    · try clear_value x
      extract_lets -merge -underBinder +onlyGivenNames x
      refine Frame.cut (x := x) (fun hx => ?_) ?_
      · try clear_value x
        extract_lets -merge -underBinder +onlyGivenNames x
        refine Frame.cut (x := x) (fun hx => ?_) ?_
        · try clear_value x
          first | with_reducible exact Frame.refl | assumption
        · subst x
          refine Frame.upd_nextRun (by decide) ?_
          first | with_reducible exact Frame.refl | assumption
      · subst x
        refine Frame.step (State.setRun_frame ..) (by decide) ?_
        first | with_reducible exact Frame.refl | assumption
    · subst x
      refine Frame.step (State.setStream_frame ..) (by decide) ?_
      first | with_reducible exact Frame.refl | assumption
  · subst x
    refine Frame.step (State.count_frame ..) (by decide) ?_
    first | with_reducible exact Frame.refl | assumption

theorem execFrameRelease_frame (stream) (s : State) :
    s.FrameOut (fields [.runs, .nextRun, .streams, .tally, .flashTally])
      (execFrameRelease stream s) := by
  unfold execFrameRelease
  refine FrameOut.checked ?_
  refine Frame.onlyIf ?_ ?_
  · first | with_reducible exact Frame.refl | assumption
  · refine Frame.withSome ?_ (fun _ => ?_)
    · first | with_reducible exact Frame.refl | assumption
    · split
      · refine Frame.ite ?_ ?_
        · first | with_reducible exact Frame.refl | assumption
        · refine Frame.step (State.releaseFrame_frame ..) (by decide) ?_
          first | with_reducible exact Frame.refl | assumption
      · first | with_reducible exact Frame.refl | assumption

theorem execCloseBox_frame (core) (s : State) :
    s.FrameOut (fields [.outbox, .freeCount, .fns, .parts, .cmds, .ended, .mem, .memUsed, .cores, .counters,
      .routes, .runs, .streams, .channels, .ports, .leases, .health, .tally, .flashTally])
      (execCloseBox core s) := by
  unfold execCloseBox
  refine FrameOut.controlRow (fun _ _ _ _ _ => ?_)
  split
  · refine Frame.step (State.settle_frame ..) (by decide) ?_
    refine Frame.step (State.stepEnds_frame ..) (by decide) ?_
    refine Frame.step (State.closeBox_frame ..) (by decide) ?_
    first | with_reducible exact Frame.refl | assumption
  · first | with_reducible exact Frame.refl | assumption

theorem execWaitSatisfied_frame (core) (s : State) :
    s.FrameOut (fields [.outbox, .freeCount, .fns, .parts, .cmds, .ended, .mem, .memUsed, .cores, .counters,
      .routes, .runs, .streams, .channels, .ports, .leases, .health, .tally, .flashTally])
      (execWaitSatisfied core s) := by
  unfold execWaitSatisfied
  refine FrameOut.checked ?_
  refine Frame.onlyIf ?_ ?_
  · first | with_reducible exact Frame.refl | assumption
  · split
    · refine Frame.withSome ?_ (fun _ => ?_)
      · first | with_reducible exact Frame.refl | assumption
      · split
        · refine Frame.ite ?_ ?_
          · refine Frame.step (State.stepEnds_frame ..) (by decide) ?_
            refine Frame.step (State.countStall_frame ..) (by decide) ?_
            first | with_reducible exact Frame.refl | assumption
          · first | with_reducible exact Frame.refl | assumption
        · first | with_reducible exact Frame.refl | assumption
    · first | with_reducible exact Frame.refl | assumption

theorem State.writeSubstitute_frame (s : State) (n) (x) :
    s.Frame (fields [.parts, .cores, .runs, .streams, .tally, .flashTally])
      (State.writeSubstitute s n x) := by
  unfold State.writeSubstitute
  split
  · refine Frame.step (State.onStream_frame ..) (by decide) ?_
    first
      | with_reducible exact Frame.refl
      | assumption
      | (refine Frame.step (Frame.snd ‹_› (State.offerWrite_frame ..)) (by decide) ?_
         first | with_reducible exact Frame.refl | assumption)
  · refine Frame.step (State.onStream_frame ..) (by decide) ?_
    first
      | with_reducible exact Frame.refl
      | assumption
      | (refine Frame.step (Frame.snd ‹_› (State.offerWrite_frame ..)) (by decide) ?_
         first | with_reducible exact Frame.refl | assumption)

theorem State.startRun_frame {s : State} {rid r x} :
    (∀ t, s.startRun rid r x = .ok t → s.Frame (fields [.freeCount, .parts, .cmds, .ended, .memUsed, .links, .cores, .counters, .routes, .runs, .streams, .channels, .leases, .tally, .flashTally]) t) ∧
    (∀ t, s.startRun rid r x = .error t → s.Frame (fields [.freeCount, .parts, .cmds, .ended, .memUsed, .links, .cores, .counters, .routes, .runs, .streams, .channels, .leases, .tally, .flashTally]) t) := by
  suffices h : ∀ e, s.startRun rid r x = e → (∀ t, e = .ok t → s.Frame (fields [.freeCount, .parts, .cmds, .ended, .memUsed, .links, .cores, .counters, .routes, .runs, .streams, .channels, .leases, .tally, .flashTally]) t) ∧
      (∀ t, e = .error t → s.Frame (fields [.freeCount, .parts, .cmds, .ended, .memUsed, .links, .cores, .counters, .routes, .runs, .streams, .channels, .leases, .tally, .flashTally]) t) from h _ rfl
  intro e h
  unfold State.startRun at h
  extract_lets -merge r1 s1 at h
  have h1 : s.Frame (fields [.freeCount, .parts, .cmds, .ended, .memUsed, .links, .cores, .counters, .routes, .runs, .streams, .channels, .leases, .tally, .flashTally]) s1 := Frame.step (State.setRun_frame ..) (by decide) Frame.refl
  have hf : ∀ t a b c, s.Frame (fields [.freeCount, .parts, .cmds, .ended, .memUsed, .links, .cores, .counters, .routes, .runs, .streams, .channels, .leases, .tally, .flashTally]) t → s.Frame (fields [.freeCount, .parts, .cmds, .ended, .memUsed, .links, .cores, .counters, .routes, .runs, .streams, .channels, .leases, .tally, .flashTally]) (t.failRun a b c) :=
    fun t a b c ht => Frame.step (State.failRun_frame ..) (by decide) ht
  split at h
  · subst h; exact ⟨fun _ h => (by cases h; exact h1), fun _ h => nomatch h⟩
  · split at h
    · rename_i q
      have h2 := Frame.step (Frame.fst q (State.useTile_frame ..)) (by decide) h1
      subst h
      exact ⟨fun _ h => (nomatch h), fun _ h => by cases h; exact hf _ _ _ _ h2⟩
    · rename_i q
      have h2 := Frame.step (Frame.fst q (State.useTile_frame ..)) (by decide) h1
      split at h
      · subst h; exact ⟨fun _ h => (nomatch h), fun _ h => by cases h; exact hf _ _ _ _ h2⟩
      · split at h <;> subst h
        · exact ⟨fun _ h => (nomatch h), fun _ h => by cases h; exact hf _ _ _ _ h2⟩
        · exact ⟨fun _ h => (by cases h; exact Frame.step (State.setRun_frame ..) (by decide) h2), fun _ h => nomatch h⟩

theorem execBeatMissed_frame (stream) (s : State) :
    s.FrameOut (fields [.parts, .cores, .runs, .streams, .tally, .flashTally])
      (execBeatMissed stream s) := by
  unfold execBeatMissed
  refine FrameOut.checked ?_
  refine Frame.onlyIf ?_ ?_
  · first | with_reducible exact Frame.refl | assumption
  · refine Frame.withSome ?_ (fun _ => ?_)
    · first | with_reducible exact Frame.refl | assumption
    · refine Frame.withSome ?_ (fun _ => ?_)
      · first | with_reducible exact Frame.refl | assumption
      · refine Frame.ite ?_ ?_
        · first | with_reducible exact Frame.refl | assumption
        · refine Frame.step (State.writeSubstitute_frame ..) (by decide) ?_
          first | with_reducible exact Frame.refl | assumption

theorem execWaitBox_frame (core) (s : State) :
    s.FrameOut (fields [.outbox, .freeCount, .fns, .parts, .cmds, .ended, .mem, .memUsed, .cores, .counters,
      .routes, .runs, .streams, .channels, .ports, .leases, .health, .tally, .flashTally])
      (execWaitBox core s) := by
  unfold execWaitBox
  refine FrameOut.controlRow (fun _ _ _ _ _ => ?_)
  split
  · split
    · refine Frame.step (State.failRun_frame ..) (by decide) ?_
      first | with_reducible exact Frame.refl | assumption
    · refine Frame.ite ?_ ?_
      · refine Frame.step (State.stepEnds_frame ..) (by decide) ?_
        first | with_reducible exact Frame.refl | assumption
      · refine Frame.step (State.onCore_frame ..) (by decide) ?_
        first | with_reducible exact Frame.refl | assumption
  · first | with_reducible exact Frame.refl | assumption

theorem execDeadlineMiss_frame (stream) (s : State) :
    s.FrameOut (fields [.outbox, .fns, .cmds, .ended, .ports, .health, .tally, .flashTally])
      (execDeadlineMiss stream s) := by
  unfold execDeadlineMiss
  refine FrameOut.checked ?_
  refine Frame.onlyIf ?_ ?_
  · first | with_reducible exact Frame.refl | assumption
  · extract_lets -merge -underBinder +onlyGivenNames x
    try clear_value x
    refine Frame.withSome ?_ (fun _ => ?_)
    · first | with_reducible exact Frame.refl | assumption
    · refine Frame.step (State.fault_frame ..) (by decide) ?_
      first | with_reducible exact Frame.refl | assumption

theorem State.streamTile_frame (s : State) (core) (x) (e) (q) (column) (block) :
    s.Frame (fields [.memUsed, .links, .runs, .tally, .flashTally])
      (State.streamTile s core x e q column block).1 := by
  unfold State.streamTile
  refine Frame.ite1 ?_ ?_
  · split
    · refine Frame.mk1 ?_
      first | with_reducible exact Frame.refl | assumption
    · refine Frame.mk1 ?_
      refine Frame.step (State.countTile_frame ..) (by decide) ?_
      first | with_reducible exact Frame.refl | assumption
  · refine Frame.step (State.useTile_frame ..) (by decide) ?_
    first | with_reducible exact Frame.refl | assumption

theorem State.tiledRow_frame (s : State) (core) (x) (e) (q) (block) (pos) (first) (n) :
    s.Frame (fields [.memUsed, .links, .runs, .tally, .flashTally])
      (State.tiledRow s core x e q block pos first n).1 := by
  unfold State.tiledRow
  extract_lets -merge -underBinder +onlyGivenNames x
  try clear_value x
  refine Frame.foldlPair (fun _ _ _ => ?_) ?_
  · split
    · refine Frame.mk1 ?_
      first | with_reducible exact Frame.refl | assumption
    · extract_lets -merge -underBinder +onlyGivenNames x
      try clear_value x
      refine Frame.ite1 ?_ ?_
      · refine Frame.mk1 ?_
        first | with_reducible exact Frame.refl | assumption
      · refine Frame.ite1 ?_ ?_
        · refine Frame.mk1 ?_
          first | with_reducible exact Frame.refl | assumption
        · split
          · refine Frame.mk1 ?_
            first
              | with_reducible exact Frame.refl
              | assumption
              | (refine Frame.step (Frame.fst ‹_› (State.streamTile_frame ..)) (by decide) ?_
                 first | with_reducible exact Frame.refl | assumption)
          · refine Frame.mk1 ?_
            first
              | with_reducible exact Frame.refl
              | assumption
              | (refine Frame.step (Frame.fst ‹_› (State.streamTile_frame ..)) (by decide) ?_
                 first | with_reducible exact Frame.refl | assumption)
  · refine Frame.mk1 ?_
    first | with_reducible exact Frame.refl | assumption

theorem State.streamVector_frame (s : State) (core) (x) (e) (block) (tile) (pos) :
    s.Frame (fields [.memUsed, .links, .runs, .tally, .flashTally])
      (State.streamVector s core x e block tile pos).1 := by
  unfold State.streamVector
  extract_lets -merge -underBinder +onlyGivenNames x
  try clear_value x
  extract_lets -merge -underBinder +onlyGivenNames x
  try clear_value x
  split
  · refine Frame.step (State.tiledRow_frame ..) (by decide) ?_
    first | with_reducible exact Frame.refl | assumption
  · refine Frame.mk1 ?_
    first | with_reducible exact Frame.refl | assumption

theorem State.setExec_frame (s : State) (core) (e) : s.Frame (fields [.cores]) (State.setExec s core e) := by
  unfold State.setExec
  refine Frame.step (State.onCore_frame ..) (by decide) ?_
  first | with_reducible exact Frame.refl | assumption

theorem State.onExec_frame (s : State) (core) (f) : s.Frame (fields [.cores]) (State.onExec s core f) := by
  unfold State.onExec
  split
  · refine Frame.step (State.setExec_frame ..) (by decide) ?_
    first | with_reducible exact Frame.refl | assumption
  · first | with_reducible exact Frame.refl | assumption

theorem State.readBias_frame (s : State) (rid) (x) (l) :
    s.Frame (fields [.memUsed, .links, .runs, .tally, .flashTally])
      (State.readBias s rid x l).1 := by
  unfold State.readBias
  refine Frame.ite1 ?_ ?_
  · refine Frame.mk1 ?_
    first | with_reducible exact Frame.refl | assumption
  · extract_lets -merge -underBinder +onlyGivenNames x
    try clear_value x
    refine Frame.foldlPair (fun _ _ _ => ?_) ?_
    · split
      · refine Frame.mk1 ?_
        first | with_reducible exact Frame.refl | assumption
      · split
        · refine Frame.mk1 ?_
          first
            | with_reducible exact Frame.refl
            | assumption
            | (refine Frame.step (Frame.fst ‹_› (State.useTile_frame ..)) (by decide) ?_
               first | with_reducible exact Frame.refl | assumption)
        · extract_lets -merge -underBinder +onlyGivenNames x
          try clear_value x
          refine Frame.ite1 ?_ ?_
          · refine Frame.mk1 ?_
            first
              | with_reducible exact Frame.refl
              | assumption
              | (refine Frame.step (Frame.fst ‹_› (State.useTile_frame ..)) (by decide) ?_
                 first | with_reducible exact Frame.refl | assumption)
          · refine Frame.mk1 ?_
            first
              | with_reducible exact Frame.refl
              | assumption
              | (refine Frame.step (Frame.fst ‹_› (State.useTile_frame ..)) (by decide) ?_
                 first | with_reducible exact Frame.refl | assumption)
    · refine Frame.mk1 ?_
      first | with_reducible exact Frame.refl | assumption

theorem State.armBands_frame (s : State) (core) (e) : s.Frame (fields [.counters]) (State.armBands s core e) := by
  unfold State.armBands
  refine Frame.foldl (fun _ _ _ => ?_) ?_
  · extract_lets -merge -underBinder +onlyGivenNames x
    try clear_value x
    refine Frame.step (State.setCounter_frame ..) (by decide) ?_
    first | with_reducible exact Frame.refl | assumption
  · first | with_reducible exact Frame.refl | assumption

theorem State.clearSeen_frame (s : State) (p) (n) (gen) : s.Frame (fields [.cores]) (State.clearSeen s p n gen) := by
  unfold State.clearSeen
  refine Frame.foldl (fun _ _ _ => ?_) ?_
  · refine Frame.step (State.onCore_frame ..) (by decide) ?_
    first | with_reducible exact Frame.refl | assumption
  · first | with_reducible exact Frame.refl | assumption

theorem State.claim_frame (s : State) (n) (w) (gen) (sweep) :
    s.Frame (fields [.counters, .tally, .flashTally])
      (State.claim s n w gen sweep).2 := by
  unfold State.claim
  extract_lets -merge -underBinder +onlyGivenNames x
  try clear_value x
  split
  · extract_lets -merge -underBinder +onlyGivenNames x
    refine Frame.cut (x := x) (fun hx => ?_) ?_
    · try clear_value x
      extract_lets -merge -underBinder +onlyGivenNames x
      try clear_value x
      refine Frame.mk2 ?_
      refine Frame.ite ?_ ?_
      · refine Frame.step (State.countCore_frame ..) (by decide) ?_
        first | with_reducible exact Frame.refl | assumption
      · refine Frame.step (State.countFor_frame ..) (by decide) ?_
        first | with_reducible exact Frame.refl | assumption
    · subst x
      refine Frame.step (State.setCounter_frame ..) (by decide) ?_
      first | with_reducible exact Frame.refl | assumption

theorem State.takeValue_frame (s : State) (core) (array) (band) (n) (v) (gen) :
    s.Frame (fields [.cores])
      (State.takeValue s core array band n v gen) := by
  unfold State.takeValue
  split
  · first | with_reducible exact Frame.refl | assumption
  · split
    · refine Frame.step (State.onCore_frame ..) (by decide) ?_
      first | with_reducible exact Frame.refl | assumption
    · extract_lets -merge -underBinder +onlyGivenNames x
      try clear_value x
      extract_lets -merge -underBinder +onlyGivenNames x
      refine Frame.cut (x := x) (fun hx => ?_) ?_
      · try clear_value x
        refine Frame.ite ?_ ?_
        · refine Frame.step (State.setExec_frame ..) (by decide) ?_
          first | with_reducible exact Frame.refl | assumption
        · first | with_reducible exact Frame.refl | assumption
      · subst x
        refine Frame.step (State.onCore_frame ..) (by decide) ?_
        first | with_reducible exact Frame.refl | assumption

theorem State.claimNeighbours_frame (s : State) (core array bs) :
    s.Frame (fields [.cores, .counters, .tally, .flashTally]) (s.claimNeighbours core array bs) := by
  induction bs generalizing s with
  | nil => exact Frame.step (State.onCore_frame ..) (by decide) Frame.refl
  | cons b bs ih =>
    unfold State.claimNeighbours
    refine Frame.ite (ih s) ?_
    extract_lets -merge n gen
    split
    · rename_i e
      exact Frame.step (State.takeValue_frame ..) (by decide)
        (Frame.step (Frame.snd e (State.claim_frame ..)) (by decide) Frame.refl)
    · rename_i e
      exact Frame.trans (Frame.step (Frame.snd e (State.claim_frame ..)) (by decide) Frame.refl) (ih _)

theorem State.claimExhausted_frame (s : State) (core) (array) :
    s.Frame (fields [.cores, .counters, .tally, .flashTally])
      (State.claimExhausted s core array) := by
  unfold State.claimExhausted
  split
  · first | with_reducible exact Frame.refl | assumption
  · refine Frame.ite ?_ ?_
    · refine Frame.step (State.onCore_frame ..) (by decide) ?_
      first | with_reducible exact Frame.refl | assumption
    · refine Frame.step (State.claimNeighbours_frame ..) (by decide) ?_
      first | with_reducible exact Frame.refl | assumption

theorem State.answerArray_frame (s : State) (core) (array) (n) (gen) (x5) :
    s.Frame (fields [.cores, .counters, .tally, .flashTally])
      (State.answerArray s core array n gen x5) := by
  unfold State.answerArray
  split
  · refine Frame.step (State.takeValue_frame ..) (by decide) ?_
    first | with_reducible exact Frame.refl | assumption
  · refine Frame.step (State.claimExhausted_frame ..) (by decide) ?_
    first | with_reducible exact Frame.refl | assumption
  · refine Frame.step (State.onCore_frame ..) (by decide) ?_
    first | with_reducible exact Frame.refl | assumption

theorem State.answerClaim_frame (s : State) (n) (w) (gen) (a) :
    s.Frame (fields [.outbox, .cores, .counters, .ports, .cascade, .tally, .flashTally])
      (State.answerClaim s n w gen a) := by
  unfold State.answerClaim
  refine Frame.ite ?_ ?_
  · refine Frame.step (State.answerArray_frame ..) (by decide) ?_
    first | with_reducible exact Frame.refl | assumption
  · split
    · first | with_reducible exact Frame.refl | assumption
    · refine Frame.step (State.send_frame ..) (by decide) ?_
      first | with_reducible exact Frame.refl | assumption

theorem State.serveHeld_frame (s : State) (n) :
    s.Frame (fields [.outbox, .cores, .counters, .ports, .cascade, .tally, .flashTally])
      (State.serveHeld s n) := by
  unfold State.serveHeld
  extract_lets -merge -underBinder +onlyGivenNames x
  try clear_value x
  extract_lets -merge -underBinder +onlyGivenNames x
  try clear_value x
  extract_lets -merge -underBinder +onlyGivenNames x
  refine Frame.cut (x := x) (fun hx => ?_) ?_
  · try clear_value x
    refine Frame.foldl (fun _ _ _ => ?_) ?_
    · extract_lets -merge -underBinder +onlyGivenNames x
      try clear_value x
      split
      · refine Frame.step (State.setCounter_frame ..) (by decide) ?_
        first | with_reducible exact Frame.refl | assumption
      · extract_lets -merge -underBinder +onlyGivenNames x
        refine Frame.cut (x := x) (fun hx => ?_) ?_
        · try clear_value x
          extract_lets -merge -underBinder +onlyGivenNames x
          refine Frame.cut (x := x) (fun hx => ?_) ?_
          · try clear_value x
            refine Frame.step (State.answerClaim_frame ..) (by decide) ?_
            first | with_reducible exact Frame.refl | assumption
          · subst x
            refine Frame.step (State.countFor_frame ..) (by decide) ?_
            first | with_reducible exact Frame.refl | assumption
        · subst x
          refine Frame.step (State.setCounter_frame ..) (by decide) ?_
          first | with_reducible exact Frame.refl | assumption
    · first | with_reducible exact Frame.refl | assumption
  · subst x
    refine Frame.step (State.setCounter_frame ..) (by decide) ?_
    first | with_reducible exact Frame.refl | assumption

theorem State.armShared_frame (s : State) (rid) (i) (r) (x) (l) :
    s.Frame (fields [.outbox, .cores, .counters, .routes, .runs, .ports, .cascade, .tally, .flashTally])
      (State.armShared s rid i r x l).2 := by
  unfold State.armShared
  split
  · refine Frame.mk2 ?_
    first | with_reducible exact Frame.refl | assumption
  · extract_lets -merge -underBinder +onlyGivenNames x
    try clear_value x
    extract_lets -merge -underBinder +onlyGivenNames x
    try clear_value x
    extract_lets -merge -underBinder +onlyGivenNames x
    refine Frame.cut (x := x) (fun hx => ?_) ?_
    · try clear_value x
      extract_lets -merge -underBinder +onlyGivenNames x
      refine Frame.cut (x := x) (fun hx => ?_) ?_
      · try clear_value x
        refine Frame.ite2 ?_ ?_
        · refine Frame.mk2 ?_
          first | with_reducible exact Frame.refl | assumption
        · extract_lets -merge -underBinder +onlyGivenNames x
          try clear_value x
          extract_lets -merge -underBinder +onlyGivenNames x
          refine Frame.cut (x := x) (fun hx => ?_) ?_
          · try clear_value x
            refine Frame.mk2 ?_
            refine Frame.step (State.serveHeld_frame ..) (by decide) ?_
            first | with_reducible exact Frame.refl | assumption
          · subst x
            refine Frame.step (State.setCounter_frame ..) (by decide) ?_
            first | with_reducible exact Frame.refl | assumption
      · subst x
        refine Frame.step (State.clearSeen_frame ..) (by decide) ?_
        refine Frame.step (State.onRun_frame ..) (by decide) ?_
        first | with_reducible exact Frame.refl | assumption
    · subst x
      refine Frame.step (State.onRoute_frame ..) (by decide) ?_
      first | with_reducible exact Frame.refl | assumption

theorem State.startLayer_frame (s : State) (core) (rid) (i) (r) (x) (l) (attempt) :
    s.Frame (fields [.outbox, .freeCount, .parts, .cmds, .ended, .memUsed, .links, .cores, .counters, .routes,
      .runs, .streams, .channels, .ports, .cascade, .leases, .tally, .flashTally])
      (State.startLayer s core rid i r x l attempt) := by
  unfold State.startLayer
  extract_lets -merge -underBinder +onlyGivenNames x
  try clear_value x
  split
  · refine Frame.step (State.failRun_frame ..) (by decide) ?_
    first | with_reducible exact Frame.refl | assumption
  · split
    · refine Frame.step (State.failRun_frame ..) (by decide) ?_
      first
        | with_reducible exact Frame.refl
        | assumption
        | (refine Frame.step (Frame.fst ‹_› (State.readBias_frame ..)) (by decide) ?_
           first | with_reducible exact Frame.refl | assumption)
    · extract_lets -merge -underBinder +onlyGivenNames x
      try clear_value x
      split
      · extract_lets -merge -underBinder +onlyGivenNames x
        try clear_value x
        extract_lets -merge -underBinder +onlyGivenNames x
        try clear_value x
        extract_lets -merge -underBinder +onlyGivenNames x
        try clear_value x
        extract_lets -merge -underBinder +onlyGivenNames x
        try clear_value x
        refine Frame.step (State.armBands_frame ..) (by decide) ?_
        refine Frame.step (State.onCore_frame ..) (by decide) ?_
        first
          | with_reducible exact Frame.refl
          | assumption
          | (refine Frame.ofIte ‹_› ?_ ?_
             · refine Frame.step (State.armShared_frame ..) (by decide) ?_
               first
                 | with_reducible exact Frame.refl
                 | assumption
                 | (refine Frame.step (Frame.fst ‹_› (State.readBias_frame ..)) (by decide) ?_
                    first | with_reducible exact Frame.refl | assumption)
             · first
                 | with_reducible exact Frame.refl
                 | assumption
                 | (refine Frame.step (Frame.fst ‹_› (State.readBias_frame ..)) (by decide) ?_
                    first | with_reducible exact Frame.refl | assumption))
          | (refine Frame.step (Frame.fst ‹_› (State.readBias_frame ..)) (by decide) ?_
             first
               | with_reducible exact Frame.refl
               | assumption
               | (refine Frame.ofIte ‹_› ?_ ?_
                  · refine Frame.step (State.armShared_frame ..) (by decide) ?_
                    first | with_reducible exact Frame.refl | assumption
                  · first | with_reducible exact Frame.refl | assumption))

theorem State.FrameOut.arrayRow {w : Nat} {s : State} {core a : Nat} {f : Nat → Nat → LayerExec → State → State}
    (hf : ∀ a b c t, s.Frame w t → s.Frame w (f a b c t)) : s.FrameOut w (Machine.arrayRow core a s f) :=
  FrameOut.checked (Frame.onlyIf Frame.refl (Frame.withSome Frame.refl fun _ => hf _ _ _ _ Frame.refl))

theorem State.resumeColumn_frame (s : State) (core) (array) (e) :
    s.Frame (fields [.cores])
      (State.resumeColumn s core array e) := by
  unfold State.resumeColumn
  extract_lets -merge -underBinder +onlyGivenNames x
  try clear_value x
  split
  · refine Frame.step (State.onCore_frame ..) (by decide) ?_
    first | with_reducible exact Frame.refl | assumption
  · refine Frame.step (State.onCore_frame ..) (by decide) ?_
    first | with_reducible exact Frame.refl | assumption

theorem State.claimColumn_frame (s : State) (core) (array) (e) :
    s.Frame (fields [.outbox, .cores, .counters, .ports, .cascade, .tally, .flashTally])
      (State.claimColumn s core array e) := by
  unfold State.claimColumn
  extract_lets -merge -underBinder +onlyGivenNames x
  try clear_value x
  refine Frame.ite ?_ ?_
  · refine Frame.step (State.claimNeighbours_frame ..) (by decide) ?_
    first | with_reducible exact Frame.refl | assumption
  · refine Frame.ite ?_ ?_
    · refine Frame.ite ?_ ?_
      · refine Frame.step (State.claimNeighbours_frame ..) (by decide) ?_
        first | with_reducible exact Frame.refl | assumption
      · refine Frame.step (State.claimExhausted_frame ..) (by decide) ?_
        first | with_reducible exact Frame.refl | assumption
    · refine Frame.ite ?_ ?_
      · refine Frame.step (State.resumeColumn_frame ..) (by decide) ?_
        first | with_reducible exact Frame.refl | assumption
      · extract_lets -merge -underBinder +onlyGivenNames x
        try clear_value x
        refine Frame.ite ?_ ?_
        · refine Frame.step (State.onCore_frame ..) (by decide) ?_
          refine Frame.step (State.send_frame ..) (by decide) ?_
          first | with_reducible exact Frame.refl | assumption
        · extract_lets -merge -underBinder +onlyGivenNames x
          try clear_value x
          extract_lets -merge -underBinder +onlyGivenNames x
          try clear_value x
          split
          · refine Frame.step (State.answerArray_frame ..) (by decide) ?_
            first
              | with_reducible exact Frame.refl
              | assumption
              | (refine Frame.step (Frame.snd ‹_› (State.claim_frame ..)) (by decide) ?_
                 first | with_reducible exact Frame.refl | assumption)

theorem State.releaseClaim_frame (s : State) (core) (k) (home) :
    s.Frame (fields [.outbox, .cores, .counters, .ports, .cascade, .tally, .flashTally])
      (State.releaseClaim s core k home) := by
  unfold State.releaseClaim
  refine Frame.ite ?_ ?_
  · refine Frame.ite ?_ ?_
    · first | with_reducible exact Frame.refl | assumption
    · refine Frame.step (State.serveHeld_frame ..) (by decide) ?_
      refine Frame.step (State.setCounter_frame ..) (by decide) ?_
      first | with_reducible exact Frame.refl | assumption
  · refine Frame.step (State.send_frame ..) (by decide) ?_
    first | with_reducible exact Frame.refl | assumption

theorem execLayerStep_frame (core) (s : State) :
    s.FrameOut (fields [.outbox, .freeCount, .fns, .parts, .cmds, .ended, .mem, .memUsed, .links, .cores,
      .counters, .routes, .runs, .streams, .channels, .ports, .cascade, .leases, .health, .tally,
      .flashTally])
      (execLayerStep core s) := by
  unfold execLayerStep
  refine FrameOut.controlRow (fun _ _ _ _ _ => ?_)
  split
  · split
    · first | with_reducible exact Frame.refl | assumption
    · split
      · first | with_reducible exact Frame.refl | assumption
      · refine Frame.ite ?_ ?_
        · refine Frame.step (State.stepEnds_frame ..) (by decide) ?_
          first | with_reducible exact Frame.refl | assumption
        · refine Frame.step (State.startLayer_frame ..) (by decide) ?_
          first | with_reducible exact Frame.refl | assumption
  · first | with_reducible exact Frame.refl | assumption

theorem State.putOut_frame {s t : State} {core x e column block off b} (h : State.putOut s core x e column block off b = some t) :
    s.Frame (fields [.mem, .memUsed, .cores]) t := by
  unfold State.putOut at h
  split at h
  · refine Frame.step (State.writePad_frame h) (by decide) ?_
    first | with_reducible exact Frame.refl | assumption
  · extract_lets -merge -underBinder +onlyGivenNames x at h
    try clear_value x
    refine Frame.step (State.write_frame h) (by decide) ?_
    first | with_reducible exact Frame.refl | assumption

theorem State.openOut_frame {s t : State} {core x e column block} (h : State.openOut s core x e column block = some t) :
    s.Frame (fields [.mem, .memUsed, .cores]) t := by
  unfold State.openOut at h
  refine Frame.step (State.putOut_frame h) (by decide) ?_
  first | with_reducible exact Frame.refl | assumption

theorem State.sealOut_frame {s t : State} {core x e column block} (h : State.sealOut s core x e column block = some t) :
    s.Frame (fields [.mem, .memUsed, .cores]) t := by
  unfold State.sealOut at h
  extract_lets -merge -underBinder +onlyGivenNames x at h
  try clear_value x
  extract_lets -merge -underBinder +onlyGivenNames x at h
  try clear_value x
  extract_lets -merge -underBinder +onlyGivenNames x at h
  try clear_value x
  refine Frame.step (State.putOut_frame h) (by decide) ?_
  first | with_reducible exact Frame.refl | assumption

theorem State.skipColumn_frame {s t : State} {core x r e column block y}
    (h : s.skipColumn core x r e column block = some (t, y)) : s.Frame (fields [.mem, .memUsed, .cores, .tally, .flashTally]) t := by
  unfold State.skipColumn at h
  extract_lets -merge n st e1 s1 at h
  have h1 : s.Frame (fields [.mem, .memUsed, .cores, .tally, .flashTally]) s1 := Frame.step (State.countCore_frame ..) (by decide) Frame.refl
  clear_value s1 e1
  split at h
  · cases h; exact h1
  · obtain ⟨t1, q1, h⟩ := Option.bind_eq_some_iff.mp h
    obtain ⟨t2, q2, h⟩ := Option.bind_eq_some_iff.mp h
    have h3 := Frame.step (State.putOut_frame q2) (by decide) (Frame.step (State.openOut_frame q1) (by decide) h1)
    split at h
    · cases h; exact h3
    · obtain ⟨t3, q3, h⟩ := Option.bind_eq_some_iff.mp h
      cases h
      exact Frame.step (State.sealOut_frame q3) (by decide) h3

theorem State.skipColumns_frame {s t : State} {core x r e y} (h : s.skipColumns core x r e = some (t, y)) :
    s.Frame (fields [.mem, .memUsed, .cores, .tally, .flashTally]) t := by
  unfold State.skipColumns at h
  exact Frame.foldlMPair (fun _ _ _ _ hx e => Frame.trans hx (State.skipColumn_frame e)) Frame.refl _ _ h

theorem State.writeTaps_frame {s t : State} {core x e} (h : s.writeTaps core x e = some t) : s.Frame (fields [.cores]) t := by
  unfold State.writeTaps at h
  split at h
  · cases h; exact Frame.refl
  · exact Frame.foldlM (fun _ _ _ hx e => hx.trans ((State.writePad_frame e).mono (by decide))) Frame.refl t h

theorem State.finishLayer_frame (s : State) (core) (rid) (x) (e) :
    s.Frame (fields [.freeCount, .parts, .cmds, .ended, .cores, .counters, .routes, .runs, .streams, .channels,
      .leases, .tally, .flashTally])
      (State.finishLayer s core rid x e) := by
  unfold State.finishLayer
  split
  · refine Frame.step (State.failRun_frame ..) (by decide) ?_
    first
      | with_reducible exact Frame.refl
      | assumption
      | (refine Frame.step (State.writeTaps_frame ‹_›) (by decide) ?_
         first | with_reducible exact Frame.refl | assumption)
  · refine Frame.step (State.setExec_frame ..) (by decide) ?_
    refine Frame.step (State.onCore_frame ..) (by decide) ?_
    first
      | with_reducible exact Frame.refl
      | assumption
      | (refine Frame.step (State.writeTaps_frame ‹_›) (by decide) ?_
         first | with_reducible exact Frame.refl | assumption)

theorem State.putRefused_frame (s : State) (rid) (e) :
    s.Frame (fields [.freeCount, .parts, .cmds, .ended, .cores, .counters, .routes, .runs, .streams, .channels,
      .leases, .tally, .flashTally])
      (State.putRefused s rid e) := by
  unfold State.putRefused
  refine Frame.step (State.failRun_frame ..) (by decide) ?_
  refine Frame.ite ?_ ?_
  · first | with_reducible exact Frame.refl | assumption
  · refine Frame.step (State.refusal_frame ..) (by decide) ?_
    first | with_reducible exact Frame.refl | assumption

theorem State.advanceLayer_frame (s : State) (core) :
    s.Frame (fields [.freeCount, .parts, .cmds, .ended, .mem, .memUsed, .cores, .counters, .routes, .runs,
      .streams, .channels, .leases, .tally, .flashTally])
      (State.advanceLayer s core) := by
  unfold State.advanceLayer
  split
  · first | with_reducible exact Frame.refl | assumption
  · refine Frame.withSome ?_ (fun _ => ?_)
    · first | with_reducible exact Frame.refl | assumption
    · split
      · refine Frame.ite ?_ ?_
        · first | with_reducible exact Frame.refl | assumption
        · refine Frame.ite ?_ ?_
          · extract_lets -merge -underBinder +onlyGivenNames x
            try clear_value x
            split
            · refine Frame.step (State.putRefused_frame ..) (by decide) ?_
              first
                | with_reducible exact Frame.refl
                | assumption
                | (refine Frame.step (State.skipColumns_frame ‹_›) (by decide) ?_
                   first | with_reducible exact Frame.refl | assumption)
            · refine Frame.step (State.armBands_frame ..) (by decide) ?_
              refine Frame.step (State.setExec_frame ..) (by decide) ?_
              refine Frame.step (State.onCore_frame ..) (by decide) ?_
              first
                | with_reducible exact Frame.refl
                | assumption
                | (refine Frame.step (State.skipColumns_frame ‹_›) (by decide) ?_
                   first | with_reducible exact Frame.refl | assumption)
          · extract_lets -merge -underBinder +onlyGivenNames x
            try clear_value x
            refine Frame.ite ?_ ?_
            · refine Frame.step (State.armBands_frame ..) (by decide) ?_
              refine Frame.step (State.setExec_frame ..) (by decide) ?_
              refine Frame.step (State.onCore_frame ..) (by decide) ?_
              first | with_reducible exact Frame.refl | assumption
            · refine Frame.step (State.finishLayer_frame ..) (by decide) ?_
              first | with_reducible exact Frame.refl | assumption

theorem State.advanceTail_frame (s : State) (core) :
    s.Frame (fields [.freeCount, .parts, .cmds, .ended, .cores, .counters, .routes, .runs, .streams, .channels,
      .leases, .tally, .flashTally])
      (State.advanceTail s core) := by
  unfold State.advanceTail
  refine Frame.withSome ?_ (fun _ => ?_)
  · first | with_reducible exact Frame.refl | assumption
  · refine Frame.ite ?_ ?_
    · first | with_reducible exact Frame.refl | assumption
    · refine Frame.withSome ?_ (fun _ => ?_)
      · first | with_reducible exact Frame.refl | assumption
      · split
        · refine Frame.step (State.finishLayer_frame ..) (by decide) ?_
          first | with_reducible exact Frame.refl | assumption

theorem State.advance_frame (s : State) (core) :
    s.Frame (fields [.freeCount, .parts, .cmds, .ended, .mem, .memUsed, .cores, .counters, .routes, .runs,
      .streams, .channels, .leases, .tally, .flashTally])
      (State.advance s core) := by
  unfold State.advance
  refine Frame.step (State.advanceLayer_frame ..) (by decide) ?_
  refine Frame.step (State.advanceTail_frame ..) (by decide) ?_
  first | with_reducible exact Frame.refl | assumption

theorem State.testColumn_frame (s : State) (core) (array) (e) (k) :
    s.Frame (fields [.cores, .runs, .tally, .flashTally])
      (State.testColumn s core array e k).2 := by
  unfold State.testColumn
  extract_lets -merge -underBinder +onlyGivenNames x
  try clear_value x
  refine Frame.ite2 ?_ ?_
  · refine Frame.mk2 ?_
    first | with_reducible exact Frame.refl | assumption
  · split
    · refine Frame.ite2 ?_ ?_
      · refine Frame.mk2 ?_
        refine Frame.step (State.setExec_frame ..) (by decide) ?_
        refine Frame.step (State.setCore_frame ..) (by decide) ?_
        first | with_reducible exact Frame.refl | assumption
      · refine Frame.mk2 ?_
        refine Frame.step (State.discardDup_frame ..) (by decide) ?_
        first | with_reducible exact Frame.refl | assumption

theorem State.countExact_frame (s : State) (core) (r) (e) (k) (pos) :
    s.Frame (fields [.tally, .flashTally])
      (State.countExact s core r e k pos) := by
  unfold State.countExact
  refine Frame.ite ?_ ?_
  · refine Frame.step (State.countCore_frame ..) (by decide) ?_
    first | with_reducible exact Frame.refl | assumption
  · first | with_reducible exact Frame.refl | assumption

theorem State.drainEstimate_frame (s : State) (core) (rid) (e) (k) (pos) (totals) :
    s.Frame (fields [.freeCount, .parts, .cmds, .ended, .cores, .counters, .routes, .runs, .streams, .channels,
      .leases, .tally, .flashTally])
      (State.drainEstimate s core rid e k pos totals) := by
  unfold State.drainEstimate
  extract_lets -merge -underBinder +onlyGivenNames x
  try clear_value x
  split
  · refine Frame.step (State.failRun_frame ..) (by decide) ?_
    first
      | with_reducible exact Frame.refl
      | assumption
      | (refine Frame.step (State.writePad_frame ‹_›) (by decide) ?_
         first | with_reducible exact Frame.refl | assumption)
  · refine Frame.step (State.setExec_frame ..) (by decide) ?_
    refine Frame.step (State.countCore_frame ..) (by decide) ?_
    first
      | with_reducible exact Frame.refl
      | assumption
      | (refine Frame.step (State.writePad_frame ‹_›) (by decide) ?_
         first | with_reducible exact Frame.refl | assumption)

theorem State.countSats_frame (s : State) (core) (rid) (n) :
    s.Frame (fields [.runs, .tally, .flashTally])
      (State.countSats s core rid n) := by
  unfold State.countSats
  refine Frame.ite ?_ ?_
  · first | with_reducible exact Frame.refl | assumption
  · refine Frame.step (State.notice_frame ..) (by decide) ?_
    refine Frame.step (State.countCore_frame ..) (by decide) ?_
    first | with_reducible exact Frame.refl | assumption

theorem State.countVector_frame (s : State) (core) (rid) (c) :
    s.Frame (fields [.runs, .tally, .flashTally])
      (State.countVector s core rid c) := by
  unfold State.countVector
  extract_lets -merge -underBinder +onlyGivenNames x
  refine Frame.cut (x := x) (fun hx => ?_) ?_
  · try clear_value x
    refine Frame.ite ?_ ?_
    · first | with_reducible exact Frame.refl | assumption
    · refine Frame.step (State.notice_frame ..) (by decide) ?_
      first | with_reducible exact Frame.refl | assumption
  · subst x
    refine Frame.step (State.countCore_frame ..) (by decide) ?_
    refine Frame.step (State.countCore_frame ..) (by decide) ?_
    refine Frame.step (State.countCore_frame ..) (by decide) ?_
    refine Frame.step (State.countCore_frame ..) (by decide) ?_
    first | with_reducible exact Frame.refl | assumption

theorem State.writeRow_frame (s : State) (core rid x r e k pos bytes flags last) :
    s.Frame (fields [.freeCount, .parts, .cmds, .ended, .mem, .memUsed, .cores, .counters, .routes, .runs, .streams, .channels, .leases, .tally, .flashTally]) (s.writeRow core rid x r e k pos bytes flags last) := by
  unfold State.writeRow
  refine Frame.ite Frame.refl ?_
  extract_lets -merge n off s0 s1 s2
  have h0 : ∀ t, s0 = some t → s.Frame (fields [.freeCount, .parts, .cmds, .ended, .mem, .memUsed, .cores, .counters, .routes, .runs, .streams, .channels, .leases, .tally, .flashTally]) t := fun t h => by
    unfold s0 at h; split at h
    · exact (State.openOut_frame h).mono (by decide)
    · cases h; exact Frame.refl
  have h1 : ∀ t, s1 = some t → s.Frame (fields [.freeCount, .parts, .cmds, .ended, .mem, .memUsed, .cores, .counters, .routes, .runs, .streams, .channels, .leases, .tally, .flashTally]) t := fun t h => by
    obtain ⟨u, hu, h⟩ := Option.bind_eq_some_iff.mp h
    exact Frame.step (State.putOut_frame h) (by decide) (h0 u hu)
  have h2 : ∀ t, s2 = some t → s.Frame (fields [.freeCount, .parts, .cmds, .ended, .mem, .memUsed, .cores, .counters, .routes, .runs, .streams, .channels, .leases, .tally, .flashTally]) t := fun t h => by
    obtain ⟨u, hu, h⟩ := Option.bind_eq_some_iff.mp h
    split at h
    · exact Frame.step (State.sealOut_frame h) (by decide) (h1 u hu)
    · cases h; exact h1 _ hu
  clear_value s2
  split
  · exact h2 _ rfl
  · exact (State.putRefused_frame ..).mono (by decide)

theorem State.drainRow_frame (s : State) (core) (rid) (x) (r) (e) (k) (pos) (totals) (last) :
    s.Frame (fields [.freeCount, .parts, .cmds, .ended, .mem, .memUsed, .cores, .counters, .routes, .runs,
      .streams, .channels, .leases, .tally, .flashTally])
      (State.drainRow s core rid x r e k pos totals last) := by
  unfold State.drainRow
  extract_lets -merge -underBinder +onlyGivenNames x
  try clear_value x
  extract_lets -merge -underBinder +onlyGivenNames x
  try clear_value x
  extract_lets -merge -underBinder +onlyGivenNames x
  try clear_value x
  extract_lets -merge -underBinder +onlyGivenNames x
  refine Frame.cut (x := x) (fun hx => ?_) ?_
  · try clear_value x
    extract_lets -merge -underBinder +onlyGivenNames x
    refine Frame.cut (x := x) (fun hx => ?_) ?_
    · try clear_value x
      extract_lets -merge -underBinder +onlyGivenNames x
      refine Frame.cut (x := x) (fun hx => ?_) ?_
      · try clear_value x
        refine Frame.step (State.writeRow_frame ..) (by decide) ?_
        first | with_reducible exact Frame.refl | assumption
      · subst x
        refine Frame.step (State.countExact_frame ..) (by decide) ?_
        first | with_reducible exact Frame.refl | assumption
    · subst x
      refine Frame.step (State.countVector_frame ..) (by decide) ?_
      refine Frame.step (State.countSats_frame ..) (by decide) ?_
      first | with_reducible exact Frame.refl | assumption
  · subst x
    refine Frame.step (State.setExec_frame ..) (by decide) ?_
    first | with_reducible exact Frame.refl | assumption

theorem State.finishKsplit_frame (s : State) (core) (rid) (x) (e) (k) :
    s.Frame (fields [.freeCount, .parts, .cmds, .ended, .mem, .memUsed, .cores, .counters, .routes, .runs,
      .streams, .channels, .leases, .tally, .flashTally])
      (State.finishKsplit s core rid x e k) := by
  unfold State.finishKsplit
  refine Frame.ite ?_ ?_
  · first | with_reducible exact Frame.refl | assumption
  · extract_lets -merge -underBinder +onlyGivenNames x
    try clear_value x
    refine Frame.foldl (fun _ _ _ => ?_) ?_
    · split
      · extract_lets -merge -underBinder +onlyGivenNames x
        try clear_value x
        refine Frame.ite ?_ ?_
        · refine Frame.step (State.drainEstimate_frame ..) (by decide) ?_
          first | with_reducible exact Frame.refl | assumption
        · refine Frame.step (State.drainRow_frame ..) (by decide) ?_
          first | with_reducible exact Frame.refl | assumption
      · first | with_reducible exact Frame.refl | assumption
    · first | with_reducible exact Frame.refl | assumption

theorem State.drainOn_frame (s : State) (core) (band) (array) (slot) (last) :
    s.Frame (fields [.cores])
      (State.drainOn s core band array slot last) := by
  unfold State.drainOn
  refine Frame.step (State.onCore_frame ..) (by decide) ?_
  first | with_reducible exact Frame.refl | assumption

theorem State.writeList_frame {s t : State} {core l f block pos ns} (h : State.writeList s core l f block pos ns = some t) :
    s.Frame (fields [.cores]) t := by
  unfold State.writeList at h
  extract_lets -merge -underBinder +onlyGivenNames x at h
  try clear_value x
  split at h
  · cases h
    first | with_reducible exact Frame.refl | assumption
  · refine Frame.step (State.writePad_frame h) (by decide) ?_
    first | with_reducible exact Frame.refl | assumption

theorem State.drainScores_frame (s : State) (core rid e k pos totals) :
    s.Frame (fields [.freeCount, .parts, .cmds, .ended, .cores, .counters, .routes, .runs, .streams, .channels, .leases, .tally, .flashTally]) (s.drainScores core rid e k pos totals) := by
  unfold State.drainScores
  extract_lets -merge s1
  have h1 : s.Frame (fields [.freeCount, .parts, .cmds, .ended, .cores, .counters, .routes, .runs, .streams, .channels, .leases, .tally, .flashTally]) s1 := Frame.step (State.onRun_frame ..) (by decide) Frame.refl
  clear_value s1
  split
  · exact h1
  · extract_lets -merge ns
    split
    · exact Frame.step (State.failRun_frame ..) (by decide) h1
    · rename_i h
      exact Frame.step (State.countCore_frame ..) (by decide) (Frame.step (State.onRun_frame ..) (by decide)
        (Frame.foldlM (fun _ _ _ hx e => hx.trans ((State.writeList_frame e).mono (by decide))) h1 _ h))

theorem State.drainRaw_frame (s : State) (core) (rid) (x) (r) (e) (k) (pos) (totals) (flags) (last) :
    s.Frame (fields [.freeCount, .parts, .cmds, .ended, .mem, .memUsed, .cores, .counters, .routes, .runs,
      .streams, .channels, .leases, .tally, .flashTally])
      (State.drainRaw s core rid x r e k pos totals flags last) := by
  unfold State.drainRaw
  refine Frame.ite ?_ ?_
  · refine Frame.step (State.drainScores_frame ..) (by decide) ?_
    first | with_reducible exact Frame.refl | assumption
  · extract_lets -merge -underBinder +onlyGivenNames x
    try clear_value x
    extract_lets -merge -underBinder +onlyGivenNames x
    refine Frame.cut (x := x) (fun hx => ?_) ?_
    · try clear_value x
      refine Frame.step (State.writeRow_frame ..) (by decide) ?_
      first | with_reducible exact Frame.refl | assumption
    · subst x
      refine Frame.step (State.countExact_frame ..) (by decide) ?_
      refine Frame.step (State.setExec_frame ..) (by decide) ?_
      first | with_reducible exact Frame.refl | assumption

theorem State.drainPosition_frame (s : State) (core) (rid) (x) (r) (e) (q) (k) (pos) (last) :
    s.Frame (fields [.freeCount, .parts, .cmds, .ended, .mem, .memUsed, .cores, .counters, .routes, .runs,
      .streams, .channels, .leases, .tally, .flashTally])
      (State.drainPosition s core rid x r e q k pos last) := by
  unfold State.drainPosition
  extract_lets -merge -underBinder +onlyGivenNames x
  try clear_value x
  refine Frame.ite ?_ ?_
  · extract_lets -merge -underBinder +onlyGivenNames x
    try clear_value x
    extract_lets -merge -underBinder +onlyGivenNames x
    refine Frame.cut (x := x) (fun hx => ?_) ?_
    · try clear_value x
      refine Frame.ite ?_ ?_
      · refine Frame.step (State.finishKsplit_frame ..) (by decide) ?_
        first | with_reducible exact Frame.refl | assumption
      · first | with_reducible exact Frame.refl | assumption
    · subst x
      refine Frame.step (State.setExec_frame ..) (by decide) ?_
      first | with_reducible exact Frame.refl | assumption
  · refine Frame.ite ?_ ?_
    · refine Frame.step (State.drainEstimate_frame ..) (by decide) ?_
      first | with_reducible exact Frame.refl | assumption
    · refine Frame.ite ?_ ?_
      · refine Frame.step (State.drainRaw_frame ..) (by decide) ?_
        first | with_reducible exact Frame.refl | assumption
      · refine Frame.step (State.drainRow_frame ..) (by decide) ?_
        first | with_reducible exact Frame.refl | assumption

theorem State.columnDone_frame (s : State) (core) (e) (k) :
    s.Frame (fields [.outbox, .cores, .counters, .ports, .cascade, .tally, .flashTally])
      (State.columnDone s core e k) := by
  unfold State.columnDone
  refine Frame.ite ?_ ?_
  · first | with_reducible exact Frame.refl | assumption
  · refine Frame.step (State.releaseClaim_frame ..) (by decide) ?_
    first | with_reducible exact Frame.refl | assumption

theorem execDrainRead_frame (core) (band) (s : State) :
    s.FrameOut (fields [.outbox, .freeCount, .parts, .cmds, .ended, .mem, .memUsed, .cores, .counters, .routes,
      .runs, .streams, .channels, .ports, .cascade, .leases, .tally, .flashTally])
      (execDrainRead core band s) := by
  unfold execDrainRead
  refine FrameOut.checked ?_
  refine Frame.onlyIf ?_ ?_
  · first | with_reducible exact Frame.refl | assumption
  · refine Frame.withSome ?_ (fun _ => ?_)
    · first | with_reducible exact Frame.refl | assumption
    · split
      · refine Frame.withSome ?_ (fun _ => ?_)
        · first | with_reducible exact Frame.refl | assumption
        · refine Frame.withSome ?_ (fun _ => ?_)
          · first | with_reducible exact Frame.refl | assumption
          · split
            · extract_lets -merge -underBinder +onlyGivenNames x
              try clear_value x
              extract_lets -merge -underBinder +onlyGivenNames x
              refine Frame.cut (x := x) (fun hx => ?_) ?_
              · try clear_value x
                extract_lets -merge -underBinder +onlyGivenNames x
                try clear_value x
                split
                · refine Frame.ite ?_ ?_
                  · refine Frame.step (State.advance_frame ..) (by decide) ?_
                    refine Frame.step (State.columnDone_frame ..) (by decide) ?_
                    refine Frame.step (State.drainOn_frame ..) (by decide) ?_
                    first
                      | with_reducible exact Frame.refl
                      | assumption
                      | (refine Frame.ofIte ‹_› ?_ ?_
                         · refine Frame.step (State.testColumn_frame ..) (by decide) ?_
                           first | with_reducible exact Frame.refl | assumption
                         · first | with_reducible exact Frame.refl | assumption)
                  · extract_lets -merge -underBinder +onlyGivenNames x
                    try clear_value x
                    extract_lets -merge -underBinder +onlyGivenNames x
                    refine Frame.cut (x := x) (fun hx => ?_) ?_
                    · try clear_value x
                      refine Frame.ite ?_ ?_
                      · first
                          | with_reducible exact Frame.refl
                          | assumption
                          | (refine Frame.ofIte ‹_› ?_ ?_
                             · refine Frame.step (State.testColumn_frame ..) (by decide) ?_
                               first | with_reducible exact Frame.refl | assumption
                             · first | with_reducible exact Frame.refl | assumption)
                      · extract_lets -merge -underBinder +onlyGivenNames x
                        refine Frame.cut (x := x) (fun hx => ?_) ?_
                        · try clear_value x
                          refine Frame.ite ?_ ?_
                          · refine Frame.step (State.advance_frame ..) (by decide) ?_
                            refine Frame.step (State.columnDone_frame ..) (by decide) ?_
                            first
                              | with_reducible exact Frame.refl
                              | assumption
                              | (refine Frame.ofIte ‹_› ?_ ?_
                                 · refine Frame.step (State.testColumn_frame ..) (by decide) ?_
                                   first | with_reducible exact Frame.refl | assumption
                                 · first | with_reducible exact Frame.refl | assumption)
                          · first
                              | with_reducible exact Frame.refl
                              | assumption
                              | (refine Frame.ofIte ‹_› ?_ ?_
                                 · refine Frame.step (State.testColumn_frame ..) (by decide) ?_
                                   first | with_reducible exact Frame.refl | assumption
                                 · first | with_reducible exact Frame.refl | assumption)
                        · subst x
                          refine Frame.step (State.drainOn_frame ..) (by decide) ?_
                          first
                            | with_reducible exact Frame.refl
                            | assumption
                            | (refine Frame.ofIte ‹_› ?_ ?_
                               · refine Frame.step (State.testColumn_frame ..) (by decide) ?_
                                 first | with_reducible exact Frame.refl | assumption
                               · first | with_reducible exact Frame.refl | assumption)
                    · subst x
                      refine Frame.step (State.drainPosition_frame ..) (by decide) ?_
                      first
                        | with_reducible exact Frame.refl
                        | assumption
                        | (refine Frame.ofIte ‹_› ?_ ?_
                           · refine Frame.step (State.testColumn_frame ..) (by decide) ?_
                             first | with_reducible exact Frame.refl | assumption
                           · first | with_reducible exact Frame.refl | assumption)
              · subst x
                refine Frame.step (State.onCore_frame ..) (by decide) ?_
                refine Frame.step (State.perturbedOn_frame ..) (by decide) ?_
                first | with_reducible exact Frame.refl | assumption

theorem State.finishColumn_frame (s : State) (core) (array) (e) :
    s.Frame (fields [.outbox, .freeCount, .parts, .cmds, .ended, .mem, .memUsed, .cores, .counters, .routes,
      .runs, .streams, .channels, .ports, .cascade, .leases, .tally, .flashTally])
      (State.finishColumn s core array e) := by
  unfold State.finishColumn
  extract_lets -merge -underBinder +onlyGivenNames x
  try clear_value x
  extract_lets -merge -underBinder +onlyGivenNames x
  try clear_value x
  split
  · first | with_reducible exact Frame.refl | assumption
  · refine Frame.ite ?_ ?_
    · first | with_reducible exact Frame.refl | assumption
    · extract_lets -merge -underBinder +onlyGivenNames x
      try clear_value x
      refine Frame.ite ?_ ?_
      · refine Frame.step (State.advance_frame ..) (by decide) ?_
        refine Frame.step (State.columnDone_frame ..) (by decide) ?_
        refine Frame.step (State.setCore_frame ..) (by decide) ?_
        first | with_reducible exact Frame.refl | assumption
      · split
        · refine Frame.step (State.setCore_frame ..) (by decide) ?_
          first | with_reducible exact Frame.refl | assumption
        · extract_lets -merge -underBinder +onlyGivenNames x
          try clear_value x
          refine Frame.ite ?_ ?_
          · refine Frame.step (State.advance_frame ..) (by decide) ?_
            refine Frame.step (State.setCore_frame ..) (by decide) ?_
            first | with_reducible exact Frame.refl | assumption
          · refine Frame.step (State.setCore_frame ..) (by decide) ?_
            first | with_reducible exact Frame.refl | assumption

theorem execFeedVector_frame (core) (array) (s : State) :
    s.FrameOut (fields [.parts, .cores, .tally, .flashTally])
      (execFeedVector core array s) := by
  unfold execFeedVector
  refine FrameOut.arrayRow (fun _ _ _ _ _ => ?_)
  extract_lets -merge -underBinder +onlyGivenNames x
  try clear_value x
  extract_lets -merge -underBinder +onlyGivenNames x
  try clear_value x
  refine Frame.withSome ?_ (fun _ => ?_)
  · first | with_reducible exact Frame.refl | assumption
  · extract_lets -merge -underBinder +onlyGivenNames x
    try clear_value x
    extract_lets -merge -underBinder +onlyGivenNames x
    try clear_value x
    split
    · first | with_reducible exact Frame.refl | assumption
    · extract_lets -merge -underBinder +onlyGivenNames x
      try clear_value x
      split
      · refine Frame.step (State.setCore_frame ..) (by decide) ?_
        first | with_reducible exact Frame.refl | assumption
      · refine Frame.ite ?_ ?_
        · refine Frame.step (State.setCore_frame ..) (by decide) ?_
          first | with_reducible exact Frame.refl | assumption
        · refine Frame.step (State.setCore_frame ..) (by decide) ?_
          refine Frame.step (State.perturbedOn_frame ..) (by decide) ?_
          first | with_reducible exact Frame.refl | assumption

theorem State.fetchForward_frame (s : State) (core) (array) (x) (e) :
    s.Frame (fields [.cores])
      (State.fetchForward s core array x e) := by
  unfold State.fetchForward
  extract_lets -merge -underBinder +onlyGivenNames x
  try clear_value x
  refine Frame.ite ?_ ?_
  · first | with_reducible exact Frame.refl | assumption
  · refine Frame.ite ?_ ?_
    · refine Frame.step (State.setExec_frame ..) (by decide) ?_
      refine Frame.step (State.onCore_frame ..) (by decide) ?_
      first | with_reducible exact Frame.refl | assumption
    · refine Frame.ite ?_ ?_
      · first | with_reducible exact Frame.refl | assumption
      · split
        · first | with_reducible exact Frame.refl | assumption
        · refine Frame.step (State.onCore_frame ..) (by decide) ?_
          first | with_reducible exact Frame.refl | assumption

theorem execColumnClaim_frame (core) (array) (s : State) :
    s.FrameOut (fields [.outbox, .freeCount, .parts, .cmds, .ended, .mem, .memUsed, .cores, .counters, .routes,
      .runs, .streams, .channels, .ports, .cascade, .leases, .tally, .flashTally])
      (execColumnClaim core array s) := by
  unfold execColumnClaim
  refine FrameOut.arrayRow (fun _ _ _ _ _ => ?_)
  extract_lets -merge -underBinder +onlyGivenNames x
  try clear_value x
  refine Frame.ite ?_ ?_
  · first | with_reducible exact Frame.refl | assumption
  · refine Frame.step (State.advance_frame ..) (by decide) ?_
    refine Frame.step (State.claimColumn_frame ..) (by decide) ?_
    first | with_reducible exact Frame.refl | assumption

theorem State.gather_frame (s : State) (core) (array) (e) (q) :
    s.Frame (fields [.freeCount, .parts, .cmds, .ended, .cores, .counters, .routes, .runs, .streams, .channels,
      .leases, .tally, .flashTally])
      (State.gather s core array e q) := by
  unfold State.gather
  extract_lets -merge -underBinder +onlyGivenNames x
  try clear_value x
  split
  · refine Frame.step (State.failRun_frame ..) (by decide) ?_
    first
      | with_reducible exact Frame.refl
      | assumption
      | (refine Frame.step (State.writePad_frame ‹_›) (by decide) ?_
         first | with_reducible exact Frame.refl | assumption)
  · extract_lets -merge -underBinder +onlyGivenNames x
    refine Frame.cut (x := x) (fun hx => ?_) ?_
    · try clear_value x
      refine Frame.step (State.countCore_frame ..) (by decide) ?_
      refine Frame.step (State.onCore_frame ..) (by decide) ?_
      first
        | with_reducible exact Frame.refl
        | assumption
        | (refine Frame.step (State.writePad_frame ‹_›) (by decide) ?_
           first | with_reducible exact Frame.refl | assumption)
    · subst x
      refine Frame.step (State.onCore_frame ..) (by decide) ?_
      refine Frame.step (State.setExec_frame ..) (by decide) ?_
      first
        | with_reducible exact Frame.refl
        | assumption
        | (refine Frame.step (State.writePad_frame ‹_›) (by decide) ?_
           first | with_reducible exact Frame.refl | assumption)

theorem State.tileChecked_frame (s : State) (core) (array) (rid) (r) (x) (e) (q) (check) :
    s.Frame (fields [.freeCount, .parts, .cmds, .ended, .cores, .counters, .routes, .runs, .streams, .channels,
      .leases, .tally, .flashTally])
      (State.tileChecked s core array rid r x e q check) := by
  unfold State.tileChecked
  split
  · extract_lets -merge -underBinder +onlyGivenNames x
    refine Frame.cut (x := x) (fun hx => ?_) ?_
    · try clear_value x
      refine Frame.ite ?_ ?_
      · refine Frame.step (State.gather_frame ..) (by decide) ?_
        first | with_reducible exact Frame.refl | assumption
      · refine Frame.step (State.onCore_frame ..) (by decide) ?_
        first | with_reducible exact Frame.refl | assumption
    · subst x
      refine Frame.ite ?_ ?_
      · refine Frame.step (State.countFor_frame ..) (by decide) ?_
        first | with_reducible exact Frame.refl | assumption
      · first | with_reducible exact Frame.refl | assumption
  · extract_lets -merge -underBinder +onlyGivenNames x
    try clear_value x
    refine Frame.ite ?_ ?_
    · refine Frame.step (State.failRun_frame ..) (by decide) ?_
      refine Frame.step (State.countTile_frame ..) (by decide) ?_
      first | with_reducible exact Frame.refl | assumption
    · refine Frame.step (State.onCore_frame ..) (by decide) ?_
      refine Frame.step (State.onRun_frame ..) (by decide) ?_
      first | with_reducible exact Frame.refl | assumption
  · refine Frame.step (State.failRun_frame ..) (by decide) ?_
    refine Frame.step (State.countTile_frame ..) (by decide) ?_
    first | with_reducible exact Frame.refl | assumption

theorem execTileArrival_frame (core) (array) (s : State) :
    s.FrameOut (fields [.freeCount, .parts, .cmds, .ended, .cores, .counters, .routes, .runs, .streams, .channels,
      .leases, .tally, .flashTally])
      (execTileArrival core array s) := by
  unfold execTileArrival
  refine FrameOut.arrayRow (fun _ _ _ _ _ => ?_)
  refine Frame.withSome ?_ (fun _ => ?_)
  · first | with_reducible exact Frame.refl | assumption
  · split
    · extract_lets -merge -underBinder +onlyGivenNames x
      try clear_value x
      refine Frame.withSome ?_ (fun _ => ?_)
      · first | with_reducible exact Frame.refl | assumption
      · refine Frame.ite ?_ ?_
        · extract_lets -merge -underBinder +onlyGivenNames x
          try clear_value x
          extract_lets -merge -underBinder +onlyGivenNames x
          try clear_value x
          refine Frame.step (State.tileChecked_frame ..) (by decide) ?_
          first | with_reducible exact Frame.refl | assumption
        · refine Frame.withSome ?_ (fun _ => ?_)
          · first | with_reducible exact Frame.refl | assumption
          · refine Frame.step (State.tileChecked_frame ..) (by decide) ?_
            first | with_reducible exact Frame.refl | assumption

theorem State.countDrops_frame (s : State) (core) (rid) (n) (exact) :
    s.Frame (fields [.freeCount, .parts, .cmds, .ended, .cores, .counters, .routes, .runs, .streams, .channels,
      .leases, .tally, .flashTally])
      (State.countDrops s core rid n exact) := by
  unfold State.countDrops
  refine Frame.ite ?_ ?_
  · first | with_reducible exact Frame.refl | assumption
  · refine Frame.ite ?_ ?_
    · refine Frame.step (State.failRun_frame ..) (by decide) ?_
      refine Frame.step (State.countCore_frame ..) (by decide) ?_
      first | with_reducible exact Frame.refl | assumption
    · refine Frame.step (State.notice_frame ..) (by decide) ?_
      refine Frame.step (State.countCore_frame ..) (by decide) ?_
      first | with_reducible exact Frame.refl | assumption

theorem State.renewClaim_frame (s : State) (core) (e) (k) :
    s.Frame (fields [.outbox, .ports, .cascade])
      (State.renewClaim s core e k) := by
  unfold State.renewClaim
  refine Frame.ite ?_ ?_
  · refine Frame.step (State.send_frame ..) (by decide) ?_
    first | with_reducible exact Frame.refl | assumption
  · first | with_reducible exact Frame.refl | assumption

theorem State.FrameOut.laneRow {w : Nat} {s : State} {core a l : Nat} {f : Nat → Nat → LayerExec → State → State}
    (hf : ∀ a b c t, s.Frame w t → s.Frame w (f a b c t)) : s.FrameOut w (Machine.laneRow core a l s f) := by
  unfold Machine.laneRow
  split
  · exact FrameOut.arrayRow hf
  · intro t ht; cases ht

theorem execLaneTileSwitch_frame (core) (array) (lane) (s : State) :
    s.FrameOut (fields [.outbox, .cores, .ports, .cascade])
      (execLaneTileSwitch core array lane s) := by
  unfold execLaneTileSwitch
  refine FrameOut.laneRow (fun _ _ _ _ _ => ?_)
  extract_lets -merge -underBinder +onlyGivenNames x
  try clear_value x
  split
  · refine Frame.ite ?_ ?_
    · first | with_reducible exact Frame.refl | assumption
    · extract_lets -merge -underBinder +onlyGivenNames x
      try clear_value x
      extract_lets -merge -underBinder +onlyGivenNames x
      try clear_value x
      extract_lets -merge -underBinder +onlyGivenNames x
      refine Frame.cut (x := x) (fun hx => ?_) ?_
      · try clear_value x
        refine Frame.ite ?_ ?_
        · refine Frame.step (State.renewClaim_frame ..) (by decide) ?_
          first | with_reducible exact Frame.refl | assumption
        · first | with_reducible exact Frame.refl | assumption
      · subst x
        refine Frame.step (State.onCore_frame ..) (by decide) ?_
        first | with_reducible exact Frame.refl | assumption
  · first | with_reducible exact Frame.refl | assumption

theorem execRecoderLoad_frame (core) (array) (s : State) :
    s.FrameOut (fields [.freeCount, .parts, .cmds, .ended, .cores, .counters, .routes, .runs, .streams, .channels,
      .leases, .tally, .flashTally])
      (execRecoderLoad core array s) := by
  unfold execRecoderLoad
  refine FrameOut.arrayRow (fun _ _ _ _ _ => ?_)
  extract_lets -merge -underBinder +onlyGivenNames x
  try clear_value x
  split
  · first | with_reducible exact Frame.refl | assumption
  · refine Frame.withSome ?_ (fun _ => ?_)
    · first | with_reducible exact Frame.refl | assumption
    · extract_lets -merge -underBinder +onlyGivenNames x
      try clear_value x
      refine Frame.ite ?_ ?_
      · first | with_reducible exact Frame.refl | assumption
      · extract_lets -merge -underBinder +onlyGivenNames x
        try clear_value x
        extract_lets -merge -underBinder +onlyGivenNames x
        try clear_value x
        extract_lets -merge -underBinder +onlyGivenNames x
        try clear_value x
        extract_lets -merge -underBinder +onlyGivenNames x
        try clear_value x
        extract_lets -merge -underBinder +onlyGivenNames x
        refine Frame.cut (x := x) (fun hx => ?_) ?_
        · try clear_value x
          refine Frame.step (State.countDrops_frame ..) (by decide) ?_
          refine Frame.step (State.onCore_frame ..) (by decide) ?_
          refine Frame.step (State.perturbedOn_frame ..) (by decide) ?_
          first | with_reducible exact Frame.refl | assumption
        · subst x
          refine Frame.step (State.onCore_frame ..) (by decide) ?_
          first | with_reducible exact Frame.refl | assumption

theorem execTileFetch_frame (core) (array) (s : State) :
    s.FrameOut (fields [.cores])
      (execTileFetch core array s) := by
  unfold execTileFetch
  refine FrameOut.arrayRow (fun _ _ _ _ _ => ?_)
  refine Frame.withSome ?_ (fun _ => ?_)
  · first | with_reducible exact Frame.refl | assumption
  · split
    · refine Frame.ite ?_ ?_
      · refine Frame.step (State.fetchForward_frame ..) (by decide) ?_
        first | with_reducible exact Frame.refl | assumption
      · extract_lets -merge -underBinder +onlyGivenNames x
        try clear_value x
        refine Frame.withSome ?_ (fun _ => ?_)
        · first | with_reducible exact Frame.refl | assumption
        · extract_lets -merge -underBinder +onlyGivenNames x
          try clear_value x
          refine Frame.ite ?_ ?_
          · refine Frame.step (State.onCore_frame ..) (by decide) ?_
            first | with_reducible exact Frame.refl | assumption
          · first | with_reducible exact Frame.refl | assumption

theorem execLaneStep_frame (core) (array) (lane) (s : State) :
    s.FrameOut (fields [.outbox, .freeCount, .parts, .cmds, .ended, .mem, .memUsed, .cores, .counters, .routes,
      .runs, .streams, .channels, .ports, .cascade, .leases, .tally, .flashTally])
      (execLaneStep core array lane s) := by
  unfold execLaneStep
  refine FrameOut.laneRow (fun _ _ _ _ _ => ?_)
  extract_lets -merge -underBinder +onlyGivenNames x
  try clear_value x
  extract_lets -merge -underBinder +onlyGivenNames x
  try clear_value x
  refine Frame.withSome ?_ (fun _ => ?_)
  · first | with_reducible exact Frame.refl | assumption
  · refine Frame.withSome ?_ (fun _ => ?_)
    · first | with_reducible exact Frame.refl | assumption
    · split
      · extract_lets -merge -underBinder +onlyGivenNames x
        try clear_value x
        extract_lets -merge -underBinder +onlyGivenNames x
        try clear_value x
        extract_lets -merge -underBinder +onlyGivenNames x
        try clear_value x
        refine Frame.ite ?_ ?_
        · first | with_reducible exact Frame.refl | assumption
        · extract_lets -merge -underBinder +onlyGivenNames x
          try clear_value x
          extract_lets -merge -underBinder +onlyGivenNames x
          try clear_value x
          extract_lets -merge -underBinder +onlyGivenNames x
          try clear_value x
          extract_lets -merge -underBinder +onlyGivenNames x
          try clear_value x
          extract_lets -merge -underBinder +onlyGivenNames x
          try clear_value x
          refine Frame.step (State.finishColumn_frame ..) (by decide) ?_
          refine Frame.step (State.setCore_frame ..) (by decide) ?_
          refine Frame.step (State.perturbedOn_frame ..) (by decide) ?_
          first | with_reducible exact Frame.refl | assumption

theorem execBandRead_frame (core) (band) (s : State) :
    s.FrameOut (fields [.freeCount, .parts, .cmds, .ended, .memUsed, .links, .cores, .counters, .routes, .runs,
      .streams, .channels, .leases, .tally, .flashTally])
      (execBandRead core band s) := by
  unfold execBandRead
  refine FrameOut.checked ?_
  refine Frame.onlyIf ?_ ?_
  · first | with_reducible exact Frame.refl | assumption
  · refine Frame.withSome ?_ (fun _ => ?_)
    · first | with_reducible exact Frame.refl | assumption
    · split
      · split
        · extract_lets -merge -underBinder +onlyGivenNames x
          try clear_value x
          extract_lets -merge -underBinder +onlyGivenNames x
          try clear_value x
          extract_lets -merge -underBinder +onlyGivenNames x
          try clear_value x
          refine Frame.ite ?_ ?_
          · first | with_reducible exact Frame.refl | assumption
          · split
            · refine Frame.step (State.failRun_frame ..) (by decide) ?_
              first
                | with_reducible exact Frame.refl
                | assumption
                | (refine Frame.step (Frame.fst ‹_› (State.streamVector_frame ..)) (by decide) ?_
                   first | with_reducible exact Frame.refl | assumption)
            · extract_lets -merge -underBinder +onlyGivenNames x
              try clear_value x
              refine Frame.step (State.onCore_frame ..) (by decide) ?_
              refine Frame.step (State.perturbedOn_frame ..) (by decide) ?_
              first
                | with_reducible exact Frame.refl
                | assumption
                | (refine Frame.step (Frame.fst ‹_› (State.streamVector_frame ..)) (by decide) ?_
                   first | with_reducible exact Frame.refl | assumption)
        · first | with_reducible exact Frame.refl | assumption

theorem execResidencyLoad_frame (core) (array) (s : State) :
    s.FrameOut (fields [.outbox, .freeCount, .parts, .cmds, .ended, .cores, .counters, .routes, .runs, .streams,
      .channels, .ports, .cascade, .leases, .tally, .flashTally])
      (execResidencyLoad core array s) := by
  unfold execResidencyLoad
  refine FrameOut.arrayRow (fun _ _ _ _ _ => ?_)
  extract_lets -merge -underBinder +onlyGivenNames x
  try clear_value x
  split
  · extract_lets -merge -underBinder +onlyGivenNames x
    try clear_value x
    refine Frame.ite ?_ ?_
    · first | with_reducible exact Frame.refl | assumption
    · refine Frame.ite ?_ ?_
      · refine Frame.step (State.failRun_frame ..) (by decide) ?_
        first | with_reducible exact Frame.refl | assumption
      · extract_lets -merge -underBinder +onlyGivenNames x
        try clear_value x
        extract_lets -merge -underBinder +onlyGivenNames x
        refine Frame.cut (x := x) (fun hx => ?_) ?_
        · try clear_value x
          refine Frame.ite ?_ ?_
          · refine Frame.step (State.renewClaim_frame ..) (by decide) ?_
            first | with_reducible exact Frame.refl | assumption
          · first | with_reducible exact Frame.refl | assumption
        · subst x
          refine Frame.step (State.onCore_frame ..) (by decide) ?_
          first | with_reducible exact Frame.refl | assumption
  · first | with_reducible exact Frame.refl | assumption

theorem State.tileReturns_frame (s : State) (core) (array) (response) (rid) (e) :
    s.Frame (fields [.freeCount, .parts, .cmds, .ended, .memUsed, .cores, .counters, .routes, .runs, .streams,
      .channels, .leases, .tally, .flashTally])
      (State.tileReturns s core array response rid e) := by
  unfold State.tileReturns
  refine Frame.withSome ?_ (fun _ => ?_)
  · first | with_reducible exact Frame.refl | assumption
  · split
    · refine Frame.withSome ?_ (fun _ => ?_)
      · first | with_reducible exact Frame.refl | assumption
      · split
        · refine Frame.ite ?_ ?_
          · first | with_reducible exact Frame.refl | assumption
          · extract_lets -merge -underBinder +onlyGivenNames x
            refine Frame.cut (x := x) (fun hx => ?_) ?_
            · try clear_value x
              extract_lets -merge -underBinder +onlyGivenNames x
              refine Frame.cut (x := x) (fun hx => ?_) ?_
              · try clear_value x
                split
                · refine Frame.step (State.onCore_frame ..) (by decide) ?_
                  first | with_reducible exact Frame.refl | assumption
              · subst x
                refine Frame.ite ?_ ?_
                · refine Frame.step (State.countCore_frame ..) (by decide) ?_
                  first | with_reducible exact Frame.refl | assumption
                · first | with_reducible exact Frame.refl | assumption
            · subst x
              refine Frame.step (State.perturbedOn_frame ..) (by decide) ?_
              refine Frame.step (State.request_frame ..) (by decide) ?_
              first | with_reducible exact Frame.refl | assumption
        · refine Frame.step (State.failRun_frame ..) (by decide) ?_
          refine Frame.step (State.refusal_frame ..) (by decide) ?_
          first | with_reducible exact Frame.refl | assumption

theorem execMemoryReadResponse_frame (core) (array) (response) (s : State) :
    s.FrameOut (fields [.freeCount, .parts, .cmds, .ended, .memUsed, .links, .cores, .counters, .routes, .runs,
      .streams, .channels, .leases, .tally, .flashTally])
      (execMemoryReadResponse core array response s) := by
  unfold execMemoryReadResponse
  split
  · refine FrameOut.arrayRow (fun _ _ _ _ _ => ?_)
    refine Frame.step (State.tileReturns_frame ..) (by decide) ?_
    first | with_reducible exact Frame.refl | assumption
  · refine FrameOut.checked ?_
    refine Frame.upd_links (by decide) ?_
    first | with_reducible exact Frame.refl | assumption

theorem execRunPromotion_frame (core) (array) (lane) (s : State) :
    s.FrameOut (fields [.outbox, .freeCount, .parts, .cmds, .ended, .mem, .memUsed, .cores, .counters, .routes,
      .runs, .streams, .channels, .ports, .cascade, .leases, .tally, .flashTally])
      (execRunPromotion core array lane s) := by
  unfold execRunPromotion
  refine FrameOut.laneRow (fun _ _ _ _ _ => ?_)
  extract_lets -merge -underBinder +onlyGivenNames x
  try clear_value x
  split
  · first | with_reducible exact Frame.refl | assumption
  · extract_lets -merge -underBinder +onlyGivenNames x
    try clear_value x
    extract_lets -merge -underBinder +onlyGivenNames x
    try clear_value x
    refine Frame.ite ?_ ?_
    · first | with_reducible exact Frame.refl | assumption
    · split
      · extract_lets -merge -underBinder +onlyGivenNames x
        try clear_value x
        extract_lets -merge -underBinder +onlyGivenNames x
        try clear_value x
        extract_lets -merge -underBinder +onlyGivenNames x
        try clear_value x
        extract_lets -merge -underBinder +onlyGivenNames x
        refine Frame.cut (x := x) (fun hx => ?_) ?_
        · try clear_value x
          refine Frame.step (State.finishColumn_frame ..) (by decide) ?_
          refine Frame.ite ?_ ?_
          · first | with_reducible exact Frame.refl | assumption
          · refine Frame.step (State.countSats_frame ..) (by decide) ?_
            first | with_reducible exact Frame.refl | assumption
        · subst x
          refine Frame.step (State.onCore_frame ..) (by decide) ?_
          first | with_reducible exact Frame.refl | assumption

theorem execGuestAttach_frame (core) (array) (s : State) :
    s.FrameOut (fields [.cores])
      (execGuestAttach core array s) := by
  unfold execGuestAttach
  refine FrameOut.arrayRow (fun _ _ _ _ _ => ?_)
  extract_lets -merge -underBinder +onlyGivenNames x
  try clear_value x
  extract_lets -merge -underBinder +onlyGivenNames x
  try clear_value x
  split
  · first | with_reducible exact Frame.refl | assumption
  · extract_lets -merge -underBinder +onlyGivenNames x
    try clear_value x
    refine Frame.ite ?_ ?_
    · first | with_reducible exact Frame.refl | assumption
    · refine Frame.step (State.setCore_frame ..) (by decide) ?_
      first | with_reducible exact Frame.refl | assumption

theorem State.onScatter_frame (s : State) (core) (f) : s.Frame (fields [.cores]) (State.onScatter s core f) := by
  unfold State.onScatter
  refine Frame.step (State.onCore_frame ..) (by decide) ?_
  first | with_reducible exact Frame.refl | assumption

theorem State.dropUpdate_frame (s : State) (core) (rid) (r) :
    s.Frame (fields [.freeCount, .parts, .cmds, .ended, .cores, .counters, .routes, .runs, .streams, .channels,
      .leases, .tally, .flashTally])
      (State.dropUpdate s core rid r) := by
  unfold State.dropUpdate
  extract_lets -merge -underBinder +onlyGivenNames x
  refine Frame.cut (x := x) (fun hx => ?_) ?_
  · try clear_value x
    extract_lets -merge -underBinder +onlyGivenNames x
    refine Frame.cut (x := x) (fun hx => ?_) ?_
    · try clear_value x
      refine Frame.ite ?_ ?_
      · refine Frame.step (State.failRun_frame ..) (by decide) ?_
        first | with_reducible exact Frame.refl | assumption
      · refine Frame.step (State.notice_frame ..) (by decide) ?_
        first | with_reducible exact Frame.refl | assumption
    · subst x
      refine Frame.step (State.countCore_frame ..) (by decide) ?_
      first | with_reducible exact Frame.refl | assumption
  · subst x
    refine Frame.step (State.onScatter_frame ..) (by decide) ?_
    first | with_reducible exact Frame.refl | assumption

theorem State.sackWrite_frame (s : State) (core) (rid) (g) (r) :
    s.Frame (fields [.freeCount, .parts, .cmds, .ended, .cores, .counters, .routes, .runs, .streams, .channels,
      .leases, .tally, .flashTally])
      (State.sackWrite s core rid g r) := by
  unfold State.sackWrite
  refine Frame.ite ?_ ?_
  · refine Frame.step (State.failRun_frame ..) (by decide) ?_
    refine Frame.step (State.countCore_frame ..) (by decide) ?_
    first | with_reducible exact Frame.refl | assumption
  · split
    · refine Frame.step (State.failRun_frame ..) (by decide) ?_
      first
        | with_reducible exact Frame.refl
        | assumption
        | (refine Frame.step (State.writePad_frame ‹_›) (by decide) ?_
           first | with_reducible exact Frame.refl | assumption)
    · refine Frame.step (State.onScatter_frame ..) (by decide) ?_
      refine Frame.step (State.countCore_frame ..) (by decide) ?_
      first
        | with_reducible exact Frame.refl
        | assumption
        | (refine Frame.step (State.writePad_frame ‹_›) (by decide) ?_
           first | with_reducible exact Frame.refl | assumption)

theorem execSackRecordWrite_frame (core) (s : State) :
    s.FrameOut (fields [.freeCount, .parts, .cmds, .ended, .cores, .counters, .routes, .runs, .streams, .channels,
      .leases, .tally, .flashTally])
      (execSackRecordWrite core s) := by
  unfold execSackRecordWrite
  refine FrameOut.checked ?_
  refine Frame.onlyIf ?_ ?_
  · first | with_reducible exact Frame.refl | assumption
  · split
    · refine Frame.withSome ?_ (fun _ => ?_)
      · first | with_reducible exact Frame.refl | assumption
      · refine Frame.ite ?_ ?_
        · refine Frame.step (State.dropUpdate_frame ..) (by decide) ?_
          first | with_reducible exact Frame.refl | assumption
        · refine Frame.step (State.sackWrite_frame ..) (by decide) ?_
          refine Frame.step (State.perturbedOn_frame ..) (by decide) ?_
          first | with_reducible exact Frame.refl | assumption
    · first | with_reducible exact Frame.refl | assumption

theorem State.pigeonUpdate_frame (s : State) (core) (rid) (r) :
    s.Frame (fields [.cores, .runs, .tally, .flashTally])
      (State.pigeonUpdate s core rid r) := by
  unfold State.pigeonUpdate
  extract_lets -merge -underBinder +onlyGivenNames x
  try clear_value x
  extract_lets -merge -underBinder +onlyGivenNames x
  try clear_value x
  split
  · extract_lets -merge -underBinder +onlyGivenNames x
    try clear_value x
    extract_lets -merge -underBinder +onlyGivenNames x
    try clear_value x
    extract_lets -merge -underBinder +onlyGivenNames x
    try clear_value x
    refine Frame.step (State.countSats_frame ..) (by decide) ?_
    refine Frame.step (State.countCore_frame ..) (by decide) ?_
    refine Frame.step (State.setCore_frame ..) (by decide) ?_
    first | with_reducible exact Frame.refl | assumption

theorem execPigeonholeUpdate_frame (core) (bank) (s : State) :
    s.FrameOut (fields [.freeCount, .parts, .cmds, .ended, .cores, .counters, .routes, .runs, .streams, .channels,
      .leases, .tally, .flashTally])
      (execPigeonholeUpdate core bank s) := by
  unfold execPigeonholeUpdate
  refine FrameOut.checked ?_
  refine Frame.onlyIf ?_ ?_
  · first | with_reducible exact Frame.refl | assumption
  · split
    · refine Frame.ite ?_ ?_
      · first | with_reducible exact Frame.refl | assumption
      · refine Frame.withSome ?_ (fun _ => ?_)
        · first | with_reducible exact Frame.refl | assumption
        · refine Frame.ite ?_ ?_
          · refine Frame.step (State.dropUpdate_frame ..) (by decide) ?_
            first | with_reducible exact Frame.refl | assumption
          · refine Frame.step (State.pigeonUpdate_frame ..) (by decide) ?_
            refine Frame.step (State.perturbedOn_frame ..) (by decide) ?_
            first | with_reducible exact Frame.refl | assumption
    · first | with_reducible exact Frame.refl | assumption

theorem State.passBuffer_frame (s : State) (core) (g) (pass) (runs) :
    s.Frame (fields [.cores])
      (State.passBuffer s core g pass runs) := by
  unfold State.passBuffer
  extract_lets -merge -underBinder +onlyGivenNames x
  try clear_value x
  extract_lets -merge -underBinder +onlyGivenNames x
  try clear_value x
  extract_lets -merge -underBinder +onlyGivenNames x
  try clear_value x
  refine Frame.getD (fun _ h => ?_) ?_
  · refine Frame.step (State.writePad_frame h) (by decide) ?_
    first | with_reducible exact Frame.refl | assumption
  · first | with_reducible exact Frame.refl | assumption

theorem execSortingFramePass_frame (core) (s : State) :
    s.FrameOut (fields [.freeCount, .parts, .cmds, .ended, .cores, .counters, .routes, .runs, .streams, .channels,
      .leases, .tally, .flashTally])
      (execSortingFramePass core s) := by
  unfold execSortingFramePass
  refine FrameOut.checked ?_
  refine Frame.onlyIf ?_ ?_
  · first | with_reducible exact Frame.refl | assumption
  · split
    · split
      · first | with_reducible exact Frame.refl | assumption
      · split
        · extract_lets -merge -underBinder +onlyGivenNames x
          refine Frame.cut (x := x) (fun hx => ?_) ?_
          · try clear_value x
            refine Frame.ite ?_ ?_
            · split
              · refine Frame.step (State.failRun_frame ..) (by decide) ?_
                first | with_reducible exact Frame.refl | assumption
              · refine Frame.step (State.countSats_frame ..) (by decide) ?_
                refine Frame.step (State.setCore_frame ..) (by decide) ?_
                first | with_reducible exact Frame.refl | assumption
            · refine Frame.step (State.onScatter_frame ..) (by decide) ?_
              refine Frame.step (State.passBuffer_frame ..) (by decide) ?_
              first | with_reducible exact Frame.refl | assumption
          · subst x
            refine Frame.step (State.countSats_frame ..) (by decide) ?_
            refine Frame.step (State.perturbedOn_frame ..) (by decide) ?_
            first | with_reducible exact Frame.refl | assumption
    · first | with_reducible exact Frame.refl | assumption

theorem execScatterGroupClose_frame (core) (s : State) :
    s.FrameOut (fields [.cores])
      (execScatterGroupClose core s) := by
  unfold execScatterGroupClose
  refine FrameOut.checked ?_
  refine Frame.onlyIf ?_ ?_
  · first | with_reducible exact Frame.refl | assumption
  · extract_lets -merge -underBinder +onlyGivenNames x
    try clear_value x
    refine Frame.withSome ?_ (fun _ => ?_)
    · first | with_reducible exact Frame.refl | assumption
    · refine Frame.ite ?_ ?_
      · first | with_reducible exact Frame.refl | assumption
      · extract_lets -merge -underBinder +onlyGivenNames x
        try clear_value x
        refine Frame.step (State.setCore_frame ..) (by decide) ?_
        first | with_reducible exact Frame.refl | assumption

theorem State.endLayer_frame (s : State) (rid) (i) (es) :
    s.Frame (fields [.outbox, .freeCount, .fns, .parts, .cmds, .ended, .mem, .memUsed, .cores, .counters,
      .routes, .runs, .streams, .channels, .ports, .leases, .health, .tally, .flashTally])
      (State.endLayer s rid i es) := by
  unfold State.endLayer
  extract_lets -merge -underBinder +onlyGivenNames x
  refine Frame.cut (x := x) (fun hx => ?_) ?_
  · try clear_value x
    refine Frame.step (State.stepEnds_frame ..) (by decide) ?_
    first | with_reducible exact Frame.refl | assumption
  · subst x
    refine Frame.foldl (fun _ _ _ => ?_) ?_
    · refine Frame.step (State.onCore_frame ..) (by decide) ?_
      first | with_reducible exact Frame.refl | assumption
    · first | with_reducible exact Frame.refl | assumption

theorem State.replayLayer_frame (s : State) (rid) (i) (x) (es) (tensor) (t) :
    s.Frame (fields [.outbox, .freeCount, .parts, .cmds, .ended, .memUsed, .links, .cores, .counters, .routes,
      .runs, .streams, .channels, .ports, .cascade, .leases, .tally, .flashTally])
      (State.replayLayer s rid i x es tensor t) := by
  unfold State.replayLayer
  extract_lets -merge -underBinder +onlyGivenNames x
  refine Frame.cut (x := x) (fun hx => ?_) ?_
  · try clear_value x
    refine Frame.foldl (fun _ _ _ => ?_) ?_
    · split
      · first | with_reducible exact Frame.refl | assumption
      · split
        · extract_lets -merge -underBinder +onlyGivenNames x
          refine Frame.cut (x := x) (fun hx => ?_) ?_
          · try clear_value x
            refine Frame.step (State.onExec_frame ..) (by decide) ?_
            refine Frame.step (State.startLayer_frame ..) (by decide) ?_
            first | with_reducible exact Frame.refl | assumption
          · subst x
            refine Frame.step (State.onCore_frame ..) (by decide) ?_
            first | with_reducible exact Frame.refl | assumption
        · first | with_reducible exact Frame.refl | assumption
    · first | with_reducible exact Frame.refl | assumption
  · subst x
    refine Frame.step (State.onRun_frame ..) (by decide) ?_
    first | with_reducible exact Frame.refl | assumption

theorem State.sealAll_frame {s t : State} {x r es} (h : s.sealAll x r es = some t) : s.Frame (fields [.mem, .memUsed, .cores]) t := by
  unfold State.sealAll at h
  refine Frame.foldlM (fun y u v hx e => ?_) Frame.refl t h
  split at e
  · exact Frame.foldlM (fun _ _ _ hx e => hx.trans ((State.sealOut_frame e).mono (by decide))) hx v e
  · cases e; exact hx

theorem State.trackTensor_frame (s : State) (core) (rid) (t) (e) (given) :
    s.Frame (fields [.freeCount, .parts, .cmds, .ended, .mem, .memUsed, .cores, .counters, .routes, .runs,
      .streams, .channels, .leases, .tally, .flashTally])
      (State.trackTensor s core rid t e given) := by
  unfold State.trackTensor
  extract_lets -merge -underBinder +onlyGivenNames x
  refine Frame.cut (x := x) (fun hx => ?_) ?_
  · try clear_value x
    extract_lets -merge -underBinder +onlyGivenNames x
    refine Frame.cut (x := x) (fun hx => ?_) ?_
    · try clear_value x
      extract_lets -merge -underBinder +onlyGivenNames x
      refine Frame.cut (x := x) (fun hx => ?_) ?_
      · try clear_value x
        refine Frame.step (State.trackerWrites_frame ..) (by decide) ?_
        first | with_reducible exact Frame.refl | assumption
      · subst x
        split
        · refine Frame.step (State.notice_frame ..) (by decide) ?_
          first | with_reducible exact Frame.refl | assumption
        · refine Frame.step (State.notice_frame ..) (by decide) ?_
          first | with_reducible exact Frame.refl | assumption
        · first | with_reducible exact Frame.refl | assumption
    · subst x
      refine Frame.step (State.countCore_frame ..) (by decide) ?_
      refine Frame.step (State.countCore_frame ..) (by decide) ?_
      refine Frame.step (State.countCore_frame ..) (by decide) ?_
      first | with_reducible exact Frame.refl | assumption
  · subst x
    refine Frame.step (State.onRun_frame ..) (by decide) ?_
    first | with_reducible exact Frame.refl | assumption

theorem State.completeLayer_frame (s : State) (rid) (i) (r) (x) (es) :
    s.Frame (fields [.outbox, .freeCount, .fns, .parts, .cmds, .ended, .mem, .memUsed, .links, .cores,
      .counters, .routes, .runs, .streams, .channels, .ports, .cascade, .leases, .health, .tally,
      .flashTally])
      (State.completeLayer s rid i r x es) := by
  unfold State.completeLayer
  extract_lets -merge -underBinder +onlyGivenNames x
  try clear_value x
  extract_lets -merge -underBinder +onlyGivenNames x
  try clear_value x
  split
  · refine Frame.ite ?_ ?_
    · refine Frame.step (State.replayLayer_frame ..) (by decide) ?_
      first | with_reducible exact Frame.refl | assumption
    · split
      · refine Frame.step (State.failRun_frame ..) (by decide) ?_
        refine Frame.step (State.countTile_frame ..) (by decide) ?_
        first | with_reducible exact Frame.refl | assumption
      · extract_lets -merge -underBinder +onlyGivenNames x
        refine Frame.cut (x := x) (fun hx => ?_) ?_
        · try clear_value x
          refine Frame.ite ?_ ?_
          · first | with_reducible exact Frame.refl | assumption
          · refine Frame.ite ?_ ?_
            · refine Frame.step (State.failRun_frame ..) (by decide) ?_
              first | with_reducible exact Frame.refl | assumption
            · split
              · refine Frame.step (State.refusedRun_frame ..) (by decide) ?_
                first
                  | with_reducible exact Frame.refl
                  | assumption
                  | (refine Frame.step (State.sealAll_frame ‹_›) (by decide) ?_
                     first | with_reducible exact Frame.refl | assumption)
              · refine Frame.step (State.endLayer_frame ..) (by decide) ?_
                first
                  | with_reducible exact Frame.refl
                  | assumption
                  | (refine Frame.step (State.sealAll_frame ‹_›) (by decide) ?_
                     first | with_reducible exact Frame.refl | assumption)
        · subst x
          refine Frame.step (State.trackTensor_frame ..) (by decide) ?_
          first | with_reducible exact Frame.refl | assumption
  · refine Frame.step (State.endLayer_frame ..) (by decide) ?_
    first | with_reducible exact Frame.refl | assumption

theorem State.endsLayer_frame (s : State) (e) :
    s.Frame (fields [.outbox, .freeCount, .fns, .parts, .cmds, .ended, .mem, .memUsed, .links, .cores,
      .counters, .routes, .runs, .streams, .channels, .ports, .cascade, .leases, .health, .tally,
      .flashTally])
      (State.endsLayer s e) := by
  unfold State.endsLayer
  extract_lets -merge -underBinder +onlyGivenNames x
  try clear_value x
  refine Frame.ite ?_ ?_
  · first | with_reducible exact Frame.refl | assumption
  · refine Frame.withSome ?_ (fun _ => ?_)
    · first | with_reducible exact Frame.refl | assumption
    · refine Frame.step (State.completeLayer_frame ..) (by decide) ?_
      first | with_reducible exact Frame.refl | assumption

theorem execRouteStepComplete_frame (core) (s : State) :
    s.FrameOut (fields [.outbox, .freeCount, .fns, .parts, .cmds, .ended, .mem, .memUsed, .links, .cores,
      .counters, .routes, .runs, .streams, .channels, .ports, .cascade, .leases, .health, .tally,
      .flashTally])
      (execRouteStepComplete core s) := by
  unfold execRouteStepComplete
  refine FrameOut.checked ?_
  refine Frame.onlyIf ?_ ?_
  · first | with_reducible exact Frame.refl | assumption
  · split
    · refine Frame.step (State.stepEnds_frame ..) (by decide) ?_
      first | with_reducible exact Frame.refl | assumption
    · refine Frame.withSome ?_ (fun _ => ?_)
      · first | with_reducible exact Frame.refl | assumption
      · refine Frame.step (State.endsLayer_frame ..) (by decide) ?_
        first | with_reducible exact Frame.refl | assumption

theorem execRouteStepDispatch_frame (core) (s : State) :
    s.FrameOut (fields [.freeCount, .parts, .cmds, .ended, .memUsed, .links, .cores, .counters, .routes, .runs,
      .streams, .channels, .leases, .tally, .flashTally])
      (execRouteStepDispatch core s) := by
  unfold execRouteStepDispatch
  refine FrameOut.checked ?_
  refine Frame.onlyIf ?_ ?_
  · first | with_reducible exact Frame.refl | assumption
  · refine Frame.withSome ?_ (fun _ => ?_)
    · first | with_reducible exact Frame.refl | assumption
    · split
      · refine Frame.ite ?_ ?_
        · first | with_reducible exact Frame.refl | assumption
        · extract_lets -merge -underBinder +onlyGivenNames g
          have hg : ∀ t , s.Frame (fields [.freeCount, .parts, .cmds, .ended, .memUsed, .links, .cores, .counters, .routes, .runs, .streams, .channels, .leases, .tally, .flashTally]) t → s.Frame (fields [.freeCount, .parts, .cmds, .ended, .memUsed, .links, .cores, .counters, .routes, .runs, .streams, .channels, .leases, .tally, .flashTally]) (g t ) := by
            intro t  ht
            subst g
            dsimp -zeta only
            refine Frame.step (State.onCore_frame ..) (by decide) ?_
            first | with_reducible exact Frame.refl | assumption
          clear_value g
          refine Frame.ite ?_ ?_
          · refine hg _ ?_
            first | with_reducible exact Frame.refl | assumption
          · split
            · first | with_reducible exact Frame.refl | assumption
            · split
              · first
                  | with_reducible exact Frame.refl
                  | assumption
                  | (refine Frame.step (State.startRun_frame.1 _ ‹_›) (by decide) ?_
                     first | with_reducible exact Frame.refl | assumption)
                  | (refine Frame.step (State.startRun_frame.2 _ _ _ ‹_›) (by decide) ?_
                     first | with_reducible exact Frame.refl | assumption)
                  | (refine Frame.step (State.startRun_frame.2 _ ‹_›) (by decide) ?_
                     first | with_reducible exact Frame.refl | assumption)
              · refine hg _ ?_
                first
                  | with_reducible exact Frame.refl
                  | assumption
                  | (refine Frame.step (State.startRun_frame.1 _ ‹_›) (by decide) ?_
                     first | with_reducible exact Frame.refl | assumption)
                  | (refine Frame.step (State.startRun_frame.2 _ _ _ ‹_›) (by decide) ?_
                     first | with_reducible exact Frame.refl | assumption)
                  | (refine Frame.step (State.startRun_frame.2 _ ‹_›) (by decide) ?_
                     first | with_reducible exact Frame.refl | assumption)

theorem State.askHop_frame (s : State) (port) (v6) (peer) :
    s.Frame (fields [.outbox])
      (State.askHop s port v6 peer) := by
  unfold State.askHop
  refine Frame.ite ?_ ?_
  · first | with_reducible exact Frame.refl | assumption
  · split
    · first | with_reducible exact Frame.refl | assumption
    · refine Frame.step (State.emit_frame ..) (by decide) ?_
      first | with_reducible exact Frame.refl | assumption

theorem State.sendVia_frame (s : State) (port) (v6) (peer) (o) :
    s.Frame (fields [.outbox])
      (State.sendVia s port v6 peer o) := by
  unfold State.sendVia
  split
  · refine Frame.step (State.emit_frame ..) (by decide) ?_
    first | with_reducible exact Frame.refl | assumption
  · refine Frame.step (State.askHop_frame ..) (by decide) ?_
    first | with_reducible exact Frame.refl | assumption

theorem execResultHandover_frame (stream) (s : State) :
    s.FrameOut (fields [.outbox, .freeCount, .fns, .parts, .cmds, .ended, .cores, .counters, .routes, .runs,
      .streams, .channels, .ports, .leases, .health, .tally, .flashTally])
      (execResultHandover stream s) := by
  unfold execResultHandover
  refine FrameOut.checked ?_
  refine Frame.onlyIf ?_ ?_
  · first | with_reducible exact Frame.refl | assumption
  · split
    · refine Frame.ite ?_ ?_
      · first | with_reducible exact Frame.refl | assumption
      · split
        · refine Frame.step (State.fault_frame ..) (by decide) ?_
          first | with_reducible exact Frame.refl | assumption
        · split
          · refine Frame.step (State.failRun_frame ..) (by decide) ?_
            first | with_reducible exact Frame.refl | assumption
          · extract_lets -merge -underBinder +onlyGivenNames x
            try clear_value x
            extract_lets -merge -underBinder +onlyGivenNames x
            try clear_value x
            extract_lets -merge -underBinder +onlyGivenNames x
            try clear_value x
            extract_lets -merge -underBinder +onlyGivenNames x
            refine Frame.cut (x := x) (fun hx => ?_) ?_
            · try clear_value x
              extract_lets -merge -underBinder +onlyGivenNames x
              refine Frame.cut (x := x) (fun hx => ?_) ?_
              · try clear_value x
                extract_lets -merge -underBinder +onlyGivenNames x
                refine Frame.cut (x := x) (fun hx => ?_) ?_
                · try clear_value x
                  refine Frame.step (State.tryEnd_frame ..) (by decide) ?_
                  refine Frame.step (State.onRun_frame ..) (by decide) ?_
                  first | with_reducible exact Frame.refl | assumption
                · subst x
                  refine Frame.step (State.onStream_frame ..) (by decide) ?_
                  first | with_reducible exact Frame.refl | assumption
              · subst x
                refine Frame.step (State.sendVia_frame ..) (by decide) ?_
                refine Frame.step (State.perturbedOn_frame ..) (by decide) ?_
                first | with_reducible exact Frame.refl | assumption
            · subst x
              refine Frame.step (State.onCore_frame ..) (by decide) ?_
              first | with_reducible exact Frame.refl | assumption
    · first | with_reducible exact Frame.refl | assumption

theorem State.countOp_frame (s : State) (core) (v) (exact) :
    s.Frame (fields [.parts, .cores, .tally, .flashTally])
      (State.countOp s core v exact) := by
  unfold State.countOp
  extract_lets -merge -underBinder +onlyGivenNames x
  refine Frame.cut (x := x) (fun hx => ?_) ?_
  · try clear_value x
    refine Frame.ite ?_ ?_
    · refine Frame.step (State.countCore_frame ..) (by decide) ?_
      first | with_reducible exact Frame.refl | assumption
    · first | with_reducible exact Frame.refl | assumption
  · subst x
    refine Frame.step (State.onCore_frame ..) (by decide) ?_
    refine Frame.step (State.countCore_frame ..) (by decide) ?_
    refine Frame.step (State.perturbedOn_frame ..) (by decide) ?_
    first | with_reducible exact Frame.refl | assumption

theorem State.vectorEnds_frame (s : State) (core) (rid) (i) (c) (n) :
    s.Frame (fields [.cores, .runs, .tally, .flashTally])
      (State.vectorEnds s core rid i c n) := by
  unfold State.vectorEnds
  refine Frame.step (State.countVector_frame ..) (by decide) ?_
  refine Frame.step (State.setCore_frame ..) (by decide) ?_
  first | with_reducible exact Frame.refl | assumption

theorem State.vector_frame (s : State) (core) (rid) (i) (v) (exact) (f) :
    s.Frame (fields [.freeCount, .parts, .cmds, .ended, .cores, .counters, .routes, .runs, .streams, .channels,
      .leases, .tally, .flashTally])
      (State.vector s core rid i v exact f) := by
  unfold State.vector
  extract_lets -merge -underBinder +onlyGivenNames x
  refine Frame.cut (x := x) (fun hx => ?_) ?_
  · try clear_value x
    split
    · refine Frame.step (State.failRun_frame ..) (by decide) ?_
      first | with_reducible exact Frame.refl | assumption
    · split
      · refine Frame.step (State.failRun_frame ..) (by decide) ?_
        first | with_reducible exact Frame.refl | assumption
      · refine Frame.step (State.vectorEnds_frame ..) (by decide) ?_
        first | with_reducible exact Frame.refl | assumption
  · subst x
    refine Frame.step (State.countOp_frame ..) (by decide) ?_
    first | with_reducible exact Frame.refl | assumption

theorem State.FrameOut.vectorRow {w : Nat} {s : State} {core : Nat} {op : VecOp}
    {f : Nat → Nat → Route → VectorStep → State → State}
    (hf : ∀ a b c d t, s.Frame w t → s.Frame w (f a b c d t)) : s.FrameOut w (Machine.vectorRow core op s f) := by
  refine FrameOut.controlRow fun a b c t ht => ?_
  split
  · exact Frame.withSome ht fun _ => Frame.ite (hf _ _ _ _ _ ht) ht
  · exact ht

theorem plainRow_frame (core) (op) (s : State) (f) :
    s.FrameOut (fields [.freeCount, .parts, .cmds, .ended, .cores, .counters, .routes, .runs, .streams, .channels,
      .leases, .tally, .flashTally])
      (plainRow core op s f) := by
  unfold plainRow
  refine FrameOut.vectorRow (fun _ _ _ _ _ _ => ?_)
  refine Frame.step (State.vector_frame ..) (by decide) ?_
  first | with_reducible exact Frame.refl | assumption

theorem execVecMin_frame (core) (s : State) :
    s.FrameOut (fields [.freeCount, .parts, .cmds, .ended, .cores, .counters, .routes, .runs, .streams, .channels,
      .leases, .tally, .flashTally])
      (execVecMin core s) := by
  unfold execVecMin
  exact FrameOut.mono (plainRow_frame _ _ _ _) (by decide)

theorem execVecSum_frame (core) (s : State) :
    s.FrameOut (fields [.freeCount, .parts, .cmds, .ended, .cores, .counters, .routes, .runs, .streams, .channels,
      .leases, .tally, .flashTally])
      (execVecSum core s) := by
  unfold execVecSum
  exact FrameOut.mono (plainRow_frame _ _ _ _) (by decide)

theorem execVecClamp_frame (core) (s : State) :
    s.FrameOut (fields [.freeCount, .parts, .cmds, .ended, .cores, .counters, .routes, .runs, .streams, .channels,
      .leases, .tally, .flashTally])
      (execVecClamp core s) := by
  unfold execVecClamp
  exact FrameOut.mono (plainRow_frame _ _ _ _) (by decide)

theorem execVecDiv_frame (core) (s : State) :
    s.FrameOut (fields [.freeCount, .parts, .cmds, .ended, .cores, .counters, .routes, .runs, .streams, .channels,
      .leases, .tally, .flashTally])
      (execVecDiv core s) := by
  unfold execVecDiv
  exact FrameOut.mono (plainRow_frame _ _ _ _) (by decide)

theorem execVecSumsq_frame (core) (s : State) :
    s.FrameOut (fields [.freeCount, .parts, .cmds, .ended, .cores, .counters, .routes, .runs, .streams, .channels,
      .leases, .tally, .flashTally])
      (execVecSumsq core s) := by
  unfold execVecSumsq
  exact FrameOut.mono (plainRow_frame _ _ _ _) (by decide)

theorem execVecMul_frame (core) (s : State) :
    s.FrameOut (fields [.freeCount, .parts, .cmds, .ended, .cores, .counters, .routes, .runs, .streams, .channels,
      .leases, .tally, .flashTally])
      (execVecMul core s) := by
  unfold execVecMul
  exact FrameOut.mono (plainRow_frame _ _ _ _) (by decide)

theorem execVecSub_frame (core) (s : State) :
    s.FrameOut (fields [.freeCount, .parts, .cmds, .ended, .cores, .counters, .routes, .runs, .streams, .channels,
      .leases, .tally, .flashTally])
      (execVecSub core s) := by
  unfold execVecSub
  exact FrameOut.mono (plainRow_frame _ _ _ _) (by decide)

theorem execVecSilu_frame (core) (s : State) :
    s.FrameOut (fields [.freeCount, .parts, .cmds, .ended, .cores, .counters, .routes, .runs, .streams, .channels,
      .leases, .tally, .flashTally])
      (execVecSilu core s) := by
  unfold execVecSilu
  exact FrameOut.mono (plainRow_frame _ _ _ _) (by decide)

theorem execVecMini_frame (core) (s : State) :
    s.FrameOut (fields [.freeCount, .parts, .cmds, .ended, .cores, .counters, .routes, .runs, .streams, .channels,
      .leases, .tally, .flashTally])
      (execVecMini core s) := by
  unfold execVecMini
  exact FrameOut.mono (plainRow_frame _ _ _ _) (by decide)

theorem execVecAbs_frame (core) (s : State) :
    s.FrameOut (fields [.freeCount, .parts, .cmds, .ended, .cores, .counters, .routes, .runs, .streams, .channels,
      .leases, .tally, .flashTally])
      (execVecAbs core s) := by
  unfold execVecAbs
  exact FrameOut.mono (plainRow_frame _ _ _ _) (by decide)

theorem execVecRsqrt_frame (core) (s : State) :
    s.FrameOut (fields [.freeCount, .parts, .cmds, .ended, .cores, .counters, .routes, .runs, .streams, .channels,
      .leases, .tally, .flashTally])
      (execVecRsqrt core s) := by
  unfold execVecRsqrt
  exact FrameOut.mono (plainRow_frame _ _ _ _) (by decide)

theorem execVecRelu_frame (core) (s : State) :
    s.FrameOut (fields [.freeCount, .parts, .cmds, .ended, .cores, .counters, .routes, .runs, .streams, .channels,
      .leases, .tally, .flashTally])
      (execVecRelu core s) := by
  unfold execVecRelu
  exact FrameOut.mono (plainRow_frame _ _ _ _) (by decide)

theorem execVecAdd_frame (core) (s : State) :
    s.FrameOut (fields [.freeCount, .parts, .cmds, .ended, .cores, .counters, .routes, .runs, .streams, .channels,
      .leases, .tally, .flashTally])
      (execVecAdd core s) := by
  unfold execVecAdd
  exact FrameOut.mono (plainRow_frame _ _ _ _) (by decide)

theorem execVecAdamStep_frame (core) (s : State) :
    s.FrameOut (fields [.freeCount, .parts, .cmds, .ended, .cores, .counters, .routes, .runs, .streams, .channels,
      .leases, .tally, .flashTally])
      (execVecAdamStep core s) := by
  unfold execVecAdamStep
  exact FrameOut.mono (plainRow_frame _ _ _ _) (by decide)

theorem execVecScatterAdd_frame (core) (s : State) :
    s.FrameOut (fields [.freeCount, .parts, .cmds, .ended, .cores, .counters, .routes, .runs, .streams, .channels,
      .leases, .tally, .flashTally])
      (execVecScatterAdd core s) := by
  unfold execVecScatterAdd
  refine FrameOut.vectorRow (fun _ _ _ _ _ _ => ?_)
  extract_lets -merge -underBinder +onlyGivenNames x
  refine Frame.cut (x := x) (fun hx => ?_) ?_
  · try clear_value x
    extract_lets -merge -underBinder +onlyGivenNames x
    try clear_value x
    split
    · extract_lets -merge -underBinder +onlyGivenNames x
      try clear_value x
      refine Frame.step (State.countVector_frame ..) (by decide) ?_
      refine Frame.step (State.setCore_frame ..) (by decide) ?_
      first | with_reducible exact Frame.refl | assumption
    · refine Frame.step (State.failRun_frame ..) (by decide) ?_
      first | with_reducible exact Frame.refl | assumption
  · subst x
    refine Frame.step (State.countOp_frame ..) (by decide) ?_
    first | with_reducible exact Frame.refl | assumption

theorem execVecSqrt_frame (core) (s : State) :
    s.FrameOut (fields [.freeCount, .parts, .cmds, .ended, .cores, .counters, .routes, .runs, .streams, .channels,
      .leases, .tally, .flashTally])
      (execVecSqrt core s) := by
  unfold execVecSqrt
  exact FrameOut.mono (plainRow_frame _ _ _ _) (by decide)

theorem execVecNeg_frame (core) (s : State) :
    s.FrameOut (fields [.freeCount, .parts, .cmds, .ended, .cores, .counters, .routes, .runs, .streams, .channels,
      .leases, .tally, .flashTally])
      (execVecNeg core s) := by
  unfold execVecNeg
  exact FrameOut.mono (plainRow_frame _ _ _ _) (by decide)

theorem execVecSoftmax_frame (core) (s : State) :
    s.FrameOut (fields [.freeCount, .parts, .cmds, .ended, .cores, .counters, .routes, .runs, .streams, .channels,
      .leases, .tally, .flashTally])
      (execVecSoftmax core s) := by
  unfold execVecSoftmax
  exact FrameOut.mono (plainRow_frame _ _ _ _) (by decide)

theorem execVecMaxi_frame (core) (s : State) :
    s.FrameOut (fields [.freeCount, .parts, .cmds, .ended, .cores, .counters, .routes, .runs, .streams, .channels,
      .leases, .tally, .flashTally])
      (execVecMaxi core s) := by
  unfold execVecMaxi
  exact FrameOut.mono (plainRow_frame _ _ _ _) (by decide)

theorem execVecGelu_frame (core) (s : State) :
    s.FrameOut (fields [.freeCount, .parts, .cmds, .ended, .cores, .counters, .routes, .runs, .streams, .channels,
      .leases, .tally, .flashTally])
      (execVecGelu core s) := by
  unfold execVecGelu
  exact FrameOut.mono (plainRow_frame _ _ _ _) (by decide)

theorem execVecGradAdd_frame (core) (s : State) :
    s.FrameOut (fields [.freeCount, .parts, .cmds, .ended, .cores, .counters, .routes, .runs, .streams, .channels,
      .leases, .tally, .flashTally])
      (execVecGradAdd core s) := by
  unfold execVecGradAdd
  exact FrameOut.mono (plainRow_frame _ _ _ _) (by decide)

theorem execVecRecip_frame (core) (s : State) :
    s.FrameOut (fields [.freeCount, .parts, .cmds, .ended, .cores, .counters, .routes, .runs, .streams, .channels,
      .leases, .tally, .flashTally])
      (execVecRecip core s) := by
  unfold execVecRecip
  exact FrameOut.mono (plainRow_frame _ _ _ _) (by decide)

theorem execVecLog2_frame (core) (s : State) :
    s.FrameOut (fields [.freeCount, .parts, .cmds, .ended, .cores, .counters, .routes, .runs, .streams, .channels,
      .leases, .tally, .flashTally])
      (execVecLog2 core s) := by
  unfold execVecLog2
  exact FrameOut.mono (plainRow_frame _ _ _ _) (by decide)

theorem State.narrowing_frame (s : State) (core) (rid) (i) (r) (v) (xs) (n) :
    s.Frame (fields [.freeCount, .parts, .cmds, .ended, .mem, .memUsed, .cores, .counters, .routes, .runs,
      .streams, .channels, .leases, .tally, .flashTally])
      (State.narrowing s core rid i r v xs n) := by
  unfold State.narrowing
  extract_lets -merge -underBinder +onlyGivenNames x
  try clear_value x
  split
  · refine Frame.step (State.failRun_frame ..) (by decide) ?_
    first | with_reducible exact Frame.refl | assumption
  · split
    · extract_lets -merge -underBinder +onlyGivenNames x
      try clear_value x
      extract_lets -merge -underBinder +onlyGivenNames x
      try clear_value x
      extract_lets -merge -underBinder +onlyGivenNames x
      try clear_value x
      split
      · extract_lets -merge -underBinder +onlyGivenNames x
        try clear_value x
        extract_lets -merge -underBinder +onlyGivenNames x
        refine Frame.cut (x := x) (fun hx => ?_) ?_
        · try clear_value x
          split
          · refine Frame.step (State.failRun_frame ..) (by decide) ?_
            first | with_reducible exact Frame.refl | assumption
          · split
            · refine Frame.step (State.vectorEnds_frame ..) (by decide) ?_
              first | with_reducible exact Frame.refl | assumption
            · split
              · refine Frame.step (State.failRun_frame ..) (by decide) ?_
                refine Frame.step (State.countTile_frame ..) (by decide) ?_
                first | with_reducible exact Frame.refl | assumption
              · extract_lets -merge -underBinder +onlyGivenNames x
                refine Frame.cut (x := x) (fun hx => ?_) ?_
                · try clear_value x
                  refine Frame.ite ?_ ?_
                  · first | with_reducible exact Frame.refl | assumption
                  · refine Frame.ite ?_ ?_
                    · refine Frame.step (State.failRun_frame ..) (by decide) ?_
                      first | with_reducible exact Frame.refl | assumption
                    · refine Frame.step (State.vectorEnds_frame ..) (by decide) ?_
                      first | with_reducible exact Frame.refl | assumption
                · subst x
                  refine Frame.step (State.trackTensor_frame ..) (by decide) ?_
                  first | with_reducible exact Frame.refl | assumption
        · subst x
          refine Frame.ite ?_ ?_
          · refine Frame.step (State.onRun_frame ..) (by decide) ?_
            first | with_reducible exact Frame.refl | assumption
          · first | with_reducible exact Frame.refl | assumption

theorem execVecRmsnorm_frame (core) (s : State) :
    s.FrameOut (fields [.freeCount, .parts, .cmds, .ended, .cores, .counters, .routes, .runs, .streams, .channels,
      .leases, .tally, .flashTally])
      (execVecRmsnorm core s) := by
  unfold execVecRmsnorm
  exact FrameOut.mono (plainRow_frame _ _ _ _) (by decide)

theorem execVecSgdStep_frame (core) (s : State) :
    s.FrameOut (fields [.freeCount, .parts, .cmds, .ended, .cores, .counters, .routes, .runs, .streams, .channels,
      .leases, .tally, .flashTally])
      (execVecSgdStep core s) := by
  unfold execVecSgdStep
  exact FrameOut.mono (plainRow_frame _ _ _ _) (by decide)

theorem execVecLayernorm_frame (core) (s : State) :
    s.FrameOut (fields [.freeCount, .parts, .cmds, .ended, .cores, .counters, .routes, .runs, .streams, .channels,
      .leases, .tally, .flashTally])
      (execVecLayernorm core s) := by
  unfold execVecLayernorm
  exact FrameOut.mono (plainRow_frame _ _ _ _) (by decide)

theorem execVecFma_frame (core) (s : State) :
    s.FrameOut (fields [.freeCount, .parts, .cmds, .ended, .cores, .counters, .routes, .runs, .streams, .channels,
      .leases, .tally, .flashTally])
      (execVecFma core s) := by
  unfold execVecFma
  exact FrameOut.mono (plainRow_frame _ _ _ _) (by decide)

theorem execVecExp2_frame (core) (s : State) :
    s.FrameOut (fields [.freeCount, .parts, .cmds, .ended, .cores, .counters, .routes, .runs, .streams, .channels,
      .leases, .tally, .flashTally])
      (execVecExp2 core s) := by
  unfold execVecExp2
  exact FrameOut.mono (plainRow_frame _ _ _ _) (by decide)

theorem execVecSelect_frame (core) (s : State) :
    s.FrameOut (fields [.freeCount, .parts, .cmds, .ended, .cores, .counters, .routes, .runs, .streams, .channels,
      .leases, .tally, .flashTally])
      (execVecSelect core s) := by
  unfold execVecSelect
  exact FrameOut.mono (plainRow_frame _ _ _ _) (by decide)

theorem execVecScaleUpdate_frame (core) (s : State) :
    s.FrameOut (fields [.freeCount, .parts, .cmds, .ended, .cores, .counters, .routes, .runs, .streams, .channels,
      .leases, .tally, .flashTally])
      (execVecScaleUpdate core s) := by
  unfold execVecScaleUpdate
  exact FrameOut.mono (plainRow_frame _ _ _ _) (by decide)

theorem execVecCmp_frame (core) (s : State) :
    s.FrameOut (fields [.freeCount, .parts, .cmds, .ended, .cores, .counters, .routes, .runs, .streams, .channels,
      .leases, .tally, .flashTally])
      (execVecCmp core s) := by
  unfold execVecCmp
  exact FrameOut.mono (plainRow_frame _ _ _ _) (by decide)

theorem execVecMax_frame (core) (s : State) :
    s.FrameOut (fields [.freeCount, .parts, .cmds, .ended, .cores, .counters, .routes, .runs, .streams, .channels,
      .leases, .tally, .flashTally])
      (execVecMax core s) := by
  unfold execVecMax
  exact FrameOut.mono (plainRow_frame _ _ _ _) (by decide)

theorem execVecConvert_frame (core) (s : State) :
    s.FrameOut (fields [.freeCount, .parts, .cmds, .ended, .mem, .memUsed, .cores, .counters, .routes, .runs,
      .streams, .channels, .leases, .tally, .flashTally])
      (execVecConvert core s) := by
  unfold execVecConvert
  refine FrameOut.vectorRow (fun _ _ _ _ _ _ => ?_)
  refine Frame.ite ?_ ?_
  · refine Frame.step (State.vector_frame ..) (by decide) ?_
    first | with_reducible exact Frame.refl | assumption
  · extract_lets -merge -underBinder +onlyGivenNames x
    refine Frame.cut (x := x) (fun hx => ?_) ?_
    · try clear_value x
      split
      · refine Frame.ite ?_ ?_
        · extract_lets -merge -underBinder +onlyGivenNames x
          try clear_value x
          refine Frame.step (State.narrowing_frame ..) (by decide) ?_
          first | with_reducible exact Frame.refl | assumption
        · refine Frame.step (State.narrowing_frame ..) (by decide) ?_
          first | with_reducible exact Frame.refl | assumption
      · refine Frame.step (State.failRun_frame ..) (by decide) ?_
        first | with_reducible exact Frame.refl | assumption
    · subst x
      refine Frame.step (State.countOp_frame ..) (by decide) ?_
      first | with_reducible exact Frame.refl | assumption

theorem execVecLse_frame (core) (s : State) :
    s.FrameOut (fields [.freeCount, .parts, .cmds, .ended, .cores, .counters, .routes, .runs, .streams, .channels,
      .leases, .tally, .flashTally])
      (execVecLse core s) := by
  unfold execVecLse
  exact FrameOut.mono (plainRow_frame _ _ _ _) (by decide)

theorem execPackSort_frame (id) (s : State) : s.FrameOut (fields [.packing]) (execPackSort id s) := by
  unfold execPackSort
  refine FrameOut.next ?_
  refine Frame.onlyIf ?_ ?_
  · first | with_reducible exact Frame.refl | assumption
  · split
    · extract_lets -merge -underBinder +onlyGivenNames x
      try clear_value x
      refine Frame.ite ?_ ?_
      · first | with_reducible exact Frame.refl | assumption
      · refine Frame.withSome ?_ (fun _ => ?_)
        · first | with_reducible exact Frame.refl | assumption
        · extract_lets -merge -underBinder +onlyGivenNames x
          try clear_value x
          refine Frame.upd_packing (by decide) ?_
          first | with_reducible exact Frame.refl | assumption
    · first | with_reducible exact Frame.refl | assumption

theorem State.masterTile_frame (s : State) (p) (a) (row) (col) :
    s.Frame (fields [.memUsed, .links, .runs, .tally, .flashTally])
      (State.masterTile s p a row col).1 := by
  unfold State.masterTile
  split
  · refine Frame.mk1 ?_
    first
      | with_reducible exact Frame.refl
      | assumption
      | (refine Frame.step (Frame.fst ‹_› (State.useTile_frame ..)) (by decide) ?_
         first | with_reducible exact Frame.refl | assumption)
  · refine Frame.mk1 ?_
    first
      | with_reducible exact Frame.refl
      | assumption
      | (refine Frame.step (Frame.fst ‹_› (State.useTile_frame ..)) (by decide) ?_
         first | with_reducible exact Frame.refl | assumption)

theorem State.masterTiles_frame (s : State) (p) (r) :
    s.Frame (fields [.memUsed, .links, .tally, .flashTally])
      (State.masterTiles s p r).1 := by
  unfold State.masterTiles
  refine Frame.step (State.readList_frame ..) (by decide) ?_
  first | with_reducible exact Frame.refl | assumption

theorem State.masterWords_frame (s : State) (p) (r) :
    s.Frame (fields [.memUsed, .links, .runs, .tally, .flashTally])
      (State.masterWords s p r).1 := by
  unfold State.masterWords
  split
  · refine Frame.mk1 ?_
    first
      | with_reducible exact Frame.refl
      | assumption
      | (refine Frame.step (Frame.fst ‹_› (State.masterTiles_frame ..)) (by decide) ?_
         first | with_reducible exact Frame.refl | assumption)
  · refine Frame.foldlPair (fun _ _ _ => ?_) ?_
    · split
      · refine Frame.mk1 ?_
        first
          | with_reducible exact Frame.refl
          | assumption
          | (refine Frame.step (Frame.fst ‹_› (State.masterTiles_frame ..)) (by decide) ?_
             first | with_reducible exact Frame.refl | assumption)
      · split
        · refine Frame.mk1 ?_
          first
            | with_reducible exact Frame.refl
            | assumption
            | (refine Frame.step (Frame.fst ‹_› (State.masterTile_frame ..)) (by decide) ?_
               first
                 | with_reducible exact Frame.refl
                 | assumption
                 | (refine Frame.step (Frame.fst ‹_› (State.masterTiles_frame ..)) (by decide) ?_
                    first | with_reducible exact Frame.refl | assumption))
            | (refine Frame.step (Frame.fst ‹_› (State.masterTiles_frame ..)) (by decide) ?_
               first
                 | with_reducible exact Frame.refl
                 | assumption
                 | (refine Frame.step (Frame.fst ‹_› (State.masterTile_frame ..)) (by decide) ?_
                    first | with_reducible exact Frame.refl | assumption))
        · refine Frame.mk1 ?_
          first
            | with_reducible exact Frame.refl
            | assumption
            | (refine Frame.step (Frame.fst ‹_› (State.masterTile_frame ..)) (by decide) ?_
               first
                 | with_reducible exact Frame.refl
                 | assumption
                 | (refine Frame.step (Frame.fst ‹_› (State.masterTiles_frame ..)) (by decide) ?_
                    first | with_reducible exact Frame.refl | assumption))
            | (refine Frame.step (Frame.fst ‹_› (State.masterTiles_frame ..)) (by decide) ?_
               first
                 | with_reducible exact Frame.refl
                 | assumption
                 | (refine Frame.step (Frame.fst ‹_› (State.masterTile_frame ..)) (by decide) ?_
                    first | with_reducible exact Frame.refl | assumption))
    · refine Frame.mk1 ?_
      first
        | with_reducible exact Frame.refl
        | assumption
        | (refine Frame.step (Frame.fst ‹_› (State.masterTiles_frame ..)) (by decide) ?_
           first | with_reducible exact Frame.refl | assumption)

theorem State.packTensor_frame (s : State) (p) (r) (scale) :
    s.Frame (fields [.memUsed, .links, .runs, .tally, .flashTally])
      (State.packTensor s p r scale).1 := by
  unfold State.packTensor
  split
  · refine Frame.mk1 ?_
    first
      | with_reducible exact Frame.refl
      | assumption
      | (refine Frame.step (Frame.fst ‹_› (State.masterWords_frame ..)) (by decide) ?_
         first | with_reducible exact Frame.refl | assumption)
  · refine Frame.mk1 ?_
    first
      | with_reducible exact Frame.refl
      | assumption
      | (refine Frame.step (Frame.fst ‹_› (State.masterWords_frame ..)) (by decide) ?_
         first | with_reducible exact Frame.refl | assumption)

theorem State.queuePack_frame (s : State) (id) (p) :
    s.Frame (fields [.cores, .runs, .nextRun, .packing])
      (State.queuePack s id p) := by
  unfold State.queuePack
  extract_lets -merge -underBinder +onlyGivenNames x
  try clear_value x
  extract_lets -merge -underBinder +onlyGivenNames x
  refine Frame.cut (x := x) (fun hx => ?_) ?_
  · try clear_value x
    extract_lets -merge -underBinder +onlyGivenNames x
    refine Frame.cut (x := x) (fun hx => ?_) ?_
    · try clear_value x
      refine Frame.foldl (fun _ _ _ => ?_) ?_
      · refine Frame.step (State.onCore_frame ..) (by decide) ?_
        first | with_reducible exact Frame.refl | assumption
      · first | with_reducible exact Frame.refl | assumption
    · subst x
      refine Frame.upd_nextRun_packing (by decide) ?_
      first | with_reducible exact Frame.refl | assumption
  · subst x
    refine Frame.step (State.setRun_frame ..) (by decide) ?_
    first | with_reducible exact Frame.refl | assumption

theorem State.packKeys_frame (s : State) (p) (b) (scales) :
    s.Frame (fields [.memUsed, .links, .runs, .tally, .flashTally])
      (State.packKeys s p b scales).1 := by
  unfold State.packKeys
  refine Frame.foldlPair (fun _ _ _ => ?_) ?_
  · split
    · refine Frame.mk1 ?_
      first | with_reducible exact Frame.refl | assumption
    · split
      · refine Frame.mk1 ?_
        first
          | with_reducible exact Frame.refl
          | assumption
          | (refine Frame.step (Frame.fst ‹_› (State.packTensor_frame ..)) (by decide) ?_
             first | with_reducible exact Frame.refl | assumption)
      · refine Frame.mk1 ?_
        first
          | with_reducible exact Frame.refl
          | assumption
          | (refine Frame.step (Frame.fst ‹_› (State.packTensor_frame ..)) (by decide) ?_
             first | with_reducible exact Frame.refl | assumption)
  · refine Frame.mk1 ?_
    first | with_reducible exact Frame.refl | assumption

theorem State.endPacking_frame (s : State) (id) (rid) (st) (detail) :
    s.Frame (fields [.freeCount, .parts, .cmds, .ended, .cores, .counters, .routes, .runs, .streams, .channels,
      .leases, .tally, .packing, .flashTally])
      (State.endPacking s id rid st detail) := by
  unfold State.endPacking
  refine Frame.step (State.failRun_frame ..) (by decide) ?_
  refine Frame.upd_packing (by decide) ?_
  first | with_reducible exact Frame.refl | assumption

theorem State.biasTiles_frame (s : State) (p rows n a got : Nat) :
    s.Frame (fields [.memUsed, .links, .runs, .tally, .flashTally]) (s.biasTiles p rows n a got).1 := by
  induction n generalizing s a got with
  | zero => exact Frame.refl
  | succ n ih =>
    unfold State.biasTiles
    refine Frame.ite1 Frame.refl ?_
    split
    · rename_i e
      exact (Frame.fst e (State.useTile_frame ..)).mono (by decide)
    · rename_i e
      have h := (Frame.fst e (State.useTile_frame ..)).mono (w := fields [.memUsed, .links, .runs, .tally, .flashTally]) (by decide)
      refine Frame.ite1 h ?_
      split
      · rename_i e; exact h.trans (Frame.fst e (ih ..))
      · rename_i e; exact h.trans (Frame.fst e (ih ..))

theorem State.packBias_frame (s : State) (p) (r) (order) :
    s.Frame (fields [.mem, .memUsed, .links, .runs, .tally, .flashTally])
      (State.packBias s p r order).1 := by
  unfold State.packBias
  split
  · refine Frame.mk1 ?_
    first
      | with_reducible exact Frame.refl
      | assumption
      | (refine Frame.step (Frame.fst ‹_› (State.biasTiles_frame ..)) (by decide) ?_
         first | with_reducible exact Frame.refl | assumption)
  · extract_lets -merge -underBinder +onlyGivenNames x
    try clear_value x
    extract_lets -merge -underBinder +onlyGivenNames x
    try clear_value x
    refine Frame.foldlPair (fun _ _ _ => ?_) ?_
    · split
      · refine Frame.mk1 ?_
        first
          | with_reducible exact Frame.refl
          | assumption
          | (refine Frame.step (Frame.fst ‹_› (State.biasTiles_frame ..)) (by decide) ?_
             first | with_reducible exact Frame.refl | assumption)
      · split
        · refine Frame.mk1 ?_
          refine Frame.step (State.refusal_frame ..) (by decide) ?_
          first
            | with_reducible exact Frame.refl
            | assumption
            | (refine Frame.step (State.writeTile_frame ‹_›) (by decide) ?_
               first
                 | with_reducible exact Frame.refl
                 | assumption
                 | (refine Frame.step (Frame.fst ‹_› (State.biasTiles_frame ..)) (by decide) ?_
                    first | with_reducible exact Frame.refl | assumption))
            | (refine Frame.step (Frame.fst ‹_› (State.biasTiles_frame ..)) (by decide) ?_
               first
                 | with_reducible exact Frame.refl
                 | assumption
                 | (refine Frame.step (State.writeTile_frame ‹_›) (by decide) ?_
                    first | with_reducible exact Frame.refl | assumption))
        · refine Frame.mk1 ?_
          first
            | with_reducible exact Frame.refl
            | assumption
            | (refine Frame.step (State.writeTile_frame ‹_›) (by decide) ?_
               first
                 | with_reducible exact Frame.refl
                 | assumption
                 | (refine Frame.step (Frame.fst ‹_› (State.biasTiles_frame ..)) (by decide) ?_
                    first | with_reducible exact Frame.refl | assumption))
            | (refine Frame.step (Frame.fst ‹_› (State.biasTiles_frame ..)) (by decide) ?_
               first
                 | with_reducible exact Frame.refl
                 | assumption
                 | (refine Frame.step (State.writeTile_frame ‹_›) (by decide) ?_
                    first | with_reducible exact Frame.refl | assumption))
    · refine Frame.mk1 ?_
      first
        | with_reducible exact Frame.refl
        | assumption
        | (refine Frame.step (Frame.fst ‹_› (State.biasTiles_frame ..)) (by decide) ?_
           first | with_reducible exact Frame.refl | assumption)

theorem State.writeTiles_frame (s : State) (p) (at_) (ts) :
    s.Frame (fields [.mem, .memUsed, .tally, .flashTally])
      (State.writeTiles s p at_ ts).1 := by
  unfold State.writeTiles
  refine Frame.foldlPair (fun _ _ _ => ?_) ?_
  · extract_lets -merge -underBinder +onlyGivenNames x
    try clear_value x
    split
    · refine Frame.mk1 ?_
      refine Frame.step (State.refusal_frame ..) (by decide) ?_
      first
        | with_reducible exact Frame.refl
        | assumption
        | (refine Frame.step (State.writeTile_frame ‹_›) (by decide) ?_
           first | with_reducible exact Frame.refl | assumption)
    · refine Frame.mk1 ?_
      first
        | with_reducible exact Frame.refl
        | assumption
        | (refine Frame.step (State.writeTile_frame ‹_›) (by decide) ?_
           first | with_reducible exact Frame.refl | assumption)
  · refine Frame.mk1 ?_
    first | with_reducible exact Frame.refl | assumption

theorem State.packPosition_frame (s : State) (p) (r) (rb) (cb) (rows) (o) :
    s.Frame (fields [.mem, .memUsed, .tally, .flashTally])
      (State.packPosition s p r rb cb rows o).1 := by
  unfold State.packPosition
  split
  · split
    · refine Frame.mk1 ?_
      first
        | with_reducible exact Frame.refl
        | assumption
        | (refine Frame.step (Frame.fst ‹_› (State.writeTiles_frame ..)) (by decide) ?_
           first | with_reducible exact Frame.refl | assumption)

theorem State.packTiles_frame (s : State) (p r rows) : s.Frame (fields [.mem, .memUsed, .tally, .flashTally]) (s.packTiles p r rows).1 := by
  unfold State.packTiles
  extract_lets -merge places
  split
  rename_i e
  have h := Frame.fst e (Frame.foldlPair (w := fields [.mem, .memUsed, .tally, .flashTally])
    (fun _ _ hq => Frame.step (State.packPosition_frame ..) (by decide) hq) Frame.refl)
  split
  · exact Frame.step (State.refusal_frame ..) (by decide) h
  · rename_i k
    have hw : ∀ t a b, s.Frame (fields [.mem, .memUsed, .tally, .flashTally]) t → s.Frame (fields [.mem, .memUsed, .tally, .flashTally]) ((t.countFor p 38 3 a).countFor p 38 4 b) := fun _ _ _ ht =>
      Frame.step (State.countFor_frame ..) (by decide) (Frame.step (State.countFor_frame ..) (by decide) ht)
    split at k
    · exact hw _ _ _ (Frame.step (State.write_frame k) (by decide) h)
    · cases k

theorem State.packOne_frame (s : State) (p b orders i r scale) : s.Frame (fields [.mem, .memUsed, .links, .runs, .tally, .flashTally]) (s.packOne p b orders i r scale).1 := by
  unfold State.packOne
  extract_lets -merge ro co
  split
  · rename_i e; exact (Frame.fst e (State.packTensor_frame ..)).mono (by decide)
  · rename_i e
    have h := (Frame.fst e (State.packTensor_frame ..)).mono (w := fields [.mem, .memUsed, .links, .runs, .tally, .flashTally]) (by decide)
    split
    · rename_i k
      split at k
      · exact Frame.step (Frame.fst k (State.packBias_frame ..)) (by decide) h
      · cases k
    · rename_i k
      refine Frame.step (State.packTiles_frame ..) (by decide) ?_
      split at k
      · exact Frame.step (Frame.fst k (State.packBias_frame ..)) (by decide) h
      · cases k; exact h

theorem State.packRecords_frame (s : State) (p) (b) (orders) (scales) :
    s.Frame (fields [.mem, .memUsed, .links, .runs, .tally, .flashTally])
      (State.packRecords s p b orders scales).1 := by
  unfold State.packRecords
  refine Frame.foldlPair (fun _ _ _ => ?_) ?_
  · split
    · refine Frame.mk1 ?_
      first | with_reducible exact Frame.refl | assumption
    · split
      · refine Frame.mk1 ?_
        first
          | with_reducible exact Frame.refl
          | assumption
          | (refine Frame.step (Frame.fst ‹_› (State.packOne_frame ..)) (by decide) ?_
             first | with_reducible exact Frame.refl | assumption)
      · refine Frame.mk1 ?_
        first
          | with_reducible exact Frame.refl
          | assumption
          | (refine Frame.step (Frame.fst ‹_› (State.packOne_frame ..)) (by decide) ?_
             first | with_reducible exact Frame.refl | assumption)
  · refine Frame.mk1 ?_
    first | with_reducible exact Frame.refl | assumption

theorem State.packState_frame (s : State) (p b orders records) : s.Frame (fields [.mem, .memUsed, .tally, .flashTally]) (s.packState p b orders records).1 :=
  (State.writeTiles_frame ..).mono (by decide)

theorem State.packAll_frame (s : State) (id) (rid) (p) (b) (orders) (scales) :
    s.Frame (fields [.freeCount, .parts, .cmds, .ended, .mem, .memUsed, .links, .cores, .counters, .routes,
      .runs, .streams, .channels, .leases, .tally, .packing, .flashTally])
      (State.packAll s id rid p b orders scales) := by
  unfold State.packAll
  split
  · refine Frame.step (State.endPacking_frame ..) (by decide) ?_
    first
      | with_reducible exact Frame.refl
      | assumption
      | (refine Frame.step (Frame.fst ‹_› (State.packRecords_frame ..)) (by decide) ?_
         first | with_reducible exact Frame.refl | assumption)
  · split
    · refine Frame.step (State.endPacking_frame ..) (by decide) ?_
      first
        | with_reducible exact Frame.refl
        | assumption
        | (refine Frame.step (Frame.fst ‹_› (State.packState_frame ..)) (by decide) ?_
           first
             | with_reducible exact Frame.refl
             | assumption
             | (refine Frame.step (Frame.fst ‹_› (State.packRecords_frame ..)) (by decide) ?_
                first | with_reducible exact Frame.refl | assumption))
        | (refine Frame.step (Frame.fst ‹_› (State.packRecords_frame ..)) (by decide) ?_
           first
             | with_reducible exact Frame.refl
             | assumption
             | (refine Frame.step (Frame.fst ‹_› (State.packState_frame ..)) (by decide) ?_
                first | with_reducible exact Frame.refl | assumption))
    · refine Frame.step (State.settle_frame ..) (by decide) ?_
      refine Frame.step (State.complete_frame ..) (by decide) ?_
      extract_lets -merge -underBinder +onlyGivenNames x
      refine Frame.cut (x := x) (fun hx => ?_) ?_
      · try clear_value x
        refine Frame.upd_packing (by decide) ?_
        first
          | with_reducible exact Frame.refl
          | assumption
          | (refine Frame.step (Frame.fst ‹_› (State.packState_frame ..)) (by decide) ?_
             first
               | with_reducible exact Frame.refl
               | assumption
               | (refine Frame.step (Frame.fst ‹_› (State.packRecords_frame ..)) (by decide) ?_
                  first | with_reducible exact Frame.refl | assumption))
          | (refine Frame.step (Frame.fst ‹_› (State.packRecords_frame ..)) (by decide) ?_
             first
               | with_reducible exact Frame.refl
               | assumption
               | (refine Frame.step (Frame.fst ‹_› (State.packState_frame ..)) (by decide) ?_
                  first | with_reducible exact Frame.refl | assumption))
      · subst x
        refine Frame.step (State.removeRun_frame ..) (by decide) ?_
        first
          | with_reducible exact Frame.refl
          | assumption
          | (refine Frame.step (Frame.fst ‹_› (State.packState_frame ..)) (by decide) ?_
             first
               | with_reducible exact Frame.refl
               | assumption
               | (refine Frame.step (Frame.fst ‹_› (State.packRecords_frame ..)) (by decide) ?_
                  first | with_reducible exact Frame.refl | assumption))
          | (refine Frame.step (Frame.fst ‹_› (State.packRecords_frame ..)) (by decide) ?_
             first
               | with_reducible exact Frame.refl
               | assumption
               | (refine Frame.step (Frame.fst ‹_› (State.packState_frame ..)) (by decide) ?_
                  first | with_reducible exact Frame.refl | assumption))

theorem State.packScales_frame (s : State) (p) (b) :
    s.Frame (fields [.memUsed, .links, .runs, .tally, .flashTally])
      (State.packScales s p b).1 := by
  unfold State.packScales
  split
  · refine Frame.mk1 ?_
    first
      | with_reducible exact Frame.refl
      | assumption
      | (refine Frame.step (Frame.fst ‹_› (State.useTile_frame ..)) (by decide) ?_
         first | with_reducible exact Frame.refl | assumption)
  · refine Frame.mk1 ?_
    first
      | with_reducible exact Frame.refl
      | assumption
      | (refine Frame.step (Frame.fst ‹_› (State.useTile_frame ..)) (by decide) ?_
         first | with_reducible exact Frame.refl | assumption)

theorem State.packPass_frame (s : State) (id) (c) (k) (rid) :
    s.Frame (fields [.freeCount, .parts, .cmds, .ended, .mem, .memUsed, .links, .cores, .counters, .routes,
      .runs, .streams, .channels, .leases, .tally, .packing, .flashTally])
      (State.packPass s id c k rid) := by
  unfold State.packPass
  extract_lets -merge -underBinder +onlyGivenNames x
  try clear_value x
  extract_lets -merge -underBinder +onlyGivenNames x
  try clear_value x
  extract_lets -merge -underBinder +onlyGivenNames x
  try clear_value x
  extract_lets -merge -underBinder +onlyGivenNames x
  try clear_value x
  refine Frame.ite ?_ ?_
  · first | with_reducible exact Frame.refl | assumption
  · split
    · refine Frame.step (State.endPacking_frame ..) (by decide) ?_
      first
        | with_reducible exact Frame.refl
        | assumption
        | (refine Frame.step (Frame.fst ‹_› (State.packScales_frame ..)) (by decide) ?_
           first | with_reducible exact Frame.refl | assumption)
    · refine Frame.ite ?_ ?_
      · refine Frame.step (State.packAll_frame ..) (by decide) ?_
        first
          | with_reducible exact Frame.refl
          | assumption
          | (refine Frame.step (Frame.fst ‹_› (State.packScales_frame ..)) (by decide) ?_
             first | with_reducible exact Frame.refl | assumption)
      · split
        · refine Frame.step (State.endPacking_frame ..) (by decide) ?_
          first
            | with_reducible exact Frame.refl
            | assumption
            | (refine Frame.step (Frame.fst ‹_› (State.packKeys_frame ..)) (by decide) ?_
               first
                 | with_reducible exact Frame.refl
                 | assumption
                 | (refine Frame.step (Frame.fst ‹_› (State.packScales_frame ..)) (by decide) ?_
                    first | with_reducible exact Frame.refl | assumption))
            | (refine Frame.step (Frame.fst ‹_› (State.packScales_frame ..)) (by decide) ?_
               first
                 | with_reducible exact Frame.refl
                 | assumption
                 | (refine Frame.step (Frame.fst ‹_› (State.packKeys_frame ..)) (by decide) ?_
                    first | with_reducible exact Frame.refl | assumption))
        · refine Frame.upd_packing (by decide) ?_
          first
            | with_reducible exact Frame.refl
            | assumption
            | (refine Frame.step (Frame.fst ‹_› (State.packKeys_frame ..)) (by decide) ?_
               first
                 | with_reducible exact Frame.refl
                 | assumption
                 | (refine Frame.step (Frame.fst ‹_› (State.packScales_frame ..)) (by decide) ?_
                    first | with_reducible exact Frame.refl | assumption))
            | (refine Frame.step (Frame.fst ‹_› (State.packScales_frame ..)) (by decide) ?_
               first
                 | with_reducible exact Frame.refl
                 | assumption
                 | (refine Frame.step (Frame.fst ‹_› (State.packKeys_frame ..)) (by decide) ?_
                    first | with_reducible exact Frame.refl | assumption))

theorem State.allMasters_frame (s : State) (p) (rs) :
    s.Frame (fields [.memUsed, .links, .tally, .flashTally])
      (State.allMasters s p rs).1 := by
  unfold State.allMasters
  refine Frame.foldlPair (fun _ _ _ => ?_) ?_
  · split
    · refine Frame.mk1 ?_
      first | with_reducible exact Frame.refl | assumption
    · split
      · refine Frame.mk1 ?_
        first
          | with_reducible exact Frame.refl
          | assumption
          | (refine Frame.step (Frame.fst ‹_› (State.masterTiles_frame ..)) (by decide) ?_
             first | with_reducible exact Frame.refl | assumption)
      · refine Frame.mk1 ?_
        first
          | with_reducible exact Frame.refl
          | assumption
          | (refine Frame.step (Frame.fst ‹_› (State.masterTiles_frame ..)) (by decide) ?_
             first | with_reducible exact Frame.refl | assumption)
  · refine Frame.mk1 ?_
    first | with_reducible exact Frame.refl | assumption

theorem State.startPack_frame (s : State) (id) (c) :
    s.Frame (fields [.cmds, .ended, .memUsed, .links, .cores, .runs, .nextRun, .tally, .packing, .flashTally])
      (State.startPack s id c) := by
  unfold State.startPack
  extract_lets -merge -underBinder +onlyGivenNames x
  try clear_value x
  refine Frame.ite ?_ ?_
  · refine Frame.step (State.fail_frame ..) (by decide) ?_
    first | with_reducible exact Frame.refl | assumption
  · refine Frame.ite ?_ ?_
    · refine Frame.step (State.fail_frame ..) (by decide) ?_
      refine Frame.step (State.refusal_frame ..) (by decide) ?_
      first | with_reducible exact Frame.refl | assumption
    · split
      · refine Frame.step (State.fail_frame ..) (by decide) ?_
        first
          | with_reducible exact Frame.refl
          | assumption
          | (refine Frame.step (Frame.fst ‹_› (State.allMasters_frame ..)) (by decide) ?_
             first | with_reducible exact Frame.refl | assumption)
      · refine Frame.ite ?_ ?_
        · refine Frame.step (State.queuePack_frame ..) (by decide) ?_
          first
            | with_reducible exact Frame.refl
            | assumption
            | (refine Frame.step (Frame.fst ‹_› (State.allMasters_frame ..)) (by decide) ?_
               first | with_reducible exact Frame.refl | assumption)
        · refine Frame.step (State.fail_frame ..) (by decide) ?_
          first
            | with_reducible exact Frame.refl
            | assumption
            | (refine Frame.step (Frame.fst ‹_› (State.allMasters_frame ..)) (by decide) ?_
               first | with_reducible exact Frame.refl | assumption)

theorem execPackTiles_frame (id) (s : State) :
    s.FrameOut (fields [.outbox, .freeCount, .fns, .parts, .cmds, .ended, .mem, .memUsed, .links, .cores,
      .counters, .routes, .runs, .nextRun, .streams, .channels, .leases, .tally, .packing,
      .flashTally])
      (execPackTiles id s) := by
  unfold execPackTiles
  split
  · refine FrameOut.next ?_
    refine Frame.onlyIf ?_ ?_
    · first | with_reducible exact Frame.refl | assumption
    · refine Frame.step (State.packPass_frame ..) (by decide) ?_
      first | with_reducible exact Frame.refl | assumption
  · refine FrameOut.opcodeRow (by decide) (fun _ _ _ => ?_)
    refine Frame.step (State.startPack_frame ..) (by decide) ?_
    first | with_reducible exact Frame.refl | assumption

end Sys2Proof.Machine
end

