-- ==== Sys2Proof/Laws/FramesNet.lean ====
section
/-! SUPPORT. Frames of streams, parcels, Ethernet, PLink, leases, members and reduction: for each operation, the
components it may change, and that it keeps a well-kept state well kept. -/

namespace Sys2Proof.Machine
open State

theorem State.useKey_frame (s : State) (p) (key) : s.Frame (fields [.parts]) (State.useKey s p key) := by
  unfold State.useKey
  refine Frame.step (State.onPart_frame ..) (by decide) ?_
  first | with_reducible exact Frame.refl | assumption

theorem State.openContext_frame (s : State) (id) (p) (route) (key) (r) (core) (d) :
    s.Frame (fields [.outbox, .parts, .cmds, .ended, .cores, .routes, .streams, .leases, .tally, .flashTally])
      (State.openContext s id p route key r core d) := by
  unfold State.openContext
  extract_lets -merge -underBinder +onlyGivenNames x
  try clear_value x
  extract_lets -merge -underBinder +onlyGivenNames x
  refine Frame.cut (x := x) (fun hx => ?_) ?_
  · try clear_value x
    extract_lets -merge -underBinder +onlyGivenNames x
    refine Frame.cut (x := x) (fun hx => ?_) ?_
    · try clear_value x
      refine Frame.step (State.complete_frame ..) (by decide) ?_
      refine Frame.step (State.askHop_frame ..) (by decide) ?_
      refine Frame.step (State.grantBox_frame ..) (by decide) ?_
      refine Frame.step (State.onBox_frame ..) (by decide) ?_
      first | with_reducible exact Frame.refl | assumption
    · subst x
      refine Frame.step (State.useKey_frame ..) (by decide) ?_
      refine Frame.step (State.onRoute_frame ..) (by decide) ?_
      first | with_reducible exact Frame.refl | assumption
  · subst x
    refine Frame.step (State.setStream_frame ..) (by decide) ?_
    first | with_reducible exact Frame.refl | assumption

theorem State.openStream_frame (s : State) (id) (c) :
    s.Frame (fields [.outbox, .parts, .cmds, .ended, .memUsed, .links, .cores, .routes, .streams, .leases,
      .tally, .flashTally])
      (State.openStream s id c) := by
  unfold State.openStream
  extract_lets -merge -underBinder +onlyGivenNames x
  try clear_value x
  extract_lets -merge -underBinder +onlyGivenNames x
  try clear_value x
  extract_lets -merge -underBinder +onlyGivenNames x
  try clear_value x
  refine Frame.ite ?_ ?_
  · refine Frame.step (State.fail_frame ..) (by decide) ?_
    first | with_reducible exact Frame.refl | assumption
  · refine Frame.ite ?_ ?_
    · refine Frame.step (State.fail_frame ..) (by decide) ?_
      first | with_reducible exact Frame.refl | assumption
    · split
      · refine Frame.step (State.fail_frame ..) (by decide) ?_
        first
          | with_reducible exact Frame.refl
          | assumption
          | (refine Frame.step (Frame.fst ‹_› (State.readParams_frame ..)) (by decide) ?_
             first | with_reducible exact Frame.refl | assumption)
      · split
        · refine Frame.step (State.fail_frame ..) (by decide) ?_
          first
            | with_reducible exact Frame.refl
            | assumption
            | (refine Frame.step (Frame.fst ‹_› (State.readParams_frame ..)) (by decide) ?_
               first | with_reducible exact Frame.refl | assumption)
        · extract_lets -merge -underBinder +onlyGivenNames x
          try clear_value x
          extract_lets -merge -underBinder +onlyGivenNames x
          try clear_value x
          refine Frame.ite ?_ ?_
          · refine Frame.step (State.fail_frame ..) (by decide) ?_
            first
              | with_reducible exact Frame.refl
              | assumption
              | (refine Frame.step (Frame.fst ‹_› (State.readParams_frame ..)) (by decide) ?_
                 first | with_reducible exact Frame.refl | assumption)
          · split
            · refine Frame.ite ?_ ?_
              · refine Frame.step (State.openContext_frame ..) (by decide) ?_
                first
                  | with_reducible exact Frame.refl
                  | assumption
                  | (refine Frame.step (Frame.snd ‹_› (State.testAdmission_frame ..)) (by decide) ?_
                     first
                       | with_reducible exact Frame.refl
                       | assumption
                       | (refine Frame.step (Frame.fst ‹_› (State.readParams_frame ..)) (by decide) ?_
                          first | with_reducible exact Frame.refl | assumption))
                  | (refine Frame.step (Frame.fst ‹_› (State.readParams_frame ..)) (by decide) ?_
                     first
                       | with_reducible exact Frame.refl
                       | assumption
                       | (refine Frame.step (Frame.snd ‹_› (State.testAdmission_frame ..)) (by decide) ?_
                          first | with_reducible exact Frame.refl | assumption))
              · refine Frame.step (State.fail_frame ..) (by decide) ?_
                first
                  | with_reducible exact Frame.refl
                  | assumption
                  | (refine Frame.step (Frame.snd ‹_› (State.testAdmission_frame ..)) (by decide) ?_
                     first
                       | with_reducible exact Frame.refl
                       | assumption
                       | (refine Frame.step (Frame.fst ‹_› (State.readParams_frame ..)) (by decide) ?_
                          first | with_reducible exact Frame.refl | assumption))
                  | (refine Frame.step (Frame.fst ‹_› (State.readParams_frame ..)) (by decide) ?_
                     first
                       | with_reducible exact Frame.refl
                       | assumption
                       | (refine Frame.step (Frame.snd ‹_› (State.testAdmission_frame ..)) (by decide) ?_
                          first | with_reducible exact Frame.refl | assumption))

theorem execOpenStream_frame (id) (s : State) :
    s.FrameOut (fields [.outbox, .fns, .parts, .cmds, .ended, .memUsed, .links, .cores, .routes, .streams, .leases,
      .tally, .flashTally])
      (execOpenStream id s) := by
  unfold execOpenStream
  refine FrameOut.opcodeRow (by decide) (fun _ _ _ => ?_)
  refine Frame.step (State.openStream_frame ..) (by decide) ?_
  first | with_reducible exact Frame.refl | assumption

theorem execCloseStream_frame (id) (s : State) :
    s.FrameOut (fields [.outbox, .fns, .parts, .cmds, .ended, .memUsed, .links, .cores, .counters, .routes,
      .streams, .channels, .leases, .tally, .flashTally])
      (execCloseStream id s) := by
  unfold execCloseStream
  refine FrameOut.opcodeRow (by decide) (fun _ _ _ => ?_)
  extract_lets -merge -underBinder +onlyGivenNames x
  try clear_value x
  split
  · refine Frame.step (State.fail_frame ..) (by decide) ?_
    first | with_reducible exact Frame.refl | assumption
  · refine Frame.step (State.settle_frame ..) (by decide) ?_
    refine Frame.step (State.onStream_frame ..) (by decide) ?_
    first | with_reducible exact Frame.refl | assumption

theorem execQueryStream_frame (id) (s : State) :
    s.FrameOut (fields [.outbox, .fns, .cmds, .ended, .memUsed, .links, .tally, .flashTally])
      (execQueryStream id s) := by
  unfold execQueryStream
  refine FrameOut.opcodeRow (by decide) (fun _ _ _ => ?_)
  extract_lets -merge -underBinder +onlyGivenNames x
  try clear_value x
  refine Frame.ite ?_ ?_
  · refine Frame.step (State.fail_frame ..) (by decide) ?_
    first | with_reducible exact Frame.refl | assumption
  · extract_lets -merge -underBinder +onlyGivenNames x
    try clear_value x
    refine Frame.step (State.complete_frame ..) (by decide) ?_
    refine Frame.step (State.result_frame ..) (by decide) ?_
    first | with_reducible exact Frame.refl | assumption

theorem State.takeParcel_frame {s t : State} {port type ch x p} (h : s.takeParcel port type = some (ch, x, p, t)) :
    s.Frame (fields [.ports]) t := by
  unfold State.takeParcel at h
  obtain ⟨e, _, he⟩ := Option.bind_eq_some_iff.mp h
  obtain ⟨c, _, hc⟩ := Option.map_eq_some_iff.mp he
  cases hc
  exact State.onPort_frame ..

theorem State.dropChannel_frame (s : State) (ch) :
    s.Frame (fields [.parts, .cmds, .ended, .cores, .counters, .routes, .streams, .channels, .leases, .tally,
      .flashTally])
      (State.dropChannel s ch) := by
  unfold State.dropChannel
  split
  · first | with_reducible exact Frame.refl | assumption
  · refine Frame.step (State.settle_frame ..) (by decide) ?_
    refine Frame.step (State.releaseKey_frame ..) (by decide) ?_
    refine Frame.upd_channels (by decide) ?_
    first | with_reducible exact Frame.refl | assumption

theorem State.failChannel_frame (s : State) (ch) (st) (detail) :
    s.Frame (fields [.parts, .cmds, .ended, .cores, .counters, .routes, .streams, .channels, .leases, .tally,
      .flashTally])
      (State.failChannel s ch st detail) := by
  unfold State.failChannel
  split
  · first | with_reducible exact Frame.refl | assumption
  · refine Frame.step (State.dropChannel_frame ..) (by decide) ?_
    refine Frame.step (State.fail_frame ..) (by decide) ?_
    first | with_reducible exact Frame.refl | assumption

theorem State.sendParcel_frame (s : State) (ch) (x) (type) (last) (seq) (offset) (credit) (ack) (payload) :
    s.Frame (fields [.outbox])
      (State.sendParcel s ch x type last seq offset credit ack payload) := by
  unfold State.sendParcel
  extract_lets -merge -underBinder +onlyGivenNames x
  try clear_value x
  split
  · refine Frame.step (State.sendVia_frame ..) (by decide) ?_
    first | with_reducible exact Frame.refl | assumption

theorem State.sendControl_frame (s : State) (ch) (type) (offset) (credit) (ack) (payload) :
    s.Frame (fields [.outbox, .parts, .cmds, .ended, .cores, .counters, .routes, .streams, .channels, .leases,
      .tally, .flashTally])
      (State.sendControl s ch type offset credit ack payload) := by
  unfold State.sendControl
  split
  · first | with_reducible exact Frame.refl | assumption
  · refine Frame.ite ?_ ?_
    · refine Frame.step (State.failChannel_frame ..) (by decide) ?_
      first | with_reducible exact Frame.refl | assumption
    · refine Frame.step (State.sendParcel_frame ..) (by decide) ?_
      refine Frame.step (State.onChannel_frame ..) (by decide) ?_
      first | with_reducible exact Frame.refl | assumption

theorem State.nack_frame (s : State) (ch) (seq) :
    s.Frame (fields [.outbox, .parts, .cmds, .ended, .cores, .counters, .routes, .streams, .channels, .leases,
      .tally, .flashTally])
      (State.nack s ch seq) := by
  unfold State.nack
  split
  · first | with_reducible exact Frame.refl | assumption
  · refine Frame.ite ?_ ?_
    · first | with_reducible exact Frame.refl | assumption
    · refine Frame.step (State.sendControl_frame ..) (by decide) ?_
      refine Frame.step (State.onChannel_frame ..) (by decide) ?_
      first | with_reducible exact Frame.refl | assumption

theorem State.sendGrant_frame (s : State) (ch) :
    s.Frame (fields [.outbox, .parts, .cmds, .ended, .cores, .counters, .routes, .streams, .channels, .leases,
      .tally, .flashTally])
      (State.sendGrant s ch) := by
  unfold State.sendGrant
  split
  · first | with_reducible exact Frame.refl | assumption
  · extract_lets -merge -underBinder +onlyGivenNames x
    refine Frame.cut (x := x) (fun hx => ?_) ?_
    · try clear_value x
      extract_lets -merge -underBinder +onlyGivenNames x
      try clear_value x
      extract_lets -merge -underBinder +onlyGivenNames x
      refine Frame.cut (x := x) (fun hx => ?_) ?_
      · try clear_value x
        refine Frame.step (State.sendControl_frame ..) (by decide) ?_
        first | with_reducible exact Frame.refl | assumption
      · subst x
        refine Frame.step (State.onChannel_frame ..) (by decide) ?_
        first | with_reducible exact Frame.refl | assumption
    · subst x
      refine Frame.step (State.perturbed_frame ..) (by decide) ?_
      first | with_reducible exact Frame.refl | assumption

theorem State.owesGrant_frame (s : State) (ch) :
    s.Frame (fields [.outbox, .parts, .cmds, .ended, .cores, .counters, .routes, .streams, .channels, .leases,
      .tally, .flashTally])
      (State.owesGrant s ch) := by
  unfold State.owesGrant
  split
  · first | with_reducible exact Frame.refl | assumption
  · refine Frame.ite ?_ ?_
    · refine Frame.step (State.sendGrant_frame ..) (by decide) ?_
      first | with_reducible exact Frame.refl | assumption
    · refine Frame.step (State.onChannel_frame ..) (by decide) ?_
      first | with_reducible exact Frame.refl | assumption

theorem State.badTile_frame (s : State) (ch) (x) (at_) (n) :
    s.Frame (fields [.outbox, .parts, .cmds, .ended, .cores, .counters, .routes, .streams, .channels, .leases,
      .tally, .flashTally])
      (State.badTile s ch x at_ n) := by
  unfold State.badTile
  refine Frame.ite ?_ ?_
  · refine Frame.step (State.failChannel_frame ..) (by decide) ?_
    refine Frame.step (State.countFor_frame ..) (by decide) ?_
    first | with_reducible exact Frame.refl | assumption
  · extract_lets -merge -underBinder +onlyGivenNames x
    refine Frame.cut (x := x) (fun hx => ?_) ?_
    · try clear_value x
      refine Frame.step (State.sendControl_frame ..) (by decide) ?_
      first | with_reducible exact Frame.refl | assumption
    · subst x
      refine Frame.step (State.onChannel_frame ..) (by decide) ?_
      first | with_reducible exact Frame.refl | assumption

theorem State.landLines_frame {s t : State} {ch x at_ n} (h : s.landLines ch x at_ n = some t) : s.Frame (fields [.mem, .memUsed, .channels]) t := by
  unfold State.landLines at h
  split at h
  · cases h; exact Frame.refl
  · refine Frame.foldlM (fun i u v hx e => ?_) Frame.refl t h
    extract_lets -merge l at e
    split at e
    · obtain ⟨y, hy, e⟩ := Option.map_eq_some_iff.mp e
      cases e
      exact Frame.step (State.onChannel_frame ..) (by decide) (Frame.step (State.write_frame hy) (by decide) hx)
    · cases e; exact hx

theorem State.lostArea_frame (s : State) (ch) :
    s.Frame (fields [.parts, .cmds, .ended, .cores, .counters, .routes, .streams, .channels, .leases, .tally,
      .flashTally])
      (State.lostArea s ch) := by
  unfold State.lostArea
  refine Frame.step (State.failChannel_frame ..) (by decide) ?_
  refine Frame.step (State.refusal_frame ..) (by decide) ?_
  first | with_reducible exact Frame.refl | assumption

theorem State.passTile_frame (s : State) (ch) (x) (at_) (n) (tile) :
    s.Frame (fields [.parts, .cmds, .ended, .mem, .memUsed, .cores, .counters, .routes, .runs, .streams,
      .channels, .leases, .tally, .flashTally])
      (State.passTile s ch x at_ n tile) := by
  unfold State.passTile
  split
  · split
    · refine Frame.step (State.lostArea_frame ..) (by decide) ?_
      first
        | with_reducible exact Frame.refl
        | assumption
        | (refine Frame.step (State.write_frame ‹_›) (by decide) ?_
           first | with_reducible exact Frame.refl | assumption)
    · refine Frame.step (State.onChannel_frame ..) (by decide) ?_
      first
        | with_reducible exact Frame.refl
        | assumption
        | (refine Frame.step (State.write_frame ‹_›) (by decide) ?_
           first | with_reducible exact Frame.refl | assumption)
  · split
    · refine Frame.step (State.onChannel_frame ..) (by decide) ?_
      first
        | with_reducible exact Frame.refl
        | assumption
        | (refine Frame.step (Frame.snd ‹_› (State.offerWrite_frame ..)) (by decide) ?_
           first | with_reducible exact Frame.refl | assumption)
    · refine Frame.step (State.failChannel_frame ..) (by decide) ?_
      first
        | with_reducible exact Frame.refl
        | assumption
        | (refine Frame.step (Frame.snd ‹_› (State.offerWrite_frame ..)) (by decide) ?_
           first | with_reducible exact Frame.refl | assumption)
    · refine Frame.step (State.onChannel_frame ..) (by decide) ?_
      first
        | with_reducible exact Frame.refl
        | assumption
        | (refine Frame.step (Frame.snd ‹_› (State.offerWrite_frame ..)) (by decide) ?_
           first | with_reducible exact Frame.refl | assumption)

theorem State.takeTiles_frame (s : State) (ch n at_ : Nat) : s.Frame (fields [.outbox, .parts, .cmds, .ended, .mem, .memUsed, .cores, .counters, .routes, .runs, .streams, .channels, .leases, .tally, .flashTally]) (s.takeTiles ch n at_) := by
  induction n generalizing s at_ with
  | zero => exact Frame.refl
  | succ n ih =>
    unfold State.takeTiles
    split
    · exact Frame.refl
    · split
      · exact ih ..
      · exact Frame.refl
      · extract_lets -merge h
        split
        · exact Frame.step (State.badTile_frame ..) (by decide) Frame.refl
        · split
          · exact Frame.step (State.lostArea_frame ..) (by decide) Frame.refl
          · rename_i e
            have h1 := (State.landLines_frame e).mono (w := fields [.outbox, .parts, .cmds, .ended, .mem, .memUsed, .cores, .counters, .routes, .runs, .streams, .channels, .leases, .tally, .flashTally]) (by decide)
            split
            · exact h1.trans (ih ..)
            · extract_lets -merge good
              exact Frame.trans (Frame.ite (Frame.step (State.passTile_frame ..) (by decide) h1)
                (Frame.step (State.badTile_frame ..) (by decide) h1)) (ih ..)

theorem State.dataParcel_frame (s : State) (ch) (x) (p) :
    s.Frame (fields [.outbox, .parts, .cmds, .ended, .mem, .memUsed, .cores, .counters, .routes, .runs,
      .streams, .channels, .leases, .tally, .flashTally])
      (State.dataParcel s ch x p) := by
  unfold State.dataParcel
  refine Frame.ite ?_ ?_
  · first | with_reducible exact Frame.refl | assumption
  · refine Frame.ite ?_ ?_
    · refine Frame.step (State.onChannel_frame ..) (by decide) ?_
      first | with_reducible exact Frame.refl | assumption
    · refine Frame.ite ?_ ?_
      · refine Frame.step (State.sendGrant_frame ..) (by decide) ?_
        refine Frame.step (State.onChannel_frame ..) (by decide) ?_
        first | with_reducible exact Frame.refl | assumption
      · refine Frame.ite ?_ ?_
        · refine Frame.step (State.owesGrant_frame ..) (by decide) ?_
          refine Frame.step (State.onChannel_frame ..) (by decide) ?_
          first | with_reducible exact Frame.refl | assumption
        · extract_lets -merge -underBinder +onlyGivenNames x
          refine Frame.cut (x := x) (fun hx => ?_) ?_
          · try clear_value x
            extract_lets -merge -underBinder +onlyGivenNames x
            refine Frame.cut (x := x) (fun hx => ?_) ?_
            · try clear_value x
              refine Frame.step (State.endReceive_frame ..) (by decide) ?_
              refine Frame.step (State.owesGrant_frame ..) (by decide) ?_
              refine Frame.step (State.nack_frame ..) (by decide) ?_
              first | with_reducible exact Frame.refl | assumption
            · subst x
              refine Frame.step (State.takeTiles_frame ..) (by decide) ?_
              first | with_reducible exact Frame.refl | assumption
          · subst x
            refine Frame.step (State.onChannel_frame ..) (by decide) ?_
            first | with_reducible exact Frame.refl | assumption

theorem State.sendData_frame (s : State) (ch) (x) (seq) :
    s.Frame (fields [.outbox, .parts, .tally, .flashTally])
      (State.sendData s ch x seq) := by
  unfold State.sendData
  extract_lets -merge -underBinder +onlyGivenNames x
  try clear_value x
  extract_lets -merge -underBinder +onlyGivenNames x
  try clear_value x
  refine Frame.step (State.sendParcel_frame ..) (by decide) ?_
  refine Frame.step (State.perturbed_frame ..) (by decide) ?_
  first | with_reducible exact Frame.refl | assumption

theorem State.sendAgain_frame (s : State) (ch) (seqs) :
    s.Frame (fields [.outbox, .parts, .channels, .tally, .flashTally])
      (State.sendAgain s ch seqs) := by
  unfold State.sendAgain
  refine Frame.foldl (fun _ _ _ => ?_) ?_
  · split
    · first | with_reducible exact Frame.refl | assumption
    · refine Frame.ite ?_ ?_
      · refine Frame.step (State.sendData_frame ..) (by decide) ?_
        refine Frame.step (State.onChannel_frame ..) (by decide) ?_
        first | with_reducible exact Frame.refl | assumption
      · first | with_reducible exact Frame.refl | assumption
  · first | with_reducible exact Frame.refl | assumption

theorem State.nackParcel_frame (s : State) (ch) (x) (p) :
    s.Frame (fields [.outbox, .parts, .channels, .tally, .flashTally])
      (State.nackParcel s ch x p) := by
  unfold State.nackParcel
  refine Frame.ite ?_ ?_
  · first | with_reducible exact Frame.refl | assumption
  · refine Frame.step (State.sendAgain_frame ..) (by decide) ?_
    refine Frame.step (State.onChannel_frame ..) (by decide) ?_
    first | with_reducible exact Frame.refl | assumption

theorem State.resendParcel_frame (s : State) (ch) (x) (p) :
    s.Frame (fields [.outbox, .parts, .cmds, .ended, .memUsed, .links, .cores, .counters, .routes, .runs,
      .streams, .channels, .leases, .tally, .flashTally])
      (State.resendParcel s ch x p) := by
  unfold State.resendParcel
  extract_lets -merge -underBinder +onlyGivenNames x
  try clear_value x
  refine Frame.ite ?_ ?_
  · first | with_reducible exact Frame.refl | assumption
  · split
    · refine Frame.step (State.failChannel_frame ..) (by decide) ?_
      first
        | with_reducible exact Frame.refl
        | assumption
        | (refine Frame.step (Frame.fst ‹_› (State.useTile_frame ..)) (by decide) ?_
           refine Frame.step (State.onChannel_frame ..) (by decide) ?_
           first | with_reducible exact Frame.refl | assumption)
    · extract_lets -merge -underBinder +onlyGivenNames x
      try clear_value x
      extract_lets -merge -underBinder +onlyGivenNames x
      try clear_value x
      refine Frame.step (State.sendAgain_frame ..) (by decide) ?_
      first
        | with_reducible exact Frame.refl
        | assumption
        | (refine Frame.step (Frame.fst ‹_› (State.useTile_frame ..)) (by decide) ?_
           refine Frame.step (State.onChannel_frame ..) (by decide) ?_
           first | with_reducible exact Frame.refl | assumption)

theorem State.FrameOut.parcelRow {w : Nat} {s : State} {port type : Nat} {f : Nat → Channel → Parcel → State → State}
    (hs : fields [.parts, .cmds, .ended, .cores, .counters, .routes, .streams, .channels, .ports, .leases, .tally, .flashTally] &&& w =
      fields [.parts, .cmds, .ended, .cores, .counters, .routes, .streams, .channels, .ports, .leases, .tally, .flashTally])
    (hf : ∀ a b c t, s.Frame w t → s.Frame w (f a b c t)) : s.FrameOut w (Machine.parcelRow port type s f) := by
  have hch : ∀ t n g, s.Frame w t → s.Frame w (t.onChannel n g) := fun t n g ht =>
    Frame.step ((State.onChannel_frame t n g).mono (w := fields [.parts, .cmds, .ended, .cores, .counters, .routes, .streams, .channels, .ports, .leases, .tally, .flashTally]) (by decide)) hs ht
  refine FrameOut.checked (Frame.onlyIf Frame.refl ?_)
  split
  · exact Frame.refl
  · rename_i e
    have h1 := Frame.step ((State.takeParcel_frame e).mono (w := fields [.parts, .cmds, .ended, .cores, .counters, .routes, .streams, .channels, .ports, .leases, .tally, .flashTally]) (by decide)) hs Frame.refl
    refine Frame.ite (hch _ _ _ h1) (Frame.ite (hch _ _ _ h1) ?_)
    exact Frame.step ((State.settle_frame ..).mono (w := fields [.parts, .cmds, .ended, .cores, .counters, .routes, .streams, .channels, .ports, .leases, .tally, .flashTally]) (by decide)) hs (hf _ _ _ _ (hch _ _ _ h1))

theorem execParcelResend_frame (port) (s : State) :
    s.FrameOut (fields [.outbox, .parts, .cmds, .ended, .memUsed, .links, .cores, .counters, .routes, .runs,
      .streams, .channels, .ports, .leases, .tally, .flashTally])
      (execParcelResend port s) := by
  unfold execParcelResend
  refine FrameOut.parcelRow (by decide) (fun _ _ _ _ _ => ?_)
  refine Frame.step (State.resendParcel_frame ..) (by decide) ?_
  first | with_reducible exact Frame.refl | assumption

theorem execParcelNack_frame (port) (s : State) :
    s.FrameOut (fields [.outbox, .parts, .cmds, .ended, .cores, .counters, .routes, .streams, .channels, .ports,
      .leases, .tally, .flashTally])
      (execParcelNack port s) := by
  unfold execParcelNack
  refine FrameOut.parcelRow (by decide) (fun _ _ _ _ _ => ?_)
  refine Frame.step (State.nackParcel_frame ..) (by decide) ?_
  first | with_reducible exact Frame.refl | assumption

theorem State.FrameOut.channelRow {w : Nat} {s : State} {c : Nat} {f : Channel → State → State}
    (hf : ∀ a t, s.Frame w t → s.Frame w (f a t)) : s.FrameOut w (Machine.channelRow c s f) :=
  FrameOut.checked (Frame.onlyIf Frame.refl (Frame.withSome Frame.refl fun _ => hf _ _ Frame.refl))

theorem execChannelTimeout_frame (channel) (s : State) :
    s.FrameOut (fields [.parts, .cmds, .ended, .cores, .counters, .routes, .streams, .channels, .leases, .tally,
      .flashTally])
      (execChannelTimeout channel s) := by
  unfold execChannelTimeout
  refine FrameOut.channelRow (fun _ _ _ => ?_)
  refine Frame.ite ?_ ?_
  · refine Frame.step (State.failChannel_frame ..) (by decide) ?_
    first | with_reducible exact Frame.refl | assumption
  · first | with_reducible exact Frame.refl | assumption

theorem execParcelData_frame (port) (s : State) :
    s.FrameOut (fields [.outbox, .parts, .cmds, .ended, .mem, .memUsed, .cores, .counters, .routes, .runs,
      .streams, .channels, .ports, .leases, .tally, .flashTally])
      (execParcelData port s) := by
  unfold execParcelData
  refine FrameOut.parcelRow (by decide) (fun _ _ _ _ _ => ?_)
  refine Frame.step (State.dataParcel_frame ..) (by decide) ?_
  first | with_reducible exact Frame.refl | assumption

theorem State.openChannel_frame (s : State) (id) (c) (sending) :
    s.Frame (fields [.outbox, .parts, .cmds, .ended, .channels, .tally, .flashTally])
      (State.openChannel s id c sending) := by
  unfold State.openChannel
  extract_lets -merge -underBinder +onlyGivenNames x
  try clear_value x
  extract_lets -merge -underBinder +onlyGivenNames x
  try clear_value x
  refine Frame.ite ?_ ?_
  · refine Frame.step (State.fail_frame ..) (by decide) ?_
    first | with_reducible exact Frame.refl | assumption
  · refine Frame.step (State.askHop_frame ..) (by decide) ?_
    refine Frame.step (State.useKey_frame ..) (by decide) ?_
    refine Frame.upd_channels (by decide) ?_
    first | with_reducible exact Frame.refl | assumption

theorem execParcelAccept_frame (id) (s : State) :
    s.FrameOut (fields [.outbox, .fns, .parts, .cmds, .ended, .memUsed, .links, .channels, .tally, .flashTally])
      (execParcelAccept id s) := by
  unfold execParcelAccept
  refine FrameOut.opcodeRow (by decide) (fun _ _ _ => ?_)
  refine Frame.step (State.openChannel_frame ..) (by decide) ?_
  first | with_reducible exact Frame.refl | assumption

theorem execFinalGrantWindowEnd_frame (channel) (s : State) :
    s.FrameOut (fields [.parts, .cmds, .ended, .cores, .counters, .routes, .streams, .channels, .leases, .tally,
      .flashTally])
      (execFinalGrantWindowEnd channel s) := by
  unfold execFinalGrantWindowEnd
  refine FrameOut.channelRow (fun _ _ _ => ?_)
  refine Frame.ite ?_ ?_
  · refine Frame.step (State.dropChannel_frame ..) (by decide) ?_
    first | with_reducible exact Frame.refl | assumption
  · first | with_reducible exact Frame.refl | assumption

theorem State.readSource_frame (s : State) (x : Channel) (upTo n : Nat) :
    s.Frame (fields [.memUsed, .links, .runs, .tally, .flashTally]) (s.readSource x upTo n).1 := by
  induction n generalizing s x with
  | zero => exact Frame.refl
  | succ n ih =>
    unfold State.readSource
    refine Frame.ite1 Frame.refl ?_
    extract_lets -merge -underBinder +onlyGivenNames y
    split
    · rename_i e
      exact (Frame.fst e (State.useTile_frame ..)).mono (by decide)
    · rename_i e
      have h := (Frame.fst e (State.useTile_frame ..)).mono (w := fields [.memUsed, .links, .runs, .tally, .flashTally]) (by decide)
      exact Frame.ite1 (Frame.step (State.countFor_frame ..) (by decide) h) (h.trans (ih ..))

theorem State.pumpData_frame (s : State) (ch n : Nat) : s.Frame (fields [.outbox, .parts, .cmds, .ended, .memUsed, .links, .cores, .counters, .routes, .runs, .streams, .channels, .leases, .tally, .flashTally]) (s.pumpData ch n) := by
  induction n generalizing s with
  | zero => exact Frame.refl
  | succ n ih =>
    unfold State.pumpData
    split
    · exact Frame.refl
    · refine Frame.ite Frame.refl (Frame.ite (Frame.step (State.failChannel_frame ..) (by decide) Frame.refl) ?_)
      split
      · rename_i e
        exact Frame.step (State.failChannel_frame ..) (by decide)
          ((Frame.fst e (State.readSource_frame ..)).mono (by decide))
      · rename_i e
        exact Frame.trans (Frame.step (State.sendData_frame ..) (by decide) (Frame.upd_channels (by decide)
          ((Frame.fst e (State.readSource_frame ..)).mono (by decide)))) (ih _)

theorem State.grantParcel_frame (s : State) (ch) (x) (p) :
    s.Frame (fields [.outbox, .parts, .cmds, .ended, .memUsed, .links, .cores, .counters, .routes, .runs,
      .streams, .channels, .leases, .tally, .flashTally])
      (State.grantParcel s ch x p) := by
  unfold State.grantParcel
  refine Frame.ite ?_ ?_
  · first | with_reducible exact Frame.refl | assumption
  · extract_lets -merge -underBinder +onlyGivenNames x
    try clear_value x
    extract_lets -merge -underBinder +onlyGivenNames x
    refine Frame.cut (x := x) (fun hx => ?_) ?_
    · try clear_value x
      refine Frame.ite ?_ ?_
      · refine Frame.step (State.dropChannel_frame ..) (by decide) ?_
        refine Frame.step (State.complete_frame ..) (by decide) ?_
        first | with_reducible exact Frame.refl | assumption
      · refine Frame.step (State.pumpData_frame ..) (by decide) ?_
        first | with_reducible exact Frame.refl | assumption
    · subst x
      refine Frame.step (State.onChannel_frame ..) (by decide) ?_
      first | with_reducible exact Frame.refl | assumption

theorem execParcelGrant_frame (port) (s : State) :
    s.FrameOut (fields [.outbox, .parts, .cmds, .ended, .memUsed, .links, .cores, .counters, .routes, .runs,
      .streams, .channels, .ports, .leases, .tally, .flashTally])
      (execParcelGrant port s) := by
  unfold execParcelGrant
  refine FrameOut.parcelRow (by decide) (fun _ _ _ _ _ => ?_)
  refine Frame.step (State.grantParcel_frame ..) (by decide) ?_
  first | with_reducible exact Frame.refl | assumption

theorem execRetransmitTimeout_frame (channel) (s : State) :
    s.FrameOut (fields [.outbox, .parts, .channels, .tally, .flashTally])
      (execRetransmitTimeout channel s) := by
  unfold execRetransmitTimeout
  refine FrameOut.channelRow (fun _ _ _ => ?_)
  refine Frame.ite ?_ ?_
  · refine Frame.step (State.sendAgain_frame ..) (by decide) ?_
    refine Frame.step (State.onChannel_frame ..) (by decide) ?_
    first | with_reducible exact Frame.refl | assumption
  · first | with_reducible exact Frame.refl | assumption

theorem execParcelSend_frame (id) (s : State) :
    s.FrameOut (fields [.outbox, .fns, .parts, .cmds, .ended, .memUsed, .links, .channels, .tally, .flashTally])
      (execParcelSend id s) := by
  unfold execParcelSend
  refine FrameOut.opcodeRow (by decide) (fun _ _ _ => ?_)
  refine Frame.step (State.openChannel_frame ..) (by decide) ?_
  first | with_reducible exact Frame.refl | assumption

theorem execGrantTimer_frame (channel) (s : State) :
    s.FrameOut (fields [.outbox, .parts, .cmds, .ended, .cores, .counters, .routes, .streams, .channels, .leases,
      .tally, .flashTally])
      (execGrantTimer channel s) := by
  unfold execGrantTimer
  refine FrameOut.channelRow (fun _ _ _ => ?_)
  refine Frame.ite ?_ ?_
  · refine Frame.step (State.sendGrant_frame ..) (by decide) ?_
    first | with_reducible exact Frame.refl | assumption
  · first | with_reducible exact Frame.refl | assumption

theorem State.askHops_frame (s : State) (port) : s.Frame (fields [.outbox]) (State.askHops s port) := by
  unfold State.askHops
  extract_lets -merge -underBinder +onlyGivenNames x
  try clear_value x
  refine Frame.foldl (fun _ _ _ => ?_) ?_
  · refine Frame.step (State.askHop_frame ..) (by decide) ?_
    first | with_reducible exact Frame.refl | assumption
  · first | with_reducible exact Frame.refl | assumption

theorem execEthernetLinkUp_frame (port) (s : State) :
    s.FrameOut (fields [.outbox, .ports, .tally, .flashTally])
      (execEthernetLinkUp port s) := by
  unfold execEthernetLinkUp
  refine FrameOut.checked ?_
  refine Frame.onlyIf ?_ ?_
  · first | with_reducible exact Frame.refl | assumption
  · refine Frame.ite ?_ ?_
    · refine Frame.step (State.askHops_frame ..) (by decide) ?_
      refine Frame.step (State.count_frame ..) (by decide) ?_
      refine Frame.step (State.onPort_frame ..) (by decide) ?_
      first | with_reducible exact Frame.refl | assumption
    · first | with_reducible exact Frame.refl | assumption

theorem State.writeFrame_frame (s : State) (n) (x) (p) (index) :
    s.Frame (fields [.parts, .cores, .runs, .streams, .tally, .flashTally])
      (State.writeFrame s n x p index) := by
  unfold State.writeFrame
  split
  · extract_lets -merge -underBinder +onlyGivenNames x
    try clear_value x
    refine Frame.step (State.onStream_frame ..) (by decide) ?_
    first
      | with_reducible exact Frame.refl
      | assumption
      | (refine Frame.step (Frame.snd ‹_› (State.offerWrite_frame ..)) (by decide) ?_
         first | with_reducible exact Frame.refl | assumption)
  · refine Frame.step (State.onStream_frame ..) (by decide) ?_
    first
      | with_reducible exact Frame.refl
      | assumption
      | (refine Frame.step (Frame.snd ‹_› (State.offerWrite_frame ..)) (by decide) ?_
         first | with_reducible exact Frame.refl | assumption)

theorem State.streamPacket_frame (s : State) (n) (x) (p) :
    s.Frame (fields [.parts, .cores, .runs, .streams, .tally, .flashTally])
      (State.streamPacket s n x p) := by
  unfold State.streamPacket
  refine Frame.ite ?_ ?_
  · refine Frame.step (State.onStream_frame ..) (by decide) ?_
    first | with_reducible exact Frame.refl | assumption
  · split
    · refine Frame.step (State.onStream_frame ..) (by decide) ?_
      first | with_reducible exact Frame.refl | assumption
    · refine Frame.ite ?_ ?_
      · refine Frame.step (State.onStream_frame ..) (by decide) ?_
        first | with_reducible exact Frame.refl | assumption
      · refine Frame.step (State.writeFrame_frame ..) (by decide) ?_
        refine Frame.step (State.useKey_frame ..) (by decide) ?_
        first | with_reducible exact Frame.refl | assumption

theorem execRtpPacket_frame (port) (s : State) :
    s.FrameOut (fields [.parts, .cores, .runs, .streams, .ports, .tally, .flashTally])
      (execRtpPacket port s) := by
  unfold execRtpPacket
  refine FrameOut.checked ?_
  refine Frame.onlyIf ?_ ?_
  · first | with_reducible exact Frame.refl | assumption
  · extract_lets -merge -underBinder +onlyGivenNames x
    try clear_value x
    refine Frame.withSome ?_ (fun _ => ?_)
    · first | with_reducible exact Frame.refl | assumption
    · split
      · extract_lets -merge -underBinder +onlyGivenNames x
        refine Frame.cut (x := x) (fun hx => ?_) ?_
        · try clear_value x
          refine Frame.withSome ?_ (fun _ => ?_)
          · first | with_reducible exact Frame.refl | assumption
          · refine Frame.step (State.streamPacket_frame ..) (by decide) ?_
            first | with_reducible exact Frame.refl | assumption
        · subst x
          refine Frame.step (State.onPort_frame ..) (by decide) ?_
          first | with_reducible exact Frame.refl | assumption

theorem execArpOrNdRequest_frame (port) (s : State) :
    s.FrameOut (fields [.outbox, .ports])
      (execArpOrNdRequest port s) := by
  unfold execArpOrNdRequest
  refine FrameOut.checked ?_
  refine Frame.onlyIf ?_ ?_
  · first | with_reducible exact Frame.refl | assumption
  · refine Frame.withSome ?_ (fun _ => ?_)
    · first | with_reducible exact Frame.refl | assumption
    · refine Frame.step (State.emit_frame ..) (by decide) ?_
      refine Frame.step (State.onPort_frame ..) (by decide) ?_
      first | with_reducible exact Frame.refl | assumption

theorem execPortLinkDown_frame (port) (s : State) :
    s.FrameOut (fields [.outbox, .ports, .cascade, .health])
      (execPortLinkDown port s) := by
  unfold execPortLinkDown
  refine FrameOut.checked ?_
  refine Frame.onlyIf ?_ ?_
  · first | with_reducible exact Frame.refl | assumption
  · refine Frame.ite ?_ ?_
    · refine Frame.step (State.linkDown_frame ..) (by decide) ?_
      first | with_reducible exact Frame.refl | assumption
    · first | with_reducible exact Frame.refl | assumption

theorem execPacketReceive_frame (port) (packet) (s : State) :
    s.FrameOut (fields [.channels, .ports, .tally, .flashTally])
      (execPacketReceive port packet s) := by
  unfold execPacketReceive
  refine FrameOut.checked ?_
  refine Frame.onlyIf ?_ ?_
  · first | with_reducible exact Frame.refl | assumption
  · refine Frame.ite ?_ ?_
    · first | with_reducible exact Frame.refl | assumption
    · split
      · refine Frame.step (State.count_frame ..) (by decide) ?_
        first | with_reducible exact Frame.refl | assumption
      · refine Frame.step (State.onPort_frame ..) (by decide) ?_
        first | with_reducible exact Frame.refl | assumption
      · refine Frame.step (State.onPort_frame ..) (by decide) ?_
        first | with_reducible exact Frame.refl | assumption
      · refine Frame.step (State.onPort_frame ..) (by decide) ?_
        first | with_reducible exact Frame.refl | assumption
      · refine Frame.step (State.onChannel_frame ..) (by decide) ?_
        first | with_reducible exact Frame.refl | assumption
      · first | with_reducible exact Frame.refl | assumption

theorem State.miswired_frame (s : State) (p) :
    s.Frame (fields [.health, .tally, .flashTally])
      (State.miswired s p) := by
  unfold State.miswired
  refine Frame.step (State.event_frame ..) (by decide) ?_
  refine Frame.step (State.count_frame ..) (by decide) ?_
  first | with_reducible exact Frame.refl | assumption

theorem execReplayTimeout_frame (port) (s : State) :
    s.FrameOut (fields [.outbox, .ports, .tally, .flashTally])
      (execReplayTimeout port s) := by
  unfold execReplayTimeout
  refine FrameOut.checked ?_
  refine Frame.withSome ?_ (fun _ => ?_)
  · first | with_reducible exact Frame.refl | assumption
  · refine Frame.ite ?_ ?_
    · refine Frame.step (State.replayOrRetrain_frame ..) (by decide) ?_
      first | with_reducible exact Frame.refl | assumption
    · first | with_reducible exact Frame.refl | assumption

theorem execPlinkLinkUp_frame (port) (hello) (s : State) :
    s.FrameOut (fields [.ports, .health, .tally, .flashTally])
      (execPlinkLinkUp port hello s) := by
  unfold execPlinkLinkUp
  refine FrameOut.checked ?_
  refine Frame.onlyIf ?_ ?_
  · first | with_reducible exact Frame.refl | assumption
  · extract_lets -merge -underBinder +onlyGivenNames x
    try clear_value x
    refine Frame.ite ?_ ?_
    · refine Frame.step (State.miswired_frame ..) (by decide) ?_
      first | with_reducible exact Frame.refl | assumption
    · split
      · refine Frame.step (State.count_frame ..) (by decide) ?_
        first | with_reducible exact Frame.refl | assumption
      · refine Frame.step (State.count_frame ..) (by decide) ?_
        refine Frame.step (State.setPort_frame ..) (by decide) ?_
        first | with_reducible exact Frame.refl | assumption

theorem execLinkRetrainEnd_frame (port) (up) (s : State) :
    s.FrameOut (fields [.outbox, .ports, .cascade, .health])
      (execLinkRetrainEnd port up s) := by
  unfold execLinkRetrainEnd
  refine FrameOut.checked ?_
  refine Frame.withSome ?_ (fun _ => ?_)
  · first | with_reducible exact Frame.refl | assumption
  · refine Frame.ite ?_ ?_
    · first | with_reducible exact Frame.refl | assumption
    · refine Frame.ite ?_ ?_
      · refine Frame.step (State.pump_frame ..) (by decide) ?_
        refine Frame.step (State.onPort_frame ..) (by decide) ?_
        first | with_reducible exact Frame.refl | assumption
      · refine Frame.ite ?_ ?_
        · refine Frame.step (State.linkDown_frame ..) (by decide) ?_
          first | with_reducible exact Frame.refl | assumption
        · first | with_reducible exact Frame.refl | assumption

theorem execPcieLinkL0_frame (s : State) : s.FrameOut (fields [.cascade]) (execPcieLinkL0 s) := by
  unfold execPcieLinkL0
  refine FrameOut.next ?_
  refine Frame.onlyIf ?_ ?_
  · first | with_reducible exact Frame.refl | assumption
  · refine Frame.upd_cascade (by decide) ?_
    first | with_reducible exact Frame.refl | assumption

theorem State.endBucket_frame (s : State) (tag) (st) :
    s.Frame (fields [.cmds, .ended, .cores, .buckets, .tally, .flashTally])
      (State.endBucket s tag st) := by
  unfold State.endBucket
  split
  · first | with_reducible exact Frame.refl | assumption
  · refine Frame.step (State.fail_frame ..) (by decide) ?_
    refine Frame.step (State.dropBucket_frame ..) (by decide) ?_
    first | with_reducible exact Frame.refl | assumption

theorem State.countLease_frame (s : State) (partition) (kind) (expired) :
    s.Frame (fields [.tally, .flashTally])
      (State.countLease s partition kind expired) := by
  unfold State.countLease
  refine Frame.ite ?_ ?_
  · refine Frame.step (State.count_frame ..) (by decide) ?_
    first | with_reducible exact Frame.refl | assumption
  · refine Frame.ite ?_ ?_
    · refine Frame.step (State.countFor_frame ..) (by decide) ?_
      first | with_reducible exact Frame.refl | assumption
    · refine Frame.step (State.count_frame ..) (by decide) ?_
      first | with_reducible exact Frame.refl | assumption

theorem State.tellRevoked_frame (s : State) (holder) (partition) (kind) (id) (refused) :
    s.Frame (fields [.outbox, .ports, .cascade])
      (State.tellRevoked s holder partition kind id refused) := by
  unfold State.tellRevoked
  refine Frame.ite ?_ ?_
  · first | with_reducible exact Frame.refl | assumption
  · refine Frame.step (State.send_frame ..) (by decide) ?_
    first | with_reducible exact Frame.refl | assumption

theorem State.revokeBox_frame (s : State) (l) (expired) (tell) :
    s.Frame (fields [.outbox, .freeCount, .parts, .cmds, .ended, .cores, .counters, .routes, .runs, .streams,
      .channels, .ports, .cascade, .leases, .tally, .flashTally])
      (State.revokeBox s l expired tell) := by
  unfold State.revokeBox
  extract_lets -merge -underBinder +onlyGivenNames x
  try clear_value x
  extract_lets -merge -underBinder +onlyGivenNames x
  try clear_value x
  extract_lets -merge -underBinder +onlyGivenNames x
  refine Frame.cut (x := x) (fun hx => ?_) ?_
  · try clear_value x
    extract_lets -merge -underBinder +onlyGivenNames x
    refine Frame.cut (x := x) (fun hx => ?_) ?_
    · try clear_value x
      extract_lets -merge -underBinder +onlyGivenNames x
      refine Frame.cut (x := x) (fun hx => ?_) ?_
      · try clear_value x
        split
        · refine Frame.step (State.failRun_frame ..) (by decide) ?_
          first | with_reducible exact Frame.refl | assumption
        · first | with_reducible exact Frame.refl | assumption
      · subst x
        refine Frame.ite ?_ ?_
        · refine Frame.step (State.tellRevoked_frame ..) (by decide) ?_
          first | with_reducible exact Frame.refl | assumption
        · first | with_reducible exact Frame.refl | assumption
    · subst x
      refine Frame.step (State.countLease_frame ..) (by decide) ?_
      first | with_reducible exact Frame.refl | assumption
  · subst x
    refine Frame.upd_leases (by decide) ?_
    first | with_reducible exact Frame.refl | assumption

theorem State.revokeClaims_frame (s : State) (n) (gone) (expired) (tell) :
    s.Frame (fields [.outbox, .cores, .counters, .ports, .cascade, .tally, .flashTally])
      (State.revokeClaims s n gone expired tell) := by
  unfold State.revokeClaims
  extract_lets -merge -underBinder +onlyGivenNames x
  try clear_value x
  extract_lets -merge -underBinder +onlyGivenNames x
  refine Frame.cut (x := x) (fun hx => ?_) ?_
  · try clear_value x
    extract_lets -merge -underBinder +onlyGivenNames x
    refine Frame.cut (x := x) (fun hx => ?_) ?_
    · try clear_value x
      extract_lets -merge -underBinder +onlyGivenNames x
      refine Frame.cut (x := x) (fun hx => ?_) ?_
      · try clear_value x
        refine Frame.step (State.serveHeld_frame ..) (by decide) ?_
        first | with_reducible exact Frame.refl | assumption
      · subst x
        refine Frame.ite ?_ ?_
        · refine Frame.foldl (fun _ _ _ => ?_) ?_
          · refine Frame.step (State.tellRevoked_frame ..) (by decide) ?_
            first | with_reducible exact Frame.refl | assumption
          · first | with_reducible exact Frame.refl | assumption
        · first | with_reducible exact Frame.refl | assumption
    · subst x
      refine Frame.foldl (fun _ _ _ => ?_) ?_
      · refine Frame.step (State.countFor_frame ..) (by decide) ?_
        refine Frame.step (State.countLease_frame ..) (by decide) ?_
        first | with_reducible exact Frame.refl | assumption
      · first | with_reducible exact Frame.refl | assumption
  · subst x
    refine Frame.step (State.setCounter_frame ..) (by decide) ?_
    first | with_reducible exact Frame.refl | assumption

theorem State.revokeTagOf_frame (s : State) (tag) (h) (d) (expired) (st) :
    s.Frame (fields [.outbox, .cmds, .ended, .cores, .ports, .cascade, .buckets, .tally, .flashTally])
      (State.revokeTagOf s tag h d expired st) := by
  unfold State.revokeTagOf
  extract_lets -merge -underBinder +onlyGivenNames x
  refine Frame.cut (x := x) (fun hx => ?_) ?_
  · try clear_value x
    refine Frame.ite ?_ ?_
    · refine Frame.step (State.endBucket_frame ..) (by decide) ?_
      first | with_reducible exact Frame.refl | assumption
    · refine Frame.step (State.tellRevoked_frame ..) (by decide) ?_
      first | with_reducible exact Frame.refl | assumption
  · subst x
    refine Frame.step (State.countLease_frame ..) (by decide) ?_
    first | with_reducible exact Frame.refl | assumption

theorem State.dropTag_frame (s : State) (tag) (h) (spare) (expired) (st) :
    s.Frame (fields [.outbox, .cmds, .ended, .cores, .ports, .cascade, .leases, .buckets, .tagHomes, .tally,
      .flashTally])
      (State.dropTag s tag h spare expired st) := by
  unfold State.dropTag
  extract_lets -merge -underBinder +onlyGivenNames x
  try clear_value x
  extract_lets -merge -underBinder +onlyGivenNames x
  refine Frame.cut (x := x) (fun hx => ?_) ?_
  · try clear_value x
    refine Frame.upd_leases_tagHomes (by decide) ?_
    first | with_reducible exact Frame.refl | assumption
  · subst x
    refine Frame.foldl (fun _ _ _ => ?_) ?_
    · refine Frame.step (State.revokeTagOf_frame ..) (by decide) ?_
      first | with_reducible exact Frame.refl | assumption
    · refine Frame.step (State.count_frame ..) (by decide) ?_
      first | with_reducible exact Frame.refl | assumption

theorem State.sendReduce_frame (s : State) (m) :
    s.Frame (fields [.outbox, .ports, .cascade, .tally, .flashTally])
      (State.sendReduce s m) := by
  unfold State.sendReduce
  refine Frame.step (State.send_frame ..) (by decide) ?_
  refine Frame.ite ?_ ?_
  · first | with_reducible exact Frame.refl | assumption
  · refine Frame.step (State.count_frame ..) (by decide) ?_
    first | with_reducible exact Frame.refl | assumption

theorem State.startTag_frame (s : State) (tag) (h) :
    s.Frame (fields [.outbox, .ports, .cascade, .tally, .flashTally])
      (State.startTag s tag h) := by
  unfold State.startTag
  refine Frame.foldl (fun _ _ _ => ?_) ?_
  · refine Frame.step (State.sendReduce_frame ..) (by decide) ?_
    first | with_reducible exact Frame.refl | assumption
  · first | with_reducible exact Frame.refl | assumption

theorem State.grantTag_frame (s : State) (tag) (h) (r) :
    s.Frame (fields [.outbox, .ports, .cascade, .leases, .tagHomes, .tally, .flashTally])
      (State.grantTag s tag h r) := by
  unfold State.grantTag
  extract_lets -merge -underBinder +onlyGivenNames x
  try clear_value x
  extract_lets -merge -underBinder +onlyGivenNames x
  try clear_value x
  extract_lets -merge -underBinder +onlyGivenNames x
  refine Frame.cut (x := x) (fun hx => ?_) ?_
  · try clear_value x
    refine Frame.ite ?_ ?_
    · refine Frame.step (State.startTag_frame ..) (by decide) ?_
      refine Frame.upd_tagHomes (by decide) ?_
      first | with_reducible exact Frame.refl | assumption
    · refine Frame.upd_tagHomes (by decide) ?_
      first | with_reducible exact Frame.refl | assumption
  · subst x
    refine Frame.ite ?_ ?_
    · first | with_reducible exact Frame.refl | assumption
    · refine Frame.upd_leases (by decide) ?_
      first | with_reducible exact Frame.refl | assumption

theorem State.refuseTag_frame (s : State) (tag) (r) :
    s.Frame (fields [.outbox, .cmds, .ended, .cores, .ports, .cascade, .buckets, .tally, .flashTally])
      (State.refuseTag s tag r) := by
  unfold State.refuseTag
  extract_lets -merge -underBinder +onlyGivenNames x
  refine Frame.cut (x := x) (fun hx => ?_) ?_
  · try clear_value x
    refine Frame.ite ?_ ?_
    · refine Frame.step (State.endBucket_frame ..) (by decide) ?_
      first | with_reducible exact Frame.refl | assumption
    · refine Frame.step (State.tellRevoked_frame ..) (by decide) ?_
      first | with_reducible exact Frame.refl | assumption
  · subst x
    refine Frame.step (State.count_frame ..) (by decide) ?_
    first | with_reducible exact Frame.refl | assumption

theorem State.register_frame (n tag : Nat) (s : State) (r : Registration) :
    s.Frame (fields [.outbox, .cmds, .ended, .cores, .ports, .cascade, .leases, .buckets, .tagHomes, .tally, .flashTally]) (State.register n tag s r) := by
  induction n generalizing s r with
  | zero => exact Frame.refl
  | succ n ih =>
    unfold State.register
    split
    · exact Frame.step (State.grantTag_frame ..) (by decide) Frame.refl
    · refine Frame.ite (Frame.upd_tagHomes (by decide) Frame.refl) (Frame.ite ?_ ?_)
      · exact Frame.step (State.grantTag_frame ..) (by decide) Frame.refl
      · exact Frame.foldl (fun _ _ ht => Frame.trans ht (ih _ _)) (Frame.step (State.dropTag_frame ..) (by decide)
          (Frame.step (State.refuseTag_frame ..) (by decide) Frame.refl))

theorem State.revokeTag_frame (s : State) (tag spare expired st) :
    s.Frame (fields [.outbox, .cmds, .ended, .cores, .ports, .cascade, .leases, .buckets, .tagHomes, .tally, .flashTally]) (s.revokeTag tag spare expired st) := by
  unfold State.revokeTag
  split
  · exact Frame.refl
  · exact Frame.foldl (fun _ _ h => Frame.step (State.register_frame ..) (by decide) h)
      (Frame.step (State.dropTag_frame ..) (by decide) Frame.refl)

theorem State.revokeNamed_frame (s : State) (d) (kind) (res) (tell) :
    s.Frame (fields [.outbox, .freeCount, .parts, .cmds, .ended, .cores, .counters, .routes, .runs, .streams,
      .channels, .ports, .cascade, .leases, .buckets, .tagHomes, .health, .tally, .flashTally])
      (State.revokeNamed s d kind res tell).2 := by
  unfold State.revokeNamed
  refine Frame.ite2 ?_ ?_
  · refine Frame.mk2 ?_
    first | with_reducible exact Frame.refl | assumption
  · extract_lets -merge -underBinder +onlyGivenNames x
    try clear_value x
    extract_lets -merge -underBinder +onlyGivenNames x
    try clear_value x
    extract_lets -merge -underBinder +onlyGivenNames x
    try clear_value x
    extract_lets -merge -underBinder +onlyGivenNames x
    try clear_value x
    extract_lets -merge -underBinder +onlyGivenNames x
    try clear_value x
    extract_lets -merge -underBinder +onlyGivenNames x
    refine Frame.cut (x := x) (fun hx => ?_) ?_
    · try clear_value x
      extract_lets -merge -underBinder +onlyGivenNames x
      refine Frame.cut (x := x) (fun hx => ?_) ?_
      · try clear_value x
        extract_lets -merge -underBinder +onlyGivenNames x
        refine Frame.cut (x := x) (fun hx => ?_) ?_
        · try clear_value x
          extract_lets -merge -underBinder +onlyGivenNames x
          refine Frame.cut (x := x) (fun hx => ?_) ?_
          · try clear_value x
            extract_lets -merge -underBinder +onlyGivenNames x
            refine Frame.cut (x := x) (fun hx => ?_) ?_
            · try clear_value x
              refine Frame.mk2 ?_
              first | with_reducible exact Frame.refl | assumption
            · subst x
              refine Frame.foldl (fun _ _ _ => ?_) ?_
              · refine Frame.step (State.linkDown_frame ..) (by decide) ?_
                first | with_reducible exact Frame.refl | assumption
              · first | with_reducible exact Frame.refl | assumption
          · subst x
            refine Frame.foldl (fun _ _ _ => ?_) ?_
            · refine Frame.step (State.countLease_frame ..) (by decide) ?_
              first | with_reducible exact Frame.refl | assumption
            · first | with_reducible exact Frame.refl | assumption
        · subst x
          refine Frame.foldl (fun _ _ _ => ?_) ?_
          · refine Frame.step (State.revokeTag_frame ..) (by decide) ?_
            first | with_reducible exact Frame.refl | assumption
          · first | with_reducible exact Frame.refl | assumption
      · subst x
        refine Frame.foldl (fun _ _ _ => ?_) ?_
        · refine Frame.step (State.revokeClaims_frame ..) (by decide) ?_
          first | with_reducible exact Frame.refl | assumption
        · first | with_reducible exact Frame.refl | assumption
    · subst x
      refine Frame.foldl (fun _ _ _ => ?_) ?_
      · refine Frame.step (State.revokeBox_frame ..) (by decide) ?_
        first | with_reducible exact Frame.refl | assumption
      · first | with_reducible exact Frame.refl | assumption

theorem State.leaseRevoke_frame (s : State) (id) (c) :
    s.Frame (fields [.outbox, .freeCount, .parts, .cmds, .ended, .cores, .counters, .routes, .runs, .streams,
      .channels, .ports, .cascade, .leases, .buckets, .tagHomes, .health, .tally, .flashTally])
      (State.leaseRevoke s id c) := by
  unfold State.leaseRevoke
  extract_lets -merge -underBinder +onlyGivenNames x
  try clear_value x
  extract_lets -merge -underBinder +onlyGivenNames x
  try clear_value x
  extract_lets -merge -underBinder +onlyGivenNames x
  try clear_value x
  extract_lets -merge -underBinder +onlyGivenNames x
  try clear_value x
  refine Frame.ite ?_ ?_
  · refine Frame.step (State.fail_frame ..) (by decide) ?_
    first | with_reducible exact Frame.refl | assumption
  · extract_lets -merge -underBinder +onlyGivenNames x
    try clear_value x
    split
    · refine Frame.ite ?_ ?_
      · refine Frame.step (State.complete_frame ..) (by decide) ?_
        first
          | with_reducible exact Frame.refl
          | assumption
          | (refine Frame.ofIte ‹_› ?_ ?_
             · refine Frame.step (State.revokeNamed_frame ..) (by decide) ?_
               first | with_reducible exact Frame.refl | assumption
             · first | with_reducible exact Frame.refl | assumption)
      · extract_lets -merge -underBinder +onlyGivenNames x
        try clear_value x
        extract_lets -merge -underBinder +onlyGivenNames x
        refine Frame.cut (x := x) (fun hx => ?_) ?_
        · try clear_value x
          refine Frame.foldl (fun _ _ _ => ?_) ?_
          · refine Frame.step (State.send_frame ..) (by decide) ?_
            first
              | with_reducible exact Frame.refl
              | assumption
              | (refine Frame.ofIte ‹_› ?_ ?_
                 · refine Frame.step (State.revokeNamed_frame ..) (by decide) ?_
                   first | with_reducible exact Frame.refl | assumption
                 · first | with_reducible exact Frame.refl | assumption)
          · first
              | with_reducible exact Frame.refl
              | assumption
              | (refine Frame.ofIte ‹_› ?_ ?_
                 · refine Frame.step (State.revokeNamed_frame ..) (by decide) ?_
                   first | with_reducible exact Frame.refl | assumption
                 · first | with_reducible exact Frame.refl | assumption)
        · subst x
          refine Frame.upd_cascade (by decide) ?_
          first
            | with_reducible exact Frame.refl
            | assumption
            | (refine Frame.ofIte ‹_› ?_ ?_
               · refine Frame.step (State.revokeNamed_frame ..) (by decide) ?_
                 first | with_reducible exact Frame.refl | assumption
               · first | with_reducible exact Frame.refl | assumption)

theorem execLeaseRevoke_frame (id) (s : State) :
    s.FrameOut (fields [.outbox, .freeCount, .fns, .parts, .cmds, .ended, .memUsed, .links, .cores, .counters,
      .routes, .runs, .streams, .channels, .ports, .cascade, .leases, .buckets, .tagHomes, .health,
      .tally, .flashTally])
      (execLeaseRevoke id s) := by
  unfold execLeaseRevoke
  refine FrameOut.opcodeRow (by decide) (fun _ _ _ => ?_)
  refine Frame.step (State.leaseRevoke_frame ..) (by decide) ?_
  first | with_reducible exact Frame.refl | assumption

theorem State.revokeAnswered_frame (s : State) (id) (home) (n) :
    s.Frame (fields [.cmds, .ended, .cascade, .tally, .flashTally])
      (State.revokeAnswered s id home n) := by
  unfold State.revokeAnswered
  split
  · first | with_reducible exact Frame.refl | assumption
  · extract_lets -merge -underBinder +onlyGivenNames x
    try clear_value x
    refine Frame.ite ?_ ?_
    · refine Frame.step (State.complete_frame ..) (by decide) ?_
      refine Frame.upd_cascade (by decide) ?_
      first | with_reducible exact Frame.refl | assumption
    · refine Frame.upd_cascade (by decide) ?_
      first | with_reducible exact Frame.refl | assumption

theorem State.revokeTraffic_frame (s : State) :
    s.Frame (fields [.outbox, .freeCount, .parts, .cmds, .ended, .cores, .counters, .routes, .runs, .streams,
      .channels, .ports, .cascade, .leases, .buckets, .tagHomes, .health, .tally, .flashTally])
      (State.revokeTraffic s) := by
  unfold State.revokeTraffic
  split
  · first
      | with_reducible exact Frame.refl
      | assumption
      | (refine Frame.step (State.takeArrived_frame ‹_›) (by decide) ?_
         first | with_reducible exact Frame.refl | assumption)
  · extract_lets -merge -underBinder +onlyGivenNames x
    try clear_value x
    refine Frame.ite ?_ ?_
    · refine Frame.step (State.revokeAnswered_frame ..) (by decide) ?_
      first
        | with_reducible exact Frame.refl
        | assumption
        | (refine Frame.step (State.takeArrived_frame ‹_›) (by decide) ?_
           first | with_reducible exact Frame.refl | assumption)
    · refine Frame.ite ?_ ?_
      · first
          | with_reducible exact Frame.refl
          | assumption
          | (refine Frame.step (State.takeArrived_frame ‹_›) (by decide) ?_
             first | with_reducible exact Frame.refl | assumption)
      · split
        · refine Frame.step (State.send_frame ..) (by decide) ?_
          first
            | with_reducible exact Frame.refl
            | assumption
            | (refine Frame.step (Frame.snd ‹_› (State.revokeNamed_frame ..)) (by decide) ?_
               first
                 | with_reducible exact Frame.refl
                 | assumption
                 | (refine Frame.step (State.takeArrived_frame ‹_›) (by decide) ?_
                    first | with_reducible exact Frame.refl | assumption))
            | (refine Frame.step (State.takeArrived_frame ‹_›) (by decide) ?_
               first
                 | with_reducible exact Frame.refl
                 | assumption
                 | (refine Frame.step (Frame.snd ‹_› (State.revokeNamed_frame ..)) (by decide) ?_
                    first | with_reducible exact Frame.refl | assumption))

theorem execFlitReceive_frame (port) (flit) (s : State) :
    s.FrameOut (fields [.outbox, .freeCount, .parts, .cmds, .ended, .cores, .counters, .routes, .runs, .streams,
      .channels, .ports, .cascade, .leases, .buckets, .tagHomes, .health, .tally, .flashTally])
      (execFlitReceive port flit s) := by
  unfold execFlitReceive
  refine FrameOut.checked ?_
  refine Frame.onlyIf ?_ ?_
  · first | with_reducible exact Frame.refl | assumption
  · refine Frame.step (State.revokeTraffic_frame ..) (by decide) ?_
    refine Frame.step (State.flit_frame ..) (by decide) ?_
    first | with_reducible exact Frame.refl | assumption

theorem State.renewClaimOf_frame (s : State) (d) (n) (v) :
    s.Frame (fields [.counters])
      (State.renewClaimOf s d n v) := by
  unfold State.renewClaimOf
  extract_lets -merge -underBinder +onlyGivenNames x
  try clear_value x
  refine Frame.step (State.setCounter_frame ..) (by decide) ?_
  first | with_reducible exact Frame.refl | assumption

theorem State.renewFrom_frame (s : State) (d) : s.Frame (fields [.cascade, .leases]) (State.renewFrom s d) := by
  unfold State.renewFrom
  refine Frame.upd_cascade_leases (by decide) ?_
  first | with_reducible exact Frame.refl | assumption

theorem State.renewal_frame (s : State) : s.Frame (fields [.counters, .cascade, .leases]) (State.renewal s) := by
  unfold State.renewal
  split
  · first
      | with_reducible exact Frame.refl
      | assumption
      | (refine Frame.step (State.takeArrived_frame ‹_›) (by decide) ?_
         first | with_reducible exact Frame.refl | assumption)
  · refine Frame.ite ?_ ?_
    · refine Frame.step (State.renewClaimOf_frame ..) (by decide) ?_
      first
        | with_reducible exact Frame.refl
        | assumption
        | (refine Frame.step (State.takeArrived_frame ‹_›) (by decide) ?_
           first | with_reducible exact Frame.refl | assumption)
    · refine Frame.step (State.renewFrom_frame ..) (by decide) ?_
      first
        | with_reducible exact Frame.refl
        | assumption
        | (refine Frame.step (State.takeArrived_frame ‹_›) (by decide) ?_
           first | with_reducible exact Frame.refl | assumption)

theorem State.expireLeases_frame (s : State) :
    s.Frame (fields [.outbox, .freeCount, .parts, .cmds, .ended, .cores, .counters, .routes, .runs, .streams,
      .channels, .ports, .cascade, .leases, .buckets, .tagHomes, .health, .tally, .flashTally])
      (State.expireLeases s) := by
  unfold State.expireLeases
  extract_lets -merge -underBinder +onlyGivenNames x
  try clear_value x
  extract_lets -merge -underBinder +onlyGivenNames x
  try clear_value x
  extract_lets -merge -underBinder +onlyGivenNames x
  try clear_value x
  extract_lets -merge -underBinder +onlyGivenNames x
  try clear_value x
  extract_lets -merge -underBinder +onlyGivenNames x
  refine Frame.cut (x := x) (fun hx => ?_) ?_
  · try clear_value x
    extract_lets -merge -underBinder +onlyGivenNames x
    refine Frame.cut (x := x) (fun hx => ?_) ?_
    · try clear_value x
      extract_lets -merge -underBinder +onlyGivenNames x
      refine Frame.cut (x := x) (fun hx => ?_) ?_
      · try clear_value x
        refine Frame.foldl (fun _ _ _ => ?_) ?_
        · refine Frame.step (State.linkDown_frame ..) (by decide) ?_
          refine Frame.step (State.countLease_frame ..) (by decide) ?_
          first | with_reducible exact Frame.refl | assumption
        · first | with_reducible exact Frame.refl | assumption
      · subst x
        refine Frame.foldl (fun _ _ _ => ?_) ?_
        · refine Frame.step (State.revokeTag_frame ..) (by decide) ?_
          first | with_reducible exact Frame.refl | assumption
        · first | with_reducible exact Frame.refl | assumption
    · subst x
      refine Frame.foldl (fun _ _ _ => ?_) ?_
      · refine Frame.step (State.revokeClaims_frame ..) (by decide) ?_
        first | with_reducible exact Frame.refl | assumption
      · first | with_reducible exact Frame.refl | assumption
  · subst x
    refine Frame.foldl (fun _ _ _ => ?_) ?_
    · refine Frame.step (State.revokeBox_frame ..) (by decide) ?_
      first | with_reducible exact Frame.refl | assumption
    · first | with_reducible exact Frame.refl | assumption

theorem execLeaseExpiry_frame (s : State) :
    s.FrameOut (fields [.outbox, .freeCount, .parts, .cmds, .ended, .cores, .counters, .routes, .runs, .streams,
      .channels, .ports, .cascade, .leases, .buckets, .tagHomes, .health, .tally, .flashTally])
      (execLeaseExpiry s) := by
  unfold execLeaseExpiry
  refine FrameOut.next ?_
  refine Frame.onlyIf ?_ ?_
  · first | with_reducible exact Frame.refl | assumption
  · refine Frame.step (State.expireLeases_frame ..) (by decide) ?_
    first | with_reducible exact Frame.refl | assumption

theorem execRenewTimer_frame (s : State) : s.FrameOut (fields [.outbox, .ports, .cascade]) (execRenewTimer s) := by
  unfold execRenewTimer
  refine FrameOut.next ?_
  refine Frame.onlyIf ?_ ?_
  · first | with_reducible exact Frame.refl | assumption
  · refine Frame.step (State.sendAll_frame ..) (by decide) ?_
    refine Frame.upd_cascade (by decide) ?_
    first | with_reducible exact Frame.refl | assumption

theorem State.revoked_frame (s : State) (m) :
    s.Frame (fields [.outbox, .freeCount, .parts, .cmds, .ended, .cores, .counters, .routes, .runs, .streams,
      .channels, .ports, .cascade, .leases, .buckets, .health, .tally, .flashTally])
      (State.revoked s m) := by
  unfold State.revoked
  extract_lets -merge -underBinder +onlyGivenNames x
  try clear_value x
  extract_lets -merge -underBinder +onlyGivenNames x
  try clear_value x
  split
  · refine Frame.foldl (fun _ _ _ => ?_) ?_
    · refine Frame.step (State.failRun_frame ..) (by decide) ?_
      first | with_reducible exact Frame.refl | assumption
    · first | with_reducible exact Frame.refl | assumption
  · refine Frame.foldl (fun _ _ _ => ?_) ?_
    · refine Frame.step (State.linkDown_frame ..) (by decide) ?_
      first | with_reducible exact Frame.refl | assumption
    · first | with_reducible exact Frame.refl | assumption
  · refine Frame.step (State.endBucket_frame ..) (by decide) ?_
    first | with_reducible exact Frame.refl | assumption
  · first | with_reducible exact Frame.refl | assumption

theorem State.tagCompleted_frame (s : State) (tag d) :
    s.Frame (fields [.outbox, .cmds, .ended, .cores, .ports, .cascade, .leases, .buckets, .tagHomes, .tally, .flashTally]) (s.tagCompleted tag d) := by
  unfold State.tagCompleted
  split
  · exact Frame.refl
  · extract_lets -merge h s1
    have h1 : s.Frame (fields [.outbox, .cmds, .ended, .cores, .ports, .cascade, .leases, .buckets, .tagHomes, .tally, .flashTally]) s1 := Frame.upd_leases (by decide) Frame.refl
    clear_value s1
    exact Frame.ite (Frame.foldl (fun _ _ h => Frame.step (State.register_frame ..) (by decide) h)
      (Frame.upd_tagHomes (by decide) h1)) (Frame.upd_tagHomes (by decide) h1)

theorem State.revokeAll_frame (s : State) (d) (tell) :
    s.Frame (fields [.outbox, .freeCount, .parts, .cmds, .ended, .cores, .counters, .routes, .runs, .streams,
      .channels, .ports, .cascade, .leases, .buckets, .tagHomes, .health, .tally, .flashTally])
      (State.revokeAll s d tell) := by
  unfold State.revokeAll
  extract_lets -merge -underBinder +onlyGivenNames x
  refine Frame.cut (x := x) (fun hx => ?_) ?_
  · try clear_value x
    refine Frame.step (State.revokeNamed_frame ..) (by decide) ?_
    first | with_reducible exact Frame.refl | assumption
  · subst x
    refine Frame.upd_counters (by decide) ?_
    first | with_reducible exact Frame.refl | assumption

theorem execRenew_frame (s : State) : s.FrameOut (fields [.counters, .cascade, .leases]) (execRenew s) := by
  unfold execRenew
  refine FrameOut.next ?_
  refine Frame.onlyIf ?_ ?_
  · first | with_reducible exact Frame.refl | assumption
  · refine Frame.step (State.renewal_frame ..) (by decide) ?_
    first | with_reducible exact Frame.refl | assumption

theorem execRevoked_frame (s : State) : s.FrameOut (fields [.outbox, .freeCount, .parts, .cmds, .ended, .cores, .counters, .routes, .runs, .streams, .channels, .ports, .cascade, .leases, .buckets, .health, .tally, .flashTally]) (execRevoked s) :=
  FrameOut.next (Frame.onlyIf Frame.refl (Frame.withSomeEq Frame.refl fun _ e =>
    Frame.step (State.revoked_frame ..) (by decide) (Frame.step (State.takeArrived_frame e) (by decide) Frame.refl)))

theorem State.takeNotice_frame {s t : State} {aboutMaster} {y} (h : State.takeNotice s aboutMaster = some (y, t)) :
    s.Frame (fields [.cascade]) t := by
  unfold State.takeNotice at h
  split at h
  · cases h
  · cases h
    refine Frame.upd_cascade (by decide) ?_
    first | with_reducible exact Frame.refl | assumption

theorem State.endRelayed_frame (s : State) :
    s.Frame (fields [.outbox, .freeCount, .parts, .cmds, .ended, .scrubs, .unmaps, .cores, .counters, .routes,
      .runs, .channels, .ports, .cascade, .leases, .buckets, .tally, .packing, .flashTally])
      (State.endRelayed s) := by
  unfold State.endRelayed
  extract_lets -merge -underBinder +onlyGivenNames x
  try clear_value x
  extract_lets -merge -underBinder +onlyGivenNames x
  refine Frame.cut (x := x) (fun hx => ?_) ?_
  · try clear_value x
    refine Frame.upd_cmds (by decide) (fun h => ?_) ?_
    · first | exact Inv.cmdsErase h | exact Inv.cmdsFilter h | exact Inv.cmdsModify h | exact Inv.regionsPut h | exact ⟨wf_clearBytes h.1, h.2⟩
    · first | with_reducible exact Frame.refl | assumption
  · subst x
    refine Frame.foldl (fun _ _ _ => ?_) ?_
    · refine Frame.step (State.cutShort_frame ..) (by decide) ?_
      first | with_reducible exact Frame.refl | assumption
    · first | with_reducible exact Frame.refl | assumption

theorem State.leave_frame (s : State) :
    s.Frame (fields [.outbox, .freeCount, .parts, .cmds, .ended, .scrubs, .unmaps, .cores, .counters, .routes,
      .runs, .channels, .ports, .cascade, .leases, .buckets, .tally, .packing, .flashTally])
      (State.leave s) := by
  unfold State.leave
  extract_lets -merge -underBinder +onlyGivenNames x
  refine Frame.cut (x := x) (fun hx => ?_) ?_
  · try clear_value x
    refine Frame.upd_cascade (by decide) ?_
    first | with_reducible exact Frame.refl | assumption
  · subst x
    refine Frame.step (State.endRelayed_frame ..) (by decide) ?_
    first | with_reducible exact Frame.refl | assumption

theorem State.endRelayedTo_frame (s : State) (d) :
    s.Frame (fields [.cmds, .ended, .tally, .flashTally])
      (State.endRelayedTo s d) := by
  unfold State.endRelayedTo
  refine Frame.foldl (fun _ _ _ => ?_) ?_
  · refine Frame.ite ?_ ?_
    · refine Frame.step (State.fail_frame ..) (by decide) ?_
      first | with_reducible exact Frame.refl | assumption
    · first | with_reducible exact Frame.refl | assumption
  · first | with_reducible exact Frame.refl | assumption

theorem State.removeMembers_frame (s : State) (gone) (versions) :
    s.Frame (fields [.outbox, .freeCount, .parts, .cmds, .ended, .scrubs, .unmaps, .cores, .counters, .routes,
      .runs, .streams, .channels, .ports, .cascade, .leases, .buckets, .tagHomes, .health, .tally,
      .packing, .flashTally])
      (State.removeMembers s gone versions) := by
  unfold State.removeMembers
  extract_lets -merge -underBinder +onlyGivenNames x
  try clear_value x
  extract_lets -merge -underBinder +onlyGivenNames x
  try clear_value x
  extract_lets -merge -underBinder +onlyGivenNames x
  refine Frame.cut (x := x) (fun hx => ?_) ?_
  · try clear_value x
    extract_lets -merge -underBinder +onlyGivenNames x
    refine Frame.cut (x := x) (fun hx => ?_) ?_
    · try clear_value x
      refine Frame.ite ?_ ?_
      · refine Frame.step (State.leave_frame ..) (by decide) ?_
        first | with_reducible exact Frame.refl | assumption
      · first | with_reducible exact Frame.refl | assumption
    · subst x
      refine Frame.foldl (fun _ _ _ => ?_) ?_
      · refine Frame.step (State.revokeAll_frame ..) (by decide) ?_
        refine Frame.step (State.endRelayedTo_frame ..) (by decide) ?_
        first | with_reducible exact Frame.refl | assumption
      · first | with_reducible exact Frame.refl | assumption
  · subst x
    refine Frame.upd_cascade (by decide) ?_
    first | with_reducible exact Frame.refl | assumption

theorem State.FrameOut.memberRow {w : Nat} {s : State} {n : Nat} {f : Message → State → State}
    (hs : fields [.cascade] &&& w = fields [.cascade])
    (hf : ∀ a t, s.Frame w t → s.Frame w (f a t)) : s.FrameOut w (Machine.memberRow n s f) := by
  refine FrameOut.next (Frame.onlyIf Frame.refl ?_)
  unfold Machine.withSome
  split
  · exact Frame.refl
  · rename_i e
    exact hf _ _ (Frame.step (State.takeArrived_frame e) hs Frame.refl)

theorem execMemberLeave_frame (s : State) :
    s.FrameOut (fields [.outbox, .freeCount, .parts, .cmds, .ended, .scrubs, .unmaps, .cores, .counters, .routes,
      .runs, .streams, .channels, .ports, .cascade, .leases, .buckets, .tagHomes, .health, .tally,
      .packing, .flashTally])
      (execMemberLeave s) := by
  unfold execMemberLeave
  refine FrameOut.memberRow (by decide) (fun _ _ _ => ?_)
  extract_lets -merge -underBinder +onlyGivenNames x
  try clear_value x
  refine Frame.ite ?_ ?_
  · first | with_reducible exact Frame.refl | assumption
  · refine Frame.ite ?_ ?_
    · refine Frame.step (State.leave_frame ..) (by decide) ?_
      first | with_reducible exact Frame.refl | assumption
    · refine Frame.step (State.removeMembers_frame ..) (by decide) ?_
      first | with_reducible exact Frame.refl | assumption

theorem State.join_frame (s : State) (master) (members) (versions) :
    s.Frame (fields [.cascade])
      (State.join s master members versions) := by
  unfold State.join
  extract_lets -merge -underBinder +onlyGivenNames x
  try clear_value x
  refine Frame.upd_cascade (by decide) ?_
  first | with_reducible exact Frame.refl | assumption

theorem State.commitJoin_frame (s : State) (j) :
    s.Frame (fields [.outbox, .cmds, .ended, .ports, .cascade, .tally, .flashTally])
      (State.commitJoin s j) := by
  unfold State.commitJoin
  extract_lets -merge -underBinder +onlyGivenNames x
  try clear_value x
  extract_lets -merge -underBinder +onlyGivenNames x
  refine Frame.cut (x := x) (fun hx => ?_) ?_
  · try clear_value x
    refine Frame.step (State.complete_frame ..) (by decide) ?_
    refine Frame.step (State.join_frame ..) (by decide) ?_
    first | with_reducible exact Frame.refl | assumption
  · subst x
    refine Frame.foldl (fun _ _ _ => ?_) ?_
    · refine Frame.step (State.send_frame ..) (by decide) ?_
      first | with_reducible exact Frame.refl | assumption
    · first | with_reducible exact Frame.refl | assumption

theorem State.joinAnswered_frame (s : State) (m) :
    s.Frame (fields [.outbox, .cmds, .ended, .ports, .cascade, .tally, .flashTally])
      (State.joinAnswered s m) := by
  unfold State.joinAnswered
  split
  · first | with_reducible exact Frame.refl | assumption
  · refine Frame.ite ?_ ?_
    · first | with_reducible exact Frame.refl | assumption
    · extract_lets -merge -underBinder +onlyGivenNames x
      try clear_value x
      extract_lets -merge -underBinder +onlyGivenNames x
      try clear_value x
      extract_lets -merge -underBinder +onlyGivenNames x
      try clear_value x
      refine Frame.ite ?_ ?_
      · refine Frame.upd_cascade (by decide) ?_
        first | with_reducible exact Frame.refl | assumption
      · extract_lets -merge -underBinder +onlyGivenNames x
        refine Frame.cut (x := x) (fun hx => ?_) ?_
        · try clear_value x
          refine Frame.ite ?_ ?_
          · refine Frame.step (State.fail_frame ..) (by decide) ?_
            first | with_reducible exact Frame.refl | assumption
          · refine Frame.step (State.commitJoin_frame ..) (by decide) ?_
            first | with_reducible exact Frame.refl | assumption
        · subst x
          refine Frame.upd_cascade (by decide) ?_
          first | with_reducible exact Frame.refl | assumption

theorem State.prepare_frame (s : State) (m) : s.Frame (fields [.outbox, .ports, .cascade]) (State.prepare s m) := by
  unfold State.prepare
  extract_lets -merge -underBinder +onlyGivenNames x
  try clear_value x
  extract_lets -merge -underBinder +onlyGivenNames x
  try clear_value x
  refine Frame.ite ?_ ?_
  · extract_lets -merge -underBinder +onlyGivenNames x
    try clear_value x
    refine Frame.step (State.send_frame ..) (by decide) ?_
    refine Frame.upd_cascade (by decide) ?_
    first | with_reducible exact Frame.refl | assumption
  · refine Frame.step (State.send_frame ..) (by decide) ?_
    first | with_reducible exact Frame.refl | assumption

theorem execMemberPrepare_frame (s : State) :
    s.FrameOut (fields [.outbox, .ports, .cascade])
      (execMemberPrepare s) := by
  unfold execMemberPrepare
  refine FrameOut.memberRow (by decide) (fun _ _ _ => ?_)
  refine Frame.step (State.prepare_frame ..) (by decide) ?_
  first | with_reducible exact Frame.refl | assumption

theorem State.joinCascade_frame (s : State) (id) (c) :
    s.Frame (fields [.outbox, .cmds, .ended, .ports, .cascade, .tally, .flashTally])
      (State.joinCascade s id c) := by
  unfold State.joinCascade
  extract_lets -merge -underBinder +onlyGivenNames x
  try clear_value x
  extract_lets -merge -underBinder +onlyGivenNames x
  try clear_value x
  extract_lets -merge -underBinder +onlyGivenNames x
  try clear_value x
  refine Frame.ite ?_ ?_
  · refine Frame.step (State.fail_frame ..) (by decide) ?_
    first | with_reducible exact Frame.refl | assumption
  · extract_lets -merge -underBinder +onlyGivenNames x
    try clear_value x
    extract_lets -merge -underBinder +onlyGivenNames x
    try clear_value x
    extract_lets -merge -underBinder +onlyGivenNames x
    refine Frame.cut (x := x) (fun hx => ?_) ?_
    · try clear_value x
      refine Frame.foldl (fun _ _ _ => ?_) ?_
      · refine Frame.step (State.send_frame ..) (by decide) ?_
        first | with_reducible exact Frame.refl | assumption
      · first | with_reducible exact Frame.refl | assumption
    · subst x
      refine Frame.upd_cascade (by decide) ?_
      first | with_reducible exact Frame.refl | assumption

theorem execJoinPrepareTimeout_frame (s : State) : s.FrameOut (fields [.cascade]) (execJoinPrepareTimeout s) := by
  unfold execJoinPrepareTimeout
  refine FrameOut.next ?_
  refine Frame.withSome ?_ (fun _ => ?_)
  · first | with_reducible exact Frame.refl | assumption
  · refine Frame.ite ?_ ?_
    · refine Frame.upd_cascade (by decide) ?_
      first | with_reducible exact Frame.refl | assumption
    · first | with_reducible exact Frame.refl | assumption

theorem execJoinReply_frame (s : State) : s.FrameOut (fields [.outbox, .cmds, .ended, .ports, .cascade, .tally, .flashTally]) (execJoinReply s) :=
  FrameOut.next (Frame.onlyIf Frame.refl (Frame.withSomeEq Frame.refl fun _ e =>
    Frame.step (State.joinAnswered_frame ..) (by decide) (Frame.step (State.takeArrived_frame e) (by decide) Frame.refl)))

theorem State.endAwaiting_frame (s : State) (x) :
    s.Frame (fields [.cmds, .ended, .cascade, .tally, .flashTally])
      (State.endAwaiting s x) := by
  unfold State.endAwaiting
  extract_lets -merge -underBinder +onlyGivenNames x
  refine Frame.cut (x := x) (fun hx => ?_) ?_
  · try clear_value x
    extract_lets -merge -underBinder +onlyGivenNames x
    try clear_value x
    extract_lets -merge -underBinder +onlyGivenNames x
    refine Frame.cut (x := x) (fun hx => ?_) ?_
    · try clear_value x
      refine Frame.upd_cascade (by decide) ?_
      first | with_reducible exact Frame.refl | assumption
    · subst x
      refine Frame.foldl (fun _ _ _ => ?_) ?_
      · refine Frame.step (State.fail_frame ..) (by decide) ?_
        first | with_reducible exact Frame.refl | assumption
      · first | with_reducible exact Frame.refl | assumption
  · subst x
    split
    · refine Frame.ite ?_ ?_
      · refine Frame.step (State.fail_frame ..) (by decide) ?_
        refine Frame.upd_cascade (by decide) ?_
        first | with_reducible exact Frame.refl | assumption
      · first | with_reducible exact Frame.refl | assumption
    · first | with_reducible exact Frame.refl | assumption

theorem State.loseBuckets_frame (s : State) :
    s.Frame (fields [.cmds, .ended, .cores, .leases, .buckets, .tagHomes, .tally, .flashTally])
      (State.loseBuckets s) := by
  unfold State.loseBuckets
  extract_lets -merge -underBinder +onlyGivenNames x
  refine Frame.cut (x := x) (fun hx => ?_) ?_
  · try clear_value x
    refine Frame.upd_leases_tagHomes (by decide) ?_
    first | with_reducible exact Frame.refl | assumption
  · subst x
    refine Frame.foldl (fun _ _ _ => ?_) ?_
    · refine Frame.step (State.endBucket_frame ..) (by decide) ?_
      first | with_reducible exact Frame.refl | assumption
    · first | with_reducible exact Frame.refl | assumption

theorem State.loses_frame (s : State) (x) :
    s.Frame (fields [.outbox, .freeCount, .parts, .cmds, .ended, .cores, .counters, .routes, .runs, .streams,
      .channels, .ports, .cascade, .leases, .buckets, .tagHomes, .health, .tally, .flashTally])
      (State.loses s x) := by
  unfold State.loses
  refine Frame.ite ?_ ?_
  · first | with_reducible exact Frame.refl | assumption
  · extract_lets -merge -underBinder +onlyGivenNames x
    try clear_value x
    extract_lets -merge -underBinder +onlyGivenNames x
    refine Frame.cut (x := x) (fun hx => ?_) ?_
    · try clear_value x
      extract_lets -merge -underBinder +onlyGivenNames x
      refine Frame.cut (x := x) (fun hx => ?_) ?_
      · try clear_value x
        refine Frame.step (State.settle_frame ..) (by decide) ?_
        refine Frame.step (State.revokeAll_frame ..) (by decide) ?_
        refine Frame.step (State.endAwaiting_frame ..) (by decide) ?_
        refine Frame.step (State.endRelayedTo_frame ..) (by decide) ?_
        refine Frame.step (State.loseBuckets_frame ..) (by decide) ?_
        first | with_reducible exact Frame.refl | assumption
      · subst x
        refine Frame.foldl (fun _ _ _ => ?_) ?_
        · refine Frame.step (State.failRun_frame ..) (by decide) ?_
          first | with_reducible exact Frame.refl | assumption
        · first | with_reducible exact Frame.refl | assumption
    · subst x
      refine Frame.step (State.event_frame ..) (by decide) ?_
      refine Frame.step (State.count_frame ..) (by decide) ?_
      refine Frame.upd_cascade (by decide) ?_
      first | with_reducible exact Frame.refl | assumption

theorem State.ownLoss_frame (s : State) :
    s.Frame (fields [.outbox, .freeCount, .parts, .cmds, .ended, .scrubs, .unmaps, .cores, .counters, .routes,
      .runs, .streams, .channels, .ports, .cascade, .leases, .buckets, .tagHomes, .health, .tally,
      .packing, .flashTally])
      (State.ownLoss s) := by
  unfold State.ownLoss
  refine Frame.step (State.settle_frame ..) (by decide) ?_
  refine Frame.step (State.leave_frame ..) (by decide) ?_
  refine Frame.step (State.loseBuckets_frame ..) (by decide) ?_
  exact Frame.foldl (fun _ _ h => Frame.step (State.failRun_frame ..) (by decide) h) Frame.refl

theorem State.lossReported_frame (s : State) (m) :
    s.Frame (fields [.outbox, .freeCount, .parts, .cmds, .ended, .scrubs, .unmaps, .cores, .counters, .routes,
      .runs, .streams, .channels, .ports, .cascade, .leases, .buckets, .tagHomes, .health, .tally,
      .packing, .flashTally])
      (State.lossReported s m) := by
  unfold State.lossReported
  extract_lets -merge -underBinder +onlyGivenNames x
  try clear_value x
  refine Frame.ite ?_ ?_
  · refine Frame.step (State.ownLoss_frame ..) (by decide) ?_
    first | with_reducible exact Frame.refl | assumption
  · extract_lets -merge -underBinder +onlyGivenNames x
    try clear_value x
    extract_lets -merge -underBinder +onlyGivenNames x
    refine Frame.cut (x := x) (fun hx => ?_) ?_
    · try clear_value x
      refine Frame.step (State.loses_frame ..) (by decide) ?_
      first | with_reducible exact Frame.refl | assumption
    · subst x
      refine Frame.ite ?_ ?_
      · refine Frame.step (State.sendAll_frame ..) (by decide) ?_
        first | with_reducible exact Frame.refl | assumption
      · first | with_reducible exact Frame.refl | assumption

theorem execMemberLost_frame (s : State) : s.FrameOut (fields [.outbox, .freeCount, .parts, .cmds, .ended, .scrubs, .unmaps, .cores, .counters, .routes, .runs, .streams, .channels, .ports, .cascade, .leases, .buckets, .tagHomes, .health, .tally, .packing, .flashTally]) (execMemberLost s) := by
  refine FrameOut.next (Frame.onlyIf Frame.refl ?_)
  split
  · rename_i e
    exact Frame.step (State.loses_frame ..) (by decide) (Frame.step (State.takeNotice_frame e) (by decide) Frame.refl)
  · exact Frame.withSomeEq Frame.refl fun _ e =>
      Frame.step (State.lossReported_frame ..) (by decide) (Frame.step (State.takeArrived_frame e) (by decide) Frame.refl)

theorem State.losesMaster_frame (s : State) (x) :
    s.Frame (fields [.outbox, .freeCount, .parts, .cmds, .ended, .scrubs, .unmaps, .cores, .counters, .routes,
      .runs, .streams, .channels, .ports, .cascade, .leases, .buckets, .tagHomes, .health, .tally,
      .packing, .flashTally])
      (State.losesMaster s x) := by
  unfold State.losesMaster
  refine Frame.ite ?_ ?_
  · first | with_reducible exact Frame.refl | assumption
  · refine Frame.step (State.loses_frame ..) (by decide) ?_
    refine Frame.step (State.endRelayed_frame ..) (by decide) ?_
    refine Frame.upd_cascade (by decide) ?_
    first | with_reducible exact Frame.refl | assumption

theorem execMemberMasterLost_frame (s : State) : s.FrameOut (fields [.outbox, .freeCount, .parts, .cmds, .ended, .scrubs, .unmaps, .cores, .counters, .routes, .runs, .streams, .channels, .ports, .cascade, .leases, .buckets, .tagHomes, .health, .tally, .packing, .flashTally]) (execMemberMasterLost s) := by
  refine FrameOut.next (Frame.onlyIf Frame.refl ?_)
  split
  · rename_i e
    exact Frame.step (State.losesMaster_frame ..) (by decide) (Frame.step (State.takeNotice_frame e) (by decide) Frame.refl)
  · exact Frame.withSomeEq Frame.refl fun _ e =>
      Frame.step (State.losesMaster_frame ..) (by decide) (Frame.step (State.takeArrived_frame e) (by decide) Frame.refl)

theorem execJoinCascade_frame (id) (s : State) :
    s.FrameOut (fields [.outbox, .fns, .cmds, .ended, .memUsed, .links, .ports, .cascade, .tally, .flashTally])
      (execJoinCascade id s) := by
  unfold execJoinCascade
  split
  · refine FrameOut.next ?_
    first | with_reducible exact Frame.refl | assumption
  · refine FrameOut.opcodeRow (by decide) (fun _ _ _ => ?_)
    refine Frame.step (State.joinCascade_frame ..) (by decide) ?_
    first | with_reducible exact Frame.refl | assumption

theorem execJoinTimeout_frame (s : State) :
    s.FrameOut (fields [.cmds, .ended, .cascade, .tally, .flashTally])
      (execJoinTimeout s) := by
  unfold execJoinTimeout
  refine FrameOut.next ?_
  refine Frame.withSome ?_ (fun _ => ?_)
  · first | with_reducible exact Frame.refl | assumption
  · refine Frame.ite ?_ ?_
    · refine Frame.step (State.fail_frame ..) (by decide) ?_
      refine Frame.upd_cascade (by decide) ?_
      first | with_reducible exact Frame.refl | assumption
    · first | with_reducible exact Frame.refl | assumption

theorem State.leaveCascade_frame (s : State) (id) (c) :
    s.Frame (fields [.outbox, .freeCount, .parts, .cmds, .ended, .scrubs, .unmaps, .cores, .counters, .routes,
      .runs, .streams, .channels, .ports, .cascade, .leases, .buckets, .tagHomes, .health, .tally,
      .packing, .flashTally])
      (State.leaveCascade s id c) := by
  unfold State.leaveCascade
  extract_lets -merge -underBinder +onlyGivenNames x
  try clear_value x
  extract_lets -merge -underBinder +onlyGivenNames x
  try clear_value x
  refine Frame.ite ?_ ?_
  · refine Frame.step (State.fail_frame ..) (by decide) ?_
    first | with_reducible exact Frame.refl | assumption
  · extract_lets -merge -underBinder +onlyGivenNames x
    try clear_value x
    extract_lets -merge -underBinder +onlyGivenNames x
    refine Frame.cut (x := x) (fun hx => ?_) ?_
    · try clear_value x
      extract_lets -merge -underBinder +onlyGivenNames x
      try clear_value x
      refine Frame.step (State.complete_frame ..) (by decide) ?_
      refine Frame.step (State.removeMembers_frame ..) (by decide) ?_
      first | with_reducible exact Frame.refl | assumption
    · subst x
      refine Frame.step (State.sendAll_frame ..) (by decide) ?_
      first | with_reducible exact Frame.refl | assumption

theorem execMemberRenewTimeout_frame (device) (s : State) :
    s.FrameOut (fields [.outbox, .ports, .cascade])
      (execMemberRenewTimeout device s) := by
  unfold execMemberRenewTimeout
  refine FrameOut.checked ?_
  refine Frame.onlyIf ?_ ?_
  · first | with_reducible exact Frame.refl | assumption
  · refine Frame.ite ?_ ?_
    · refine Frame.step (State.markLost_frame ..) (by decide) ?_
      first | with_reducible exact Frame.refl | assumption
    · first | with_reducible exact Frame.refl | assumption

theorem execLeaveCascade_frame (id) (s : State) :
    s.FrameOut (fieldsBut [.pending, .nextCmd, .turn, .config, .mem, .regions, .refreshing, .nextRun, .security,
      .mgt, .time, .power, .flash])
      (execLeaveCascade id s) := by
  unfold execLeaveCascade
  refine FrameOut.opcodeRow (by decide) (fun _ _ _ => ?_)
  refine Frame.step (State.leaveCascade_frame ..) (by decide) ?_
  first | with_reducible exact Frame.refl | assumption

theorem execMemberCommit_frame (s : State) : s.FrameOut (fields [.cascade]) (execMemberCommit s) := by
  unfold execMemberCommit
  refine FrameOut.memberRow (by decide) (fun _ _ _ => ?_)
  refine Frame.withSome ?_ (fun _ => ?_)
  · first | with_reducible exact Frame.refl | assumption
  · refine Frame.ite ?_ ?_
    · refine Frame.step (State.join_frame ..) (by decide) ?_
      first | with_reducible exact Frame.refl | assumption
    · first | with_reducible exact Frame.refl | assumption

theorem State.remoteClaim_frame (s : State) (m) :
    s.Frame (fields [.outbox, .cores, .counters, .ports, .cascade, .tally, .flashTally])
      (State.remoteClaim s m) := by
  unfold State.remoteClaim
  extract_lets -merge -underBinder +onlyGivenNames x
  try clear_value x
  extract_lets -merge -underBinder +onlyGivenNames x
  try clear_value x
  extract_lets -merge -underBinder +onlyGivenNames x
  try clear_value x
  refine Frame.ite ?_ ?_
  · first | with_reducible exact Frame.refl | assumption
  · split
    · refine Frame.step (State.answerClaim_frame ..) (by decide) ?_
      first
        | with_reducible exact Frame.refl
        | assumption
        | (refine Frame.step (Frame.snd ‹_› (State.claim_frame ..)) (by decide) ?_
           first | with_reducible exact Frame.refl | assumption)

theorem State.FrameOut.messageRow {w : Nat} {s : State} {n : Nat} {f : Message → State → State}
    (hs : fields [.cascade] &&& w = fields [.cascade])
    (hf : ∀ a t, s.Frame w t → s.Frame w (f a t)) : s.FrameOut w (Machine.messageRow n s f) := by
  refine FrameOut.next (Frame.onlyIf Frame.refl ?_)
  unfold Machine.withSome
  split
  · exact Frame.refl
  · rename_i e
    exact hf _ _ (Frame.step (State.takeArrived_frame e) hs Frame.refl)

theorem State.relayAnswered_frame (s : State) (m) :
    s.Frame (fields [.cmds, .ended, .cascade, .tally, .flashTally])
      (State.relayAnswered s m) := by
  unfold State.relayAnswered
  extract_lets -merge -underBinder +onlyGivenNames x
  try clear_value x
  split
  · first | with_reducible exact Frame.refl | assumption
  · refine Frame.ite ?_ ?_
    · first | with_reducible exact Frame.refl | assumption
    · extract_lets -merge -underBinder +onlyGivenNames x
      try clear_value x
      extract_lets -merge -underBinder +onlyGivenNames x
      try clear_value x
      extract_lets -merge -underBinder +onlyGivenNames x
      try clear_value x
      extract_lets -merge -underBinder +onlyGivenNames x
      try clear_value x
      extract_lets -merge -underBinder +onlyGivenNames x
      refine Frame.cut (x := x) (fun hx => ?_) ?_
      · try clear_value x
        extract_lets -merge -underBinder +onlyGivenNames x
        refine Frame.cut (x := x) (fun hx => ?_) ?_
        · try clear_value x
          refine Frame.step (State.onCmd_frame ..) (by decide) ?_
          refine Frame.step (State.endRaw_frame ..) (by decide) ?_
          first | with_reducible exact Frame.refl | assumption
        · subst x
          refine Frame.ite ?_ ?_
          · first | with_reducible exact Frame.refl | assumption
          · refine Frame.step (State.result_frame ..) (by decide) ?_
            first | with_reducible exact Frame.refl | assumption
      · subst x
        refine Frame.ite ?_ ?_
        · refine Frame.upd_cascade (by decide) ?_
          first | with_reducible exact Frame.refl | assumption
        · first | with_reducible exact Frame.refl | assumption

theorem execRelayReply_frame (s : State) :
    s.FrameOut (fields [.cmds, .ended, .cascade, .tally, .flashTally])
      (execRelayReply s) := by
  unfold execRelayReply
  refine FrameOut.messageRow (by decide) (fun _ _ _ => ?_)
  refine Frame.step (State.relayAnswered_frame ..) (by decide) ?_
  first | with_reducible exact Frame.refl | assumption

theorem State.renewBox_frame (s : State) (core) (box) (d) :
    s.Frame (fields [.leases])
      (State.renewBox s core box d) := by
  unfold State.renewBox
  refine Frame.upd_leases (by decide) ?_
  first | with_reducible exact Frame.refl | assumption

theorem State.tagReleased_frame (s : State) (tag) (d) (aborted) :
    s.Frame (fields [.outbox, .cmds, .ended, .cores, .ports, .cascade, .leases, .buckets, .tagHomes, .tally,
      .flashTally])
      (State.tagReleased s tag d aborted) := by
  unfold State.tagReleased
  split
  · first | with_reducible exact Frame.refl | assumption
  · refine Frame.ite ?_ ?_
    · refine Frame.upd_tagHomes (by decide) ?_
      first | with_reducible exact Frame.refl | assumption
    · refine Frame.ite ?_ ?_
      · refine Frame.step (State.revokeTag_frame ..) (by decide) ?_
        first | with_reducible exact Frame.refl | assumption
      · refine Frame.step (State.tagCompleted_frame ..) (by decide) ?_
        first | with_reducible exact Frame.refl | assumption

theorem State.relayed_frame (s : State) (m) :
    s.Frame (fields [.outbox, .fns, .cmds, .nextCmd, .ended, .memUsed, .links, .tally, .flashTally])
      (State.relayed s m) := by
  unfold State.relayed
  refine Frame.ite ?_ ?_
  · first | with_reducible exact Frame.refl | assumption
  · extract_lets -merge -underBinder +onlyGivenNames x
    try clear_value x
    extract_lets -merge -underBinder +onlyGivenNames x
    try clear_value x
    extract_lets -merge -underBinder +onlyGivenNames x
    try clear_value x
    extract_lets -merge -underBinder +onlyGivenNames x
    try clear_value x
    refine Frame.step (State.takeCmd_frame ..) (by decide) ?_
    first | with_reducible exact Frame.refl | assumption

theorem execRelayCmd_frame (s : State) :
    s.FrameOut (fields [.outbox, .fns, .cmds, .nextCmd, .ended, .memUsed, .links, .cascade, .tally, .flashTally])
      (execRelayCmd s) := by
  unfold execRelayCmd
  refine FrameOut.messageRow (by decide) (fun _ _ _ => ?_)
  refine Frame.step (State.relayed_frame ..) (by decide) ?_
  first | with_reducible exact Frame.refl | assumption

theorem State.claimAnswered_frame (s : State) (m) :
    s.Frame (fields [.cores, .counters, .tally, .flashTally])
      (State.claimAnswered s m) := by
  unfold State.claimAnswered
  extract_lets -merge -underBinder +onlyGivenNames x
  try clear_value x
  split
  · first | with_reducible exact Frame.refl | assumption
  · refine Frame.ite ?_ ?_
    · first | with_reducible exact Frame.refl | assumption
    · refine Frame.step (State.answerArray_frame ..) (by decide) ?_
      first | with_reducible exact Frame.refl | assumption

theorem execClaimReply_frame (s : State) :
    s.FrameOut (fields [.cores, .counters, .cascade, .tally, .flashTally])
      (execClaimReply s) := by
  unfold execClaimReply
  refine FrameOut.messageRow (by decide) (fun _ _ _ => ?_)
  refine Frame.ite ?_ ?_
  · first | with_reducible exact Frame.refl | assumption
  · refine Frame.step (State.claimAnswered_frame ..) (by decide) ?_
    first | with_reducible exact Frame.refl | assumption

theorem State.releaseMark_frame (s : State) (core) (mark) :
    s.Frame (fields [.outbox, .cores, .counters, .ports, .cascade, .tally, .flashTally])
      (State.releaseMark s core mark) := by
  unfold State.releaseMark
  split
  · first | with_reducible exact Frame.refl | assumption
  · refine Frame.ite ?_ ?_
    · first | with_reducible exact Frame.refl | assumption
    · refine Frame.ite ?_ ?_
      · refine Frame.step (State.serveHeld_frame ..) (by decide) ?_
        refine Frame.step (State.setCounter_frame ..) (by decide) ?_
        first | with_reducible exact Frame.refl | assumption
      · refine Frame.step (State.send_frame ..) (by decide) ?_
        first | with_reducible exact Frame.refl | assumption

theorem State.writeAnswered_frame (s : State) (m) :
    s.Frame (fields [.outbox, .freeCount, .parts, .cmds, .ended, .cores, .counters, .routes, .runs, .streams,
      .channels, .ports, .cascade, .leases, .tally, .flashTally])
      (State.writeAnswered s m) := by
  unfold State.writeAnswered
  split
  · first | with_reducible exact Frame.refl | assumption
  · split
    · refine Frame.step (State.releaseMark_frame ..) (by decide) ?_
      first | with_reducible exact Frame.refl | assumption
    · refine Frame.step (State.failRun_frame ..) (by decide) ?_
      first | with_reducible exact Frame.refl | assumption
    · refine Frame.step (State.notice_frame ..) (by decide) ?_
      first | with_reducible exact Frame.refl | assumption
    · first | with_reducible exact Frame.refl | assumption

theorem State.remoteWrite_frame (s : State) (m) :
    s.Frame (fields [.outbox, .parts, .cores, .runs, .ports, .cascade, .leases, .tally, .flashTally])
      (State.remoteWrite s m) := by
  unfold State.remoteWrite
  extract_lets -merge -underBinder +onlyGivenNames x
  try clear_value x
  refine Frame.ite ?_ ?_
  · refine Frame.step (State.send_frame ..) (by decide) ?_
    first | with_reducible exact Frame.refl | assumption
  · extract_lets -merge -underBinder +onlyGivenNames x
    try clear_value x
    split
    · refine Frame.step (State.renewBox_frame ..) (by decide) ?_
      first
        | with_reducible exact Frame.refl
        | assumption
        | (refine Frame.step (Frame.snd ‹_› (State.offerWrite_frame ..)) (by decide) ?_
           first | with_reducible exact Frame.refl | assumption)
    · refine Frame.step (State.send_frame ..) (by decide) ?_
      first
        | with_reducible exact Frame.refl
        | assumption
        | (refine Frame.step (Frame.snd ‹_› (State.offerWrite_frame ..)) (by decide) ?_
           first | with_reducible exact Frame.refl | assumption)
    · refine Frame.step (State.send_frame ..) (by decide) ?_
      first
        | with_reducible exact Frame.refl
        | assumption
        | (refine Frame.step (Frame.snd ‹_› (State.offerWrite_frame ..)) (by decide) ?_
           first | with_reducible exact Frame.refl | assumption)

theorem execLbAck_frame (s : State) :
    s.FrameOut (fields [.outbox, .freeCount, .parts, .cmds, .ended, .cores, .counters, .routes, .runs, .streams,
      .channels, .ports, .cascade, .leases, .tally, .flashTally])
      (execLbAck s) := by
  unfold execLbAck
  refine FrameOut.messageRow (by decide) (fun _ _ _ => ?_)
  refine Frame.ite ?_ ?_
  · first | with_reducible exact Frame.refl | assumption
  · refine Frame.step (State.writeAnswered_frame ..) (by decide) ?_
    first | with_reducible exact Frame.refl | assumption

theorem State.claimReleased_frame (s : State) (n) (v) (d) :
    s.Frame (fields [.outbox, .cores, .counters, .ports, .cascade, .tally, .flashTally])
      (State.claimReleased s n v d) := by
  unfold State.claimReleased
  extract_lets -merge -underBinder +onlyGivenNames x
  try clear_value x
  refine Frame.ite ?_ ?_
  · first | with_reducible exact Frame.refl | assumption
  · refine Frame.step (State.serveHeld_frame ..) (by decide) ?_
    refine Frame.step (State.setCounter_frame ..) (by decide) ?_
    first | with_reducible exact Frame.refl | assumption

theorem execPlinkRelease_frame (s : State) :
    s.FrameOut (fields [.outbox, .cmds, .ended, .cores, .counters, .ports, .cascade, .leases, .buckets, .tagHomes,
      .tally, .flashTally])
      (execPlinkRelease s) := by
  unfold execPlinkRelease
  refine FrameOut.messageRow (by decide) (fun _ _ _ => ?_)
  refine Frame.ite ?_ ?_
  · refine Frame.step (State.tagReleased_frame ..) (by decide) ?_
    first | with_reducible exact Frame.refl | assumption
  · refine Frame.step (State.claimReleased_frame ..) (by decide) ?_
    first | with_reducible exact Frame.refl | assumption

theorem execPlinkClaim_frame (s : State) :
    s.FrameOut (fields [.outbox, .cores, .counters, .ports, .cascade, .tally, .flashTally])
      (execPlinkClaim s) := by
  unfold execPlinkClaim
  refine FrameOut.messageRow (by decide) (fun _ _ _ => ?_)
  refine Frame.step (State.remoteClaim_frame ..) (by decide) ?_
  first | with_reducible exact Frame.refl | assumption

theorem execLbWrite_frame (s : State) :
    s.FrameOut (fields [.outbox, .parts, .cores, .runs, .ports, .cascade, .leases, .tally, .flashTally])
      (execLbWrite s) := by
  unfold execLbWrite
  refine FrameOut.messageRow (by decide) (fun _ _ _ => ?_)
  refine Frame.step (State.remoteWrite_frame ..) (by decide) ?_
  first | with_reducible exact Frame.refl | assumption

theorem State.dropReduce_frame (s : State) (m) : s.Frame (fields [.tally, .flashTally]) (State.dropReduce s m) := by
  unfold State.dropReduce
  refine Frame.ite ?_ ?_
  · first | with_reducible exact Frame.refl | assumption
  · refine Frame.step (State.count_frame ..) (by decide) ?_
    first | with_reducible exact Frame.refl | assumption

theorem State.countSum_frame (s : State) (core) (x) :
    s.Frame (fields [.tally, .flashTally])
      (State.countSum s core x) := by
  unfold State.countSum
  extract_lets -merge -underBinder +onlyGivenNames x
  refine Frame.cut (x := x) (fun hx => ?_) ?_
  · try clear_value x
    refine Frame.step (State.countCore_frame ..) (by decide) ?_
    refine Frame.step (State.countCore_frame ..) (by decide) ?_
    first | with_reducible exact Frame.refl | assumption
  · subst x
    refine Frame.step (State.countCore_frame ..) (by decide) ?_
    refine Frame.step (State.countCore_frame ..) (by decide) ?_
    first | with_reducible exact Frame.refl | assumption

theorem State.sendChunk_frame (s : State) (tag) (redo) (sl) (stage) (c) (dst) (x) :
    s.Frame (fields [.outbox, .ports, .cascade, .buckets, .tally, .flashTally])
      (State.sendChunk s tag redo sl stage c dst x) := by
  unfold State.sendChunk
  split
  · first | with_reducible exact Frame.refl | assumption
  · extract_lets -merge -underBinder +onlyGivenNames x
    try clear_value x
    refine Frame.ite ?_ ?_
    · first | with_reducible exact Frame.refl | assumption
    · extract_lets -merge -underBinder +onlyGivenNames x
      try clear_value x
      extract_lets -merge -underBinder +onlyGivenNames x
      refine Frame.cut (x := x) (fun hx => ?_) ?_
      · try clear_value x
        refine Frame.step (State.sendReduce_frame ..) (by decide) ?_
        refine Frame.step (State.countSum_frame ..) (by decide) ?_
        first | with_reducible exact Frame.refl | assumption
      · subst x
        refine Frame.upd_buckets (by decide) ?_
        first | with_reducible exact Frame.refl | assumption

theorem State.broadcast_frame (s : State) (tag) (redo) (sl) (c) (x) :
    s.Frame (fields [.outbox, .ports, .cascade, .buckets, .tally, .flashTally])
      (State.broadcast s tag redo sl c x) := by
  unfold State.broadcast
  extract_lets -merge -underBinder +onlyGivenNames x
  try clear_value x
  extract_lets -merge -underBinder +onlyGivenNames x
  try clear_value x
  extract_lets -merge -underBinder +onlyGivenNames x
  try clear_value x
  extract_lets -merge -underBinder +onlyGivenNames x
  try clear_value x
  refine Frame.foldl (fun _ _ _ => ?_) ?_
  · refine Frame.step (State.sendChunk_frame ..) (by decide) ?_
    first | with_reducible exact Frame.refl | assumption
  · first | with_reducible exact Frame.refl | assumption

theorem State.holderWork_frame (s : State) (tag) (redo) (sl) (c) (b) :
    s.Frame (fields [.outbox, .ports, .cascade, .buckets, .tally, .flashTally])
      (State.holderWork s tag redo sl c b) := by
  unfold State.holderWork
  extract_lets -merge -underBinder +onlyGivenNames x
  try clear_value x
  extract_lets -merge -underBinder +onlyGivenNames x
  try clear_value x
  split
  · first | with_reducible exact Frame.refl | assumption
  · refine Frame.ite ?_ ?_
    · refine Frame.step (State.countSum_frame ..) (by decide) ?_
      refine Frame.upd_buckets (by decide) ?_
      first | with_reducible exact Frame.refl | assumption
    · refine Frame.step (State.sendChunk_frame ..) (by decide) ?_
      first | with_reducible exact Frame.refl | assumption

theorem State.sendLevel_frame (s : State) (tag) (redo) (sl) (c) (b) (l) :
    s.Frame (fields [.outbox, .ports, .cascade, .buckets, .tally, .flashTally])
      (State.sendLevel s tag redo sl c b l) := by
  unfold State.sendLevel
  extract_lets -merge -underBinder +onlyGivenNames x
  try clear_value x
  extract_lets -merge -underBinder +onlyGivenNames x
  try clear_value x
  extract_lets -merge -underBinder +onlyGivenNames x
  try clear_value x
  extract_lets -merge -underBinder +onlyGivenNames x
  try clear_value x
  split
  · refine Frame.ite ?_ ?_
    · refine Frame.step (State.sendChunk_frame ..) (by decide) ?_
      first | with_reducible exact Frame.refl | assumption
    · first | with_reducible exact Frame.refl | assumption
  · first | with_reducible exact Frame.refl | assumption

theorem State.chunkWork_frame (s : State) (tag) (redo) (sl) (c) :
    s.Frame (fields [.outbox, .ports, .cascade, .buckets, .tally, .flashTally])
      (State.chunkWork s tag redo sl c) := by
  unfold State.chunkWork
  split
  · first | with_reducible exact Frame.refl | assumption
  · refine Frame.ite ?_ ?_
    · first | with_reducible exact Frame.refl | assumption
    · extract_lets -merge -underBinder +onlyGivenNames x
      refine Frame.cut (x := x) (fun hx => ?_) ?_
      · try clear_value x
        extract_lets -merge -underBinder +onlyGivenNames x
        try clear_value x
        split
        · first | with_reducible exact Frame.refl | assumption
        · extract_lets -merge -underBinder +onlyGivenNames x
          refine Frame.cut (x := x) (fun hx => ?_) ?_
          · try clear_value x
            split
            · refine Frame.ite ?_ ?_
              · refine Frame.step (State.broadcast_frame ..) (by decide) ?_
                first | with_reducible exact Frame.refl | assumption
              · first | with_reducible exact Frame.refl | assumption
            · first | with_reducible exact Frame.refl | assumption
          · subst x
            refine Frame.ite ?_ ?_
            · refine Frame.step (State.holderWork_frame ..) (by decide) ?_
              first | with_reducible exact Frame.refl | assumption
            · first | with_reducible exact Frame.refl | assumption
      · subst x
        refine Frame.foldl (fun _ _ _ => ?_) ?_
        · refine Frame.step (State.sendLevel_frame ..) (by decide) ?_
          first | with_reducible exact Frame.refl | assumption
        · first | with_reducible exact Frame.refl | assumption

theorem State.writeDest_frame {s t : State} {p a values} (h : State.writeDest s p a values = some t) :
    s.Frame (fields [.mem, .memUsed]) t := by
  unfold State.writeDest at h
  refine Frame.step (State.writeTile_frame h) (by decide) ?_
  first | with_reducible exact Frame.refl | assumption

theorem State.writeBucket_frame {s t : State} {b values} (h : s.writeBucket b values = some t) :
    s.Frame (fields [.mem, .memUsed]) t := by
  unfold State.writeBucket at h
  rw [Option.bind_eq_some_iff] at h
  obtain ⟨u, hu, h⟩ := h
  have h1 := Frame.foldlM (w := fields [.mem, .memUsed])
    (fun _ _ _ hx e => hx.trans ((State.writeDest_frame e).mono (by decide))) Frame.refl u hu
  split at h
  · cases h; exact h1
  · exact h1.trans ((State.writeTile_frame h).mono (by decide))

theorem State.finishBucket_frame (s : State) (tag) (b) :
    s.Frame (fields [.outbox, .parts, .cmds, .ended, .mem, .memUsed, .cores, .counters, .routes, .streams,
      .channels, .ports, .cascade, .leases, .buckets, .tally, .flashTally])
      (State.finishBucket s tag b) := by
  unfold State.finishBucket
  extract_lets -merge -underBinder +onlyGivenNames x
  try clear_value x
  extract_lets -merge -underBinder +onlyGivenNames x
  try clear_value x
  split
  · refine Frame.step (State.settle_frame ..) (by decide) ?_
    refine Frame.step (State.fail_frame ..) (by decide) ?_
    refine Frame.step (State.releaseTag_frame ..) (by decide) ?_
    refine Frame.step (State.dropBucket_frame ..) (by decide) ?_
    refine Frame.step (State.refusal_frame ..) (by decide) ?_
    first
      | with_reducible exact Frame.refl
      | assumption
      | (refine Frame.step (State.writeBucket_frame ‹_›) (by decide) ?_
         first | with_reducible exact Frame.refl | assumption)
  · refine Frame.step (State.settle_frame ..) (by decide) ?_
    refine Frame.step (State.complete_frame ..) (by decide) ?_
    refine Frame.step (State.releaseTag_frame ..) (by decide) ?_
    refine Frame.step (State.dropBucket_frame ..) (by decide) ?_
    refine Frame.step (State.countFor_frame ..) (by decide) ?_
    refine Frame.step (State.count_frame ..) (by decide) ?_
    first
      | with_reducible exact Frame.refl
      | assumption
      | (refine Frame.step (State.writeBucket_frame ‹_›) (by decide) ?_
         first | with_reducible exact Frame.refl | assumption)

theorem State.progress_frame (s : State) (tag) :
    s.Frame (fields [.outbox, .parts, .cmds, .ended, .mem, .memUsed, .cores, .counters, .routes, .streams,
      .channels, .ports, .cascade, .leases, .buckets, .tally, .flashTally])
      (State.progress s tag) := by
  unfold State.progress
  split
  · first | with_reducible exact Frame.refl | assumption
  · extract_lets -merge -underBinder +onlyGivenNames x
    refine Frame.cut (x := x) (fun hx => ?_) ?_
    · try clear_value x
      extract_lets -merge -underBinder +onlyGivenNames x
      refine Frame.cut (x := x) (fun hx => ?_) ?_
      · try clear_value x
        split
        · first | with_reducible exact Frame.refl | assumption
        · refine Frame.ite ?_ ?_
          · refine Frame.step (State.finishBucket_frame ..) (by decide) ?_
            first | with_reducible exact Frame.refl | assumption
          · first | with_reducible exact Frame.refl | assumption
      · subst x
        refine Frame.foldl (fun _ _ _ => ?_) ?_
        · refine Frame.step (State.chunkWork_frame ..) (by decide) ?_
          first | with_reducible exact Frame.refl | assumption
        · first | with_reducible exact Frame.refl | assumption
    · subst x
      refine Frame.foldl (fun _ _ _ => ?_) ?_
      · refine Frame.step (State.chunkWork_frame ..) (by decide) ?_
        first | with_reducible exact Frame.refl | assumption
      · first | with_reducible exact Frame.refl | assumption

theorem State.spoilBucket_frame (s : State) (tag) (b) :
    s.Frame (fields [.outbox, .parts, .cmds, .ended, .cores, .counters, .routes, .streams, .channels, .ports,
      .cascade, .leases, .buckets, .tally, .flashTally])
      (State.spoilBucket s tag b) := by
  unfold State.spoilBucket
  refine Frame.step (State.settle_frame ..) (by decide) ?_
  refine Frame.step (State.fail_frame ..) (by decide) ?_
  refine Frame.step (State.releaseTag_frame ..) (by decide) ?_
  refine Frame.step (State.dropBucket_frame ..) (by decide) ?_
  first | with_reducible exact Frame.refl | assumption

theorem State.chunkArrives_frame (s : State) (m) (tag) (redo) (stages) :
    s.Frame (fields [.outbox, .parts, .cmds, .ended, .mem, .memUsed, .cores, .counters, .routes, .streams,
      .channels, .ports, .cascade, .leases, .buckets, .tally, .flashTally])
      (State.chunkArrives s m tag redo stages) := by
  unfold State.chunkArrives
  extract_lets -merge -underBinder +onlyGivenNames x
  try clear_value x
  extract_lets -merge -underBinder +onlyGivenNames x
  try clear_value x
  extract_lets -merge -underBinder +onlyGivenNames x
  try clear_value x
  split
  · refine Frame.step (State.dropReduce_frame ..) (by decide) ?_
    first | with_reducible exact Frame.refl | assumption
  · refine Frame.ite ?_ ?_
    · refine Frame.step (State.dropReduce_frame ..) (by decide) ?_
      first | with_reducible exact Frame.refl | assumption
    · refine Frame.ite ?_ ?_
      · refine Frame.step (State.spoilBucket_frame ..) (by decide) ?_
        first | with_reducible exact Frame.refl | assumption
      · refine Frame.step (State.progress_frame ..) (by decide) ?_
        refine Frame.upd_buckets (by decide) ?_
        first | with_reducible exact Frame.refl | assumption

theorem State.FrameOut.reduceRow {w : Nat} {s : State} {n : Nat} {f : Message → Nat → State → State}
    (hs : fields [.cascade] &&& w = fields [.cascade])
    (hf : ∀ a b t, s.Frame w t → s.Frame w (f a b t)) : s.FrameOut w (Machine.reduceRow n s f) := by
  refine FrameOut.next (Frame.onlyIf Frame.refl ?_)
  unfold Machine.withSome
  split
  · exact Frame.refl
  · rename_i e
    exact hf _ _ _ (Frame.step (State.takeArrived_frame e) hs Frame.refl)

theorem execReduceFinal_frame (s : State) :
    s.FrameOut (fields [.outbox, .parts, .cmds, .ended, .mem, .memUsed, .cores, .counters, .routes, .streams,
      .channels, .ports, .cascade, .leases, .buckets, .tally, .flashTally])
      (execReduceFinal s) := by
  unfold execReduceFinal
  refine FrameOut.reduceRow (by decide) (fun _ _ _ _ => ?_)
  refine Frame.step (State.chunkArrives_frame ..) (by decide) ?_
  first | with_reducible exact Frame.refl | assumption

theorem State.readSources_frame (s : State) (p : Nat) (src : List Nat) :
    s.Frame (fields [.memUsed, .links, .runs, .tally, .flashTally]) (s.readSources p src).1 := by
  induction src generalizing s with
  | nil => exact Frame.refl
  | cons a rest ih =>
    unfold State.readSources
    split
    · rename_i e
      exact (Frame.fst e (State.useTile_frame ..)).mono (by decide)
    · rename_i e
      have h := (Frame.fst e (State.useTile_frame ..)).mono (w := fields [.memUsed, .links, .runs, .tally, .flashTally]) (by decide)
      refine Frame.ite1 h ?_
      split
      · rename_i e; exact h.trans (Frame.fst e (ih ..))
      · rename_i e; exact h.trans (Frame.fst e (ih ..))

theorem State.registerBucket_frame (s : State) (id) (p) (core) (k) (h) (dst) (own) (es) (crc) :
    s.Frame (fields [.outbox, .cores, .ports, .cascade, .buckets, .tally, .flashTally])
      (State.registerBucket s id p core k h dst own es crc) := by
  unfold State.registerBucket
  extract_lets -merge -underBinder +onlyGivenNames x
  try clear_value x
  extract_lets -merge -underBinder +onlyGivenNames x
  try clear_value x
  extract_lets -merge -underBinder +onlyGivenNames x
  refine Frame.cut (x := x) (fun hx => ?_) ?_
  · try clear_value x
    refine Frame.step (State.sendReduce_frame ..) (by decide) ?_
    refine Frame.upd_buckets (by decide) ?_
    first | with_reducible exact Frame.refl | assumption
  · subst x
    refine Frame.step (State.onCore_frame ..) (by decide) ?_
    first | with_reducible exact Frame.refl | assumption

theorem State.openDests_frame {s t : State} {p dst} (h : s.openDests p dst = some t) :
    s.Frame (fields [.mem, .memUsed]) t :=
  Frame.foldlM (fun _ _ _ hx e => hx.trans ((State.openTile_frame e).mono (by decide))) Frame.refl t h

theorem State.bucketLists_frame (s : State) (p) (k) :
    s.Frame (fields [.memUsed, .links, .tally, .flashTally])
      (State.bucketLists s p k).1 := by
  unfold State.bucketLists
  extract_lets -merge -underBinder +onlyGivenNames x
  try clear_value x
  split
  · refine Frame.mk1 ?_
    first
      | with_reducible exact Frame.refl
      | assumption
      | (refine Frame.step (Frame.fst ‹_› (State.readList_frame ..)) (by decide) ?_
         first | with_reducible exact Frame.refl | assumption)
  · split
    · refine Frame.mk1 ?_
      first
        | with_reducible exact Frame.refl
        | assumption
        | (refine Frame.step (Frame.fst ‹_› (State.readList_frame ..)) (by decide) ?_
           first
             | with_reducible exact Frame.refl
             | assumption
             | (refine Frame.step (Frame.fst ‹_› (State.readList_frame ..)) (by decide) ?_
                first | with_reducible exact Frame.refl | assumption))
        | (refine Frame.step (Frame.fst ‹_› (State.readList_frame ..)) (by decide) ?_
           first
             | with_reducible exact Frame.refl
             | assumption
             | (refine Frame.step (Frame.fst ‹_› (State.readList_frame ..)) (by decide) ?_
                first | with_reducible exact Frame.refl | assumption))
    · refine Frame.ite1 ?_ ?_
      · refine Frame.mk1 ?_
        refine Frame.step (State.refusal_frame ..) (by decide) ?_
        first
          | with_reducible exact Frame.refl
          | assumption
          | (refine Frame.step (Frame.fst ‹_› (State.readList_frame ..)) (by decide) ?_
             first
               | with_reducible exact Frame.refl
               | assumption
               | (refine Frame.step (Frame.fst ‹_› (State.readList_frame ..)) (by decide) ?_
                  first | with_reducible exact Frame.refl | assumption))
          | (refine Frame.step (Frame.fst ‹_› (State.readList_frame ..)) (by decide) ?_
             first
               | with_reducible exact Frame.refl
               | assumption
               | (refine Frame.step (Frame.fst ‹_› (State.readList_frame ..)) (by decide) ?_
                  first | with_reducible exact Frame.refl | assumption))
      · refine Frame.mk1 ?_
        first
          | with_reducible exact Frame.refl
          | assumption
          | (refine Frame.step (Frame.fst ‹_› (State.readList_frame ..)) (by decide) ?_
             first
               | with_reducible exact Frame.refl
               | assumption
               | (refine Frame.step (Frame.fst ‹_› (State.readList_frame ..)) (by decide) ?_
                  first | with_reducible exact Frame.refl | assumption))
          | (refine Frame.step (Frame.fst ‹_› (State.readList_frame ..)) (by decide) ?_
             first
               | with_reducible exact Frame.refl
               | assumption
               | (refine Frame.step (Frame.fst ‹_› (State.readList_frame ..)) (by decide) ?_
                  first | with_reducible exact Frame.refl | assumption))

theorem State.readExponents_frame (s : State) (p) (a) (blocks) (bs16) :
    s.Frame (fields [.memUsed, .links, .runs, .tally, .flashTally])
      (State.readExponents s p a blocks bs16).1 := by
  unfold State.readExponents
  refine Frame.ite1 ?_ ?_
  · refine Frame.mk1 ?_
    first | with_reducible exact Frame.refl | assumption
  · split
    · refine Frame.mk1 ?_
      first
        | with_reducible exact Frame.refl
        | assumption
        | (refine Frame.step (Frame.fst ‹_› (State.useTile_frame ..)) (by decide) ?_
           first | with_reducible exact Frame.refl | assumption)
    · refine Frame.mk1 ?_
      first
        | with_reducible exact Frame.refl
        | assumption
        | (refine Frame.step (Frame.fst ‹_› (State.useTile_frame ..)) (by decide) ?_
           first | with_reducible exact Frame.refl | assumption)

theorem State.readBucket_frame (s : State) (p) (k) :
    s.Frame (fields [.memUsed, .links, .runs, .tally, .flashTally])
      (State.readBucket s p k).1 := by
  unfold State.readBucket
  split
  · refine Frame.mk1 ?_
    first
      | with_reducible exact Frame.refl
      | assumption
      | (refine Frame.step (Frame.fst ‹_› (State.bucketLists_frame ..)) (by decide) ?_
         first | with_reducible exact Frame.refl | assumption)
  · refine Frame.ite1 ?_ ?_
    · refine Frame.mk1 ?_
      first
        | with_reducible exact Frame.refl
        | assumption
        | (refine Frame.step (Frame.fst ‹_› (State.bucketLists_frame ..)) (by decide) ?_
           first | with_reducible exact Frame.refl | assumption)
    · split
      · refine Frame.mk1 ?_
        first
          | with_reducible exact Frame.refl
          | assumption
          | (refine Frame.step (Frame.fst ‹_› (State.readSources_frame ..)) (by decide) ?_
             first
               | with_reducible exact Frame.refl
               | assumption
               | (refine Frame.step (Frame.fst ‹_› (State.bucketLists_frame ..)) (by decide) ?_
                  first | with_reducible exact Frame.refl | assumption))
          | (refine Frame.step (Frame.fst ‹_› (State.bucketLists_frame ..)) (by decide) ?_
             first
               | with_reducible exact Frame.refl
               | assumption
               | (refine Frame.step (Frame.fst ‹_› (State.readSources_frame ..)) (by decide) ?_
                  first | with_reducible exact Frame.refl | assumption))
      · split
        · refine Frame.mk1 ?_
          first
            | with_reducible exact Frame.refl
            | assumption
            | (refine Frame.step (Frame.fst ‹_› (State.readExponents_frame ..)) (by decide) ?_
               first
                 | with_reducible exact Frame.refl
                 | assumption
                 | (refine Frame.step (Frame.fst ‹_› (State.readSources_frame ..)) (by decide) ?_
                    first
                      | with_reducible exact Frame.refl
                      | assumption
                      | (refine Frame.step (Frame.fst ‹_› (State.bucketLists_frame ..)) (by decide) ?_
                         first | with_reducible exact Frame.refl | assumption))
                 | (refine Frame.step (Frame.fst ‹_› (State.bucketLists_frame ..)) (by decide) ?_
                    first
                      | with_reducible exact Frame.refl
                      | assumption
                      | (refine Frame.step (Frame.fst ‹_› (State.readSources_frame ..)) (by decide) ?_
                         first | with_reducible exact Frame.refl | assumption)))
            | (refine Frame.step (Frame.fst ‹_› (State.readSources_frame ..)) (by decide) ?_
               first
                 | with_reducible exact Frame.refl
                 | assumption
                 | (refine Frame.step (Frame.fst ‹_› (State.readExponents_frame ..)) (by decide) ?_
                    first
                      | with_reducible exact Frame.refl
                      | assumption
                      | (refine Frame.step (Frame.fst ‹_› (State.bucketLists_frame ..)) (by decide) ?_
                         first | with_reducible exact Frame.refl | assumption))
                 | (refine Frame.step (Frame.fst ‹_› (State.bucketLists_frame ..)) (by decide) ?_
                    first
                      | with_reducible exact Frame.refl
                      | assumption
                      | (refine Frame.step (Frame.fst ‹_› (State.readExponents_frame ..)) (by decide) ?_
                         first | with_reducible exact Frame.refl | assumption)))
            | (refine Frame.step (Frame.fst ‹_› (State.bucketLists_frame ..)) (by decide) ?_
               first
                 | with_reducible exact Frame.refl
                 | assumption
                 | (refine Frame.step (Frame.fst ‹_› (State.readExponents_frame ..)) (by decide) ?_
                    first
                      | with_reducible exact Frame.refl
                      | assumption
                      | (refine Frame.step (Frame.fst ‹_› (State.readSources_frame ..)) (by decide) ?_
                         first | with_reducible exact Frame.refl | assumption))
                 | (refine Frame.step (Frame.fst ‹_› (State.readSources_frame ..)) (by decide) ?_
                    first
                      | with_reducible exact Frame.refl
                      | assumption
                      | (refine Frame.step (Frame.fst ‹_› (State.readExponents_frame ..)) (by decide) ?_
                         first | with_reducible exact Frame.refl | assumption)))
        · refine Frame.mk1 ?_
          first
            | with_reducible exact Frame.refl
            | assumption
            | (refine Frame.step (Frame.fst ‹_› (State.readExponents_frame ..)) (by decide) ?_
               first
                 | with_reducible exact Frame.refl
                 | assumption
                 | (refine Frame.step (Frame.fst ‹_› (State.readSources_frame ..)) (by decide) ?_
                    first
                      | with_reducible exact Frame.refl
                      | assumption
                      | (refine Frame.step (Frame.fst ‹_› (State.bucketLists_frame ..)) (by decide) ?_
                         first | with_reducible exact Frame.refl | assumption))
                 | (refine Frame.step (Frame.fst ‹_› (State.bucketLists_frame ..)) (by decide) ?_
                    first
                      | with_reducible exact Frame.refl
                      | assumption
                      | (refine Frame.step (Frame.fst ‹_› (State.readSources_frame ..)) (by decide) ?_
                         first | with_reducible exact Frame.refl | assumption)))
            | (refine Frame.step (Frame.fst ‹_› (State.readSources_frame ..)) (by decide) ?_
               first
                 | with_reducible exact Frame.refl
                 | assumption
                 | (refine Frame.step (Frame.fst ‹_› (State.readExponents_frame ..)) (by decide) ?_
                    first
                      | with_reducible exact Frame.refl
                      | assumption
                      | (refine Frame.step (Frame.fst ‹_› (State.bucketLists_frame ..)) (by decide) ?_
                         first | with_reducible exact Frame.refl | assumption))
                 | (refine Frame.step (Frame.fst ‹_› (State.bucketLists_frame ..)) (by decide) ?_
                    first
                      | with_reducible exact Frame.refl
                      | assumption
                      | (refine Frame.step (Frame.fst ‹_› (State.readExponents_frame ..)) (by decide) ?_
                         first | with_reducible exact Frame.refl | assumption)))
            | (refine Frame.step (Frame.fst ‹_› (State.bucketLists_frame ..)) (by decide) ?_
               first
                 | with_reducible exact Frame.refl
                 | assumption
                 | (refine Frame.step (Frame.fst ‹_› (State.readExponents_frame ..)) (by decide) ?_
                    first
                      | with_reducible exact Frame.refl
                      | assumption
                      | (refine Frame.step (Frame.fst ‹_› (State.readSources_frame ..)) (by decide) ?_
                         first | with_reducible exact Frame.refl | assumption))
                 | (refine Frame.step (Frame.fst ‹_› (State.readSources_frame ..)) (by decide) ?_
                    first
                      | with_reducible exact Frame.refl
                      | assumption
                      | (refine Frame.step (Frame.fst ‹_› (State.readExponents_frame ..)) (by decide) ?_
                         first | with_reducible exact Frame.refl | assumption)))

theorem execReducePart_frame (s : State) :
    s.FrameOut (fields [.outbox, .parts, .cmds, .ended, .mem, .memUsed, .cores, .counters, .routes, .streams,
      .channels, .ports, .cascade, .leases, .buckets, .tally, .flashTally])
      (execReducePart s) := by
  unfold execReducePart
  refine FrameOut.reduceRow (by decide) (fun _ _ _ _ => ?_)
  refine Frame.step (State.chunkArrives_frame ..) (by decide) ?_
  first | with_reducible exact Frame.refl | assumption

theorem execReduceRegister_frame (s : State) :
    s.FrameOut (fields [.outbox, .cmds, .ended, .cores, .ports, .cascade, .leases, .buckets, .tagHomes, .tally,
      .flashTally])
      (execReduceRegister s) := by
  unfold execReduceRegister
  refine FrameOut.reduceRow (by decide) (fun _ _ _ _ => ?_)
  refine Frame.ite ?_ ?_
  · refine Frame.step (State.dropReduce_frame ..) (by decide) ?_
    first | with_reducible exact Frame.refl | assumption
  · refine Frame.step (State.register_frame ..) (by decide) ?_
    first | with_reducible exact Frame.refl | assumption

theorem State.reduceBucket_frame (s : State) (id) (c) :
    s.Frame (fields [.outbox, .cmds, .ended, .mem, .memUsed, .links, .cores, .runs, .ports, .cascade, .buckets,
      .tally, .flashTally])
      (State.reduceBucket s id c) := by
  unfold State.reduceBucket
  extract_lets -merge -underBinder +onlyGivenNames x
  try clear_value x
  extract_lets -merge -underBinder +onlyGivenNames x
  try clear_value x
  refine Frame.ite ?_ ?_
  · refine Frame.step (State.fail_frame ..) (by decide) ?_
    first | with_reducible exact Frame.refl | assumption
  · split
    · refine Frame.step (State.fail_frame ..) (by decide) ?_
      first
        | with_reducible exact Frame.refl
        | assumption
        | (refine Frame.step (Frame.fst ‹_› (State.readBucket_frame ..)) (by decide) ?_
           first | with_reducible exact Frame.refl | assumption)
    · extract_lets -merge -underBinder +onlyGivenNames x
      try clear_value x
      split
      · refine Frame.step (State.fail_frame ..) (by decide) ?_
        first
          | with_reducible exact Frame.refl
          | assumption
          | (refine Frame.step (Frame.fst ‹_› (State.readBucket_frame ..)) (by decide) ?_
             first | with_reducible exact Frame.refl | assumption)
      · split
        · refine Frame.step (State.fail_frame ..) (by decide) ?_
          refine Frame.step (State.refusal_frame ..) (by decide) ?_
          first
            | with_reducible exact Frame.refl
            | assumption
            | (refine Frame.step (State.openDests_frame ‹_›) (by decide) ?_
               first
                 | with_reducible exact Frame.refl
                 | assumption
                 | (refine Frame.step (Frame.fst ‹_› (State.readBucket_frame ..)) (by decide) ?_
                    first | with_reducible exact Frame.refl | assumption))
            | (refine Frame.step (Frame.fst ‹_› (State.readBucket_frame ..)) (by decide) ?_
               first
                 | with_reducible exact Frame.refl
                 | assumption
                 | (refine Frame.step (State.openDests_frame ‹_›) (by decide) ?_
                    first | with_reducible exact Frame.refl | assumption))
        · refine Frame.step (State.registerBucket_frame ..) (by decide) ?_
          first
            | with_reducible exact Frame.refl
            | assumption
            | (refine Frame.step (State.openDests_frame ‹_›) (by decide) ?_
               first
                 | with_reducible exact Frame.refl
                 | assumption
                 | (refine Frame.step (Frame.fst ‹_› (State.readBucket_frame ..)) (by decide) ?_
                    first | with_reducible exact Frame.refl | assumption))
            | (refine Frame.step (Frame.fst ‹_› (State.readBucket_frame ..)) (by decide) ?_
               first
                 | with_reducible exact Frame.refl
                 | assumption
                 | (refine Frame.step (State.openDests_frame ‹_›) (by decide) ?_
                    first | with_reducible exact Frame.refl | assumption))

theorem execRegistrationTimeout_frame (tag) (s : State) :
    s.FrameOut (fields [.outbox, .cmds, .ended, .cores, .ports, .cascade, .leases, .buckets, .tagHomes, .tally,
      .flashTally])
      (execRegistrationTimeout tag s) := by
  unfold execRegistrationTimeout
  refine FrameOut.next ?_
  refine Frame.withSome ?_ (fun _ => ?_)
  · first | with_reducible exact Frame.refl | assumption
  · refine Frame.ite ?_ ?_
    · refine Frame.step (State.revokeTag_frame ..) (by decide) ?_
      first | with_reducible exact Frame.refl | assumption
    · first | with_reducible exact Frame.refl | assumption

theorem execReduceBucket_frame (id) (s : State) :
    s.FrameOut (fields [.outbox, .fns, .cmds, .ended, .mem, .memUsed, .links, .cores, .runs, .ports, .cascade,
      .buckets, .tally, .flashTally])
      (execReduceBucket id s) := by
  unfold execReduceBucket
  refine FrameOut.opcodeRow (by decide) (fun _ _ _ => ?_)
  refine Frame.step (State.reduceBucket_frame ..) (by decide) ?_
  first | with_reducible exact Frame.refl | assumption

theorem execReduceStart_frame (s : State) :
    s.FrameOut (fields [.outbox, .parts, .cmds, .ended, .mem, .memUsed, .cores, .counters, .routes, .streams,
      .channels, .ports, .cascade, .leases, .buckets, .tally, .flashTally])
      (execReduceStart s) := by
  unfold execReduceStart
  refine FrameOut.reduceRow (by decide) (fun _ _ _ _ => ?_)
  split
  · refine Frame.step (State.dropReduce_frame ..) (by decide) ?_
    first | with_reducible exact Frame.refl | assumption
  · refine Frame.ite ?_ ?_
    · refine Frame.step (State.dropReduce_frame ..) (by decide) ?_
      first | with_reducible exact Frame.refl | assumption
    · refine Frame.step (State.progress_frame ..) (by decide) ?_
      refine Frame.upd_buckets (by decide) ?_
      first | with_reducible exact Frame.refl | assumption

theorem execReduceRedo_frame (s : State) :
    s.FrameOut (fields [.outbox, .parts, .cmds, .ended, .mem, .memUsed, .cores, .counters, .routes, .streams,
      .channels, .ports, .cascade, .leases, .buckets, .tally, .flashTally])
      (execReduceRedo s) := by
  unfold execReduceRedo
  refine FrameOut.reduceRow (by decide) (fun _ _ _ _ => ?_)
  refine Frame.step (State.chunkArrives_frame ..) (by decide) ?_
  first | with_reducible exact Frame.refl | assumption

end Sys2Proof.Machine
end

