-- ==== Sys2Proof/Laws/FramesSystem.lean ====
section
/-! SUPPORT. Frames of security, test, power, the tick, the clock, registers and management: for each operation, the
components it may change, and that it keeps a well-kept state well kept. -/

namespace Sys2Proof.Machine
open State

theorem execTokenExpiry_frame (s : State) :
    s.FrameOut (fields [.parts, .security, .tally, .flashTally])
      (execTokenExpiry s) := by
  unfold execTokenExpiry
  refine FrameOut.next ?_
  extract_lets -merge -underBinder +onlyGivenNames x
  refine Frame.cut (x := x) (fun hx => ?_) ?_
  · try clear_value x
    refine Frame.upd_security (by decide) ?_
    first | with_reducible exact Frame.refl | assumption
  · subst x
    refine Frame.foldl (fun _ _ _ => ?_) ?_
    · refine Frame.ite ?_ ?_
      · refine Frame.step (State.clearPerturb_frame ..) (by decide) ?_
        first | with_reducible exact Frame.refl | assumption
      · first | with_reducible exact Frame.refl | assumption
    · first | with_reducible exact Frame.refl | assumption

theorem keyTimeout_frame (p) (n) (s : State) (due) (counted) :
    s.FrameOut (fields [.parts, .tally, .flashTally])
      (keyTimeout p n s due counted) := by
  unfold keyTimeout
  refine FrameOut.checked ?_
  refine Frame.withSome ?_ (fun _ => ?_)
  · first | with_reducible exact Frame.refl | assumption
  · refine Frame.ite ?_ ?_
    · first | with_reducible exact Frame.refl | assumption
    · extract_lets -merge -underBinder +onlyGivenNames x
      refine Frame.cut (x := x) (fun hx => ?_) ?_
      · try clear_value x
        refine Frame.ite ?_ ?_
        · refine Frame.step (State.count_frame ..) (by decide) ?_
          first | with_reducible exact Frame.refl | assumption
        · first | with_reducible exact Frame.refl | assumption
      · subst x
        refine Frame.step (State.onPart_frame ..) (by decide) ?_
        first | with_reducible exact Frame.refl | assumption

theorem execKeySessionPendingTimeout_frame (partition) (session) (s : State) :
    s.FrameOut (fields [.parts, .tally, .flashTally])
      (execKeySessionPendingTimeout partition session s) := by
  unfold execKeySessionPendingTimeout
  exact FrameOut.mono (keyTimeout_frame _ _ _ _ _) (by decide)

theorem execSetConfidential_frame (id) (s : State) :
    s.FrameOut (fields [.outbox, .fns, .parts, .cmds, .ended, .memUsed, .links, .tally, .flashTally])
      (execSetConfidential id s) := by
  unfold execSetConfidential
  refine FrameOut.opcodeRow (by decide) (fun _ _ _ => ?_)
  extract_lets -merge -underBinder +onlyGivenNames x
  try clear_value x
  refine Frame.ite ?_ ?_
  · refine Frame.step (State.fail_frame ..) (by decide) ?_
    first | with_reducible exact Frame.refl | assumption
  · refine Frame.ite ?_ ?_
    · refine Frame.step (State.fail_frame ..) (by decide) ?_
      first | with_reducible exact Frame.refl | assumption
    · refine Frame.step (State.complete_frame ..) (by decide) ?_
      refine Frame.step (State.onPart_frame ..) (by decide) ?_
      refine Frame.step (State.clearPerturb_frame ..) (by decide) ?_
      first | with_reducible exact Frame.refl | assumption

theorem execAttest_frame (id) (s : State) :
    s.FrameOut (fields [.outbox, .fns, .cmds, .ended, .memUsed, .links, .tally, .flashTally])
      (execAttest id s) := by
  unfold execAttest
  refine FrameOut.opcodeRow (by decide) (fun _ _ _ => ?_)
  extract_lets -merge -underBinder +onlyGivenNames x
  try clear_value x
  extract_lets -merge -underBinder +onlyGivenNames x
  try clear_value x
  split
  · refine Frame.step (State.fail_frame ..) (by decide) ?_
    first | with_reducible exact Frame.refl | assumption
  · refine Frame.ite ?_ ?_
    · refine Frame.step (State.fail_frame ..) (by decide) ?_
      first | with_reducible exact Frame.refl | assumption
    · refine Frame.step (State.complete_frame ..) (by decide) ?_
      refine Frame.step (State.result_frame ..) (by decide) ?_
      first | with_reducible exact Frame.refl | assumption

theorem State.respond_frame (s : State) (id) (p) (purpose) (out) (hello) :
    s.Frame (fields [.parts, .cmds, .ended, .security, .tally, .flashTally])
      (State.respond s id p purpose out hello) := by
  unfold State.respond
  extract_lets -merge -underBinder +onlyGivenNames x
  try clear_value x
  extract_lets -merge -underBinder +onlyGivenNames x
  try clear_value x
  extract_lets -merge -underBinder +onlyGivenNames x
  try clear_value x
  extract_lets -merge -underBinder +onlyGivenNames x
  try clear_value x
  extract_lets -merge -underBinder +onlyGivenNames x
  try clear_value x
  extract_lets -merge -underBinder +onlyGivenNames x
  try clear_value x
  extract_lets -merge -underBinder +onlyGivenNames x
  refine Frame.cut (x := x) (fun hx => ?_) ?_
  · try clear_value x
    extract_lets -merge -underBinder +onlyGivenNames x
    refine Frame.cut (x := x) (fun hx => ?_) ?_
    · try clear_value x
      refine Frame.step (State.complete_frame ..) (by decide) ?_
      refine Frame.step (State.result_frame ..) (by decide) ?_
      first | with_reducible exact Frame.refl | assumption
    · subst x
      refine Frame.step (State.onPart_frame ..) (by decide) ?_
      first | with_reducible exact Frame.refl | assumption
  · subst x
    refine Frame.upd_security (by decide) ?_
    first | with_reducible exact Frame.refl | assumption

theorem State.hello_frame (s : State) (id) (p) (purpose) (out) (m) :
    s.Frame (fields [.parts, .cmds, .ended, .security, .tally, .flashTally])
      (State.hello s id p purpose out m) := by
  unfold State.hello
  extract_lets -merge -underBinder +onlyGivenNames x
  try clear_value x
  refine Frame.ite ?_ ?_
  · refine Frame.step (State.fail_frame ..) (by decide) ?_
    first | with_reducible exact Frame.refl | assumption
  · refine Frame.ite ?_ ?_
    · refine Frame.step (State.fail_frame ..) (by decide) ?_
      refine Frame.step (State.count_frame ..) (by decide) ?_
      first | with_reducible exact Frame.refl | assumption
    · extract_lets -merge -underBinder +onlyGivenNames x
      try clear_value x
      extract_lets -merge -underBinder +onlyGivenNames x
      refine Frame.cut (x := x) (fun hx => ?_) ?_
      · try clear_value x
        refine Frame.ite ?_ ?_
        · refine Frame.step (State.fail_frame ..) (by decide) ?_
          refine Frame.step (State.count_frame ..) (by decide) ?_
          first | with_reducible exact Frame.refl | assumption
        · refine Frame.ite ?_ ?_
          · refine Frame.step (State.fail_frame ..) (by decide) ?_
            first | with_reducible exact Frame.refl | assumption
          · refine Frame.step (State.respond_frame ..) (by decide) ?_
            first | with_reducible exact Frame.refl | assumption
      · subst x
        refine Frame.ite ?_ ?_
        · refine Frame.step (State.onPart_frame ..) (by decide) ?_
          first | with_reducible exact Frame.refl | assumption
        · first | with_reducible exact Frame.refl | assumption

theorem execKeySessionIdleTimeout_frame (partition) (session) (s : State) :
    s.FrameOut (fields [.parts, .tally, .flashTally])
      (execKeySessionIdleTimeout partition session s) := by
  unfold execKeySessionIdleTimeout
  exact FrameOut.mono (keyTimeout_frame _ _ _ _ _) (by decide)

theorem State.acceptToken_frame (s : State) (t) :
    s.Frame (fields [.security, .health, .tally, .flashTally])
      (State.acceptToken s t) := by
  unfold State.acceptToken
  refine Frame.step (State.event_frame ..) (by decide) ?_
  refine Frame.step (State.count_frame ..) (by decide) ?_
  refine Frame.upd_security (by decide) ?_
  first | with_reducible exact Frame.refl | assumption

theorem State.confirm_frame (s : State) (id) (p) (purpose) (ref) (out) (m) :
    s.Frame (fields [.parts, .cmds, .ended, .tally, .flashTally])
      (State.confirm s id p purpose ref out m) := by
  unfold State.confirm
  split
  · refine Frame.step (State.fail_frame ..) (by decide) ?_
    first | with_reducible exact Frame.refl | assumption
  · refine Frame.ite ?_ ?_
    · refine Frame.step (State.fail_frame ..) (by decide) ?_
      first | with_reducible exact Frame.refl | assumption
    · refine Frame.ite ?_ ?_
      · refine Frame.step (State.fail_frame ..) (by decide) ?_
        refine Frame.step (State.count_frame ..) (by decide) ?_
        refine Frame.step (State.onPart_frame ..) (by decide) ?_
        first | with_reducible exact Frame.refl | assumption
      · extract_lets -merge -underBinder +onlyGivenNames x
        refine Frame.cut (x := x) (fun hx => ?_) ?_
        · try clear_value x
          refine Frame.step (State.complete_frame ..) (by decide) ?_
          refine Frame.step (State.result_frame ..) (by decide) ?_
          refine Frame.step (State.countFor_frame ..) (by decide) ?_
          first | with_reducible exact Frame.refl | assumption
        · subst x
          refine Frame.step (State.onPart_frame ..) (by decide) ?_
          first | with_reducible exact Frame.refl | assumption

theorem execOpenKeySession_frame (id) (msg) (s : State) :
    s.FrameOut (fields [.outbox, .fns, .parts, .cmds, .ended, .memUsed, .links, .security, .tally, .flashTally])
      (execOpenKeySession id msg s) := by
  unfold execOpenKeySession
  refine FrameOut.opcodeRow (by decide) (fun _ _ _ => ?_)
  extract_lets -merge -underBinder +onlyGivenNames x
  try clear_value x
  extract_lets -merge -underBinder +onlyGivenNames x
  try clear_value x
  extract_lets -merge -underBinder +onlyGivenNames x
  try clear_value x
  refine Frame.ite ?_ ?_
  · refine Frame.step (State.fail_frame ..) (by decide) ?_
    first | with_reducible exact Frame.refl | assumption
  · refine Frame.ite ?_ ?_
    · refine Frame.step (State.hello_frame ..) (by decide) ?_
      first | with_reducible exact Frame.refl | assumption
    · refine Frame.step (State.confirm_frame ..) (by decide) ?_
      first | with_reducible exact Frame.refl | assumption

theorem State.goOutcome_frame (s : State) (core) (ok) :
    s.Frame (fields [.health, .tally, .flashTally])
      (State.goOutcome s core ok) := by
  unfold State.goOutcome
  extract_lets -merge -underBinder +onlyGivenNames x
  try clear_value x
  extract_lets -merge -underBinder +onlyGivenNames x
  refine Frame.cut (x := x) (fun hx => ?_) ?_
  · try clear_value x
    refine Frame.ite ?_ ?_
    · first | with_reducible exact Frame.refl | assumption
    · refine Frame.step (State.count_frame ..) (by decide) ?_
      first | with_reducible exact Frame.refl | assumption
  · subst x
    refine Frame.upd_health (by decide) ?_
    first | with_reducible exact Frame.refl | assumption

theorem State.goWrite_frame {w : Nat} {s a : State} {core : Nat} {f : Nat → State → State}
    (hs : fields [.health, .tally, .flashTally] &&& w = fields [.health, .tally, .flashTally])
    (hf : ∀ c t, s.Frame w t → s.Frame w (f c t)) (ha : s.Frame w a) : s.Frame w (a.goWrite core f) := by
  unfold State.goWrite
  split
  · exact Frame.step ((State.goOutcome_frame ..).mono (w := fields [.health, .tally, .flashTally]) (by decide)) hs ha
  · exact Frame.ite (Frame.step ((State.goOutcome_frame ..).mono (w := fields [.health, .tally, .flashTally]) (by decide)) hs (hf _ _ ha))
      (Frame.step ((State.goOutcome_frame ..).mono (w := fields [.health, .tally, .flashTally]) (by decide)) hs ha)

theorem State.goClear_frame (s : State) (core) :
    s.Frame (fields [.parts, .health, .tally, .flashTally])
      (State.goClear s core) := by
  unfold State.goClear
  refine State.goWrite_frame (by decide) (fun _ _ _ => ?_) ?_
  · refine Frame.step (State.clearPerturb_frame ..) (by decide) ?_
    first | with_reducible exact Frame.refl | assumption
  · first | with_reducible exact Frame.refl | assumption

theorem execPerturbGoClear_frame (core) (s : State) :
    s.FrameOut (fields [.parts, .health, .tally, .flashTally])
      (execPerturbGoClear core s) := by
  unfold execPerturbGoClear
  refine FrameOut.checked ?_
  refine Frame.onlyIf ?_ ?_
  · first | with_reducible exact Frame.refl | assumption
  · refine Frame.step (State.goClear_frame ..) (by decide) ?_
    first | with_reducible exact Frame.refl | assumption

theorem State.startBist_frame (s : State) (id) (c) :
    s.Frame (fields [.cmds, .ended, .power, .health, .tally, .flashTally])
      (State.startBist s id c) := by
  unfold State.startBist
  extract_lets -merge -underBinder +onlyGivenNames x
  try clear_value x
  refine Frame.ite ?_ ?_
  · refine Frame.step (State.fail_frame ..) (by decide) ?_
    first | with_reducible exact Frame.refl | assumption
  · extract_lets -merge -underBinder +onlyGivenNames x
    try clear_value x
    extract_lets -merge -underBinder +onlyGivenNames x
    try clear_value x
    extract_lets -merge -underBinder +onlyGivenNames x
    try clear_value x
    extract_lets -merge -underBinder +onlyGivenNames x
    refine Frame.cut (x := x) (fun hx => ?_) ?_
    · try clear_value x
      refine Frame.step (State.changeVcore_frame ..) (by decide) ?_
      refine Frame.step (State.count_frame ..) (by decide) ?_
      first | with_reducible exact Frame.refl | assumption
    · subst x
      refine Frame.upd_health (by decide) ?_
      first | with_reducible exact Frame.refl | assumption

theorem execRunBist_frame (id) (s : State) :
    s.FrameOut (fields [.outbox, .fns, .cmds, .ended, .memUsed, .links, .power, .health, .tally, .flashTally])
      (execRunBist id s) := by
  unfold execRunBist
  refine FrameOut.next ?_
  refine Frame.onlyIf ?_ ?_
  · first | with_reducible exact Frame.refl | assumption
  · refine State.begin_frame (by decide) (fun _ _ _ => ?_) ?_
    · refine Frame.step (State.startBist_frame ..) (by decide) ?_
      first | with_reducible exact Frame.refl | assumption
    · first | with_reducible exact Frame.refl | assumption

theorem State.observe_frame (s : State) (slots) (first) (observed) :
    s.Frame (fields [.health])
      (State.observe s slots first observed) := by
  unfold State.observe
  extract_lets -merge -underBinder +onlyGivenNames x
  try clear_value x
  extract_lets -merge -underBinder +onlyGivenNames x
  try clear_value x
  extract_lets -merge -underBinder +onlyGivenNames x
  try clear_value x
  refine Frame.upd_health (by decide) ?_
  first | with_reducible exact Frame.refl | assumption

theorem State.setPerturb_frame (s : State) (p) (until_) (es) :
    s.Frame (fields [.parts, .tally, .flashTally])
      (State.setPerturb s p until_ es) := by
  unfold State.setPerturb
  refine Frame.step (State.count_frame ..) (by decide) ?_
  refine Frame.step (State.onPart_frame ..) (by decide) ?_
  first | with_reducible exact Frame.refl | assumption

theorem State.perturbCmd_frame (s : State) (id) (p) (b) (sigOk) :
    s.Frame (fields [.parts, .cmds, .ended, .security, .health, .tally, .flashTally])
      (State.perturbCmd s id p b sigOk) := by
  unfold State.perturbCmd
  extract_lets -merge -underBinder +onlyGivenNames x
  try clear_value x
  extract_lets -merge -underBinder +onlyGivenNames x
  try clear_value x
  extract_lets -merge -underBinder +onlyGivenNames x
  try clear_value x
  extract_lets -merge -underBinder +onlyGivenNames x
  try clear_value x
  extract_lets -merge -underBinder +onlyGivenNames g
  have hg : ∀ t a0, s.Frame (fields [.parts, .cmds, .ended, .security, .health, .tally, .flashTally]) t → s.Frame (fields [.parts, .cmds, .ended, .security, .health, .tally, .flashTally]) (g t a0) := by
    intro t a0 ht
    subst g
    dsimp -zeta only
    refine Frame.step (State.fail_frame ..) (by decide) ?_
    refine Frame.step (State.count_frame ..) (by decide) ?_
    first | with_reducible exact Frame.refl | assumption
  clear_value g
  extract_lets -merge -underBinder +onlyGivenNames x
  try clear_value x
  refine Frame.ite ?_ ?_
  · refine hg _ _ ?_
    first | with_reducible exact Frame.refl | assumption
  · refine Frame.ite ?_ ?_
    · refine hg _ _ ?_
      refine Frame.step (State.count_frame ..) (by decide) ?_
      first | with_reducible exact Frame.refl | assumption
    · refine Frame.ite ?_ ?_
      · refine hg _ _ ?_
        first | with_reducible exact Frame.refl | assumption
      · refine Frame.ite ?_ ?_
        · refine hg _ _ ?_
          first | with_reducible exact Frame.refl | assumption
        · split
          · refine hg _ _ ?_
            first | with_reducible exact Frame.refl | assumption
          · refine Frame.step (State.complete_frame ..) (by decide) ?_
            refine Frame.step (State.setPerturb_frame ..) (by decide) ?_
            refine Frame.step (State.acceptToken_frame ..) (by decide) ?_
            first | with_reducible exact Frame.refl | assumption

theorem execSetPerturb_frame (id) (tokenOk) (s : State) :
    s.FrameOut (fields [.outbox, .fns, .parts, .cmds, .ended, .memUsed, .links, .security, .health, .tally,
      .flashTally])
      (execSetPerturb id tokenOk s) := by
  unfold execSetPerturb
  refine FrameOut.opcodeRow (by decide) (fun _ _ _ => ?_)
  refine Frame.ite ?_ ?_
  · refine Frame.step (State.perturbCmd_frame ..) (by decide) ?_
    first | with_reducible exact Frame.refl | assumption
  · refine Frame.ite ?_ ?_
    · refine Frame.step (State.complete_frame ..) (by decide) ?_
      refine Frame.step (State.clearPerturb_frame ..) (by decide) ?_
      first | with_reducible exact Frame.refl | assumption
    · refine Frame.step (State.fail_frame ..) (by decide) ?_
      refine Frame.step (State.count_frame ..) (by decide) ?_
      first | with_reducible exact Frame.refl | assumption

theorem State.bistRestored_frame (s : State) :
    s.Frame (fields [.cmds, .ended, .health, .tally, .flashTally])
      (State.bistRestored s) := by
  unfold State.bistRestored
  split
  · refine Frame.ite ?_ ?_
    · refine Frame.step (State.complete_frame ..) (by decide) ?_
      refine Frame.upd_health (by decide) ?_
      first | with_reducible exact Frame.refl | assumption
    · first | with_reducible exact Frame.refl | assumption
  · first | with_reducible exact Frame.refl | assumption

theorem State.bistEnds_frame (s : State) (b) :
    s.Frame (fields [.cmds, .ended, .power, .health, .tally, .flashTally])
      (State.bistEnds s b) := by
  unfold State.bistEnds
  extract_lets -merge -underBinder +onlyGivenNames x
  try clear_value x
  extract_lets -merge -underBinder +onlyGivenNames x
  refine Frame.cut (x := x) (fun hx => ?_) ?_
  · try clear_value x
    refine Frame.step (State.bistRestored_frame ..) (by decide) ?_
    refine Frame.step (State.changeVcore_frame ..) (by decide) ?_
    first | with_reducible exact Frame.refl | assumption
  · subst x
    refine Frame.upd_health (by decide) ?_
    first | with_reducible exact Frame.refl | assumption

theorem State.clearGroups_frame (s : State) (groups) : s.Frame (fields [.tally]) (State.clearGroups s groups) := by
  unfold State.clearGroups
  refine Frame.upd_tally (by decide) ?_
  first | with_reducible exact Frame.refl | assumption

theorem State.bistFails_frame (s : State) :
    s.Frame (fields [.outbox, .fns, .cmds, .ended, .ports, .health, .tally, .flashTally])
      (State.bistFails s) := by
  unfold State.bistFails
  extract_lets -merge -underBinder +onlyGivenNames x
  try clear_value x
  extract_lets -merge -underBinder +onlyGivenNames x
  try clear_value x
  extract_lets -merge -underBinder +onlyGivenNames x
  try clear_value x
  extract_lets -merge -underBinder +onlyGivenNames x
  try clear_value x
  extract_lets -merge -underBinder +onlyGivenNames x
  try clear_value x
  extract_lets -merge -underBinder +onlyGivenNames x
  refine Frame.cut (x := x) (fun hx => ?_) ?_
  · try clear_value x
    refine Frame.step (State.fault_frame ..) (by decide) ?_
    refine Frame.step (State.count_frame ..) (by decide) ?_
    first | with_reducible exact Frame.refl | assumption
  · subst x
    refine Frame.upd_cmds_health (by decide) (fun h => ?_) ?_
    · first | exact Inv.cmdsErase h | exact Inv.cmdsFilter h | exact Inv.cmdsModify h | exact Inv.regionsPut h | exact ⟨wf_clearBytes h.1, h.2⟩
    · first | with_reducible exact Frame.refl | assumption

theorem State.goApply_frame (s : State) (core) :
    s.Frame (fields [.parts, .health, .tally, .flashTally])
      (State.goApply s core) := by
  unfold State.goApply
  refine State.goWrite_frame (by decide) (fun _ _ _ => ?_) ?_
  · refine Frame.step (State.setPerturb_frame ..) (by decide) ?_
    first | with_reducible exact Frame.refl | assumption
  · first | with_reducible exact Frame.refl | assumption

theorem execReadCounters_frame (id) (s : State) :
    s.FrameOut (fields [.outbox, .fns, .cmds, .ended, .memUsed, .links, .tally, .flashTally])
      (execReadCounters id s) := by
  unfold execReadCounters
  refine FrameOut.opcodeRow (by decide) (fun _ _ _ => ?_)
  extract_lets -merge -underBinder +onlyGivenNames x
  try clear_value x
  extract_lets -merge -underBinder +onlyGivenNames x
  try clear_value x
  extract_lets -merge -underBinder +onlyGivenNames x
  try clear_value x
  extract_lets -merge -underBinder +onlyGivenNames x
  try clear_value x
  refine Frame.ite ?_ ?_
  · refine Frame.step (State.fail_frame ..) (by decide) ?_
    first | with_reducible exact Frame.refl | assumption
  · extract_lets -merge -underBinder +onlyGivenNames x
    try clear_value x
    extract_lets -merge -underBinder +onlyGivenNames x
    try clear_value x
    extract_lets -merge -underBinder +onlyGivenNames x
    refine Frame.cut (x := x) (fun hx => ?_) ?_
    · try clear_value x
      extract_lets -merge -underBinder +onlyGivenNames x
      refine Frame.cut (x := x) (fun hx => ?_) ?_
      · try clear_value x
        refine Frame.step (State.complete_frame ..) (by decide) ?_
        refine Frame.ite ?_ ?_
        · refine Frame.step (State.clearGroups_frame ..) (by decide) ?_
          first | with_reducible exact Frame.refl | assumption
        · first | with_reducible exact Frame.refl | assumption
      · subst x
        refine Frame.ite ?_ ?_
        · first | with_reducible exact Frame.refl | assumption
        · refine Frame.step (State.result_frame ..) (by decide) ?_
          first | with_reducible exact Frame.refl | assumption
    · subst x
      refine Frame.step (State.onFn_frame ..) (by decide) ?_
      first | with_reducible exact Frame.refl | assumption

theorem State.FrameOut.bistRow {w : Nat} {s : State} {p : BistPhase} {f : Bist → State → State}
    (hf : ∀ a t, s.Frame w t → s.Frame w (f a t)) : s.FrameOut w (Machine.bistRow s p f) :=
  FrameOut.next (Frame.onlyIf Frame.refl (Frame.withSome Frame.refl fun _ => Frame.ite (hf _ _ Frame.refl) Frame.refl))

theorem execPerturbGoApply_frame (core) (s : State) :
    s.FrameOut (fields [.parts, .health, .tally, .flashTally])
      (execPerturbGoApply core s) := by
  unfold execPerturbGoApply
  refine FrameOut.checked ?_
  refine Frame.onlyIf ?_ ?_
  · first | with_reducible exact Frame.refl | assumption
  · refine Frame.step (State.goApply_frame ..) (by decide) ?_
    first | with_reducible exact Frame.refl | assumption

theorem execBistLogicPhaseComplete_frame (observed) (s : State) :
    s.FrameOut (fields [.outbox, .fns, .cmds, .ended, .cores, .ports, .power, .health, .tally, .flashTally])
      (execBistLogicPhaseComplete observed s) := by
  unfold execBistLogicPhaseComplete
  refine FrameOut.bistRow (fun _ _ _ => ?_)
  extract_lets -merge -underBinder +onlyGivenNames x
  try clear_value x
  extract_lets -merge -underBinder +onlyGivenNames x
  refine Frame.cut (x := x) (fun hx => ?_) ?_
  · try clear_value x
    extract_lets -merge -underBinder +onlyGivenNames x
    try clear_value x
    extract_lets -merge -underBinder +onlyGivenNames x
    refine Frame.cut (x := x) (fun hx => ?_) ?_
    · try clear_value x
      refine Frame.ite ?_ ?_
      · refine Frame.step (State.bistFails_frame ..) (by decide) ?_
        first | with_reducible exact Frame.refl | assumption
      · extract_lets -merge -underBinder +onlyGivenNames x
        refine Frame.cut (x := x) (fun hx => ?_) ?_
        · try clear_value x
          refine Frame.ite ?_ ?_
          · refine Frame.upd_health (by decide) ?_
            first | with_reducible exact Frame.refl | assumption
          · refine Frame.step (State.bistEnds_frame ..) (by decide) ?_
            first | with_reducible exact Frame.refl | assumption
        · subst x
          refine Frame.step (State.onCores_frame ..) (by decide) ?_
          first | with_reducible exact Frame.refl | assumption
    · subst x
      refine Frame.upd_health (by decide) ?_
      first | with_reducible exact Frame.refl | assumption
  · subst x
    refine Frame.step (State.observe_frame ..) (by decide) ?_
    first | with_reducible exact Frame.refl | assumption

theorem execBistMemoryPhaseComplete_frame (observed) (s : State) :
    s.FrameOut (fields [.outbox, .fns, .cmds, .ended, .cores, .ports, .power, .health, .tally, .flashTally])
      (execBistMemoryPhaseComplete observed s) := by
  unfold execBistMemoryPhaseComplete
  refine FrameOut.bistRow (fun _ _ _ => ?_)
  extract_lets -merge -underBinder +onlyGivenNames x
  refine Frame.cut (x := x) (fun hx => ?_) ?_
  · try clear_value x
    extract_lets -merge -underBinder +onlyGivenNames x
    try clear_value x
    extract_lets -merge -underBinder +onlyGivenNames x
    refine Frame.cut (x := x) (fun hx => ?_) ?_
    · try clear_value x
      refine Frame.ite ?_ ?_
      · refine Frame.step (State.bistFails_frame ..) (by decide) ?_
        first | with_reducible exact Frame.refl | assumption
      · refine Frame.step (State.bistEnds_frame ..) (by decide) ?_
        refine Frame.step (State.onCores_frame ..) (by decide) ?_
        first | with_reducible exact Frame.refl | assumption
    · subst x
      refine Frame.upd_health (by decide) ?_
      first | with_reducible exact Frame.refl | assumption
  · subst x
    refine Frame.step (State.observe_frame ..) (by decide) ?_
    first | with_reducible exact Frame.refl | assumption

theorem State.controlVcore_frame (s : State) (avg) (above) (hot) (cool) :
    s.Frame (fields [.power, .health, .tally, .flashTally])
      (State.controlVcore s avg above hot cool) := by
  unfold State.controlVcore
  extract_lets -merge -underBinder +onlyGivenNames x
  try clear_value x
  extract_lets -merge -underBinder +onlyGivenNames x
  try clear_value x
  extract_lets -merge -underBinder +onlyGivenNames x
  try clear_value x
  extract_lets -merge -underBinder +onlyGivenNames g
  have hg : ∀ t a0, s.Frame (fields [.power, .health, .tally, .flashTally]) t → s.Frame (fields [.power, .health, .tally, .flashTally]) (g t a0) := by
    intro t a0 ht
    subst g
    dsimp -zeta only
    refine Frame.upd_power (by decide) ?_
    first | with_reducible exact Frame.refl | assumption
  clear_value g
  refine Frame.ite ?_ ?_
  · extract_lets -merge -underBinder +onlyGivenNames x
    refine Frame.cut (x := x) (fun hx => ?_) ?_
    · try clear_value x
      extract_lets -merge -underBinder +onlyGivenNames x
      refine Frame.cut (x := x) (fun hx => ?_) ?_
      · try clear_value x
        refine Frame.ite ?_ ?_
        · refine Frame.step (State.event_frame ..) (by decide) ?_
          refine Frame.step (State.count_frame ..) (by decide) ?_
          first | with_reducible exact Frame.refl | assumption
        · first | with_reducible exact Frame.refl | assumption
      · subst x
        refine Frame.ite ?_ ?_
        · refine Frame.step (State.event_frame ..) (by decide) ?_
          first | with_reducible exact Frame.refl | assumption
        · first | with_reducible exact Frame.refl | assumption
    · subst x
      refine Frame.step (State.count_frame ..) (by decide) ?_
      refine Frame.step (State.changeVcore_frame ..) (by decide) ?_
      refine hg _ _ ?_
      first | with_reducible exact Frame.refl | assumption
  · extract_lets -merge -underBinder +onlyGivenNames x
    try clear_value x
    refine Frame.ite ?_ ?_
    · refine Frame.step (State.count_frame ..) (by decide) ?_
      refine Frame.step (State.changeVcore_frame ..) (by decide) ?_
      refine hg _ _ ?_
      first | with_reducible exact Frame.refl | assumption
    · refine hg _ _ ?_
      first | with_reducible exact Frame.refl | assumption

theorem State.bootFault_frame (s : State) (a) (b) :
    s.Frame (fields [.outbox, .fns, .cmds, .ended, .ports, .health, .tally, .flashTally])
      (State.bootFault s a b) := by
  unfold State.bootFault
  refine Frame.step (State.fault_frame ..) (by decide) ?_
  first | with_reducible exact Frame.refl | assumption

theorem State.booted_frame (s : State) (b) :
    s.Frame (fields [.ports, .security, .power, .flash, .flashTally])
      (State.booted s b) := by
  unfold State.booted
  extract_lets -merge -underBinder +onlyGivenNames x
  try clear_value x
  extract_lets -merge -underBinder +onlyGivenNames x
  try clear_value x
  refine Frame.upd_ports_security_power_flash (by decide) ?_
  first | with_reducible exact Frame.refl | assumption

theorem execBootChainComplete_frame (verdict) (s : State) :
    s.FrameOut (fields [.outbox, .fns, .cmds, .ended, .ports, .security, .power, .health, .flash, .tally,
      .flashTally])
      (execBootChainComplete verdict s) := by
  unfold execBootChainComplete
  refine FrameOut.next ?_
  refine Frame.onlyIf ?_ ?_
  · first | with_reducible exact Frame.refl | assumption
  · extract_lets -merge -underBinder +onlyGivenNames x
    try clear_value x
    extract_lets -merge -underBinder +onlyGivenNames x
    try clear_value x
    refine Frame.ite ?_ ?_
    · refine Frame.step (State.fault_frame ..) (by decide) ?_
      first | with_reducible exact Frame.refl | assumption
    · refine Frame.ite ?_ ?_
      · refine Frame.step (State.bootFault_frame ..) (by decide) ?_
        first | with_reducible exact Frame.refl | assumption
      · refine Frame.ite ?_ ?_
        · refine Frame.step (State.bootFault_frame ..) (by decide) ?_
          first | with_reducible exact Frame.refl | assumption
        · split
          · refine Frame.step (State.bootFault_frame ..) (by decide) ?_
            first | with_reducible exact Frame.refl | assumption
          · refine Frame.ite ?_ ?_
            · refine Frame.step (State.booted_frame ..) (by decide) ?_
              first | with_reducible exact Frame.refl | assumption
            · refine Frame.step (State.bootFault_frame ..) (by decide) ?_
              first | with_reducible exact Frame.refl | assumption

theorem execPwrWarnDeassert_frame (s : State) :
    s.FrameOut (fields [.outbox, .fns, .power])
      (execPwrWarnDeassert s) := by
  unfold execPwrWarnDeassert
  refine FrameOut.next ?_
  refine Frame.onlyIf ?_ ?_
  · first | with_reducible exact Frame.refl | assumption
  · extract_lets -merge -underBinder +onlyGivenNames x
    try clear_value x
    extract_lets -merge -underBinder +onlyGivenNames x
    refine Frame.cut (x := x) (fun hx => ?_) ?_
    · try clear_value x
      refine Frame.step (State.ibi_frame ..) (by decide) ?_
      refine Frame.step (State.signal_frame ..) (by decide) ?_
      refine Frame.step (State.emit_frame ..) (by decide) ?_
      first | with_reducible exact Frame.refl | assumption
    · subst x
      refine Frame.upd_power (by decide) ?_
      first | with_reducible exact Frame.refl | assumption

theorem execControlCoreWatchdogExpire_frame (s : State) :
    s.FrameOut (fields [.outbox, .fns, .cmds, .ended, .ports, .health, .tally, .flashTally])
      (execControlCoreWatchdogExpire s) := by
  unfold execControlCoreWatchdogExpire
  refine FrameOut.next ?_
  refine Frame.onlyIf ?_ ?_
  · first | with_reducible exact Frame.refl | assumption
  · refine Frame.step (State.fault_frame ..) (by decide) ?_
    first | with_reducible exact Frame.refl | assumption

theorem State.restart_frame (s : State) :
    s.Frame (fieldsBut [.pending, .outbox, .freeCount, .nextCmd])
      s.restart := by
  refine ⟨by constructor <;> intro hw <;> first | rfl | exact absurd hw (by decide), fun _ => ⟨rfl, rfl, rfl⟩⟩

theorem State.coldReset_frame (s : State) :
    s.Frame (fieldsBut [.pending, .outbox, .freeCount, .nextCmd])
      (State.coldReset s) := by
  unfold State.coldReset
  extract_lets -merge -underBinder +onlyGivenNames x
  refine Frame.cut (x := x) (fun hx => ?_) ?_
  · try clear_value x
    refine Frame.upd_power (by decide) ?_
    first | with_reducible exact Frame.refl | assumption
  · subst x
    refine Frame.step (State.restart_frame ..) (by decide) ?_
    first | with_reducible exact Frame.refl | assumption

theorem execLpddr6TrainingComplete_frame (replayFailed) (failing) (s : State) :
    s.FrameOut (fields [.outbox, .fns, .cmds, .ended, .ports, .power, .health, .tally, .flashTally])
      (execLpddr6TrainingComplete replayFailed failing s) := by
  unfold execLpddr6TrainingComplete
  refine FrameOut.next ?_
  refine Frame.onlyIf ?_ ?_
  · first | with_reducible exact Frame.refl | assumption
  · refine Frame.ite ?_ ?_
    · refine Frame.upd_power (by decide) ?_
      first | with_reducible exact Frame.refl | assumption
    · refine Frame.ite ?_ ?_
      · refine Frame.step (State.fault_frame ..) (by decide) ?_
        first | with_reducible exact Frame.refl | assumption
      · refine Frame.upd_power (by decide) ?_
        first | with_reducible exact Frame.refl | assumption

theorem State.clearFaultPin_frame (s : State) : s.Frame (fields [.outbox]) (State.clearFaultPin s) := by
  unfold State.clearFaultPin
  refine Frame.ite ?_ ?_
  · refine Frame.step (State.emit_frame ..) (by decide) ?_
    first | with_reducible exact Frame.refl | assumption
  · first | with_reducible exact Frame.refl | assumption

theorem State.releasePins_frame (s : State) : s.Frame (fields [.outbox]) s.releasePins := by
  unfold State.releasePins
  dsimp only
  refine Frame.ite ?_ (State.clearFaultPin_frame s)
  exact Frame.step (State.emit_frame ..) (by decide) (State.clearFaultPin_frame s)

theorem State.unpowered_frame (s : State) :
    s.Frame (fieldsBut [.pending, .outbox, .freeCount, .nextCmd]) s.unpowered :=
  ⟨by constructor <;> intro hw <;> first | rfl | exact absurd hw (by decide), fun _ => ⟨rfl, rfl, rfl⟩⟩

theorem execStandbyOff_frame (s : State) :
    s.FrameOut (fieldsBut [.pending, .freeCount, .nextCmd])
      (execStandbyOff s) :=
  FrameOut.next (Frame.onlyIf Frame.refl (Frame.step (State.unpowered_frame _) (by decide)
    (Frame.step (State.releasePins_frame s) (by decide) Frame.refl)))

theorem State.warmReset_frame (s : State) :
    s.Frame (fieldsBut [.pending, .outbox, .freeCount, .nextCmd])
      (State.warmReset s) := by
  unfold State.warmReset
  extract_lets -merge -underBinder +onlyGivenNames x
  refine Frame.cut (x := x) (fun hx => ?_) ?_
  · try clear_value x
    extract_lets -merge -underBinder +onlyGivenNames x
    try clear_value x
    extract_lets -merge -underBinder +onlyGivenNames x
    try clear_value x
    extract_lets -merge -underBinder +onlyGivenNames x
    refine Frame.cut (x := x) (fun hx => ?_) ?_
    · try clear_value x
      refine Frame.upd_cascade_mgt_power (by decide) ?_
      first | with_reducible exact Frame.refl | assumption
    · subst x
      refine Frame.step (State.restart_frame ..) (by decide) ?_
      first | with_reducible exact Frame.refl | assumption
  · subst x
    first | with_reducible exact Frame.refl | assumption

theorem State.beginReset_frame (s : State) (x1) :
    s.Frame (fieldsBut [.pending, .freeCount, .nextCmd])
      (State.beginReset s x1) := by
  unfold State.beginReset
  split
  · refine Frame.step (State.count_frame ..) (by decide) ?_
    refine Frame.step (State.warmReset_frame ..) (by decide) ?_
    refine Frame.step (State.clearFaultPin_frame ..) (by decide) ?_
    first | with_reducible exact Frame.refl | assumption
  · refine Frame.step (State.count_frame ..) (by decide) ?_
    refine Frame.step (State.coldReset_frame ..) (by decide) ?_
    refine Frame.step (State.clearFaultPin_frame ..) (by decide) ?_
    first | with_reducible exact Frame.refl | assumption

theorem execFaultRecordWritten_frame (s : State) :
    s.FrameOut (fieldsBut [.pending, .freeCount, .nextCmd])
      (execFaultRecordWritten s) := by
  unfold execFaultRecordWritten
  refine FrameOut.next ?_
  refine Frame.withSome ?_ (fun _ => ?_)
  · first | with_reducible exact Frame.refl | assumption
  · refine Frame.ite ?_ ?_
    · first | with_reducible exact Frame.refl | assumption
    · extract_lets -merge -underBinder +onlyGivenNames x
      try clear_value x
      extract_lets -merge -underBinder +onlyGivenNames x
      try clear_value x
      extract_lets -merge -underBinder +onlyGivenNames x
      refine Frame.cut (x := x) (fun hx => ?_) ?_
      · try clear_value x
        extract_lets -merge -underBinder +onlyGivenNames x
        refine Frame.cut (x := x) (fun hx => ?_) ?_
        · try clear_value x
          split
          · refine Frame.step (State.beginReset_frame ..) (by decide) ?_
            first | with_reducible exact Frame.refl | assumption
          · first | with_reducible exact Frame.refl | assumption
        · subst x
          refine Frame.step (State.countHalt_frame ..) (by decide) ?_
          first | with_reducible exact Frame.refl | assumption
      · subst x
        refine Frame.upd_health_flash (by decide) ?_
        first | with_reducible exact Frame.refl | assumption

theorem execMainRailsUp_frame (temps) (s : State) :
    s.FrameOut (fields [.power, .tally, .flashTally])
      (execMainRailsUp temps s) := by
  unfold execMainRailsUp
  refine FrameOut.next ?_
  refine Frame.onlyIf ?_ ?_
  · first | with_reducible exact Frame.refl | assumption
  · extract_lets -merge -underBinder +onlyGivenNames x
    try clear_value x
    extract_lets -merge -underBinder +onlyGivenNames x
    refine Frame.cut (x := x) (fun hx => ?_) ?_
    · try clear_value x
      refine Frame.ite ?_ ?_
      · refine Frame.upd_power (by decide) ?_
        first | with_reducible exact Frame.refl | assumption
      · refine Frame.ite ?_ ?_
        · first | with_reducible exact Frame.refl | assumption
        · refine Frame.step (State.count_frame ..) (by decide) ?_
          refine Frame.upd_power (by decide) ?_
          first | with_reducible exact Frame.refl | assumption
    · subst x
      refine Frame.upd_power (by decide) ?_
      first | with_reducible exact Frame.refl | assumption

theorem execMemoryScrubComplete_frame (s : State) : s.FrameOut (fields [.mem, .regions, .power]) (execMemoryScrubComplete s) :=
  FrameOut.next (Frame.onlyIf Frame.refl (Frame.upd_mem_regions_power (by decide) (fun h => ⟨rfl, h.2.1, rfl⟩) Frame.refl))

theorem State.requestReset_frame (s : State) (k) :
    s.Frame (fieldsBut [.pending, .freeCount, .nextCmd])
      (State.requestReset s k) := by
  unfold State.requestReset
  refine Frame.ite ?_ ?_
  · first | with_reducible exact Frame.refl | assumption
  · split
    · refine Frame.ite ?_ ?_
      · refine Frame.step (State.beginReset_frame ..) (by decide) ?_
        first | with_reducible exact Frame.refl | assumption
      · refine Frame.upd_health (by decide) ?_
        first | with_reducible exact Frame.refl | assumption
    · refine Frame.ite ?_ ?_
      · first | with_reducible exact Frame.refl | assumption
      · refine Frame.step (State.beginReset_frame ..) (by decide) ?_
        first | with_reducible exact Frame.refl | assumption

theorem execPerstAssert_frame (s : State) :
    s.FrameOut (fieldsBut [.pending, .freeCount, .nextCmd])
      (execPerstAssert s) := by
  unfold execPerstAssert
  refine FrameOut.next ?_
  refine Frame.step (State.requestReset_frame ..) (by decide) ?_
  first | with_reducible exact Frame.refl | assumption

theorem execHotReset_frame (s : State) :
    s.FrameOut (fieldsBut [.pending, .freeCount, .nextCmd])
      (execHotReset s) := by
  unfold execHotReset
  refine FrameOut.next ?_
  refine Frame.step (State.requestReset_frame ..) (by decide) ?_
  first | with_reducible exact Frame.refl | assumption

theorem State.closeEpoch_frame (s : State) (avg) (above) (hot) :
    s.Frame (fields [.power, .health, .tally, .flashTally])
      (State.closeEpoch s avg above hot) := by
  unfold State.closeEpoch
  extract_lets -merge -underBinder +onlyGivenNames x
  try clear_value x
  extract_lets -merge -underBinder +onlyGivenNames x
  refine Frame.cut (x := x) (fun hx => ?_) ?_
  · try clear_value x
    extract_lets -merge -underBinder +onlyGivenNames x
    refine Frame.cut (x := x) (fun hx => ?_) ?_
    · try clear_value x
      refine Frame.ite ?_ ?_
      · refine Frame.step (State.count_frame ..) (by decide) ?_
        first | with_reducible exact Frame.refl | assumption
      · first | with_reducible exact Frame.refl | assumption
    · subst x
      refine Frame.ite ?_ ?_
      · refine Frame.step (State.event_frame ..) (by decide) ?_
        refine Frame.step (State.count_frame ..) (by decide) ?_
        first | with_reducible exact Frame.refl | assumption
      · first | with_reducible exact Frame.refl | assumption
  · subst x
    refine Frame.upd_power (by decide) ?_
    first | with_reducible exact Frame.refl | assumption

theorem execEpochBoundary_frame (s : State) :
    s.FrameOut (fields [.power, .health, .tally, .flashTally])
      (execEpochBoundary s) := by
  unfold execEpochBoundary
  refine FrameOut.next ?_
  refine Frame.onlyIf ?_ ?_
  · first | with_reducible exact Frame.refl | assumption
  · extract_lets -merge -underBinder +onlyGivenNames x
    try clear_value x
    extract_lets -merge -underBinder +onlyGivenNames x
    try clear_value x
    extract_lets -merge -underBinder +onlyGivenNames x
    try clear_value x
    extract_lets -merge -underBinder +onlyGivenNames x
    try clear_value x
    extract_lets -merge -underBinder +onlyGivenNames x
    try clear_value x
    extract_lets -merge -underBinder +onlyGivenNames x
    refine Frame.cut (x := x) (fun hx => ?_) ?_
    · try clear_value x
      refine Frame.ite ?_ ?_
      · refine Frame.step (State.controlVcore_frame ..) (by decide) ?_
        first | with_reducible exact Frame.refl | assumption
      · first | with_reducible exact Frame.refl | assumption
    · subst x
      refine Frame.step (State.closeEpoch_frame ..) (by decide) ?_
      first | with_reducible exact Frame.refl | assumption

theorem execStandbyRailsUp_frame (masterSel) (cascadeId) (s : State) :
    s.FrameOut (fields [.cascade, .mgt, .time, .power])
      (execStandbyRailsUp masterSel cascadeId s) := by
  unfold execStandbyRailsUp
  refine FrameOut.next ?_
  refine Frame.onlyIf ?_ ?_
  · first | with_reducible exact Frame.refl | assumption
  · refine Frame.upd_cascade_mgt_time_power (by decide) ?_
    first | with_reducible exact Frame.refl | assumption

theorem execReservedSlotStart_frame (s : State) : s.FrameOut (fields [.power]) (execReservedSlotStart s) := by
  unfold execReservedSlotStart
  refine FrameOut.next ?_
  refine Frame.onlyIf ?_ ?_
  · first | with_reducible exact Frame.refl | assumption
  · refine Frame.upd_power (by decide) ?_
    first | with_reducible exact Frame.refl | assumption

theorem execInputStartLevel_frame (s : State) :
    s.FrameOut (fieldsBut [.pending, .freeCount, .nextCmd])
      (execInputStartLevel s) := by
  unfold execInputStartLevel
  refine FrameOut.next ?_
  refine Frame.onlyIf ?_ ?_
  · first | with_reducible exact Frame.refl | assumption
  · extract_lets -merge -underBinder +onlyGivenNames x
    try clear_value x
    extract_lets -merge -underBinder +onlyGivenNames x
    refine Frame.cut (x := x) (fun hx => ?_) ?_
    · try clear_value x
      refine Frame.step (State.beginReset_frame ..) (by decide) ?_
      first | with_reducible exact Frame.refl | assumption
    · subst x
      refine Frame.upd_power (by decide) ?_
      first | with_reducible exact Frame.refl | assumption

theorem execRefreshManagementRequest_frame (stack) (s : State) :
    s.FrameOut (fields []) (execRefreshManagementRequest stack s) := FrameOut.checked Frame.refl

theorem execPaceWindowEnd_frame (readings) (s : State) :
    s.FrameOut (fields [.outbox, .fns, .cmds, .ended, .ports, .power, .health, .tally, .flashTally])
      (execPaceWindowEnd readings s) := by
  unfold execPaceWindowEnd
  refine FrameOut.next ?_
  refine Frame.onlyIf ?_ ?_
  · first | with_reducible exact Frame.refl | assumption
  · extract_lets -merge -underBinder +onlyGivenNames x
    try clear_value x
    extract_lets -merge -underBinder +onlyGivenNames x
    refine Frame.cut (x := x) (fun hx => ?_) ?_
    · try clear_value x
      split
      · first | with_reducible exact Frame.refl | assumption
      · refine Frame.step (State.fault_frame ..) (by decide) ?_
        first | with_reducible exact Frame.refl | assumption
    · subst x
      refine Frame.upd_power (by decide) ?_
      first | with_reducible exact Frame.refl | assumption

theorem execInternalLogicError_frame (block) (s : State) :
    s.FrameOut (fields [.outbox, .fns, .cmds, .ended, .ports, .health, .tally, .flashTally])
      (execInternalLogicError block s) := by
  unfold execInternalLogicError
  refine FrameOut.next ?_
  refine Frame.onlyIf ?_ ?_
  · first | with_reducible exact Frame.refl | assumption
  · refine Frame.step (State.fault_frame ..) (by decide) ?_
    first | with_reducible exact Frame.refl | assumption

theorem execSelfRefreshEntry_frame (stack) (s : State) :
    s.FrameOut (fields [.refreshing])
      (execSelfRefreshEntry stack s) := by
  unfold execSelfRefreshEntry
  refine FrameOut.checked ?_
  refine Frame.onlyIf ?_ ?_
  · first | with_reducible exact Frame.refl | assumption
  · refine Frame.upd_refreshing (by decide) ?_
    first | with_reducible exact Frame.refl | assumption

theorem execTemperatureSample_frame (readings) (s : State) :
    s.FrameOut (fields [.outbox, .fns, .cmds, .ended, .ports, .power, .health, .tally, .flashTally])
      (execTemperatureSample readings s) := by
  unfold execTemperatureSample
  refine FrameOut.next ?_
  refine Frame.onlyIf ?_ ?_
  · first | with_reducible exact Frame.refl | assumption
  · extract_lets -merge -underBinder +onlyGivenNames x
    try clear_value x
    extract_lets -merge -underBinder +onlyGivenNames x
    try clear_value x
    extract_lets -merge -underBinder +onlyGivenNames x
    refine Frame.cut (x := x) (fun hx => ?_) ?_
    · try clear_value x
      split
      · first | with_reducible exact Frame.refl | assumption
      · refine Frame.step (State.fault_frame ..) (by decide) ?_
        first | with_reducible exact Frame.refl | assumption
    · subst x
      refine Frame.upd_power (by decide) ?_
      first | with_reducible exact Frame.refl | assumption

theorem execPwrWarnAssert_frame (s : State) :
    s.FrameOut (fields [.outbox, .fns, .power, .tally, .flashTally])
      (execPwrWarnAssert s) := by
  unfold execPwrWarnAssert
  refine FrameOut.next ?_
  refine Frame.onlyIf ?_ ?_
  · first | with_reducible exact Frame.refl | assumption
  · extract_lets -merge -underBinder +onlyGivenNames x
    try clear_value x
    extract_lets -merge -underBinder +onlyGivenNames x
    refine Frame.cut (x := x) (fun hx => ?_) ?_
    · try clear_value x
      refine Frame.step (State.ibi_frame ..) (by decide) ?_
      refine Frame.step (State.signal_frame ..) (by decide) ?_
      refine Frame.step (State.count_frame ..) (by decide) ?_
      refine Frame.step (State.emit_frame ..) (by decide) ?_
      first | with_reducible exact Frame.refl | assumption
    · subst x
      refine Frame.upd_power (by decide) ?_
      first | with_reducible exact Frame.refl | assumption

theorem execVcoreChangeComplete_frame (s : State) :
    s.FrameOut (fields [.cmds, .ended, .power, .health, .tally, .flashTally])
      (execVcoreChangeComplete s) := by
  unfold execVcoreChangeComplete
  refine FrameOut.next ?_
  refine Frame.withSome ?_ (fun _ => ?_)
  · first | with_reducible exact Frame.refl | assumption
  · refine Frame.ite ?_ ?_
    · first | with_reducible exact Frame.refl | assumption
    · extract_lets -merge -underBinder +onlyGivenNames x
      try clear_value x
      extract_lets -merge -underBinder +onlyGivenNames x
      refine Frame.cut (x := x) (fun hx => ?_) ?_
      · try clear_value x
        refine Frame.step (State.bistRestored_frame ..) (by decide) ?_
        refine Frame.foldl (fun _ _ _ => ?_) ?_
        · refine Frame.step (State.complete_frame ..) (by decide) ?_
          first | with_reducible exact Frame.refl | assumption
        · first | with_reducible exact Frame.refl | assumption
      · subst x
        refine Frame.upd_power (by decide) ?_
        first | with_reducible exact Frame.refl | assumption

theorem execDeviceReady_frame (s : State) :
    s.FrameOut (fields [.power, .flash, .flashTally])
      (execDeviceReady s) := by
  unfold execDeviceReady
  refine FrameOut.next ?_
  refine Frame.onlyIf ?_ ?_
  · first | with_reducible exact Frame.refl | assumption
  · refine Frame.upd_power_flash (by decide) ?_
    first | with_reducible exact Frame.refl | assumption

theorem execSelfRefreshExit_frame (stack) (s : State) :
    s.FrameOut (fields [.refreshing, .memUsed])
      (execSelfRefreshExit stack s) := by
  unfold execSelfRefreshExit
  refine FrameOut.checked ?_
  refine Frame.onlyIf ?_ ?_
  · first | with_reducible exact Frame.refl | assumption
  · refine Frame.upd_refreshing_memUsed (by decide) ?_
    first | with_reducible exact Frame.refl | assumption

theorem execShortResetLevelDip_frame (s : State) :
    s.FrameOut (fields [.tally, .flashTally])
      (execShortResetLevelDip s) := by
  unfold execShortResetLevelDip
  refine FrameOut.next ?_
  refine Frame.onlyIf ?_ ?_
  · first | with_reducible exact Frame.refl | assumption
  · refine Frame.step (State.count_frame ..) (by decide) ?_
    first | with_reducible exact Frame.refl | assumption

theorem execPcieLinkDownTimeout_frame (s : State) :
    s.FrameOut (fieldsBut [.pending, .freeCount, .nextCmd])
      (execPcieLinkDownTimeout s) := by
  unfold execPcieLinkDownTimeout
  refine FrameOut.next ?_
  refine Frame.step (State.requestReset_frame ..) (by decide) ?_
  first | with_reducible exact Frame.refl | assumption

theorem execOverRangeEntry_frame (s : State) : s.FrameOut (fields [.tally, .flashTally]) (execOverRangeEntry s) := by
  unfold execOverRangeEntry
  refine FrameOut.next ?_
  refine Frame.onlyIf ?_ ?_
  · first | with_reducible exact Frame.refl | assumption
  · refine Frame.step (State.count_frame ..) (by decide) ?_
    first | with_reducible exact Frame.refl | assumption

theorem execSupplyLoss_frame (microseconds) (s : State) :
    s.FrameOut (fields [.outbox, .fns, .cmds, .ended, .ports, .health, .tally, .flashTally])
      (execSupplyLoss microseconds s) := by
  unfold execSupplyLoss
  refine FrameOut.next ?_
  refine Frame.onlyIf ?_ ?_
  · first | with_reducible exact Frame.refl | assumption
  · refine Frame.step (State.fault_frame ..) (by decide) ?_
    first | with_reducible exact Frame.refl | assumption

theorem execFunctionLevelReset_frame (function) (s : State) :
    s.FrameOut (fieldsBut [.pending, .nextCmd])
      (execFunctionLevelReset function s) := by
  unfold execFunctionLevelReset
  refine FrameOut.checked ?_
  refine Frame.onlyIf ?_ ?_
  · first | with_reducible exact Frame.refl | assumption
  · refine Frame.ite ?_ ?_
    · refine Frame.step (State.requestReset_frame ..) (by decide) ?_
      first | with_reducible exact Frame.refl | assumption
    · extract_lets -merge -underBinder +onlyGivenNames x
      refine Frame.cut (x := x) (fun hx => ?_) ?_
      · try clear_value x
        refine Frame.ite ?_ ?_
        · refine Frame.step (State.disable_frame ..) (by decide) ?_
          first | with_reducible exact Frame.refl | assumption
        · first | with_reducible exact Frame.refl | assumption
      · subst x
        refine Frame.step (State.onFn_frame ..) (by decide) ?_
        first | with_reducible exact Frame.refl | assumption

theorem execPowerSample_frame (vin) (iin) (s : State) : s.FrameOut (fields [.power]) (execPowerSample vin iin s) := by
  unfold execPowerSample
  refine FrameOut.next ?_
  refine Frame.onlyIf ?_ ?_
  · first | with_reducible exact Frame.refl | assumption
  · extract_lets -merge -underBinder +onlyGivenNames x
    try clear_value x
    extract_lets -merge -underBinder +onlyGivenNames x
    try clear_value x
    extract_lets -merge -underBinder +onlyGivenNames x
    try clear_value x
    extract_lets -merge -underBinder +onlyGivenNames x
    try clear_value x
    refine Frame.upd_power (by decide) ?_
    first | with_reducible exact Frame.refl | assumption

theorem execInputProtectionDisconnect_frame (s : State) :
    s.FrameOut (fields [.outbox, .fns, .cmds, .ended, .ports, .health, .tally, .flashTally])
      (execInputProtectionDisconnect s) := by
  unfold execInputProtectionDisconnect
  refine FrameOut.next ?_
  refine Frame.onlyIf ?_ ?_
  · first | with_reducible exact Frame.refl | assumption
  · refine Frame.step (State.fault_frame ..) (by decide) ?_
    first | with_reducible exact Frame.refl | assumption

theorem execWarnClearRestart_frame (s : State) : s.FrameOut (fields [.power]) (execWarnClearRestart s) := by
  unfold execWarnClearRestart
  refine FrameOut.next ?_
  refine Frame.onlyIf ?_ ?_
  · first | with_reducible exact Frame.refl | assumption
  · refine Frame.upd_power (by decide) ?_
    first | with_reducible exact Frame.refl | assumption

theorem tick_frame (s : State) : s.Frame (fields [.time]) (tick s) := by
  unfold tick
  refine Frame.ite ?_ ?_
  · refine Frame.upd_time (by decide) ?_
    first | with_reducible exact Frame.refl | assumption
  · first | with_reducible exact Frame.refl | assumption

theorem State.stepClock_frame (s : State) (ns) :
    s.Frame (fields [.time, .health, .tally, .flashTally])
      (State.stepClock s ns) := by
  unfold State.stepClock
  extract_lets -merge -underBinder +onlyGivenNames x
  try clear_value x
  refine Frame.step (State.event_frame ..) (by decide) ?_
  refine Frame.step (State.count_frame ..) (by decide) ?_
  refine Frame.upd_time (by decide) ?_
  first | with_reducible exact Frame.refl | assumption

theorem State.writeSeconds_frame (s : State) (v) : s.Frame (fields [.time]) (State.writeSeconds s v) := by
  unfold State.writeSeconds
  refine Frame.ite ?_ ?_
  · refine Frame.upd_time (by decide) ?_
    first | with_reducible exact Frame.refl | assumption
  · refine Frame.upd_time (by decide) ?_
    first | with_reducible exact Frame.refl | assumption

theorem State.writeSecondsHalf_frame (s : State) (high) (v) :
    s.Frame (fields [.time])
      (State.writeSecondsHalf s high v) := by
  unfold State.writeSecondsHalf
  extract_lets -merge -underBinder +onlyGivenNames x
  try clear_value x
  refine Frame.step (State.writeSeconds_frame ..) (by decide) ?_
  first | with_reducible exact Frame.refl | assumption

theorem State.measure_frame (s : State) (off) (locked) :
    s.Frame (fields [.time, .health, .tally, .flashTally])
      (State.measure s off locked) := by
  unfold State.measure
  extract_lets -merge -underBinder +onlyGivenNames x
  refine Frame.cut (x := x) (fun hx => ?_) ?_
  · try clear_value x
    refine Frame.ite ?_ ?_
    · refine Frame.ite ?_ ?_
      · refine Frame.upd_time (by decide) ?_
        first | with_reducible exact Frame.refl | assumption
      · refine Frame.step (State.stepClock_frame ..) (by decide) ?_
        first | with_reducible exact Frame.refl | assumption
    · refine Frame.ite ?_ ?_
      · first | with_reducible exact Frame.refl | assumption
      · refine Frame.upd_time (by decide) ?_
        first | with_reducible exact Frame.refl | assumption
  · subst x
    refine Frame.upd_time (by decide) ?_
    first | with_reducible exact Frame.refl | assumption

theorem execPpsEdge_frame (s : State) :
    s.FrameOut (fields [.time, .health, .tally, .flashTally])
      (execPpsEdge s) := by
  unfold execPpsEdge
  refine FrameOut.next ?_
  refine Frame.onlyIf ?_ ?_
  · first | with_reducible exact Frame.refl | assumption
  · split
    · refine Frame.ite ?_ ?_
      · extract_lets -merge -underBinder +onlyGivenNames x
        refine Frame.cut (x := x) (fun hx => ?_) ?_
        · try clear_value x
          refine Frame.upd_time (by decide) ?_
          first | with_reducible exact Frame.refl | assumption
        · subst x
          refine Frame.step (State.measure_frame ..) (by decide) ?_
          first | with_reducible exact Frame.refl | assumption
      · extract_lets -merge -underBinder +onlyGivenNames x
        refine Frame.cut (x := x) (fun hx => ?_) ?_
        · try clear_value x
          refine Frame.upd_time (by decide) ?_
          first | with_reducible exact Frame.refl | assumption
        · subst x
          refine Frame.step (State.stepClock_frame ..) (by decide) ?_
          first | with_reducible exact Frame.refl | assumption
    · refine Frame.step (State.measure_frame ..) (by decide) ?_
      first | with_reducible exact Frame.refl | assumption

theorem execHoldoverEntry_frame (s : State) :
    s.FrameOut (fields [.time, .health, .tally, .flashTally])
      (execHoldoverEntry s) := by
  unfold execHoldoverEntry
  refine FrameOut.next ?_
  refine Frame.onlyIf ?_ ?_
  · first | with_reducible exact Frame.refl | assumption
  · refine Frame.step (State.event_frame ..) (by decide) ?_
    refine Frame.step (State.count_frame ..) (by decide) ?_
    refine Frame.upd_time (by decide) ?_
    first | with_reducible exact Frame.refl | assumption

theorem State.clearRefused_frame (s : State) (v) : s.Frame (fields [.time]) (State.clearRefused s v) := by
  unfold State.clearRefused
  refine Frame.ite ?_ ?_
  · refine Frame.upd_time (by decide) ?_
    first | with_reducible exact Frame.refl | assumption
  · first | with_reducible exact Frame.refl | assumption

theorem State.followSync_frame (s : State) (port) (off) (interval) :
    s.Frame (fields [.outbox, .time, .health, .tally, .flashTally])
      (State.followSync s port off interval) := by
  unfold State.followSync
  extract_lets -merge -underBinder +onlyGivenNames x
  try clear_value x
  extract_lets -merge -underBinder +onlyGivenNames x
  refine Frame.cut (x := x) (fun hx => ?_) ?_
  · try clear_value x
    refine Frame.step (State.emit_frame ..) (by decide) ?_
    refine Frame.step (State.measure_frame ..) (by decide) ?_
    first | with_reducible exact Frame.refl | assumption
  · subst x
    refine Frame.upd_time (by decide) ?_
    first | with_reducible exact Frame.refl | assumption

theorem execPtpMessage_frame (port) (msg) (s : State) :
    s.FrameOut (fields [.outbox, .time, .health, .tally, .flashTally])
      (execPtpMessage port msg s) := by
  unfold execPtpMessage
  refine FrameOut.checked ?_
  refine Frame.onlyIf ?_ ?_
  · first | with_reducible exact Frame.refl | assumption
  · split
    · refine Frame.upd_time (by decide) ?_
      first | with_reducible exact Frame.refl | assumption
    · refine Frame.ite ?_ ?_
      · refine Frame.step (State.followSync_frame ..) (by decide) ?_
        first | with_reducible exact Frame.refl | assumption
      · first | with_reducible exact Frame.refl | assumption
    · first | with_reducible exact Frame.refl | assumption

theorem State.writeRing_frame (s : State) (r) (o) (v) :
    s.Frame (fields [.outbox, .fns])
      (State.writeRing s r o v) := by
  unfold State.writeRing
  extract_lets -merge -underBinder +onlyGivenNames x
  try clear_value x
  split
  · refine Frame.ite ?_ ?_
    · first | with_reducible exact Frame.refl | assumption
    · refine Frame.step (State.onRing_frame ..) (by decide) ?_
      first | with_reducible exact Frame.refl | assumption
  · refine Frame.ite ?_ ?_
    · first | with_reducible exact Frame.refl | assumption
    · refine Frame.step (State.onRing_frame ..) (by decide) ?_
      first | with_reducible exact Frame.refl | assumption
  · refine Frame.ite ?_ ?_
    · first | with_reducible exact Frame.refl | assumption
    · refine Frame.step (State.onRing_frame ..) (by decide) ?_
      first | with_reducible exact Frame.refl | assumption
  · refine Frame.ite ?_ ?_
    · first | with_reducible exact Frame.refl | assumption
    · refine Frame.step (State.onRing_frame ..) (by decide) ?_
      first | with_reducible exact Frame.refl | assumption
  · extract_lets -merge -underBinder +onlyGivenNames x
    try clear_value x
    extract_lets -merge -underBinder +onlyGivenNames x
    try clear_value x
    refine Frame.ite ?_ ?_
    · first | with_reducible exact Frame.refl | assumption
    · refine Frame.step (State.onRing_frame ..) (by decide) ?_
      first | with_reducible exact Frame.refl | assumption
  · refine Frame.step (State.writeCtrl_frame ..) (by decide) ?_
    first | with_reducible exact Frame.refl | assumption
  · refine Frame.step (State.writeTail_frame ..) (by decide) ?_
    first | with_reducible exact Frame.refl | assumption
  · refine Frame.step (State.writeHead_frame ..) (by decide) ?_
    first | with_reducible exact Frame.refl | assumption
  · refine Frame.step (State.onRing_frame ..) (by decide) ?_
    first | with_reducible exact Frame.refl | assumption
  · extract_lets -merge -underBinder +onlyGivenNames x
    try clear_value x
    refine Frame.ite ?_ ?_
    · first | with_reducible exact Frame.refl | assumption
    · refine Frame.step (State.onRing_frame ..) (by decide) ?_
      first | with_reducible exact Frame.refl | assumption
  · refine Frame.step (State.onRing_frame ..) (by decide) ?_
    first | with_reducible exact Frame.refl | assumption
  · refine Frame.step (State.onRing_frame ..) (by decide) ?_
    first | with_reducible exact Frame.refl | assumption
  · first | with_reducible exact Frame.refl | assumption

theorem State.bar2Refusal_frame (s : State) : s.Frame (fields [.tally, .flashTally]) (State.bar2Refusal s) := by
  unfold State.bar2Refusal
  refine Frame.step (State.count_frame ..) (by decide) ?_
  refine Frame.step (State.refusal_frame ..) (by decide) ?_
  first | with_reducible exact Frame.refl | assumption

theorem execBar2Read_frame (function) (offset) (length) (response) (s : State) :
    s.FrameOut (fields [.outbox, .memUsed, .tally, .flashTally])
      (execBar2Read function offset length response s) := by
  unfold execBar2Read
  refine FrameOut.checked ?_
  refine Frame.onlyIf ?_ ?_
  · first | with_reducible exact Frame.refl | assumption
  · extract_lets -merge -underBinder +onlyGivenNames x
    try clear_value x
    refine Frame.ite ?_ ?_
    · refine Frame.step (State.emit_frame ..) (by decide) ?_
      first | with_reducible exact Frame.refl | assumption
    · extract_lets -merge -underBinder +onlyGivenNames x
      try clear_value x
      extract_lets -merge -underBinder +onlyGivenNames x
      try clear_value x
      split
      · extract_lets -merge -underBinder +onlyGivenNames x
        try clear_value x
        extract_lets -merge -underBinder +onlyGivenNames x
        refine Frame.cut (x := x) (fun hx => ?_) ?_
        · try clear_value x
          refine Frame.step (State.emit_frame ..) (by decide) ?_
          first
            | with_reducible exact Frame.refl
            | assumption
            | (refine Frame.fst ‹_› (Frame.foldlPair (fun _ _ _ => ?_) ?_)
               · split
                 · refine Frame.mk1 ?_
                   refine Frame.step (State.request_frame ..) (by decide) ?_
                   first | with_reducible exact Frame.refl | assumption
                 · refine Frame.mk1 ?_
                   refine Frame.step (State.bar2Refusal_frame ..) (by decide) ?_
                   first | with_reducible exact Frame.refl | assumption
               · refine Frame.mk1 ?_
                 first | with_reducible exact Frame.refl | assumption)
        · subst x
          refine Frame.ite ?_ ?_
          · refine Frame.step (State.count_frame ..) (by decide) ?_
            first
              | with_reducible exact Frame.refl
              | assumption
              | (refine Frame.fst ‹_› (Frame.foldlPair (fun _ _ _ => ?_) ?_)
                 · split
                   · refine Frame.mk1 ?_
                     refine Frame.step (State.request_frame ..) (by decide) ?_
                     first | with_reducible exact Frame.refl | assumption
                   · refine Frame.mk1 ?_
                     refine Frame.step (State.bar2Refusal_frame ..) (by decide) ?_
                     first | with_reducible exact Frame.refl | assumption
                 · refine Frame.mk1 ?_
                   first | with_reducible exact Frame.refl | assumption)
          · first
              | with_reducible exact Frame.refl
              | assumption
              | (refine Frame.fst ‹_› (Frame.foldlPair (fun _ _ _ => ?_) ?_)
                 · split
                   · refine Frame.mk1 ?_
                     refine Frame.step (State.request_frame ..) (by decide) ?_
                     first | with_reducible exact Frame.refl | assumption
                   · refine Frame.mk1 ?_
                     refine Frame.step (State.bar2Refusal_frame ..) (by decide) ?_
                     first | with_reducible exact Frame.refl | assumption
                 · refine Frame.mk1 ?_
                   first | with_reducible exact Frame.refl | assumption)

theorem State.writeMsix_frame (s : State) (f) (o) (v) :
    s.Frame (fields [.outbox, .fns])
      (State.writeMsix s f o v) := by
  unfold State.writeMsix
  extract_lets -merge -underBinder +onlyGivenNames x
  try clear_value x
  extract_lets -merge -underBinder +onlyGivenNames x
  refine Frame.cut (x := x) (fun hx => ?_) ?_
  · try clear_value x
    refine Frame.step (State.flushMsix_frame ..) (by decide) ?_
    first | with_reducible exact Frame.refl | assumption
  · subst x
    refine Frame.step (State.onFn_frame ..) (by decide) ?_
    first | with_reducible exact Frame.refl | assumption

theorem State.badAccess_frame (s : State) (f) (size) (isWrite) :
    s.Frame (fields [.outbox, .tally, .flashTally])
      (State.badAccess s f size isWrite) := by
  unfold State.badAccess
  extract_lets -merge -underBinder +onlyGivenNames x
  refine Frame.cut (x := x) (fun hx => ?_) ?_
  · try clear_value x
    refine Frame.ite ?_ ?_
    · first | with_reducible exact Frame.refl | assumption
    · refine Frame.step (State.emit_frame ..) (by decide) ?_
      first | with_reducible exact Frame.refl | assumption
  · subst x
    refine Frame.step (State.count_frame ..) (by decide) ?_
    first | with_reducible exact Frame.refl | assumption

theorem execChrTimeRead_frame (function) (size) (s : State) :
    s.FrameOut (fields [.outbox, .fns, .tally, .flashTally])
      (execChrTimeRead function size s) := by
  unfold execChrTimeRead
  refine FrameOut.checked ?_
  refine Frame.onlyIf ?_ ?_
  · first | with_reducible exact Frame.refl | assumption
  · refine Frame.ite ?_ ?_
    · refine Frame.step (State.badAccess_frame ..) (by decide) ?_
      first | with_reducible exact Frame.refl | assumption
    · refine Frame.step (State.emit_frame ..) (by decide) ?_
      refine Frame.step (State.onFn_frame ..) (by decide) ?_
      first | with_reducible exact Frame.refl | assumption

theorem execChrSecondsWrite_frame (caller) (value) (s : State) :
    s.FrameOut (fields [.time])
      (execChrSecondsWrite caller value s) := by
  unfold execChrSecondsWrite
  refine FrameOut.checked ?_
  refine Frame.onlyIf ?_ ?_
  · first | with_reducible exact Frame.refl | assumption
  · refine Frame.step (State.writeSeconds_frame ..) (by decide) ?_
    first | with_reducible exact Frame.refl | assumption

theorem State.writeEntry_frame (s : State) (core) (r) (v) :
    s.Frame (fields [.health])
      (State.writeEntry s core r v) := by
  unfold State.writeEntry
  extract_lets -merge -underBinder +onlyGivenNames x
  try clear_value x
  refine Frame.upd_health (by decide) ?_
  first | with_reducible exact Frame.refl | assumption

theorem State.writeWindow_frame (s : State) (o) (v) :
    s.Frame (fields [.parts, .health, .tally, .flashTally])
      (State.writeWindow s o v) := by
  unfold State.writeWindow
  extract_lets -merge -underBinder +onlyGivenNames x
  try clear_value x
  extract_lets -merge -underBinder +onlyGivenNames x
  try clear_value x
  refine Frame.ite ?_ ?_
  · refine Frame.step (State.writeEntry_frame ..) (by decide) ?_
    first | with_reducible exact Frame.refl | assumption
  · refine Frame.ite ?_ ?_
    · refine Frame.ite ?_ ?_
      · refine Frame.step (State.goApply_frame ..) (by decide) ?_
        first | with_reducible exact Frame.refl | assumption
      · refine Frame.ite ?_ ?_
        · refine Frame.step (State.goClear_frame ..) (by decide) ?_
          first | with_reducible exact Frame.refl | assumption
        · first | with_reducible exact Frame.refl | assumption
    · first | with_reducible exact Frame.refl | assumption

theorem State.writeWord_frame (s : State) (f) (o) (v) :
    s.Frame (fields [.outbox, .fns, .parts, .time, .health, .tally, .flashTally])
      (State.writeWord s f o v) := by
  unfold State.writeWord
  extract_lets -merge -underBinder +onlyGivenNames x
  try clear_value x
  refine Frame.ite ?_ ?_
  · refine Frame.ite ?_ ?_
    · refine Frame.upd_health (by decide) ?_
      first | with_reducible exact Frame.refl | assumption
    · first | with_reducible exact Frame.refl | assumption
  · refine Frame.ite ?_ ?_
    · refine Frame.step (State.onFn_frame ..) (by decide) ?_
      first | with_reducible exact Frame.refl | assumption
    · refine Frame.ite ?_ ?_
      · refine Frame.ite ?_ ?_
        · refine Frame.step (State.writeRing_frame ..) (by decide) ?_
          first | with_reducible exact Frame.refl | assumption
        · first | with_reducible exact Frame.refl | assumption
      · refine Frame.ite ?_ ?_
        · refine Frame.ite ?_ ?_
          · refine Frame.step (State.clearRefused_frame ..) (by decide) ?_
            first | with_reducible exact Frame.refl | assumption
          · first | with_reducible exact Frame.refl | assumption
        · refine Frame.ite ?_ ?_
          · refine Frame.ite ?_ ?_
            · refine Frame.step (State.writeSecondsHalf_frame ..) (by decide) ?_
              first | with_reducible exact Frame.refl | assumption
            · first | with_reducible exact Frame.refl | assumption
          · refine Frame.ite ?_ ?_
            · refine Frame.step (State.writeMsix_frame ..) (by decide) ?_
              first | with_reducible exact Frame.refl | assumption
            · refine Frame.ite ?_ ?_
              · refine Frame.step (State.writeWindow_frame ..) (by decide) ?_
                first | with_reducible exact Frame.refl | assumption
              · first | with_reducible exact Frame.refl | assumption

theorem State.writeBar0_frame (s : State) (f) (o) (size) (v) :
    s.Frame (fields [.outbox, .fns, .parts, .time, .health, .tally, .flashTally])
      (State.writeBar0 s f o size v) := by
  unfold State.writeBar0
  refine Frame.ite ?_ ?_
  · refine Frame.step (State.badAccess_frame ..) (by decide) ?_
    first | with_reducible exact Frame.refl | assumption
  · refine Frame.ite ?_ ?_
    · refine Frame.step (State.count_frame ..) (by decide) ?_
      first | with_reducible exact Frame.refl | assumption
    · extract_lets -merge -underBinder +onlyGivenNames x
      refine Frame.cut (x := x) (fun hx => ?_) ?_
      · try clear_value x
        refine Frame.ite ?_ ?_
        · refine Frame.step (State.writeWord_frame ..) (by decide) ?_
          first | with_reducible exact Frame.refl | assumption
        · first | with_reducible exact Frame.refl | assumption
      · subst x
        refine Frame.step (State.writeWord_frame ..) (by decide) ?_
        first | with_reducible exact Frame.refl | assumption

theorem execRegisterWrite_frame (caller) (offset) (size) (value) (s : State) :
    s.FrameOut (fields [.outbox, .fns, .parts, .time, .health, .tally, .flashTally])
      (execRegisterWrite caller offset size value s) := by
  unfold execRegisterWrite
  refine FrameOut.checked ?_
  refine Frame.onlyIf ?_ ?_
  · first | with_reducible exact Frame.refl | assumption
  · refine Frame.step (State.writeBar0_frame ..) (by decide) ?_
    first | with_reducible exact Frame.refl | assumption

theorem wf_writeEnabled {m : ByteStore} {a : Nat} {b : List (Byte × Bool)} (h : Tab.wf 0 m = true) :
    Tab.wf 0 (writeEnabled m a b) = true := by
  induction b generalizing m a with
  | nil => exact h
  | cons x b ih =>
    refine ih ?_
    split
    · exact Tab.wf_setD h
    · exact h

theorem execBar2Write_frame (function offset data enables) (s : State) :
    s.FrameOut (fields [.mem, .memUsed, .tally, .flashTally]) (execBar2Write function offset data enables s) := by
  refine FrameOut.checked (Frame.onlyIf Frame.refl (Frame.foldl (fun _ _ h => ?_) Frame.refl))
  split
  · exact Frame.upd_mem (by decide) (fun h => Inv.ofMem h (wf_writeEnabled (State.request_mem .. ▸ h.1)))
      (Frame.step (State.request_frame ..) (by decide) h)
  · exact Frame.step (State.bar2Refusal_frame ..) (by decide) h

theorem execBar0BadAccess_frame (function) (size) (isWrite) (s : State) :
    s.FrameOut (fields [.outbox, .tally, .flashTally])
      (execBar0BadAccess function size isWrite s) := by
  unfold execBar0BadAccess
  refine FrameOut.checked ?_
  refine Frame.onlyIf ?_ ?_
  · first | with_reducible exact Frame.refl | assumption
  · refine Frame.step (State.badAccess_frame ..) (by decide) ?_
    first | with_reducible exact Frame.refl | assumption

theorem State.fwState_frame (s : State) (n) (keep) : s.Frame (fields [.mgt]) (State.fwState s n keep) := by
  unfold State.fwState
  refine Frame.upd_mgt (by decide) ?_
  first | with_reducible exact Frame.refl | assumption

theorem State.endMgt_frame (s : State) (n) : s.Frame (fields [.mgt, .tally, .flashTally]) (State.endMgt s n) := by
  unfold State.endMgt
  extract_lets -merge -underBinder +onlyGivenNames x
  try clear_value x
  extract_lets -merge -underBinder +onlyGivenNames x
  try clear_value x
  extract_lets -merge -underBinder +onlyGivenNames x
  refine Frame.cut (x := x) (fun hx => ?_) ?_
  · try clear_value x
    refine Frame.ite ?_ ?_
    · refine Frame.step (State.count_frame ..) (by decide) ?_
      first | with_reducible exact Frame.refl | assumption
    · first | with_reducible exact Frame.refl | assumption
  · subst x
    refine Frame.upd_mgt (by decide) ?_
    first | with_reducible exact Frame.refl | assumption

theorem State.mgtDiscard_frame (s : State) : s.Frame (fields [.tally, .flashTally]) (State.mgtDiscard s) := by
  unfold State.mgtDiscard
  refine Frame.step (State.count_frame ..) (by decide) ?_
  first | with_reducible exact Frame.refl | assumption

theorem State.mgtReply_frame (s : State) (session) (type) (status) (seq) (data) :
    s.Frame (fields [.outbox])
      (State.mgtReply s session type status seq data) := by
  unfold State.mgtReply
  refine Frame.step (State.emit_frame ..) (by decide) ?_
  first | with_reducible exact Frame.refl | assumption

theorem State.FrameOut.mgtRow {w : Nat} {s : State} {req : MgtRequest} {type : Nat} {f : State → Answer}
    (hs : fields [.outbox, .mgt, .tally, .flashTally] &&& w = fields [.outbox, .mgt, .tally, .flashTally])
    (hf : s.Frame w (f s).2.2) : s.FrameOut w (Machine.mgtRow req type s f) := by
  refine FrameOut.next (Frame.onlyIf Frame.refl ?_)
  have hd := Frame.step ((State.mgtDiscard_frame s).mono (w := fields [.outbox, .mgt, .tally, .flashTally]) (by decide)) hs Frame.refl
  split
  · exact hd
  · refine Frame.ite hd (Frame.ite hd (Frame.ite ?_ ?_))
    · exact Frame.step ((State.mgtReply_frame ..).mono (w := fields [.outbox, .mgt, .tally, .flashTally]) (by decide)) hs Frame.refl
    · split
      rename_i e
      rw [e] at hf
      extract_lets -merge src s1 s2
      have h1 : s.Frame w s1 := Frame.step ((Frame.upd_mgt (w := fields [.outbox, .mgt, .tally, .flashTally]) (by decide) Frame.refl)) hs hf
      have h2 : s.Frame w s2 := Frame.step ((State.mgtReply_frame ..).mono (w := fields [.outbox, .mgt, .tally, .flashTally]) (by decide)) hs h1
      exact Frame.ite (Frame.step ((State.endMgt_frame ..).mono (w := fields [.outbox, .mgt, .tally, .flashTally]) (by decide)) hs h2) h2

theorem execCredentialReplacement_frame (req keys sigOk) (s : State) :
    s.FrameOut (fields [.outbox, .mgt, .flash, .tally, .flashTally]) (execCredentialReplacement req keys sigOk s) := by
  refine FrameOut.mgtRow (by decide) ?_
  split
  · exact Frame.refl
  · split
    · exact Frame.refl
    · exact Frame.upd_flash (by decide) Frame.refl

theorem State.takeAction_frame {w : Nat} {α : Type} {s a : State} {pick : MgtAction → Option α} {f : α → State → State}
    (hs : fields [.mgt] &&& w = fields [.mgt])
    (hf : ∀ c t, s.Frame w t → s.Frame w (f c t)) (ha : s.Frame w a) : s.Frame w (a.takeAction pick f) := by
  unfold State.takeAction
  split
  · exact ha
  · exact hf _ _ (Frame.upd_mgt hs ha)

theorem execMgtAddrWrite_frame (s : State) :
    s.FrameOut (fields [.mgt, .flash, .flashTally])
      (execMgtAddrWrite s) := by
  unfold execMgtAddrWrite
  refine FrameOut.next ?_
  refine State.takeAction_frame (by decide) (fun _ _ _ => ?_) ?_
  · split
    · refine Frame.upd_mgt_flash (by decide) ?_
      first | with_reducible exact Frame.refl | assumption
  · first | with_reducible exact Frame.refl | assumption

theorem execFwCheckComplete_frame (verdict) (s : State) :
    s.FrameOut (fields [.mgt, .flash, .tally, .flashTally])
      (execFwCheckComplete verdict s) := by
  unfold execFwCheckComplete
  refine FrameOut.next ?_
  refine Frame.onlyIf ?_ ?_
  · first | with_reducible exact Frame.refl | assumption
  · extract_lets -merge -underBinder +onlyGivenNames x
    try clear_value x
    refine Frame.ite ?_ ?_
    · refine Frame.step (State.count_frame ..) (by decide) ?_
      refine Frame.step (State.fwState_frame ..) (by decide) ?_
      first | with_reducible exact Frame.refl | assumption
    · extract_lets -merge -underBinder +onlyGivenNames x
      try clear_value x
      extract_lets -merge -underBinder +onlyGivenNames x
      refine Frame.cut (x := x) (fun hx => ?_) ?_
      · try clear_value x
        refine Frame.upd_mgt_flash (by decide) ?_
        first | with_reducible exact Frame.refl | assumption
      · subst x
        refine Frame.step (State.fwState_frame ..) (by decide) ?_
        first | with_reducible exact Frame.refl | assumption

theorem State.FrameOut.actionRow {w : Nat} {s : State} {a : MgtAction} {f : State → State}
    (hs : fields [.mgt] &&& w = fields [.mgt])
    (hf : ∀ t, s.Frame w t → s.Frame w (f t)) : s.FrameOut w (Machine.actionRow a s f) :=
  FrameOut.next (State.takeAction_frame hs (fun _ t => hf t) Frame.refl)

theorem execFwAbort_frame (s : State) : s.FrameOut (fields [.mgt]) (execFwAbort s) := by
  unfold execFwAbort
  refine FrameOut.actionRow (by decide) (fun _ _ => ?_)
  refine Frame.ite ?_ ?_
  · first | with_reducible exact Frame.refl | assumption
  · refine Frame.step (State.fwState_frame ..) (by decide) ?_
    first | with_reducible exact Frame.refl | assumption

theorem execI3cCommonCommand_frame (command) (s : State) :
    s.FrameOut (fields [.outbox, .freeCount, .mgt])
      (execI3cCommonCommand command s) := by
  unfold execI3cCommonCommand
  refine FrameOut.next ?_
  refine Frame.onlyIf ?_ ?_
  · first | with_reducible exact Frame.refl | assumption
  · extract_lets -merge -underBinder +onlyGivenNames x
    try clear_value x
    extract_lets -merge -underBinder +onlyGivenNames x
    refine Frame.cut (x := x) (fun hx => ?_) ?_
    · try clear_value x
      extract_lets -merge -underBinder +onlyGivenNames x
      try clear_value x
      split
      · refine Frame.ite ?_ ?_
        · refine Frame.upd_mgt (by decide) ?_
          first | with_reducible exact Frame.refl | assumption
        · first | with_reducible exact Frame.refl | assumption
      · refine Frame.ite ?_ ?_
        · refine Frame.upd_mgt (by decide) ?_
          first | with_reducible exact Frame.refl | assumption
        · first | with_reducible exact Frame.refl | assumption
      · refine Frame.upd_mgt (by decide) ?_
        first | with_reducible exact Frame.refl | assumption
      · refine Frame.step (State.emit_frame ..) (by decide) ?_
        first | with_reducible exact Frame.refl | assumption
      · refine Frame.step (State.emit_frame ..) (by decide) ?_
        first | with_reducible exact Frame.refl | assumption
      · refine Frame.step (State.emit_frame ..) (by decide) ?_
        first | with_reducible exact Frame.refl | assumption
      · split
        · refine Frame.step (State.emit_frame ..) (by decide) ?_
          first
            | with_reducible exact Frame.refl
            | assumption
            | (refine Frame.step (Frame.snd ‹_› (State.draw_frame ..)) (by decide) ?_
               first | with_reducible exact Frame.refl | assumption)
      · refine Frame.upd_mgt (by decide) ?_
        first | with_reducible exact Frame.refl | assumption
      · refine Frame.upd_mgt (by decide) ?_
        first | with_reducible exact Frame.refl | assumption
    · subst x
      refine Frame.upd_mgt (by decide) ?_
      first | with_reducible exact Frame.refl | assumption

theorem execMgtResetWarm_frame (s : State) :
    s.FrameOut (fieldsBut [.pending, .freeCount, .nextCmd])
      (execMgtResetWarm s) := by
  unfold execMgtResetWarm
  refine FrameOut.actionRow (by decide) (fun _ _ => ?_)
  refine Frame.step (State.requestReset_frame ..) (by decide) ?_
  first | with_reducible exact Frame.refl | assumption

theorem State.mgtAct_frame (s : State) (a) : s.Frame (fields [.mgt]) (State.mgtAct s a) := by
  unfold State.mgtAct
  refine Frame.upd_mgt (by decide) ?_
  first | with_reducible exact Frame.refl | assumption

theorem execMgtAttest_frame (req nonce) (s : State) :
    s.FrameOut (fields [.outbox, .mgt, .tally, .flashTally]) (execMgtAttest req nonce s) := by
  refine FrameOut.mgtRow (by decide) ?_
  split <;> exact Frame.refl

theorem execMgtResetCold_frame (s : State) :
    s.FrameOut (fieldsBut [.pending, .freeCount, .nextCmd])
      (execMgtResetCold s) := by
  unfold execMgtResetCold
  refine FrameOut.actionRow (by decide) (fun _ _ => ?_)
  refine Frame.step (State.requestReset_frame ..) (by decide) ?_
  first | with_reducible exact Frame.refl | assumption

theorem State.mgtWriteWord_frame (s : State) (o) (v) : s.Frame (fields [.mgt, .time]) (State.mgtWriteWord s o v) := by
  unfold State.mgtWriteWord
  refine Frame.ite ?_ ?_
  · refine Frame.ite ?_ ?_
    · first | with_reducible exact Frame.refl | assumption
    · refine Frame.ite ?_ ?_
      · refine Frame.step (State.mgtAct_frame ..) (by decide) ?_
        first | with_reducible exact Frame.refl | assumption
      · refine Frame.ite ?_ ?_
        · refine Frame.step (State.mgtAct_frame ..) (by decide) ?_
          first | with_reducible exact Frame.refl | assumption
        · first | with_reducible exact Frame.refl | assumption
  · refine Frame.ite ?_ ?_
    · refine Frame.step (State.mgtAct_frame ..) (by decide) ?_
      first | with_reducible exact Frame.refl | assumption
    · refine Frame.ite ?_ ?_
      · refine Frame.ite ?_ ?_
        · refine Frame.step (State.mgtAct_frame ..) (by decide) ?_
          first | with_reducible exact Frame.refl | assumption
        · refine Frame.ite ?_ ?_
          · refine Frame.step (State.mgtAct_frame ..) (by decide) ?_
            first | with_reducible exact Frame.refl | assumption
          · refine Frame.ite ?_ ?_
            · refine Frame.step (State.mgtAct_frame ..) (by decide) ?_
              first | with_reducible exact Frame.refl | assumption
            · first | with_reducible exact Frame.refl | assumption
      · refine Frame.ite ?_ ?_
        · refine Frame.upd_mgt (by decide) ?_
          first | with_reducible exact Frame.refl | assumption
        · refine Frame.ite ?_ ?_
          · refine Frame.step (State.clearRefused_frame ..) (by decide) ?_
            first | with_reducible exact Frame.refl | assumption
          · refine Frame.ite ?_ ?_
            · refine Frame.step (State.writeSecondsHalf_frame ..) (by decide) ?_
              first | with_reducible exact Frame.refl | assumption
            · first | with_reducible exact Frame.refl | assumption

theorem execFwWriteComplete_frame (s : State) :
    s.FrameOut (fields [.mgt, .flash, .flashTally])
      (execFwWriteComplete s) := by
  unfold execFwWriteComplete
  refine FrameOut.next ?_
  refine Frame.onlyIf ?_ ?_
  · first | with_reducible exact Frame.refl | assumption
  · extract_lets -merge -underBinder +onlyGivenNames x
    try clear_value x
    extract_lets -merge -underBinder +onlyGivenNames x
    refine Frame.cut (x := x) (fun hx => ?_) ?_
    · try clear_value x
      refine Frame.upd_mgt_flash (by decide) ?_
      first | with_reducible exact Frame.refl | assumption
    · subst x
      refine Frame.step (State.fwState_frame ..) (by decide) ?_
      first | with_reducible exact Frame.refl | assumption

theorem execMgtCert_frame (req ) (s : State) :
    s.FrameOut (fields [.outbox, .mgt, .tally, .flashTally]) (execMgtCert req  s) := by
  refine FrameOut.mgtRow (by decide) ?_
  exact Frame.refl

theorem execMgtRead_frame (req offset length) (s : State) :
    s.FrameOut (fields [.outbox, .mgt, .tally, .flashTally]) (execMgtRead req offset length s) := by
  refine FrameOut.mgtRow (by decide) ?_
  split <;> exact Frame.refl

theorem execFwStart_frame (s : State) : s.FrameOut (fields [.mgt]) (execFwStart s) := by
  unfold execFwStart
  refine FrameOut.actionRow (by decide) (fun _ _ => ?_)
  refine Frame.ite ?_ ?_
  · first | with_reducible exact Frame.refl | assumption
  · refine Frame.step (State.fwState_frame ..) (by decide) ?_
    first | with_reducible exact Frame.refl | assumption

theorem execFaultRead_frame (req index) (s : State) :
    s.FrameOut (fields [.outbox, .mgt, .tally, .flashTally]) (execFaultRead req index s) := by
  refine FrameOut.mgtRow (by decide) ?_
  split <;> exact Frame.refl

theorem State.makeRoom_frame (s : State) : s.Frame (fields [.mgt, .tally, .flashTally]) (State.makeRoom s) := by
  unfold State.makeRoom
  refine Frame.ite ?_ ?_
  · first | with_reducible exact Frame.refl | assumption
  · refine Frame.withSome ?_ (fun _ => ?_)
    · first | with_reducible exact Frame.refl | assumption
    · refine Frame.step (State.endMgt_frame ..) (by decide) ?_
      first | with_reducible exact Frame.refl | assumption

theorem State.mgtRespond_frame (s : State) (hello) :
    s.Frame (fields [.outbox, .security, .mgt, .tally, .flashTally])
      (State.mgtRespond s hello) := by
  unfold State.mgtRespond
  extract_lets -merge -underBinder +onlyGivenNames x
  refine Frame.cut (x := x) (fun hx => ?_) ?_
  · try clear_value x
    extract_lets -merge -underBinder +onlyGivenNames x
    try clear_value x
    extract_lets -merge -underBinder +onlyGivenNames x
    try clear_value x
    extract_lets -merge -underBinder +onlyGivenNames x
    try clear_value x
    extract_lets -merge -underBinder +onlyGivenNames x
    try clear_value x
    extract_lets -merge -underBinder +onlyGivenNames x
    try clear_value x
    extract_lets -merge -underBinder +onlyGivenNames x
    try clear_value x
    extract_lets -merge -underBinder +onlyGivenNames x
    try clear_value x
    extract_lets -merge -underBinder +onlyGivenNames x
    refine Frame.cut (x := x) (fun hx => ?_) ?_
    · try clear_value x
      refine Frame.step (State.mgtReply_frame ..) (by decide) ?_
      first | with_reducible exact Frame.refl | assumption
    · subst x
      refine Frame.upd_security_mgt (by decide) ?_
      first | with_reducible exact Frame.refl | assumption
  · subst x
    refine Frame.step (State.makeRoom_frame ..) (by decide) ?_
    first | with_reducible exact Frame.refl | assumption

theorem execFwChunk_frame (req offset data) (s : State) :
    s.FrameOut (fields [.outbox, .mgt, .tally, .flashTally]) (execFwChunk req offset data s) := by
  refine FrameOut.mgtRow (by decide) ?_
  extract_lets -merge m
  split
  · exact Frame.refl
  · split
    · exact Frame.refl
    · split
      · exact Frame.refl
      · exact Frame.upd_mgt (by decide) Frame.refl

theorem execSmbusBlockRead_frame (command) (s : State) :
    s.FrameOut (fields [.outbox])
      (execSmbusBlockRead command s) := by
  unfold execSmbusBlockRead
  refine FrameOut.next ?_
  refine Frame.onlyIf ?_ ?_
  · first | with_reducible exact Frame.refl | assumption
  · refine Frame.ite ?_ ?_
    · refine Frame.step (State.emit_frame ..) (by decide) ?_
      first | with_reducible exact Frame.refl | assumption
    · refine Frame.ite ?_ ?_
      · refine Frame.step (State.emit_frame ..) (by decide) ?_
        first | with_reducible exact Frame.refl | assumption
      · refine Frame.ite ?_ ?_
        · refine Frame.step (State.emit_frame ..) (by decide) ?_
          first | with_reducible exact Frame.refl | assumption
        · first | with_reducible exact Frame.refl | assumption

theorem execManagementCredentialRecovery_frame (token) (sigOk) (s : State) :
    s.FrameOut (fields [.flash, .tally, .flashTally])
      (execManagementCredentialRecovery token sigOk s) := by
  unfold execManagementCredentialRecovery
  refine FrameOut.next ?_
  refine Frame.onlyIf ?_ ?_
  · first | with_reducible exact Frame.refl | assumption
  · refine Frame.ite ?_ ?_
    · refine Frame.step (State.count_frame ..) (by decide) ?_
      refine Frame.upd_flash (by decide) ?_
      first | with_reducible exact Frame.refl | assumption
    · refine Frame.step (State.count_frame ..) (by decide) ?_
      first | with_reducible exact Frame.refl | assumption

theorem execMgtCapWrite_frame (s : State) :
    s.FrameOut (fields [.outbox, .parts, .cmds, .ended, .config, .mgt, .tally, .flashTally])
      (execMgtCapWrite s) := by
  unfold execMgtCapWrite
  refine FrameOut.next ?_
  refine State.takeAction_frame (by decide) (fun _ _ _ => ?_) ?_
  · refine Frame.ite ?_ ?_
    · first | with_reducible exact Frame.refl | assumption
    · extract_lets -merge -underBinder +onlyGivenNames x
      try clear_value x
      extract_lets -merge -underBinder +onlyGivenNames x
      refine Frame.cut (x := x) (fun hx => ?_) ?_
      · try clear_value x
        refine Frame.ite ?_ ?_
        · refine Frame.step (State.setCapState_frame ..) (by decide) ?_
          first | with_reducible exact Frame.refl | assumption
        · split
          · refine Frame.step (State.commitFails_frame ..) (by decide) ?_
            refine Frame.step (State.count_frame ..) (by decide) ?_
            first
              | with_reducible exact Frame.refl
              | assumption
              | (refine Frame.step (Frame.snd ‹_› (State.checkCommit_frame ..)) (by decide) ?_
                 first | with_reducible exact Frame.refl | assumption)
          · refine Frame.step (State.setCapState_frame ..) (by decide) ?_
            refine Frame.step (State.setCommit_frame ..) (by decide) ?_
            first
              | with_reducible exact Frame.refl
              | assumption
              | (refine Frame.step (Frame.snd ‹_› (State.checkCommit_frame ..)) (by decide) ?_
                 first | with_reducible exact Frame.refl | assumption)
      · subst x
        refine Frame.upd_mgt (by decide) ?_
        first | with_reducible exact Frame.refl | assumption
  · first | with_reducible exact Frame.refl | assumption

theorem execMgtAddrTakeEffect_frame (s : State) : s.FrameOut (fields [.mgt]) (execMgtAddrTakeEffect s) := by
  unfold execMgtAddrTakeEffect
  refine FrameOut.next ?_
  refine Frame.onlyIf ?_ ?_
  · first | with_reducible exact Frame.refl | assumption
  · extract_lets -merge -underBinder +onlyGivenNames x
    try clear_value x
    extract_lets -merge -underBinder +onlyGivenNames x
    try clear_value x
    refine Frame.foldl (fun _ _ _ => ?_) ?_
    · refine Frame.upd_mgt (by decide) ?_
      first | with_reducible exact Frame.refl | assumption
    · refine Frame.upd_mgt (by decide) ?_
      first | with_reducible exact Frame.refl | assumption

theorem execMgtConfirm_frame (session) (macOk) (s : State) :
    s.FrameOut (fields [.outbox, .mgt, .tally, .flashTally])
      (execMgtConfirm session macOk s) := by
  unfold execMgtConfirm
  refine FrameOut.next ?_
  refine Frame.onlyIf ?_ ?_
  · first | with_reducible exact Frame.refl | assumption
  · split
    · refine Frame.step (State.mgtReply_frame ..) (by decide) ?_
      first | with_reducible exact Frame.refl | assumption
    · refine Frame.ite ?_ ?_
      · refine Frame.step (State.mgtReply_frame ..) (by decide) ?_
        refine Frame.step (State.count_frame ..) (by decide) ?_
        refine Frame.step (State.endMgt_frame ..) (by decide) ?_
        first | with_reducible exact Frame.refl | assumption
      · extract_lets -merge -underBinder +onlyGivenNames x
        try clear_value x
        extract_lets -merge -underBinder +onlyGivenNames x
        refine Frame.cut (x := x) (fun hx => ?_) ?_
        · try clear_value x
          refine Frame.step (State.mgtReply_frame ..) (by decide) ?_
          refine Frame.step (State.count_frame ..) (by decide) ?_
          first | with_reducible exact Frame.refl | assumption
        · subst x
          refine Frame.upd_mgt (by decide) ?_
          first | with_reducible exact Frame.refl | assumption

theorem execMgtHello_frame (msg) (s : State) :
    s.FrameOut (fields [.outbox, .security, .mgt, .flash, .tally, .flashTally])
      (execMgtHello msg s) := by
  unfold execMgtHello
  refine FrameOut.next ?_
  refine Frame.onlyIf ?_ ?_
  · first | with_reducible exact Frame.refl | assumption
  · extract_lets -merge -underBinder +onlyGivenNames x
    try clear_value x
    extract_lets -merge -underBinder +onlyGivenNames x
    try clear_value x
    refine Frame.ite ?_ ?_
    · refine Frame.step (State.mgtReply_frame ..) (by decide) ?_
      first | with_reducible exact Frame.refl | assumption
    · refine Frame.ite ?_ ?_
      · refine Frame.step (State.mgtReply_frame ..) (by decide) ?_
        refine Frame.step (State.count_frame ..) (by decide) ?_
        first | with_reducible exact Frame.refl | assumption
      · refine Frame.ite ?_ ?_
        · refine Frame.step (State.mgtReply_frame ..) (by decide) ?_
          first | with_reducible exact Frame.refl | assumption
        · extract_lets -merge -underBinder +onlyGivenNames x
          try clear_value x
          extract_lets -merge -underBinder +onlyGivenNames x
          refine Frame.cut (x := x) (fun hx => ?_) ?_
          · try clear_value x
            refine Frame.step (State.mgtRespond_frame ..) (by decide) ?_
            first | with_reducible exact Frame.refl | assumption
          · subst x
            refine Frame.ite ?_ ?_
            · refine Frame.upd_flash (by decide) ?_
              first | with_reducible exact Frame.refl | assumption
            · first | with_reducible exact Frame.refl | assumption

theorem execFwCommit_frame (s : State) : s.FrameOut (fields [.mgt, .tally, .flashTally]) (execFwCommit s) := by
  unfold execFwCommit
  refine FrameOut.actionRow (by decide) (fun _ _ => ?_)
  refine Frame.ite ?_ ?_
  · first | with_reducible exact Frame.refl | assumption
  · refine Frame.ite ?_ ?_
    · refine Frame.step (State.fwState_frame ..) (by decide) ?_
      first | with_reducible exact Frame.refl | assumption
    · refine Frame.step (State.count_frame ..) (by decide) ?_
      refine Frame.step (State.fwState_frame ..) (by decide) ?_
      first | with_reducible exact Frame.refl | assumption

theorem execMgtSessionIdleTimeout_frame (session) (s : State) :
    s.FrameOut (fields [.mgt, .tally, .flashTally])
      (execMgtSessionIdleTimeout session s) := by
  unfold execMgtSessionIdleTimeout
  refine FrameOut.next ?_
  refine Frame.withSome ?_ (fun _ => ?_)
  · first | with_reducible exact Frame.refl | assumption
  · refine Frame.ite ?_ ?_
    · refine Frame.ite ?_ ?_
      · refine Frame.step (State.endMgt_frame ..) (by decide) ?_
        first | with_reducible exact Frame.refl | assumption
      · first | with_reducible exact Frame.refl | assumption
    · refine Frame.ite ?_ ?_
      · refine Frame.step (State.count_frame ..) (by decide) ?_
        refine Frame.step (State.endMgt_frame ..) (by decide) ?_
        first | with_reducible exact Frame.refl | assumption
      · first | with_reducible exact Frame.refl | assumption

theorem execMgtWrite_frame (req offset data) (s : State) :
    s.FrameOut (fields [.outbox, .mgt, .time, .tally, .flashTally]) (execMgtWrite req offset data s) := by
  refine FrameOut.mgtRow (by decide) ?_
  have hc : s.Frame (fields [.outbox, .mgt, .time, .tally, .flashTally]) (s.count 51 6) := Frame.step (State.count_frame ..) (by decide) Frame.refl
  extract_lets -merge n ws
  split
  · exact hc
  · split
    · exact hc
    · have h := Frame.foldl (w := fields [.outbox, .mgt, .time, .tally, .flashTally]) (s := s) (a := s) (l := ws)
        (f := fun s w => s.mgtWriteWord w.1 w.2) (fun _ _ h => Frame.step (State.mgtWriteWord_frame ..) (by decide) h) Frame.refl
      exact Frame.ite h (Frame.step (State.mgtAct_frame ..) (by decide) h)

end Sys2Proof.Machine
end

