-- ==== Sys2Proof/Laws/State.lean ====
section
/-! SUPPORT. What each named update of the state leaves in each field: one lemma for each, so that no proof
unfolds an update of the record; and what the accessors read after one. -/

namespace Sys2Proof.Machine.State

section setFn
@[simp] theorem setFn_pending (s : State) (f x) : (s.setFn f x).pending = s.pending := rfl
@[simp] theorem setFn_outbox (s : State) (f x) : (s.setFn f x).outbox = s.outbox := rfl
@[simp] theorem setFn_freeCount (s : State) (f x) : (s.setFn f x).freeCount = s.freeCount := rfl
@[simp] theorem setFn_parts (s : State) (f x) : (s.setFn f x).parts = s.parts := rfl
@[simp] theorem setFn_cmds (s : State) (f x) : (s.setFn f x).cmds = s.cmds := rfl
@[simp] theorem setFn_nextCmd (s : State) (f x) : (s.setFn f x).nextCmd = s.nextCmd := rfl
@[simp] theorem setFn_ended (s : State) (f x) : (s.setFn f x).ended = s.ended := rfl
@[simp] theorem setFn_turn (s : State) (f x) : (s.setFn f x).turn = s.turn := rfl
@[simp] theorem setFn_config (s : State) (f x) : (s.setFn f x).config = s.config := rfl
@[simp] theorem setFn_mem (s : State) (f x) : (s.setFn f x).mem = s.mem := rfl
@[simp] theorem setFn_regions (s : State) (f x) : (s.setFn f x).regions = s.regions := rfl
@[simp] theorem setFn_scrubs (s : State) (f x) : (s.setFn f x).scrubs = s.scrubs := rfl
@[simp] theorem setFn_unmaps (s : State) (f x) : (s.setFn f x).unmaps = s.unmaps := rfl
@[simp] theorem setFn_refreshing (s : State) (f x) : (s.setFn f x).refreshing = s.refreshing := rfl
@[simp] theorem setFn_memUsed (s : State) (f x) : (s.setFn f x).memUsed = s.memUsed := rfl
@[simp] theorem setFn_links (s : State) (f x) : (s.setFn f x).links = s.links := rfl
@[simp] theorem setFn_cores (s : State) (f x) : (s.setFn f x).cores = s.cores := rfl
@[simp] theorem setFn_counters (s : State) (f x) : (s.setFn f x).counters = s.counters := rfl
@[simp] theorem setFn_routes (s : State) (f x) : (s.setFn f x).routes = s.routes := rfl
@[simp] theorem setFn_runs (s : State) (f x) : (s.setFn f x).runs = s.runs := rfl
@[simp] theorem setFn_nextRun (s : State) (f x) : (s.setFn f x).nextRun = s.nextRun := rfl
@[simp] theorem setFn_streams (s : State) (f x) : (s.setFn f x).streams = s.streams := rfl
@[simp] theorem setFn_channels (s : State) (f x) : (s.setFn f x).channels = s.channels := rfl
@[simp] theorem setFn_ports (s : State) (f x) : (s.setFn f x).ports = s.ports := rfl
@[simp] theorem setFn_cascade (s : State) (f x) : (s.setFn f x).cascade = s.cascade := rfl
@[simp] theorem setFn_leases (s : State) (f x) : (s.setFn f x).leases = s.leases := rfl
@[simp] theorem setFn_buckets (s : State) (f x) : (s.setFn f x).buckets = s.buckets := rfl
@[simp] theorem setFn_tagHomes (s : State) (f x) : (s.setFn f x).tagHomes = s.tagHomes := rfl
@[simp] theorem setFn_security (s : State) (f x) : (s.setFn f x).security = s.security := rfl
@[simp] theorem setFn_mgt (s : State) (f x) : (s.setFn f x).mgt = s.mgt := rfl
@[simp] theorem setFn_time (s : State) (f x) : (s.setFn f x).time = s.time := rfl
@[simp] theorem setFn_power (s : State) (f x) : (s.setFn f x).power = s.power := rfl
@[simp] theorem setFn_health (s : State) (f x) : (s.setFn f x).health = s.health := rfl
@[simp] theorem setFn_flash (s : State) (f x) : (s.setFn f x).flash = s.flash := rfl
@[simp] theorem setFn_tally (s : State) (f x) : (s.setFn f x).tally = s.tally := rfl
@[simp] theorem setFn_packing (s : State) (f x) : (s.setFn f x).packing = s.packing := rfl
end setFn

section onFn
@[simp] theorem onFn_pending (s : State) (f g) : (s.onFn f g).pending = s.pending := rfl
@[simp] theorem onFn_outbox (s : State) (f g) : (s.onFn f g).outbox = s.outbox := rfl
@[simp] theorem onFn_freeCount (s : State) (f g) : (s.onFn f g).freeCount = s.freeCount := rfl
@[simp] theorem onFn_parts (s : State) (f g) : (s.onFn f g).parts = s.parts := rfl
@[simp] theorem onFn_cmds (s : State) (f g) : (s.onFn f g).cmds = s.cmds := rfl
@[simp] theorem onFn_nextCmd (s : State) (f g) : (s.onFn f g).nextCmd = s.nextCmd := rfl
@[simp] theorem onFn_ended (s : State) (f g) : (s.onFn f g).ended = s.ended := rfl
@[simp] theorem onFn_turn (s : State) (f g) : (s.onFn f g).turn = s.turn := rfl
@[simp] theorem onFn_config (s : State) (f g) : (s.onFn f g).config = s.config := rfl
@[simp] theorem onFn_mem (s : State) (f g) : (s.onFn f g).mem = s.mem := rfl
@[simp] theorem onFn_regions (s : State) (f g) : (s.onFn f g).regions = s.regions := rfl
@[simp] theorem onFn_scrubs (s : State) (f g) : (s.onFn f g).scrubs = s.scrubs := rfl
@[simp] theorem onFn_unmaps (s : State) (f g) : (s.onFn f g).unmaps = s.unmaps := rfl
@[simp] theorem onFn_refreshing (s : State) (f g) : (s.onFn f g).refreshing = s.refreshing := rfl
@[simp] theorem onFn_memUsed (s : State) (f g) : (s.onFn f g).memUsed = s.memUsed := rfl
@[simp] theorem onFn_links (s : State) (f g) : (s.onFn f g).links = s.links := rfl
@[simp] theorem onFn_cores (s : State) (f g) : (s.onFn f g).cores = s.cores := rfl
@[simp] theorem onFn_counters (s : State) (f g) : (s.onFn f g).counters = s.counters := rfl
@[simp] theorem onFn_routes (s : State) (f g) : (s.onFn f g).routes = s.routes := rfl
@[simp] theorem onFn_runs (s : State) (f g) : (s.onFn f g).runs = s.runs := rfl
@[simp] theorem onFn_nextRun (s : State) (f g) : (s.onFn f g).nextRun = s.nextRun := rfl
@[simp] theorem onFn_streams (s : State) (f g) : (s.onFn f g).streams = s.streams := rfl
@[simp] theorem onFn_channels (s : State) (f g) : (s.onFn f g).channels = s.channels := rfl
@[simp] theorem onFn_ports (s : State) (f g) : (s.onFn f g).ports = s.ports := rfl
@[simp] theorem onFn_cascade (s : State) (f g) : (s.onFn f g).cascade = s.cascade := rfl
@[simp] theorem onFn_leases (s : State) (f g) : (s.onFn f g).leases = s.leases := rfl
@[simp] theorem onFn_buckets (s : State) (f g) : (s.onFn f g).buckets = s.buckets := rfl
@[simp] theorem onFn_tagHomes (s : State) (f g) : (s.onFn f g).tagHomes = s.tagHomes := rfl
@[simp] theorem onFn_security (s : State) (f g) : (s.onFn f g).security = s.security := rfl
@[simp] theorem onFn_mgt (s : State) (f g) : (s.onFn f g).mgt = s.mgt := rfl
@[simp] theorem onFn_time (s : State) (f g) : (s.onFn f g).time = s.time := rfl
@[simp] theorem onFn_power (s : State) (f g) : (s.onFn f g).power = s.power := rfl
@[simp] theorem onFn_health (s : State) (f g) : (s.onFn f g).health = s.health := rfl
@[simp] theorem onFn_flash (s : State) (f g) : (s.onFn f g).flash = s.flash := rfl
@[simp] theorem onFn_tally (s : State) (f g) : (s.onFn f g).tally = s.tally := rfl
@[simp] theorem onFn_packing (s : State) (f g) : (s.onFn f g).packing = s.packing := rfl
end onFn

section onRing
@[simp] theorem onRing_pending (s : State) (f g) : (s.onRing f g).pending = s.pending := rfl
@[simp] theorem onRing_outbox (s : State) (f g) : (s.onRing f g).outbox = s.outbox := rfl
@[simp] theorem onRing_freeCount (s : State) (f g) : (s.onRing f g).freeCount = s.freeCount := rfl
@[simp] theorem onRing_parts (s : State) (f g) : (s.onRing f g).parts = s.parts := rfl
@[simp] theorem onRing_cmds (s : State) (f g) : (s.onRing f g).cmds = s.cmds := rfl
@[simp] theorem onRing_nextCmd (s : State) (f g) : (s.onRing f g).nextCmd = s.nextCmd := rfl
@[simp] theorem onRing_ended (s : State) (f g) : (s.onRing f g).ended = s.ended := rfl
@[simp] theorem onRing_turn (s : State) (f g) : (s.onRing f g).turn = s.turn := rfl
@[simp] theorem onRing_config (s : State) (f g) : (s.onRing f g).config = s.config := rfl
@[simp] theorem onRing_mem (s : State) (f g) : (s.onRing f g).mem = s.mem := rfl
@[simp] theorem onRing_regions (s : State) (f g) : (s.onRing f g).regions = s.regions := rfl
@[simp] theorem onRing_scrubs (s : State) (f g) : (s.onRing f g).scrubs = s.scrubs := rfl
@[simp] theorem onRing_unmaps (s : State) (f g) : (s.onRing f g).unmaps = s.unmaps := rfl
@[simp] theorem onRing_refreshing (s : State) (f g) : (s.onRing f g).refreshing = s.refreshing := rfl
@[simp] theorem onRing_memUsed (s : State) (f g) : (s.onRing f g).memUsed = s.memUsed := rfl
@[simp] theorem onRing_links (s : State) (f g) : (s.onRing f g).links = s.links := rfl
@[simp] theorem onRing_cores (s : State) (f g) : (s.onRing f g).cores = s.cores := rfl
@[simp] theorem onRing_counters (s : State) (f g) : (s.onRing f g).counters = s.counters := rfl
@[simp] theorem onRing_routes (s : State) (f g) : (s.onRing f g).routes = s.routes := rfl
@[simp] theorem onRing_runs (s : State) (f g) : (s.onRing f g).runs = s.runs := rfl
@[simp] theorem onRing_nextRun (s : State) (f g) : (s.onRing f g).nextRun = s.nextRun := rfl
@[simp] theorem onRing_streams (s : State) (f g) : (s.onRing f g).streams = s.streams := rfl
@[simp] theorem onRing_channels (s : State) (f g) : (s.onRing f g).channels = s.channels := rfl
@[simp] theorem onRing_ports (s : State) (f g) : (s.onRing f g).ports = s.ports := rfl
@[simp] theorem onRing_cascade (s : State) (f g) : (s.onRing f g).cascade = s.cascade := rfl
@[simp] theorem onRing_leases (s : State) (f g) : (s.onRing f g).leases = s.leases := rfl
@[simp] theorem onRing_buckets (s : State) (f g) : (s.onRing f g).buckets = s.buckets := rfl
@[simp] theorem onRing_tagHomes (s : State) (f g) : (s.onRing f g).tagHomes = s.tagHomes := rfl
@[simp] theorem onRing_security (s : State) (f g) : (s.onRing f g).security = s.security := rfl
@[simp] theorem onRing_mgt (s : State) (f g) : (s.onRing f g).mgt = s.mgt := rfl
@[simp] theorem onRing_time (s : State) (f g) : (s.onRing f g).time = s.time := rfl
@[simp] theorem onRing_power (s : State) (f g) : (s.onRing f g).power = s.power := rfl
@[simp] theorem onRing_health (s : State) (f g) : (s.onRing f g).health = s.health := rfl
@[simp] theorem onRing_flash (s : State) (f g) : (s.onRing f g).flash = s.flash := rfl
@[simp] theorem onRing_tally (s : State) (f g) : (s.onRing f g).tally = s.tally := rfl
@[simp] theorem onRing_packing (s : State) (f g) : (s.onRing f g).packing = s.packing := rfl
end onRing

section setPart
@[simp] theorem setPart_pending (s : State) (p x) : (s.setPart p x).pending = s.pending := rfl
@[simp] theorem setPart_outbox (s : State) (p x) : (s.setPart p x).outbox = s.outbox := rfl
@[simp] theorem setPart_freeCount (s : State) (p x) : (s.setPart p x).freeCount = s.freeCount := rfl
@[simp] theorem setPart_fns (s : State) (p x) : (s.setPart p x).fns = s.fns := rfl
@[simp] theorem setPart_cmds (s : State) (p x) : (s.setPart p x).cmds = s.cmds := rfl
@[simp] theorem setPart_nextCmd (s : State) (p x) : (s.setPart p x).nextCmd = s.nextCmd := rfl
@[simp] theorem setPart_ended (s : State) (p x) : (s.setPart p x).ended = s.ended := rfl
@[simp] theorem setPart_turn (s : State) (p x) : (s.setPart p x).turn = s.turn := rfl
@[simp] theorem setPart_config (s : State) (p x) : (s.setPart p x).config = s.config := rfl
@[simp] theorem setPart_mem (s : State) (p x) : (s.setPart p x).mem = s.mem := rfl
@[simp] theorem setPart_regions (s : State) (p x) : (s.setPart p x).regions = s.regions := rfl
@[simp] theorem setPart_scrubs (s : State) (p x) : (s.setPart p x).scrubs = s.scrubs := rfl
@[simp] theorem setPart_unmaps (s : State) (p x) : (s.setPart p x).unmaps = s.unmaps := rfl
@[simp] theorem setPart_refreshing (s : State) (p x) : (s.setPart p x).refreshing = s.refreshing := rfl
@[simp] theorem setPart_memUsed (s : State) (p x) : (s.setPart p x).memUsed = s.memUsed := rfl
@[simp] theorem setPart_links (s : State) (p x) : (s.setPart p x).links = s.links := rfl
@[simp] theorem setPart_cores (s : State) (p x) : (s.setPart p x).cores = s.cores := rfl
@[simp] theorem setPart_counters (s : State) (p x) : (s.setPart p x).counters = s.counters := rfl
@[simp] theorem setPart_routes (s : State) (p x) : (s.setPart p x).routes = s.routes := rfl
@[simp] theorem setPart_runs (s : State) (p x) : (s.setPart p x).runs = s.runs := rfl
@[simp] theorem setPart_nextRun (s : State) (p x) : (s.setPart p x).nextRun = s.nextRun := rfl
@[simp] theorem setPart_streams (s : State) (p x) : (s.setPart p x).streams = s.streams := rfl
@[simp] theorem setPart_channels (s : State) (p x) : (s.setPart p x).channels = s.channels := rfl
@[simp] theorem setPart_ports (s : State) (p x) : (s.setPart p x).ports = s.ports := rfl
@[simp] theorem setPart_cascade (s : State) (p x) : (s.setPart p x).cascade = s.cascade := rfl
@[simp] theorem setPart_leases (s : State) (p x) : (s.setPart p x).leases = s.leases := rfl
@[simp] theorem setPart_buckets (s : State) (p x) : (s.setPart p x).buckets = s.buckets := rfl
@[simp] theorem setPart_tagHomes (s : State) (p x) : (s.setPart p x).tagHomes = s.tagHomes := rfl
@[simp] theorem setPart_security (s : State) (p x) : (s.setPart p x).security = s.security := rfl
@[simp] theorem setPart_mgt (s : State) (p x) : (s.setPart p x).mgt = s.mgt := rfl
@[simp] theorem setPart_time (s : State) (p x) : (s.setPart p x).time = s.time := rfl
@[simp] theorem setPart_power (s : State) (p x) : (s.setPart p x).power = s.power := rfl
@[simp] theorem setPart_health (s : State) (p x) : (s.setPart p x).health = s.health := rfl
@[simp] theorem setPart_flash (s : State) (p x) : (s.setPart p x).flash = s.flash := rfl
@[simp] theorem setPart_tally (s : State) (p x) : (s.setPart p x).tally = s.tally := rfl
@[simp] theorem setPart_packing (s : State) (p x) : (s.setPart p x).packing = s.packing := rfl
end setPart

section onPart
@[simp] theorem onPart_pending (s : State) (p g) : (s.onPart p g).pending = s.pending := rfl
@[simp] theorem onPart_outbox (s : State) (p g) : (s.onPart p g).outbox = s.outbox := rfl
@[simp] theorem onPart_freeCount (s : State) (p g) : (s.onPart p g).freeCount = s.freeCount := rfl
@[simp] theorem onPart_fns (s : State) (p g) : (s.onPart p g).fns = s.fns := rfl
@[simp] theorem onPart_cmds (s : State) (p g) : (s.onPart p g).cmds = s.cmds := rfl
@[simp] theorem onPart_nextCmd (s : State) (p g) : (s.onPart p g).nextCmd = s.nextCmd := rfl
@[simp] theorem onPart_ended (s : State) (p g) : (s.onPart p g).ended = s.ended := rfl
@[simp] theorem onPart_turn (s : State) (p g) : (s.onPart p g).turn = s.turn := rfl
@[simp] theorem onPart_config (s : State) (p g) : (s.onPart p g).config = s.config := rfl
@[simp] theorem onPart_mem (s : State) (p g) : (s.onPart p g).mem = s.mem := rfl
@[simp] theorem onPart_regions (s : State) (p g) : (s.onPart p g).regions = s.regions := rfl
@[simp] theorem onPart_scrubs (s : State) (p g) : (s.onPart p g).scrubs = s.scrubs := rfl
@[simp] theorem onPart_unmaps (s : State) (p g) : (s.onPart p g).unmaps = s.unmaps := rfl
@[simp] theorem onPart_refreshing (s : State) (p g) : (s.onPart p g).refreshing = s.refreshing := rfl
@[simp] theorem onPart_memUsed (s : State) (p g) : (s.onPart p g).memUsed = s.memUsed := rfl
@[simp] theorem onPart_links (s : State) (p g) : (s.onPart p g).links = s.links := rfl
@[simp] theorem onPart_cores (s : State) (p g) : (s.onPart p g).cores = s.cores := rfl
@[simp] theorem onPart_counters (s : State) (p g) : (s.onPart p g).counters = s.counters := rfl
@[simp] theorem onPart_routes (s : State) (p g) : (s.onPart p g).routes = s.routes := rfl
@[simp] theorem onPart_runs (s : State) (p g) : (s.onPart p g).runs = s.runs := rfl
@[simp] theorem onPart_nextRun (s : State) (p g) : (s.onPart p g).nextRun = s.nextRun := rfl
@[simp] theorem onPart_streams (s : State) (p g) : (s.onPart p g).streams = s.streams := rfl
@[simp] theorem onPart_channels (s : State) (p g) : (s.onPart p g).channels = s.channels := rfl
@[simp] theorem onPart_ports (s : State) (p g) : (s.onPart p g).ports = s.ports := rfl
@[simp] theorem onPart_cascade (s : State) (p g) : (s.onPart p g).cascade = s.cascade := rfl
@[simp] theorem onPart_leases (s : State) (p g) : (s.onPart p g).leases = s.leases := rfl
@[simp] theorem onPart_buckets (s : State) (p g) : (s.onPart p g).buckets = s.buckets := rfl
@[simp] theorem onPart_tagHomes (s : State) (p g) : (s.onPart p g).tagHomes = s.tagHomes := rfl
@[simp] theorem onPart_security (s : State) (p g) : (s.onPart p g).security = s.security := rfl
@[simp] theorem onPart_mgt (s : State) (p g) : (s.onPart p g).mgt = s.mgt := rfl
@[simp] theorem onPart_time (s : State) (p g) : (s.onPart p g).time = s.time := rfl
@[simp] theorem onPart_power (s : State) (p g) : (s.onPart p g).power = s.power := rfl
@[simp] theorem onPart_health (s : State) (p g) : (s.onPart p g).health = s.health := rfl
@[simp] theorem onPart_flash (s : State) (p g) : (s.onPart p g).flash = s.flash := rfl
@[simp] theorem onPart_tally (s : State) (p g) : (s.onPart p g).tally = s.tally := rfl
@[simp] theorem onPart_packing (s : State) (p g) : (s.onPart p g).packing = s.packing := rfl
end onPart

section setCore
@[simp] theorem setCore_pending (s : State) (c x) : (s.setCore c x).pending = s.pending := rfl
@[simp] theorem setCore_outbox (s : State) (c x) : (s.setCore c x).outbox = s.outbox := rfl
@[simp] theorem setCore_freeCount (s : State) (c x) : (s.setCore c x).freeCount = s.freeCount := rfl
@[simp] theorem setCore_fns (s : State) (c x) : (s.setCore c x).fns = s.fns := rfl
@[simp] theorem setCore_parts (s : State) (c x) : (s.setCore c x).parts = s.parts := rfl
@[simp] theorem setCore_cmds (s : State) (c x) : (s.setCore c x).cmds = s.cmds := rfl
@[simp] theorem setCore_nextCmd (s : State) (c x) : (s.setCore c x).nextCmd = s.nextCmd := rfl
@[simp] theorem setCore_ended (s : State) (c x) : (s.setCore c x).ended = s.ended := rfl
@[simp] theorem setCore_turn (s : State) (c x) : (s.setCore c x).turn = s.turn := rfl
@[simp] theorem setCore_config (s : State) (c x) : (s.setCore c x).config = s.config := rfl
@[simp] theorem setCore_mem (s : State) (c x) : (s.setCore c x).mem = s.mem := rfl
@[simp] theorem setCore_regions (s : State) (c x) : (s.setCore c x).regions = s.regions := rfl
@[simp] theorem setCore_scrubs (s : State) (c x) : (s.setCore c x).scrubs = s.scrubs := rfl
@[simp] theorem setCore_unmaps (s : State) (c x) : (s.setCore c x).unmaps = s.unmaps := rfl
@[simp] theorem setCore_refreshing (s : State) (c x) : (s.setCore c x).refreshing = s.refreshing := rfl
@[simp] theorem setCore_memUsed (s : State) (c x) : (s.setCore c x).memUsed = s.memUsed := rfl
@[simp] theorem setCore_links (s : State) (c x) : (s.setCore c x).links = s.links := rfl
@[simp] theorem setCore_counters (s : State) (c x) : (s.setCore c x).counters = s.counters := rfl
@[simp] theorem setCore_routes (s : State) (c x) : (s.setCore c x).routes = s.routes := rfl
@[simp] theorem setCore_runs (s : State) (c x) : (s.setCore c x).runs = s.runs := rfl
@[simp] theorem setCore_nextRun (s : State) (c x) : (s.setCore c x).nextRun = s.nextRun := rfl
@[simp] theorem setCore_streams (s : State) (c x) : (s.setCore c x).streams = s.streams := rfl
@[simp] theorem setCore_channels (s : State) (c x) : (s.setCore c x).channels = s.channels := rfl
@[simp] theorem setCore_ports (s : State) (c x) : (s.setCore c x).ports = s.ports := rfl
@[simp] theorem setCore_cascade (s : State) (c x) : (s.setCore c x).cascade = s.cascade := rfl
@[simp] theorem setCore_leases (s : State) (c x) : (s.setCore c x).leases = s.leases := rfl
@[simp] theorem setCore_buckets (s : State) (c x) : (s.setCore c x).buckets = s.buckets := rfl
@[simp] theorem setCore_tagHomes (s : State) (c x) : (s.setCore c x).tagHomes = s.tagHomes := rfl
@[simp] theorem setCore_security (s : State) (c x) : (s.setCore c x).security = s.security := rfl
@[simp] theorem setCore_mgt (s : State) (c x) : (s.setCore c x).mgt = s.mgt := rfl
@[simp] theorem setCore_time (s : State) (c x) : (s.setCore c x).time = s.time := rfl
@[simp] theorem setCore_power (s : State) (c x) : (s.setCore c x).power = s.power := rfl
@[simp] theorem setCore_health (s : State) (c x) : (s.setCore c x).health = s.health := rfl
@[simp] theorem setCore_flash (s : State) (c x) : (s.setCore c x).flash = s.flash := rfl
@[simp] theorem setCore_tally (s : State) (c x) : (s.setCore c x).tally = s.tally := rfl
@[simp] theorem setCore_packing (s : State) (c x) : (s.setCore c x).packing = s.packing := rfl
end setCore

section onCore
@[simp] theorem onCore_pending (s : State) (c g) : (s.onCore c g).pending = s.pending := rfl
@[simp] theorem onCore_outbox (s : State) (c g) : (s.onCore c g).outbox = s.outbox := rfl
@[simp] theorem onCore_freeCount (s : State) (c g) : (s.onCore c g).freeCount = s.freeCount := rfl
@[simp] theorem onCore_fns (s : State) (c g) : (s.onCore c g).fns = s.fns := rfl
@[simp] theorem onCore_parts (s : State) (c g) : (s.onCore c g).parts = s.parts := rfl
@[simp] theorem onCore_cmds (s : State) (c g) : (s.onCore c g).cmds = s.cmds := rfl
@[simp] theorem onCore_nextCmd (s : State) (c g) : (s.onCore c g).nextCmd = s.nextCmd := rfl
@[simp] theorem onCore_ended (s : State) (c g) : (s.onCore c g).ended = s.ended := rfl
@[simp] theorem onCore_turn (s : State) (c g) : (s.onCore c g).turn = s.turn := rfl
@[simp] theorem onCore_config (s : State) (c g) : (s.onCore c g).config = s.config := rfl
@[simp] theorem onCore_mem (s : State) (c g) : (s.onCore c g).mem = s.mem := rfl
@[simp] theorem onCore_regions (s : State) (c g) : (s.onCore c g).regions = s.regions := rfl
@[simp] theorem onCore_scrubs (s : State) (c g) : (s.onCore c g).scrubs = s.scrubs := rfl
@[simp] theorem onCore_unmaps (s : State) (c g) : (s.onCore c g).unmaps = s.unmaps := rfl
@[simp] theorem onCore_refreshing (s : State) (c g) : (s.onCore c g).refreshing = s.refreshing := rfl
@[simp] theorem onCore_memUsed (s : State) (c g) : (s.onCore c g).memUsed = s.memUsed := rfl
@[simp] theorem onCore_links (s : State) (c g) : (s.onCore c g).links = s.links := rfl
@[simp] theorem onCore_counters (s : State) (c g) : (s.onCore c g).counters = s.counters := rfl
@[simp] theorem onCore_routes (s : State) (c g) : (s.onCore c g).routes = s.routes := rfl
@[simp] theorem onCore_runs (s : State) (c g) : (s.onCore c g).runs = s.runs := rfl
@[simp] theorem onCore_nextRun (s : State) (c g) : (s.onCore c g).nextRun = s.nextRun := rfl
@[simp] theorem onCore_streams (s : State) (c g) : (s.onCore c g).streams = s.streams := rfl
@[simp] theorem onCore_channels (s : State) (c g) : (s.onCore c g).channels = s.channels := rfl
@[simp] theorem onCore_ports (s : State) (c g) : (s.onCore c g).ports = s.ports := rfl
@[simp] theorem onCore_cascade (s : State) (c g) : (s.onCore c g).cascade = s.cascade := rfl
@[simp] theorem onCore_leases (s : State) (c g) : (s.onCore c g).leases = s.leases := rfl
@[simp] theorem onCore_buckets (s : State) (c g) : (s.onCore c g).buckets = s.buckets := rfl
@[simp] theorem onCore_tagHomes (s : State) (c g) : (s.onCore c g).tagHomes = s.tagHomes := rfl
@[simp] theorem onCore_security (s : State) (c g) : (s.onCore c g).security = s.security := rfl
@[simp] theorem onCore_mgt (s : State) (c g) : (s.onCore c g).mgt = s.mgt := rfl
@[simp] theorem onCore_time (s : State) (c g) : (s.onCore c g).time = s.time := rfl
@[simp] theorem onCore_power (s : State) (c g) : (s.onCore c g).power = s.power := rfl
@[simp] theorem onCore_health (s : State) (c g) : (s.onCore c g).health = s.health := rfl
@[simp] theorem onCore_flash (s : State) (c g) : (s.onCore c g).flash = s.flash := rfl
@[simp] theorem onCore_tally (s : State) (c g) : (s.onCore c g).tally = s.tally := rfl
@[simp] theorem onCore_packing (s : State) (c g) : (s.onCore c g).packing = s.packing := rfl
end onCore

section setPort
@[simp] theorem setPort_pending (s : State) (p x) : (s.setPort p x).pending = s.pending := rfl
@[simp] theorem setPort_outbox (s : State) (p x) : (s.setPort p x).outbox = s.outbox := rfl
@[simp] theorem setPort_freeCount (s : State) (p x) : (s.setPort p x).freeCount = s.freeCount := rfl
@[simp] theorem setPort_fns (s : State) (p x) : (s.setPort p x).fns = s.fns := rfl
@[simp] theorem setPort_parts (s : State) (p x) : (s.setPort p x).parts = s.parts := rfl
@[simp] theorem setPort_cmds (s : State) (p x) : (s.setPort p x).cmds = s.cmds := rfl
@[simp] theorem setPort_nextCmd (s : State) (p x) : (s.setPort p x).nextCmd = s.nextCmd := rfl
@[simp] theorem setPort_ended (s : State) (p x) : (s.setPort p x).ended = s.ended := rfl
@[simp] theorem setPort_turn (s : State) (p x) : (s.setPort p x).turn = s.turn := rfl
@[simp] theorem setPort_config (s : State) (p x) : (s.setPort p x).config = s.config := rfl
@[simp] theorem setPort_mem (s : State) (p x) : (s.setPort p x).mem = s.mem := rfl
@[simp] theorem setPort_regions (s : State) (p x) : (s.setPort p x).regions = s.regions := rfl
@[simp] theorem setPort_scrubs (s : State) (p x) : (s.setPort p x).scrubs = s.scrubs := rfl
@[simp] theorem setPort_unmaps (s : State) (p x) : (s.setPort p x).unmaps = s.unmaps := rfl
@[simp] theorem setPort_refreshing (s : State) (p x) : (s.setPort p x).refreshing = s.refreshing := rfl
@[simp] theorem setPort_memUsed (s : State) (p x) : (s.setPort p x).memUsed = s.memUsed := rfl
@[simp] theorem setPort_links (s : State) (p x) : (s.setPort p x).links = s.links := rfl
@[simp] theorem setPort_cores (s : State) (p x) : (s.setPort p x).cores = s.cores := rfl
@[simp] theorem setPort_counters (s : State) (p x) : (s.setPort p x).counters = s.counters := rfl
@[simp] theorem setPort_routes (s : State) (p x) : (s.setPort p x).routes = s.routes := rfl
@[simp] theorem setPort_runs (s : State) (p x) : (s.setPort p x).runs = s.runs := rfl
@[simp] theorem setPort_nextRun (s : State) (p x) : (s.setPort p x).nextRun = s.nextRun := rfl
@[simp] theorem setPort_streams (s : State) (p x) : (s.setPort p x).streams = s.streams := rfl
@[simp] theorem setPort_channels (s : State) (p x) : (s.setPort p x).channels = s.channels := rfl
@[simp] theorem setPort_cascade (s : State) (p x) : (s.setPort p x).cascade = s.cascade := rfl
@[simp] theorem setPort_leases (s : State) (p x) : (s.setPort p x).leases = s.leases := rfl
@[simp] theorem setPort_buckets (s : State) (p x) : (s.setPort p x).buckets = s.buckets := rfl
@[simp] theorem setPort_tagHomes (s : State) (p x) : (s.setPort p x).tagHomes = s.tagHomes := rfl
@[simp] theorem setPort_security (s : State) (p x) : (s.setPort p x).security = s.security := rfl
@[simp] theorem setPort_mgt (s : State) (p x) : (s.setPort p x).mgt = s.mgt := rfl
@[simp] theorem setPort_time (s : State) (p x) : (s.setPort p x).time = s.time := rfl
@[simp] theorem setPort_power (s : State) (p x) : (s.setPort p x).power = s.power := rfl
@[simp] theorem setPort_health (s : State) (p x) : (s.setPort p x).health = s.health := rfl
@[simp] theorem setPort_flash (s : State) (p x) : (s.setPort p x).flash = s.flash := rfl
@[simp] theorem setPort_tally (s : State) (p x) : (s.setPort p x).tally = s.tally := rfl
@[simp] theorem setPort_packing (s : State) (p x) : (s.setPort p x).packing = s.packing := rfl
end setPort

section onPort
@[simp] theorem onPort_pending (s : State) (p g) : (s.onPort p g).pending = s.pending := rfl
@[simp] theorem onPort_outbox (s : State) (p g) : (s.onPort p g).outbox = s.outbox := rfl
@[simp] theorem onPort_freeCount (s : State) (p g) : (s.onPort p g).freeCount = s.freeCount := rfl
@[simp] theorem onPort_fns (s : State) (p g) : (s.onPort p g).fns = s.fns := rfl
@[simp] theorem onPort_parts (s : State) (p g) : (s.onPort p g).parts = s.parts := rfl
@[simp] theorem onPort_cmds (s : State) (p g) : (s.onPort p g).cmds = s.cmds := rfl
@[simp] theorem onPort_nextCmd (s : State) (p g) : (s.onPort p g).nextCmd = s.nextCmd := rfl
@[simp] theorem onPort_ended (s : State) (p g) : (s.onPort p g).ended = s.ended := rfl
@[simp] theorem onPort_turn (s : State) (p g) : (s.onPort p g).turn = s.turn := rfl
@[simp] theorem onPort_config (s : State) (p g) : (s.onPort p g).config = s.config := rfl
@[simp] theorem onPort_mem (s : State) (p g) : (s.onPort p g).mem = s.mem := rfl
@[simp] theorem onPort_regions (s : State) (p g) : (s.onPort p g).regions = s.regions := rfl
@[simp] theorem onPort_scrubs (s : State) (p g) : (s.onPort p g).scrubs = s.scrubs := rfl
@[simp] theorem onPort_unmaps (s : State) (p g) : (s.onPort p g).unmaps = s.unmaps := rfl
@[simp] theorem onPort_refreshing (s : State) (p g) : (s.onPort p g).refreshing = s.refreshing := rfl
@[simp] theorem onPort_memUsed (s : State) (p g) : (s.onPort p g).memUsed = s.memUsed := rfl
@[simp] theorem onPort_links (s : State) (p g) : (s.onPort p g).links = s.links := rfl
@[simp] theorem onPort_cores (s : State) (p g) : (s.onPort p g).cores = s.cores := rfl
@[simp] theorem onPort_counters (s : State) (p g) : (s.onPort p g).counters = s.counters := rfl
@[simp] theorem onPort_routes (s : State) (p g) : (s.onPort p g).routes = s.routes := rfl
@[simp] theorem onPort_runs (s : State) (p g) : (s.onPort p g).runs = s.runs := rfl
@[simp] theorem onPort_nextRun (s : State) (p g) : (s.onPort p g).nextRun = s.nextRun := rfl
@[simp] theorem onPort_streams (s : State) (p g) : (s.onPort p g).streams = s.streams := rfl
@[simp] theorem onPort_channels (s : State) (p g) : (s.onPort p g).channels = s.channels := rfl
@[simp] theorem onPort_cascade (s : State) (p g) : (s.onPort p g).cascade = s.cascade := rfl
@[simp] theorem onPort_leases (s : State) (p g) : (s.onPort p g).leases = s.leases := rfl
@[simp] theorem onPort_buckets (s : State) (p g) : (s.onPort p g).buckets = s.buckets := rfl
@[simp] theorem onPort_tagHomes (s : State) (p g) : (s.onPort p g).tagHomes = s.tagHomes := rfl
@[simp] theorem onPort_security (s : State) (p g) : (s.onPort p g).security = s.security := rfl
@[simp] theorem onPort_mgt (s : State) (p g) : (s.onPort p g).mgt = s.mgt := rfl
@[simp] theorem onPort_time (s : State) (p g) : (s.onPort p g).time = s.time := rfl
@[simp] theorem onPort_power (s : State) (p g) : (s.onPort p g).power = s.power := rfl
@[simp] theorem onPort_health (s : State) (p g) : (s.onPort p g).health = s.health := rfl
@[simp] theorem onPort_flash (s : State) (p g) : (s.onPort p g).flash = s.flash := rfl
@[simp] theorem onPort_tally (s : State) (p g) : (s.onPort p g).tally = s.tally := rfl
@[simp] theorem onPort_packing (s : State) (p g) : (s.onPort p g).packing = s.packing := rfl
end onPort

section setCounter
@[simp] theorem setCounter_pending (s : State) (n x) : (s.setCounter n x).pending = s.pending := rfl
@[simp] theorem setCounter_outbox (s : State) (n x) : (s.setCounter n x).outbox = s.outbox := rfl
@[simp] theorem setCounter_freeCount (s : State) (n x) : (s.setCounter n x).freeCount = s.freeCount := rfl
@[simp] theorem setCounter_fns (s : State) (n x) : (s.setCounter n x).fns = s.fns := rfl
@[simp] theorem setCounter_parts (s : State) (n x) : (s.setCounter n x).parts = s.parts := rfl
@[simp] theorem setCounter_cmds (s : State) (n x) : (s.setCounter n x).cmds = s.cmds := rfl
@[simp] theorem setCounter_nextCmd (s : State) (n x) : (s.setCounter n x).nextCmd = s.nextCmd := rfl
@[simp] theorem setCounter_ended (s : State) (n x) : (s.setCounter n x).ended = s.ended := rfl
@[simp] theorem setCounter_turn (s : State) (n x) : (s.setCounter n x).turn = s.turn := rfl
@[simp] theorem setCounter_config (s : State) (n x) : (s.setCounter n x).config = s.config := rfl
@[simp] theorem setCounter_mem (s : State) (n x) : (s.setCounter n x).mem = s.mem := rfl
@[simp] theorem setCounter_regions (s : State) (n x) : (s.setCounter n x).regions = s.regions := rfl
@[simp] theorem setCounter_scrubs (s : State) (n x) : (s.setCounter n x).scrubs = s.scrubs := rfl
@[simp] theorem setCounter_unmaps (s : State) (n x) : (s.setCounter n x).unmaps = s.unmaps := rfl
@[simp] theorem setCounter_refreshing (s : State) (n x) : (s.setCounter n x).refreshing = s.refreshing := rfl
@[simp] theorem setCounter_memUsed (s : State) (n x) : (s.setCounter n x).memUsed = s.memUsed := rfl
@[simp] theorem setCounter_links (s : State) (n x) : (s.setCounter n x).links = s.links := rfl
@[simp] theorem setCounter_cores (s : State) (n x) : (s.setCounter n x).cores = s.cores := rfl
@[simp] theorem setCounter_routes (s : State) (n x) : (s.setCounter n x).routes = s.routes := rfl
@[simp] theorem setCounter_runs (s : State) (n x) : (s.setCounter n x).runs = s.runs := rfl
@[simp] theorem setCounter_nextRun (s : State) (n x) : (s.setCounter n x).nextRun = s.nextRun := rfl
@[simp] theorem setCounter_streams (s : State) (n x) : (s.setCounter n x).streams = s.streams := rfl
@[simp] theorem setCounter_channels (s : State) (n x) : (s.setCounter n x).channels = s.channels := rfl
@[simp] theorem setCounter_ports (s : State) (n x) : (s.setCounter n x).ports = s.ports := rfl
@[simp] theorem setCounter_cascade (s : State) (n x) : (s.setCounter n x).cascade = s.cascade := rfl
@[simp] theorem setCounter_leases (s : State) (n x) : (s.setCounter n x).leases = s.leases := rfl
@[simp] theorem setCounter_buckets (s : State) (n x) : (s.setCounter n x).buckets = s.buckets := rfl
@[simp] theorem setCounter_tagHomes (s : State) (n x) : (s.setCounter n x).tagHomes = s.tagHomes := rfl
@[simp] theorem setCounter_security (s : State) (n x) : (s.setCounter n x).security = s.security := rfl
@[simp] theorem setCounter_mgt (s : State) (n x) : (s.setCounter n x).mgt = s.mgt := rfl
@[simp] theorem setCounter_time (s : State) (n x) : (s.setCounter n x).time = s.time := rfl
@[simp] theorem setCounter_power (s : State) (n x) : (s.setCounter n x).power = s.power := rfl
@[simp] theorem setCounter_health (s : State) (n x) : (s.setCounter n x).health = s.health := rfl
@[simp] theorem setCounter_flash (s : State) (n x) : (s.setCounter n x).flash = s.flash := rfl
@[simp] theorem setCounter_tally (s : State) (n x) : (s.setCounter n x).tally = s.tally := rfl
@[simp] theorem setCounter_packing (s : State) (n x) : (s.setCounter n x).packing = s.packing := rfl
end setCounter

section setRegion
@[simp] theorem setRegion_pending (s : State) (r x) : (s.setRegion r x).pending = s.pending := rfl
@[simp] theorem setRegion_outbox (s : State) (r x) : (s.setRegion r x).outbox = s.outbox := rfl
@[simp] theorem setRegion_freeCount (s : State) (r x) : (s.setRegion r x).freeCount = s.freeCount := rfl
@[simp] theorem setRegion_fns (s : State) (r x) : (s.setRegion r x).fns = s.fns := rfl
@[simp] theorem setRegion_parts (s : State) (r x) : (s.setRegion r x).parts = s.parts := rfl
@[simp] theorem setRegion_cmds (s : State) (r x) : (s.setRegion r x).cmds = s.cmds := rfl
@[simp] theorem setRegion_nextCmd (s : State) (r x) : (s.setRegion r x).nextCmd = s.nextCmd := rfl
@[simp] theorem setRegion_ended (s : State) (r x) : (s.setRegion r x).ended = s.ended := rfl
@[simp] theorem setRegion_turn (s : State) (r x) : (s.setRegion r x).turn = s.turn := rfl
@[simp] theorem setRegion_config (s : State) (r x) : (s.setRegion r x).config = s.config := rfl
@[simp] theorem setRegion_mem (s : State) (r x) : (s.setRegion r x).mem = s.mem := rfl
@[simp] theorem setRegion_scrubs (s : State) (r x) : (s.setRegion r x).scrubs = s.scrubs := rfl
@[simp] theorem setRegion_unmaps (s : State) (r x) : (s.setRegion r x).unmaps = s.unmaps := rfl
@[simp] theorem setRegion_refreshing (s : State) (r x) : (s.setRegion r x).refreshing = s.refreshing := rfl
@[simp] theorem setRegion_memUsed (s : State) (r x) : (s.setRegion r x).memUsed = s.memUsed := rfl
@[simp] theorem setRegion_links (s : State) (r x) : (s.setRegion r x).links = s.links := rfl
@[simp] theorem setRegion_cores (s : State) (r x) : (s.setRegion r x).cores = s.cores := rfl
@[simp] theorem setRegion_counters (s : State) (r x) : (s.setRegion r x).counters = s.counters := rfl
@[simp] theorem setRegion_routes (s : State) (r x) : (s.setRegion r x).routes = s.routes := rfl
@[simp] theorem setRegion_runs (s : State) (r x) : (s.setRegion r x).runs = s.runs := rfl
@[simp] theorem setRegion_nextRun (s : State) (r x) : (s.setRegion r x).nextRun = s.nextRun := rfl
@[simp] theorem setRegion_streams (s : State) (r x) : (s.setRegion r x).streams = s.streams := rfl
@[simp] theorem setRegion_channels (s : State) (r x) : (s.setRegion r x).channels = s.channels := rfl
@[simp] theorem setRegion_ports (s : State) (r x) : (s.setRegion r x).ports = s.ports := rfl
@[simp] theorem setRegion_cascade (s : State) (r x) : (s.setRegion r x).cascade = s.cascade := rfl
@[simp] theorem setRegion_leases (s : State) (r x) : (s.setRegion r x).leases = s.leases := rfl
@[simp] theorem setRegion_buckets (s : State) (r x) : (s.setRegion r x).buckets = s.buckets := rfl
@[simp] theorem setRegion_tagHomes (s : State) (r x) : (s.setRegion r x).tagHomes = s.tagHomes := rfl
@[simp] theorem setRegion_security (s : State) (r x) : (s.setRegion r x).security = s.security := rfl
@[simp] theorem setRegion_mgt (s : State) (r x) : (s.setRegion r x).mgt = s.mgt := rfl
@[simp] theorem setRegion_time (s : State) (r x) : (s.setRegion r x).time = s.time := rfl
@[simp] theorem setRegion_power (s : State) (r x) : (s.setRegion r x).power = s.power := rfl
@[simp] theorem setRegion_health (s : State) (r x) : (s.setRegion r x).health = s.health := rfl
@[simp] theorem setRegion_flash (s : State) (r x) : (s.setRegion r x).flash = s.flash := rfl
@[simp] theorem setRegion_tally (s : State) (r x) : (s.setRegion r x).tally = s.tally := rfl
@[simp] theorem setRegion_packing (s : State) (r x) : (s.setRegion r x).packing = s.packing := rfl
end setRegion

section setCmd
@[simp] theorem setCmd_pending (s : State) (i c) : (s.setCmd i c).pending = s.pending := rfl
@[simp] theorem setCmd_outbox (s : State) (i c) : (s.setCmd i c).outbox = s.outbox := rfl
@[simp] theorem setCmd_freeCount (s : State) (i c) : (s.setCmd i c).freeCount = s.freeCount := rfl
@[simp] theorem setCmd_fns (s : State) (i c) : (s.setCmd i c).fns = s.fns := rfl
@[simp] theorem setCmd_parts (s : State) (i c) : (s.setCmd i c).parts = s.parts := rfl
@[simp] theorem setCmd_nextCmd (s : State) (i c) : (s.setCmd i c).nextCmd = s.nextCmd := rfl
@[simp] theorem setCmd_ended (s : State) (i c) : (s.setCmd i c).ended = s.ended := rfl
@[simp] theorem setCmd_turn (s : State) (i c) : (s.setCmd i c).turn = s.turn := rfl
@[simp] theorem setCmd_config (s : State) (i c) : (s.setCmd i c).config = s.config := rfl
@[simp] theorem setCmd_mem (s : State) (i c) : (s.setCmd i c).mem = s.mem := rfl
@[simp] theorem setCmd_regions (s : State) (i c) : (s.setCmd i c).regions = s.regions := rfl
@[simp] theorem setCmd_scrubs (s : State) (i c) : (s.setCmd i c).scrubs = s.scrubs := rfl
@[simp] theorem setCmd_unmaps (s : State) (i c) : (s.setCmd i c).unmaps = s.unmaps := rfl
@[simp] theorem setCmd_refreshing (s : State) (i c) : (s.setCmd i c).refreshing = s.refreshing := rfl
@[simp] theorem setCmd_memUsed (s : State) (i c) : (s.setCmd i c).memUsed = s.memUsed := rfl
@[simp] theorem setCmd_links (s : State) (i c) : (s.setCmd i c).links = s.links := rfl
@[simp] theorem setCmd_cores (s : State) (i c) : (s.setCmd i c).cores = s.cores := rfl
@[simp] theorem setCmd_counters (s : State) (i c) : (s.setCmd i c).counters = s.counters := rfl
@[simp] theorem setCmd_routes (s : State) (i c) : (s.setCmd i c).routes = s.routes := rfl
@[simp] theorem setCmd_runs (s : State) (i c) : (s.setCmd i c).runs = s.runs := rfl
@[simp] theorem setCmd_nextRun (s : State) (i c) : (s.setCmd i c).nextRun = s.nextRun := rfl
@[simp] theorem setCmd_streams (s : State) (i c) : (s.setCmd i c).streams = s.streams := rfl
@[simp] theorem setCmd_channels (s : State) (i c) : (s.setCmd i c).channels = s.channels := rfl
@[simp] theorem setCmd_ports (s : State) (i c) : (s.setCmd i c).ports = s.ports := rfl
@[simp] theorem setCmd_cascade (s : State) (i c) : (s.setCmd i c).cascade = s.cascade := rfl
@[simp] theorem setCmd_leases (s : State) (i c) : (s.setCmd i c).leases = s.leases := rfl
@[simp] theorem setCmd_buckets (s : State) (i c) : (s.setCmd i c).buckets = s.buckets := rfl
@[simp] theorem setCmd_tagHomes (s : State) (i c) : (s.setCmd i c).tagHomes = s.tagHomes := rfl
@[simp] theorem setCmd_security (s : State) (i c) : (s.setCmd i c).security = s.security := rfl
@[simp] theorem setCmd_mgt (s : State) (i c) : (s.setCmd i c).mgt = s.mgt := rfl
@[simp] theorem setCmd_time (s : State) (i c) : (s.setCmd i c).time = s.time := rfl
@[simp] theorem setCmd_power (s : State) (i c) : (s.setCmd i c).power = s.power := rfl
@[simp] theorem setCmd_health (s : State) (i c) : (s.setCmd i c).health = s.health := rfl
@[simp] theorem setCmd_flash (s : State) (i c) : (s.setCmd i c).flash = s.flash := rfl
@[simp] theorem setCmd_tally (s : State) (i c) : (s.setCmd i c).tally = s.tally := rfl
@[simp] theorem setCmd_packing (s : State) (i c) : (s.setCmd i c).packing = s.packing := rfl
end setCmd

section onCmd
@[simp] theorem onCmd_pending (s : State) (i g) : (s.onCmd i g).pending = s.pending := rfl
@[simp] theorem onCmd_outbox (s : State) (i g) : (s.onCmd i g).outbox = s.outbox := rfl
@[simp] theorem onCmd_freeCount (s : State) (i g) : (s.onCmd i g).freeCount = s.freeCount := rfl
@[simp] theorem onCmd_fns (s : State) (i g) : (s.onCmd i g).fns = s.fns := rfl
@[simp] theorem onCmd_parts (s : State) (i g) : (s.onCmd i g).parts = s.parts := rfl
@[simp] theorem onCmd_nextCmd (s : State) (i g) : (s.onCmd i g).nextCmd = s.nextCmd := rfl
@[simp] theorem onCmd_ended (s : State) (i g) : (s.onCmd i g).ended = s.ended := rfl
@[simp] theorem onCmd_turn (s : State) (i g) : (s.onCmd i g).turn = s.turn := rfl
@[simp] theorem onCmd_config (s : State) (i g) : (s.onCmd i g).config = s.config := rfl
@[simp] theorem onCmd_mem (s : State) (i g) : (s.onCmd i g).mem = s.mem := rfl
@[simp] theorem onCmd_regions (s : State) (i g) : (s.onCmd i g).regions = s.regions := rfl
@[simp] theorem onCmd_scrubs (s : State) (i g) : (s.onCmd i g).scrubs = s.scrubs := rfl
@[simp] theorem onCmd_unmaps (s : State) (i g) : (s.onCmd i g).unmaps = s.unmaps := rfl
@[simp] theorem onCmd_refreshing (s : State) (i g) : (s.onCmd i g).refreshing = s.refreshing := rfl
@[simp] theorem onCmd_memUsed (s : State) (i g) : (s.onCmd i g).memUsed = s.memUsed := rfl
@[simp] theorem onCmd_links (s : State) (i g) : (s.onCmd i g).links = s.links := rfl
@[simp] theorem onCmd_cores (s : State) (i g) : (s.onCmd i g).cores = s.cores := rfl
@[simp] theorem onCmd_counters (s : State) (i g) : (s.onCmd i g).counters = s.counters := rfl
@[simp] theorem onCmd_routes (s : State) (i g) : (s.onCmd i g).routes = s.routes := rfl
@[simp] theorem onCmd_runs (s : State) (i g) : (s.onCmd i g).runs = s.runs := rfl
@[simp] theorem onCmd_nextRun (s : State) (i g) : (s.onCmd i g).nextRun = s.nextRun := rfl
@[simp] theorem onCmd_streams (s : State) (i g) : (s.onCmd i g).streams = s.streams := rfl
@[simp] theorem onCmd_channels (s : State) (i g) : (s.onCmd i g).channels = s.channels := rfl
@[simp] theorem onCmd_ports (s : State) (i g) : (s.onCmd i g).ports = s.ports := rfl
@[simp] theorem onCmd_cascade (s : State) (i g) : (s.onCmd i g).cascade = s.cascade := rfl
@[simp] theorem onCmd_leases (s : State) (i g) : (s.onCmd i g).leases = s.leases := rfl
@[simp] theorem onCmd_buckets (s : State) (i g) : (s.onCmd i g).buckets = s.buckets := rfl
@[simp] theorem onCmd_tagHomes (s : State) (i g) : (s.onCmd i g).tagHomes = s.tagHomes := rfl
@[simp] theorem onCmd_security (s : State) (i g) : (s.onCmd i g).security = s.security := rfl
@[simp] theorem onCmd_mgt (s : State) (i g) : (s.onCmd i g).mgt = s.mgt := rfl
@[simp] theorem onCmd_time (s : State) (i g) : (s.onCmd i g).time = s.time := rfl
@[simp] theorem onCmd_power (s : State) (i g) : (s.onCmd i g).power = s.power := rfl
@[simp] theorem onCmd_health (s : State) (i g) : (s.onCmd i g).health = s.health := rfl
@[simp] theorem onCmd_flash (s : State) (i g) : (s.onCmd i g).flash = s.flash := rfl
@[simp] theorem onCmd_tally (s : State) (i g) : (s.onCmd i g).tally = s.tally := rfl
@[simp] theorem onCmd_packing (s : State) (i g) : (s.onCmd i g).packing = s.packing := rfl
end onCmd

section setRoute
@[simp] theorem setRoute_pending (s : State) (r x) : (s.setRoute r x).pending = s.pending := rfl
@[simp] theorem setRoute_outbox (s : State) (r x) : (s.setRoute r x).outbox = s.outbox := rfl
@[simp] theorem setRoute_freeCount (s : State) (r x) : (s.setRoute r x).freeCount = s.freeCount := rfl
@[simp] theorem setRoute_fns (s : State) (r x) : (s.setRoute r x).fns = s.fns := rfl
@[simp] theorem setRoute_parts (s : State) (r x) : (s.setRoute r x).parts = s.parts := rfl
@[simp] theorem setRoute_cmds (s : State) (r x) : (s.setRoute r x).cmds = s.cmds := rfl
@[simp] theorem setRoute_nextCmd (s : State) (r x) : (s.setRoute r x).nextCmd = s.nextCmd := rfl
@[simp] theorem setRoute_ended (s : State) (r x) : (s.setRoute r x).ended = s.ended := rfl
@[simp] theorem setRoute_turn (s : State) (r x) : (s.setRoute r x).turn = s.turn := rfl
@[simp] theorem setRoute_config (s : State) (r x) : (s.setRoute r x).config = s.config := rfl
@[simp] theorem setRoute_mem (s : State) (r x) : (s.setRoute r x).mem = s.mem := rfl
@[simp] theorem setRoute_regions (s : State) (r x) : (s.setRoute r x).regions = s.regions := rfl
@[simp] theorem setRoute_scrubs (s : State) (r x) : (s.setRoute r x).scrubs = s.scrubs := rfl
@[simp] theorem setRoute_unmaps (s : State) (r x) : (s.setRoute r x).unmaps = s.unmaps := rfl
@[simp] theorem setRoute_refreshing (s : State) (r x) : (s.setRoute r x).refreshing = s.refreshing := rfl
@[simp] theorem setRoute_memUsed (s : State) (r x) : (s.setRoute r x).memUsed = s.memUsed := rfl
@[simp] theorem setRoute_links (s : State) (r x) : (s.setRoute r x).links = s.links := rfl
@[simp] theorem setRoute_cores (s : State) (r x) : (s.setRoute r x).cores = s.cores := rfl
@[simp] theorem setRoute_counters (s : State) (r x) : (s.setRoute r x).counters = s.counters := rfl
@[simp] theorem setRoute_runs (s : State) (r x) : (s.setRoute r x).runs = s.runs := rfl
@[simp] theorem setRoute_nextRun (s : State) (r x) : (s.setRoute r x).nextRun = s.nextRun := rfl
@[simp] theorem setRoute_streams (s : State) (r x) : (s.setRoute r x).streams = s.streams := rfl
@[simp] theorem setRoute_channels (s : State) (r x) : (s.setRoute r x).channels = s.channels := rfl
@[simp] theorem setRoute_ports (s : State) (r x) : (s.setRoute r x).ports = s.ports := rfl
@[simp] theorem setRoute_cascade (s : State) (r x) : (s.setRoute r x).cascade = s.cascade := rfl
@[simp] theorem setRoute_leases (s : State) (r x) : (s.setRoute r x).leases = s.leases := rfl
@[simp] theorem setRoute_buckets (s : State) (r x) : (s.setRoute r x).buckets = s.buckets := rfl
@[simp] theorem setRoute_tagHomes (s : State) (r x) : (s.setRoute r x).tagHomes = s.tagHomes := rfl
@[simp] theorem setRoute_security (s : State) (r x) : (s.setRoute r x).security = s.security := rfl
@[simp] theorem setRoute_mgt (s : State) (r x) : (s.setRoute r x).mgt = s.mgt := rfl
@[simp] theorem setRoute_time (s : State) (r x) : (s.setRoute r x).time = s.time := rfl
@[simp] theorem setRoute_power (s : State) (r x) : (s.setRoute r x).power = s.power := rfl
@[simp] theorem setRoute_health (s : State) (r x) : (s.setRoute r x).health = s.health := rfl
@[simp] theorem setRoute_flash (s : State) (r x) : (s.setRoute r x).flash = s.flash := rfl
@[simp] theorem setRoute_tally (s : State) (r x) : (s.setRoute r x).tally = s.tally := rfl
@[simp] theorem setRoute_packing (s : State) (r x) : (s.setRoute r x).packing = s.packing := rfl
end setRoute

section onRoute
@[simp] theorem onRoute_pending (s : State) (r g) : (s.onRoute r g).pending = s.pending := rfl
@[simp] theorem onRoute_outbox (s : State) (r g) : (s.onRoute r g).outbox = s.outbox := rfl
@[simp] theorem onRoute_freeCount (s : State) (r g) : (s.onRoute r g).freeCount = s.freeCount := rfl
@[simp] theorem onRoute_fns (s : State) (r g) : (s.onRoute r g).fns = s.fns := rfl
@[simp] theorem onRoute_parts (s : State) (r g) : (s.onRoute r g).parts = s.parts := rfl
@[simp] theorem onRoute_cmds (s : State) (r g) : (s.onRoute r g).cmds = s.cmds := rfl
@[simp] theorem onRoute_nextCmd (s : State) (r g) : (s.onRoute r g).nextCmd = s.nextCmd := rfl
@[simp] theorem onRoute_ended (s : State) (r g) : (s.onRoute r g).ended = s.ended := rfl
@[simp] theorem onRoute_turn (s : State) (r g) : (s.onRoute r g).turn = s.turn := rfl
@[simp] theorem onRoute_config (s : State) (r g) : (s.onRoute r g).config = s.config := rfl
@[simp] theorem onRoute_mem (s : State) (r g) : (s.onRoute r g).mem = s.mem := rfl
@[simp] theorem onRoute_regions (s : State) (r g) : (s.onRoute r g).regions = s.regions := rfl
@[simp] theorem onRoute_scrubs (s : State) (r g) : (s.onRoute r g).scrubs = s.scrubs := rfl
@[simp] theorem onRoute_unmaps (s : State) (r g) : (s.onRoute r g).unmaps = s.unmaps := rfl
@[simp] theorem onRoute_refreshing (s : State) (r g) : (s.onRoute r g).refreshing = s.refreshing := rfl
@[simp] theorem onRoute_memUsed (s : State) (r g) : (s.onRoute r g).memUsed = s.memUsed := rfl
@[simp] theorem onRoute_links (s : State) (r g) : (s.onRoute r g).links = s.links := rfl
@[simp] theorem onRoute_cores (s : State) (r g) : (s.onRoute r g).cores = s.cores := rfl
@[simp] theorem onRoute_counters (s : State) (r g) : (s.onRoute r g).counters = s.counters := rfl
@[simp] theorem onRoute_runs (s : State) (r g) : (s.onRoute r g).runs = s.runs := rfl
@[simp] theorem onRoute_nextRun (s : State) (r g) : (s.onRoute r g).nextRun = s.nextRun := rfl
@[simp] theorem onRoute_streams (s : State) (r g) : (s.onRoute r g).streams = s.streams := rfl
@[simp] theorem onRoute_channels (s : State) (r g) : (s.onRoute r g).channels = s.channels := rfl
@[simp] theorem onRoute_ports (s : State) (r g) : (s.onRoute r g).ports = s.ports := rfl
@[simp] theorem onRoute_cascade (s : State) (r g) : (s.onRoute r g).cascade = s.cascade := rfl
@[simp] theorem onRoute_leases (s : State) (r g) : (s.onRoute r g).leases = s.leases := rfl
@[simp] theorem onRoute_buckets (s : State) (r g) : (s.onRoute r g).buckets = s.buckets := rfl
@[simp] theorem onRoute_tagHomes (s : State) (r g) : (s.onRoute r g).tagHomes = s.tagHomes := rfl
@[simp] theorem onRoute_security (s : State) (r g) : (s.onRoute r g).security = s.security := rfl
@[simp] theorem onRoute_mgt (s : State) (r g) : (s.onRoute r g).mgt = s.mgt := rfl
@[simp] theorem onRoute_time (s : State) (r g) : (s.onRoute r g).time = s.time := rfl
@[simp] theorem onRoute_power (s : State) (r g) : (s.onRoute r g).power = s.power := rfl
@[simp] theorem onRoute_health (s : State) (r g) : (s.onRoute r g).health = s.health := rfl
@[simp] theorem onRoute_flash (s : State) (r g) : (s.onRoute r g).flash = s.flash := rfl
@[simp] theorem onRoute_tally (s : State) (r g) : (s.onRoute r g).tally = s.tally := rfl
@[simp] theorem onRoute_packing (s : State) (r g) : (s.onRoute r g).packing = s.packing := rfl
end onRoute

section setRun
@[simp] theorem setRun_pending (s : State) (r x) : (s.setRun r x).pending = s.pending := rfl
@[simp] theorem setRun_outbox (s : State) (r x) : (s.setRun r x).outbox = s.outbox := rfl
@[simp] theorem setRun_freeCount (s : State) (r x) : (s.setRun r x).freeCount = s.freeCount := rfl
@[simp] theorem setRun_fns (s : State) (r x) : (s.setRun r x).fns = s.fns := rfl
@[simp] theorem setRun_parts (s : State) (r x) : (s.setRun r x).parts = s.parts := rfl
@[simp] theorem setRun_cmds (s : State) (r x) : (s.setRun r x).cmds = s.cmds := rfl
@[simp] theorem setRun_nextCmd (s : State) (r x) : (s.setRun r x).nextCmd = s.nextCmd := rfl
@[simp] theorem setRun_ended (s : State) (r x) : (s.setRun r x).ended = s.ended := rfl
@[simp] theorem setRun_turn (s : State) (r x) : (s.setRun r x).turn = s.turn := rfl
@[simp] theorem setRun_config (s : State) (r x) : (s.setRun r x).config = s.config := rfl
@[simp] theorem setRun_mem (s : State) (r x) : (s.setRun r x).mem = s.mem := rfl
@[simp] theorem setRun_regions (s : State) (r x) : (s.setRun r x).regions = s.regions := rfl
@[simp] theorem setRun_scrubs (s : State) (r x) : (s.setRun r x).scrubs = s.scrubs := rfl
@[simp] theorem setRun_unmaps (s : State) (r x) : (s.setRun r x).unmaps = s.unmaps := rfl
@[simp] theorem setRun_refreshing (s : State) (r x) : (s.setRun r x).refreshing = s.refreshing := rfl
@[simp] theorem setRun_memUsed (s : State) (r x) : (s.setRun r x).memUsed = s.memUsed := rfl
@[simp] theorem setRun_links (s : State) (r x) : (s.setRun r x).links = s.links := rfl
@[simp] theorem setRun_cores (s : State) (r x) : (s.setRun r x).cores = s.cores := rfl
@[simp] theorem setRun_counters (s : State) (r x) : (s.setRun r x).counters = s.counters := rfl
@[simp] theorem setRun_routes (s : State) (r x) : (s.setRun r x).routes = s.routes := rfl
@[simp] theorem setRun_nextRun (s : State) (r x) : (s.setRun r x).nextRun = s.nextRun := rfl
@[simp] theorem setRun_streams (s : State) (r x) : (s.setRun r x).streams = s.streams := rfl
@[simp] theorem setRun_channels (s : State) (r x) : (s.setRun r x).channels = s.channels := rfl
@[simp] theorem setRun_ports (s : State) (r x) : (s.setRun r x).ports = s.ports := rfl
@[simp] theorem setRun_cascade (s : State) (r x) : (s.setRun r x).cascade = s.cascade := rfl
@[simp] theorem setRun_leases (s : State) (r x) : (s.setRun r x).leases = s.leases := rfl
@[simp] theorem setRun_buckets (s : State) (r x) : (s.setRun r x).buckets = s.buckets := rfl
@[simp] theorem setRun_tagHomes (s : State) (r x) : (s.setRun r x).tagHomes = s.tagHomes := rfl
@[simp] theorem setRun_security (s : State) (r x) : (s.setRun r x).security = s.security := rfl
@[simp] theorem setRun_mgt (s : State) (r x) : (s.setRun r x).mgt = s.mgt := rfl
@[simp] theorem setRun_time (s : State) (r x) : (s.setRun r x).time = s.time := rfl
@[simp] theorem setRun_power (s : State) (r x) : (s.setRun r x).power = s.power := rfl
@[simp] theorem setRun_health (s : State) (r x) : (s.setRun r x).health = s.health := rfl
@[simp] theorem setRun_flash (s : State) (r x) : (s.setRun r x).flash = s.flash := rfl
@[simp] theorem setRun_tally (s : State) (r x) : (s.setRun r x).tally = s.tally := rfl
@[simp] theorem setRun_packing (s : State) (r x) : (s.setRun r x).packing = s.packing := rfl
end setRun

section onRun
@[simp] theorem onRun_pending (s : State) (r g) : (s.onRun r g).pending = s.pending := rfl
@[simp] theorem onRun_outbox (s : State) (r g) : (s.onRun r g).outbox = s.outbox := rfl
@[simp] theorem onRun_freeCount (s : State) (r g) : (s.onRun r g).freeCount = s.freeCount := rfl
@[simp] theorem onRun_fns (s : State) (r g) : (s.onRun r g).fns = s.fns := rfl
@[simp] theorem onRun_parts (s : State) (r g) : (s.onRun r g).parts = s.parts := rfl
@[simp] theorem onRun_cmds (s : State) (r g) : (s.onRun r g).cmds = s.cmds := rfl
@[simp] theorem onRun_nextCmd (s : State) (r g) : (s.onRun r g).nextCmd = s.nextCmd := rfl
@[simp] theorem onRun_ended (s : State) (r g) : (s.onRun r g).ended = s.ended := rfl
@[simp] theorem onRun_turn (s : State) (r g) : (s.onRun r g).turn = s.turn := rfl
@[simp] theorem onRun_config (s : State) (r g) : (s.onRun r g).config = s.config := rfl
@[simp] theorem onRun_mem (s : State) (r g) : (s.onRun r g).mem = s.mem := rfl
@[simp] theorem onRun_regions (s : State) (r g) : (s.onRun r g).regions = s.regions := rfl
@[simp] theorem onRun_scrubs (s : State) (r g) : (s.onRun r g).scrubs = s.scrubs := rfl
@[simp] theorem onRun_unmaps (s : State) (r g) : (s.onRun r g).unmaps = s.unmaps := rfl
@[simp] theorem onRun_refreshing (s : State) (r g) : (s.onRun r g).refreshing = s.refreshing := rfl
@[simp] theorem onRun_memUsed (s : State) (r g) : (s.onRun r g).memUsed = s.memUsed := rfl
@[simp] theorem onRun_links (s : State) (r g) : (s.onRun r g).links = s.links := rfl
@[simp] theorem onRun_cores (s : State) (r g) : (s.onRun r g).cores = s.cores := rfl
@[simp] theorem onRun_counters (s : State) (r g) : (s.onRun r g).counters = s.counters := rfl
@[simp] theorem onRun_routes (s : State) (r g) : (s.onRun r g).routes = s.routes := rfl
@[simp] theorem onRun_nextRun (s : State) (r g) : (s.onRun r g).nextRun = s.nextRun := rfl
@[simp] theorem onRun_streams (s : State) (r g) : (s.onRun r g).streams = s.streams := rfl
@[simp] theorem onRun_channels (s : State) (r g) : (s.onRun r g).channels = s.channels := rfl
@[simp] theorem onRun_ports (s : State) (r g) : (s.onRun r g).ports = s.ports := rfl
@[simp] theorem onRun_cascade (s : State) (r g) : (s.onRun r g).cascade = s.cascade := rfl
@[simp] theorem onRun_leases (s : State) (r g) : (s.onRun r g).leases = s.leases := rfl
@[simp] theorem onRun_buckets (s : State) (r g) : (s.onRun r g).buckets = s.buckets := rfl
@[simp] theorem onRun_tagHomes (s : State) (r g) : (s.onRun r g).tagHomes = s.tagHomes := rfl
@[simp] theorem onRun_security (s : State) (r g) : (s.onRun r g).security = s.security := rfl
@[simp] theorem onRun_mgt (s : State) (r g) : (s.onRun r g).mgt = s.mgt := rfl
@[simp] theorem onRun_time (s : State) (r g) : (s.onRun r g).time = s.time := rfl
@[simp] theorem onRun_power (s : State) (r g) : (s.onRun r g).power = s.power := rfl
@[simp] theorem onRun_health (s : State) (r g) : (s.onRun r g).health = s.health := rfl
@[simp] theorem onRun_flash (s : State) (r g) : (s.onRun r g).flash = s.flash := rfl
@[simp] theorem onRun_tally (s : State) (r g) : (s.onRun r g).tally = s.tally := rfl
@[simp] theorem onRun_packing (s : State) (r g) : (s.onRun r g).packing = s.packing := rfl
end onRun

section setStream
@[simp] theorem setStream_pending (s : State) (n x) : (s.setStream n x).pending = s.pending := rfl
@[simp] theorem setStream_outbox (s : State) (n x) : (s.setStream n x).outbox = s.outbox := rfl
@[simp] theorem setStream_freeCount (s : State) (n x) : (s.setStream n x).freeCount = s.freeCount := rfl
@[simp] theorem setStream_fns (s : State) (n x) : (s.setStream n x).fns = s.fns := rfl
@[simp] theorem setStream_parts (s : State) (n x) : (s.setStream n x).parts = s.parts := rfl
@[simp] theorem setStream_cmds (s : State) (n x) : (s.setStream n x).cmds = s.cmds := rfl
@[simp] theorem setStream_nextCmd (s : State) (n x) : (s.setStream n x).nextCmd = s.nextCmd := rfl
@[simp] theorem setStream_ended (s : State) (n x) : (s.setStream n x).ended = s.ended := rfl
@[simp] theorem setStream_turn (s : State) (n x) : (s.setStream n x).turn = s.turn := rfl
@[simp] theorem setStream_config (s : State) (n x) : (s.setStream n x).config = s.config := rfl
@[simp] theorem setStream_mem (s : State) (n x) : (s.setStream n x).mem = s.mem := rfl
@[simp] theorem setStream_regions (s : State) (n x) : (s.setStream n x).regions = s.regions := rfl
@[simp] theorem setStream_scrubs (s : State) (n x) : (s.setStream n x).scrubs = s.scrubs := rfl
@[simp] theorem setStream_unmaps (s : State) (n x) : (s.setStream n x).unmaps = s.unmaps := rfl
@[simp] theorem setStream_refreshing (s : State) (n x) : (s.setStream n x).refreshing = s.refreshing := rfl
@[simp] theorem setStream_memUsed (s : State) (n x) : (s.setStream n x).memUsed = s.memUsed := rfl
@[simp] theorem setStream_links (s : State) (n x) : (s.setStream n x).links = s.links := rfl
@[simp] theorem setStream_cores (s : State) (n x) : (s.setStream n x).cores = s.cores := rfl
@[simp] theorem setStream_counters (s : State) (n x) : (s.setStream n x).counters = s.counters := rfl
@[simp] theorem setStream_routes (s : State) (n x) : (s.setStream n x).routes = s.routes := rfl
@[simp] theorem setStream_runs (s : State) (n x) : (s.setStream n x).runs = s.runs := rfl
@[simp] theorem setStream_nextRun (s : State) (n x) : (s.setStream n x).nextRun = s.nextRun := rfl
@[simp] theorem setStream_channels (s : State) (n x) : (s.setStream n x).channels = s.channels := rfl
@[simp] theorem setStream_ports (s : State) (n x) : (s.setStream n x).ports = s.ports := rfl
@[simp] theorem setStream_cascade (s : State) (n x) : (s.setStream n x).cascade = s.cascade := rfl
@[simp] theorem setStream_leases (s : State) (n x) : (s.setStream n x).leases = s.leases := rfl
@[simp] theorem setStream_buckets (s : State) (n x) : (s.setStream n x).buckets = s.buckets := rfl
@[simp] theorem setStream_tagHomes (s : State) (n x) : (s.setStream n x).tagHomes = s.tagHomes := rfl
@[simp] theorem setStream_security (s : State) (n x) : (s.setStream n x).security = s.security := rfl
@[simp] theorem setStream_mgt (s : State) (n x) : (s.setStream n x).mgt = s.mgt := rfl
@[simp] theorem setStream_time (s : State) (n x) : (s.setStream n x).time = s.time := rfl
@[simp] theorem setStream_power (s : State) (n x) : (s.setStream n x).power = s.power := rfl
@[simp] theorem setStream_health (s : State) (n x) : (s.setStream n x).health = s.health := rfl
@[simp] theorem setStream_flash (s : State) (n x) : (s.setStream n x).flash = s.flash := rfl
@[simp] theorem setStream_tally (s : State) (n x) : (s.setStream n x).tally = s.tally := rfl
@[simp] theorem setStream_packing (s : State) (n x) : (s.setStream n x).packing = s.packing := rfl
end setStream

section onStream
@[simp] theorem onStream_pending (s : State) (n g) : (s.onStream n g).pending = s.pending := rfl
@[simp] theorem onStream_outbox (s : State) (n g) : (s.onStream n g).outbox = s.outbox := rfl
@[simp] theorem onStream_freeCount (s : State) (n g) : (s.onStream n g).freeCount = s.freeCount := rfl
@[simp] theorem onStream_fns (s : State) (n g) : (s.onStream n g).fns = s.fns := rfl
@[simp] theorem onStream_parts (s : State) (n g) : (s.onStream n g).parts = s.parts := rfl
@[simp] theorem onStream_cmds (s : State) (n g) : (s.onStream n g).cmds = s.cmds := rfl
@[simp] theorem onStream_nextCmd (s : State) (n g) : (s.onStream n g).nextCmd = s.nextCmd := rfl
@[simp] theorem onStream_ended (s : State) (n g) : (s.onStream n g).ended = s.ended := rfl
@[simp] theorem onStream_turn (s : State) (n g) : (s.onStream n g).turn = s.turn := rfl
@[simp] theorem onStream_config (s : State) (n g) : (s.onStream n g).config = s.config := rfl
@[simp] theorem onStream_mem (s : State) (n g) : (s.onStream n g).mem = s.mem := rfl
@[simp] theorem onStream_regions (s : State) (n g) : (s.onStream n g).regions = s.regions := rfl
@[simp] theorem onStream_scrubs (s : State) (n g) : (s.onStream n g).scrubs = s.scrubs := rfl
@[simp] theorem onStream_unmaps (s : State) (n g) : (s.onStream n g).unmaps = s.unmaps := rfl
@[simp] theorem onStream_refreshing (s : State) (n g) : (s.onStream n g).refreshing = s.refreshing := rfl
@[simp] theorem onStream_memUsed (s : State) (n g) : (s.onStream n g).memUsed = s.memUsed := rfl
@[simp] theorem onStream_links (s : State) (n g) : (s.onStream n g).links = s.links := rfl
@[simp] theorem onStream_cores (s : State) (n g) : (s.onStream n g).cores = s.cores := rfl
@[simp] theorem onStream_counters (s : State) (n g) : (s.onStream n g).counters = s.counters := rfl
@[simp] theorem onStream_routes (s : State) (n g) : (s.onStream n g).routes = s.routes := rfl
@[simp] theorem onStream_runs (s : State) (n g) : (s.onStream n g).runs = s.runs := rfl
@[simp] theorem onStream_nextRun (s : State) (n g) : (s.onStream n g).nextRun = s.nextRun := rfl
@[simp] theorem onStream_channels (s : State) (n g) : (s.onStream n g).channels = s.channels := rfl
@[simp] theorem onStream_ports (s : State) (n g) : (s.onStream n g).ports = s.ports := rfl
@[simp] theorem onStream_cascade (s : State) (n g) : (s.onStream n g).cascade = s.cascade := rfl
@[simp] theorem onStream_leases (s : State) (n g) : (s.onStream n g).leases = s.leases := rfl
@[simp] theorem onStream_buckets (s : State) (n g) : (s.onStream n g).buckets = s.buckets := rfl
@[simp] theorem onStream_tagHomes (s : State) (n g) : (s.onStream n g).tagHomes = s.tagHomes := rfl
@[simp] theorem onStream_security (s : State) (n g) : (s.onStream n g).security = s.security := rfl
@[simp] theorem onStream_mgt (s : State) (n g) : (s.onStream n g).mgt = s.mgt := rfl
@[simp] theorem onStream_time (s : State) (n g) : (s.onStream n g).time = s.time := rfl
@[simp] theorem onStream_power (s : State) (n g) : (s.onStream n g).power = s.power := rfl
@[simp] theorem onStream_health (s : State) (n g) : (s.onStream n g).health = s.health := rfl
@[simp] theorem onStream_flash (s : State) (n g) : (s.onStream n g).flash = s.flash := rfl
@[simp] theorem onStream_tally (s : State) (n g) : (s.onStream n g).tally = s.tally := rfl
@[simp] theorem onStream_packing (s : State) (n g) : (s.onStream n g).packing = s.packing := rfl
end onStream

section onChannel
@[simp] theorem onChannel_pending (s : State) (n g) : (s.onChannel n g).pending = s.pending := rfl
@[simp] theorem onChannel_outbox (s : State) (n g) : (s.onChannel n g).outbox = s.outbox := rfl
@[simp] theorem onChannel_freeCount (s : State) (n g) : (s.onChannel n g).freeCount = s.freeCount := rfl
@[simp] theorem onChannel_fns (s : State) (n g) : (s.onChannel n g).fns = s.fns := rfl
@[simp] theorem onChannel_parts (s : State) (n g) : (s.onChannel n g).parts = s.parts := rfl
@[simp] theorem onChannel_cmds (s : State) (n g) : (s.onChannel n g).cmds = s.cmds := rfl
@[simp] theorem onChannel_nextCmd (s : State) (n g) : (s.onChannel n g).nextCmd = s.nextCmd := rfl
@[simp] theorem onChannel_ended (s : State) (n g) : (s.onChannel n g).ended = s.ended := rfl
@[simp] theorem onChannel_turn (s : State) (n g) : (s.onChannel n g).turn = s.turn := rfl
@[simp] theorem onChannel_config (s : State) (n g) : (s.onChannel n g).config = s.config := rfl
@[simp] theorem onChannel_mem (s : State) (n g) : (s.onChannel n g).mem = s.mem := rfl
@[simp] theorem onChannel_regions (s : State) (n g) : (s.onChannel n g).regions = s.regions := rfl
@[simp] theorem onChannel_scrubs (s : State) (n g) : (s.onChannel n g).scrubs = s.scrubs := rfl
@[simp] theorem onChannel_unmaps (s : State) (n g) : (s.onChannel n g).unmaps = s.unmaps := rfl
@[simp] theorem onChannel_refreshing (s : State) (n g) : (s.onChannel n g).refreshing = s.refreshing := rfl
@[simp] theorem onChannel_memUsed (s : State) (n g) : (s.onChannel n g).memUsed = s.memUsed := rfl
@[simp] theorem onChannel_links (s : State) (n g) : (s.onChannel n g).links = s.links := rfl
@[simp] theorem onChannel_cores (s : State) (n g) : (s.onChannel n g).cores = s.cores := rfl
@[simp] theorem onChannel_counters (s : State) (n g) : (s.onChannel n g).counters = s.counters := rfl
@[simp] theorem onChannel_routes (s : State) (n g) : (s.onChannel n g).routes = s.routes := rfl
@[simp] theorem onChannel_runs (s : State) (n g) : (s.onChannel n g).runs = s.runs := rfl
@[simp] theorem onChannel_nextRun (s : State) (n g) : (s.onChannel n g).nextRun = s.nextRun := rfl
@[simp] theorem onChannel_streams (s : State) (n g) : (s.onChannel n g).streams = s.streams := rfl
@[simp] theorem onChannel_ports (s : State) (n g) : (s.onChannel n g).ports = s.ports := rfl
@[simp] theorem onChannel_cascade (s : State) (n g) : (s.onChannel n g).cascade = s.cascade := rfl
@[simp] theorem onChannel_leases (s : State) (n g) : (s.onChannel n g).leases = s.leases := rfl
@[simp] theorem onChannel_buckets (s : State) (n g) : (s.onChannel n g).buckets = s.buckets := rfl
@[simp] theorem onChannel_tagHomes (s : State) (n g) : (s.onChannel n g).tagHomes = s.tagHomes := rfl
@[simp] theorem onChannel_security (s : State) (n g) : (s.onChannel n g).security = s.security := rfl
@[simp] theorem onChannel_mgt (s : State) (n g) : (s.onChannel n g).mgt = s.mgt := rfl
@[simp] theorem onChannel_time (s : State) (n g) : (s.onChannel n g).time = s.time := rfl
@[simp] theorem onChannel_power (s : State) (n g) : (s.onChannel n g).power = s.power := rfl
@[simp] theorem onChannel_health (s : State) (n g) : (s.onChannel n g).health = s.health := rfl
@[simp] theorem onChannel_flash (s : State) (n g) : (s.onChannel n g).flash = s.flash := rfl
@[simp] theorem onChannel_tally (s : State) (n g) : (s.onChannel n g).tally = s.tally := rfl
@[simp] theorem onChannel_packing (s : State) (n g) : (s.onChannel n g).packing = s.packing := rfl
end onChannel

section emit
@[simp] theorem emit_pending (s : State) (o) : (s.emit o).pending = s.pending := rfl
@[simp] theorem emit_freeCount (s : State) (o) : (s.emit o).freeCount = s.freeCount := rfl
@[simp] theorem emit_fns (s : State) (o) : (s.emit o).fns = s.fns := rfl
@[simp] theorem emit_parts (s : State) (o) : (s.emit o).parts = s.parts := rfl
@[simp] theorem emit_cmds (s : State) (o) : (s.emit o).cmds = s.cmds := rfl
@[simp] theorem emit_nextCmd (s : State) (o) : (s.emit o).nextCmd = s.nextCmd := rfl
@[simp] theorem emit_ended (s : State) (o) : (s.emit o).ended = s.ended := rfl
@[simp] theorem emit_turn (s : State) (o) : (s.emit o).turn = s.turn := rfl
@[simp] theorem emit_config (s : State) (o) : (s.emit o).config = s.config := rfl
@[simp] theorem emit_mem (s : State) (o) : (s.emit o).mem = s.mem := rfl
@[simp] theorem emit_regions (s : State) (o) : (s.emit o).regions = s.regions := rfl
@[simp] theorem emit_scrubs (s : State) (o) : (s.emit o).scrubs = s.scrubs := rfl
@[simp] theorem emit_unmaps (s : State) (o) : (s.emit o).unmaps = s.unmaps := rfl
@[simp] theorem emit_refreshing (s : State) (o) : (s.emit o).refreshing = s.refreshing := rfl
@[simp] theorem emit_memUsed (s : State) (o) : (s.emit o).memUsed = s.memUsed := rfl
@[simp] theorem emit_links (s : State) (o) : (s.emit o).links = s.links := rfl
@[simp] theorem emit_cores (s : State) (o) : (s.emit o).cores = s.cores := rfl
@[simp] theorem emit_counters (s : State) (o) : (s.emit o).counters = s.counters := rfl
@[simp] theorem emit_routes (s : State) (o) : (s.emit o).routes = s.routes := rfl
@[simp] theorem emit_runs (s : State) (o) : (s.emit o).runs = s.runs := rfl
@[simp] theorem emit_nextRun (s : State) (o) : (s.emit o).nextRun = s.nextRun := rfl
@[simp] theorem emit_streams (s : State) (o) : (s.emit o).streams = s.streams := rfl
@[simp] theorem emit_channels (s : State) (o) : (s.emit o).channels = s.channels := rfl
@[simp] theorem emit_ports (s : State) (o) : (s.emit o).ports = s.ports := rfl
@[simp] theorem emit_cascade (s : State) (o) : (s.emit o).cascade = s.cascade := rfl
@[simp] theorem emit_leases (s : State) (o) : (s.emit o).leases = s.leases := rfl
@[simp] theorem emit_buckets (s : State) (o) : (s.emit o).buckets = s.buckets := rfl
@[simp] theorem emit_tagHomes (s : State) (o) : (s.emit o).tagHomes = s.tagHomes := rfl
@[simp] theorem emit_security (s : State) (o) : (s.emit o).security = s.security := rfl
@[simp] theorem emit_mgt (s : State) (o) : (s.emit o).mgt = s.mgt := rfl
@[simp] theorem emit_time (s : State) (o) : (s.emit o).time = s.time := rfl
@[simp] theorem emit_power (s : State) (o) : (s.emit o).power = s.power := rfl
@[simp] theorem emit_health (s : State) (o) : (s.emit o).health = s.health := rfl
@[simp] theorem emit_flash (s : State) (o) : (s.emit o).flash = s.flash := rfl
@[simp] theorem emit_tally (s : State) (o) : (s.emit o).tally = s.tally := rfl
@[simp] theorem emit_packing (s : State) (o) : (s.emit o).packing = s.packing := rfl
end emit

section event
@[simp] theorem event_pending (s : State) (i) : (s.event i).pending = s.pending := rfl
@[simp] theorem event_outbox (s : State) (i) : (s.event i).outbox = s.outbox := rfl
@[simp] theorem event_freeCount (s : State) (i) : (s.event i).freeCount = s.freeCount := rfl
@[simp] theorem event_fns (s : State) (i) : (s.event i).fns = s.fns := rfl
@[simp] theorem event_parts (s : State) (i) : (s.event i).parts = s.parts := rfl
@[simp] theorem event_cmds (s : State) (i) : (s.event i).cmds = s.cmds := rfl
@[simp] theorem event_nextCmd (s : State) (i) : (s.event i).nextCmd = s.nextCmd := rfl
@[simp] theorem event_ended (s : State) (i) : (s.event i).ended = s.ended := rfl
@[simp] theorem event_turn (s : State) (i) : (s.event i).turn = s.turn := rfl
@[simp] theorem event_config (s : State) (i) : (s.event i).config = s.config := rfl
@[simp] theorem event_mem (s : State) (i) : (s.event i).mem = s.mem := rfl
@[simp] theorem event_regions (s : State) (i) : (s.event i).regions = s.regions := rfl
@[simp] theorem event_scrubs (s : State) (i) : (s.event i).scrubs = s.scrubs := rfl
@[simp] theorem event_unmaps (s : State) (i) : (s.event i).unmaps = s.unmaps := rfl
@[simp] theorem event_refreshing (s : State) (i) : (s.event i).refreshing = s.refreshing := rfl
@[simp] theorem event_memUsed (s : State) (i) : (s.event i).memUsed = s.memUsed := rfl
@[simp] theorem event_links (s : State) (i) : (s.event i).links = s.links := rfl
@[simp] theorem event_cores (s : State) (i) : (s.event i).cores = s.cores := rfl
@[simp] theorem event_counters (s : State) (i) : (s.event i).counters = s.counters := rfl
@[simp] theorem event_routes (s : State) (i) : (s.event i).routes = s.routes := rfl
@[simp] theorem event_runs (s : State) (i) : (s.event i).runs = s.runs := rfl
@[simp] theorem event_nextRun (s : State) (i) : (s.event i).nextRun = s.nextRun := rfl
@[simp] theorem event_streams (s : State) (i) : (s.event i).streams = s.streams := rfl
@[simp] theorem event_channels (s : State) (i) : (s.event i).channels = s.channels := rfl
@[simp] theorem event_ports (s : State) (i) : (s.event i).ports = s.ports := rfl
@[simp] theorem event_cascade (s : State) (i) : (s.event i).cascade = s.cascade := rfl
@[simp] theorem event_leases (s : State) (i) : (s.event i).leases = s.leases := rfl
@[simp] theorem event_buckets (s : State) (i) : (s.event i).buckets = s.buckets := rfl
@[simp] theorem event_tagHomes (s : State) (i) : (s.event i).tagHomes = s.tagHomes := rfl
@[simp] theorem event_security (s : State) (i) : (s.event i).security = s.security := rfl
@[simp] theorem event_mgt (s : State) (i) : (s.event i).mgt = s.mgt := rfl
@[simp] theorem event_time (s : State) (i) : (s.event i).time = s.time := rfl
@[simp] theorem event_power (s : State) (i) : (s.event i).power = s.power := rfl
@[simp] theorem event_flash (s : State) (i) : (s.event i).flash = s.flash := rfl
@[simp] theorem event_tally (s : State) (i) : (s.event i).tally = s.tally := rfl
@[simp] theorem event_packing (s : State) (i) : (s.event i).packing = s.packing := rfl
end event

section result
@[simp] theorem result_pending (s : State) (i a b) : (s.result i a b).pending = s.pending := rfl
@[simp] theorem result_outbox (s : State) (i a b) : (s.result i a b).outbox = s.outbox := rfl
@[simp] theorem result_freeCount (s : State) (i a b) : (s.result i a b).freeCount = s.freeCount := rfl
@[simp] theorem result_fns (s : State) (i a b) : (s.result i a b).fns = s.fns := rfl
@[simp] theorem result_parts (s : State) (i a b) : (s.result i a b).parts = s.parts := rfl
@[simp] theorem result_nextCmd (s : State) (i a b) : (s.result i a b).nextCmd = s.nextCmd := rfl
@[simp] theorem result_ended (s : State) (i a b) : (s.result i a b).ended = s.ended := rfl
@[simp] theorem result_turn (s : State) (i a b) : (s.result i a b).turn = s.turn := rfl
@[simp] theorem result_config (s : State) (i a b) : (s.result i a b).config = s.config := rfl
@[simp] theorem result_mem (s : State) (i a b) : (s.result i a b).mem = s.mem := rfl
@[simp] theorem result_regions (s : State) (i a b) : (s.result i a b).regions = s.regions := rfl
@[simp] theorem result_scrubs (s : State) (i a b) : (s.result i a b).scrubs = s.scrubs := rfl
@[simp] theorem result_unmaps (s : State) (i a b) : (s.result i a b).unmaps = s.unmaps := rfl
@[simp] theorem result_refreshing (s : State) (i a b) : (s.result i a b).refreshing = s.refreshing := rfl
@[simp] theorem result_memUsed (s : State) (i a b) : (s.result i a b).memUsed = s.memUsed := rfl
@[simp] theorem result_links (s : State) (i a b) : (s.result i a b).links = s.links := rfl
@[simp] theorem result_cores (s : State) (i a b) : (s.result i a b).cores = s.cores := rfl
@[simp] theorem result_counters (s : State) (i a b) : (s.result i a b).counters = s.counters := rfl
@[simp] theorem result_routes (s : State) (i a b) : (s.result i a b).routes = s.routes := rfl
@[simp] theorem result_runs (s : State) (i a b) : (s.result i a b).runs = s.runs := rfl
@[simp] theorem result_nextRun (s : State) (i a b) : (s.result i a b).nextRun = s.nextRun := rfl
@[simp] theorem result_streams (s : State) (i a b) : (s.result i a b).streams = s.streams := rfl
@[simp] theorem result_channels (s : State) (i a b) : (s.result i a b).channels = s.channels := rfl
@[simp] theorem result_ports (s : State) (i a b) : (s.result i a b).ports = s.ports := rfl
@[simp] theorem result_cascade (s : State) (i a b) : (s.result i a b).cascade = s.cascade := rfl
@[simp] theorem result_leases (s : State) (i a b) : (s.result i a b).leases = s.leases := rfl
@[simp] theorem result_buckets (s : State) (i a b) : (s.result i a b).buckets = s.buckets := rfl
@[simp] theorem result_tagHomes (s : State) (i a b) : (s.result i a b).tagHomes = s.tagHomes := rfl
@[simp] theorem result_security (s : State) (i a b) : (s.result i a b).security = s.security := rfl
@[simp] theorem result_mgt (s : State) (i a b) : (s.result i a b).mgt = s.mgt := rfl
@[simp] theorem result_time (s : State) (i a b) : (s.result i a b).time = s.time := rfl
@[simp] theorem result_power (s : State) (i a b) : (s.result i a b).power = s.power := rfl
@[simp] theorem result_health (s : State) (i a b) : (s.result i a b).health = s.health := rfl
@[simp] theorem result_flash (s : State) (i a b) : (s.result i a b).flash = s.flash := rfl
@[simp] theorem result_tally (s : State) (i a b) : (s.result i a b).tally = s.tally := rfl
@[simp] theorem result_packing (s : State) (i a b) : (s.result i a b).packing = s.packing := rfl
end result

section count
variable (s : State) (g i n : Nat)
@[simp] theorem count_pending : (s.count g i n).pending = s.pending := by unfold count; split <;> rfl
@[simp] theorem count_outbox : (s.count g i n).outbox = s.outbox := by unfold count; split <;> rfl
@[simp] theorem count_freeCount : (s.count g i n).freeCount = s.freeCount := by unfold count; split <;> rfl
@[simp] theorem count_fns : (s.count g i n).fns = s.fns := by unfold count; split <;> rfl
@[simp] theorem count_parts : (s.count g i n).parts = s.parts := by unfold count; split <;> rfl
@[simp] theorem count_cmds : (s.count g i n).cmds = s.cmds := by unfold count; split <;> rfl
@[simp] theorem count_nextCmd : (s.count g i n).nextCmd = s.nextCmd := by unfold count; split <;> rfl
@[simp] theorem count_ended : (s.count g i n).ended = s.ended := by unfold count; split <;> rfl
@[simp] theorem count_turn : (s.count g i n).turn = s.turn := by unfold count; split <;> rfl
@[simp] theorem count_config : (s.count g i n).config = s.config := by unfold count; split <;> rfl
@[simp] theorem count_mem : (s.count g i n).mem = s.mem := by unfold count; split <;> rfl
@[simp] theorem count_regions : (s.count g i n).regions = s.regions := by unfold count; split <;> rfl
@[simp] theorem count_scrubs : (s.count g i n).scrubs = s.scrubs := by unfold count; split <;> rfl
@[simp] theorem count_unmaps : (s.count g i n).unmaps = s.unmaps := by unfold count; split <;> rfl
@[simp] theorem count_refreshing : (s.count g i n).refreshing = s.refreshing := by unfold count; split <;> rfl
@[simp] theorem count_memUsed : (s.count g i n).memUsed = s.memUsed := by unfold count; split <;> rfl
@[simp] theorem count_links : (s.count g i n).links = s.links := by unfold count; split <;> rfl
@[simp] theorem count_cores : (s.count g i n).cores = s.cores := by unfold count; split <;> rfl
@[simp] theorem count_counters : (s.count g i n).counters = s.counters := by unfold count; split <;> rfl
@[simp] theorem count_routes : (s.count g i n).routes = s.routes := by unfold count; split <;> rfl
@[simp] theorem count_runs : (s.count g i n).runs = s.runs := by unfold count; split <;> rfl
@[simp] theorem count_nextRun : (s.count g i n).nextRun = s.nextRun := by unfold count; split <;> rfl
@[simp] theorem count_streams : (s.count g i n).streams = s.streams := by unfold count; split <;> rfl
@[simp] theorem count_channels : (s.count g i n).channels = s.channels := by unfold count; split <;> rfl
@[simp] theorem count_ports : (s.count g i n).ports = s.ports := by unfold count; split <;> rfl
@[simp] theorem count_cascade : (s.count g i n).cascade = s.cascade := by unfold count; split <;> rfl
@[simp] theorem count_leases : (s.count g i n).leases = s.leases := by unfold count; split <;> rfl
@[simp] theorem count_buckets : (s.count g i n).buckets = s.buckets := by unfold count; split <;> rfl
@[simp] theorem count_tagHomes : (s.count g i n).tagHomes = s.tagHomes := by unfold count; split <;> rfl
@[simp] theorem count_security : (s.count g i n).security = s.security := by unfold count; split <;> rfl
@[simp] theorem count_mgt : (s.count g i n).mgt = s.mgt := by unfold count; split <;> rfl
@[simp] theorem count_time : (s.count g i n).time = s.time := by unfold count; split <;> rfl
@[simp] theorem count_power : (s.count g i n).power = s.power := by unfold count; split <;> rfl
@[simp] theorem count_health : (s.count g i n).health = s.health := by unfold count; split <;> rfl
@[simp] theorem count_packing : (s.count g i n).packing = s.packing := by unfold count; split <;> rfl
end count

@[simp] theorem fn_setFn (s : State) (f x) : (s.setFn f x).fn f = x := Tab.getD_put_self ..
@[simp] theorem part_setPart (s : State) (p x) : (s.setPart p x).part p = x := Tab.getD_put_self ..
@[simp] theorem core_setCore (s : State) (c x) : (s.setCore c x).core c = x := Tab.getD_put_self ..
@[simp] theorem port_setPort (s : State) (p x) : (s.setPort p x).port p = x := Tab.getD_put_self ..
@[simp] theorem cmd_setCmd (s : State) (i c) : (s.setCmd i c).cmd i = some c := Tab.find_put_self ..
@[simp] theorem run_setRun (s : State) (r x) : (s.setRun r x).run r = some x := Tab.find_put_self ..
@[simp] theorem route_setRoute (s : State) (r x) : (s.setRoute r x).route r = some x := Tab.find_put_self ..
@[simp] theorem stream_setStream (s : State) (n x) : (s.setStream n x).stream n = some x := Tab.find_put_self ..
@[simp] theorem core_onCore (s : State) (c g) : (s.onCore c g).core c = g (s.core c) := Tab.getD_put_self ..
@[simp] theorem fn_onFn (s : State) (f g) : (s.onFn f g).fn f = g (s.fn f) := Tab.getD_put_self ..
@[simp] theorem part_onPart (s : State) (p g) : (s.onPart p g).part p = g (s.part p) := Tab.getD_put_self ..
@[simp] theorem port_onPort (s : State) (p g) : (s.onPort p g).port p = g (s.port p) := Tab.getD_put_self ..

theorem cmd_onCmd {s : State} {i : Nat} {c : Cmd} (g : Cmd → Cmd) (h : s.cmd i = some c) :
    (s.onCmd i g).cmd i = some (g c) := by
  have h' : Tab.find i s.cmds = some c := h
  simp [onCmd, cmd, Tab.modify, h']

/-- Cores but the one changed stay as they were. -/
theorem core_setCore_ne (s : State) {c d : Nat} (x) (h : d ≠ c) : (s.setCore c x).core d = s.core d :=
  Tab.getD_put_ne _ _ _ h

theorem cmd_congr {s t : State} (h : t.cmds = s.cmds) (i : Nat) : t.cmd i = s.cmd i := by
  unfold cmd
  rw [h]

theorem Open.congr {s t : State} (h : t.cmds = s.cmds) {i : Nat} (ho : s.Open i) : t.Open i := by
  obtain ⟨c, h1, h2⟩ := ho
  exact ⟨c, by rw [cmd_congr h, h1], h2⟩

/-! ### How a command starts and ends -/

@[simp] theorem started_cmd (s : State) (id c) :
    (s.started id c).cmd id = some { c with phase := .running, checked := true } := cmd_setCmd ..

theorem started_open (s : State) (id c) : (s.started id c).Open id := ⟨_, started_cmd .., by simp⟩

/-- A waiting command that may start takes its own effect (R293). -/
theorem begin_eq {s : State} {id code : Nat} {c : Cmd} (h : s.Starts id code c) (f : Cmd → State → State) :
    s.begin id code f = f c (s.started id c) := by
  obtain ⟨h1, h2, h3, h4, h5, h6, h7⟩ := h
  unfold State.begin started
  simp [h1, h2, h3, h4, h5, h6, h7]

/-- The row of an opcode, of a command that may start. -/
theorem opcodeRow_eq {s : State} {id code : Nat} {c : Cmd} (h : s.Starts id code c) (f : Cmd → State → State) :
    opcodeRow id code f s = .next (f c (s.started id c)) := by
  unfold opcodeRow
  rw [begin_eq h]

/-- An open command ended: its record, and nothing of another command's. -/
theorem endRaw_cmds {s : State} {id st d : Nat} {c : Cmd} (h : s.cmd id = some c) (hc : c.phase ≠ .ended) :
    (s.endRaw id st d).cmds = Tab.put id { c with
      phase := .ended, status := st, detail := d % 2 ^ 64, ended := s.ended, doneAt := s.now } s.cmds := by
  unfold endRaw
  simp only [h, hc, if_false]
  split <;> simp

theorem endRaw_ends {s : State} {id st d : Nat} (h : s.Open id) : (s.endRaw id st d).EndsWith id st (d % 2 ^ 64) := by
  obtain ⟨c, h, hc⟩ := h
  refine ⟨{ c with phase := .ended, status := st, detail := d % 2 ^ 64, ended := s.ended, doneAt := s.now },
    ?_, rfl, rfl, rfl⟩
  unfold cmd
  rw [endRaw_cmds h hc]
  exact Tab.find_put_self ..

/-- Ending one command leaves every other as it was. -/
theorem endRaw_other {s : State} {id st d i : Nat} (hi : i ≠ id) : (s.endRaw id st d).cmd i = s.cmd i := by
  unfold endRaw
  split
  · rfl
  · split
    · rfl
    · split <;> simp [cmd, hi]

/-- A command that completes has the ranked notice as its status, the notices in DETAIL[7:0] and the value in
DETAIL[63:32] (R302). -/
theorem complete_ends {s : State} {id v n : Nat} (h : s.Open id) :
    (s.complete id v n).EndsWith id (rankedNotice (n % 64)).code (n % 64 + v % 2 ^ 32 * 2 ^ 32) := by
  have := endRaw_ends (st := (rankedNotice (n % 64)).code) (d := n % 64 + v % 2 ^ 32 * 2 ^ 32) h
  rwa [Nat.mod_eq_of_lt (show n % 64 + v % 2 ^ 32 * 2 ^ 32 < 2 ^ 64 by omega)] at this

/-- A command that fails has the status and DETAIL given (R291). -/
theorem fail_ends {s : State} {id d : Nat} {st : Status} (h : s.Open id) :
    (s.fail id st d).EndsWith id st.code (d % 2 ^ 64) := by
  obtain ⟨c, h, hc⟩ := h
  exact endRaw_ends ⟨_, cmd_onCmd _ h, hc⟩

end Sys2Proof.Machine.State
end

