-- ==== Sys2Proof/Tests/Slice0.lean ====
section
/-! SUPPORT. The model's own tests: the well-formedness smoke, small steps with results taken from the manual, and for
each statement states that meet its hypotheses together. -/

namespace Sys2Proof.Tests

open Sys2Proof Sys2Proof.Machine

set_option Elab.async false

/-! ### Small states -/

/-- A device that has started and does nothing. -/
def idle : State := { State.reset with power := { State.reset.power with boot := .ready } }

/-- A packet of function 0 with an opcode, a partition and inline parameters. -/
def packet (op part : Nat) (params : Bytes) : Packet :=
  { opcode := op, version := 0x12, fence := false, byRef := false, noIrq := false, tag := 7, partition := part,
    target := 0xFF, paramLen := params.length, session := 1, vector := 3, clean := true, params := params }

/-- A command that has passed its checks and waits for its own row. -/
def cmd (op part : Nat) (params : Bytes) : Cmd :=
  { fn := part, relay := none, order := 0, packet := packet op part params, params := params, input := none,
    command := 0x12, parcel := 0x11, accepted := 0, checked := true, phase := .waiting, notices := 0, status := 0,
    detail := 0, ended := 0, doneAt := 0, result := none }

/-- A state with one command in flight, number 1. -/
def holding (s : State) (c : Cmd) : State := { s with cmds := [(1, c)], nextCmd := 2 }

/-- Whether the command of that number waits to start, as a Bool. -/
def starts (s : State) (id code : Nat) (c : Cmd) : Bool :=
  s.cmd id == some c && c.phase == .waiting && c.packet.opcode == code && c.checked && s.working && !s.toRelay c && s.mayStart c

theorem starts_of {s : State} {id code : Nat} {c : Cmd} (h : starts s id code c = true) : s.Starts id code c := by
  simp only [starts, Bool.and_eq_true, beq_iff_eq, Bool.not_eq_true'] at h
  obtain ⟨⟨⟨⟨⟨⟨a, b⟩, c⟩, d⟩, e⟩, f⟩, g⟩ := h
  exact ⟨a, b, c, d, e, f, g⟩

/-- An image with nothing in it. -/
def noImage : Image :=
  { steps := [], handles := [], boxes := [], lists := [], patches := [], scaleIn := 0xFFFF, scaleOut := 0xFFFF, state := 0xFFFF }

/-- A route of partition 1 with an image. -/
def route (i : Image) : Route :=
  { partition := 1, exact := false, cascade := 1, image := i, digest := [], stream := none, knobs := [], counters := [],
    replay := [], tilings := [], armed := [], loading := none, releasing := false, waiters := [] }

/-- A device with region 5 in partition 1 as its logical region 0, and region 6 in partition 2. -/
def mapped : State :=
  (idle.setRegion 5 { RegionRec.free with owner := 1, logical := 0 }).setRegion 6
    { RegionRec.free with owner := 2, logical := 0 }

/-- An accepted outcome with a property. -/
def okWith {α β : Type} (e : Except α β) (p : β → Bool) : Bool :=
  match e with
  | .ok v => p v
  | .error _ => false

theorem ok_of {α β : Type} {e : Except α β} {p : β → Bool} (h : okWith e p = true) : ∃ v, e = .ok v ∧ p v = true := by
  cases e with
  | ok v => exact ⟨v, rfl, h⟩
  | error _ => cases h

/-- A refused outcome. -/
def refused {α β : Type} (e : Except α β) : Bool :=
  match e with
  | .ok _ => false
  | .error _ => true

theorem error_of {α β : Type} {e : Except α β} (h : refused e = true) : ∃ v, e = .error v := by
  cases e with
  | ok _ => cases h
  | error v => exact ⟨v, rfl⟩

theorem pair_of {α β : Type} [DecidableEq α] {q : α × β} {a : α} (h : decide (q.1 = a) = true) : ∃ b, q = (a, b) :=
  ⟨q.2, Prod.ext (of_decide_eq_true h) rfl⟩

/-- A state beside an accepted outcome with a property. -/
theorem ok_pair {σ α β : Type} {q : σ × Except α β} {p : β → Bool} (h : okWith q.2 p = true) :
    ∃ u v, q = (u, .ok v) ∧ p v = true := by
  obtain ⟨u, e⟩ := q
  obtain ⟨v, rfl, hp⟩ := ok_of h
  exact ⟨u, v, rfl, hp⟩

/-- A state beside a refused outcome. -/
theorem error_pair {σ α β : Type} {q : σ × Except α β} (h : refused q.2 = true) : ∃ u v, q = (u, .error v) := by
  obtain ⟨u, e⟩ := q
  obtain ⟨v, rfl⟩ := error_of h
  exact ⟨u, v, rfl⟩

/-- A partition with a quota of regions. -/
def quota (n : Nat) : Partition := { Partition.reset with enabled := true, cores := 1, regions := n, streams := 2 }

theorem some_of {α : Type} {o : Option α} (h : o.isSome = true) : ∃ v, o = some v := Option.isSome_iff_exists.mp h

/-- The next state of an outcome. -/
def after (r : Host.Outcome State Fault Refusal) : Option State :=
  match r with
  | .next t => some t
  | _ => none



/-! ### The machine as a whole -/

theorem test_hyps_idle_step :
    (∃ s : State, s.pending = [] ∧ s.standby = true) ∧ (∃ s : State, s.pending = [] ∧ s.standby = false) :=
  ⟨⟨idle, by decide⟩, ⟨State.reset, by decide⟩⟩

theorem test_hyps_every_command_answers : (Instr.layerStep 5).wf = true ∧ (Instr.commandFetch none none).wf = true := by
  decide

theorem test_hyps_absent_units :
    (∃ core, 6 ≤ core) ∧ (∃ array lane : Nat, 96 ≤ array ∨ 128 ≤ lane) ∧ (∃ array lane : Nat, array < 96 ∧ 128 ≤ lane) ∧
    (∃ band, 12 ≤ band) ∧ (∃ bank, 64 ≤ bank) ∧ (∃ port, 16 ≤ port) ∧ (∃ n, 64 ≤ n) ∧ (∃ p, 7 ≤ p) :=
  ⟨⟨6, by decide⟩, ⟨96, 0, by decide⟩, ⟨95, 128, by decide⟩, ⟨12, by decide⟩, ⟨64, by decide⟩, ⟨16, by decide⟩,
    ⟨64, by decide⟩, ⟨7, by decide⟩⟩

theorem test_hyps_changes_only_components : ∃ (i : Instr) (s t : State), exec i s = .next t ∧ s ≠ t :=
  ⟨.smbusBlockRead 0, idle, _, rfl, by decide⟩

theorem test_hyps_reset : (1019 < 1020) ∧ (1020 ≤ 1020 ∧ 1020 < 1024) ∧ (1020 ≤ 1023 ∧ 1023 < 1024) := by decide

theorem test_hyps_well_kept : ∃ s t : State, s.Inv ∧ step s = .next t :=
  ⟨idle, _, by unfold State.Inv; decide, rfl⟩

theorem test_hyps_command_open : ∃ (s : State) (id : Nat), s.Open id :=
  ⟨holding idle (cmd 0x0103 0 (zeros 8)), 1, cmd 0x0103 0 (zeros 8), rfl, by decide⟩

theorem test_hyps_command_ends : ∃ (s : State) (id v n j : Nat), s.Open id ∧ n < 64 ∧ n.testBit 0 = false ∧ j ≠ id :=
  ⟨holding idle (cmd 0x0103 0 (zeros 8)), 1, 2 ^ 32, 62, 0, ⟨cmd 0x0103 0 (zeros 8), rfl, by decide⟩, by decide⟩

theorem test_hyps_notice : ∃ (s : State) (rid : Nat) (r : Run), s.run rid = some r :=
  ⟨idle.setRun 0 (Run.fresh 0 (.command 1) []), 0, _, rfl⟩

/-! ### Device memory and partitions -/

theorem test_hyps_memory_write :
    (∃ (s : State) (p a x : Nat) (b : Bytes), s.Inv ∧ s.mapped p a b.length = true ∧ b ≠ [] ∧
      ∀ i, i < b.length → s.phys p (a + i) ≠ some x) ∧
    (∃ (s : State) (p a : Nat) (b : Bytes), s.Inv ∧ s.mapped p a b.length = false) :=
  ⟨⟨mapped, 1, 2 ^ 30 - 1, 5 * 2 ^ 30, [7], by unfold State.Inv; decide, by decide, by decide, by decide⟩,
    ⟨mapped, 1, 2 ^ 30 - 1, [7, 8], by unfold State.Inv; decide, by decide⟩⟩

theorem test_hyps_partitions_apart : ∃ (s : State) (p q : Nat), s.Inv ∧ p ≠ q := ⟨mapped, 1, 2, by unfold State.Inv; decide, by decide⟩

/-- A byte written at the last address of a partition's region is read back there, and not by another partition. -/
theorem test_memory_write_last_byte :
    (mapped.write 1 (2 ^ 30 - 1) [7]).bind (·.read 1 (2 ^ 30 - 1) 1) = some [7] ∧
    (mapped.write 1 (2 ^ 30 - 1) [7]).bind (·.read 2 (2 ^ 30 - 1) 1) = some [0] := by decide

/-- R222: a write that runs past the partition's last region is refused whole. -/
theorem test_memory_write_past_map : mapped.write 1 (2 ^ 30 - 1) [7, 8] = none := by decide


/-! ### Regions -/

theorem find_range_map {β : Type} (g : Nat → β) {n r : Nat} (h : r < n) :
    Tab.find r ((List.range n).map fun k => (k, g k)) = some (g r) := by
  have key : ∀ l : List Nat, r ∈ l → Tab.find r (l.map fun k => (k, g k)) = some (g r) := by
    intro l hl
    induction l with
    | nil => cases hl
    | cons a t ih =>
      by_cases ha : a = r
      · simp [Tab.find, ha]
      · simp only [List.map_cons, Tab.find, if_neg ha]
        exact ih ((List.mem_cons.mp hl).resolve_left (Ne.symm ha))
  exact key _ (List.mem_range.mpr h)

/-- The first `n` regions belong to partition 2, and region `n` is as given. -/
def crowded (n : Nat) (last : RegionRec) : State :=
  { idle with regions := (List.range (n + 1)).map fun k =>
      (k, if k = n then last else { RegionRec.free with owner := 2, logical := k }) }

theorem crowded_region (n : Nat) (last : RegionRec) {r : Nat} (h : r < n + 1) :
    (crowded n last).region r = if r = n then last else { RegionRec.free with owner := 2, logical := r } :=
  congrArg (Option.getD · RegionRec.free) (find_range_map
    (fun k => if k = n then last else { RegionRec.free with owner := 2, logical := k }) h)

/-- What ALLOC_REGION has to choose from where only region 1019 may be free. -/
theorem alloc_of_last (s : State) (h : ∀ r, r < 1019 → (s.region r).owner ≠ 0) :
    s.allocFrom 1 =
      if (s.region 1019).owner ≠ 0 then none
      else if Tab.find 1019 s.scrubs = none ∧ ((s.region 1019).scrubPending = false ∨ (s.region 1019).lastOwner = 1)
        then some (.ready 1019)
      else if (Tab.find 1019 s.scrubs).any (fun w => match w with | .freed _ => true | _ => false) then some (.wait 1019)
      else if Tab.find 1019 s.scrubs = none then some (.scrub 1019) else none := by
  have hf : ((List.range 1020).filter fun r => (s.region r).owner == 0) =
      if (s.region 1019).owner = 0 then [1019] else [] := by
    rw [List.range_succ, List.filter_append, List.filter_eq_nil_iff.mpr fun r hr => by
      simpa using h r (List.mem_range.mp hr)]
    by_cases ho : (s.region 1019).owner = 0 <;> simp [ho]
  unfold State.allocFrom
  by_cases ho : (s.region 1019).owner = 0
  · simp only [hf, ho, ne_eq, not_true, if_true, if_false, List.find?]
    cases hs : Tab.find 1019 s.scrubs with
    | none => by_cases h1 : (s.region 1019).scrubPending <;> by_cases h2 : (s.region 1019).lastOwner = 1 <;>
        simp [h1, h2, show ((s.region 1019).lastOwner == 1) = decide ((s.region 1019).lastOwner = 1) from rfl]
    | some w => cases w <;> simp <;> rfl
  · simp only [hf, ho, ne_eq, not_false_eq_true, if_true, if_false, List.find?]
    rfl

theorem crowded_held (n : Nat) (last : RegionRec) (h : last.owner ≠ 1) : (crowded n last).held 1 = [] := by
  unfold State.held
  rw [List.filter_eq_nil_iff.mpr]
  · rfl
  · intro e he
    obtain ⟨k, -, rfl⟩ := List.mem_map.mp he
    by_cases hk : k = n <;> simp [hk, h]

/-- A device with a partition of a quota, its logical regions 0 and 2, and an ALLOC_REGION in flight. -/
def allocating (n want : Nat) : State :=
  { holding ((idle.setRegion 1 { RegionRec.free with owner := 1, logical := 0 }).setRegion 7
      { RegionRec.free with owner := 1, logical := 2 }) (cmd 0x0201 1 (leBytes 2 want ++ zeros 46)) with
    parts := [(1, quota n)] }

/-- A device whose only region that may be free is 1019, with an ALLOC_REGION in flight. -/
def lastRegion (n : Nat) (last : RegionRec) (scrubs : Table ScrubWhy) : State :=
  { holding (crowded n last) (cmd 0x0201 1 (leBytes 2 0xFFFF ++ zeros 46)) with
    parts := [(1, quota 1)], scrubs := scrubs }

theorem lastRegion_alloc (last : RegionRec) (scrubs : Table ScrubWhy) :
    (lastRegion 1019 last scrubs).allocFrom 1 =
      if last.owner ≠ 0 then none
      else if Tab.find 1019 scrubs = none ∧ (last.scrubPending = false ∨ last.lastOwner = 1) then some (.ready 1019)
      else if (Tab.find 1019 scrubs).any (fun w => match w with | .freed _ => true | _ => false) then some (.wait 1019)
      else if Tab.find 1019 scrubs = none then some (.scrub 1019) else none := by
  have at_ : ∀ n r, r < n + 1 → (lastRegion n last scrubs).region r =
      if r = n then last else { RegionRec.free with owner := 2, logical := r } := fun n r h => crowded_region n last h
  have hs : ∀ n, (lastRegion n last scrubs).scrubs = scrubs := fun n => rfl
  rw [alloc_of_last _ fun r h => by rw [at_ 1019 r (by omega), if_neg (by omega)]; simp, hs]
  simp [at_ 1019 1019]

theorem lastRegion_held (n : Nat) (last : RegionRec) (scrubs : Table ScrubWhy) (h : last.owner ≠ 1) :
    (lastRegion n last scrubs).held 1 = [] := crowded_held n last h

def allocOf (want : Nat) : Cmd := cmd 0x0201 1 (leBytes 2 want ++ zeros 46)

theorem lastRegion_starts (n : Nat) (last : RegionRec) (scrubs : Table ScrubWhy) :
    (lastRegion n last scrubs).Starts 1 0x0201 (allocOf 0xFFFF) := ⟨rfl, rfl, rfl, rfl, rfl, rfl, rfl⟩

theorem test_hyps_alloc_region :
    (∃ (s : State) (id : Nat) (c : Cmd) (l r : Nat), s.Starts id 0x0201 c ∧
      (leAt c.params 0 2 = l ∧ l ≤ 1019 ∧ l ∉ (s.held c.part).map (fun r => (s.region r).logical) ++ s.allocsWaiting c.part) ∧
      ((s.held c.part).map (fun r => (s.region r).logical) ++ s.allocsWaiting c.part).length < (s.part c.part).regions ∧
      s.allocFrom c.part = some (.ready r)) ∧
    (∃ (s : State) (id : Nat) (c : Cmd) (l r : Nat), s.Starts id 0x0201 c ∧
      (leAt c.params 0 2 = 0xFFFF ∧ l < 1020 ∧
        l ∉ (s.held c.part).map (fun r => (s.region r).logical) ++ s.allocsWaiting c.part ∧
        ∀ m, m < l → m ∈ (s.held c.part).map (fun r => (s.region r).logical) ++ s.allocsWaiting c.part) ∧
      ((s.held c.part).map (fun r => (s.region r).logical) ++ s.allocsWaiting c.part).length < (s.part c.part).regions ∧
      s.allocFrom c.part = some (.ready r)) ∧
    (∀ want ∈ [0, 1020, 1], ∃ (s : State) (id : Nat) (c : Cmd), s.Starts id 0x0201 c ∧ leAt c.params 0 2 = want ∧
      ((want ∈ (s.held c.part).map (fun r => (s.region r).logical) ++ s.allocsWaiting c.part ∧ want ≠ 0xFFFF) ∨
        (1019 < want ∧ want ≠ 0xFFFF) ∨ (s.part c.part).regions ≤
          ((s.held c.part).map (fun r => (s.region r).logical) ++ s.allocsWaiting c.part).length)) := by
  refine ⟨⟨allocating 3 1019, 1, allocOf 1019, 1019, 0, starts_of (by decide), by decide, by decide, by decide +kernel⟩,
    ⟨allocating 3 0xFFFF, 1, allocOf 0xFFFF, 1, 0, starts_of (by decide), by decide, by decide, by decide +kernel⟩, ?_⟩
  intro want hw
  exact ⟨allocating 2 want, 1, allocOf want, ⟨rfl, rfl, rfl, rfl, rfl, rfl, rfl⟩, by
    revert want; decide, by revert want; decide⟩

theorem test_hyps_alloc_region_waits :
    (∃ (s : State) (id : Nat) (c : Cmd) (r : Nat), s.Starts id 0x0201 c ∧ leAt c.params 0 2 = 0xFFFF ∧ s.held c.part = [] ∧
      s.allocsWaiting c.part = [] ∧ 0 < (s.part c.part).regions ∧ s.allocFrom c.part = some (.wait r)) ∧
    (∃ (s : State) (id : Nat) (c : Cmd) (r : Nat), s.Starts id 0x0201 c ∧ leAt c.params 0 2 = 0xFFFF ∧ s.held c.part = [] ∧
      s.allocsWaiting c.part = [] ∧ 0 < (s.part c.part).regions ∧ s.allocFrom c.part = some (.scrub r)) ∧
    (∃ (s : State) (id : Nat) (c : Cmd), s.Starts id 0x0201 c ∧ leAt c.params 0 2 = 0xFFFF ∧ s.held c.part = [] ∧
      s.allocsWaiting c.part = [] ∧ 0 < (s.part c.part).regions ∧ s.allocFrom c.part = none) :=
  ⟨⟨lastRegion 1019 { RegionRec.free with scrubPending := true, lastOwner := 2 } [(1019, .freed 0)], 1, allocOf 0xFFFF, 1019,
      lastRegion_starts _ _ _, by decide, lastRegion_held _ _ _ (by decide), rfl, by decide,
      (lastRegion_alloc _ _).trans (by decide)⟩,
    ⟨lastRegion 1019 { RegionRec.free with scrubPending := true, lastOwner := 2 } [], 1, allocOf 0xFFFF, 1019,
      lastRegion_starts _ _ _, by decide, lastRegion_held _ _ _ (by decide), rfl, by decide,
      (lastRegion_alloc _ _).trans (by decide)⟩,
    ⟨lastRegion 1019 { RegionRec.free with owner := 2 } [], 1, allocOf 0xFFFF,
      lastRegion_starts _ _ _, by decide, lastRegion_held _ _ _ (by decide), rfl, by decide,
      (lastRegion_alloc _ _).trans (by decide)⟩⟩


/-- Partition 1 holds logical region 0 (physical 5), with a stored tile list in it where asked. -/
def region0 (named : Bool) (c : Cmd) : State :=
  { holding mapped c with routes := if named then [(0, route { noImage with lists := [[64]] })] else [] }

theorem test_hyps_free_and_scrub :
    (∀ code ∈ [0x0202, 0x0203], ∃ (s : State) (id : Nat) (c : Cmd), s.Starts id code c ∧
      s.physRegion c.part (leAt c.params 0 2) = none) ∧
    (∀ code ∈ [0x0202, 0x0203], ∃ (s : State) (id : Nat) (c : Cmd), s.Starts id code c ∧
      s.namesRegion c.part (leAt c.params 0 2) = true) ∧
    (∀ code ∈ [0x0202, 0x0203], ∃ (s : State) (id : Nat) (c : Cmd) (r : Nat), s.Starts id code c ∧
      s.physRegion c.part (leAt c.params 0 2) = some r ∧ s.namesRegion c.part (leAt c.params 0 2) = false ∧
      Tab.find r s.scrubs = none) :=
  ⟨fun code _ => ⟨region0 false (cmd code 1 (leBytes 2 1 ++ zeros 46)), 1, _, ⟨rfl, rfl, rfl, rfl, rfl, rfl, rfl⟩, rfl⟩,
    fun code _ => ⟨region0 true (cmd code 1 (zeros 48)), 1, _, ⟨rfl, rfl, rfl, rfl, rfl, rfl, rfl⟩, rfl⟩,
    fun code _ => ⟨region0 false (cmd code 1 (zeros 48)), 1, _, 5, ⟨rfl, rfl, rfl, rfl, rfl, rfl, rfl⟩, rfl, rfl, rfl⟩⟩

theorem test_hyps_unmapping_and_scrub_end :
    (∃ (s : State) (r : Nat) (why : UnmapWhy), r < 1020 ∧ Tab.find r s.unmaps = some why ∧ Tab.find r s.scrubs = none) ∧
    (∃ (s : State) (r : Nat) (why : ScrubWhy), r < 1020 ∧ s.Inv ∧ Tab.find r s.scrubs = some why) :=
  ⟨⟨{ mapped with unmaps := [(1019, .teardown)] }, 1019, _, by decide, rfl, rfl⟩,
    ⟨{ mapped with scrubs := [(0, .freed 0)] }, 0, _, by decide, by unfold State.Inv; decide, rfl⟩⟩

/-- R223: a region whose unmapping ends while CONF has its scrub started. -/
theorem test_unmapping_complete_conf :
    Tab.find 5 (({ mapped with unmaps := [(5, .command 1)] }.setRegion 5 { RegionRec.free with owner := 1, conf := true }).unmapped
      5 (.command 1)).scrubs = some (.freed 0) := by decide

/-! ### Sessions, settings and functions -/

/-- OPEN_SESSION's parameters: ranges of command, parcel and descriptor versions (Table 14-5). -/
def offer (lo hi : Nat) : Bytes :=
  leBytes 1 lo ++ leBytes 1 hi ++ leBytes 1 0x10 ++ leBytes 1 0x11 ++ leBytes 1 0x10 ++ leBytes 1 0x11 ++ zeros 42

/-- A function 0 with sessions open and the next identifier as given. -/
def withSessions (n next : Nat) (c : Cmd) : State :=
  holding (idle.onFn 0 fun x => { x with
    sessions := (List.range n).map fun j => (j + 1, { command := 0x12, parcel := 0x11 }), nextSession := next }) c

theorem test_hyps_open_session :
    (∃ (s : State) (id : Nat) (c : Cmd) (v : Session), s.Starts id 0x0101 c ∧ chosenVersions c.params = some v ∧
      (s.fn c.fn).sessions.length < 16 ∧ (s.fn c.fn).nextSession ≤ 65535) ∧
    (∃ (s : State) (id : Nat) (c : Cmd), s.Starts id 0x0101 c ∧ chosenVersions c.params = none) ∧
    (∃ (s : State) (id : Nat) (c : Cmd) (v : Session), s.Starts id 0x0101 c ∧ chosenVersions c.params = some v ∧
      16 ≤ (s.fn c.fn).sessions.length) ∧
    (∃ (s : State) (id : Nat) (c : Cmd) (v : Session), s.Starts id 0x0101 c ∧ chosenVersions c.params = some v ∧
      65535 < (s.fn c.fn).nextSession) :=
  ⟨⟨withSessions 15 65535 (cmd 0x0101 0 (offer 0x10 0x23)), 1, _, _, ⟨rfl, rfl, rfl, rfl, rfl, rfl, rfl⟩, rfl, by decide, by decide⟩,
    ⟨withSessions 0 1 (cmd 0x0101 0 (offer 0x24 0xFF)), 1, _, ⟨rfl, rfl, rfl, rfl, rfl, rfl, rfl⟩, rfl⟩,
    ⟨withSessions 16 17 (cmd 0x0101 0 (offer 0x10 0x10)), 1, _, _, ⟨rfl, rfl, rfl, rfl, rfl, rfl, rfl⟩, rfl, by decide⟩,
    ⟨withSessions 0 65536 (cmd 0x0101 0 (offer 0x10 0x10)), 1, _, _, ⟨rfl, rfl, rfl, rfl, rfl, rfl, rfl⟩, rfl, by decide⟩⟩

/-- R298: of command versions 1.3 to 2.2 offered, 2.2 is chosen. -/
theorem test_highest_shared_version : bestVersion commandVersions 0x13 0x22 = some 0x22 := by decide

theorem test_hyps_close_and_query :
    (∃ (s : State) (id : Nat) (c : Cmd), s.Starts id 0x0102 c) ∧
    (∀ item ∈ [0, 2, 5, 7, 8, 9], ∃ (s : State) (id : Nat) (c : Cmd), s.Starts id 0x0103 c ∧ leAt c.params 2 2 = 0 ∧
      leAt c.params 0 2 = item) ∧
    (∀ arg ∈ [1, 6, 7], ∃ (s : State) (id : Nat) (c : Cmd), s.Starts id 0x0103 c ∧ leAt c.params 0 2 = 4 ∧
      leAt c.params 2 2 = arg) :=
  ⟨⟨withSessions 1 2 (cmd 0x0102 0 (zeros 48)), 1, _, ⟨rfl, rfl, rfl, rfl, rfl, rfl, rfl⟩⟩,
    fun item h => ⟨holding idle (cmd 0x0103 0 (leBytes 2 item ++ zeros 46)), 1, _, ⟨rfl, rfl, rfl, rfl, rfl, rfl, rfl⟩,
      by revert item; decide⟩,
    fun arg h => ⟨holding idle (cmd 0x0103 0 (leBytes 2 4 ++ leBytes 2 arg ++ zeros 44)), 1, _,
      ⟨rfl, rfl, rfl, rfl, rfl, rfl, rfl⟩, by revert arg; decide⟩⟩

/-- One configuration item entry (Table 15-3). -/
def item (n arg value : Nat) : Bytes := leBytes 2 n ++ leBytes 2 arg ++ leBytes 4 0 ++ leBytes 8 value

theorem test_hyps_stage_config :
    (∃ (s : State) (id : Nat) (c : Cmd), s.Starts id 0x0110 c ∧ (s.commit c.part).isSome = true) ∧
    (∃ (s : State) (id : Nat) (c : Cmd) (es : List ConfigItem), s.Starts id 0x0110 c ∧ s.commit c.part = none ∧
      stagedItems c = some es ∧ es ≠ [] ∧ ∀ e ∈ es, s.itemOk c.part e = true) ∧
    (∃ (s : State) (id : Nat) (c : Cmd) (es : List ConfigItem) (e : ConfigItem), s.Starts id 0x0110 c ∧
      s.commit c.part = none ∧ stagedItems c = some es ∧ es ≠ [] ∧ e ∈ es ∧ s.itemOk c.part e = false) ∧
    (∃ (p : Nat) (e : ConfigItem), p ≠ 0 ∧ e.item ≠ 0x0010 ∧ e.item ≠ 0x0011) ∧
    (∃ e : ConfigItem, e.item = 0x0010) ∧ (∃ e : ConfigItem, e.item = 0x0011) :=
  ⟨⟨{ holding idle (cmd 0x0110 0 (item 1 0 2)) with config := { idle.config with commit := some ⟨none, 0⟩ } }, 1, _,
      ⟨rfl, rfl, rfl, rfl, rfl, rfl, rfl⟩, rfl⟩,
    ⟨holding idle (cmd 0x0110 0 (item 1 0 2 ++ item 2 0 1100)), 1, _, _, ⟨rfl, rfl, rfl, rfl, rfl, rfl, rfl⟩, rfl, rfl,
      by decide, by decide⟩,
    ⟨holding idle (cmd 0x0110 0 (item 1 0 2 ++ item 1 0 4)), 1, _, _, ⟨1, 0, 0, 4⟩, ⟨rfl, rfl, rfl, rfl, rfl, rfl, rfl⟩, rfl,
      rfl, by decide, by decide, by decide⟩,
    ⟨6, ⟨1, 0, 0, 2⟩, by decide⟩, ⟨⟨0x10, 0, 0, 1⟩, rfl⟩, ⟨⟨0x11, 0, 0, 1⟩, rfl⟩⟩


theorem test_hyps_commit_config :
    (∃ (s : State) (id : Nat) (c : Cmd), s.Starts id 0x0111 c ∧ (s.commit c.part).isSome = true) ∧
    (∃ (s : State) (id : Nat) (c : Cmd), s.Starts id 0x0111 c ∧ s.commit c.part = none ∧
      bitOf (leAt c.params 0 1) 0 = true) ∧
    (∃ (s : State) (id : Nat) (c : Cmd) (t : State), s.Starts id 0x0111 c ∧ s.commit c.part = none ∧
      bitOf (leAt c.params 0 1) 0 = false ∧ (s.started id c).checkCommit c.part (s.shadow c.part) = (none, t)) ∧
    (∃ (s : State) (id : Nat) (c : Cmd) (st : Status) (t : State), s.Starts id 0x0111 c ∧ s.commit c.part = none ∧
      bitOf (leAt c.params 0 1) 0 = false ∧ (s.started id c).checkCommit c.part (s.shadow c.part) = (some st, t)) :=
  ⟨⟨{ holding idle (cmd 0x0111 6 (zeros 48)) with parts := [(6, { quota 1 with commit := some ⟨none, 0⟩ })] }, 1, _,
      ⟨rfl, rfl, rfl, rfl, rfl, rfl, rfl⟩, rfl⟩,
    ⟨holding idle (cmd 0x0111 0 (leBytes 1 1 ++ zeros 47)), 1, _, ⟨rfl, rfl, rfl, rfl, rfl, rfl, rfl⟩, rfl, rfl⟩,
    ⟨holding idle (cmd 0x0111 0 (zeros 48)), 1, _, _, ⟨rfl, rfl, rfl, rfl, rfl, rfl, rfl⟩, rfl, rfl, rfl⟩,
    ⟨{ holding idle (cmd 0x0111 1 (zeros 48)) with parts := [(1, { quota 1 with shadow := [⟨0x11, 0, 0, 0⟩] })] }, 1, _,
      .badParam, _, ⟨rfl, rfl, rfl, rfl, rfl, rfl, rfl⟩, rfl, rfl, rfl⟩⟩

/-- Partition 6 with a commit that waits since time 0 and a set. -/
def committing (set : List ConfigItem) (now : Nat) : State :=
  { idle with
    parts := [(6, { quota 1 with commit := some ⟨none, 0⟩, shadow := set })], time := { idle.time with ns := now } }

theorem test_hyps_commit_apply :
    (∃ s : State, s.working = true ∧ s.slotTime ≤ 100000 ∧ ∀ k, k < 6 → s.between k = true) ∧
    (∃ (s : State) (p : Nat), s.commit p = none) ∧
    (∃ (s : State) (p : Nat) (k : Commit) (t : State), s.commit p = some k ∧ s.now ≤ k.since + 50000000 ∧ 1 ≤ p ∧ p ≤ 6 ∧
      (s.setCommit p none).checkCommit p (s.shadow p) = (none, t)) ∧
    (∃ (s : State) (p : Nat) (k : Commit) (st : Status) (t : State), s.commit p = some k ∧ s.now ≤ k.since + 50000000 ∧
      (s.setCommit p none).checkCommit p (s.shadow p) = (some st, t)) ∧
    (∃ (s : State) (p : Nat) (k : Commit), s.commit p = some k ∧ k.since + 50000000 < s.now) ∧
    (∃ (s : State) (p : Nat) (k : Commit), p ≤ 7 ∧ s.commit p = some k ∧ k.since + 50000000 ≤ s.now) :=
  ⟨⟨committing [] 10100000, rfl, by decide, by decide⟩, ⟨committing [] 0, 7, rfl⟩,
    ⟨committing [⟨0x10, 0, 0, 1⟩] 50000000, 6, _, _, rfl, by decide, by decide, by decide, rfl⟩,
    ⟨committing [⟨0x11, 0, 0, 0⟩] 0, 6, _, .badParam, _, rfl, by decide, rfl⟩,
    ⟨committing [] 50000001, 6, _, rfl, by decide⟩,
    ⟨committing [] 50000000, 6, _, by decide, rfl, by decide⟩⟩

/-- ENABLE_FUNCTION's parameters: function, core mask, stream quota, region quota. -/
def enable (f cores streams regions : Nat) : Cmd :=
  cmd 0x0120 0 (leBytes 1 f ++ leBytes 1 cores ++ leBytes 2 streams ++ leBytes 2 regions ++ zeros 42)

/-- Partition 2 is enabled with core 0, and an ENABLE_FUNCTION is in flight. -/
def enabling (c : Cmd) : State := { holding idle c with parts := [(2, quota 4)] }

theorem test_hyps_enable_function :
    (∃ (s : State) (id : Nat) (c : Cmd), s.Starts id 0x0120 c ∧ 1 ≤ leAt c.params 0 1 ∧ leAt c.params 0 1 ≤ 6 ∧
      (s.part (leAt c.params 0 1)).enabled = false ∧ leAt c.params 1 1 ≠ 0 ∧
      (∀ e ∈ s.parts, e.2.enabled = true → e.2.cores &&& leAt c.params 1 1 = 0) ∧
      s.quotaGranted + leAt c.params 2 1 ≤ 64 ∧ leAt c.params 4 2 ≤ 1020) ∧
    (∀ c ∈ [enable 0 2 0 0, enable 7 2 0 0, enable 2 2 0 0, enable 1 0 0 0, enable 1 1 0 0, enable 1 2 63 0,
        enable 1 2 0 1021], ∃ (s : State) (id : Nat), s.Starts id 0x0120 c ∧
      (leAt c.params 0 1 = 0 ∨ 6 < leAt c.params 0 1 ∨ (s.part (leAt c.params 0 1)).enabled = true ∨
        leAt c.params 1 1 = 0 ∨ (∃ e ∈ s.parts, e.2.enabled = true ∧ e.2.cores &&& leAt c.params 1 1 ≠ 0) ∨
        64 < s.quotaGranted + leAt c.params 2 1 ∨ 1020 < leAt c.params 4 2)) :=
  ⟨⟨enabling (enable 6 0x3E 62 1020), 1, _, ⟨rfl, rfl, rfl, rfl, rfl, rfl, rfl⟩, by decide, by decide, by decide, by decide,
      by decide, by decide, by decide⟩,
    fun c h => ⟨enabling c, 1, by
      revert c; simp only [List.forall_mem_cons, List.not_mem_nil, false_imp_iff, implies_true, and_true]
      refine ⟨?_, ?_, ?_, ?_, ?_, ?_, ?_⟩ <;> exact starts_of (by decide), by revert c; decide⟩⟩

theorem test_hyps_disable_function :
    (∃ (s : State) (id : Nat) (c : Cmd), s.Starts id 0x0121 c ∧ 1 ≤ leAt c.params 0 1 ∧ leAt c.params 0 1 ≤ 6 ∧
      (s.part (leAt c.params 0 1)).enabled = true ∧ leAt c.params 1 1 ≤ 1) ∧
    (∀ v ∈ [0x0000, 0x0007, 0x0001, 0x0202], ∃ (s : State) (id : Nat) (c : Cmd), s.Starts id 0x0121 c ∧
      leAt c.params 0 2 = v ∧ (leAt c.params 0 1 = 0 ∨ 6 < leAt c.params 0 1 ∨
        (s.part (leAt c.params 0 1)).enabled = false ∨ 1 < leAt c.params 1 1)) :=
  ⟨⟨enabling (cmd 0x0121 0 (leBytes 1 2 ++ leBytes 1 1 ++ zeros 46)), 1, _, ⟨rfl, rfl, rfl, rfl, rfl, rfl, rfl⟩, by decide,
      by decide, by decide, by decide⟩,
    fun v h => ⟨enabling (cmd 0x0121 0 (leBytes 2 v ++ zeros 46)), 1, _, ⟨rfl, rfl, rfl, rfl, rfl, rfl, rfl⟩,
      by revert v; decide, by revert v; decide⟩⟩

/-- Partition 6 in a step of its teardown. -/
def tearing (step : Nat) : State :=
  { idle with
    parts := [(6, { quota 1 with teardown := some { abort := true, step := step, waiters := [], aborted := 0 } })] }

theorem test_hyps_teardown :
    (∃ (s : State) (p : Nat) (t : Teardown), 1 ≤ p ∧ p ≤ 6 ∧ (s.part p).teardown = some t ∧ t.step = 3) ∧
    (∃ k, k < 6) ∧
    (∃ (s : State) (p : Nat) (t : Teardown), 1 ≤ p ∧ p ≤ 6 ∧ (s.part p).teardown = some t ∧ t.step = 4 ∧
      s.held p = [] ∧ t.waiters = []) ∧
    (∃ (s : State) (p : Nat) (t : Teardown), 1 ≤ p ∧ p ≤ 6 ∧ (s.part p).teardown = some t ∧ t.step = 4 ∧
      s.held p = [] ∧ t.waiters ≠ [] ∧ ∀ e ∈ s.scrubs, e.2.torn ≠ p) :=
  ⟨⟨tearing 3, 6, _, by decide, by decide, rfl, rfl⟩, ⟨5, by decide⟩, ⟨tearing 4, 6, _, by decide, by decide, rfl, rfl, rfl, rfl⟩,
    ⟨{ tearing 4 with
        parts := [(6, { quota 1 with teardown := some { abort := true, step := 4, waiters := [1], aborted := 0 } })]
        scrubs := [(3, .freed 2)] }, 6, _, by decide, by decide, rfl, rfl, rfl, by decide, by decide⟩⟩

/-- A command packet's 64 bytes: opcode, version, flags, partition (Table 14-2). -/
def entry (op ver flags part target paramLen session : Nat) (params : Bytes) : Bytes :=
  leBytes 2 op ++ leBytes 1 ver ++ leBytes 1 flags ++ leBytes 4 7 ++ leBytes 1 part ++ leBytes 1 target ++
  leBytes 2 paramLen ++ leBytes 2 session ++ leBytes 2 0 ++ params ++ zeros (48 - params.length)

/-- Function 0's ring has an entry to read and a session of version 1.2; partition 1 is enabled. -/
def fetching (conf : Bool) : State :=
  { idle.onFn 0 fun x => { x with
      ring := { Ring.reset with enable := true, sqTail := 1 }, busMaster := true,
      sessions := [(1, { command := 0x12, parcel := 0x11 })], nextSession := 2 } with
    parts := [(1, { quota 4 with conf := conf })] }

theorem test_hyps_confidential_denied :
    (∃ (s : State) (b : Bytes) (o : Opcode), s.working = true ∧ s.health.bist = none ∧
      (rotation s.turn).find? s.fetchable = some 0 ∧ s.transport 0 (decodePacket b) = none ∧
      (decodePacket b).target = 0xFF ∧ findOpcode (decodePacket b).opcode = some o ∧ o.scope = .partition ∧
      s.isConf (decodePacket b).partition = true ∧ (decodePacket b).fence = false) ∧
    (∃ (s : State) (b : Bytes) (o : Opcode), s.working = true ∧ s.health.bist = none ∧
      (rotation s.turn).find? s.fetchable = some 0 ∧ s.transport 0 (decodePacket b) = none ∧
      (decodePacket b).target = 0xFF ∧ findOpcode (decodePacket b).opcode = some o ∧
      (o.scope = .config ∧ (decodePacket b).partition ≠ 0) ∧
      s.isConf (decodePacket b).partition = true ∧ (decodePacket b).fence = false) ∧
    (∃ (s : State) (b : Bytes), s.working = true ∧ s.transport 0 (decodePacket b) = none ∧
      (decodePacket b).target = s.cascade.device ∧ homeOnly (decodePacket b).opcode = false) ∧
    (∃ (s : State) (id : Nat) (c : Cmd) (o : Opcode), s.working = true ∧ s.cmd id = some c ∧ c.phase = .waiting ∧
      s.mayStart c = true ∧ s.toRelay c = false ∧ c.checked = false ∧ findOpcode c.packet.opcode = some o ∧ o.scope = .partition ∧
      s.isConf c.packet.partition = true ∧ c.fn = 0) :=
  ⟨⟨fetching true, entry 0x0201 0x12 0 1 0xFF 8 1 [], _, by decide, by decide, by decide, by decide, by decide, rfl,
      by decide, by decide, by decide⟩,
    ⟨fetching true, entry 0x0111 0x12 0 1 0xFF 8 1 [], _, by decide, by decide, by decide, by decide, by decide, rfl,
      by decide, by decide, by decide⟩,
    ⟨{ (fetching true).onFn 0 fun x => { x with sessions := [(1, { command := 0x20, parcel := 0x11 })] } with
        cascade := { idle.cascade with linkL0 := true, masterSel := true, members := 1, versions := 0x20 } },
      entry 0x0201 0x20 0 1 0 8 1 [], by decide, by decide, by decide, by decide⟩,
    ⟨holding (fetching true) { cmd 0x0201 1 (zeros 48) with checked := false, fn := 0 }, 1, _, _, by decide, rfl, by decide,
      by decide, by decide, by decide, rfl, by decide, by decide, by decide⟩⟩


/-! ### Routes and packing -/

/-- A step record of 128 bytes: KIND, core, letterbox and value. -/
def stepRec (kind core box value : Nat) : Bytes :=
  leBytes 1 kind ++ leBytes 1 core ++ leBytes 1 box ++ leBytes 1 0 ++ leBytes 4 value ++ zeros 120

/-- A route image of one ORDER step and, where asked, one handle of 16 lines in bank 0 of core 0 (Table 15-8). -/
def image (handle : Bool) : Bytes :=
  leBytes 4 0x7D1E0300 ++ leBytes 1 1 ++ leBytes 1 0 ++ leBytes 2 1 ++ leBytes 2 (bit handle) ++ zeros 6 ++
  leBytes 2 0xFFFF ++ leBytes 2 0xFFFF ++ leBytes 2 0xFFFF ++ zeros 2 ++ leBytes 4 64 ++ leBytes 4 192 ++ leBytes 4 192 ++
  leBytes 4 192 ++ leBytes 4 192 ++ zeros 20 ++ stepRec 6 0 0 0 ++
  (if handle then zeros 8 ++ leBytes 8 1 ++ leBytes 4 16 ++ leBytes 2 0x8000 ++ zeros 2 else [])

/-- Partition 1 with that image at its address 0, and a command in flight on it. -/
def withImage (handle : Bool) (c : Cmd) : State :=
  { holding ((mapped.write 1 0 (image handle)).getD idle) c with parts := [(1, quota 4)] }

/-- LOAD_ROUTE's and VERIFY_ROUTE's parameters: address and length. -/
def loads (code addr len : Nat) : Cmd := cmd code 1 (leBytes 8 addr ++ leBytes 4 len ++ zeros 36)

/-- A stream that the admission test cannot admit. -/
def hopeless : Stream := Stream.fresh 1 0 0 0 0 (decodeDesc (zeros 64))

/-- A LOAD_ROUTE in flight that the admission test will admit or refuse. -/
def admitting (ok : Bool) : State :=
  { withImage true (loads 0x0301 0 216) with
    routes := if ok then [] else [(0, route noImage)], streams := if ok then [] else [(0, hopeless)] }

/-- What the admission test answers a LOAD_ROUTE whose image passes its checks. -/
def admits (s : State) (c : Cmd) : Option Bool :=
  match (s.started 1 c).checkImage c true with
  | (w, .ok v) => some (w.testAdmission w.admission (v.1.image.cores v.1.good) []
      (routeBlocking (v.1.plan (bitOf (leAt c.params 12 1) 0) v.2.1) (floorPace w.admission))).1
  | _ => none

theorem test_hyps_load_route_checks :
    (∀ code ∈ [0x0301, 0x0302], ∃ (s : State) (id : Nat) (c : Cmd), s.Starts id code c ∧
      ∃ u e, (s.started id c).checkImage c (code == 0x0301) = (u, .error e)) ∧
    (∃ (s : State) (id : Nat) (c : Cmd), s.Starts id 0x0302 c ∧
      ∃ u v, (s.started id c).checkImage c false = (u, .ok v)) ∧
    (∀ ok, ∃ (s : State) (id : Nat) (c : Cmd), s.Starts id 0x0301 c ∧
      ∃ w v, (s.started id c).checkImage c true = (w, .ok v) ∧ ∃ t, w.testAdmission w.admission
        (v.1.image.cores v.1.good) [] (routeBlocking (v.1.plan (bitOf (leAt c.params 12 1) 0) v.2.1)
          (floorPace w.admission)) = (ok, t)) := by
  refine ⟨fun code h => ⟨withImage false (loads code 1 192), 1, loads code 1 192, starts_of (by revert code; decide +kernel),
      error_pair (by revert code; decide +kernel)⟩,
    ⟨withImage true (loads 0x0302 0 216), 1, loads 0x0302 0 216, starts_of (by decide +kernel), ?_⟩, fun ok =>
    ⟨admitting ok, 1,
      loads 0x0301 0 216, starts_of (by revert ok; decide +kernel), ?_⟩⟩
  · obtain ⟨u, v, hv, -⟩ := ok_pair (p := fun _ => true) (q := ((withImage true (loads 0x0302 0 216)).started 1
      (loads 0x0302 0 216)).checkImage (loads 0x0302 0 216) false) (by decide +kernel)
    exact ⟨u, v, hv⟩
  · have h : admits (admitting ok) (loads 0x0301 0 216) = some ok := by revert ok; decide +kernel
    unfold admits at h
    split at h
    · rename_i w v hv
      exact ⟨w, v, hv, _, Prod.ext (Option.some.inj h) rfl⟩
    · cases h


/-- A route of partition 1 whose image has the given step records. -/
def stepsRoute (steps : List Bytes) : Route := route { noImage with steps := steps }

/-- A device with route 0 as given and a command in flight on partition 1. -/
def withRoute (r : Route) (c : Cmd) : State := { holding idle c with routes := [(0, r)], parts := [(1, quota 4)] }

/-- RUN_ROUTE's parameters: route and P. -/
def runs (rid p : Nat) : Cmd := cmd 0x0303 1 (leBytes 2 rid ++ zeros 2 ++ leBytes 4 p ++ zeros 40)

/-- How a RUN_ROUTE of a route ends its checks: whether its patches hold, and then whether its steps run. -/
def runsOk (r : Route) (c : Cmd) : Option Bool :=
  (r.patched (runArgs c.params)).map fun recs => (r.runSteps (leAt c.params 4 4) recs).isSome

/-- A layer step on core 0 with no resident tensor and no lists, or, if not, with lists the image does not have; the
image patches its stream's offset. -/
def unrunnable (ok : Bool) : Route :=
  let two := leBytes 2 (if ok then 0xFFFF else 0)
  route { noImage with
    steps := [leBytes 1 1 ++ zeros 1 ++ leBytes 1 1 ++ zeros 13 ++ two ++ zeros 36 ++ two ++ two ++ zeros 70]
    patches := [⟨0, 64, 4, 1⟩] }

/-- A route with a layer step in buckets that no load would accept. -/
def tooBig : Route :=
  route { noImage with steps := [leBytes 1 1 ++ leBytes 1 0 ++ leBytes 1 0x41 ++ zeros 125] }

theorem test_hyps_run_route :
    (∃ (s : State) (id : Nat) (c : Cmd), s.Starts id 0x0303 c ∧ s.ownRoute c.part (leAt c.params 0 2) = none) ∧
    (∃ (s : State) (id : Nat) (c : Cmd) (r : Route), s.Starts id 0x0303 c ∧
      s.ownRoute c.part (leAt c.params 0 2) = some r ∧ r.stream.isSome = true) ∧
    (∃ (s : State) (id : Nat) (c : Cmd) (r : Route), s.Starts id 0x0303 c ∧
      s.ownRoute c.part (leAt c.params 0 2) = some r ∧ 2 ^ 24 ≤ leAt c.params 4 4) ∧
    (∃ (s : State) (id : Nat) (c : Cmd) (r : Route), s.Starts id 0x0303 c ∧
      s.ownRoute c.part (leAt c.params 0 2) = some r ∧ r.patched (runArgs c.params) = none) ∧
    (∀ ok, ∃ (s : State) (id : Nat) (c : Cmd) (r : Route), s.Starts id 0x0303 c ∧
      s.ownRoute c.part (leAt c.params 0 2) = some r ∧ r.stream = none ∧ leAt c.params 4 4 < 2 ^ 24 ∧
      runsOk r c = some ok ∧ ∃ t, (s.started id c).retile (leAt c.params 0 2) r (leAt c.params 4 4) = .ok t) ∧
    (∃ (s : State) (id : Nat) (c : Cmd) (r : Route), s.Starts id 0x0303 c ∧
      s.ownRoute c.part (leAt c.params 0 2) = some r ∧ r.stream = none ∧ leAt c.params 4 4 < 2 ^ 24 ∧
      (r.patched (runArgs c.params)).isSome = true ∧
      ∃ e, (s.started id c).retile (leAt c.params 0 2) r (leAt c.params 4 4) = .error e) := by
  refine ⟨⟨withRoute (stepsRoute []) (runs 1 0), 1, runs 1 0, starts_of (by decide), rfl⟩,
    ⟨withRoute { stepsRoute [] with stream := some 0 } (runs 0 0), 1, runs 0 0, { stepsRoute [] with stream := some 0 },
      starts_of (by decide), rfl, rfl⟩,
    ⟨withRoute (stepsRoute []) (runs 0 (2 ^ 24)), 1, runs 0 (2 ^ 24), stepsRoute [], starts_of (by decide), rfl, by decide⟩,
    ⟨withRoute (stepsRoute [zeros 128]) (runs 0 0), 1, runs 0 0, stepsRoute [zeros 128], starts_of (by decide +kernel), rfl,
      by decide +kernel⟩, fun ok => ?_, ?_⟩
  · obtain ⟨t, ht, -⟩ := ok_of (p := fun _ => true) (e := ((withRoute (unrunnable ok) (runs 0 (2 ^ 24 - 1))).started 1
      (runs 0 (2 ^ 24 - 1))).retile 0 (unrunnable ok) (leAt (runs 0 (2 ^ 24 - 1)).params 4 4)) (by revert ok; decide +kernel)
    exact ⟨withRoute (unrunnable ok) (runs 0 (2 ^ 24 - 1)), 1, runs 0 (2 ^ 24 - 1), unrunnable ok,
      starts_of (by clear ht; revert ok; decide +kernel), by clear ht; revert ok; decide +kernel, by clear ht; revert ok; decide +kernel,
      by decide, by clear ht; revert ok; decide +kernel, t, ht⟩
  · obtain ⟨e, he⟩ := error_of (e := ((withRoute tooBig (runs 0 5)).started 1 (runs 0 5)).retile 0 tooBig
      (leAt (runs 0 5).params 4 4)) (by decide +kernel)
    exact ⟨withRoute tooBig (runs 0 5), 1, runs 0 5, tooBig, starts_of (by decide +kernel), by decide +kernel, rfl, by decide,
      by decide +kernel, e, he⟩

theorem test_hyps_abort_route :
    (∃ (s : State) (id : Nat) (c : Cmd), s.Starts id 0x0304 c ∧ s.ownRoute c.part (leAt c.params 0 2) = none) ∧
    (∃ (s : State) (id : Nat) (c : Cmd) (r : Route), s.Starts id 0x0304 c ∧
      s.ownRoute c.part (leAt c.params 0 2) = some r ∧ r.stream.isSome = true) ∧
    (∀ b, ∃ (s : State) (id : Nat) (c : Cmd) (r : Route), s.Starts id 0x0304 c ∧
      s.ownRoute c.part (leAt c.params 0 2) = some r ∧ r.stream = none ∧ bitOf (leAt c.params 2 1) 0 = b) :=
  ⟨⟨withRoute (stepsRoute []) (cmd 0x0304 2 (zeros 48)), 1, _, ⟨rfl, rfl, rfl, rfl, rfl, rfl, rfl⟩, rfl⟩,
    ⟨withRoute { stepsRoute [] with stream := some 0 } (cmd 0x0304 1 (zeros 48)), 1, _, _, ⟨rfl, rfl, rfl, rfl, rfl, rfl, rfl⟩,
      rfl, rfl⟩,
    fun b => ⟨withRoute (stepsRoute []) (cmd 0x0304 1 (zeros 2 ++ leBytes 1 (bit b) ++ zeros 45)), 1, _, _,
      ⟨rfl, rfl, rfl, rfl, rfl, rfl, rfl⟩, rfl, rfl, by cases b <;> rfl⟩⟩

/-- One record of a PACK_TILES block: tensor 0 of one column, INT8, its list of master tiles and its output as given, the
addresses of its tiles at 256 (Table 15-10). -/
def packRec (rows : Nat) (sort : Bool) (master out : Nat) : Bytes :=
  zeros 2 ++ leBytes 1 0 ++ leBytes 1 2 ++ leBytes 1 8 ++ leBytes 1 (bit sort) ++ zeros 4 ++ leBytes 2 0xFFFF ++ leBytes 2 0xFFFF ++
  zeros 2 ++ leBytes 4 rows ++ leBytes 4 1 ++ leBytes 8 master ++ leBytes 8 out ++ leBytes 8 65536 ++ leBytes 8 256 ++ zeros 8

/-- A PACK_TILES block of that record: its SCALE tile at 128, its STATE area at 1 MiB. -/
def packBlock (rows : Nat) (sort : Bool) (master : Nat := 0) (out : Nat := 4096) : Bytes :=
  leBytes 2 1 ++ zeros 6 ++ leBytes 8 128 ++ leBytes 8 (2 ^ 20) ++ leBytes 8 4096 ++ zeros 32 ++ packRec rows sort master out

/-- A PACK_TILES command with its parameter block read. -/
def packs (byRef : Bool) (block : Bytes) : Cmd :=
  { cmd 0x0310 1 block with packet := { packet 0x0310 1 [] with byRef := byRef } }

/-- A SCALE table of one entry: scale 1.0 of tensor 0. -/
def scaleOne : Bytes := leBytes 4 0x3F800000 ++ leBytes 2 0 ++ zeros 10

/-- Partition 1 with that SCALE tile and its list of master tiles, 16 MiB on. -/
def packing (c : Cmd) : State :=
  { holding (((mapped.writeTile 1 128 { TileHdr.blank with format := Format.scale.code, element := 0x31 } scaleOne).bind
      (·.write 1 0 (leBytes 8 (2 ^ 24)))).getD idle) c with
    parts := [(1, quota 4)] }

/-- What a PACK_TILES block whose areas are mapped leads to: its masters cannot be read, or whether its areas keep apart. -/
def packAreas (s : State) (c : Cmd) : Option Bool :=
  match (s.started 1 c).allMasters c.part (decodePackBlock c.params).recs with
  | (_, .error _) => none
  | (_, .ok ms) => some ((decodePackBlock c.params).areasOk ms)

theorem test_hyps_pack_tiles :
    (∃ (s : State) (id : Nat) (c : Cmd), s.Starts id 0x0310 c ∧ s.runOf id = none ∧ c.packet.byRef = false) ∧
    (∃ (s : State) (id : Nat) (c : Cmd), s.Starts id 0x0310 c ∧ s.runOf id = none ∧
      (decodePackBlock c.params).ok = false) ∧
    (∃ (s : State) (id : Nat) (c : Cmd), s.Starts id 0x0310 c ∧ s.runOf id = none ∧ c.packet.byRef = true ∧
      (decodePackBlock c.params).ok = true ∧ (s.started id c).packMapped c.part (decodePackBlock c.params) = false) ∧
    (∀ out ∈ [none, some false, some true], ∃ (s : State) (id : Nat) (c : Cmd), s.Starts id 0x0310 c ∧ s.runOf id = none ∧
      c.packet.byRef = true ∧ (decodePackBlock c.params).ok = true ∧
      (s.started id c).packMapped c.part (decodePackBlock c.params) = true ∧ id = 1 ∧ packAreas s c = out) := by
  refine ⟨⟨packing (packs false []), 1, packs false [], starts_of (by decide +kernel), by decide +kernel, by decide⟩,
    ⟨packing (packs true (zeros 128)), 1, packs true (zeros 128), starts_of (by decide +kernel), by decide +kernel,
      by decide +kernel⟩,
    ⟨packing (packs true (packBlock 1 false 0 (2 ^ 30))), 1, packs true (packBlock 1 false 0 (2 ^ 30)),
      starts_of (by decide +kernel), by decide +kernel, by decide, by decide +kernel, by decide +kernel⟩, fun out h => ?_⟩
  let c : Cmd := packs true (packBlock 1 false (if out = none then 2 ^ 30 else 0)
    (if out = some false then 2 ^ 20 else 4096))
  exact ⟨packing c, 1, c, starts_of (by revert out; decide +kernel), by revert out; decide +kernel, by revert out; decide,
    by revert out; decide +kernel, by revert out; decide +kernel, rfl, by revert out; decide +kernel⟩

/-- A packing run of command 1 in its turn, with its passes so far. -/
def inTurn (c : Cmd) (k : Packing) : State :=
  { packing c with
    runs := [(0, Run.fresh noId (.command 1) [])], packing := [(1, k)], cores := [(0, { Core.reset with queue := [0] })],
    time := { idle.time with ns := 200000 } }

/-- Whether the scales of a block, and then the keys of its sorted tensors, are read. -/
def packsKeys (s : State) (b : PackBlock) : Bool :=
  match s.packScales 1 b with
  | (t, .ok scales) => okWith (t.packKeys 1 b scales).2 fun _ => true
  | _ => false

theorem test_hyps_pack_passes :
    (∀ sorted, ∃ (s : State) (id : Nat) (c : Cmd) (k : Packing) (rid : Nat) (scales : List Word), s.working = true ∧
      s.cmd id = some c ∧ Tab.find id s.packing = some k ∧ s.runOf id = some rid ∧
      s.packTurn rid (bitsOf 6 (s.part c.part).cores) = true ∧
      ∃ t, s.packScales c.part (decodePackBlock c.params) = (t, .ok scales) ∧
      ((∀ q ∈ (decodePackBlock c.params).recs.zipIdx, q.1.sort = true → (Tab.find q.2 k.orders).isSome = true) ↔
        sorted = false) ∧ k.keyed = false ∧
      ∃ u keys, t.packKeys c.part (decodePackBlock c.params) scales = (u, .ok keys)) ∧
    (∃ (s : State) (id : Nat) (c : Cmd) (k : Packing) (rid : Nat) (scales : List Word) (e : Nat × List (Nat × Nat)),
      s.working = true ∧ s.cmd id = some c ∧ Tab.find id s.packing = some k ∧ s.runOf id = some rid ∧
      s.packTurn rid (bitsOf 6 (s.part c.part).cores) = true ∧
      (∃ t, s.packScales c.part (decodePackBlock c.params) = (t, .ok scales)) ∧ k.keyed = true ∧
      (k.keys.find? fun e => (Tab.find e.1 k.orders).isNone) = some e) := by
  refine ⟨fun sorted => ?_, ?_⟩
  · have h : packsKeys (inTurn (packs true (packBlock 0 sorted)) ⟨false, [], []⟩) (decodePackBlock (packBlock 0 sorted)) = true := by
      revert sorted; decide +kernel
    unfold packsKeys at h
    split at h
    · rename_i t scales ht
      obtain ⟨u, keys, hk, -⟩ := ok_pair (p := fun _ => true) h
      exact ⟨inTurn (packs true (packBlock 0 sorted)) ⟨false, [], []⟩, 1, packs true (packBlock 0 sorted), ⟨false, [], []⟩, 0,
        scales, by clear h ht hk; revert sorted; decide +kernel, by clear h ht hk; revert sorted; decide +kernel,
        by clear h ht hk; revert sorted; decide +kernel, by clear h ht hk; revert sorted; decide +kernel,
        by clear h ht hk; revert sorted; decide +kernel, t, ht, by clear h ht hk; revert sorted; decide +kernel, by decide, u,
        keys, hk⟩
    · cases h
  · obtain ⟨t, scales, h, -⟩ := ok_pair (p := fun _ => true)
      (q := (inTurn (packs true (packBlock 1 true)) ⟨true, [(0, [(1, 0)])], []⟩).packScales 1 (decodePackBlock (packBlock 1 true)))
      (by decide +kernel)
    exact ⟨inTurn (packs true (packBlock 1 true)) ⟨true, [(0, [(1, 0)])], []⟩, 1, packs true (packBlock 1 true), _, 0, scales, _,
      by decide +kernel, by decide +kernel, rfl, by decide +kernel, by decide +kernel, ⟨t, h⟩, by decide, rfl⟩



/-! ### Streams -/

/-- A stream descriptor: port 0, letterbox 0, UDP port 1024, frames of 64 bytes, a period of 1 ms and a deadline of
0.5 ms (Table 16-3). -/
def desc (policy : Nat) : Bytes :=
  leBytes 1 0x10 ++ leBytes 1 0 ++ leBytes 1 0 ++ leBytes 1 policy ++ leBytes 2 1024 ++ zeros 12 ++ leBytes 2 64 ++ zeros 6 ++
  leBytes 2 1 ++ zeros 20 ++ leBytes 8 1000000 ++ leBytes 8 500000

/-- A letterbox of one slot of 64 bytes, for any one sender. -/
def boxShape : BoxShape := { handle := 0, offset := 0, length := 64, slotSize := 64, senders := [0xFFFF, 0xFFFF, 0xFFFF, 0xFFFF] }

/-- A route of one ORDER step on core 0 with letterbox 0. -/
def frameRoute : Route :=
  route { noImage with steps := [stepRec 6 0 0 0], boxes := [{ core := 0, number := 0, shape := boxShape }] }

/-- An established key session for streams. -/
def streamKey : KeySession := { purpose := 0, established := true, th := [], keys := List.replicate 6 [], since := 0, used := false }

/-- OPEN_STREAM: the descriptor at address 0, of a length, for route 0 under key session 5. -/
def opens (len : Nat) : Cmd := cmd 0x0401 1 (zeros 8 ++ leBytes 4 len ++ leBytes 2 0 ++ leBytes 2 5 ++ zeros 32)

/-- A device that can open a stream, with streams already open. -/
def opening (warn : Bool) (mine : List (Nat × Stream)) (c : Cmd) : State :=
  { holding ((mapped.write 1 0 (desc 1)).getD idle) c with
    parts := [(1, { quota 4 with keys := [(5, streamKey)] })], routes := [(0, frameRoute)], streams := mine,
    cores := [(0, { Core.reset with boxes := [(0, Letterbox.ofShape boxShape)] })],
    ports := [(0, { Port.reset with ethernet := true, up := true })],
    power := { mapped.power with warn := warn } }

/-- What the descriptor of an OPEN_STREAM gives: nothing readable, no route that serves, or the core. -/
def serves (s : State) (c : Cmd) : Option (Option Nat) :=
  match (s.started 1 c).readParams c.part (leAt c.params 0 8) 64 with
  | (w, .ok b) => some ((w.streamCore c.part b (leAt c.params 12 2) (leAt c.params 14 2)).map (·.2))
  | _ => none

/-- What the admission test answers an OPEN_STREAM. -/
def streamAdmits (s : State) (c : Cmd) : Option Bool :=
  match (s.started 1 c).readParams c.part (leAt c.params 0 8) 64 with
  | (w, .ok b) => (w.streamCore c.part b (leAt c.params 12 2) (leAt c.params 14 2)).map fun q =>
      (w.testAdmission w.admission [q.2]
        [{ t := (decodeDesc b).period, d := (decodeDesc b).deadline, c := w.streamCount q.1 q.2 }] (fun _ => 0)).1
  | _ => none

/-- Whether a further stream of the partition is within its quota and the device's contexts. -/
def streamRoom (s : State) (c : Cmd) : Option Bool :=
  match (s.started 1 c).readParams c.part (leAt c.params 0 8) 64 with
  | (w, .ok _) => some ((w.streams.filter fun e => e.2.partition == c.part).length < (w.part c.part).streams &&
      w.streams.length < 64 && (w.part c.part).perturb == [])
  | _ => none

theorem test_hyps_open_stream :
    (∃ (s : State) (id : Nat) (c : Cmd), s.Starts id 0x0401 c ∧ s.power.warn = true) ∧
    (∃ (s : State) (id : Nat) (c : Cmd), s.Starts id 0x0401 c ∧ s.power.warn = false ∧ leAt c.params 8 4 ≠ 64) ∧
    (∀ out ∈ [none, some none, some (some 0)], ∃ (s : State) (c : Cmd), s.Starts 1 0x0401 c ∧ s.power.warn = false ∧
      leAt c.params 8 4 = 64 ∧ serves s c = out) ∧
    (∃ (s : State) (c : Cmd), s.Starts 1 0x0401 c ∧ s.power.warn = false ∧ leAt c.params 8 4 = 64 ∧
      serves s c = some (some 0) ∧ streamRoom s c = some false) ∧
    (∀ ok, ∃ (s : State) (c : Cmd), s.Starts 1 0x0401 c ∧ s.power.warn = false ∧ leAt c.params 8 4 = 64 ∧
      serves s c = some (some 0) ∧ streamRoom s c = some true ∧ streamAdmits s c = some ok) := by
  refine ⟨⟨opening true [] (opens 64), 1, opens 64, starts_of (by decide +kernel), rfl⟩,
    ⟨opening false [] (opens 63), 1, opens 63, starts_of (by decide +kernel), rfl, by decide +kernel⟩, fun out h =>
    ⟨{ opening false [] (opens 64) with
        regions := if out = none then [] else (opening false [] (opens 64)).regions
        routes := if out = some none then [] else (opening false [] (opens 64)).routes },
      opens 64, starts_of (by revert out; decide +kernel), rfl, by decide +kernel, by revert out; decide +kernel⟩,
    ⟨opening false [(0, hopeless), (1, hopeless)] (opens 64), opens 64, starts_of (by decide +kernel), rfl, by decide +kernel,
      by decide +kernel, by decide +kernel⟩, fun ok =>
    ⟨opening false (if ok then [] else [(0, hopeless)]) (opens 64), opens 64, starts_of (by revert ok; decide +kernel), rfl,
      by decide +kernel, by revert ok; decide +kernel, by revert ok; decide +kernel, by revert ok; decide +kernel⟩⟩

/-- A stream of partition 1 on core 0, period 1 ms and deadline 0.5 ms. -/
def stream (policy : Nat) : Stream := Stream.fresh 1 0 0 5 0 (decodeDesc (desc policy))

/-- CLOSE_STREAM or QUERY_STREAM of a stream, its result at an address. -/
def closes (code part n out : Nat) : Cmd := cmd code part (leBytes 1 n ++ zeros 7 ++ leBytes 8 out ++ zeros 32)

theorem test_hyps_close_and_query_stream :
    (∃ (s : State) (id : Nat) (c : Cmd) (x : Stream), s.Starts id 0x0402 c ∧ s.ownStream c.part (leAt c.params 0 1) = some x) ∧
    (∃ (s : State) (id : Nat) (c : Cmd), s.Starts id 0x0402 c ∧ s.ownStream c.part (leAt c.params 0 1) = none) ∧
    (∃ (s : State) (id : Nat) (c : Cmd) (x : Stream), s.Starts id 0x0403 c ∧ leAt c.params 0 1 < 64 ∧
      resultAddr 0x0403 c.params % 64 = 0 ∧ s.stream (leAt c.params 0 1) = some x ∧ x.partition = c.part) ∧
    (∃ (s : State) (id : Nat) (c : Cmd), s.Starts id 0x0403 c ∧ leAt c.params 0 1 < 64 ∧
      resultAddr 0x0403 c.params % 64 = 0 ∧ s.stream (leAt c.params 0 1) = none) ∧
    (∃ (s : State) (id : Nat) (c : Cmd), s.Starts id 0x0403 c ∧ 64 ≤ leAt c.params 0 1) ∧
    (∃ (s : State) (id : Nat) (c : Cmd), s.Starts id 0x0403 c ∧ resultAddr 0x0403 c.params % 64 ≠ 0) ∧
    (∃ (s : State) (id : Nat) (c : Cmd) (x : Stream), s.Starts id 0x0403 c ∧ s.stream (leAt c.params 0 1) = some x ∧
      x.partition ≠ c.part) :=
  ⟨⟨opening false [(63, stream 1)] (closes 0x0402 1 63 0), 1, closes 0x0402 1 63 0, stream 1, starts_of (by decide +kernel),
      by decide +kernel⟩,
    ⟨opening false [(63, stream 1)] (closes 0x0402 2 63 0), 1, closes 0x0402 2 63 0, starts_of (by decide +kernel),
      by decide +kernel⟩,
    ⟨opening false [(63, stream 1)] (closes 0x0403 1 63 64), 1, closes 0x0403 1 63 64, stream 1, starts_of (by decide +kernel),
      by decide +kernel, by decide +kernel, by decide +kernel, by decide +kernel⟩,
    ⟨opening false [(63, stream 1)] (closes 0x0403 1 0 64), 1, closes 0x0403 1 0 64, starts_of (by decide +kernel),
      by decide +kernel, by decide +kernel, by decide +kernel⟩,
    ⟨opening false [] (closes 0x0403 1 64 0), 1, closes 0x0403 1 64 0, starts_of (by decide +kernel), by decide +kernel⟩,
    ⟨opening false [] (closes 0x0403 1 0 63), 1, closes 0x0403 1 0 63, starts_of (by decide +kernel), by decide +kernel⟩,
    ⟨opening false [(63, stream 1)] (closes 0x0403 2 63 0), 1, closes 0x0403 2 63 0, stream 1, starts_of (by decide +kernel),
      by decide +kernel, by decide +kernel⟩⟩

/-- A device at a time with one stream open and runs as given. -/
def playing (now : Nat) (x : Stream) (rs : List (Nat × Run)) : State :=
  { opening false [(63, x)] (closes 0x0402 1 63 0) with
    cmds := [], runs := rs, nextRun := rs.length, time := { idle.time with ns := now } }

theorem test_hyps_frame_release :
    (∀ early : Bool, ∃ (s : State) (n : Nat) (x : Stream) (a : Nat) (sub : Bool) (rest : List (Nat × Bool)) (r : Route),
      s.working = true ∧ n < 64 ∧ s.stream n = some x ∧ x.arrivals = (a, sub) :: rest ∧ s.route x.route = some r ∧
      x.closing = false ∧ (if early then s.now < max a (x.beat.getD 0) else max a (x.beat.getD 0) ≤ s.now)) ∧
    (∃ (s : State) (n : Nat) (x : Stream) (b : Nat), s.working = true ∧ n < 64 ∧ s.stream n = some x ∧ x.beat = some b ∧
      b < s.now ∧ x.arrivals = [] ∧ x.incoming = [] ∧ s.packetBy x b = false ∧ x.closing = false ∧ x.desc.policy ≠ 0) ∧
    (∃ (s : State) (n : Nat) (x : Stream), s.working = true ∧ n < 64 ∧ s.stream n = some x ∧ x.desc.policy = 0) ∧
    (∀ late : Bool, ∃ (s : State) (n : Nat) (x : Stream) (rid : Nat) (r : Run) (no rel d : Nat), s.working = true ∧ n < 64 ∧
      s.stream n = some x ∧ s.runs = [(rid, r)] ∧ r.serves = .frame n no rel d ∧ r.handed = false ∧
      (if late then d < s.now else s.now ≤ d)) :=
  ⟨fun early => ⟨playing (if early then 1000009 else 1000010) { stream 1 with arrivals := [(7, false)], lastRelease := some 10 } [],
      63, { stream 1 with arrivals := [(7, false)], lastRelease := some 10 }, 7, false, [], frameRoute,
      by revert early; decide +kernel, by decide, by revert early; decide +kernel, by revert early; decide +kernel,
      by revert early; decide +kernel, by revert early; decide +kernel, by revert early; decide +kernel⟩,
    ⟨playing 1000011 { stream 1 with lastRelease := some 10 } [], 63, { stream 1 with lastRelease := some 10 }, 1000010,
      by decide +kernel, by decide, by decide +kernel, by decide +kernel, by decide +kernel, by decide +kernel,
      by decide +kernel, by decide +kernel, by decide +kernel, by decide +kernel⟩,
    ⟨playing 0 (stream 0) [], 63, stream 0, by decide +kernel, by decide, by decide +kernel, by decide +kernel⟩,
    fun late => ⟨playing (if late then 501 else 500) (stream 1) [(0, Run.fresh 0 (.frame 63 1 0 500) [])], 63, stream 1, 0,
      Run.fresh 0 (.frame 63 1 0 500) [], 1, 0, 500, by revert late; decide +kernel, by decide, by revert late; decide +kernel,
      by revert late; decide +kernel, by decide +kernel, by decide +kernel, by revert late; decide +kernel⟩⟩

/-- Core 5 with a run of one step at the head of its queue. -/
def queued (now : Nat) (running : Running) (st : RouteStep) (started : Bool) : State :=
  { idle with
    runs := [(0, { Run.fresh 0 (.command 1) [st] with started := started })], routes := [(0, frameRoute)],
    cores := [(5, { Core.reset with queue := [0], running := running })], time := { idle.time with ns := now } }

/-- A vector step of one element on core 5. -/
def vectorStep (op : VecOp) : VectorStep :=
  { op := op, core := 5, exactLse := false, isInt := false, elements := 1, rows := 1, a := ⟨0, 7, 0⟩, b := ⟨0, 7, 0⟩,
    c := ⟨0, 7, 0⟩, r := ⟨0, 7, 0⟩, scalars := List.replicate 10 0, tail := zeros 8 }

theorem test_hyps_dispatch :
    (∃ (s : State) (k : Nat), s.working = true ∧ k < 6 ∧ (s.core k).running ≠ .idle) ∧
    (∃ (s : State) (k rid : Nat) (r : Run) (i : Nat) (st : RouteStep), s.working = true ∧ k < 6 ∧ (s.core k).running = .idle ∧
      s.candidate k = some (rid, r, i, st) ∧ st.counts = true ∧ s.slotTime < 200000) ∧
    (∃ (s : State) (k rid : Nat) (r : Run) (i : Nat) (st : RouteStep), s.working = true ∧ k < 6 ∧ (s.core k).running = .idle ∧
      s.candidate k = some (rid, r, i, st) ∧ r.started = true ∧ 200000 ≤ s.slotTime) ∧
    (∃ (s : State) (k rid : Nat) (r : Run) (i : Nat) (st : RouteStep), s.working = true ∧ k < 6 ∧ (s.core k).running = .idle ∧
      s.candidate k = some (rid, r, i, st) ∧ r.started = true ∧ st.counts = false) ∧
    (∃ (s : State) (k : Nat), s.working = true ∧ k < 6 ∧ s.candidate k = none) := by
  refine ⟨⟨queued 0 (.ready 0 0) (.order 5 0) true, 5, by decide +kernel, by decide, by decide +kernel⟩, ?_, ?_, ?_,
    ⟨idle, 0, by decide +kernel, by decide, by decide +kernel⟩⟩
  · exact ⟨queued 199999 .idle (.vector (vectorStep .add)) true, 5, 0,
      { Run.fresh 0 (.command 1) [.vector (vectorStep .add)] with started := true }, 0, .vector (vectorStep .add),
      by decide +kernel, by decide, by decide +kernel, by decide +kernel, by decide +kernel, by decide +kernel⟩
  · exact ⟨queued 200000 .idle (.vector (vectorStep .add)) true, 5, 0,
      { Run.fresh 0 (.command 1) [.vector (vectorStep .add)] with started := true }, 0, .vector (vectorStep .add),
      by decide +kernel, by decide, by decide +kernel, by decide +kernel, by decide +kernel, by decide +kernel⟩
  · exact ⟨queued 0 .idle (.order 5 0) true, 5, 0, { Run.fresh 0 (.command 1) [.order 5 0] with started := true }, 0,
      .order 5 0, by decide +kernel, by decide, by decide +kernel, by decide +kernel, by decide +kernel, by decide +kernel⟩


/-- Core 5 has dispatched a step, with letterbox 0 of one slot open, DELIVERY and CONSUMED as given. -/
def control (running : Running) (st : RouteStep) (delivery consumed : Nat) (done : List Nat) (leases : List Lease) : State :=
  { idle with
    runs := [(0, { Run.fresh 0 (.command 1) [st] with started := true, done := done })], routes := [(0, frameRoute)],
    cores := [(5, { Core.reset with
      running := running, queue := [0],
      boxes := [(0, { Letterbox.ofShape boxShape with state := .opened, delivery := delivery, consumed := consumed })] })],
    leases := leases }

theorem test_hyps_control_steps :
    (∀ st ∈ [RouteStep.openBox 5 0, .closeBox 5 0, .release 5 0 1], ∃ (s : State) (k rid i : Nat), s.working = true ∧ k < 6 ∧
      s.readyStep k = some (rid, i, st)) ∧
    (∀ r, ∃ (s : State) (k rid i : Nat), s.working = true ∧ k < 6 ∧ s.readyStep k = some (rid, i, .wait 5 0 7) ∧
      s.boxRevoked k 0 = none ∧ s.reached k 0 7 = r) ∧
    (∃ (s : State) (k rid i : Nat) (e : Status), s.working = true ∧ k < 6 ∧ s.readyStep k = some (rid, i, .wait 5 0 7) ∧
      s.boxRevoked k 0 = some e) ∧
    (∀ d ∈ [[], [3]], ∃ (s : State) (k rid i : Nat) (r : Run), s.working = true ∧ k < 6 ∧
      s.readyStep k = some (rid, i, .order 5 3) ∧ s.run rid = some r ∧ r.done = d) ∧
    (∃ (s : State) (k rid i : Nat) (r : Run), s.working = true ∧ k < 6 ∧ (s.core k).running = .stalled rid i ∧
      s.run rid = some r ∧ r.steps[i]? = some (.wait 5 0 7) ∧ s.reached k 0 7 = true) ∧
    (∃ x : Letterbox, x.shape.slotSize ≠ 0 ∧ x.consumed < 2 ^ 32 ∧ x.consumed ≤ x.delivery ∧ x.delivery < 2 ^ 32) :=
  ⟨fun st h => ⟨control (.ready 0 0) st 0 0 [] [], 5, 0, 0, by revert st; decide +kernel⟩,
    fun r => ⟨control (.ready 0 0) (.wait 5 0 7) (if r then 7 else 6) 0 [] [], 5, 0, 0, by revert r; decide +kernel⟩,
    ⟨control (.ready 0 0) (.wait 5 0 7) 6 0 [] [{ kind := 1, holder := 3, resource := 5 * 2 ^ 8, expiry := 0, revoked := true }],
      5, 0, 0, .leaseRevoked, by decide +kernel⟩,
    fun d h => ⟨control (.ready 0 0) (.order 5 3) 0 0 d [], 5, 0, 0,
      { Run.fresh 0 (.command 1) [.order 5 3] with started := true, done := d }, by revert d; decide +kernel⟩,
    ⟨control (.stalled 0 0) (.wait 5 0 7) 7 0 [] [], 5, 0, 0,
      { Run.fresh 0 (.command 1) [.wait 5 0 7] with started := true }, by decide +kernel⟩,
    ⟨{ Letterbox.ofShape boxShape with delivery := 2 ^ 32 - 1, consumed := 2 ^ 32 - 1 }, by decide +kernel⟩⟩

/-- R204: a WAIT compares modulo 2^32: the count 1 has been reached past the wrap from 2^32 − 1. -/
theorem test_wait_wraps : (control (.ready 0 0) (.wait 5 0 (2 ^ 32 - 1)) 1 0 [] []).reached 5 0 (2 ^ 32 - 1) = true := by
  decide +kernel

/-- R203: a RELEASE of 3 slots with 2 delivered frees 2. -/
theorem test_release_at_most_delivered :
    ({ Letterbox.ofShape boxShape with delivery := 2 }.release 3).consumed = 2 := by decide

/-! ### Security and test commands -/

/-- Partition 1 with key sessions, and a command in flight on it. -/
def secured (x : Partition) (c : Cmd) : State := { holding idle c with parts := [(1, x)] }

/-- ATTEST: the key session to bind and the result address. -/
def attests (key out : Nat) : Cmd := cmd 0x0601 1 (zeros 32 ++ leBytes 8 out ++ leBytes 2 key ++ zeros 6)

theorem test_hyps_attest :
    (∃ (s : State) (id : Nat) (c : Cmd) (th : Bytes), s.Starts id 0x0601 c ∧
      s.binding c.part (leAt c.params 40 2) = some th ∧ resultAddr 0x0601 c.params % 64 = 0) ∧
    (∃ (s : State) (id : Nat) (c : Cmd), s.Starts id 0x0601 c ∧ s.binding c.part (leAt c.params 40 2) = none) ∧
    (∃ (s : State) (id : Nat) (c : Cmd), s.Starts id 0x0601 c ∧ resultAddr 0x0601 c.params % 64 ≠ 0) :=
  ⟨⟨secured { quota 4 with keys := [(5, streamKey)] } (attests 5 64), 1, attests 5 64, [], starts_of (by decide +kernel),
      by decide +kernel⟩,
    ⟨secured (quota 4) (attests 5 64), 1, attests 5 64, starts_of (by decide +kernel), by decide +kernel⟩,
    ⟨secured (quota 4) (attests 0 63), 1, attests 0 63, starts_of (by decide +kernel), by decide +kernel⟩⟩

/-- SET_CONFIDENTIAL with its CONFIRM bit. -/
def confides (b : Bool) : Cmd := cmd 0x0603 1 (leBytes 1 (bit b) ++ zeros 47)

theorem test_hyps_set_confidential :
    (∃ (s : State) (id : Nat) (c : Cmd), s.Starts id 0x0603 c ∧ bitOf (leAt c.params 0 1) 0 = false) ∧
    (∃ (s : State) (id : Nat) (c : Cmd), s.Starts id 0x0603 c ∧ bitOf (leAt c.params 0 1) 0 = true ∧ s.held c.part ≠ []) ∧
    (∃ (s : State) (id : Nat) (c : Cmd), s.Starts id 0x0603 c ∧ bitOf (leAt c.params 0 1) 0 = true ∧
      ∃ e ∈ s.routes, e.2.partition = c.part) ∧
    (∃ (s : State) (id : Nat) (c : Cmd), s.Starts id 0x0603 c ∧ bitOf (leAt c.params 0 1) 0 = true ∧
      ∃ e ∈ s.streams, e.2.partition = c.part) ∧
    (∃ (s : State) (id : Nat) (c : Cmd), s.Starts id 0x0603 c ∧ bitOf (leAt c.params 0 1) 0 = true ∧ s.held c.part = [] ∧
      (∀ e ∈ s.routes, e.2.partition ≠ c.part) ∧ ∀ e ∈ s.streams, e.2.partition ≠ c.part) :=
  ⟨⟨secured (quota 4) (confides false), 1, confides false, starts_of (by decide +kernel), by decide +kernel⟩,
    ⟨{ secured (quota 4) (confides true) with regions := mapped.regions }, 1, confides true, starts_of (by decide +kernel),
      by decide +kernel⟩,
    ⟨{ secured (quota 4) (confides true) with routes := [(0, frameRoute)] }, 1, confides true, starts_of (by decide +kernel),
      by decide +kernel⟩,
    ⟨{ secured (quota 4) (confides true) with streams := [(0, stream 1)] }, 1, confides true, starts_of (by decide +kernel),
      by decide +kernel⟩,
    ⟨secured { quota 4 with keys := [(5, streamKey)] } (confides true), 1, confides true, starts_of (by decide +kernel),
      by decide +kernel⟩⟩

/-- OPEN_KEY_SESSION: the message's length, the purpose and the session confirmed (0: a HELLO). -/
def keyOpens (len purpose ref : Nat) : Cmd :=
  cmd 0x0602 1 (zeros 8 ++ leBytes 4 len ++ leBytes 1 purpose ++ zeros 1 ++ leBytes 2 ref ++ zeros 32)

/-- A key message: its kind, purpose, session and length, and the franking unit's verdicts. -/
def keyMsg (kind purpose session len : Nat) (sig keys mac : Bool) : KeyMessage :=
  { bytes := keyHeader kind purpose session ++ zeros (len - 8), sigOk := sig, keysOk := keys, macOk := mac }

theorem test_hyps_open_key_session_hello :
    ∀ v ∈ [(false, true), (true, false), (true, true)], ∃ (s : State) (id : Nat) (c : Cmd) (msg : KeyMessage), s.Starts id 0x0602 c ∧
      leAt c.params 0 8 % 64 = 0 ∧ resultAddr 0x0602 c.params % 64 = 0 ∧ leAt c.params 8 4 ≤ 8192 ∧ leAt c.params 14 2 = 0 ∧
      keyMessageOk (slice msg.bytes 0 (leAt c.params 8 4)) 1 (leAt c.params 12 1) 6613 = true ∧ leAt c.params 12 1 ≤ 2 ∧
      (s.part c.part).keys.length < 64 ∧ (leAt c.params 12 1 = 2 → (s.part c.part).conf = true) ∧
      msg.sigOk = v.1 ∧ (s.part c.part).conf = false ∧ msg.keysOk = v.2 :=
  fun v h => ⟨secured (quota 4) (keyOpens 6613 1 0), 1, keyOpens 6613 1 0, keyMsg 1 1 0 6613 v.1 v.2 false,
    starts_of (by clear h; decide +kernel), by revert v; decide +kernel⟩

theorem test_hyps_open_key_session_confirm :
    ∀ mac, ∃ (s : State) (id : Nat) (c : Cmd) (msg : KeyMessage) (k : KeySession), s.Starts id 0x0602 c ∧
      leAt c.params 0 8 % 64 = 0 ∧ resultAddr 0x0602 c.params % 64 = 0 ∧ leAt c.params 8 4 ≤ 8192 ∧ leAt c.params 14 2 ≠ 0 ∧
      Tab.find (leAt c.params 14 2) (s.part c.part).keys = some k ∧ k.established = false ∧
      keyMessageOk (slice msg.bytes 0 (leAt c.params 8 4)) 3 k.purpose 56 = true ∧
      leAt (slice msg.bytes 0 (leAt c.params 8 4)) 7 1 = leAt c.params 14 2 ∧ leAt c.params 12 1 = k.purpose ∧ msg.macOk = mac :=
  fun mac => ⟨secured { quota 4 with keys := [(5, { streamKey with established := false })] } (keyOpens 56 0 5), 1, keyOpens 56 0 5,
    keyMsg 3 0 5 56 false false mac, { streamKey with established := false }, starts_of (by decide +kernel),
    by revert mac; decide +kernel⟩

/-- Partition 6 with a key session at a time. -/
def keyed (k : KeySession) (now : Nat) : State :=
  { idle with parts := [(6, { quota 4 with keys := [(5, k)] })], time := { idle.time with ns := now } }

theorem test_hyps_key_timers :
    (∃ (s : State) (p n : Nat) (k : KeySession), 1 ≤ p ∧ p ≤ 6 ∧ Tab.find n (s.part p).keys = some k ∧ k.established = false ∧
      k.since + 10000000000 ≤ s.now) ∧
    (∃ (s : State) (p n : Nat) (k : KeySession), 1 ≤ p ∧ p ≤ 6 ∧ Tab.find n (s.part p).keys = some k ∧ k.established = true ∧
      k.used = false ∧ k.since + 60000000000 ≤ s.now) ∧
    (∃ (s : State) (tok : Token), s.security.token = some tok ∧ tok.expiry ≤ s.now) ∧
    (∃ (s : State) (tok : Token), s.security.token = some tok ∧ s.now < tok.expiry) ∧
    (∃ (s : State) (p : Nat), 1 ≤ p ∧ p ≤ 6 ∧ (s.part p).perturb ≠ [] ∧ (s.part p).perturbUntil ≤ s.now) ∧
    (∃ (s : State) (p : Nat), 1 ≤ p ∧ p ≤ 6 ∧ s.now < (s.part p).perturbUntil) :=
  ⟨⟨keyed { streamKey with established := false } 10000000000, 6, 5, { streamKey with established := false }, by decide +kernel⟩,
    ⟨keyed streamKey 60000000000, 6, 5, streamKey, by decide +kernel⟩,
    ⟨{ idle with security := { idle.security with token := some ⟨0, 2⟩ } }, ⟨0, 2⟩, by decide +kernel⟩,
    ⟨{ idle with security := { idle.security with token := some ⟨1, 2⟩ } }, ⟨1, 2⟩, by decide +kernel⟩,
    ⟨{ idle with parts := [(6, { quota 4 with perturb := [decodePerturb (leBytes 1 1 ++ zeros 15)] })] }, 6, by decide +kernel⟩,
    ⟨{ idle with parts := [(6, { quota 4 with perturbUntil := 1 })] }, 6, by decide +kernel⟩⟩

/-- RUN_BIST of the parts in a mask. -/
def bists (parts : Nat) : Cmd := cmd 0x0701 0 (leBytes 1 parts ++ zeros 47)

/-- A device in a phase of its test. -/
def testing (phase : BistPhase) (parts : Nat) : State :=
  { idle with health := { idle.health with bist := some { cmd := 1, parts := parts, phase := phase, vcore := 2 } } }

theorem test_hyps_run_bist :
    (∃ (s : State) (id : Nat) (c : Cmd), s.Starts id 0x0701 c ∧ s.health.bist.isSome = true) ∧
    (∃ (s : State) (id : Nat) (c : Cmd), s.Starts id 0x0701 c ∧ s.health.bist = none ∧ leAt c.params 0 1 = 0) ∧
    (∃ (s : State) (id : Nat) (c : Cmd), s.Starts id 0x0701 c ∧ s.health.bist = none ∧ s.inCascade = true) ∧
    (∃ (s : State) (id : Nat) (c : Cmd), s.Starts id 0x0701 c ∧ s.health.bist = none ∧ ∃ e ∈ s.parts, e.2.enabled = true) ∧
    (∃ (s : State) (id : Nat) (c : Cmd), s.Starts id 0x0701 c ∧ s.health.bist = none ∧ leAt c.params 0 1 ≠ 0 ∧ s.inCascade = false ∧
      (∀ e ∈ s.parts, e.2.enabled = false) ∧ s.power.change = none) ∧
    (∃ (s : State) (id : Nat) (c : Cmd) (v : VChange), s.Starts id 0x0701 c ∧ s.health.bist = none ∧ leAt c.params 0 1 ≠ 0 ∧ s.inCascade = false ∧
      (∀ e ∈ s.parts, e.2.enabled = false) ∧ s.power.change = some v) ∧
    (∀ good : Bool, ∃ (s : State) (b : Bist) (obs : List Nat), s.working = true ∧ s.power.change = none ∧ s.health.bist = some b ∧
      b.phase = .logic ∧ bitOf b.parts 7 = true ∧
      (if good then (s.observe (bitsOf 7 b.parts) 0 obs).health.mismatch = 0
       else (s.observe (bitsOf 7 b.parts) 0 obs).health.mismatch ≠ 0)) ∧
    (∀ good : Bool, ∃ (s : State) (b : Bist) (obs : List Nat), s.working = true ∧ s.power.change = none ∧ s.health.bist = some b ∧
      b.phase = .memory ∧
      (if good then (s.observe [7, 8, 9, 10, 11, 12, 13] 7 obs).health.mismatch = 0
       else (s.observe [7, 8, 9, 10, 11, 12, 13] 7 obs).health.mismatch ≠ 0)) :=
  ⟨⟨{ holding idle (bists 255) with health := (testing .logic 255).health }, 1, bists 255, starts_of (by decide +kernel),
      by decide +kernel⟩,
    ⟨holding idle (bists 0), 1, bists 0, starts_of (by decide +kernel), by decide +kernel⟩,
    ⟨{ holding idle (bists 255) with cascade := { idle.cascade with members := 3 } }, 1, bists 255, starts_of (by decide +kernel),
      by decide +kernel⟩,
    ⟨{ holding idle (bists 255) with parts := [(6, quota 1)] }, 1, bists 255, starts_of (by decide +kernel), by decide +kernel⟩,
    ⟨holding idle (bists 255), 1, bists 255, starts_of (by decide +kernel), by decide +kernel⟩,
    ⟨{ holding idle (bists 128) with power := { idle.power with change := some ⟨2, 1, true, false, []⟩ } }, 1, bists 128, ⟨2, 1, true, false, []⟩,
      starts_of (by decide +kernel), by decide +kernel⟩,
    fun good => ⟨testing .logic 0xFF, ⟨1, 0xFF, .logic, 2⟩, if good then [] else [0, 0, 0, 0, 0, 0, 1],
      by revert good; decide +kernel⟩,
    fun good => ⟨testing .memory 0x80, ⟨1, 0x80, .memory, 2⟩, if good then [] else [1], by revert good; decide +kernel⟩⟩

/-- SET_PERTURB inline with a parameter length, or by reference. -/
def perturbs (byRef : Bool) (len : Nat) (first : Nat := 0) : Cmd :=
  { cmd 0x0702 1 (leBytes 1 first ++ zeros 47) with packet := { packet 0x0702 1 [] with byRef := byRef, paramLen := len } }

/-- Partition 1 on core 0 with an unlock token of a partition mask, and an entry staged on core 0. -/
def perturbing (mask : Nat) (entry : Bytes) : State :=
  { secured (quota 4) (perturbs false 0) with
    security := { idle.security with token := some ⟨1, mask⟩ }, health := { idle.health with staged := [entry] } }

theorem test_hyps_perturbation :
    (∀ v ∈ [(true, 16, 0), (false, 0, 0), (false, 1, 0), (false, 0, 1)], ∃ (s : State) (id : Nat) (c : Cmd),
      s.Starts id 0x0702 c ∧ c.packet.byRef = v.1 ∧ c.packet.paramLen = v.2.1 ∧
      (if v.2.2 = 0 then ∀ x ∈ c.params, x = 0 else ∃ x ∈ c.params, x ≠ 0)) ∧
    (∃ (s : State) (k p : Nat), s.working = true ∧ k < 6 ∧ s.partitionOf k = some p ∧ s.goAllowed p = true ∧
      perturbClean (s.health.staged.getD k []) = true ∧ s.perturbOk p (decodePerturb (s.health.staged.getD k [])) = true ∧
      (decodePerturb (s.health.staged.getD k [])).unit = k) ∧
    (∃ (s : State) (k p : Nat), s.working = true ∧ k < 6 ∧ s.partitionOf k = some p ∧ s.goAllowed p = true ∧
      perturbClean (s.health.staged.getD k []) = false) ∧
    (∃ (s : State) (k p : Nat), s.working = true ∧ k < 6 ∧ s.partitionOf k = some p ∧ s.goAllowed p = true ∧
      s.perturbOk p (decodePerturb (s.health.staged.getD k [])) = false) ∧
    (∃ (s : State) (k : Nat), s.working = true ∧ k < 6 ∧ s.partitionOf k = none) ∧
    (∃ (s : State) (k p : Nat), s.working = true ∧ k < 6 ∧ s.partitionOf k = some p ∧ s.goAllowed p = false) :=
  ⟨fun v h => ⟨secured (quota 4) (perturbs v.1 v.2.1 v.2.2), 1, perturbs v.1 v.2.1 v.2.2, starts_of (by revert v; decide +kernel),
      by revert v; decide +kernel⟩,
    ⟨perturbing 2 (leBytes 1 2 ++ leBytes 1 0 ++ zeros 2 ++ leBytes 4 15 ++ zeros 8), 0, 1, by decide +kernel⟩,
    ⟨perturbing 2 (leBytes 1 16 ++ zeros 15), 0, 1, by decide +kernel⟩,
    ⟨perturbing 2 (leBytes 1 2 ++ leBytes 1 0 ++ zeros 2 ++ leBytes 4 16 ++ zeros 8), 0, 1, by decide +kernel⟩,
    ⟨perturbing 2 (zeros 16), 5, by decide +kernel⟩,
    ⟨perturbing 4 (zeros 16), 0, 1, by decide +kernel⟩⟩

/-- READ_COUNTERS: groups, result address, CLEAR. -/
def counts (part groups out : Nat) (clear : Bool) : Cmd :=
  cmd 0x0703 part (leBytes 8 groups ++ leBytes 8 out ++ leBytes 1 (bit clear) ++ zeros 31)

theorem test_hyps_read_counters :
    (∀ c ∈ [counts 0 (2 ^ 57) 0 false, counts 0 (2 ^ 63) 0 false, counts 0 1 63 false, counts 1 1 0 true],
      ∃ (s : State) (id : Nat), s.Starts id 0x0703 c ∧ (field (leAt c.params 0 8) 62 57 ≠ 0 ∨
        (bitOf (leAt c.params 0 8) 63 = true ∧ resultAddr 0x0703 c.params = 0) ∨ resultAddr 0x0703 c.params % 64 ≠ 0 ∨
        (bitOf (leAt c.params 16 1) 0 = true ∧ c.part ≠ 0))) ∧
    (∃ (s : State) (id : Nat) (c : Cmd), s.Starts id 0x0703 c ∧ field (leAt c.params 0 8) 62 57 = 0 ∧
      resultAddr 0x0703 c.params = 0 ∧ bitOf (leAt c.params 0 8) 63 = false ∧
      (bitOf (leAt c.params 16 1) 0 = true → c.part = 0)) ∧
    (∃ (s : State) (id : Nat) (c : Cmd), s.Starts id 0x0703 c ∧ field (leAt c.params 0 8) 62 57 = 0 ∧
      resultAddr 0x0703 c.params ≠ 0 ∧ resultAddr 0x0703 c.params % 64 = 0 ∧
      (bitOf (leAt c.params 16 1) 0 = true → c.part = 0)) ∧
    (∃ groups g i : Nat, i < 8 ∧ g < 52 ∧ bitOf groups g = true) ∧ (∃ groups g i : Nat, i < 8 ∧ 54 < g ∧ bitOf groups g = false) ∧
    (∃ g i : Nat, i < 8 ∧ 52 ≤ g ∧ g ≤ 54) :=
  ⟨fun c h => ⟨holding idle c, 1, starts_of (by
      revert c; simp only [List.forall_mem_cons, List.not_mem_nil, false_imp_iff, implies_true, and_true]; decide +kernel),
      by revert c; decide +kernel⟩,
    ⟨holding idle (counts 0 (2 ^ 57 - 1) 0 true), 1, counts 0 (2 ^ 57 - 1) 0 true, starts_of (by decide +kernel),
      by decide +kernel⟩,
    ⟨holding idle (counts 6 (2 ^ 63) 64 false), 1, counts 6 (2 ^ 63) 64 false, starts_of (by decide +kernel), by decide +kernel⟩,
    ⟨2 ^ 51, 51, 7, by decide⟩, ⟨0, 55, 7, by decide⟩, ⟨52, 7, by decide⟩⟩

/-- A device with memory scrubbed, every port up, and an image of an SVN running over an anti-rollback counter. -/
def readying (svn rollback : Nat) : State :=
  { idle with
    power := { idle.power with boot := .scrubbed, trainedAt := 0 }, time := { idle.time with ns := 800000000 }
    flash := { idle.flash with rollback := rollback, slotA := some ⟨[], 1, svn, List.replicate 14 0⟩ } }

theorem test_hyps_anti_rollback :
    (∃ (s : State) (x : FwImage), s.power.boot = .scrubbed ∧ s.health.halt = none ∧ s.portsSettled = true ∧
      s.flash.running = some x ∧ s.flash.rollback < x.svn) ∧
    (∃ (f : Flash) (x : FwImage), x.svn < f.rollback) ∧ (∃ (v : FwVerdict) (n : Nat), v.svn < n) :=
  ⟨⟨readying 4 3, ⟨[], 1, 4, List.replicate 14 0⟩, by decide +kernel⟩,
    ⟨{ Flash.factory with rollback := 1 }, ⟨[], 1, 0, []⟩, by decide⟩,
    ⟨{ format := 0, signerOk := true, signatureOk := true, version := 1, svn := 0, signatures := [] }, 1, by decide⟩⟩


/-! ### Rings, fetching and completion -/

/-- Function 6's ring of 16 entries, enabled, with indices, and its function's Bus Master Enable. -/
def ringed (x : Ring) (bme : Bool) : State := idle.onFn 6 fun f => { f with ring := x, busMaster := bme }

theorem test_hyps_doorbells :
    (∀ v ∈ [15, 16], ∃ (s : State) (caller r : Nat), caller ≤ 6 ∧ r ≤ 6 ∧ s.bar0 = true ∧ ringView caller r = true ∧
      (if v = 15 then v % 2 ^ 16 < 2 ^ (s.ring r).sqLog else 2 ^ (s.ring r).sqLog ≤ v % 2 ^ 16)) ∧
    (∃ (s : State) (caller r v : Nat), caller ≤ 6 ∧ r ≤ 6 ∧ s.bar0 = true ∧ ringView caller r = true ∧
      v % 2 ^ 16 < 2 ^ (s.ring r).cqLog ∧ ringUsed (2 ^ (s.ring r).cqLog) (v % 2 ^ 16) (s.ring r).cqHead ≤
        ringUsed (2 ^ (s.ring r).cqLog) (s.ring r).cqTail (s.ring r).cqHead) ∧
    (∃ (s : State) (caller r v : Nat), caller ≤ 6 ∧ r ≤ 6 ∧ s.bar0 = true ∧ ringView caller r = true ∧
      2 ^ (s.ring r).cqLog ≤ v % 2 ^ 16) ∧
    (∃ (s : State) (caller r v : Nat), caller ≤ 6 ∧ r ≤ 6 ∧ s.bar0 = true ∧ ringView caller r = true ∧
      ringUsed (2 ^ (s.ring r).cqLog) (s.ring r).cqTail (s.ring r).cqHead <
        ringUsed (2 ^ (s.ring r).cqLog) (v % 2 ^ 16) (s.ring r).cqHead) :=
  ⟨fun v h => ⟨ringed { Ring.reset with enable := true } true, 0, 6, by revert v; decide +kernel⟩,
    ⟨ringed { Ring.reset with enable := true, cqTail := 1, cqHead := 15 } true, 6, 6, 1, by decide +kernel⟩,
    ⟨ringed { Ring.reset with enable := true } true, 6, 6, 16, by decide +kernel⟩,
    ⟨ringed { Ring.reset with enable := true, cqTail := 1, cqHead := 15 } true, 6, 6, 2, by decide +kernel⟩⟩

theorem test_hyps_ring_control :
    (∃ (s : State) (caller r v : Nat), caller ≤ 6 ∧ r ≤ 6 ∧ s.bar0 = true ∧ ringView caller r = true ∧ bitOf v 0 = true ∧
      (s.ring r).enable = false) ∧
    (∃ (s : State) (caller r v : Nat), caller ≤ 6 ∧ r ≤ 6 ∧ s.bar0 = true ∧ ringView caller r = true ∧ bitOf v 0 = false ∧
      (s.ring r).enable = true) ∧
    (∃ (s : State) (caller r : Nat), caller ≤ 6 ∧ r ≤ 6 ∧ s.bar0 = true ∧ ringView caller r = false) :=
  ⟨⟨idle, 6, 6, 1, by decide +kernel⟩, ⟨ringed { Ring.reset with enable := true } true, 0, 6, 2, by decide +kernel⟩,
    ⟨idle, 1, 0, by decide +kernel⟩⟩

theorem test_hyps_command_fetch :
    (∃ (s : State) (f : Nat), s.working = true ∧ s.health.bist = none ∧ (rotation s.turn).find? s.fetchable = some f) ∧
    (∃ s : State, s.working = true ∧ s.health.bist = none ∧ ∀ f, f < 7 → s.fetchable f = false) ∧
    (∃ (s : State) (f : Nat), (s.ring f).enable = false) ∧ (∃ (s : State) (f : Nat), (s.fn f).busMaster = false) ∧
    (∃ (s : State) (f : Nat), 256 ≤ s.inFlight f) ∧ (∃ (s : State) (f : Nat), (s.ring f).sqHead = (s.ring f).sqTail) ∧
    (∃ (s : State) (f : Nat), 2 ^ (s.ring f).cqLog ≤
      ringUsed (2 ^ (s.ring f).cqLog) (s.ring f).cqTail (s.ring f).cqHead + s.inFlight f + 1) :=
  ⟨⟨fetching false, 0, by decide +kernel⟩, ⟨idle, by decide +kernel⟩, ⟨idle, 6, by decide +kernel⟩, ⟨idle, 6, by decide +kernel⟩,
    ⟨{ idle with cmds := (List.range 256).map fun n => (n, cmd 0x0103 0 []) }, 0, by decide +kernel⟩,
    ⟨ringed { Ring.reset with enable := true } true, 6, by decide +kernel⟩,
    ⟨ringed { Ring.reset with enable := true, cqTail := 15 } true, 6, by decide +kernel⟩⟩

theorem test_hyps_transport_checks :
    (∃ (s : State) (f : Nat), s.serves f = false) ∧
    (∃ (s : State) (f : Nat) (k : Packet), s.serves f = true ∧ commandVersions.contains k.version = false) ∧
    (∃ (s : State) (f : Nat) (k : Packet), s.serves f = true ∧ commandVersions.contains k.version = true ∧ k.target = 0xFF ∧
      sessionless k.opcode = false ∧ Tab.find k.session (s.fn f).sessions = none) ∧
    (∃ (s : State) (f : Nat) (k : Packet) (x : Session), s.serves f = true ∧ commandVersions.contains k.version = true ∧
      k.target = 0xFF ∧ Tab.find k.session (s.fn f).sessions = some x ∧ sessionless k.opcode = false ∧ x.command ≠ k.version) ∧
    (∃ (s : State) (f : Nat) (k : Packet), s.transport f k = none ∧ f = 0) ∧
    (∃ (s : State) (f : Nat) (k : Packet), s.transport f k = none ∧ f ≠ 0) :=
  ⟨⟨idle, 6, by decide +kernel⟩, ⟨fetching false, 0, { packet 0x0103 0 [] with version := 0x13 + 1 }, by decide +kernel⟩,
    ⟨fetching false, 0, { packet 0x0302 0 [] with session := 0 }, by decide +kernel⟩,
    ⟨fetching false, 0, { packet 0x0302 0 [] with version := 0x10 }, ⟨0x12, 0x11⟩, by decide +kernel⟩,
    ⟨fetching false, 0, packet 0x0103 6 [], by decide +kernel⟩,
    ⟨{ fetching false with fns := [(1, { FnState.reset with sessions := [(1, ⟨0x12, 0x11⟩)] })] }, 1, packet 0x0103 1 [],
      by decide +kernel⟩⟩

/-- Table 14-4: an unknown session is found before a version the opcode does not have. -/
theorem test_session_before_opcode :
    (fetching false).transport 0 { packet 0x0602 1 [] with session := 9, version := 0x10 } = some .noSession := by decide +kernel

/-- A command that has ended, its function's Bus Master Enable as given. -/
def ended (bme noIrq : Bool) (relay : Option (Nat × Nat)) (result : Option (Nat × Bytes)) : Cmd × State :=
  let c := { cmd 0x0103 6 [] with
    phase := .ended, relay := relay, result := result, packet := { packet 0x0103 6 [] with noIrq := noIrq } }
  (c, { holding idle c with fns := [(6, { FnState.reset with busMaster := bme })] })

theorem test_hyps_command_completion :
    ∀ v ∈ [(false, true, none), (true, true, none), (true, false, none), (true, true, some (3, 9))],
      ∃ (s : State) (id : Nat) (c : Cmd), s.Inv ∧ s.cmd id = some c ∧ c.phase = .ended ∧
        (∀ e ∈ s.cmds, e.2.sameRing c.fn c.relay = true → e.2.phase = .ended → c.ended ≤ e.2.ended) ∧
        c.relay = v.2.2 ∧ (s.fn c.fn).busMaster = v.1 ∧ c.result = none ∧ c.packet.noIrq = v.2.1 :=
  fun v h => ⟨(ended v.1 v.2.1 v.2.2 none).2, 1, (ended v.1 v.2.1 v.2.2 none).1, by unfold State.Inv; revert v; decide +kernel,
    by revert v; decide +kernel⟩

/-- Function 6 with a window of vector 59 that ends at 100. -/
def windowed (now : Nat) : State :=
  { idle with fns := [(6, { FnState.reset with windows := [(59, (1, 100))] })], time := { idle.time with ns := now } }

theorem test_hyps_windows_and_messages :
    (∀ late : Bool, ∃ (s : State) (f v n t : Nat), f ≤ 6 ∧ v ≤ 59 ∧ Tab.find v (s.fn f).windows = some (n, t) ∧
      (if late then t ≤ s.now else s.now < t)) ∧
    (∃ (s : State) (f v : Nat), bitOf (s.fn f).msix.mask v = false ∧ (s.fn f).busMaster = true) ∧
    (∃ (s : State) (f v : Nat), bitOf (s.fn f).msix.mask v = true) ∧ (∃ (s : State) (f : Nat), (s.fn f).busMaster = false) :=
  ⟨fun late => ⟨windowed (if late then 100 else 99), 6, 59, 1, 100, by revert late; decide +kernel⟩,
    ⟨idle.setFn 6 { FnState.reset with busMaster := true, msix := { FnState.reset.msix with mask := 0 } }, 6, 63, by decide +kernel⟩,
    ⟨idle, 6, 63, by decide +kernel⟩, ⟨idle, 6, by decide +kernel⟩⟩

/-! ### Registers and apertures -/

theorem test_hyps_register_accesses :
    (∃ (s : State) (f : Nat), f ≤ 6 ∧ s.bar0 = true ∧ f ≠ 0) ∧ (∃ (s : State) (f : Nat), f = 0 ∧ s.bar0 = true) ∧
    (∃ size o : Nat, o < 65536 ∧ size ≠ 4 ∧ size ≠ 8) ∧ (∃ size o : Nat, o < 65536 ∧ (size = 4 ∨ size = 8) ∧ o % size ≠ 0) ∧
    (∃ size : Nat, size = 4) ∧ (∃ size : Nat, size = 8) :=
  ⟨⟨idle, 6, by decide +kernel⟩, ⟨idle, 0, by decide +kernel⟩, ⟨2, 65535, by decide⟩, ⟨8, 65532, by decide⟩, ⟨4, rfl⟩, ⟨8, rfl⟩⟩

/-- Region 5 in partition 1, whose function's aperture starts at 0. -/
def aperture (conf : Bool) (halt : Option Halt) : State :=
  { mapped with
    parts := [(1, { quota 1 with conf := conf })], health := { mapped.health with halt := halt } }

theorem test_hyps_aperture :
    (∃ (s : State) (f off : Nat) (b : Bytes), f ≤ 6 ∧ s.bar0 = true ∧ off + b.length ≤ 2 ^ 28 ∧ f ≠ 0 ∧ s.isConf f = true) ∧
    (∃ (s : State) (f off : Nat) (b : Bytes), f ≤ 6 ∧ s.bar0 = true ∧ off + b.length ≤ 2 ^ 28 ∧ s.health.halt.isSome = true) ∧
    (∃ (s : State) (f off : Nat) (b : Bytes) (pa : Nat) (en : List Bool) (r : LinkResponse), f ≤ 6 ∧ s.bar0 = true ∧
      off + b.length ≤ 2 ^ 28 ∧ s.health.halt.isSome = false ∧ 1 ≤ b.length ∧ ((s.ring f).apBase + off) % 64 + b.length ≤ 64 ∧
      s.bar2Phys f ((s.ring f).apBase + off) = some pa ∧ r.firstFails = false ∧ en.length = b.length) ∧
    (∃ (s : State) (f off : Nat) (b : Bytes), f ≤ 6 ∧ s.bar0 = true ∧ off + b.length ≤ 2 ^ 28 ∧ s.health.halt.isSome = false ∧
      1 ≤ b.length ∧ ((s.ring f).apBase + off) % 64 + b.length ≤ 64 ∧ s.bar2Phys f ((s.ring f).apBase + off) = none) ∧
    (∃ (m : ByteStore) (i : Nat) (q : List (Byte × Bool)), Tab.wf 0 m = true ∧ q[i]? = some (7, true)) ∧
    (∃ (m : ByteStore) (i : Nat) (q : List (Byte × Bool)), Tab.wf 0 m = true ∧ q[i]? = some (7, false)) :=
  ⟨⟨aperture true none, 1, 2 ^ 28 - 1, [7], by decide +kernel⟩,
    ⟨aperture false (some (faultOf 1 0)), 1, 2 ^ 28 - 1, [7], by decide +kernel⟩,
    ⟨aperture false none, 1, 2 ^ 28 - 1, [7], 5 * 2 ^ 30 + 2 ^ 28 - 1, [true], ⟨false, false, []⟩, by decide +kernel⟩,
    ⟨aperture false none, 0, 2 ^ 28 - 64, zeros 64, by decide +kernel⟩,
    ⟨[], 0, [(7, true)], by decide⟩, ⟨[], 0, [(7, false)], by decide⟩⟩

/-- R424, R447: a halted device answers a BAR2 read with zeros. -/
theorem test_halted_aperture_reads_zero :
    (after (exec (.bar2Read 1 0 2 ⟨false, false, []⟩) (aperture false (some (faultOf 1 0))))).map (·.outbox) =
      some [.readData 1 [0, 0]] := by decide +kernel

theorem test_hyps_chr_time : ∃ (s : State) (f g size : Nat), f ≤ 6 ∧ s.bar0 = true ∧ size = 4 ∧ g ≠ f :=
  ⟨idle, 6, 0, 4, by decide +kernel⟩

/-! ### Management -/

/-- A device with one management action waiting and a firmware status. -/
def acting (a : MgtAction) (st len : Nat) (chunks : Table Bytes) : State :=
  { idle with mgt := { idle.mgt with actions := [a], fwStatus := st, fwLen := len, fwChunks := chunks } }

theorem test_hyps_management_actions :
    (∃ s : State, s.mgt.actions = [.warm]) ∧ (∃ s : State, s.mgt.actions = [.cold]) ∧
    (∃ s : State, s.mgt.actions = [.fwStart] ∧ s.mgt.fwStatus ≠ 2 ∧ s.mgt.fwStatus ≠ 3) ∧
    (∀ b, ∃ s : State, s.mgt.actions = [.fwCommit] ∧ s.mgt.fwStatus ≠ 2 ∧ s.mgt.fwStatus ≠ 3 ∧ s.mgt.complete = b) ∧
    (∃ s : State, s.mgt.actions = [.fwAbort] ∧ s.mgt.fwStatus ≠ 3) ∧
    (∀ w ∈ [390, 1110, 401], ∃ s : State, s.mgt.actions = [.cap w] ∧ s.health.halt = none ∧
      (w < 400 ∨ 1100 < w ∨ w % 10 ≠ 0)) ∧
    (∀ w ∈ [400, 1100], ∃ s t : State, s.mgt.actions = [.cap w] ∧ s.health.halt = none ∧ 400 ≤ w ∧ w ≤ 1100 ∧ w % 10 = 0 ∧
      { s with mgt := { s.mgt with actions := [], capW := w } }.checkCommit 7 [{ item := 2, arg := 0, index := 0, value := w }] =
        (none, t)) ∧
    (∃ (s : State) (ws : List (Nat × Nat)) (t : Nat), s.mgt.actions = [.addr ws t]) ∧
    (∀ late : Bool, ∃ (s : State) (t a4 a6 : Nat), s.standby = true ∧ s.mgt.nextAddr = [(t, a4, a6)] ∧
      (if late then t ≤ s.now else s.now < t)) :=
  ⟨⟨acting .warm 0 0 [], rfl⟩, ⟨acting .cold 0 0 [], rfl⟩, ⟨acting .fwStart 4 0 [], by decide⟩,
    fun b => ⟨acting .fwCommit 1 1 (if b then [(0, [0])] else []), by revert b; decide +kernel⟩,
    ⟨acting .fwAbort 2 0 [], by decide⟩, fun w h => ⟨acting (.cap w) 0 0 [], by revert w; decide +kernel⟩,
    fun w h =>
      let ⟨t, ht⟩ := pair_of (a := none) (q := { acting (.cap w) 0 0 [] with
        mgt := { (acting (.cap w) 0 0 []).mgt with actions := [], capW := w } }.checkCommit 7
          [{ item := 2, arg := 0, index := 0, value := w }]) (by revert w; decide +kernel)
      ⟨acting (.cap w) 0 0 [], t, by clear ht; revert w; decide +kernel, by clear ht; revert w; decide +kernel,
        by clear ht; revert w; decide +kernel, by clear ht; revert w; decide +kernel, by clear ht; revert w; decide +kernel, ht⟩,
    ⟨acting (.addr [(0x100, 1)] 5) 0 0 [], _, _, rfl⟩,
    fun late => ⟨{ idle with mgt := { idle.mgt with nextAddr := [(5, 1, 2)] }, time := { idle.time with ns := if late then 5 else 4 } },
      5, 1, 2, by revert late; decide +kernel⟩⟩

/-- A firmware verdict that passes but for its SVN. -/
def verdict (svn : Nat) : FwVerdict :=
  { format := 3, signerOk := true, signatureOk := true, version := 2, svn := svn, signatures := List.replicate 14 0 }

theorem test_hyps_firmware :
    (∃ (s : State) (v : FwVerdict), s.standby = true ∧ s.mgt.fwStatus = 2 ∧ FwVerdict.status v s.flash.rollback ≠ 3) ∧
    (∃ (s : State) (v : FwVerdict), s.standby = true ∧ s.mgt.fwStatus = 2 ∧ FwVerdict.status v s.flash.rollback = 3) ∧
    (∃ s : State, s.standby = true ∧ s.mgt.fwStatus = 3) :=
  ⟨⟨{ acting .fwAbort 2 0 [] with flash := { idle.flash with rollback := 5 } }, verdict 4, by decide +kernel⟩,
    ⟨{ acting .fwAbort 2 0 [] with flash := { idle.flash with rollback := 5 } }, verdict 5, by decide +kernel⟩,
    ⟨acting .fwAbort 3 0 [], by decide +kernel⟩⟩

/-- A device with an enrolled credential and a management session 1. -/
def managed (credential : Option Bytes) (established : Bool) (now : Nat) : State :=
  { idle with
    flash := { idle.flash with credential := credential, records := [[7]] }
    mgt := { idle.mgt with
      fwStatus := 1, fwLen := 1025
      sessions := [(1, { established := established, th := [], keys := [], lastSeq := some 4, lastReply := (0, 0, []), lastUsed := 0 })] }
    time := { idle.time with ns := now } }

theorem test_hyps_management_sessions :
    (∃ (s : State) (m : KeyMessage), s.standby = true ∧ keyMessageOk m.bytes 1 3 6613 = true ∧ m.sigOk = false) ∧
    (∃ (s : State) (m : KeyMessage), s.standby = true ∧ keyMessageOk m.bytes 1 3 6613 = true ∧ m.sigOk = true ∧ m.keysOk = true ∧
      s.flash.credential = some (peerKeys m.bytes)) ∧
    (∃ (s : State) (m : KeyMessage), s.standby = true ∧ keyMessageOk m.bytes 1 3 6613 = true ∧ m.sigOk = true ∧ m.keysOk = true ∧
      s.flash.credential = none ∧ bitOf (leAt m.bytes 7 1) 0 = true) ∧
    (∃ (s : State) (m : KeyMessage), s.standby = true ∧ keyMessageOk m.bytes 1 3 6613 = true ∧ s.flash.credential = none ∧
      bitOf (leAt m.bytes 7 1) 0 = false) ∧
    (∃ (s : State) (n : Nat) (x : MgtSession), s.standby = true ∧ Tab.find n s.mgt.sessions = some x ∧ x.established = false) ∧
    (∀ late : Bool, ∃ (s : State) (n : Nat) (x : MgtSession), Tab.find n s.mgt.sessions = some x ∧ x.established = true ∧
      (if late then x.lastUsed + 60000000000 ≤ s.now else s.now < x.lastUsed + 60000000000)) ∧
    (∃ s : State, 2 ≤ s.mgt.sessions.length) :=
  ⟨⟨managed none false 0, keyMsg 1 3 0 6613 false true false, by decide +kernel⟩,
    ⟨managed (some (zeros 1984)) false 0, keyMsg 1 3 0 6613 true true false, by decide +kernel⟩,
    ⟨managed none false 0, keyMsg 1 3 1 6613 true true false, by decide +kernel⟩,
    ⟨managed none false 0, keyMsg 1 3 0 6613 true true false, by decide +kernel⟩,
    ⟨managed none false 0, 1, _, by decide +kernel, rfl, rfl⟩,
    fun late => ⟨managed none true (if late then 60000000000 else 59999999999), 1, _, rfl, rfl, by revert late; decide +kernel⟩,
    ⟨{ idle with mgt := { idle.mgt with sessions := (managed none true 0).mgt.sessions ++ (managed none true 0).mgt.sessions } },
      by decide⟩⟩

theorem test_hyps_management_requests :
    ∃ (s : State) (req : MgtRequest) (x : MgtSession), s.Asks req x ∧
      (1020 % 4 = 0 ∧ 4 ≤ 1024 ∧ 1024 ≤ 1024) ∧ (2 % 4 ≠ 0) ∧ (33554432 < 2 ^ 26) ∧ s.mgt.fwStatus ≠ 2 ∧ s.mgt.fwStatus ≠ 3 ∧
      (∃ o v, o % 4 = 0 ∧ s.mgtWritable o (v % 2 ^ 32) ≠ 0) ∧ (∃ v, v % 2 ^ 32 = 0x5A01) ∧
      (∃ (o : Nat) (b : Bytes), s.mgt.fwStatus = 1 ∧ o % 1024 = 0 ∧ o < s.mgt.fwLen ∧ b.length = min 1024 (s.mgt.fwLen - o)) ∧
      (∃ nonce : Bytes, nonce.length = 32) ∧ (∃ (i : Nat) (r : Bytes), s.flash.records[i]? = some r) ∧ (∃ i : Nat, s.flash.records[i]? = none) ∧
      (∃ keys : Bytes, keys.length = 1984 ∧ s.flash.credential.isSome = true) :=
  ⟨managed (some []) true 0, ⟨1, 5, true⟩, _, ⟨by decide, rfl, rfl, rfl, by decide, by decide⟩, by decide, by decide, by decide,
    by decide, by decide, ⟨0, 0, by decide +kernel⟩, ⟨0x5A01, by decide⟩, ⟨1024, [0], by decide +kernel⟩, ⟨zeros 32, by decide⟩,
    ⟨0, [7], rfl⟩, ⟨1, rfl⟩, ⟨zeros 1984, by decide +kernel⟩⟩

/-- An unlock token of a KIND that expires at a time (Table 19-8). -/
def token (kind expiry : Nat) : Bytes :=
  leBytes 4 0x7D1E0702 ++ leBytes 1 1 ++ leBytes 1 kind ++ leBytes 2 8842 ++ zeros 8 ++ leBytes 8 expiry ++ zeros 8818

theorem test_hyps_sideband :
    (∀ ok, ∃ (s : State) (t : Bytes), s.standby = true ∧ s.tokenOk t 1 ok = ok) ∧
    (∀ b, ∃ s : State, s.standby = true ∧ s.mgt.broadcastSeen = b) ∧ (∃ k, k < 16) ∧
    (∃ s : State, s.standby = true ∧ s.mgt.i3cAddress = none) :=
  ⟨fun ok => ⟨{ idle with time := { idle.time with state := 1 } }, token 1 1, by revert ok; decide +kernel⟩,
    fun b => ⟨{ idle with mgt := { idle.mgt with broadcastSeen := b } }, by revert b; decide +kernel⟩, ⟨15, by decide⟩,
    ⟨idle, by decide +kernel⟩⟩


/-! ### Start-up, resets, power and time -/

/-- A device at a point of its start-up. -/
def booting (b : Boot) (full : Bool) (flash : Flash) : State :=
  { idle with power := { idle.power with boot := b, fullTraining := full }, flash := flash }

theorem test_hyps_start_up :
    (∃ s : State, s.power.boot = .off) ∧ (∃ (s : State) (d : Nat), s.power.boot = .started ∧ d < 64) ∧
    (∃ (s : State) (ts : List Int), s.power.boot = .standby ∧ s.health.halt = none ∧ ts.length = 32 ∧ ∀ x ∈ ts, x < 950) ∧
    (∀ waits, ∃ (s : State) (ts : List Int), s.power.boot = .standby ∧ s.health.halt = none ∧ ts.length = 32 ∧
      (∃ x ∈ ts, 950 ≤ x) ∧ s.power.coolWaits = waits ∧ s.counterValue 52 5 < 2 ^ 64 - 1) ∧
    (∀ full, ∃ s : State, s.power.boot = .booted ∧ s.health.halt = none ∧ s.power.fullTraining = full) ∧
    (∃ s : State, s.power.boot = .trained ∧ s.health.halt = none) ∧
    (∃ s : State, s.power.boot = .scrubbed ∧ s.health.halt = none ∧ s.portsSettled = true) :=
  ⟨⟨booting .off true .factory, rfl⟩, ⟨State.reset, 63, by decide⟩,
    ⟨booting .standby true .factory, List.replicate 32 949, by decide +kernel⟩,
    fun waits => ⟨{ idle with power := { idle.power with boot := .standby, coolWaits := waits } }, List.replicate 31 0 ++ [950],
      by revert waits; decide +kernel⟩,
    fun full => ⟨booting .booted full .factory, by revert full; decide +kernel⟩,
    ⟨booting .trained true .factory, by decide +kernel⟩, ⟨readying 1 0, by decide +kernel⟩⟩

/-- A flash with images of versions 1 and 2. -/
def twoSlots : Flash :=
  { Flash.factory with slotA := some ⟨[], 1, 0, []⟩, slotB := some ⟨[], 2, 0, []⟩ }

theorem test_hyps_boot_chain :
    (∃ (s : State) (v : BootVerdict), s.power.boot = .rails ∧ s.health.halt = none ∧ v.identityOk = false) ∧
    (∃ (s : State) (v : BootVerdict) (b : Bool), s.power.boot = .rails ∧ s.health.halt = none ∧ v.identityOk = true ∧
      v.antiRollbackOk = true ∧ v.chainOk = true ∧ v.configOk = true ∧
      s.flash.choose (s.flash.slotFails s.flash.slotA v.slotA) (s.flash.slotFails s.flash.slotB v.slotB) = some b) ∧
    (∀ w ∈ [(false, true, true), (true, false, true), (true, true, false)], ∃ (s : State) (v : BootVerdict), s.power.boot = .rails ∧
      s.health.halt = none ∧ v.identityOk = true ∧ v.antiRollbackOk = w.1 ∧ v.chainOk = w.2.1 ∧ v.configOk = w.2.2) ∧
    (∃ (f : Flash) (x y : FwImage), f.slotA = some x ∧ f.slotB = some y) :=
  ⟨⟨booting .rails true twoSlots, ⟨false, true, true, 0, 0, true⟩, by decide⟩,
    ⟨booting .rails true twoSlots, ⟨true, true, true, 0, 1, true⟩, false, by decide⟩,
    fun w h => ⟨booting .rails true twoSlots, ⟨true, w.1, w.2.1, 0, 0, w.2.2⟩, by revert w; decide⟩,
    ⟨twoSlots, _, _, rfl, rfl⟩⟩

/-- R398: of valid images of versions 1 and 2 the one in slot B runs. -/
theorem test_higher_version_runs : twoSlots.choose 0 0 = some true := by decide

/-- A halted device: cause 1 at time 0, the record written or not. -/
def halted (recorded : Bool) : State :=
  { idle with health := { idle.health with halt := some { faultOf 1 0 with mask := 2, recorded := recorded } } }

theorem test_hyps_resets :
    (∃ s : State, s.standby = true) ∧ (∃ (s : State) (n : Nat), s.working = true ∧ n < 8 ∧ s.counterValue 54 n < 2 ^ 64 - 1) ∧
    (∀ r, ∃ (s : State) (h : Halt), s.standby = true ∧ s.health.halt = some h ∧ h.recorded = r) ∧
    (∃ (s : State) (f : Nat), s.standby = true ∧ 1 ≤ f ∧ f ≤ 6 ∧ s.working = true ∧ (s.part f).enabled = true) ∧
    (∃ (s : State) (f : Nat), s.standby = true ∧ 1 ≤ f ∧ f ≤ 6 ∧ s.working = false) ∧
    (∃ (s : State) (f : Nat), s.standby = true ∧ 1 ≤ f ∧ f ≤ 6 ∧ (s.part f).enabled = false) :=
  ⟨⟨idle, by decide⟩, ⟨idle, 7, by decide +kernel⟩, fun r => ⟨halted r, { faultOf 1 0 with mask := 2, recorded := r },
      by revert r; decide +kernel⟩,
    ⟨{ idle with parts := [(6, quota 1)] }, 6, by decide +kernel⟩, ⟨halted false, 1, by decide +kernel⟩,
    ⟨idle, 6, by decide +kernel⟩⟩

/-- R452, Table 23-7: a PERST# is counted in counter 0 of group 54, and device memory is empty after it. -/
theorem test_perst_counted :
    ((mapped.write 1 0 [7]).bind fun s => after (exec .perstAssert s)).map (fun t => (t.counterValue 54 0, t.mem.length)) =
      some (1, 0) := by
  decide +kernel

/-- A device under warning since 0, at a time. -/
def warned (now : Nat) : State :=
  { idle with power := { idle.power with warn := true }, time := { idle.time with ns := now } }

theorem test_hyps_supply :
    (∃ s : State, s.standby = true ∧ s.power.warn = false) ∧ (∃ s : State, s.power.warn = true) ∧
    (∃ s : State, s.power.warn = true ∧ s.power.warnSince + 1000000 ≤ s.now) ∧
    (∃ s : State, s.now < s.power.warnSince + 1000000) ∧
    (∃ (s : State) (h : Halt), s.health.halt = some h ∧ h.recorded = true) ∧ (∃ s : State, s.power.boot = .started) ∧
    (20 ≤ 20 ∧ 19 < 20) :=
  ⟨⟨idle, by decide⟩, ⟨warned 0, by decide⟩, ⟨warned 1000000, by decide⟩, ⟨warned 999999, by decide⟩,
    ⟨halted true, _, rfl, rfl⟩, ⟨booting .started true .factory, rfl⟩, by decide⟩

theorem test_hyps_faults :
    (∃ s : State, s.health.halt = none) ∧ (∃ (s : State) (p : Nat), s.health.halt = none ∧ (s.port p).ethernet = true) ∧
    (∀ r, ∃ (s : State) (old : Halt), s.health.halt = some old ∧ old.recorded = r) ∧
    (∃ (s : State) (h : Halt), s.health.halt = some h ∧ h.recorded = false ∧ h.request = none) ∧ (∃ s : State, s.standby = true) ∧
    (∃ s : State, s.bar0 = true ∧ s.health.halt = none) ∧ (∃ s : State, s.health.halt.isSome = true) ∧
    (5 < 6 ∧ 95 < 96 ∧ 127 < 128 ∧ 63 < 64) :=
  ⟨⟨idle, rfl⟩, ⟨{ idle with ports := [(15, { Port.reset with ethernet := true, up := true })] }, 15, by decide +kernel⟩,
    fun r => ⟨halted r, _, rfl, rfl⟩, ⟨halted false, _, rfl, rfl, rfl⟩, ⟨idle, by decide⟩, ⟨idle, by decide⟩,
    ⟨halted false, by decide⟩, by decide⟩

/-- R448: causes 5 and 3 found at one value of the chronometer give cause 3 and a mask of both. -/
theorem test_lower_cause_wins :
    ((idle.fault (faultOf 5 0)).fault (faultOf 3 0)).health.halt.map (fun h => (h.cause, h.mask)) = some (3, 2 ^ 5 + 2 ^ 3) := by
  decide +kernel

/-- A device whose pace monitors are armed, sensors of a first over-temperature reading on sensor 47. -/
def armed : State :=
  { idle with
    power := { idle.power with armed := true, overCount := List.replicate 47 0 ++ [1] }
    time := { idle.time with ns := 1000 } }

theorem test_hyps_samples :
    (∃ s : State, s.now / 1000 = s.power.window) ∧
    (∃ (s : State) (rs : List Nat), s.power.armed = true ∧ rs.length = 88 ∧ s.now / 1000 ≠ s.power.window ∧ ∀ n, n < 88 → s.floor ≤ rs.getD n 0 + 64) ∧
    (∃ (s : State) (rs : List Nat), s.power.armed = true ∧ rs.length = 88 ∧ s.now / 1000 ≠ s.power.window ∧ ∃ n, n < 88 ∧ rs.getD n 0 + 64 < s.floor) ∧
    (∃ (s : State) (ts : List Int), s.standby = true ∧ ts.length = 48 ∧ s.health.halt = none ∧
      ∀ n, n < 48 → ts.getD n 0 ≤ 1050 ∨ s.power.overCount.getD n 0 = 0) ∧
    (∃ (s : State) (ts : List Int) (n : Nat), s.standby = true ∧ ts.length = 48 ∧ s.health.halt = none ∧ n < 48 ∧
      1050 < ts.getD n 0 ∧ 1 ≤ s.power.overCount.getD n 0) :=
  ⟨⟨idle, by decide⟩, ⟨armed, List.replicate 88 (armed.floor - 64), by decide +kernel⟩,
    ⟨armed, List.replicate 87 (armed.floor - 64) ++ [armed.floor - 65], by decide, by decide +kernel, by decide, 87, by decide +kernel⟩,
    ⟨armed, List.replicate 47 1051 ++ [1050], by decide +kernel⟩, ⟨armed, List.replicate 47 0 ++ [1051], 47, by decide +kernel⟩⟩

theorem test_hyps_vcore :
    (∃ s : State, s.power.armed = true ∧ s.now / 10000000 ≠ s.power.epoch ∧ s.health.halt = none ∧ s.health.bist = none) ∧
    (∃ s : State, s.power.change = none ∧ s.capSetting < s.power.vcore) ∧
    (∃ s : State, s.power.change = none ∧ s.admission < s.power.vcore) ∧
    (∀ n ∈ [8, 9], ∃ s : State, s.power.change = none ∧ s.power.quiet = n ∧ s.power.vcore < s.config.knob ∧
      s.power.warn = false) ∧
    (∃ s : State, s.slotTime < 200000) ∧
    (∃ s : State, 200000 ≤ s.slotTime) ∧
    (∃ (s : State) (c : VChange), s.power.change = some c ∧ c.commit = true ∧ s.allBetween = false) ∧
    (∀ b : Bool, ∃ (s : State) (c : VChange), s.power.change = some c ∧ c.moving = true ∧ s.slotTime < 200000 ∧ c.commit = b ∧
      s.allBetween = true ∧ s.health.bist = none) :=
  ⟨⟨{ armed with time := { idle.time with ns := 10000000 } }, by decide +kernel⟩,
    ⟨{ idle with config := { idle.config with cap := 400 }, power := { idle.power with vcore := 1 } }, by decide +kernel⟩,
    ⟨{ idle with config := { idle.config with knob := 1 }, power := { idle.power with vcore := 2 } }, by decide +kernel⟩,
    fun n h => ⟨{ idle with power := { idle.power with vcore := 1, quiet := n } }, by revert n; decide +kernel⟩,
    ⟨{ idle with time := { idle.time with ns := 199999 } }, by decide +kernel⟩,
    ⟨{ idle with time := { idle.time with ns := 200000 } }, by decide⟩,
    ⟨{ idle with
        power := { idle.power with change := some ⟨2, 1, true, true, []⟩ }
        cores := [(5, { Core.reset with running := .vectorDone 0 0 })] }, _, rfl, rfl, by decide +kernel⟩,
    fun b => ⟨{ idle with power := { idle.power with change := some ⟨2, 1, true, b, []⟩ } }, _, rfl, rfl, by revert b; decide, rfl,
      by revert b; decide +kernel, rfl⟩⟩

/-- A device whose chronometer follows a source. -/
def timed (source state : Nat) (seconds : Option Nat) (busy : Bool) : State :=
  { idle with
    time := { idle.time with
      source := source, state := state, seconds := seconds, heard := [(9, (2999999999, 1)), (8, (0, 1000000000))]
      lastMeasure := 0, syncInterval := 1000000000, ns := 3000000000, good := 15 }
    streams := if busy then [(0, hopeless)] else [] }

/-- A PTP message of a transmitter of a rank. -/
def ptp (k : PtpKind) (rank : Nat := 9) : PtpMsg := { kind := k, domain := 0, rank := rank }

/-- A device that hears PTP on port 15. -/
def hearing : State :=
  let s := timed 2 0 none false
  { s with time := { s.time with port := 15 }, ports := [(15, { Port.reset with ethernet := true, up := true })] }

theorem test_hyps_chronometer :
    (∃ (s : State) (n : Nat), s.standby = true ∧ s.time.source = 1 ∧ s.time.seconds = some n ∧ s.streams = [] ∧
      s.counterValue 44 7 < 2 ^ 64 - 1) ∧
    (∃ (s : State) (n : Nat), s.standby = true ∧ s.time.source = 1 ∧ s.time.seconds = some n ∧ s.streams ≠ []) ∧
    (∃ s : State, s.standby = true ∧ s.time.source = 1 ∧ s.time.seconds = none) ∧
    (∃ (s : State) (p i : Nat) (m : PtpMsg), s.standby = true ∧ p < 16 ∧ s.ptpHeard (some p) = true ∧
      m.domain = s.config.ptpDomain ∧ m.kind = .announce i) ∧
    (∀ b : Bool, ∃ (s : State) (p i : Nat) (m : PtpMsg) (off : Int), s.standby = true ∧ p < 16 ∧ s.ptpHeard (some p) = true ∧
      m.domain = s.config.ptpDomain ∧ m.kind = .sync off i ∧ (s.time.best == some m.rank) = b) ∧
    (∃ (s : State) (off : Int), off.natAbs < 100 ∧ s.streams ≠ []) ∧
    (∃ (s : State) (off : Int), 100 ≤ off.natAbs ∧ s.streams ≠ []) ∧
    (∃ (s : State) (off : Int), 100 ≤ off.natAbs ∧ s.streams = []) ∧
    (∃ s : State, s.time.state = 1 ∧ s.time.lastMeasure + 3000000000 ≤ s.now) ∧
    (∃ s : State, s.time.state = 2 ∧ s.time.lastMeasure + 3 * s.time.syncInterval ≤ s.now) ∧
    (∃ s : State, s.time.state = 2 ∧ s.now < s.time.lastMeasure + 3 * s.time.syncInterval) ∧
    (∃ s : State, s.time.state ≠ 1 ∧ s.time.state ≠ 2) :=
  ⟨⟨timed 1 0 (some 5) false, 5, by decide +kernel⟩, ⟨timed 1 0 (some 5) true, 5, by decide +kernel⟩,
    ⟨timed 1 0 none false, by decide +kernel⟩, ⟨hearing, 15, 7, ptp (.announce 7), by decide +kernel⟩,
    fun b => ⟨hearing, 15, 7, ptp (.sync (-100) 7) (if b then 9 else 8), -100, by revert b; decide +kernel⟩,
    ⟨timed 1 0 none true, -99, by decide +kernel⟩, ⟨timed 1 0 none true, -100, by decide +kernel⟩,
    ⟨timed 1 0 none false, 100, by decide +kernel⟩, ⟨timed 1 1 none false, by decide +kernel⟩,
    ⟨timed 2 2 none false, by decide +kernel⟩,
    ⟨{ timed 2 2 none false with time := { (timed 2 2 none false).time with lastMeasure := 1 } }, by decide +kernel⟩,
    ⟨timed 1 3 none false, by decide +kernel⟩⟩

/-- R475: a pending second count is the time at the next edge, and its fraction is 0. -/
theorem test_second_count_at_edge :
    (after (exec .ppsEdge (timed 1 0 (some 5) false))).map (fun t => (t.time.ns, t.time.frac)) = some (5000000000, 0) := by
  decide +kernel


/-! ### Vector operations -/

/-- Core 5 has dispatched a vector step; handle 0 has one line and handle 1 none. -/
def vectorOn (v : VectorStep) : State :=
  { queued 0 (.ready 0 0) (.vector v) true with
    cores := [(5, { Core.reset with
      queue := [0], running := .ready 0 0, handles := [(0, (⟨1, 1, 0⟩, 0)), (1, (⟨1, 0, 0⟩, 0))] })] }

theorem vectorOn_has (v : VectorStep) : (vectorOn v).HasVector 5 0 0 frameRoute v :=
  ⟨rfl, by decide, rfl, { Run.fresh 0 (.command 1) [.vector v] with started := true }, rfl⟩

theorem any_of {α : Type} {o : Option α} {p : α → Bool} (h : o.any p = true) : ∃ v, o = some v ∧ p v = true := by
  cases o with
  | none => cases h
  | some v => exact ⟨v, rfl, h⟩

/-- ADD of one FP32 value, through handles for its operands and its result. -/
def adding (a r : Nat) : VectorStep := { vectorStep .add with a := ⟨a, 7, 0⟩, r := ⟨r, 7, 0⟩ }

/-- Core 5 once it has counted a step and asked for its operands' banks. -/
def counted (v : VectorStep) : Core := ((vectorOn v).countOp 5 v (v.exactPath frameRoute)).core 5

theorem test_hyps_vector_operations :
    (∀ op : VecOp, ∃ (s : State) (k rid i : Nat) (x : Route) (v : VectorStep), s.HasVector k rid i x v ∧ v.op = op) ∧
    (∃ (s : State) (k rid i : Nat) (x : Route) (v : VectorStep) (res : VecResult) (c : Core), s.HasVector k rid i x v ∧
      v.op = .add ∧ v.map2 ((s.countOp k v (v.exactPath x)).core k) vAdd = some res ∧ ((s.countOp k v (v.exactPath x)).core k).writeAll res.writes = some c) ∧
    (∃ (s : State) (k rid i : Nat) (x : Route) (v : VectorStep), s.HasVector k rid i x v ∧ v.op = .add ∧
      v.map2 ((s.countOp k v (v.exactPath x)).core k) vAdd = none) ∧
    (∃ (s : State) (k rid i : Nat) (x : Route) (v : VectorStep) (res : VecResult), s.HasVector k rid i x v ∧ v.op = .add ∧
      v.map2 ((s.countOp k v (v.exactPath x)).core k) vAdd = some res ∧ ((s.countOp k v (v.exactPath x)).core k).writeAll res.writes = none) :=
  ⟨fun op => ⟨vectorOn (vectorStep op), 5, 0, 0, frameRoute, vectorStep op, vectorOn_has _, rfl⟩,
    let ⟨res, h, w⟩ := any_of (o := (adding 0 0).map2 (counted (adding 0 0)) vAdd)
      (p := fun r => ((counted (adding 0 0)).writeAll r.writes).isSome) (by decide +kernel)
    let ⟨c, g⟩ := some_of w
    ⟨vectorOn (adding 0 0), 5, 0, 0, frameRoute, adding 0 0, res, c, vectorOn_has _, rfl, h, g⟩,
    ⟨vectorOn (adding 1 0), 5, 0, 0, frameRoute, adding 1 0, vectorOn_has _, rfl, by decide +kernel⟩,
    let ⟨res, h, w⟩ := any_of (o := (adding 0 1).map2 (counted (adding 0 1)) vAdd)
      (p := fun r => ((counted (adding 0 1)).writeAll r.writes).isNone) (by decide +kernel)
    ⟨vectorOn (adding 0 1), 5, 0, 0, frameRoute, adding 0 1, res, vectorOn_has _, rfl, h, Option.isNone_iff_eq_none.mp w⟩⟩

/-- R171: adding 1.0 to itself in place gives 2.0 (0x40000000). -/
theorem test_add_in_place :
    (after (exec (.vecAdd 5) ({ vectorOn { adding 0 0 with b := ⟨0, 7, 0⟩ } with
      cores := [(5, { (vectorOn (adding 0 0)).core 5 with pad := [(2, 0x80), (3, 0x3F)] })] }))).map
      (fun t => (t.core 5).readPad 0 0 4) = some (some [0, 0, 0, 0x40]) := by decide +kernel

/-- A CONVERT of one INT32 value to an element, and a SCATTER_ADD of one FP32 value. -/
def converting (e : Nat) : VectorStep := { vectorStep .convert with isInt := true, a := ⟨0, 8, 0⟩, r := ⟨0, e, 0⟩ }

theorem test_hyps_convert_and_scatter_add :
    (∃ (s : State) (k rid i : Nat) (x : Route) (v : VectorStep) (res : VecResult) (c : Core), s.HasVector k rid i x v ∧
      v.op = .convert ∧ v.narrows = false ∧ v.plainConvert ((s.countOp k v (v.exactPath x)).core k) = some res ∧ ((s.countOp k v (v.exactPath x)).core k).writeAll res.writes = some c) ∧
    (∃ (s : State) (k rid i : Nat) (x : Route) (v : VectorStep) (r : Run) (xs : List Value), s.HasVector k rid i x v ∧
      v.op = .convert ∧ v.narrows = true ∧ s.run rid = some r ∧ v.values ((s.countOp k v (v.exactPath x)).core k) v.a v.total = some xs) ∧
    (∃ (s : State) (k rid i : Nat) (x : Route) (v : VectorStep) (xs : List VOut) (idx : Bytes), s.HasVector k rid i x v ∧
      v.op = .scatterAdd ∧ v.operand ((s.countOp k v (v.exactPath x)).core k) v.a v.total = some xs ∧
      ((s.countOp k v (v.exactPath x)).core k).readPad v.b.handle v.b.offset (4 * v.rows) = some idx) :=
  ⟨let ⟨res, h, w⟩ := any_of (o := (converting 7).plainConvert (counted (converting 7)))
      (p := fun r => ((counted (converting 7)).writeAll r.writes).isSome) (by decide +kernel)
    let ⟨c, g⟩ := some_of w
    ⟨vectorOn (converting 7), 5, 0, 0, frameRoute, converting 7, res, c, vectorOn_has _, rfl, by decide, h, g⟩,
    ⟨vectorOn (converting 0), 5, 0, 0, frameRoute, converting 0, _, [.int 0], vectorOn_has _, rfl, by decide, rfl,
      by decide +kernel⟩,
    ⟨vectorOn (vectorStep .scatterAdd), 5, 0, 0, frameRoute, vectorStep .scatterAdd, [⟨0, {}⟩], zeros 4, vectorOn_has _, rfl,
      by decide +kernel, by decide +kernel⟩⟩

theorem test_hyps_vector_comparisons : ∃ a b : Word, fpIsNaN a = true ∧ fpIsNaN b = false ∧ fpEq b b = true :=
  ⟨0x7FC00000, 0x3F800000, by decide +kernel⟩

/-- R174: the largest INT32 value plus 1 stays, and counts one saturation. -/
theorem test_int_add_saturates : iAdd 0x7FFFFFFF 1 = { bits := 0x7FFFFFFF, count := { sat := 1 } } := by decide +kernel


/-! ### Digit arrays -/

/-- R23: 7 is stored as +8 and −1. -/
theorem test_naf_of_seven : naf 7 = [⟨true, 0, 0⟩, ⟨false, 0, 3⟩] := by decide

theorem test_hyps_naf : ∃ ds : List Digit, (∀ d ∈ ds, d.pos < 8 ∧ d.pos + 8 * d.chunk < 16) ∧
    (ds.map fun d => d.pos + 8 * d.chunk).Pairwise (fun a b => a + 1 < b) ∧ digitsValue ds = -(2 ^ 15 : Int) :=
  ⟨[⟨true, 1, 7⟩], by decide⟩

theorem test_hyps_promotion : Tab.rising [(0, (1 : Int))] = true ∧ (-(2 ^ 31 - 1) : Int) ≤ 2 ^ 31 - 1 := by decide

/-- R134: a sum past 2^31 − 1 stays there. -/
theorem test_promotion_limit : promote (2 ^ 31 - 1) 1 8 = (2 ^ 31 - 1, true) := by decide

/-- A layer step on core 5: one position, two K tiles of a DENSE operand of 8-bit codes, one column. -/
def layer : LayerStep :=
  { decodeLayer (zeros 128) with cores := 32, order := 2, p := 1, k := 256, n := 128, actWidth := 8, residentList := 0 }

def layerRun (l : LayerStep) : Run := { Run.fresh 0 (.command 1) [.layer l] with started := true }

/-- A route whose tile list 0 names the tiles at 0 and 64. -/
def layerRoute : Route := route { noImage with lists := [[0, 64]] }

def layerExec (l : LayerStep) : LayerExec := LayerExec.start 0 (layerRun l) layerRoute 5 0 l 0

/-- A sealed DENSE tile of one row and one column at address 0. -/
def oneTile : Bytes := { TileHdr.blank with format := 0, rows := 1, columns := 1, payloadLen := 1 }.seal [7]

/-- Core 5 runs a layer step, its array 0 and band 0 as given. -/
def layered (l : LayerStep) (e : LayerExec) (a : ArrayState) (b : BandState) : State :=
  { mapped with
    mem := ((mapped.write 1 0 oneTile).getD mapped).mem, runs := [(0, layerRun l)], routes := [(0, layerRoute)],
    cores := [(5, { Core.reset with
      queue := [0], running := .layer 0 0 e, bands := [(0, b)], handles := [(0, (⟨1, 64, 0⟩, 0))]
      arrays := (0, a) :: (List.range 7).map fun n => (n + 1, { ArrayState.idle with exhausted := true }) })] }

theorem layered_has (l : LayerStep) (e : LayerExec) (a : ArrayState) (b : BandState) :
    (layered l e a b).HasLayer 5 0 0 0 e (layerRun l) layerRoute :=
  ⟨rfl, by decide, by decide, rfl, rfl⟩

/-- Column 0 of block 0 on band 0, with tiles fetched. -/
def column (fetched : Nat) (attached : Bool) : Column :=
  { ordinal := 0, band := 0, item := ⟨0, 0⟩, block := 0, first := 0, tiles := 2, fetched := fetched, counter := 60, claim := 0,
    generation := 0, sweep := 0, attached := attached }

/-- An array with a column in work. -/
def working (fetched : Nat) (q : List QTile) : ArrayState :=
  { ArrayState.idle with column := some (column fetched true), ordinals := 1, queue := q }

theorem test_hyps_columns :
    (∃ (s : State) (k a rid i : Nat) (e : LayerExec) (r : Run) (x : Route), s.HasLayer k a rid i e r x ∧ e.finished = false ∧
      e.claimsShared = false ∧ (e.team a).head? = some a ∧ ∀ j ∈ e.team a, ((s.core k).array j).next = none ∧
        ((s.core k).array j).claiming = false ∧ ((s.core k).array j).exhausted = false ∧
        ∀ c, ((s.core k).array j).column = some c → c.allFetched e.layer.tilesPerK = true) ∧
    (∃ (s : State) (k a rid i : Nat) (e : LayerExec) (r : Run) (x : Route), s.HasLayer k a rid i e r x ∧
      ((s.core k).array a).exhausted = true) ∧
    (∃ (s : State) (k a rid i : Nat) (e : LayerExec) (r : Run) (x : Route) (c : Column), s.HasLayer k a rid i e r x ∧
      ((s.core k).array a).next = some c ∧ c.attached = false ∧ ((s.core k).array a).column = none ∧
      ((s.core k).band c.band).tile = 0 ∧ ((s.core k).band c.band).pos = 0) :=
  ⟨⟨layered layer (layerExec layer) (working 2 []) .idle, 5, 0, 0, 0, _, _, _, layered_has _ _ _ _, by decide +kernel,
      by decide +kernel, by decide +kernel, fun j h => by
        have h : j ∈ [0] := h
        simp only [List.mem_singleton] at h
        subst h
        exact ⟨rfl, rfl, rfl, fun c h => by injection h with h; subst h; decide +kernel⟩⟩,
    ⟨layered layer (layerExec layer) { ArrayState.idle with exhausted := true } .idle, 5, 0, 0, 0, _, _, _,
      layered_has _ _ _ _, by decide⟩,
    ⟨layered layer (layerExec layer) { ArrayState.idle with next := some (column 0 false) } .idle, 5, 0, 0, 0, _, _, _,
      column 0 false, layered_has _ _ _ _, by decide⟩⟩

/-- A tile asked for, of a column's first K tile; with its bytes, and read again, as given. -/
def asked (got : Bytes × Bytes) (retried : Bool) : QTile :=
  { ordinal := 0, tile := 0, half := 0, addr := 0, line := got.1, payload := got.2, retried := retried, checked := false }

/-- The first K tile of column 0, sealed, its CRC, format code and magic as given. -/
def goodTile (format flip : Nat) (sealed : Bool) : Bytes × Bytes :=
  let h : TileHdr := { TileHdr.blank with format := format, actWidth := 8, rows := 1, columns := 1, payloadLen := 1 }
  let p : Bytes := [7]
  let b := h.body (if sealed then sealedMagic else 0)
  (b ++ leBytes 8 (flip ^^^ crc64 (b ++ p)), p)

/-- An array whose oldest tile has arrived so. -/
def arrivedTile (got : Bytes × Bytes) (retried : Bool) : State :=
  layered layer (layerExec layer) (working 1 [asked got retried]) .idle

theorem test_hyps_tiles :
    (∃ (s : State) (k a rid i : Nat) (e : LayerExec) (r : Run) (x : Route) (c : Column), s.HasLayer k a rid i e r x ∧
      e.condition ≠ .forward ∧ e.order ≠ .rows ∧ ((s.core k).array a).fetching e.layer.tilesPerK = some c ∧
      ((s.core k).array a).queue.length < 2) ∧
    (∀ asleep : Bool, ∃ (s : State) (k a rid i : Nat) (e : LayerExec) (r : Run) (x : Route) (q : QTile) (pa : Nat)
      (got : Bytes × Bytes), s.HasLayer k a rid i e r x ∧
      ((s.core k).array a).queue.find? (fun q => q.line.isEmpty && !q.checked) = some q ∧ s.phys x.partition q.addr = some pa ∧
      s.readTile x.partition q.addr = some got ∧ s.asleep pa (64 + got.2.length) = asleep) ∧
    (∀ v ∈ [(goodTile 0 0 true, false, TileCheck.good), (goodTile 0 1 true, true, .mismatch), (goodTile 0 0 false, false, .missing),
        (goodTile 15 0 true, false, .metaFault)],
      ∃ (s : State) (k a rid i : Nat) (e : LayerExec) (r : Run) (x : Route) (q : QTile) (c : Column),
        s.HasLayer k a rid i e r x ∧
        ((s.core k).array a).queue.find? (fun q => !q.line.isEmpty && !q.checked) = some q ∧ q.half ≠ neuronMark ∧
        ((s.core k).array a).columnOf q.ordinal = some c ∧ q.retried = v.2.1 ∧
        checkTile (e.expects c q) q.addr q.line q.payload = v.2.2) :=
  ⟨⟨layered layer (layerExec layer) (working 0 []) .idle, 5, 0, 0, 0, _, _, _, column 0 true, layered_has _ _ _ _,
      by decide +kernel, by decide +kernel, by decide +kernel, by decide +kernel⟩,
    fun asleep => ⟨{ arrivedTile ([], []) false with refreshing := if asleep then [stackOf (5 * 2 ^ 30)] else [] }, 5, 0, 0, 0, _, _, _,
      asked ([], []) false, 5 * 2 ^ 30, (oneTile.take 64, [7]), ⟨rfl, by decide, by decide, rfl, rfl⟩, by revert asleep; decide +kernel,
      by revert asleep; decide +kernel, by revert asleep; decide +kernel, by revert asleep; decide +kernel⟩,
    fun v h => ⟨arrivedTile v.1 v.2.1, 5, 0, 0, 0, _, _, _, asked v.1 v.2.1, column 1 true, layered_has _ _ _ _,
      by revert v; decide +kernel, by revert v; decide +kernel, by rfl, rfl, by revert v; decide +kernel⟩⟩


/-- A checked tile of column 0's first K tile. -/
def passed (got : Bytes × Bytes) : QTile := { asked got false with checked := true }

/-- A register of the first K tile of column 0: a weight of 7 in its first PE. -/
def reg : LaneReg := { ordinal := 0, tile := 0, pes := [{ Pe.empty with w0 := naf 7 }] }

/-- An array with a column in work and its lane 127 as given. -/
def lane127 (x : Lane) : ArrayState := { working 1 [] with lanes := [(127, x)] }

/-- Table mode: one position, one residency. -/
def tableLayer : LayerStep := { layer with format := 4, k := 512 }

/-- Tiles of a residency, the second's HALF as given. -/
def halves (second : Bool) : List QTile :=
  let h : TileHdr := { TileHdr.blank with format := 4 }
  [passed (h.sealedLine [], []), { passed ({ h with half := second }.sealedLine [], []) with half := 1 }]

theorem test_hyps_lane_loads :
    (∀ n ∈ [0, 63], ∃ (s : State) (k a rid i : Nat) (e : LayerExec) (r : Run) (x : Route) (t : QTile) (c : Column), s.HasLayer k a rid i e r x ∧
      ((s.core k).array a).queue = [t] ∧ t.checked = true ∧ ((s.core k).array a).columnOf t.ordinal = some c ∧
      e.layer.isTable = false ∧ ((s.core k).array a).loading = n ∧ (((s.core k).array a).lane (2 * n)).shadow = none ∧
      (((s.core k).array a).lane (2 * n + 1)).shadow = none ∧ (e.load c t (2 * n)).drops = 0 ∧
      (e.load c t (2 * n + 1)).drops = 0) ∧
    (∃ (s : State) (k a rid i : Nat) (e : LayerExec) (r : Run) (x : Route), s.HasLayer k a rid i e r x ∧
      (((s.core k).array a).lane (2 * ((s.core k).array a).loading + 1)).shadow.isSome = true) ∧
    (∀ b : Bool, ∃ (s : State) (k a rid i : Nat) (e : LayerExec) (r : Run) (x : Route) (l : Nat) (c : Column) (g : LaneReg),
      s.HasLayer k a rid i e r x ∧ l < 128 ∧ ((s.core k).array a).column = some c ∧
      (((s.core k).array a).lane l).shadow = some g ∧ g.ordinal = c.ordinal ∧ e.claimsShared = false ∧
      e.switches c (((s.core k).array a).lane l) g = b) ∧
    (∃ (s : State) (k a rid i : Nat) (e : LayerExec) (r : Run) (x : Route) (l : Nat) (c : Column) (g : LaneReg),
      s.HasLayer k a rid i e r x ∧ l < 128 ∧ ((s.core k).array a).column = none ∧ ((s.core k).array a).next = some c ∧
      (((s.core k).array a).lane l).shadow = some g ∧ e.claimsShared = false ∧ e.switches c (((s.core k).array a).lane l) g = true) ∧
    (∀ b : Bool, ∃ (s : State) (k a rid i : Nat) (e : LayerExec) (r : Run) (x : Route) (t u : QTile) (c : Column),
      s.HasLayer k a rid i e r x ∧ ((s.core k).array a).queue = [t, u] ∧ ((s.core k).array a).column = some c ∧
      e.layer.isTable = true ∧ t.checked = true ∧ u.checked = true ∧ t.ordinal = c.ordinal ∧ u.ordinal = c.ordinal ∧
      e.claimsShared = false ∧ (∀ l, l < 128 → (((s.core k).array a).lane l).tileDone c (e.perTile c) = true) ∧
      isResidency t u = b) :=
  ⟨fun n h => ⟨layered layer (layerExec layer) { working 1 [passed (goodTile 0 0 true)] with loading := n } .idle, 5, 0, 0, 0, _, _, _,
      passed (goodTile 0 0 true), column 1 true, layered_has _ _ _ _, by rfl, by rfl, by revert n; decide +kernel, by decide +kernel,
      by rfl, by revert n; decide +kernel, by revert n; decide +kernel, by revert n; decide +kernel, by revert n; decide +kernel⟩,
    ⟨layered layer (layerExec layer) { lane127 { Lane.idle with shadow := some reg } with loading := 63 } .idle, 5, 0, 0, 0, _, _, _,
      layered_has _ _ _ _, by decide +kernel⟩,
    fun b => ⟨layered layer (layerExec layer)
        (lane127 { Lane.idle with shadow := some reg, active := if b then none else some reg }) .idle, 5, 0, 0, 0, _, _, _, 127,
      column 1 true, reg, layered_has _ _ _ _, by decide, by rfl, by revert b; decide, by rfl, by decide +kernel,
      by revert b; decide +kernel⟩,
    ⟨layered layer (layerExec layer) { lane127 { Lane.idle with shadow := some { reg with ordinal := 1 } } with
        column := none, next := some { column 0 true with ordinal := 1 } } .idle, 5, 0, 0, 0, _, _, _, 127,
      { column 0 true with ordinal := 1 }, { reg with ordinal := 1 }, layered_has _ _ _ _, by decide, by rfl, by rfl, by decide,
      by decide +kernel, by decide +kernel⟩,
    fun b => ⟨layered tableLayer (layerExec tableLayer) (working 2 (halves b)) .idle, 5, 0, 0, 0, _, _, _,
      ((halves b).head?).getD (asked ([], []) false), ((halves b)[1]?).getD (asked ([], []) false), column 2 true,
      layered_has _ _ _ _, by rfl, by rfl, by decide +kernel, by rfl, by rfl, by rfl, by rfl, by decide +kernel,
      by revert b; decide +kernel, by revert b; decide +kernel⟩⟩

/-- A vector of a band's stream. -/
def vector (tile : Nat) : StreamVec := { sweep := 0, tile := tile, pos := 0, values := [1] }

theorem test_hyps_bands :
    (∃ (s : State) (k a rid i : Nat) (e : LayerExec) (r : Run) (x : Route) (b j : Nat) (u : State)
      (vs : List Int), s.HasLayer k a rid i e r x ∧
      b < 12 ∧ e.bandBlock b = some j ∧ e.finished = false ∧ ((s.core k).band b).fifo.length < 16 ∧
      ((s.core k).band b).tile = 0 ∧ ((s.core k).band b).pos = 0 ∧ (s.core k).sweepBegins b ((s.core k).band b).sweep = true ∧
      s.awaits k r e j ((s.core k).band b).tile = false ∧
      s.streamVector k x e j ((s.core k).band b).tile ((s.core k).band b).pos = (u, .ok vs)) ∧
    (∃ (s : State) (k a rid i : Nat) (e : LayerExec) (r : Run) (x : Route) (b : Nat), s.HasLayer k a rid i e r x ∧ b < 12 ∧
      16 ≤ ((s.core k).band b).fifo.length) ∧
    (∃ (s : State) (k a rid i : Nat) (e : LayerExec) (r : Run) (x : Route) (c : Column) (v : StreamVec), s.HasLayer k a rid i e r x ∧
      ((s.core k).array a).column = some c ∧ ((s.core k).band c.band).fifoBase ≤ ((s.core k).array a).feedAt ∧
      ((s.core k).band c.band).fifo[((s.core k).array a).feedAt - ((s.core k).band c.band).fifoBase]? = some v ∧
      ((s.core k).array a).feedAt < (c.sweep + 1) * e.sweepLength c.block) ∧
    (∃ (e : LayerExec) (q : ArrayState) (c : Column) (v : StreamVec), q.fed.length < 8 ∧ e.layer.transposed = false ∧
      c.first ≤ v.tile ∧ v.tile < c.first + c.tiles) :=
  ⟨let ⟨u, vs, h, _⟩ := ok_pair (q := (layered layer (layerExec layer) (working 1 []) .idle).streamVector 5 layerRoute (layerExec layer) 0 0 0)
      (p := fun _ => true) (by decide +kernel)
   ⟨layered layer (layerExec layer) (working 1 []) .idle, 5, 0, 0, 0, layerExec layer, layerRun layer, layerRoute, 0, 0, u, vs,
      layered_has _ _ _ _, by decide, by decide +kernel, by decide +kernel, by decide +kernel, by decide +kernel, by decide +kernel,
      by decide +kernel, by decide +kernel, h⟩,
    ⟨layered layer (layerExec layer) (working 1 []) { BandState.idle with fifo := List.replicate 16 (vector 0) }, 5, 0, 0, 0, _, _, _, 0,
      layered_has _ _ _ _, by decide, by decide +kernel⟩,
    ⟨layered layer (layerExec layer) { working 1 [] with feedAt := 1 }
        { BandState.idle with fifo := [vector 1], fifoBase := 1, tile := 1 }, 5, 0, 0, 0, _, _, _,
      column 1 true, vector 1, layered_has _ _ _ _, by rfl, by decide +kernel, by decide +kernel, by decide +kernel⟩,
    ⟨layerExec layer, .idle, column 0 true, vector 1, by decide +kernel⟩⟩

/-- One entry of the lane FIFOs. -/
def fed : Fed := { tile := 0, pos := 0, slice := 0, values := [3] }

/-- An array whose slot 0 fills. -/
def filling (x : Lane) (f : List Fed) : ArrayState :=
  { lane127 x with fed := f, slots := [{ Slot.empty with role := .filling, column := some (column 1 true) }] }

theorem test_hyps_lane_steps :
    (∃ (s : State) (k a rid i : Nat) (e : LayerExec) (r : Run) (x : Route) (l : Nat) (c : Column) (v : Fed) (g : LaneReg)
      (p : Nat × Nat × Nat) (rest : List (Nat × Nat × Nat)), s.HasLayer k a rid i e r x ∧ l < 128 ∧
      ((s.core k).array a).column = some c ∧ ((s.core k).array a).entryOf c l = some (v, g) ∧ e.layer.transposed = false ∧
      e.schedule c l v g = (e.schedule c l v g).take (((s.core k).array a).lane l).stepNo ++ p :: rest ∧ rest ≠ [] ∧
      (((s.core k).array a).lane l).stepNo = ((e.schedule c l v g).take (((s.core k).array a).lane l).stepNo).length) ∧
    (∃ n : Lane, Tab.wf 0 n.runs = true) ∧
    (∃ (s : State) (k a rid i : Nat) (e : LayerExec) (r : Run) (x : Route) (l j : Nat), s.HasLayer k a rid i e r x ∧ l < 128 ∧
      (((s.core k).array a).lane l).due ≠ [] ∧ e.estimating = false ∧
      ((s.core k).array a).fillSlot = some j) :=
  ⟨⟨layered layer (layerExec layer) (filling { Lane.idle with active := some reg } [fed]) .idle, 5, 0, 0, 0, _, _, _, 127,
      column 1 true, fed, reg, (0, 0, 0), [(0, 0, 1)], layered_has _ _ _ _, by decide, by rfl, by decide +kernel,
      by decide +kernel, by decide +kernel, by decide, by decide +kernel⟩,
    ⟨.idle, by decide⟩,
    ⟨layered layer (layerExec layer) (filling { Lane.idle with due := [0] } []) .idle, 5, 0, 0, 0, _, _, _, 127, 0,
      layered_has _ _ _ _, by decide, by decide +kernel, by decide +kernel, by decide +kernel⟩⟩

/-- R28, R29: a weight of 7 = 8 − 1 and an activation of 3 give −3 and then 24. -/
theorem test_lane_sums : (laneSum layer reg.pes [3] 0 (0, 0, 0), laneSum layer reg.pes [3] 0 (0, 0, 1)) = (-3, 24) := by
  decide +kernel

/-- A layer step of three positions that writes nothing. -/
def silent : LayerStep := { layer with p := 3, noWrite := true, scaleStage := false }

/-- Core 5 has dispatched a layer step; the other steps of its run, its route and what the core does as given. -/
def readied (more : List RouteStep) (x : Route) (running : Running) : State :=
  { mapped with
    runs := [(0, { Run.fresh 0 (.command 1) (.layer { layer with resident := 5 } :: more) with started := true })]
    routes := [(0, x)], cores := [(5, { Core.reset with queue := [0], running := running })] }

/-- A stream of core 0 whose result is the first byte of handle 0. -/
def resulting : Stream := { stream 1 with desc := { decodeDesc (desc 1) with noResult := false, outLen := 1 } }

/-- The run of a frame with nothing left to do. -/
def handed : Run := Run.fresh 0 (.frame 63 1 0 500) []

/-- A stream that hands its frame's result over at a time, its port with an address and neighbours as given. -/
def handing (now : Nat) (own : Option (Nat × Nat)) (near : List (Nat × Nat)) : State :=
  { playing now resulting [(0, handed)] with
    cores := [(0, { Core.reset with handles := [(0, (⟨1, 1, 0⟩, 0))] })]
    ports := [(0, { Port.reset with
      up := true, neighbours := near, addressing := { Addressing.reset 0 with ipv4 := own } })] }

theorem test_hyps_layer_steps :
    (∀ v ∈ [({ layerRoute with exact := true }, [RouteStep.layer { layer with condition := 3, predA := 5 }]), (layerRoute, [])],
      ∃ (s : State) (k rid i : Nat) (l : LayerStep) (r : Run) (x : Route), s.working = true ∧ k < 6 ∧
        s.readyStep k = some (rid, i, .layer l) ∧ s.run rid = some r ∧ s.route r.route = some x ∧ x.exact = v.1.exact ∧
        (v.1.exact = true → isPredictor r.steps x.cascade l = true)) ∧
    (∃ (s : State) (k : Nat) (e : LayerExec) (r : Run) (x : Route) (b a j : Nat) (q : Slot) (c : Column), s.working = true ∧
      k < 6 ∧ b < 12 ∧ (s.core k).drainHead b = some (a, j, q, c) ∧ (s.core k).execFor q.run q.step = some e ∧
      s.routeOf q.run = some (r, x) ∧ 0 < ((s.core k).band b).drainPos ∧
      ((s.core k).band b).drainPos + 1 < e.layer.positions c.block ∧
      (let u := (s.perturbedOn k 1 3).onCore k (e.askDrain b c ((s.core k).band b).drainPos)
       ((u.drainPosition k q.run x r (((u.core k).execFor q.run q.step).getD e) q c ((s.core k).band b).drainPos false).run
          q.run).isSome) = true) ∧
    (∃ (s : State) (k rid i : Nat), s.working = true ∧ k < 6 ∧ (s.core k).running = .vectorDone rid i) ∧
    (∀ f : Bool, ∃ (s : State) (k : Nat) (e : LayerExec) (r : Run) (x : Route), s.working = true ∧ k < 6 ∧
      (∀ n m, (s.core k).running ≠ .vectorDone n m) ∧ s.layerDue k = some e ∧ s.routeOf e.run = some (r, x) ∧
      (if f then ∀ c ∈ bitsOf 6 e.layer.cores, s.layerReady e.run e.step c = true
        else ∃ c ∈ bitsOf 6 e.layer.cores, s.layerReady e.run e.step c = false)) ∧
    (∀ late : Bool, ∃ (s : State) (n : Nat) (x : Stream) (rid : Nat) (r : Run) (f : Nat) (b : Bytes),
      s.working = true ∧ n < 64 ∧ s.stream n = some x ∧ s.handing n = some (rid, r, f) ∧ x.desc.noResult = false ∧
      (s.missed r).isSome = late ∧
      (s.core x.core).readPad x.desc.outHandle x.desc.outOffset x.desc.outLen = some b) ∧
    (∀ near : Bool, ∃ (s : State) (port peer : Nat) (v6 : Bool), (s.resolved port v6 peer).isSome = near) :=
  ⟨fun v h => ⟨readied v.2 v.1 (.ready 0 0), 5, 0, 0, { layer with resident := 5 },
      { Run.fresh 0 (.command 1) (.layer { layer with resident := 5 } :: v.2) with started := true }, v.1, rfl,
      by decide, rfl, rfl, rfl, rfl, by revert v; decide +kernel⟩,
    ⟨layered silent (layerExec silent) (filling .idle []) { BandState.idle with drain := [(0, 0)], drainPos := 1 }, 5, _, _, _,
      0, 0, 0, _, column 1 true, by decide +kernel, by decide, by decide, rfl, rfl, rfl, by decide +kernel, by decide +kernel,
      by decide +kernel⟩,
    ⟨readied [] layerRoute (.vectorDone 0 0), 5, 0, 0, by decide +kernel⟩,
    fun f => ⟨layered layer { layerExec layer with finished := f } .idle .idle, 5, _, _, _, rfl, by decide, nofun, rfl, rfl,
      by revert f; decide +kernel⟩,
    fun late => ⟨handing (if late then 501 else 500) none [], 63, resulting, 0, handed, 1, [0], by revert late; decide +kernel⟩,
    fun near => ⟨handing 0 (some (1, 24)) (if near then [(hopKey false 0, 7)] else []), 0, 0, false,
      by revert near; decide +kernel⟩⟩

/-- R340, R347, Table 16-2: a peer inside the prefix is its own next hop, one outside goes to the gateway, and without
a gateway, or an own address of its family, there is no next hop. Addresses 10.20.0.9/24, 10.20.0.5 and 10.21.0.5. -/
theorem test_next_hop :
    let a := { Addressing.reset 0 with ipv4 := some (0x0A140009, 24) }
    let b := { Addressing.reset 0 with v6Hi := some 7, v6Lo := some 1, gw6Hi := some 7, gw6Lo := some 2 }
    (a.nextHop false 0x0A140005, a.nextHop false 0x0A150005, { a with gw4 := some 0x0A140001 }.nextHop false 0x0A150005,
      a.nextHop true 5, b.nextHop true (7 * 2 ^ 64 + 3), b.nextHop true 5) =
    (some 0x0A140005, none, some 0x0A140001, none, some (7 * 2 ^ 64 + 3), some (7 * 2 ^ 64 + 2)) := by decide +kernel


/-! ### Scatter groups -/

/-- R122: with four ways taken the least recent entry is spilled. -/
theorem test_pigeonhole_spills : updateSet [(4, 1), (3, 1), (2, 1), (1, 1)] 5 7 = ([(5, 7), (4, 1), (3, 1), (2, 1)], some (1, 1), 0) := by
  decide

/-- R123: a held key takes the limited sum and becomes the most recent. -/
theorem test_pigeonhole_adds : updateSet [(4, 1), (3, 2 ^ 31 - 1)] 3 1 = ([(3, 2 ^ 31 - 1), (4, 1)], none, 1) := by decide

theorem test_hyps_pigeonholes :
    (∃ (w : List (Nat × Int)) (k : Nat), w.length ≤ 4 ∧ (w.map (·.1)).Nodup ∧ (k, 7) ∈ w) ∧
    (∃ (w : List (Nat × Int)) (k : Nat), w.length < 4 ∧ (w.map (·.1)).Nodup ∧ k ∉ w.map (·.1)) ∧
    (∃ (w : List (Nat × Int)) (k : Nat), w = [(1, 0), (2, 0), (3, 0), (4, 0)] ∧ (w.map (·.1)).Nodup ∧ k ∉ w.map (·.1)) :=
  ⟨⟨[(5, 7)], 5, by decide⟩, ⟨[], 5, by decide⟩, ⟨_, 5, rfl, by decide, by decide⟩⟩

/-- A group into a destination of 10 INT32 elements. -/
def group (sorting : Bool) (waiting spills : List Record) (count : Nat) (phase : ScatterPhase) : Scatter :=
  { destH := 0, destOff := 0, destCount := 10, isFp := false, sorting := sorting, sackH := 0, mergeH := 0, capacity := 4,
    sackCount := count, waiting := waiting, spills := spills, issued := true, phase := phase }

/-- Core 5 with a scatter group open in a run's SCATTER_ADD. -/
def grouped (g : Scatter) : State :=
  { queued 0 .idle (.vector (vectorStep .scatterAdd)) true with
    cores := [(5, { Core.reset with running := .scattering 0 0, scatter := some g, handles := [(0, (⟨1, 64, 0⟩, 0))] })] }

theorem grouped_holds (g : Scatter) : (grouped g).working = true ∧ (5 : Nat) < 6 ∧ ((grouped g).core 5).scatter = some g ∧
    (grouped g).scatterRun 5 = some 0 := ⟨rfl, by decide, rfl, rfl⟩

theorem test_hyps_scatter :
    (∀ key ∈ [9, 10], ∃ (g : Scatter) (b : Nat) (r : Record), (grouped g).scatterRun 5 = some 0 ∧ b < 16 ∧ g.sorting = false ∧
      g.waiting.find? (fun r => pigeonBank (pigeonSet r.key) == b) = some r ∧ r.key = key ∧ g.destCount = 10) ∧
    (∀ v ∈ [(true, 3), (true, 4), (false, 3), (false, 4)], ∃ (g : Scatter) (r : Record), (grouped g).scatterRun 5 = some 0 ∧
      (if v.1 then g.sorting = true ∧ g.waiting = [r] ∧ r.key < g.destCount else g.sorting = false ∧ g.spills = [r]) ∧
      g.sackCount = v.2 ∧ g.capacity = 4) ∧
    (∀ b : Bool, ∃ g : Scatter, (grouped g).scatterRun 5 = some 0 ∧ ((grouped g).core 5).canClose g = b) ∧
    (∃ (g : Scatter) (runs : List (List Record)) (n : Nat), g.phase = .merging runs n ∧ 1 < (mergePass g.sorting runs).1.length) ∧
    (∀ b : Bool, ∃ (g : Scatter) (runs : List (List Record)) (n : Nat), g.phase = .merging runs n ∧
      (mergePass g.sorting runs).1.length ≤ 1 ∧
      ((mergePass g.sorting runs).1.flatten.foldlM (fun q r => Core.addTo q g r)
        ((((grouped g).perturbedOn 5 1 5).countSats 5 0 (mergePass g.sorting runs).2).core 5, 0)).isSome = b) :=
  ⟨fun key h => ⟨group false [⟨key, 1, 0⟩] [] 0 .updating, key, ⟨key, 1, 0⟩, rfl, by revert key; decide +kernel, rfl,
      by revert key; decide +kernel, rfl, rfl⟩,
    fun v h => ⟨group v.1 (if v.1 then [⟨9, 1, 0⟩] else []) (if v.1 then [] else [⟨9, 1, 0⟩]) v.2 .updating, ⟨9, 1, 0⟩, rfl,
      by revert v; decide +kernel, rfl, rfl⟩,
    fun b => ⟨group false [] (if b then [] else [⟨9, 1, 0⟩]) 0 .updating, rfl, by revert b; decide +kernel⟩,
    ⟨group false [] [] 0 (.merging (List.replicate 17 [⟨9, 1, 0⟩]) 0), _, 0, rfl, by decide +kernel⟩,
    fun b => ⟨{ group false [] [] 0 (.merging [[⟨9, 1, 0⟩]] 0) with destH := if b then 0 else 1 }, _, 0, rfl, by revert b; decide +kernel,
      by revert b; decide +kernel⟩⟩

/-! ### Scratchpads and memory stacks -/

/-- Core 5 of partition 1 with an open letterbox 0 of one slot. -/
def boxed (delivery : Nat) (ls : List Landing) : State :=
  { control .idle (.openBox 5 0) delivery 0 [] [] with
    parts := [(1, { quota 1 with cores := 63 })]
    cores := [(5, { ((control .idle (.openBox 5 0) delivery 0 [] []).core 5) with landings := ls })] }

/-- A write of core 0's of a number of bytes. -/
def offered (n : Nat) : BoxWrite :=
  { sender := 0xFFFF, box := 0, offset := 0, data := zeros n, postmark := none, teller := .command 0 }

theorem test_hyps_letterbox_writes :
    (∃ (s : State) (k : Nat) (w : BoxOffer), s.working = true ∧ k < 6 ∧ w.core < 6 ∧ ∃ b : BoxWrite,
      s.boxChecks k b ≠ 0 ∧ b.postmark = none) ∧
    (∃ (s : State) (k : Nat) (b : BoxWrite) (x : Letterbox), s.boxChecks k b = 0 ∧ b.postmark = none ∧
      Tab.find b.box (s.core k).boxes = some x) :=
  ⟨⟨boxed 1 [], 5, { core := 0, box := 0, offset := 0, data := [], postmark := none }, by decide +kernel, by decide, by decide,
      offered 64, by decide +kernel, rfl⟩,
    ⟨boxed 0 [], 5, offered 64, _, by decide +kernel, rfl, rfl⟩⟩

/-- R201: a write longer than its slot fails check 3, and one to a full letterbox check 4. -/
theorem test_letterbox_checks : ((boxed 0 []).boxChecks 5 (offered 65), (boxed 1 []).boxChecks 5 (offered 64)) = (3, 4) := by
  decide +kernel

theorem test_hyps_delivery :
    (∃ (s : State) (k n : Nat) (l : Landing) (b : Letterbox), s.health.halt = none ∧ k < 6 ∧
      (s.core k).landings.find? (fun l => l.id == n && l.linesLeft == 0) = some l ∧ Tab.find l.box (s.core k).boxes = some b) ∧
    (∃ (s : State) (k n : Nat), s.health.halt = none ∧ k < 6 ∧
      (s.core k).landings.find? (fun l => l.id == n && l.linesLeft == 0) = none) ∧
    (∃ x : Letterbox, x.consumed < 2 ^ 32 ∧ x.delivery < 2 ^ 32) :=
  ⟨⟨boxed (2 ^ 32 - 1) [⟨3, 0, 0, .command 0⟩], 5, 3, ⟨3, 0, 0, .command 0⟩, _, by decide, by decide, by decide, rfl⟩,
    ⟨boxed 0 [⟨3, 0, 1, .command 0⟩], 5, 3, by decide, by decide, by decide⟩,
    ⟨{ Letterbox.ofShape boxShape with delivery := 2 ^ 32 - 1 }, by decide⟩⟩

/-- Core 5 with bank 63 as given, and requests waiting. -/
def banked (p : BankPower) (rs : List BankReq) : State :=
  { idle with cores := [(5, { Core.reset with banks := [(63, p)], reqs := rs })] }

/-- An access of a class to the last row of bank 63. -/
def access (cls : Nat) : BankReq :=
  { bank := 63, cls := cls, requester := 0, row := 24575, offset := 63, data := [7], landing := some 0 }

theorem test_hyps_banks :
    (∃ (s : State) (k b : Nat) (r : BankReq), k < 6 ∧ b < 64 ∧ s.health.halt = none ∧ (s.core k).granted b = some r ∧
      Tab.wf 0 (s.core k).pad = true) ∧
    (∃ (s : State) (k b : Nat), k < 6 ∧ b < 64 ∧ Tab.getD .off (s.core k).banks b = .draining ∧
      (∀ r ∈ (s.core k).reqs, r.bank ≠ b) ∧ (s.core k).bankUsed b = false) ∧
    (∃ (s : State) (k b : Nat), k < 6 ∧ b < 64 ∧ Tab.getD .off (s.core k).banks b = .rising) ∧
    (∃ m : ByteStore, Tab.wf 0 m = true) :=
  ⟨⟨banked .on [access 5, access 1], 5, 63, access 1, by decide, by decide, rfl, by decide, rfl⟩,
    ⟨banked .draining [], 5, 63, by decide, by decide, rfl, by decide, by decide⟩,
    ⟨banked .rising [], 5, 63, by decide, by decide, rfl⟩, ⟨[(5, 1)], by decide⟩⟩

theorem test_hyps_stacks :
    (∃ (s : State) (n : Nat), n < 16 ∧ s.working = true ∧ s.streams = [] ∧ n ∉ s.refreshing ∧ Tab.getD 0 s.memUsed n + 100000 ≤ s.now) ∧
    (∃ (s : State) (n : Nat), n < 16 ∧ s.streams ≠ []) ∧
    (∃ (s : State) (n : Nat), n < 16 ∧ s.now < Tab.getD 0 s.memUsed n + 100000) ∧ (∃ (s : State) (n : Nat), n < 16 ∧ n ∈ s.refreshing) :=
  ⟨⟨{ idle with memUsed := [(15, 5)], time := { idle.time with ns := 100005 } }, 15, by decide⟩,
    ⟨playing 0 (stream 1) [], 15, by decide, by decide⟩,
    ⟨{ idle with memUsed := [(15, 5)], time := { idle.time with ns := 100004 } }, 15, by decide⟩,
    ⟨{ idle with refreshing := [15] }, 15, by decide⟩⟩


/-! ### Links -/

/-- A device 1 that offers versions at a port. -/
def hello (low high : Nat) (ok : Bool) : PeerHello :=
  { lowVersion := low, highVersion := high, device := 1, master := false, certificateOk := ok, serialOk := true, keyMaterial := [] }

/-- A flit in a replay buffer. -/
def flit : FlitOut := { kind := 4, cls := 0, creditClass := 0, credit := 0, payload := [] }

/-- A link of version 1.2, with replays done and perhaps retraining. -/
def link (replays : Nat) (retraining : Bool) : Link :=
  { Link.fresh 0 0 0 0x12 (hello 0x10 0x12 true) with replay := [flit], replays := replays, retraining := retraining }

/-- Device 0 with a link at port 0, at a time. -/
def linked (l : Option Link) (now : Nat) : State :=
  { idle with ports := [(0, { Port.reset with up := l.isSome, link := l })], time := { idle.time with ns := now } }

theorem test_hyps_links :
    (∀ v ∈ [(hello 0x10 0x12 false, false, none), (hello 0x13 0x13 true, true, none), (hello 0x11 0x13 true, true, some 0x12)],
      ∃ (s : State) (p : Nat), p < 16 ∧ s.linking = true ∧ (s.port p).ethernet = false ∧ (s.port p).up = false ∧
        portPeer s.cascade.device p = some v.1.device ∧ v.1.serialOk = true ∧ v.1.certificateOk = v.2.1 ∧
        (v.2.1 = true → sharedPlink v.1 = v.2.2)) ∧
    (∀ n ∈ [15, 16], ∃ (s : State) (p : Nat) (l : Link), p < 16 ∧ (s.port p).link = some l ∧ l.ackTime + 1000 ≤ s.now ∧
      l.retraining = false ∧ l.replay ≠ [] ∧ l.replays = n) ∧
    (∀ t ∈ [5000000, 4999999], ∃ (s : State) (p : Nat) (l : Link), p < 16 ∧ (s.port p).link = some l ∧ l.retraining = true ∧
      s.now = l.ackTime + t) ∧
    (∃ (s : State) (p : Nat), p < 16 ∧ s.standby = true ∧ (s.port p).up = true ∧ (s.port p).link = none) ∧
    (∃ (s : State) (p : Nat), p < 16 ∧ s.linking = true ∧ (s.port p).ethernet = true ∧ (s.port p).up = false) ∧
    (∃ s : State, s.standby = true) :=
  ⟨fun v h => ⟨idle, 0, by decide, rfl, rfl, rfl, by revert v; decide +kernel, by revert v; decide, by revert v; decide,
      by revert v; decide +kernel⟩,
    fun n h => ⟨linked (some (link n false)) 1000, 0, link n false, by decide, rfl, by revert n; decide, rfl,
      by revert n; decide, rfl⟩,
    fun t h => ⟨linked (some (link 0 true)) t, 0, link 0 true, by decide, rfl, rfl, (Nat.zero_add t).symm⟩,
    ⟨{ idle with ports := [(15, { Port.reset with up := true })] }, 15, by decide⟩,
    ⟨{ idle with ports := [(15, { Port.reset with ethernet := true })] }, 15, by decide⟩, ⟨idle, by decide⟩⟩

/-- Table 17-1: port 7 of node 0 leads nowhere, and port 8 to the same position of the next node. -/
theorem test_port_peers : (portPeer 3 7, portPeer 3 8, portPeer 3 6) = (none, some 11, some 2) := by decide

theorem crc_zeros (n : Nat) : crc64 (List.replicate n 0) = 0 := by
  unfold crc64
  induction n with
  | zero => rfl
  | succ n ih =>
    rw [List.replicate_succ, crcFrom, show crcShift 8 (0 ^^^ ((0 : Byte).toNat * 2 ^ 56)) = 0 by decide +kernel, ih]

theorem zeros_cut (n : Nat) (b : Bytes) : slice (zeros n ++ b) 0 n = List.replicate n 0 := by simp [slice, zeros]

/-- An ONLY flit of SEQ 1, all else 0, with its checksum. -/
def flitOne : Bytes := ([0x04, 0x01] ++ zeros 60) ++ (zeros 62 ++ (zeros 62 ++ zeros 62)) ++ leBytes 8 13058453468106277480

theorem crc_append (c : Nat) (a b : Bytes) : crcFrom c (a ++ b) = crcFrom (crcFrom c a) b := by
  induction a generalizing c with
  | nil => rfl
  | cons x a ih => exact ih _

theorem flitOne_crc : crc64 (slice flitOne 0 248) = leAt flitOne 248 8 := by
  rw [show slice flitOne 0 248 = ([0x04, 0x01] ++ zeros 60) ++ (zeros 62 ++ (zeros 62 ++ zeros 62)) by
    decide +kernel]
  unfold crc64
  rw [crc_append, crc_append, crc_append,
    show crcFrom 0 ([0x04, 0x01] ++ zeros 60) = 11774498687639839100 by decide +kernel,
    show crcFrom 11774498687639839100 (zeros 62) = 1479036481654792684 by decide +kernel,
    show crcFrom 1479036481654792684 (zeros 62) = 1619000589507456345 by decide +kernel]
  decide +kernel

theorem test_hyps_flits :
    (∃ (s : State) (p : Nat), p < 16 ∧ s.working = true) ∧
    (∀ v ∈ [(0x10, false), (0x12, true), (0x12, false)], ∃ (s : State) (p : Nat) (raw : Bytes) (l : Link),
      (s.port p).link = some l ∧ crc64 (slice raw 0 248) ≠ leAt raw 248 8 ∧ l.version = v.1 ∧ l.nakSent = v.2) ∧
    (∃ (s : State) (p : Nat) (raw : Bytes) (l : Link), (s.port p).link = some l ∧
      crc64 (slice raw 0 248) = leAt raw 248 8 ∧ field (leAt (slice raw 0 248) 0 8) 3 0 ≠ 0 ∧
      field (leAt (slice raw 0 248) 0 8) 19 8 ≠ l.expected ∧ bitOf (leAt (slice raw 0 248) 0 8) 6 = false) ∧
    (∃ (l : Link) (n ack : Nat), ack < 4096 ∧ l.ackSeq < 4096 ∧ n ≤ l.replay.length ∧ l.replay.length < 4096 ∧
      ack = (l.ackSeq + n) % 4096) ∧
    (∃ l : Link, ∀ d, l.credits.getD d 0 ≤ classBuffers.getD d 0) :=
  ⟨⟨idle, 15, by decide⟩,
    fun v h => ⟨linked (some { link 0 false with version := v.1, nakSent := v.2 }) 0, 0, zeros 248 ++ [1], _, rfl,
      by rw [show slice (zeros 248 ++ [1]) 0 248 = List.replicate 248 0 from zeros_cut 248 [1], crc_zeros]; decide +kernel, rfl, rfl⟩,
    ⟨linked (some (link 0 false)) 0, 0, flitOne, link 0 false, rfl, flitOne_crc, by decide +kernel,
      by decide +kernel, by decide +kernel⟩,
    ⟨{ link 0 false with ackSeq := 4095 }, 1, 0, by decide⟩, ⟨link 0 false, fun _ => Nat.le_refl _⟩⟩

theorem test_hyps_paths : (0 < 64 ∧ 63 < 64 ∧ 0 ≠ 63) ∧ (0 / 8 < 63 / 8) ∧ (3 / 8 = 4 / 8) := by decide

/-! ### Messages of the cascade -/

/-- Device 0 of a cascade of two, whose master is given, with one message taken in. -/
def hearsFrom (master : Nat) (m : Message) (s : State) : State :=
  { s with cascade := { s.cascade with members := 3, master := some master, arrived := [m] } }

/-- A message of device 1 for core 5 here. -/
def message (type arg : Nat) (payload : Bytes) : Message :=
  { Message.plain type 1 0 arg payload with dstCore := 5, partition := 1, box := 0 }

/-- The state once the one message has been taken. -/
def taken (s : State) : State := { s with cascade := { s.cascade with arrived := [] } }

/-- A command relayed to device 1. -/
def relayed : Cmd :=
  { cmd 0x0103 0 [] with phase := .relayed, packet := { packet 0x0103 0 [] with target := 1 } }

theorem test_hyps_relay :
    (∀ n ∈ [1, 0], ∃ (s t : State) (m : Message), s.working = true ∧ s.takeArrived (fun m => m.type == 1) = some (m, t) ∧
      s.cascade.master = some n ∧ m.srcDevice = 1 ∧ s.cascade.masterLost = false) ∧
    (∃ (s t : State) (m : Message) (c : Cmd), s.working = true ∧ s.takeArrived (fun m => m.type == 2) = some (m, t) ∧
      s.cmd (field m.arg 63 8) = some c ∧ c.phase = .relayed ∧ c.packet.target = m.srcDevice ∧ c.fn = m.arg % 8) ∧
    (∃ (s t : State) (m : Message), s.working = true ∧ s.takeArrived (fun m => m.type == 2) = some (m, t) ∧
      s.cmd (field m.arg 63 8) = none) :=
  ⟨fun n _ => ⟨hearsFrom n (message 1 0 []) idle, taken (hearsFrom n (message 1 0 []) idle), message 1 0 [], rfl, rfl, rfl, rfl, rfl⟩,
    ⟨hearsFrom 0 (message 2 256 []) (holding idle relayed), taken (hearsFrom 0 (message 2 256 []) (holding idle relayed)),
      message 2 256 [], relayed, rfl, rfl, rfl, rfl, rfl, rfl⟩,
    ⟨hearsFrom 0 (message 2 256 []) idle, taken (hearsFrom 0 (message 2 256 []) idle), message 2 256 [], rfl, rfl, rfl⟩⟩

/-- Core 5 with a letterbox that names core 0 of device 1, whose lease device 1 holds; the claims it has seen. -/
def remote (delivery : Nat) (seen : List Nat) (running : Running) (m : Message) : State :=
  let s := boxed delivery []
  hearsFrom 0 m { s with
    leases := [{ kind := 1, holder := 1, resource := 5 * 2 ^ 8, expiry := 100, revoked := false }]
    cores := [(5, { s.core 5 with
      boxes := (s.core 5).boxes.map fun b => (b.1, { b.2 with shape := { b.2.shape with senders := [4 * 2 ^ 13 + 2 ^ 7] } })
      seen := [(100, (0, seen))], running := running })] }

/-- A LB_WRITE of claim 3 of counter 100. -/
def lbWrite : Message := { message 3 (4 * 2 ^ 13 + 2 ^ 7) [7] with postmark := 100 + 3 * 2 ^ 8 }

/-- The write it offers. -/
def lbOffer (s : State) (m : Message) : BoxWrite :=
  { sender := if s.senderHolds m.dstCore m then m.arg % 2 ^ 16 else 0, box := m.box, offset := m.offset, data := m.payload,
    postmark := if m.postmark = 0 then none else some m.postmark, teller := .peer m.srcDevice m.srcCore m.box m.postmark }

theorem test_hyps_remote_writes :
    (∃ (s t : State) (m : Message), s.working = true ∧ s.takeArrived (fun m => m.type == 3) = some (m, t) ∧ 6 ≤ m.dstCore) ∧
    (∀ v ∈ [(0, [], BoxAnswer.accepted), (1, [], .refused 4), (0, [3], .duplicate)], ∃ (s t u : State) (m : Message),
      s.working = true ∧ s.takeArrived (fun m => m.type == 3) = some (m, t) ∧ m.dstCore < 6 ∧
      t.offerWrite m.dstCore (lbOffer t m) = (v.2.2, u)) ∧
    (∀ a ∈ [0, 1, 2], ∃ (s t : State) (m : Message) (rid : Nat), s.working = true ∧
      s.takeArrived (fun m => m.type == 4) = some (m, t) ∧ m.dstCore < 6 ∧ (s.core m.dstCore).running.run = some rid ∧ m.arg % 4 = a) ∧
    (∃ (s t : State) (m : Message), s.working = true ∧ s.takeArrived (fun m => m.type == 4) = some (m, t) ∧ m.dstCore < 6 ∧
      (s.core m.dstCore).running.run = none) :=
  ⟨⟨remote 0 [] .idle { lbWrite with dstCore := 6 }, taken (remote 0 [] .idle { lbWrite with dstCore := 6 }),
      { lbWrite with dstCore := 6 }, rfl, rfl, by decide⟩,
    fun v h =>
      let ⟨u, hu⟩ := pair_of (a := v.2.2) (q := (taken (remote v.1 v.2.1 .idle lbWrite)).offerWrite 5
        (lbOffer (taken (remote v.1 v.2.1 .idle lbWrite)) lbWrite)) (by revert v; decide +kernel)
      ⟨remote v.1 v.2.1 .idle lbWrite, taken (remote v.1 v.2.1 .idle lbWrite), u, lbWrite, rfl, rfl, by decide, hu⟩,
    fun a h => ⟨remote 0 [] (.vectorDone 0 0) (message 4 a []), taken (remote 0 [] (.vectorDone 0 0) (message 4 a [])), message 4 a [],
      0, rfl, by revert a; decide +kernel, by revert a; decide, rfl, by revert a; decide⟩,
    ⟨remote 0 [] .idle (message 4 0 []), taken (remote 0 [] .idle (message 4 0 [])), message 4 0 [], rfl, rfl, by decide, rfl⟩⟩

/-- An armed counter of limit 5, of partition 1. -/
def counting (reissue : List Nat) (value : Nat) : Counter :=
  { Counter.reset with
    armed := true, limit := 5, owner := 1, reissue := reissue, value := value
    outstanding := [{ value := 3, device := 1, core := 5, array := 0, expiry := 100 }] }

/-- Core 5 waits in a SHARED step for the answer of device 1 to a claim of array 0. -/
def waiting (m : Message) : State :=
  let l := { layer with shared := true, homeDevice := 1, counter := 100 }
  hearsFrom 0 m { layered l (layerExec l) { ArrayState.idle with claiming := true } .idle with counters := [(100, counting [] 4)] }

theorem test_hyps_counters :
    (∀ v ∈ [([2], 4), ([], 4), ([], 5)], ∃ (c : Counter) (gen : Nat), c.armed = true ∧ gen = c.generation ∧ c.ganged = false ∧
      c.outstanding.length < 1024 ∧ c.reissue = v.1 ∧ c.value = v.2 ∧ c.limit = 5) ∧
    (∃ (c : Counter) (gen : Nat), gen = (c.generation + 1) % 2 ^ 16 ∧ gen ≠ c.generation ∧ c.generation = 65535) ∧
    (∃ (s t : State) (m : Message) (a : ClaimAnswer) (u : State), s.working = true ∧
      s.takeArrived (fun m => m.type == 5) = some (m, t) ∧ 72 ≤ m.arg % 256 ∧ (s.counter (m.arg % 256)).owner = m.partition ∧
      t.claim (m.arg % 256) { device := m.srcDevice, core := m.srcCore, array := field m.arg 30 24 } (field m.arg 23 8) 0 = (a, u)) ∧
    (∃ (s t : State) (m : Message) (rid i : Nat) (e : LayerExec), s.working = true ∧
      s.takeArrived (fun m => m.type == 6) = some (m, t) ∧ m.dstCore < 6 ∧ s.layerOn m.dstCore = some (rid, i, e) ∧
      ((s.core m.dstCore).array (m.offset % 128)).claiming = true ∧ e.claimsShared = true ∧ e.layer.homeDevice = m.srcDevice) ∧
    (∃ (s t : State) (m : Message), s.working = true ∧ s.takeArrived (fun m => m.type == 7) = some (m, t) ∧
      bitOf m.arg 40 = false ∧ 72 ≤ m.arg % 256 ∧ (s.counter (m.arg % 256)).outstanding.any
        (fun o => o.value == field m.arg 39 8 && o.device == m.srcDevice) = true) :=
  ⟨fun v h => ⟨counting v.1 v.2, 0, rfl, rfl, rfl, by decide +revert, rfl, rfl, rfl⟩,
    ⟨{ Counter.reset with generation := 65535 }, 0, by decide⟩,
    ⟨waiting (message 5 100 []), taken (waiting (message 5 100 [])), message 5 100 [], _, _, rfl, rfl, by decide, rfl, rfl⟩,
    ⟨waiting (message 6 4 []), taken (waiting (message 6 4 [])), message 6 4 [], 0, 0, _, rfl, rfl, by decide, rfl, by decide +kernel,
      by decide +kernel, rfl⟩,
    ⟨waiting (message 7 (100 + 3 * 2 ^ 8) []), taken (waiting (message 7 (100 + 3 * 2 ^ 8) [])), message 7 (100 + 3 * 2 ^ 8) [],
      rfl, rfl, by decide, by decide, by decide +kernel⟩⟩

/-- R254: a reissued value is taken before a new one. -/
theorem test_reissued_first : ((counting [2] 4).claim true 0 ⟨1, 5, 0⟩ 0 0).1 = .value 2 := by decide


/-! ### Gradient reduction -/

theorem read_append (m : ByteStore) (a n k : Nat) : readBytes m a (n + k) = readBytes m a n ++ readBytes m (a + n) k := by
  induction n generalizing a with
  | zero => simp [readBytes]
  | succ n ih => rw [Nat.succ_add, readBytes, ih, readBytes, List.cons_append, show a + 1 + n = a + (n + 1) by omega]

theorem read_unlisted (m : ByteStore) (a n : Nat) (h : ∀ y, a ≤ y → y < a + n → Tab.getD 0 m y = 0) :
    readBytes m a n = List.replicate n 0 := by
  induction n generalizing a with
  | zero => rfl
  | succ n ih =>
    rw [readBytes, h a (Nat.le_refl _) (by omega), ih _ fun y p q => h y (by omega) (by omega), List.replicate_succ]

/-- Header bytes 0 to 55 of a gradient tile (R379). -/
def gradHeader : Bytes :=
  { TileHdr.blank with element := 7, rows := 128, columns := 128, payloadLen := 65536 }.body sealedMagic

/-- The payload's first bytes, which bring the CRC over it to 0. -/
def gradFix : Bytes := beBytes 8 (crc64 gradHeader)

/-- A source list at 0, a destination list at 8, a gradient tile at 128 whose CRC is 0, and a header at 131,072. -/
def gradMem : ByteStore :=
  writeBytes (writeBytes (writeBytes [] (5 * 2 ^ 30) (leBytes 8 128 ++ leBytes 8 131072)) (5 * 2 ^ 30 + 128)
    (gradHeader ++ zeros 8 ++ gradFix)) (5 * 2 ^ 30 + 131072) gradHeader

/-- Partition 1 with that in its region; every row of core 5 taken or not. -/
def reducing (full : Bool) (lost : Nat) (c : Cmd) : State :=
  { holding idle c with
    regions := mapped.regions, parts := [(1, { quota 1 with cores := 32 })], cascade := { idle.cascade with members := 3, lost := lost }
    mem := gradMem
    cores := [(5, { Core.reset with handles := if full then [(0, (⟨2 ^ 64 - 1, 64 * 24576, 0⟩, 0))] else [] })] }

/-- REDUCE_BUCKET of 16,384 FP32 values. -/
def reduces (values : Nat) : Cmd :=
  cmd 0x0503 1 (leBytes 2 9 ++ zeros 2 ++ leBytes 4 values ++ leBytes 8 0 ++ leBytes 8 8 ++ zeros 24)

theorem grad_bytes : ∃ p, readBytes gradMem (5 * 2 ^ 30 + 128) 65600 = gradHeader ++ zeros 8 ++ p ∧
    crc64 ((gradHeader ++ zeros 8).take 56 ++ p) = 0 := by
  obtain ⟨n, hn⟩ : ∃ n, 65600 = 64 + (8 + n) := ⟨65528, rfl⟩
  have h : readBytes gradMem (5 * 2 ^ 30 + 128) 64 = gradHeader ++ zeros 8 := by decide +kernel
  have f : readBytes gradMem (5 * 2 ^ 30 + 128 + 64) 8 = gradFix := by decide +kernel
  have g : readBytes gradMem (5 * 2 ^ 30 + 128 + 64 + 8) n = List.replicate n 0 := by
    refine read_unlisted _ _ _ fun y p q => ?_
    have e : (gradHeader ++ zeros 8 ++ gradFix).length = 72 ∧ gradHeader.length = 56 := by decide +kernel
    have f : (leBytes 8 128 ++ leBytes 8 131072).length = 16 := by decide
    unfold gradMem
    rw [getD_writeBytes_out (by omega), getD_writeBytes_out (by omega), getD_writeBytes_out (by omega)]
    rfl
  refine ⟨gradFix ++ List.replicate n 0, ?_, ?_⟩
  · rw [hn, read_append, read_append, h, f, g]
  · unfold crc64
    rw [crc_append, crc_append, show crcFrom (crcFrom 0 ((gradHeader ++ zeros 8).take 56)) gradFix = 0 by decide +kernel]
    exact crc_zeros n

/-- A state with that memory, the map as granted, and links on which nothing fails. -/
def Gradual (t : State) : Prop := t.mem = gradMem ∧ t.regions = mapped.regions ∧ t.links = []

theorem gradual_phys {t : State} (h : Gradual t) (a : Nat) : t.phys 1 a = mapped.phys 1 a := by
  simp only [State.phys, State.physRegion, h.2.1]

theorem gradual_mapped {t : State} (h : Gradual t) (a n : Nat) : t.mapped 1 a n = mapped.mapped 1 a n := by
  simp only [State.mapped, gradual_phys h]

theorem gradual_line {t : State} (h : Gradual t) : t.read 1 128 64 = some (gradHeader ++ zeros 8) := by
  have g : readBytes gradMem (5 * 2 ^ 30 + 128) 64 = gradHeader ++ zeros 8 := by decide +kernel
  unfold State.read
  rw [if_pos (by rw [gradual_mapped h]; decide +kernel), show regionParts 128 64 = [(128, 64)] by decide +kernel]
  simp only [List.flatMap_cons, List.flatMap_nil, List.append_nil]
  rw [gradual_phys h, show (mapped.phys 1 128).getD 0 = 5 * 2 ^ 30 + 128 by decide +kernel, h.1, g]

theorem gradual_once {t : State} (h : Gradual t) {a n pa : Nat} (e : regionParts a n = [(a, n)]) (g : mapped.phys 1 a = some pa) :
    ∃ u, t.readOnce 1 a n = (u, false, readBytes gradMem pa n) := by
  unfold State.readOnce
  rw [e]
  simp only [List.foldl_cons, List.foldl_nil, gradual_phys h, h.2.2, h.1, takeLinks, linkFlips, flipBytes, List.filter_nil,
    List.flatMap_nil, List.length_nil, List.nil_append]
  rw [show (mapped.phys 1 a).getD 0 = pa by rw [g]; rfl]
  exact ⟨_, rfl⟩

theorem check_good {want : TileExpect} {a : Nat} {line p : Bytes} {h : TileHdr} (e : TileHdr.decode line = h) (m : ¬ h.magic = 0)
    (g : ¬ (h.magic ≠ sealedMagic ∨ 65536 < h.payloadLen ∨ (!withinRegion a h.span) = true))
    (c : ¬ crc64 (line.take 56 ++ p) ≠ h.crc) (v : ¬ h.version ≠ 1) (f : Format.ofCode h.format = some .dense)
    (w : ¬ (!want.fits h) = true) (l : ¬ lengthWrong h p = true) (o : ¬ oversized h = true) : checkTile want a line p = .good := by
  subst e
  unfold checkTile
  simp only
  rw [if_neg m, if_neg g, if_neg c, if_neg v, f]
  simp only
  rw [if_neg w, if_neg (fun h => nomatch h.1), if_neg l, if_neg o]

/-- The header of the gradient tile. -/
def gradHdr : TileHdr := TileHdr.decode (gradHeader ++ zeros 8)

theorem grad_format : Format.ofCode gradHdr.format = some .dense := by decide +kernel

theorem grad_length (p : Bytes) : ¬ lengthWrong gradHdr p = true := by
  unfold lengthWrong derivedLength
  rw [grad_format]
  simp only
  decide +kernel

theorem grad_crc : gradHdr.crc = 0 := by decide +kernel

theorem slice_left (a b : Bytes) (o n : Nat) (h : o + n ≤ a.length) : slice (a ++ b) o n = slice a o n := by
  unfold slice
  simp only
  rw [List.drop_append_of_le_length (by omega), List.take_append_of_le_length (by rw [List.length_drop]; omega)]

theorem grad_decode (p : Bytes) : TileHdr.decode (gradHeader ++ zeros 8 ++ p) = gradHdr := by
  have len : (gradHeader ++ zeros 8).length = 64 := by decide +kernel
  have e (o n : Nat) (h : o + n ≤ 64) : leAt (gradHeader ++ zeros 8 ++ p) o n = leAt (gradHeader ++ zeros 8) o n :=
    congrArg leNat (slice_left _ _ _ _ (by rw [len]; exact h))
  unfold gradHdr TileHdr.decode
  rw [e 0 2 (by decide), e 2 1 (by decide), e 3 1 (by decide), e 4 1 (by decide), e 5 1 (by decide), e 6 2 (by decide), e 8 2 (by decide),
    e 10 2 (by decide), e 12 4 (by decide), e 16 4 (by decide), e 20 4 (by decide), e 24 1 (by decide), e 25 1 (by decide), e 56 8 (by decide)]

theorem grad_good (p : Bytes) (crc : crc64 ((gradHeader ++ zeros 8).take 56 ++ p) = 0) :
    checkTile {} 128 (gradHeader ++ zeros 8) p = .good :=
  check_good (h := gradHdr) rfl (by decide +kernel) (by decide +kernel) (fun n => n (crc.trans grad_crc.symm)) (by decide +kernel)
    grad_format (by decide +kernel) (grad_length p) (by decide +kernel)

theorem gradual_tile {t : State} (h : Gradual t) : ∃ u p, t.useTile 1 128 {} = (u, .ok (gradHdr, p)) := by
  obtain ⟨p, read, crc⟩ := grad_bytes
  obtain ⟨u, once⟩ := gradual_once h (a := 128) (n := 65600) (by decide +kernel) (g := (by decide +kernel : mapped.phys 1 128 = some (5 * 2 ^ 30 + 128)))
  have len : (gradHeader ++ zeros 8).length = 64 := by decide +kernel
  have cut : slice (gradHeader ++ zeros 8 ++ p) 0 64 = gradHeader ++ zeros 8 := by
    rw [slice_left _ _ _ _ (by rw [len] <;> decide)]
    decide +kernel
  have tl : t.tileLength 1 128 = 65600 := by
    unfold State.tileLength
    rw [gradual_line h]
    decide +kernel
  have one : t.tileOnce 1 128 {} = (u, .good, gradHeader ++ zeros 8 ++ p) := by
    unfold State.tileOnce
    rw [tl, once, read]
    simp only
    rw [cut, ← len, List.drop_left, grad_good p crc]
  refine ⟨u, p, ?_⟩
  unfold State.useTile
  rw [if_neg (by rw [gradual_mapped h]; decide +kernel), one]
  simp only
  rw [← len, List.drop_left, show TileHdr.decode (gradHeader ++ zeros 8 ++ p) = gradHdr from grad_decode p]

theorem gradual_sources {t : State} (h : Gradual t) : ∃ v own, t.readSources 1 [128] = (v, .ok own) := by
  obtain ⟨u, p, e⟩ := gradual_tile h
  refine ⟨u, p ++ [], ?_⟩
  rw [State.readSources, e]
  simp only
  rw [if_neg (by decide +kernel), State.readSources]


/-! ### Leases and the cascade -/

/-- A lease of core 5's letterbox 0 held by device 1, which expires at a time. -/
def boxLease (expiry : Nat) : Lease := { kind := 1, holder := 1, resource := 5 * 2 ^ 8, expiry := expiry, revoked := false }

/-- Device 0 in a cascade of two at a time, with a lease; device 1 lost or not. -/
def leasing (now renewAt expiry lost : Nat) : State :=
  { idle with
    counters := [], leases := [boxLease expiry], time := { idle.time with ns := now }
    cascade := { idle.cascade with members := 3, master := some 0, renewAt := renewAt, lost := lost } }

theorem test_hyps_leases :
    (∀ b : Bool, ∃ (s t : State) (m : Message), s.working = true ∧ s.takeArrived (fun m => m.type == 9) = some (m, t) ∧
      bitOf m.arg 40 = b) ∧
    (∃ (s : State) (i : Nat) (l : Lease), s.leases[i]? = some l ∧ l.revoked = false ∧ s.now < l.expiry) ∧
    (∀ b : Bool, ∃ s : State, s.working = true ∧ s.inCascade = true ∧
      (if b then s.cascade.renewAt ≤ s.now else s.now < s.cascade.renewAt)) ∧
    (∃ s : State, s.working = true ∧ s.counters = [] ∧ s.ports = [] ∧ ∀ l ∈ s.leases, s.now < l.expiry) ∧
    (∃ (s : State) (l : Lease), s.working = true ∧ s.counters = [] ∧ s.ports = [] ∧ s.leases = [l] ∧ l.kind = 1 ∧
      l.revoked = false ∧ l.expiry ≤ s.now ∧ bitOf s.cascade.lost l.holder = true ∧
      s.waitsOn (l.resource / 2 ^ 8) (l.resource % 2 ^ 8) = none) ∧
    (∀ n ∈ [4, 1, 2], ∃ (s t : State) (m : Message), s.working = true ∧ s.takeArrived (fun m => m.type == 10) = some (m, t) ∧
      m.arg % 8 = n ∧ ∀ k, k < 6 → s.layerOn k = none ∧ (s.core k).tail = none) :=
  ⟨fun b => ⟨hearsFrom 1 (message 9 (bit b * 2 ^ 40) []) idle, taken (hearsFrom 1 (message 9 (bit b * 2 ^ 40) []) idle),
      message 9 (bit b * 2 ^ 40) [], rfl, by revert b; decide +kernel, by revert b; decide +kernel⟩,
    ⟨leasing 99 0 100 0, 0, boxLease 100, rfl, rfl, by decide⟩,
    fun b => ⟨leasing 5 (if b then 5 else 6) 100 0, by decide +revert, by decide +revert, by decide +revert⟩,
    ⟨leasing 99 0 100 0, by decide, rfl, rfl, by decide⟩, ⟨leasing 100 0 100 2, boxLease 100, by decide, rfl, rfl, rfl, by decide⟩,
    fun n h => ⟨hearsFrom 1 (message 10 n []) idle, taken (hearsFrom 1 (message 10 n []) idle), message 10 n [], rfl,
      by revert n; decide +kernel, by revert n; decide, fun _ _ => ⟨rfl, rfl⟩⟩⟩

/-- Device 0, the master of a cascade, with a command. -/
def mastering (c : Cmd) (members : Nat) : State :=
  { holding idle c with
    cascade := { idle.cascade with masterSel := true, linkL0 := true, members := members, master := if members = 0 then none else some 0 } }

/-- JOIN_CASCADE, LEAVE_CASCADE and LEASE_REVOKE. -/
def joins (members timeout : Nat) : Cmd := cmd 0x0501 0 (leBytes 8 members ++ leBytes 4 timeout ++ zeros 36)
def leaves (members : Nat) : Cmd := cmd 0x0502 0 (leBytes 8 members ++ zeros 40)
def revokes (device kind : Nat) : Cmd := cmd 0x0504 0 (leBytes 1 device ++ leBytes 1 kind ++ zeros 2 ++ leBytes 4 0xFFFFFFFF ++ zeros 40)

theorem test_hyps_cascade_commands :
    (∀ n ∈ [0, 60001], ∃ (s : State) (id : Nat) (c : Cmd), s.Starts id 0x0501 c ∧ s.cascade.join = none ∧ leAt c.params 8 4 = n) ∧
    (∀ n ∈ [1, 60000], ∃ (s : State) (id : Nat) (c : Cmd), s.Starts id 0x0501 c ∧ s.cascade.join = none ∧ s.isMaster = true ∧
      bitOf (leAt c.params 0 8) s.cascade.device = true ∧ cascadeShape (leAt c.params 0 8) = true ∧ leAt c.params 8 4 = n ∧
      leAt c.params 0 8 &&& (s.cascade.members &&& (2 ^ 64 - 1 ^^^ s.cascade.lost)) =
        s.cascade.members &&& (2 ^ 64 - 1 ^^^ s.cascade.lost)) ∧
    (∃ (s : State) (id : Nat) (c : Cmd), s.Starts id 0x0502 c ∧ leAt c.params 0 8 = 0) ∧
    (∀ n ∈ [2, 3], ∃ (s : State) (id : Nat) (c : Cmd), s.Starts id 0x0502 c ∧ s.isMaster = true ∧ leAt c.params 0 8 = n ∧
      leAt c.params 0 8 &&& s.cascade.members = leAt c.params 0 8 ∧
      (bitOf (leAt c.params 0 8) s.cascade.device = false ∨ leAt c.params 0 8 = s.cascade.members)) ∧
    (∀ v ∈ [(64, 0), (0, 5)], ∃ (s : State) (id : Nat) (c : Cmd), s.Starts id 0x0504 c ∧ leAt c.params 0 1 = v.1 ∧
      leAt c.params 1 1 = v.2) ∧
    (∃ (s : State) (id : Nat) (c : Cmd) (n : Nat) (t : State), s.Starts id 0x0504 c ∧ leAt c.params 0 1 < 64 ∧
      leAt c.params 1 1 ≤ 4 ∧ s.inCascade = false ∧ leAt c.params 4 4 = 0xFFFFFFFF ∧ s.cascade.device < 64 ∧
      (s.started id c).revokeNamed (leAt c.params 0 1) (leAt c.params 1 1) (leAt c.params 4 4) true = (n, t)) :=
  ⟨fun n h => ⟨mastering (joins 3 n) 0, 1, joins 3 n, starts_of (by revert n; decide +kernel), rfl, by revert n; decide +kernel⟩,
    fun n h => ⟨mastering (joins 3 n) 0, 1, joins 3 n, starts_of (by revert n; decide +kernel), rfl, rfl,
      by revert n; decide +kernel, by revert n; decide +kernel, by revert n; decide +kernel, by revert n; decide +kernel⟩,
    ⟨mastering (leaves 0) 3, 1, leaves 0, starts_of (by decide +kernel), by decide +kernel⟩,
    fun n h => ⟨mastering (leaves n) 3, 1, leaves n, starts_of (by revert n; decide +kernel), rfl, by revert n; decide +kernel,
      by revert n; decide +kernel, by revert n; decide +kernel⟩,
    fun v h => ⟨mastering (revokes v.1 v.2) 0, 1, revokes v.1 v.2, starts_of (by revert v; decide +kernel),
      by revert v; decide +kernel, by revert v; decide +kernel⟩,
    ⟨mastering (revokes 63 4) 0, 1, revokes 63 4, _, _, starts_of (by decide +kernel), by decide +kernel, by decide +kernel, rfl,
      by decide +kernel, by decide +kernel, rfl⟩⟩

/-- Device 0 outside any cascade, a JOIN of devices 0 and 1 or its own preparation under way, and one message taken in. -/
def forming (m : List Message) (j : Option Join) (p : Option Prepared) (now : Nat) : State :=
  { idle with
    cascade := { idle.cascade with join := j, prepared := p, arrived := m }, time := { idle.time with ns := now } }

/-- A JOIN that waits for device 1 until 100. -/
def join : Join := { cmd := 1, members := 3, waiting := 2, refused := 0, deadline := 100, versions := 0 }

/-- A preparation under device 1 until 100. -/
def prepared : Prepared := { master := 1, members := 3, until_ := 100 }

theorem test_hyps_joining :
    (∀ n ∈ [3, 5], ∃ (s t : State) (m : Message), s.working = true ∧
      s.takeArrived (fun m => m.type == 11 && m.arg % 256 == 2) = some (m, t) ∧
      s.acceptsJoin m.srcDevice (leAt m.payload 0 8) = (n == 3)) ∧
    (∀ n ∈ [99, 100], ∃ (s t : State) (m : Message) (q : Prepared), s.working = true ∧
      s.takeArrived (fun m => m.type == 11 && m.arg % 256 == 3) = some (m, t) ∧ s.cascade.prepared = some q ∧
      q.master = m.srcDevice ∧ q.members = leAt m.payload 0 8 ∧ s.now = n ∧ q.until_ = 100 ∧ s.isMaster = false) ∧
    (∀ e ∈ [6, 7], ∃ (s t : State) (m : Message) (j : Join), s.working = true ∧
      s.takeArrived (fun m => m.type == 11 && (m.arg % 256 == 6 || m.arg % 256 == 7)) = some (m, t) ∧ s.cascade.join = some j ∧
      bitOf j.waiting m.srcDevice = true ∧ j.waiting = 2 ^ m.srcDevice ∧ j.refused = 0 ∧ m.arg % 256 = e) ∧
    (∀ b : Bool, ∃ (s : State) (j : Join), s.cascade.join = some j ∧ (if b then j.deadline ≤ s.now else s.now < j.deadline)) ∧
    (∀ b : Bool, ∃ (s : State) (q : Prepared), s.cascade.prepared = some q ∧ (if b then q.until_ ≤ s.now else s.now < q.until_)) :=
  ⟨fun n h => ⟨forming [message 11 2 (leBytes 8 n)] none none 0, forming [] none none 0, message 11 2 (leBytes 8 n), rfl,
      by revert n; decide +kernel, by revert n; decide +kernel⟩,
    fun n _ => ⟨forming [message 11 3 (leBytes 8 3)] none (some prepared) n, forming [] none (some prepared) n,
      message 11 3 (leBytes 8 3), prepared, rfl, rfl, rfl, rfl, by decide +kernel, rfl, rfl, rfl⟩,
    fun e h => ⟨forming [message 11 e []] (some join) none 0, forming [] (some join) none 0, message 11 e [], join, rfl,
      by revert e; decide +kernel, rfl, show bitOf 2 1 = true by decide, rfl, rfl, by revert e; decide⟩,
    fun b => ⟨forming [] (some join) none (if b then 100 else 99), join, rfl, by revert b; decide +kernel⟩,
    fun b => ⟨forming [] none (some prepared) (if b then 100 else 99), prepared, rfl, by revert b; decide +kernel⟩⟩

/-- Device 0, the master of two, at a time, with losses told to it. -/
def leading (now : Nat) (notices : List Nat) : State :=
  let s := mastering (joins 3 1) 3
  { s with cascade := { s.cascade with notices := notices }, time := { idle.time with ns := now } }

theorem test_hyps_members :
    (∀ n ∈ [1, 2], ∃ (s t : State) (m : Message), s.working = true ∧
      s.takeArrived (fun m => m.type == 11 && m.arg % 256 == 4) = some (m, t) ∧ s.cascade.master = some m.srcDevice ∧
      bitOf (leAt m.payload 0 8) s.cascade.device = (n == 1)) ∧
    (∃ (s t : State) (m : Message), s.working = true ∧ s.cascade.notices = [] ∧
      s.takeArrived (fun m => m.type == 11 && m.arg % 256 == 1) = some (m, t)) ∧
    (∃ (s t : State) (m : Message), s.working = true ∧ s.cascade.notices = [] ∧
      s.takeArrived (fun m => m.type == 11 && m.arg % 256 == 5) = some (m, t)) ∧
    (∃ s : State, ∀ e ∈ s.cmds, e.2.relay = none) ∧
    (∀ x ∈ [0, 1], ∃ s : State, s.working = true ∧ s.cascade.notices = [x] ∧ s.cascade.master = some 0) ∧
    (∀ n ∈ [9999999, 10000000], ∃ (s : State) (d : Nat), d < 64 ∧ s.working = true ∧ s.isMaster = true ∧
      bitOf s.cascade.members d = true ∧ s.now = Tab.getD 0 s.cascade.heard d + n) ∧
    (∃ (s : State) (x : Nat), bitOf s.cascade.lost x = true) ∧
    (∃ (s : State) (m : Message), s.inCascade = true ∧ field m.arg 13 8 = s.cascade.device) :=
  ⟨fun n h => ⟨hearsFrom 1 (message 11 4 (leBytes 8 n)) idle, taken (hearsFrom 1 (message 11 4 (leBytes 8 n)) idle),
      message 11 4 (leBytes 8 n), rfl, by revert n; decide +kernel, rfl, by revert n; decide +kernel⟩,
    ⟨hearsFrom 1 (message 11 (1 + 2 ^ 8) []) idle, taken (hearsFrom 1 (message 11 (1 + 2 ^ 8) []) idle), message 11 (1 + 2 ^ 8) [],
      rfl, rfl, by decide +kernel⟩,
    ⟨hearsFrom 1 (message 11 (5 + 2 ^ 8) []) idle, taken (hearsFrom 1 (message 11 (5 + 2 ^ 8) []) idle), message 11 (5 + 2 ^ 8) [],
      rfl, rfl, by decide +kernel⟩,
    ⟨idle, by decide⟩, fun x h => ⟨leading 0 [x], rfl, rfl, rfl⟩,
    fun n h => ⟨leading n [], 1, by decide, rfl, rfl, show bitOf 3 1 = true by decide, (Nat.zero_add n).symm⟩,
    ⟨leasing 0 0 0 2, 1, by decide +kernel⟩,
    ⟨leading 0 [], Message.plain 11 1 0 1 [], by decide +kernel⟩⟩

/-! ### Buckets -/

/-- A REDUCE_BUCKET whose lists pass: the state after they are read, and what both lists name. -/
def listed (full : Bool) (lost : Nat) : State × Except Status (List Nat × List Nat) :=
  ((reducing full lost (reduces 16384)).started 1 (reduces 16384)).bucketLists 1 (decodeBucketArgs (reduces 16384).params)

theorem listed_ok (full : Bool) (lost : Nat) (h : lost ∈ [0, 2]) : okWith (listed full lost).2 (fun l => l == ([128], [131072])) = true ∧
    Gradual (listed full lost).1 ∧ (listed full lost).1.parts = [(1, { quota 1 with cores := 32 })] ∧
    (listed full lost).1.cores = (reducing full 0 (reduces 0)).cores := by
  have f : ((reducing full lost (reduces 16384)).started 1 (reduces 16384)).Frame _ (listed full lost).1 := State.bucketLists_frame ..
  refine ⟨?_, ⟨(f.only.mem (by decide)).trans (by simp only [State.started, State.setCmd, reducing]),
    (f.only.regions (by decide)).trans (by simp only [State.started, State.setCmd, reducing]), ?_⟩,
    (f.only.parts (by decide)).trans (by simp only [State.started, State.setCmd, reducing]),
    (f.only.cores (by decide)).trans (by simp only [State.started, State.setCmd, reducing])⟩
  · exact (by decide +kernel : ∀ n ∈ [0, 2], ∀ f, okWith (listed f n).2 (fun l => l == ([128], [131072])) = true) lost h full
  · exact (by decide +kernel : ∀ n ∈ [0, 2], ∀ f, (listed f n).1.links = []) lost h full

/-- The same with lists at other addresses. -/
def reducesFrom (sources : Nat) : Cmd :=
  cmd 0x0503 1 (leBytes 2 9 ++ zeros 2 ++ leBytes 4 16384 ++ leBytes 8 sources ++ leBytes 8 8 ++ zeros 24)

theorem test_hyps_reduce_bucket :
    (∃ (s : State) (id : Nat) (c : Cmd), s.Starts id 0x0503 c ∧ (s.started id c).bucketOk (decodeBucketArgs c.params) = false) ∧
    (∃ (s : State) (id : Nat) (c : Cmd) (e : Status) (u : State), s.Starts id 0x0503 c ∧
      (s.started id c).bucketOk (decodeBucketArgs c.params) = true ∧
      (s.started id c).bucketLists c.part (decodeBucketArgs c.params) = (u, .error e)) ∧
    (∃ (s : State) (id : Nat) (c : Cmd) (l : List Nat × List Nat) (u : State), s.Starts id 0x0503 c ∧
      (s.started id c).bucketOk (decodeBucketArgs c.params) = true ∧
      (s.started id c).bucketLists c.part (decodeBucketArgs c.params) = (u, .ok l) ∧ u.participants &&& u.cascade.lost ≠ 0) ∧
    (∃ (s : State) (id : Nat) (c : Cmd) (src dst : List Nat) (u : State) (e : Status × Nat) (v : State), s.Starts id 0x0503 c ∧
      (s.started id c).bucketOk (decodeBucketArgs c.params) = true ∧
      (s.started id c).bucketLists c.part (decodeBucketArgs c.params) = (u, .ok (src, dst)) ∧ u.participants &&& u.cascade.lost = 0 ∧
      u.readSources c.part src = (v, .error e)) ∧
    (∀ full : Bool, ∃ (s : State) (id : Nat) (c : Cmd) (src dst : List Nat) (u v w : State) (own es : Bytes) (crc : Nat),
      s.Starts id 0x0503 c ∧ (s.started id c).bucketOk (decodeBucketArgs c.params) = true ∧
      (s.started id c).bucketLists c.part (decodeBucketArgs c.params) = (u, .ok (src, dst)) ∧ u.participants &&& u.cascade.lost = 0 ∧
      u.readSources c.part src = (v, .ok own) ∧
      v.readExponents c.part (decodeBucketArgs c.params).exponents (ceilDiv (decodeBucketArgs c.params).values 32)
        ((decodeBucketArgs c.params).bs16 && popCount 64 v.participants != 1) = (w, .ok (es, crc)) ∧
      (w.core (((bitsOf 6 (w.part c.part).cores).head?).getD 0)).staging.isSome = !full) := by
  refine ⟨⟨reducing false 0 (reduces 0), 1, reduces 0, starts_of (by decide +kernel), by decide +kernel⟩, ?_, ?_, ?_, fun full => ?_⟩
  · obtain ⟨u, e, h⟩ := error_pair (q := ((reducing false 0 (reducesFrom (2 ^ 40))).started 1 (reducesFrom (2 ^ 40))).bucketLists 1
      (decodeBucketArgs (reducesFrom (2 ^ 40)).params)) (by decide +kernel)
    exact ⟨_, 1, reducesFrom (2 ^ 40), e, u, starts_of (by clear h; decide +kernel), by clear h; decide +kernel, h⟩
  · obtain ⟨u, l, h, _⟩ := ok_pair (listed_ok false 2 (by decide)).1
    have p : (listed false 2).1.participants &&& (listed false 2).1.cascade.lost ≠ 0 := by decide +kernel
    rw [h] at p
    exact ⟨_, 1, reduces 16384, l, u, starts_of (by clear h p; decide +kernel), by clear h p; decide +kernel, h, p⟩
  · let c := reducesFrom 16
    obtain ⟨u, l, h, hl⟩ := ok_pair (q := ((reducing false 0 c).started 1 c).bucketLists 1 (decodeBucketArgs c.params))
      (p := fun l => l == ([0], [131072])) (by decide +kernel)
    have q : (let u := (((reducing false 0 c).started 1 c).bucketLists 1 (decodeBucketArgs c.params)).1
      decide (u.participants &&& u.cascade.lost = 0) && refused (u.readSources 1 [0]).2) = true := by decide +kernel
    simp only [h, Bool.and_eq_true, decide_eq_true_eq] at q
    obtain ⟨v, e, g⟩ := error_pair q.2
    obtain rfl : l = ([0], [131072]) := by simpa using hl
    exact ⟨_, 1, c, _, _, u, e, v, starts_of (by clear h q g; decide +kernel), by clear h q g; decide +kernel, h, q.1, g⟩
  · obtain ⟨l, m, r, o⟩ := listed_ok full 0 (by decide)
    obtain ⟨u, l, h, hl⟩ := ok_pair l
    have p : ∀ f, (listed f 0).1.participants &&& (listed f 0).1.cascade.lost = 0 := by decide +kernel
    have p := p full
    rw [h] at p m r o
    obtain rfl : l = ([128], [131072]) := by simpa using hl
    obtain ⟨v, own, g⟩ := gradual_sources m
    have f : u.Frame _ v := State.Frame.fst g (State.readSources_frame ..)
    have parts : v.parts = _ := (f.only.parts (by decide)).trans r
    have cores : v.cores = _ := (f.only.cores (by decide)).trans o
    refine ⟨_, 1, reduces 16384, _, _, u, v, v, own, [], 0, starts_of (by clear h p m r o g f parts cores; revert full; decide +kernel),
      by clear h p m r o g f parts cores; revert full; decide +kernel, h, p, g, rfl, ?_⟩
    show (v.core (((bitsOf 6 (v.part 1).cores).head?).getD 0)).staging.isSome = !full
    unfold State.core State.part
    rw [parts, cores]
    clear h p m r o g f parts cores
    revert full
    decide +kernel


/-- Device 0 of a cascade with devices 1 and 2, home of every tag, with tags and buckets. -/
def homing (ms : List Message) (hs : Table TagHome) (bs : Table Bucket) (now : Nat) : State :=
  { idle with
    tagHomes := hs, buckets := bs, time := { idle.time with ns := now }
    cascade := { idle.cascade with members := 7, master := some 0, arrived := ms } }

/-- A registration of device 1 for 32 values. -/
def registration : Registration := { device := 1, partition := 1, values := 32, bs16 := false, tileSeal := 0 }

/-- Tag 9, granted first to device 2. -/
def tagHome (running : Bool) : TagHome :=
  { first := { registration with device := 2 }, registered := 4, completed := 0, deadline := 100, running := running, waiting := [] }

theorem test_hyps_registration :
    (∀ n ∈ [7, 1], ∃ (s t : State) (m : Message), s.working = true ∧
      s.takeArrived (fun m => m.type == 8 && field m.arg 14 12 == 0) = some (m, t) ∧ s.tagHome = s.cascade.device ∧
      bitOf s.participants m.srcDevice = (n == 7)) ∧
    (∃ (s : State) (tag : Nat) (r : Registration), Tab.find tag s.tagHomes = none ∧
      s.participants &&& (2 ^ r.device) ≠ s.participants) ∧
    (∃ (s : State) (tag : Nat) (h : TagHome), Tab.find tag s.tagHomes = some h ∧ h.running = true) ∧
    (∃ (s : State) (tag : Nat) (r : Registration) (h : TagHome), Tab.find tag s.tagHomes = some h ∧ h.running = false ∧
      bitOf h.registered r.device = false ∧ r.agrees h.first = true ∧
      (h.registered ||| 2 ^ r.device) &&& s.participants ≠ s.participants) ∧
    (∀ b : Bool, ∃ (s : State) (tag : Nat) (h : TagHome), Tab.find tag s.tagHomes = some h ∧ h.running = false ∧
      (if b then h.deadline ≤ s.now else s.now < h.deadline)) :=
  ⟨fun n h => ⟨{ homing [message 8 9 []] [] [] 0 with cascade := { (homing [message 8 9 []] [] [] 0).cascade with members := n } },
      { homing [] [] [] 0 with cascade := { (homing [] [] [] 0).cascade with members := n } }, message 8 9 [], rfl, rfl,
      by revert n; decide +kernel, by revert n; decide +kernel⟩,
    ⟨homing [] [] [] 0, 9, registration, rfl, by decide +kernel⟩, ⟨homing [] [(9, tagHome true)] [] 0, 9, _, rfl, rfl⟩,
    ⟨homing [] [(9, tagHome false)] [] 0, 9, registration, _, rfl, rfl, by decide +kernel, by decide +kernel, by decide +kernel⟩,
    fun b => ⟨homing [] [(9, tagHome false)] [] (if b then 100 else 99), 9, _, rfl, rfl, by revert b; decide +kernel⟩⟩

/-- A bucket of one block under tag 9. -/
def bucket (bs16 : Bool) : Bucket :=
  { cmd := 1, partition := 1, bs16 := bs16, values := 32, dests := [131072], exponentTile := if bs16 then 64 else 0, exponents := [127],
    own := zeros 128, core := 5, started := true, partials := [], finals := [], sent := [] }

/-- ARG of a chunk of slice 0 and chunk 0: its kind, form and stage. -/
def chunkArg (kind : Nat) (bs16 : Bool) (stage : Nat) : Nat := 9 + kind * 2 ^ 12 + bit bs16 * 2 ^ 15 + stage * 2 ^ 19

theorem test_hyps_chunks :
    (∃ (s t : State) (m : Message) (b : Bucket), s.working = true ∧
      s.takeArrived (fun m => m.type == 8 && field m.arg 14 12 == 1) = some (m, t) ∧
      Tab.find (m.arg % 2 ^ 12) s.buckets = some b ∧ b.partition = m.partition ∧ m.srcDevice = s.tagHome) ∧
    (∃ (s t : State) (m : Message), s.working = true ∧
      s.takeArrived (fun m => m.type == 8 && field m.arg 14 12 == 1) = some (m, t) ∧ Tab.find (m.arg % 2 ^ 12) s.buckets = none) ∧
    (∀ v ∈ [(2, false, 1, zeros 128, false), (3, false, 5, zeros 128, false), (4, false, 5, zeros 132, false), (2, true, 4, zeros 96, false),
        (2, true, 1, [0, 0x80] ++ zeros 94, true), (3, true, 5, [0, 0x80] ++ zeros 94, true)],
      ∃ (s t : State) (m : Message) (b : Bucket), s.working = true ∧
        s.takeArrived (fun m => m.type == 8 && field m.arg 14 12 == v.1) = some (m, t) ∧
        Tab.find (m.arg % 2 ^ 12) s.buckets = some b ∧ b.partition = m.partition ∧ field m.arg 21 19 = v.2.2.1 ∧
        bitOf m.arg 15 = b.bs16 ∧ b.fits (v.1 == 4) (field m.arg 18 16) (field m.arg 26 22) m.payload = true ∧
        b.damaged (v.1 == 4) (field m.arg 18 16) (field m.arg 26 22) m.payload = v.2.2.2.2) ∧
    (∃ (s t : State) (m : Message) (b : Bucket), s.working = true ∧
      s.takeArrived (fun m => m.type == 8 && field m.arg 14 12 == 3) = some (m, t) ∧
      Tab.find (m.arg % 2 ^ 12) s.buckets = some b ∧ field m.arg 21 19 ∉ [5]) :=
  ⟨⟨homing [{ message 8 (chunkArg 1 false 0) [] with srcDevice := 0 }] [] [(9, bucket false)] 0, homing [] [] [(9, bucket false)] 0,
      { message 8 (chunkArg 1 false 0) [] with srcDevice := 0 }, bucket false, rfl, by decide +kernel, by decide +kernel, rfl, by decide +kernel⟩,
    ⟨homing [message 8 (chunkArg 1 false 0) []] [] [] 0, homing [] [] [] 0, message 8 (chunkArg 1 false 0) [], rfl, by decide +kernel,
      by decide +kernel⟩,
    fun v h => ⟨homing [message 8 (chunkArg v.1 v.2.1 v.2.2.1) v.2.2.2.1] [] [(9, bucket v.2.1)] 0, homing [] [] [(9, bucket v.2.1)] 0,
      message 8 (chunkArg v.1 v.2.1 v.2.2.1) v.2.2.2.1, bucket v.2.1, rfl, by revert v; decide +kernel, by revert v; decide +kernel, rfl,
      by revert v; decide +kernel, by revert v; decide +kernel, by revert v; decide +kernel, by revert v; decide +kernel⟩,
    ⟨homing [message 8 (chunkArg 3 false 4) []] [] [(9, bucket false)] 0, homing [] [] [(9, bucket false)] 0,
      message 8 (chunkArg 3 false 4) [], bucket false, rfl, by decide +kernel, by decide +kernel, by decide +kernel⟩⟩

/-- R389: mantissas beyond ±32,767 are limited, and their block flagged. -/
theorem test_bs_limit : (limitBs 32768, limitBs (-32767)) = ((32767, true), (-32767, false)) := by decide

/-! ### Ethernet and parcels -/

/-- A packet that reaches a port. -/
def ether (ok : Bool) (b : FrameBody) : EthPacket := { fcsOk := ok, vlan := none, destination := 5, sender := 6, body := b }

/-- Port 15 of MAC address 5 and IPv4 address 9, with questions waiting. -/
def addressed (asks : List Nat) : State :=
  { opening false [(63, stream 1)] (closes 0x0402 1 63 0) with
    ports := [(15, { Port.reset with
      ethernet := true, up := true, asks := asks, addressing := { Addressing.reset 5 with ipv4 := some (9, 24) } })] }

/-- An RTP packet. -/
def rtp (ok : Bool) (seq len : Nat) : RtpPacket :=
  { ssrc := 0, seq := seq, timestamp := 0, payloadType := 96, payload := zeros len, tagOk := ok, stamp := 0 }

/-- A UDP datagram for UDP port 1024 of address 9. -/
def udp (d : Datagram) : FrameBody := .udp false false true true 8 9 700 1024 d

theorem test_hyps_packets :
    (∀ k ∈ [ether false .other, ether true .control, { ether true .other with vlan := some 1 }], ∃ (s : State) (p : Nat),
      p < 16 ∧ s.linking = true ∧ (s.port p).ethernet = true ∧ (s.port p).up = true ∧
      (s.classify p k = .discard 0 ∨ s.classify p k = .discard 7 ∨ s.classify p k = .discard 1)) ∧
    (∀ v ∈ [(ether true .other, Verdict.discard 2), (ether true (.arp 9 true 6), .ask 9), (ether true (.arp 9 false 6), .learn false 9 6),
        (ether true (.arp 8 true 6), .pass), (ether true (.neighbour 7 false 6), .learn true 7 6), (ether true (.neighbour 7 true 6), .pass),
        (ether true (udp .other), .discard 4)],
      ∃ (s : State) (p : Nat), p < 16 ∧ s.linking = true ∧ (s.port p).ethernet = true ∧ (s.port p).up = true ∧
        s.classify p v.1 = v.2) ∧
    (∃ (s : State) (p : Nat) (k : EthPacket) (ch : Nat), p < 16 ∧ s.linking = true ∧ (s.port p).ethernet = true ∧
      (s.port p).up = true ∧ s.classify p k = .tally ch 7) ∧
    (∃ (s : State) (p : Nat) (k : EthPacket) (d : Datagram), p < 16 ∧ s.linking = true ∧ (s.port p).ethernet = true ∧
      (s.port p).up = true ∧ s.classify p k = .hand 8 700 1024 d) ∧
    (∃ (s : State) (p : Nat), p < 16 ∧ s.linking = true ∧ (s.port p).ethernet = true ∧ (s.port p).up = true ∧
      (s.port p).asks = [9]) ∧
    (∃ (s : State) (p dest : Nat), (∀ e ∈ s.streams, ¬ (e.2.desc.port = p ∧ e.2.desc.localUdp = dest)) ∧
      ∀ e ∈ s.channels, ¬ (e.2.port = p ∧ e.2.localUdp = dest)) :=
  ⟨fun k h => ⟨addressed [], 15, by decide, rfl, rfl, rfl, by revert k; decide +kernel⟩,
    fun v h => ⟨addressed [], 15, by decide, rfl, rfl, rfl, by revert v; decide +kernel⟩,
    ⟨{ addressed [] with channels := [(63, { newChannel 1 1 true 0x11 0 (zeros 64) with port := 15, localUdp := 1024, peer := 8, peerUdp := 700 })] },
      15, ether true (udp (.parcel { header := zeros 32, payload := [], tagOk := true })), 63, by decide, rfl, rfl, rfl, by decide +kernel⟩,
    ⟨{ addressed [] with streams := [(63, { stream 1 with desc := { (stream 1).desc with port := 15 } })] }, 15,
      ether true (udp (.rtp (rtp true 0 1))), .rtp (rtp true 0 1), by decide, rfl, rfl, rfl, by decide +kernel⟩,
    ⟨addressed [9], 15, by decide, rfl, rfl, rfl, rfl⟩, ⟨addressed [], 15, 1025, by decide, by decide⟩⟩

/-- Stream 63 on port 0 with the highest index given, and one RTP packet handed to it. -/
def streaming (highest : Option Nat) (p : RtpPacket) : State :=
  { opening false [(63, { stream 1 with highest := highest })] (closes 0x0402 1 63 0) with
    ports := [(0, { Port.reset with ethernet := true, up := true, inbox := [(8, 700, 1024, .rtp p)] })] }

theorem test_hyps_stream_packets :
    (∀ v ∈ [(none, rtp false 0 1, some 0), (some 65536, rtp true 0 1, none), (some 65535, rtp true 0 65, some 65536),
        (none, rtp true 65535 64, some 65535)],
      ∃ (s : State) (port n : Nat) (x : Stream) (p : RtpPacket), port < 16 ∧ s.working = true ∧
        (s.port port).inbox = [(8, 700, x.desc.localUdp, .rtp p)] ∧ s.streams = [(n, x)] ∧ x.desc.port = port ∧
        x.desc.ssrcIn = p.ssrc ∧ p = v.2.1 ∧ (packetIndex x.highest p.seq).filter (fun i => x.highest.all fun h => h < i) = v.2.2) ∧
    (∃ seq h i : Nat, seq < 2 ^ 16 ∧ packetIndex (some h) seq = some i) :=
  ⟨fun v h => ⟨streaming v.1 v.2.1, 0, 63, { stream 1 with highest := v.1 }, v.2.1, by decide, rfl, rfl, rfl, rfl, by revert v; decide +kernel,
      rfl, by revert v; decide +kernel⟩,
    ⟨0, 65535, 65536, by decide⟩⟩

/-- R345, RFC 3711: sequence number 0 after 65,535 starts the next turn. -/
theorem test_packet_index_wraps : packetIndex (some 65535) 0 = some 65536 := by decide

/-- The parameters of PARCEL_ACCEPT or PARCEL_SEND on channel 63 of port 0. -/
def parcelBlock (timeout : Nat) : Bytes :=
  leBytes 1 0 ++ leBytes 1 0 ++ leBytes 2 1024 ++ leBytes 2 700 ++ zeros 14 ++ beBytes 4 8 ++ leBytes 2 5 ++ leBytes 1 63 ++ zeros 1 ++
  leBytes 4 timeout ++ leBytes 8 0 ++ leBytes 8 128 ++ zeros 24

/-- PARCEL_ACCEPT or PARCEL_SEND of that block. -/
def parcels (sending byRef : Bool) (timeout : Nat) : Cmd :=
  { cmd (if sending then 0x0211 else 0x0210) 1 (parcelBlock timeout) with
    packet := { packet (if sending then 0x0211 else 0x0210) 1 (parcelBlock timeout) with byRef := byRef } }

/-- Partition 1 with a key session for parcels and one tile of 128 bytes at address 0. -/
def parcelling (c : Cmd) : State :=
  { holding mapped c with
    mem := ((mapped.write 1 0 oneTile).getD mapped).mem, parts := [(1, { quota 4 with keys := [(5, { streamKey with purpose := 1 })] })]
    ports := [(0, { Port.reset with ethernet := true, up := true })] }

theorem test_hyps_parcel_commands :
    (∀ sending : Bool, ∀ t ∈ [1000, 60000000], ∃ (s : State) (id : Nat) (c : Cmd), s.Starts id (if sending then 0x0211 else 0x0210) c ∧
      c.packet.byRef = true ∧
      (s.started id c).channelOk (leAt c.params 26 1) (newChannel id c.part sending c.parcel s.now c.params) = true ∧
      leAt c.params 28 4 = t) ∧
    (∀ sending : Bool, ∃ (s : State) (id : Nat) (c : Cmd), s.Starts id (if sending then 0x0211 else 0x0210) c ∧ c.packet.byRef = false) ∧
    (∀ sending : Bool, ∀ t ∈ [999, 60000001], ∃ (s : State) (id : Nat) (c : Cmd), s.Starts id (if sending then 0x0211 else 0x0210) c ∧
      (s.started id c).channelOk (leAt c.params 26 1) (newChannel id c.part sending c.parcel s.now c.params) = false ∧
      leAt c.params 28 4 = t) :=
  ⟨fun sending t h => ⟨parcelling (parcels sending true t), 1, parcels sending true t, starts_of (by revert sending t; decide +kernel), rfl,
      by revert sending t; decide +kernel, by revert sending t; decide +kernel⟩,
    fun sending => ⟨parcelling (parcels sending false 1000), 1, parcels sending false 1000, starts_of (by revert sending; decide +kernel), rfl⟩,
    fun sending t h => ⟨parcelling (parcels sending true t), 1, parcels sending true t, starts_of (by revert sending t; decide +kernel),
      by revert sending t; decide +kernel, by revert sending t; decide +kernel⟩⟩

/-- Channel 63, opened by command 1 under a version. -/
def channel (sending : Bool) (version : Nat) : Channel := newChannel 1 1 sending version 0 (parcelBlock 1000)

/-- A parcel of a type for it. -/
def parcel (type version : Nat) (ok : Bool) : Parcel :=
  { header := parcelHeader version type 63 false 0 0 0 1 1, payload := [], tagOk := ok }

/-- The device at a time with channel 63 as given and parcels received on port 0. -/
def carrying (x : Channel) (ps : List Parcel) (now : Nat) : State :=
  { parcelling (parcels x.sending true 1000) with
    cmds := [(1, { parcels x.sending true 1000 with phase := .running })], channels := [(63, x)], time := { idle.time with ns := now }
    ports := [(0, { Port.reset with
      ethernet := true, up := true, inbox := ps.map fun p => (8, 700, 1024, Datagram.parcel p) })] }

theorem test_hyps_parcels :
    (∀ type ∈ [1, 2, 3, 4], ∀ v ∈ [(0x10, true), (0x11, false), (0x11, true)], ∃ (s t : State) (port ch : Nat) (x : Channel) (p : Parcel),
      port < 16 ∧ s.working = true ∧ s.takeParcel port type = some (ch, x, p, t) ∧ x.version = 0x11 ∧ p.version = v.1 ∧ p.sound = v.2) ∧
    (∀ sending : Bool, ∃ (s t : State) (port ch : Nat) (x : Channel) (p : Parcel), port < 16 ∧ s.working = true ∧
      s.takeParcel port 1 = some (ch, x, p, t) ∧ x.sending = sending ∧ x.version < 0x11) ∧
    (∃ (s t : State) (port ch : Nat) (x : Channel) (p : Parcel), port < 16 ∧ s.working = true ∧
      s.takeParcel port 2 = some (ch, x, p, t) ∧ x.sending = true ∧ t.parcelCount x ≤ p.ack) := by
  refine ⟨fun type h v g => ?_, fun sending => ?_, ?_⟩
  · exact ⟨carrying (channel true 0x11) [parcel type v.1 v.2] 0, carrying (channel true 0x11) [] 0, 0, 63, channel true 0x11,
      parcel type v.1 v.2, by decide, rfl, by revert type v; decide +kernel, rfl, by revert type v; decide +kernel,
      by revert type v; decide +kernel⟩
  · exact ⟨carrying (channel sending 0x10) [parcel 1 0x10 true] 0, carrying (channel sending 0x10) [] 0, 0, 63, channel sending 0x10,
      parcel 1 0x10 true, by decide, rfl, by revert sending; decide +kernel, rfl, by revert sending; decide +kernel⟩
  · exact ⟨carrying (channel true 0x11) [parcel 2 0x11 true] 0, carrying (channel true 0x11) [] 0, 0, 63, channel true 0x11,
      parcel 2 0x11 true, by decide, rfl, by decide +kernel, rfl, by decide +kernel⟩

theorem test_hyps_channel_timers :
    (∀ b fin : Bool, ∃ (s : State) (ch : Nat) (x : Channel) (a : Nat), ch < 64 ∧ s.working = true ∧ Tab.find ch s.channels = some x ∧
      x.sending = false ∧ x.finished = fin ∧ x.grantAt = some a ∧ (if b then a ≤ s.now else s.now < a)) ∧
    (∀ n ∈ [500000, 499999], ∃ (s : State) (ch : Nat) (x : Channel), ch < 64 ∧ s.working = true ∧ Tab.find ch s.channels = some x ∧
      x.sending = true ∧ x.ack < x.nextSeq ∧ s.now = x.ackAt + n) ∧
    (∀ n ∈ [1000000, 999999], ∃ (s : State) (ch : Nat) (x : Channel), ch < 64 ∧ s.working = true ∧ Tab.find ch s.channels = some x ∧
      x.finished = false ∧ s.now = x.lastValid + n ∧ 1000 * x.timeout = 1000000) ∧
    (∀ b : Bool, ∃ (s : State) (ch : Nat) (x : Channel), ch < 64 ∧ s.working = true ∧ Tab.find ch s.channels = some x ∧
      x.finished = true ∧ (if b then x.finalUntil ≤ s.now else s.now < x.finalUntil)) :=
  ⟨fun b fin => ⟨carrying { channel false 0x11 with grantAt := some 10, finished := fin } [] (if b then 10 else 9), 63, _, 10, by decide, rfl, rfl, rfl, rfl, rfl,
      by revert b fin; decide +kernel⟩,
    fun n h => ⟨carrying { channel true 0x11 with nextSeq := 1 } [] n, 63, _, by decide, rfl, rfl, rfl, Nat.zero_lt_one, (Nat.zero_add n).symm⟩,
    fun n h => ⟨carrying (channel true 0x11) [] n, 63, _, by decide, rfl, rfl, rfl, (Nat.zero_add n).symm, by decide +kernel⟩,
    fun b => ⟨carrying { channel false 0x11 with finished := true, finalUntil := 10 } [] (if b then 10 else 9), 63, _, by decide, rfl, rfl, rfl,
      by revert b; decide +kernel⟩⟩

/-! ### Ill-formed commands -/

/-- An operand outside what the device has is refused by the check of its command: the host's and the system's commands. -/
theorem test_wf_refuses_host_commands :
    ([
      .commitTimeout 8, .teardownComplete 0, .teardownComplete 7, .unmappingComplete 1020,
      .regionScrubComplete 1020, .bistLogicPhaseComplete [], .bistMemoryPhaseComplete [0, 0, 0, 0, 0, 0, 0, 0],
      .ringSqTailWrite 7 0 0, .ringSqTailWrite 0 7 0, .ringCqHeadWrite 7 0 0, .ringCqHeadWrite 0 7 0,
      .ringCtrlWrite 7 0 0, .ringCtrlWrite 0 7 0, .ringApBaseWrite 7 0 0, .ringApBaseWrite 0 7 0,
      .commandFetch (some [0]) none, .coalesceWindowExpire 7 0, .coalesceWindowExpire 0 60,
      .busMasterEnableChange 7 true, .bar0BadAccess 7 4 true, .bar2Read 7 0 1 ⟨false, false, []⟩,
      .bar2Read 0 (2 ^ 28) 1 ⟨false, false, []⟩, .bar2Write 7 0 [] [], .bar2Write 0 (2 ^ 28) [1] [true],
      .bar2Write 0 0 [1] [], .chrTimeRead 7 4, .chrTimeRead 0 2, .chrSecondsWrite 7 0, .registerWrite 7 0 4 0,
      .registerWrite 0 0 2 0, .registerWrite 0 2 4 0, .registerWrite 0 65536 4 0, .perturbGoApply 6,
      .perturbGoClear 6, .mgtAttest ⟨0, 0, true⟩ (List.replicate 31 0), .smbusBlockRead 256, .functionLevelReset 7,
      .standbyRailsUp false 64, .mainRailsUp (List.replicate 31 25), .lpddr6TrainingComplete false [256],
      .paceWindowEnd (List.replicate 87 0), .temperatureSample (List.replicate 47 25),
      .ptpMessage (some 16) ⟨0, 0, .other⟩, .frameRelease 64, .beatMissed 64, .deadlineMiss 64,
      .routeStepDispatch 6, .routeStepComplete 6, .resultHandover 64
    ] : List Instr).all (fun i => !i.wf) = true := by
  decide +kernel

/-- A core number above 5 (Table 0-2). -/
theorem test_wf_refuses_core_numbers :
    ([
      .layerStep 6, .openBox 6, .closeBox 6, .waitBox 6, .waitSatisfied 6, .orderStep 6, .releaseSlots 6, .vecAdd 6,
      .vecSub 6, .vecMul 6, .vecFma 6, .vecMin 6, .vecMax 6, .vecAbs 6, .vecNeg 6, .vecCmp 6, .vecSelect 6,
      .vecConvert 6, .vecDiv 6, .vecSqrt 6, .vecRsqrt 6, .vecRecip 6, .vecExp2 6, .vecLog2 6, .vecSum 6,
      .vecSumsq 6, .vecMaxi 6, .vecMini 6, .vecLse 6, .vecSoftmax 6, .vecRmsnorm 6, .vecLayernorm 6, .vecGradAdd 6,
      .vecSgdStep 6, .vecAdamStep 6, .vecScaleUpdate 6, .vecScatterAdd 6, .vecRelu 6, .vecClamp 6, .vecGelu 6,
      .vecSilu 6, .sackRecordWrite 6, .scatterGroupClose 6, .sortingFramePass 6
    ] : List Instr).all (fun i => !i.wf) = true := by
  decide +kernel

/-- Arrays above 95, lanes above 127, bands above 11, pigeonhole banks above 15, banks above 63 (Table 0-2). -/
theorem test_wf_refuses_parts_of_a_core :
    ([
      .tileFetch 6 0, .tileArrival 6 0, .recoderLoad 6 0, .residencyLoad 6 0, .feedVector 6 0, .columnClaim 6 0,
      .guestAttach 6 0, .tileFetch 0 96, .tileArrival 0 96, .recoderLoad 0 96, .residencyLoad 0 96,
      .feedVector 0 96, .columnClaim 0 96, .guestAttach 0 96, .laneTileSwitch 6 0 0, .laneStep 6 0 0,
      .runPromotion 6 0 0, .laneTileSwitch 0 96 0, .laneStep 0 96 0, .runPromotion 0 96 0, .laneTileSwitch 0 0 128,
      .laneStep 0 0 128, .runPromotion 0 0 128, .bandRead 6 0, .drainRead 6 0, .bankAccessGrant 6 0,
      .bankDrainComplete 6 0, .bankPowerUpComplete 6 0, .pigeonholeUpdate 6 0, .bandRead 0 12, .drainRead 0 12,
      .bankAccessGrant 0 64, .bankDrainComplete 0 64, .bankPowerUpComplete 0 64, .pigeonholeUpdate 0 16,
      .letterboxWriteArrival 6 ⟨0, 0, 0, [], none⟩, .letterboxWriteArrival 0 ⟨6, 0, 0, [], none⟩,
      .letterboxWriteLanded 6 0, .memoryReadResponse 6 0 (.tile ⟨false, false, []⟩),
      .memoryReadResponse 0 96 (.tile ⟨false, false, []⟩),
      .memoryReadResponse 0 0 (.line (2 ^ 34) ⟨false, false, []⟩)
    ] : List Instr).all (fun i => !i.wf) = true := by
  decide +kernel

/-- Stacks and ports above 15, flits of another size than 256 bytes, channels above 63, tags above 4,095. -/
theorem test_wf_refuses_network_commands :
    ([
      .scratchpadZeroComplete 0, .scratchpadZeroComplete 7, .selfRefreshEntry 16, .selfRefreshExit 16,
      .refreshManagementRequest 16, .flitReceive 16 (List.replicate 256 0), .flitReceive 0 (List.replicate 255 0),
      .linkRetrainEnd 16 true, .plinkLinkUp 16 ⟨0, 0, 0, false, true, true, []⟩,
      .packetReceive 16 ⟨true, none, 0, 0, .other⟩, .memberRenewTimeout 64, .registrationTimeout 4096,
      .keySessionPendingTimeout 0 1, .keySessionPendingTimeout 7 1, .keySessionIdleTimeout 0 1,
      .keySessionIdleTimeout 7 1, .replayTimeout 16, .ethernetLinkUp 16, .portLinkDown 16, .arpOrNdRequest 16,
      .rtpPacket 16, .parcelData 16, .parcelGrant 16, .parcelNack 16, .parcelResend 16, .grantTimer 64,
      .retransmitTimeout 64, .channelTimeout 64, .finalGrantWindowEnd 64
    ] : List Instr).all (fun i => !i.wf) = true := by
  decide +kernel

/-! ### The queue -/

/-- The command at the front runs with the rest of the queue left. -/
theorem test_step_takes_the_front :
    (after (step { idle with pending := [.mgtCapWrite, .ppsEdge] })).map State.pending = some [.ppsEdge] := by
  decide +kernel

/-- A word of the table spells no command: no row has bits. -/
theorem test_no_word_spells_a_command : (State.reset.withFetchWord 64 0).pending = [] := by decide

/-! ### Results the manual works out -/

/-- Table 2-2: the recodings of 46, -93 and 300, lowest position first. -/
theorem test_naf_table_2_2 :
    naf 46 = [⟨true, 0, 1⟩, ⟨true, 0, 4⟩, ⟨false, 0, 6⟩] ∧
      naf (-93) = [⟨true, 0, 0⟩, ⟨false, 0, 2⟩, ⟨false, 0, 5⟩, ⟨true, 0, 7⟩] ∧
      naf 300 = [⟨true, 0, 2⟩, ⟨true, 0, 4⟩, ⟨false, 0, 6⟩, ⟨false, 1, 0⟩] ∧
      (naf 21845).length = 8 ∧ ((List.range 16).map fun v => (naf (Int.ofNat v - 8)).length).sum = 23 := by
  decide +kernel

/-- The PE of Table 3-3: the emissions +2, +6 and +52 of three planes, and their sum 60. -/
theorem test_table_mode_pe :
    ([0, 1, 2].map fun b =>
      tableEmit { tableLayer with actWidth := 3, actSigned := true } [2, -3, 1, -4] b 0
        { Pe.empty with table := [3, -5, -2, 7, 10, 2, 5, -3] }) = [2, 6, 52] := by
  decide +kernel

/-- The stored table of that PE: its 7-bit codes, entry 1 lowest (R48, R49). -/
theorem test_table_entries :
    tableEntries (leBytes 7 (0x03 + 0x7B * 2 ^ 7 + 0x7E * 2 ^ 14 + 0x07 * 2 ^ 21 + 0x0A * 2 ^ 28 + 0x02 * 2 ^ 35 +
      0x05 * 2 ^ 42 + 0x7D * 2 ^ 49)) 0 0 = [3, -5, -2, 7, 10, 2, 5, -3] := by
  decide +kernel


/-- The four Bell-4 conversions of the chapter on numbers, with c = 0.5. -/
theorem test_bell_conversions :
    [0x41380000#32, 0xC2480000#32, 0xC00CCCCD#32, 0x42740000#32].map (fun w => ((convert .bell4 120 0x3F000000#32 (.fp w)).bits, (convert .bell4 120 0x3F000000#32 (.fp w)).clipped)) =
      [(3, false), (15, false), (0, false), (7, true)] := by
  decide +kernel

/-- The inputs of Table 4-8. -/
def gelu : List Word :=
    [0x3E99999A#32, 0xBF1EB852#32, 0x3F8CCCCD#32, 0x3D4CCCCD#32, 0xBFF33333#32, 0x4019999A#32, 0x3E000000#32, 0xBEC00000#32,
      0x3F600000#32, 0xBDCCCCCD#32, 0x3FDEB852#32, 0x00000000#32, 0xBF4CCCCD#32, 0x3F1EB852#32, 0x40466666#32, 0xBE4CCCCD#32]

/-- Tables 4-8 and 4-9: the codes of the first attempt and of the replay, as signed values. -/
theorem test_conversion_worked_through :
    (gelu.map fun w => signed 4 (convert .int4 7 0x3E800000#32 (.fp w)).bits) =
        [1, -2, 4, 0, -7, 7, 1, -2, 4, 0, 7, 0, -3, 2, 7, -1] ∧
      (gelu.map fun w => signed 4 (convert .int4 7 0x3F000000#32 (.fp w)).bits) =
        [1, -1, 2, 0, -4, 5, 0, -1, 2, 0, 3, 0, -2, 1, 6, 0] := by
  decide +kernel

/-- The statistics of that first attempt: an excursion by the clip test, and the power of two 0.5 for M = 3.10. -/
theorem test_replay_scale :
    ((gelu.map fun w => Stats.ofConv .int4 (.fp w) (convert .int4 7 0x3E800000#32 (.fp w))).foldl Stats.combine ⟨0, 0, 0, 0⟩).clipped = 3 ∧
      substitute false 7 (fpAbs 0x40466666#32).toNat = 0x3F000000#32 := by
  decide +kernel


/-- The worked scratchpad address: offset 0x12340 of handle 5 is row 1,072 of bank 17 (R191). -/
theorem test_handle_place : Handle.place ⟨0xFFFF0000, 2048, 1000⟩ 0x48D = (17, 1072) := by decide +kernel

/-- The worked device address lies in stack 0 (R217). -/
theorem test_stack_of : stackOf 0x1234567800 = 0 := by decide +kernel

/-- The check value of the seal's CRC (R228), and the change a flip of the last bit makes. -/
theorem test_crc : crc64 [0x31, 0x32, 0x33, 0x34, 0x35, 0x36, 0x37, 0x38, 0x39] = 0x6C40DF5F0B497347 ∧
    crc64 [1] = 0x42F0E1EBA9EA3693 ∧ crc64 [2] = 0x85E1C3D753D46D26 := by
  decide +kernel

/-- The header bytes of the worked tile (Table 11-3). -/
theorem test_worked_header :
    (((TileHdr.blank).body sealedMagic).length = 56) ∧
    (TileHdr.body { TileHdr.blank with
      element := 0x18, actWidth := 8, rows := 128, columns := 128, tensor := 0x21
      payloadLen := 16384, rowOffset := 1536, kOffset := 256, writer := 2 } sealedMagic).take 26 =
      [0x1E, 0x7D, 0x01, 0x00, 0x18, 0x08, 0x80, 0x00, 0x80, 0x00, 0x21, 0x00, 0x00, 0x40, 0x00, 0x00, 0x00, 0x06,
       0x00, 0x00, 0x00, 0x01, 0x00, 0x00, 0x00, 0x02] := by
  decide +kernel

/-- A PAIR record of int4 weights (qmax 7, R67). -/
def pairRec : PackRec :=
  { tensor := 0, format := 2, width := 0, actWidth := 8, sort := false, extent := 0, keep := 0, consumer := 0xFFFF,
    bias := 0xFFFF, rows := 1, columns := 12, master := 0, out := 0, outLen := 0, list := 0, biasOut := 0, clean := true }

/-- The three groups of Table 5-5, scale 0.125. -/
def groups : List Cell :=
  pairRec.prune [(
    [0x3ECCCCCD#32, 0xBD75C28F#32, 0x3F400000#32, 0xBECCCCCD#32, 0x00000000#32, 0x00000000#32,
      0xBF8CCCCD#32, 0x00000000#32, 0x3E4CCCCD#32, 0x3E428F5C#32, 0x3E3851EC#32, 0x3D800000#32]).map fun w => pairRec.cell 0x3E000000#32 w true] |>.flatten

/-- The bytes of those groups and what the packer record counts of them. -/
theorem test_pair_groups :
    pairRec.encode [groups] = [0x63, 0x90, 0x22, 0x88, 0x04] ∧
      pairRec.countTile [groups] 1 0 ⟨0, 0, 0, 0, 0, 0, 0⟩ = ⟨3, 5, 1, 1, 8, 1, 0⟩ := by
  decide +kernel

/-- The spill records of a function's mirror: counter 2 of group 39 lies at 0x2A10 (Table 23-6). -/
theorem test_counter_offset :
    (Mirror.mk 0 0 0 false [(8 * 39 + 2, 77)]).word 0x2A10 = 77 := by
  decide +kernel

end Sys2Proof.Tests
end

section
/-! The recoder's digits (R22 to R24): a list of digits is a non-adjacent form when it meets `IsNaf`; two such lists
of one value are equal, and the loop of R24 stores one of the weight's value. -/

namespace Sys2Proof.Machine

/-! ### One digit -/

/-- The power of two a digit entry stands at: its chunk and its position in it (R22). -/
def Digit.place (d : Digit) : Nat := d.pos + 8 * d.chunk

/-- The sign of a digit, as an integer. -/
def digitSign (neg : Bool) : Int := if neg then -1 else 1

/-- The entry that stands for a digit at power `p`. -/
def digitAt (neg : Bool) (p : Nat) : Digit := { neg, chunk := p / 8, pos := p % 8 }

@[simp] theorem digitAt_place (neg : Bool) (p : Nat) : (digitAt neg p).place = p := by
  simp only [Digit.place, digitAt]; omega

@[simp] theorem digitAt_neg (neg : Bool) (p : Nat) : (digitAt neg p).neg = neg := rfl

theorem digitAt_pos_lt (neg : Bool) (p : Nat) : (digitAt neg p).pos < 8 := Nat.mod_lt p (by decide)

/-- A position inside its chunk is read back from the place, so sign and place determine the entry. -/
theorem Digit.eq_of_sign_place {d e : Digit} (hd : d.pos < 8) (he : e.pos < 8)
    (hsign : d.neg = e.neg) (hplace : d.place = e.place) : d = e := by
  obtain ⟨dn, dc, dp⟩ := d
  obtain ⟨en, ec, ep⟩ := e
  simp only [Digit.place, Digit.mk.injEq] at *
  exact ⟨hsign, by omega, by omega⟩

@[simp] theorem digitSign_false : digitSign false = 1 := rfl

@[simp] theorem digitSign_true : digitSign true = -1 := rfl

theorem digitSign_eq (neg : Bool) : digitSign neg = 1 ∧ neg = false ∨ digitSign neg = -1 ∧ neg = true := by
  cases neg with
  | false => exact .inl ⟨rfl, rfl⟩
  | true => exact .inr ⟨rfl, rfl⟩

theorem digitSign_injective : ∀ {m n : Bool}, digitSign m = digitSign n → m = n := by decide

/-- The case split of R24: an integer is even, or a multiple of four and a digit. -/
theorem even_or_four_mul_add_sign (v : Int) : (∃ u, v = 2 * u) ∨ ∃ u neg, v = 4 * u + digitSign neg := by
  obtain h | h | h : v % 2 = 0 ∨ v % 4 = 1 ∨ v % 4 = 3 := by omega
  · exact .inl ⟨v / 2, by omega⟩
  · exact .inr ⟨v / 4, false, by rw [digitSign_false]; omega⟩
  · exact .inr ⟨v / 4 + 1, true, by rw [digitSign_true]; omega⟩

theorem two_pow_ne_zero (p : Nat) : (2 : Int) ^ p ≠ 0 := Int.pow_ne_zero (by decide)

theorem two_pow_dvd_two_pow_mul {p q : Nat} (hpq : p ≤ q) (x : Int) : (2 : Int) ^ p ∣ 2 ^ q * x := by
  obtain ⟨k, rfl⟩ := Nat.exists_eq_add_of_le hpq
  rw [Int.pow_add, Int.mul_assoc]
  exact Int.dvd_mul_right _ _

theorem place_sign_unique_of_le {a b : Nat} {u v : Int} {m n : Bool} (hab : a ≤ b)
    (h : 2 ^ a * (4 * u + digitSign m) = 2 ^ b * (4 * v + digitSign n)) : a = b ∧ m = n := by
  obtain ⟨k, rfl⟩ := Nat.exists_eq_add_of_le hab
  rw [Int.pow_add, Int.mul_assoc] at h
  have hk := Int.eq_of_mul_eq_mul_left (two_pow_ne_zero a) h
  have hm := digitSign_eq m
  have hn := digitSign_eq n
  cases k with
  | zero =>
    rw [Int.pow_zero, Int.one_mul] at hk
    exact ⟨rfl, digitSign_injective (by omega)⟩
  | succ k =>
    rw [Int.pow_succ', Int.mul_assoc] at hk
    omega

/-- A power of two times a multiple of four and a digit determines both the power and the digit. -/
theorem place_sign_unique {a b : Nat} {u v : Int} {m n : Bool}
    (h : 2 ^ a * (4 * u + digitSign m) = 2 ^ b * (4 * v + digitSign n)) : a = b ∧ m = n := by
  obtain hab | hba := Nat.le_total a b
  · exact place_sign_unique_of_le hab h
  · obtain ⟨hplace, hsign⟩ := place_sign_unique_of_le hba h.symm
    exact ⟨hplace.symm, hsign.symm⟩

/-! ### The value of a list of digits -/

/-- What one digit adds to the value: its sign times its power of two. -/
def Digit.value (d : Digit) : Int := 2 ^ d.place * digitSign d.neg

theorem Digit.add_value (d : Digit) (a : Int) :
    (if d.neg = true then a - 2 ^ (d.pos + 8 * d.chunk) else a + 2 ^ (d.pos + 8 * d.chunk)) = a + d.value := by
  unfold Digit.value Digit.place
  cases d.neg with
  | false => rw [digitSign_false, Int.mul_one]; rfl
  | true => rw [digitSign_true, Int.mul_neg_one, ← Int.sub_eq_add_neg]; rfl

theorem digitsValue_eq_sum (ds : List Digit) : digitsValue ds = (ds.map Digit.value).sum := by
  simp only [digitsValue, Digit.add_value, List.sum_eq_foldl, List.foldl_map]

theorem digitsValue_nil : digitsValue [] = 0 := rfl

theorem digitsValue_cons (d : Digit) (ds : List Digit) :
    digitsValue (d :: ds) = 2 ^ d.place * digitSign d.neg + digitsValue ds := by
  rw [digitsValue_eq_sum, List.map_cons, List.sum_cons, ← digitsValue_eq_sum, Digit.value]

/-! ### Non-adjacent forms -/

/-- Digits at ascending places from `p` up and below `q`, no two of them neighbours. -/
def IsNaf (q : Nat) : Nat → List Digit → Prop
  | _, [] => True
  | p, d :: ds => d.pos < 8 ∧ p ≤ d.place ∧ d.place < q ∧ IsNaf q (d.place + 2) ds

namespace IsNaf

variable {p q : Nat} {d : Digit} {ds es : List Digit}

theorem nil : IsNaf q p [] := trivial

theorem mono {p' : Nat} (hp : p' ≤ p) (h : IsNaf q p ds) : IsNaf q p' ds := by
  cases ds with
  | nil => trivial
  | cons d ds =>
    obtain ⟨hpos, hle, hlt, hds⟩ := h
    exact ⟨hpos, Nat.le_trans hp hle, hlt, hds⟩

theorem place_bounds (h : IsNaf q p ds) : ∀ d ∈ ds, d.pos < 8 ∧ p ≤ d.place ∧ d.place < q := by
  induction ds generalizing p with
  | nil => exact fun _ hd => absurd hd List.not_mem_nil
  | cons d ds ih =>
    obtain ⟨hpos, hle, hlt, hds⟩ := h
    rintro e (_ | ⟨_, he⟩)
    · exact ⟨hpos, hle, hlt⟩
    · obtain ⟨epos, ele, elt⟩ := ih hds e he
      exact ⟨epos, by omega, elt⟩

/-- The predicate in the statement's own terms: bounds for each digit, and gaps between them. -/
theorem iff_bounds_and_pairwise : IsNaf q p ds ↔
    (∀ d ∈ ds, d.pos < 8 ∧ p ≤ d.place ∧ d.place < q) ∧ (ds.map Digit.place).Pairwise fun a b => a + 1 < b := by
  constructor
  · intro h
    refine ⟨h.place_bounds, ?_⟩
    induction ds generalizing p with
    | nil => exact .nil
    | cons d ds ih =>
      obtain ⟨-, -, -, hds⟩ := h
      refine List.pairwise_cons.2 ⟨?_, ih hds⟩
      simp only [List.forall_mem_map]
      intro e he
      obtain ⟨-, hle, -⟩ := hds.place_bounds e he
      omega
  · intro h
    induction ds generalizing p with
    | nil => trivial
    | cons d ds ih =>
      obtain ⟨hb, hgap⟩ := h
      obtain ⟨hd, hbds⟩ := List.forall_mem_cons.1 hb
      obtain ⟨hfirst, hgap⟩ := List.pairwise_cons.1 hgap
      obtain ⟨hpos, hle, hlt⟩ := hd
      refine ⟨hpos, hle, hlt, ih ⟨fun e he => ?_, hgap⟩⟩
      obtain ⟨epos, -, elt⟩ := hbds e he
      have := hfirst e.place (List.mem_map_of_mem he)
      exact ⟨epos, by omega, elt⟩

/-- Each digit takes two places, the last perhaps one. -/
theorem two_mul_length_le (h : IsNaf q p ds) (hp : p ≤ q + 1) : 2 * ds.length + p ≤ q + 1 := by
  induction ds generalizing p with
  | nil => rwa [List.length_nil, Nat.mul_zero, Nat.zero_add]
  | cons d ds ih =>
    obtain ⟨-, hle, hlt, hds⟩ := h
    have := ih hds (by omega)
    rw [List.length_cons]; omega

theorem two_pow_dvd_digitsValue (h : IsNaf q p ds) : (2 : Int) ^ p ∣ digitsValue ds := by
  induction ds generalizing p with
  | nil => exact Int.dvd_zero _
  | cons d ds ih =>
    obtain ⟨-, hle, -, hds⟩ := h
    rw [digitsValue_cons]
    obtain ⟨u, hu⟩ := ih hds
    rw [hu]
    exact Int.dvd_add (two_pow_dvd_two_pow_mul hle _) (two_pow_dvd_two_pow_mul (by omega) u)

/-- The lowest digit shows in the value: above it stand multiples of four times its power. -/
theorem exists_digitsValue_cons (h : IsNaf q p (d :: ds)) :
    ∃ u, digitsValue (d :: ds) = 2 ^ d.place * (4 * u + digitSign d.neg) := by
  obtain ⟨-, -, -, hds⟩ := h
  obtain ⟨u, hu⟩ := hds.two_pow_dvd_digitsValue
  refine ⟨u, ?_⟩
  calc digitsValue (d :: ds) = 2 ^ d.place * digitSign d.neg + 2 ^ d.place * 4 * u := by
        rw [digitsValue_cons, hu, Int.pow_add]; rfl
    _ = 2 ^ d.place * (4 * u + digitSign d.neg) := by rw [Int.mul_add, Int.mul_assoc, Int.add_comm]

theorem digitsValue_cons_ne_zero (h : IsNaf q p (d :: ds)) : digitsValue (d :: ds) ≠ 0 := by
  obtain ⟨u, hu⟩ := h.exists_digitsValue_cons
  have hs := digitSign_eq d.neg
  rw [hu]
  exact Int.mul_ne_zero (two_pow_ne_zero _) (by omega)

/-- Where twice the power of the lowest place divides the value, no digit stands at that place. -/
theorem succ_of_dvd (h : IsNaf q p ds) (hdvd : (2 : Int) ^ (p + 1) ∣ digitsValue ds) : IsNaf q (p + 1) ds := by
  cases ds with
  | nil => trivial
  | cons d ds =>
    obtain ⟨u, hu⟩ := h.exists_digitsValue_cons
    obtain ⟨hpos, hle, hlt, hds⟩ := h
    refine ⟨hpos, Nat.lt_of_le_of_ne hle ?_, hlt, hds⟩
    rintro rfl
    rw [hu, Int.pow_succ] at hdvd
    have heven := Int.dvd_of_mul_dvd_mul_left (two_pow_ne_zero _) hdvd
    have hs := digitSign_eq d.neg
    omega

/-- A number has one non-adjacent form (R23). -/
theorem eq_of_digitsValue_eq {p' : Nat} (hd : IsNaf q p ds) (he : IsNaf q p' es)
    (hv : digitsValue ds = digitsValue es) : ds = es := by
  induction ds generalizing p p' es with
  | nil =>
    cases es with
    | nil => rfl
    | cons e es => exact absurd hv.symm he.digitsValue_cons_ne_zero
  | cons d ds ih =>
    cases es with
    | nil => exact absurd hv hd.digitsValue_cons_ne_zero
    | cons e es =>
      obtain ⟨u, hu⟩ := hd.exists_digitsValue_cons
      obtain ⟨v, hv'⟩ := he.exists_digitsValue_cons
      obtain ⟨hplace, hsign⟩ := place_sign_unique (hu.symm.trans (hv.trans hv'))
      obtain ⟨dpos, -, -, hds⟩ := hd
      obtain ⟨epos, -, -, hes⟩ := he
      obtain rfl := Digit.eq_of_sign_place dpos epos hsign hplace
      rw [digitsValue_cons, digitsValue_cons] at hv
      rw [ih hds hes (Int.add_left_cancel hv)]

end IsNaf

/-! ### The loop of R24 -/

@[simp] theorem nafLoop_zero (n p : Nat) : nafLoop n 0 p = [] := by
  cases n with
  | zero => rfl
  | succ n => rw [nafLoop, if_pos rfl]

theorem nafLoop_even (n p : Nat) (u : Int) : nafLoop (n + 1) (2 * u) p = nafLoop n u (p + 1) := by
  by_cases hu : u = 0
  · rw [hu, Int.mul_zero, nafLoop_zero, nafLoop_zero]
  · have hhalf : 2 * u / 2 = u := by omega
    rw [nafLoop, if_neg (by omega), if_pos (by omega), hhalf]

theorem nafLoop_digit (n p : Nat) (u : Int) (neg : Bool) :
    nafLoop (n + 1) (4 * u + digitSign neg) p = digitAt neg p :: nafLoop n (2 * u) (p + 1) := by
  have hs := digitSign_eq neg
  have hd : 2 - (4 * u + digitSign neg) % 4 = digitSign neg := by omega
  have hneg : decide (digitSign neg < 0) = neg := by cases neg <;> rfl
  have hhalf : (4 * u + digitSign neg - digitSign neg) / 2 = 2 * u := by omega
  rw [nafLoop, if_neg (by omega), if_neg (by omega)]
  simp only [hd, hneg, hhalf, digitAt]

/-- What `k` digits reach: the integers of at most half of `2 ^ k`. -/
def WithinPlaces (k : Nat) (v : Int) : Prop := -(2 ^ k) ≤ 2 * v ∧ 2 * v ≤ 2 ^ k

theorem withinPlaces_zero_iff {v : Int} : WithinPlaces 0 v ↔ v = 0 := by
  rw [WithinPlaces, Int.pow_zero]; omega

theorem withinPlaces_succ_iff {k : Nat} {v : Int} : WithinPlaces (k + 1) v ↔ -(2 ^ k) ≤ v ∧ v ≤ 2 ^ k := by
  rw [WithinPlaces, Int.pow_succ]; omega

/-- A power of two that an odd number does not pass, its even neighbour does not pass either: the bound holds for what
remains above a digit. -/
theorem WithinPlaces.above_digit {k : Nat} {u : Int} {neg : Bool} (h : WithinPlaces (k + 1) (4 * u + digitSign neg)) :
    WithinPlaces k (2 * u) := by
  have hs := digitSign_eq neg
  rw [withinPlaces_succ_iff] at h
  cases k with
  | zero =>
    rw [Int.pow_zero] at h
    rw [withinPlaces_zero_iff]
    omega
  | succ k =>
    rw [Int.pow_succ] at h
    rw [withinPlaces_succ_iff]
    omega

/-- With a step for each of `k` places, the loop stores a non-adjacent form of what remains. -/
theorem nafLoop_isNaf_and_value {k n : Nat} {v : Int} (p : Nat) (hkn : k ≤ n) (hv : WithinPlaces k v) :
    IsNaf (p + k) p (nafLoop n v p) ∧ digitsValue (nafLoop n v p) = 2 ^ p * v := by
  induction k generalizing n v p with
  | zero =>
    obtain rfl := withinPlaces_zero_iff.1 hv
    rw [nafLoop_zero, Int.mul_zero]
    exact ⟨IsNaf.nil, digitsValue_nil⟩
  | succ k ih =>
    obtain ⟨n, rfl⟩ := Nat.exists_eq_add_of_le' (show 1 ≤ n by omega)
    have hk : k ≤ n := by omega
    have hplaces : p + 1 + k = p + (k + 1) := by omega
    obtain ⟨u, rfl⟩ | ⟨u, neg, rfl⟩ := even_or_four_mul_add_sign v
    · obtain ⟨hnaf, hval⟩ := ih (v := u) (p + 1) hk (withinPlaces_succ_iff.1 hv)
      rw [nafLoop_even, hval, Int.pow_succ, Int.mul_assoc]
      exact ⟨hplaces ▸ hnaf.mono (by omega), rfl⟩
    · obtain ⟨hnaf, hval⟩ := ih (v := 2 * u) (p + 1) hk hv.above_digit
      have hgap : IsNaf (p + 1 + k) (p + 2) (nafLoop n (2 * u) (p + 1)) := by
        refine hnaf.succ_of_dvd ⟨u, ?_⟩
        rw [hval, ← Int.mul_assoc, ← Int.pow_succ]
      rw [nafLoop_digit]
      constructor
      · refine ⟨digitAt_pos_lt neg p, ?_⟩
        rw [digitAt_place]
        exact ⟨Nat.le_refl p, by omega, hplaces ▸ hgap⟩
      · rw [digitsValue_cons, hval, digitAt_place, digitAt_neg, Int.pow_succ, Int.mul_assoc, ← Int.mul_add]
        congr 1
        omega

/-- A two's complement weight of `w` bits recodes on `w` places (R23). -/
theorem naf_isNaf_and_value {w : Nat} {v : Int} (h1 : 1 ≤ w) (h16 : w ≤ 16)
    (hlo : -(2 ^ (w - 1) : Int) ≤ v) (hhi : v < 2 ^ (w - 1)) : IsNaf w 0 (naf v) ∧ digitsValue (naf v) = v := by
  obtain ⟨k, rfl⟩ := Nat.exists_eq_add_of_le' h1
  have hbound : WithinPlaces (k + 1) v := withinPlaces_succ_iff.2 ⟨hlo, Int.le_of_lt hhi⟩
  have h := nafLoop_isNaf_and_value (n := 17) 0 (by omega) hbound
  rwa [Nat.zero_add, Int.pow_zero, Int.one_mul] at h

/-- Settles O45: the loop stores a non-adjacent form of the weight, and a number has only one. -/
theorem recoderStoresTheNaf : Obligations.RecoderStoresTheNaf := by
  intro w v h1 h16 hlo hhi
  obtain ⟨hnaf, hvalue⟩ := naf_isNaf_and_value h1 h16 hlo hhi
  obtain ⟨hbounds, hgaps⟩ := IsNaf.iff_bounds_and_pairwise.1 hnaf
  refine ⟨hvalue, fun d hd => ?_, hgaps, hnaf.two_mul_length_le (by omega), ?_, fun ds hds hgap hdv => ?_⟩
  · obtain ⟨hpos, -, hlt⟩ := hbounds d hd
    exact ⟨hpos, hlt⟩
  · rintro rfl
    exact nafLoop_zero 17 0
  · have hform : IsNaf w 0 ds :=
      IsNaf.iff_bounds_and_pairwise.2 ⟨fun d hd => ⟨(hds d hd).1, Nat.zero_le _, (hds d hd).2⟩, hgap⟩
    exact hform.eq_of_digitsValue_eq hnaf (hdv.trans hvalue.symm)

end Sys2Proof.Machine
end

section
/-! Taking a command from a ring (R288, R292), and the check of R307 that ends a partition opcode on function 0 for a
confidential partition before any check of the opcode itself. -/

namespace Sys2Proof.Machine

/-- The opcode is a partition opcode when it names partition `p`: STAGE_CONFIG and COMMIT_CONFIG are where `p` is not
the device's 0 (R306, R307). -/
def Opcode.OnPartition (o : Opcode) (p : Nat) : Prop :=
  o.scope = .partition ∨ o.scope = .own ∨ (o.scope = .config ∧ p ≠ 0)

namespace State

/-! ### The check of R307 -/

theorem mayIssue_confidential {s : State} {k : Packet} {o : Opcode} (ho : o.OnPartition k.partition)
    (hconf : s.isConf k.partition = true) (late : Bool) : s.mayIssue 0 k o late = some .confidentialDenied := by
  have hscope : (o.scope == .partition || o.scope == .own || (o.scope == .config && k.partition != 0)) = true := by
    obtain h | h | ⟨h, hp⟩ := ho
    · simp [h]
    · simp [h]
    · simp [h, hp]
  simp [mayIssue, hscope, hconf]

/-- The denial comes before the parameter block is read, so the state is left as it was (R307). -/
theorem admitCmd_confidential {s : State} {k : Packet} {o : Opcode} (hop : findOpcode k.opcode = some o)
    (ho : o.OnPartition k.partition) (hconf : s.isConf k.partition = true) (input : Option Bytes) (late : Bool) :
    s.admitCmd 0 k input late = (s, .error .confidentialDenied) := by
  simp only [admitCmd, hop, mayIssue_confidential ho hconf]

/-! ### A new command -/

@[simp] theorem newCmd_id (s : State) (f r k i ph b) : (s.newCmd f r k i ph b).1 = s.nextCmd := rfl

@[simp] theorem newCmd_isConf (s : State) (f r k i ph b) (p : Nat) :
    (s.newCmd f r k i ph b).2.isConf p = s.isConf p := rfl

theorem newCmd_open (s : State) (f r k i b) : (s.newCmd f r k i .waiting b).2.Open s.nextCmd :=
  ⟨_, cmd_setCmd .., by simp⟩

/-- A command that no FENCE defers and that a check refuses without touching the state ends with that check's
status (R292). -/
theorem takeCmd_refused {s : State} {f : Nat} {relay : Option (Nat × Nat)} {k : Packet} {input : Option Bytes}
    {st : Status} (hfence : k.fence = false)
    (hrefuse : (s.newCmd f relay k input .waiting true).2.admitCmd f k input false =
      ((s.newCmd f relay k input .waiting true).2, .error st)) :
    s.takeCmd f relay k input none = (s.newCmd f relay k input .waiting true).2.fail s.nextCmd st := by
  simp [takeCmd, hfence, hrefuse]

theorem takeCmd_confidential {s : State} {k : Packet} {o : Opcode} (hfence : k.fence = false)
    (hop : findOpcode k.opcode = some o) (ho : o.OnPartition k.partition) (hconf : s.isConf k.partition = true)
    (relay : Option (Nat × Nat)) (input : Option Bytes) :
    s.takeCmd 0 relay k input none =
      (s.newCmd 0 relay k input .waiting true).2.fail s.nextCmd .confidentialDenied :=
  takeCmd_refused hfence (admitCmd_confidential hop ho (by simpa using hconf) input false)

/-! ### Reading a submission entry -/

/-- The state in which function `f`'s entry has been read: its ring's head and the rotation have moved on (R288). -/
def entryRead (s : State) (f : Nat) : State :=
  { (s.onRing f fun r => { r with sqHead := (r.sqHead + 1) % 2 ^ r.sqLog }) with turn := f }

@[simp] theorem entryRead_nextCmd (s : State) (f : Nat) : (s.entryRead f).nextCmd = s.nextCmd := rfl
@[simp] theorem entryRead_health (s : State) (f : Nat) : (s.entryRead f).health = s.health := rfl
@[simp] theorem entryRead_cascade (s : State) (f : Nat) : (s.entryRead f).cascade = s.cascade := rfl
@[simp] theorem entryRead_isConf (s : State) (f p : Nat) : (s.entryRead f).isConf p = s.isConf p := rfl

@[simp] theorem entryRead_sessions (s : State) (f : Nat) : ((s.entryRead f).fn f).sessions = (s.fn f).sessions := by
  have hfn : (s.entryRead f).fn f = (s.onRing f fun r => { r with sqHead := (r.sqHead + 1) % 2 ^ r.sqLog }).fn f := rfl
  rw [hfn, onRing, fn_onFn]

/-- The transport's checks look at no ring (Table 14-4). -/
@[simp] theorem entryRead_transport (s : State) (f : Nat) (k : Packet) :
    (s.entryRead f).transport f k = s.transport f k := by
  simp only [transport, entryRead_sessions, entryRead_cascade]
  rfl

theorem entryRead_frame (s : State) (f : Nat) : s.Frame (fields [.fns, .turn]) (s.entryRead f) :=
  Frame.upd_turn (by decide) (Frame.step (onRing_frame ..) (by decide) Frame.refl)

theorem not_leaves_of_target {k : Packet} {device : Nat}
    (h : k.target = 0xFF ∨ k.target = device) : k.leaves device = false := by
  obtain h | h := h <;> simp [Packet.leaves, h]

/-- An entry that passes the transport's checks and is for this device becomes a command of its function
(R288, R292, R308). -/
theorem fetch_eq_takeCmd {s : State} {f : Nat} {b : Bytes} {o : Opcode} (hhalt : s.health.halt = none)
    (hop : findOpcode (decodePacket b).opcode = some o) (hpass : s.transport f (decodePacket b) = none)
    (hhome : (decodePacket b).target = 0xFF ∨
      ((decodePacket b).target = s.cascade.device ∧ homeOnly (decodePacket b).opcode = false))
    (input : Option Bytes) :
    s.fetch f (some b) input = (s.entryRead f).takeCmd f none (decodePacket b) input none := by
  have hstays : (decodePacket b).leaves s.cascade.device = false :=
    not_leaves_of_target (hhome.imp_right And.left)
  have hallowed : ¬((decodePacket b).target ≠ 0xFF ∧ homeOnly (decodePacket b).opcode = true) := by
    rintro ⟨hne, hhomeOnly⟩
    obtain h | ⟨-, h⟩ := hhome
    · exact hne h
    · simp [h] at hhomeOnly
  dsimp -zeta only [fetch]
  extract_lets k ring t
  have ht : t = s.entryRead f := rfl
  simp [k, ht, hhalt, hop, hpass, hallowed, hstays]

theorem working_not_halted {s : State} (h : s.working = true) : s.health.halt = none := by
  simp only [working, Bool.and_eq_true, Option.isNone_iff_eq_none] at h
  exact h.1

/-- A working device that runs no self-test reads the entry of the next function in rotation (R288, R441, R454). -/
theorem exec_commandFetch_eq {s : State} {f : Nat} (hworks : s.working = true) (hbist : s.health.bist = none)
    (hnext : (rotation s.turn).find? s.fetchable = some f) (entry block : Option Bytes) :
    exec (.commandFetch entry block) s = .next (s.fetch f entry block) := by
  show execCommandFetch entry block s = _
  simp [execCommandFetch, onlyIf, withSome, hworks, hbist, hnext]

/-! ### Starting a command whose checks FENCE deferred -/

/-- A deferred check that refuses without touching the state ends the command as it would start (R293). -/
theorem begin_refused {s : State} {id code : Nat} {c : Cmd} {st : Status} (hfound : s.cmd id = some c)
    (hwaits : c.phase = .waiting) (hcode : c.packet.opcode = code) (hworks : s.working = true)
    (hstays : s.toRelay c = false) (hturn : s.mayStart c = true) (hdeferred : c.checked = false)
    (hrefuse : s.admitCmd c.fn c.packet c.input true = (s, .error st)) (f : Cmd → State → State) :
    s.begin id code f = s.fail id st := by
  simp [State.begin, hfound, hwaits, hcode, hworks, hstays, hturn, hdeferred, hrefuse]

end State

open State

/-- Settles O18: the denial is the first check after the transport's, and nothing before it but the reading of the
entry touches the state. -/
theorem confidentialPartitionsDenyFunctionZero : Obligations.ConfidentialPartitionsDenyFunctionZero := by
  refine ⟨fun s b block o hworks hbist hnext => ?_, fun s id code c o f hworks hfound hwaits hcode hturn hstays
    hdeferred hop ho hconf hfn => ?_⟩
  · intro k hpass hhome hop ho hconf hfence
    refine ⟨((s.entryRead 0).newCmd 0 none k block .waiting true).2.fail s.nextCmd .confidentialDenied, ?_, ?_, ?_⟩
    · rw [exec_commandFetch_eq hworks hbist hnext,
        fetch_eq_takeCmd (working_not_halted hworks) hop hpass hhome,
        takeCmd_confidential hfence hop ho (by simpa using hconf), entryRead_nextCmd]
    · exact fail_ends (newCmd_open (s.entryRead 0) ..)
    · have hread := (entryRead_frame s 0).mono
        (w := fields [.fns, .turn, .cmds, .nextCmd, .ended, .tally, .flashTally]) (by decide)
      exact (Frame.step (fail_frame ..) (by decide) (Frame.step (newCmd_frame ..) (by decide) hread)).only
  · have hrefuse : s.admitCmd c.fn c.packet c.input true = (s, .error .confidentialDenied) := by
      rw [hfn]
      exact admitCmd_confidential (hcode ▸ hop) ho hconf c.input true
    exact congrArg Host.Outcome.next (begin_refused hfound hwaits hcode hworks hstays hturn hdeferred hrefuse f)

end Sys2Proof.Machine
end

section
/-! The anti-rollback counter (R402): DEVICE_READY alone moves it, and only upward; what an image below it meets. -/

namespace Sys2Proof.Machine
open State

/-! ### The frame of every command -/

/-- Each command's frame is the one `Instr.writes` lists for its row. -/
theorem exec_frame (s : State) : ∀ i : Instr, s.FrameOut i.writes (exec i s)
  | .openSession _ => execOpenSession_frame _ _
  | .closeSession _ => execCloseSession_frame _ _
  | .queryDevice _ => execQueryDevice_frame _ _
  | .stageConfig _ => execStageConfig_frame _ _
  | .commitConfig _ => execCommitConfig_frame _ _
  | .commitApply => execCommitApply_frame _
  | .commitTimeout _ => execCommitTimeout_frame _ _
  | .enableFunction _ => execEnableFunction_frame _ _
  | .disableFunction _ => execDisableFunction_frame _ _
  | .teardownComplete _ => execTeardownComplete_frame _ _
  | .allocRegion _ => execAllocRegion_frame _ _
  | .freeRegion _ => execFreeRegion_frame _ _
  | .unmappingComplete _ => execUnmappingComplete_frame _ _
  | .scrubRegion _ => execScrubRegion_frame _ _
  | .regionScrubComplete _ => execRegionScrubComplete_frame _ _
  | .parcelAccept _ => execParcelAccept_frame _ _
  | .parcelSend _ => execParcelSend_frame _ _
  | .loadRoute _ => execLoadRoute_frame _ _
  | .verifyRoute _ => execVerifyRoute_frame _ _
  | .runRoute _ => execRunRoute_frame _ _
  | .abortRoute _ => execAbortRoute_frame _ _
  | .packTiles _ => execPackTiles_frame _ _
  | .packSort _ => execPackSort_frame _ _
  | .openStream _ => execOpenStream_frame _ _
  | .closeStream _ => execCloseStream_frame _ _
  | .queryStream _ => execQueryStream_frame _ _
  | .joinCascade _ => execJoinCascade_frame _ _
  | .leaveCascade _ => execLeaveCascade_frame _ _
  | .reduceBucket _ => execReduceBucket_frame _ _
  | .leaseRevoke _ => execLeaseRevoke_frame _ _
  | .attest _ => execAttest_frame _ _
  | .openKeySession _ _ => execOpenKeySession_frame _ _ _
  | .setConfidential _ => execSetConfidential_frame _ _
  | .runBist _ => execRunBist_frame _ _
  | .bistLogicPhaseComplete _ => execBistLogicPhaseComplete_frame _ _
  | .bistMemoryPhaseComplete _ => execBistMemoryPhaseComplete_frame _ _
  | .setPerturb _ _ => execSetPerturb_frame _ _ _
  | .readCounters _ => execReadCounters_frame _ _
  | .ringSqTailWrite _ _ _ => execRingSqTailWrite_frame _ _ _ _
  | .ringCqHeadWrite _ _ _ => execRingCqHeadWrite_frame _ _ _ _
  | .ringCtrlWrite _ _ _ => execRingCtrlWrite_frame _ _ _ _
  | .ringApBaseWrite _ _ _ => execRingApBaseWrite_frame _ _ _ _
  | .commandFetch _ _ => execCommandFetch_frame _ _ _
  | .commandCompletion _ => execCommandCompletion_frame _ _
  | .coalesceWindowExpire _ _ => execCoalesceWindowExpire_frame _ _ _
  | .busMasterEnableChange _ _ => execBusMasterEnableChange_frame _ _ _
  | .bar0BadAccess _ _ _ => execBar0BadAccess_frame _ _ _ _
  | .bar2Read _ _ _ _ => execBar2Read_frame _ _ _ _ _
  | .bar2Write _ _ _ _ => execBar2Write_frame _ _ _ _ _
  | .chrTimeRead _ _ => execChrTimeRead_frame _ _ _
  | .chrSecondsWrite _ _ => execChrSecondsWrite_frame _ _ _
  | .registerWrite _ _ _ _ => execRegisterWrite_frame _ _ _ _ _
  | .perturbGoApply _ => execPerturbGoApply_frame _ _
  | .perturbGoClear _ => execPerturbGoClear_frame _ _
  | .mgtResetWarm => execMgtResetWarm_frame _
  | .mgtResetCold => execMgtResetCold_frame _
  | .mgtCapWrite => execMgtCapWrite_frame _
  | .fwStart => execFwStart_frame _
  | .fwCommit => execFwCommit_frame _
  | .fwAbort => execFwAbort_frame _
  | .fwCheckComplete _ => execFwCheckComplete_frame _ _
  | .fwWriteComplete => execFwWriteComplete_frame _
  | .mgtAddrWrite => execMgtAddrWrite_frame _
  | .mgtAddrTakeEffect => execMgtAddrTakeEffect_frame _
  | .mgtHello _ => execMgtHello_frame _ _
  | .mgtConfirm _ _ => execMgtConfirm_frame _ _ _
  | .mgtRead _ _ _ => execMgtRead_frame _ _ _ _
  | .mgtWrite _ _ _ => execMgtWrite_frame _ _ _ _
  | .fwChunk _ _ _ => execFwChunk_frame _ _ _ _
  | .mgtCert _ => execMgtCert_frame _ _
  | .mgtAttest _ _ => execMgtAttest_frame _ _ _
  | .faultRead _ _ => execFaultRead_frame _ _ _
  | .mgtSessionIdleTimeout _ => execMgtSessionIdleTimeout_frame _ _
  | .smbusBlockRead _ => execSmbusBlockRead_frame _ _
  | .i3cCommonCommand _ => execI3cCommonCommand_frame _ _
  | .inputStartLevel => execInputStartLevel_frame _
  | .perstAssert => execPerstAssert_frame _
  | .hotReset => execHotReset_frame _
  | .pcieLinkDownTimeout => execPcieLinkDownTimeout_frame _
  | .functionLevelReset _ => execFunctionLevelReset_frame _ _
  | .standbyRailsUp _ _ => execStandbyRailsUp_frame _ _ _
  | .mainRailsUp _ => execMainRailsUp_frame _ _
  | .bootChainComplete _ => execBootChainComplete_frame _ _
  | .lpddr6TrainingComplete _ _ => execLpddr6TrainingComplete_frame _ _ _
  | .memoryScrubComplete => execMemoryScrubComplete_frame _
  | .deviceReady => execDeviceReady_frame _
  | .pwrWarnAssert => execPwrWarnAssert_frame _
  | .warnClearRestart => execWarnClearRestart_frame _
  | .pwrWarnDeassert => execPwrWarnDeassert_frame _
  | .shortResetLevelDip => execShortResetLevelDip_frame _
  | .supplyLoss _ => execSupplyLoss_frame _ _
  | .standbyOff => execStandbyOff_frame _
  | .overRangeEntry => execOverRangeEntry_frame _
  | .inputProtectionDisconnect => execInputProtectionDisconnect_frame _
  | .faultRecordWritten => execFaultRecordWritten_frame _
  | .internalLogicError _ => execInternalLogicError_frame _ _
  | .controlCoreWatchdogExpire => execControlCoreWatchdogExpire_frame _
  | .paceWindowEnd _ => execPaceWindowEnd_frame _ _
  | .powerSample _ _ => execPowerSample_frame _ _ _
  | .temperatureSample _ => execTemperatureSample_frame _ _
  | .epochBoundary => execEpochBoundary_frame _
  | .vcoreChangeComplete => execVcoreChangeComplete_frame _
  | .reservedSlotStart => execReservedSlotStart_frame _
  | .ppsEdge => execPpsEdge_frame _
  | .ptpMessage _ _ => execPtpMessage_frame _ _ _
  | .holdoverEntry => execHoldoverEntry_frame _
  | .frameRelease _ => execFrameRelease_frame _ _
  | .beatMissed _ => execBeatMissed_frame _ _
  | .deadlineMiss _ => execDeadlineMiss_frame _ _
  | .routeStepDispatch _ => execRouteStepDispatch_frame _ _
  | .routeStepComplete _ => execRouteStepComplete_frame _ _
  | .resultHandover _ => execResultHandover_frame _ _
  | .layerStep _ => execLayerStep_frame _ _
  | .openBox _ => execOpenBox_frame _ _
  | .closeBox _ => execCloseBox_frame _ _
  | .waitBox _ => execWaitBox_frame _ _
  | .waitSatisfied _ => execWaitSatisfied_frame _ _
  | .orderStep _ => execOrderStep_frame _ _
  | .releaseSlots _ => execReleaseSlots_frame _ _
  | .vecAdd _ => execVecAdd_frame _ _
  | .vecSub _ => execVecSub_frame _ _
  | .vecMul _ => execVecMul_frame _ _
  | .vecFma _ => execVecFma_frame _ _
  | .vecMin _ => execVecMin_frame _ _
  | .vecMax _ => execVecMax_frame _ _
  | .vecAbs _ => execVecAbs_frame _ _
  | .vecNeg _ => execVecNeg_frame _ _
  | .vecCmp _ => execVecCmp_frame _ _
  | .vecSelect _ => execVecSelect_frame _ _
  | .vecConvert _ => execVecConvert_frame _ _
  | .vecDiv _ => execVecDiv_frame _ _
  | .vecSqrt _ => execVecSqrt_frame _ _
  | .vecRsqrt _ => execVecRsqrt_frame _ _
  | .vecRecip _ => execVecRecip_frame _ _
  | .vecExp2 _ => execVecExp2_frame _ _
  | .vecLog2 _ => execVecLog2_frame _ _
  | .vecSum _ => execVecSum_frame _ _
  | .vecSumsq _ => execVecSumsq_frame _ _
  | .vecMaxi _ => execVecMaxi_frame _ _
  | .vecMini _ => execVecMini_frame _ _
  | .vecLse _ => execVecLse_frame _ _
  | .vecSoftmax _ => execVecSoftmax_frame _ _
  | .vecRmsnorm _ => execVecRmsnorm_frame _ _
  | .vecLayernorm _ => execVecLayernorm_frame _ _
  | .vecGradAdd _ => execVecGradAdd_frame _ _
  | .vecSgdStep _ => execVecSgdStep_frame _ _
  | .vecAdamStep _ => execVecAdamStep_frame _ _
  | .vecScaleUpdate _ => execVecScaleUpdate_frame _ _
  | .vecScatterAdd _ => execVecScatterAdd_frame _ _
  | .vecRelu _ => execVecRelu_frame _ _
  | .vecClamp _ => execVecClamp_frame _ _
  | .vecGelu _ => execVecGelu_frame _ _
  | .vecSilu _ => execVecSilu_frame _ _
  | .tileFetch _ _ => execTileFetch_frame _ _ _
  | .tileArrival _ _ => execTileArrival_frame _ _ _
  | .recoderLoad _ _ => execRecoderLoad_frame _ _ _
  | .laneTileSwitch _ _ _ => execLaneTileSwitch_frame _ _ _ _
  | .residencyLoad _ _ => execResidencyLoad_frame _ _ _
  | .bandRead _ _ => execBandRead_frame _ _ _
  | .feedVector _ _ => execFeedVector_frame _ _ _
  | .laneStep _ _ _ => execLaneStep_frame _ _ _ _
  | .runPromotion _ _ _ => execRunPromotion_frame _ _ _ _
  | .columnClaim _ _ => execColumnClaim_frame _ _ _
  | .guestAttach _ _ => execGuestAttach_frame _ _ _
  | .drainRead _ _ => execDrainRead_frame _ _ _
  | .pigeonholeUpdate _ _ => execPigeonholeUpdate_frame _ _ _
  | .sackRecordWrite _ => execSackRecordWrite_frame _ _
  | .scatterGroupClose _ => execScatterGroupClose_frame _ _
  | .sortingFramePass _ => execSortingFramePass_frame _ _
  | .bankAccessGrant _ _ => execBankAccessGrant_frame _ _ _
  | .letterboxWriteArrival _ _ => execLetterboxWriteArrival_frame _ _ _
  | .letterboxWriteLanded _ _ => execLetterboxWriteLanded_frame _ _ _
  | .bankDrainComplete _ _ => execBankDrainComplete_frame _ _ _
  | .bankPowerUpComplete _ _ => execBankPowerUpComplete_frame _ _ _
  | .scratchpadZeroComplete _ => execScratchpadZeroComplete_frame _ _
  | .memoryReadResponse _ _ _ => execMemoryReadResponse_frame _ _ _ _
  | .selfRefreshEntry _ => execSelfRefreshEntry_frame _ _
  | .selfRefreshExit _ => execSelfRefreshExit_frame _ _
  | .refreshManagementRequest _ => execRefreshManagementRequest_frame _ _
  | .flitReceive _ _ => execFlitReceive_frame _ _ _
  | .replayTimeout _ => execReplayTimeout_frame _ _
  | .linkRetrainEnd _ _ => execLinkRetrainEnd_frame _ _ _
  | .plinkLinkUp _ _ => execPlinkLinkUp_frame _ _ _
  | .relayCmd => execRelayCmd_frame _
  | .relayReply => execRelayReply_frame _
  | .lbWrite => execLbWrite_frame _
  | .lbAck => execLbAck_frame _
  | .plinkClaim => execPlinkClaim_frame _
  | .claimReply => execClaimReply_frame _
  | .plinkRelease => execPlinkRelease_frame _
  | .renew => execRenew_frame _
  | .renewTimer => execRenewTimer_frame _
  | .revoked => execRevoked_frame _
  | .leaseExpiry => execLeaseExpiry_frame _
  | .memberRenewTimeout _ => execMemberRenewTimeout_frame _ _
  | .memberLost => execMemberLost_frame _
  | .memberPrepare => execMemberPrepare_frame _
  | .memberCommit => execMemberCommit_frame _
  | .memberLeave => execMemberLeave_frame _
  | .memberMasterLost => execMemberMasterLost_frame _
  | .joinTimeout => execJoinTimeout_frame _
  | .joinPrepareTimeout => execJoinPrepareTimeout_frame _
  | .reduceRegister => execReduceRegister_frame _
  | .registrationTimeout _ => execRegistrationTimeout_frame _ _
  | .reduceStart => execReduceStart_frame _
  | .reducePart => execReducePart_frame _
  | .reduceFinal => execReduceFinal_frame _
  | .reduceRedo => execReduceRedo_frame _
  | .ethernetLinkUp _ => execEthernetLinkUp_frame _ _
  | .portLinkDown _ => execPortLinkDown_frame _ _
  | .packetReceive _ _ => execPacketReceive_frame _ _ _
  | .arpOrNdRequest _ => execArpOrNdRequest_frame _ _
  | .rtpPacket _ => execRtpPacket_frame _ _
  | .parcelData _ => execParcelData_frame _ _
  | .parcelGrant _ => execParcelGrant_frame _ _
  | .parcelNack _ => execParcelNack_frame _ _
  | .parcelResend _ => execParcelResend_frame _ _
  | .grantTimer _ => execGrantTimer_frame _ _
  | .retransmitTimeout _ => execRetransmitTimeout_frame _ _
  | .channelTimeout _ => execChannelTimeout_frame _ _
  | .finalGrantWindowEnd _ => execFinalGrantWindowEnd_frame _ _
  | .keySessionPendingTimeout _ _ => execKeySessionPendingTimeout_frame _ _ _
  | .keySessionIdleTimeout _ _ => execKeySessionIdleTimeout_frame _ _ _
  | .tokenExpiry => execTokenExpiry_frame _
  | .pcieLinkL0 => execPcieLinkL0_frame _
  | .joinReply => execJoinReply_frame _
  | .credentialReplacement _ _ _ => execCredentialReplacement_frame _ _ _ _
  | .managementCredentialRecovery _ _ => execManagementCredentialRecovery_frame _ _ _

@[simp] theorem Flash.setOther_rollback (f : Flash) (i : Option FwImage) :
    (f.setOther i).rollback = f.rollback := by
  unfold Flash.setOther
  split <;> rfl

namespace State

/-! ### What leaves the counter as it is -/

/-- Whatever does not write the boot flash leaves the counter. -/
theorem Frame.rollback_eq {w : Nat} {s t : State} (h : s.Frame w t) (hw : w.testBit 33 = false) :
    t.flash.rollback = s.flash.rollback := by
  rw [h.only.flash hw]

/-- The next state of an outcome, where there is one, has the counter of `s`. -/
def KeepsRollback (s : State) (r : Result) : Prop := ∀ t, r = .next t → t.flash.rollback = s.flash.rollback

theorem FrameOut.keepsRollback {w : Nat} {s : State} {r : Result} (h : s.FrameOut w r) (hw : w.testBit 33 = false) :
    s.KeepsRollback r := fun t ht => (h t ht).rollback_eq hw

theorem KeepsRollback.next {s t : State} (h : t.flash.rollback = s.flash.rollback) : s.KeepsRollback (.next t) := by
  rintro u ⟨⟩
  exact h

theorem KeepsRollback.checked {s : State} {c : Bool} {f : State → State}
    (h : (f s).flash.rollback = s.flash.rollback) : s.KeepsRollback (Machine.checked c s f) := by
  cases c with
  | false => rintro u ⟨⟩
  | true => exact .next h

theorem onlyIf_rollback {s : State} {c : Bool} {f : State → State} (h : (f s).flash.rollback = s.flash.rollback) :
    (Machine.onlyIf c f s).flash.rollback = s.flash.rollback := by
  cases c with
  | false => rfl
  | true => exact h

/-- An action's row keeps the counter where what the action does keeps it. -/
theorem takeAction_rollback {α : Type} {s : State} {pick : MgtAction → Option α} {f : α → State → State}
    (h : ∀ x t, (f x t).flash.rollback = t.flash.rollback) :
    (s.takeAction pick f).flash.rollback = s.flash.rollback := by
  unfold takeAction
  split
  · rfl
  · exact h _ _

@[simp] theorem ite_rollback (c : Prop) [Decidable c] (s t : State) :
    (if c then s else t).flash.rollback = if c then s.flash.rollback else t.flash.rollback := by
  split <;> rfl

@[simp] theorem count_rollback (s : State) (g i n : Nat) : (s.count g i n).flash.rollback = s.flash.rollback :=
  (count_frame ..).rollback_eq (by decide)

@[simp] theorem endMgt_rollback (s : State) (n : Nat) : (s.endMgt n).flash.rollback = s.flash.rollback :=
  (endMgt_frame ..).rollback_eq (by decide)

@[simp] theorem mgtDiscard_rollback (s : State) : s.mgtDiscard.flash.rollback = s.flash.rollback :=
  (mgtDiscard_frame ..).rollback_eq (by decide)

@[simp] theorem mgtReply_flash (s : State) (session type status seq : Nat) (data : Bytes) :
    (s.mgtReply session type status seq data).flash = s.flash := rfl

@[simp] theorem fwState_flash (s : State) (n : Nat) (keep : Bool) : (s.fwState n keep).flash = s.flash := rfl

/-- A request inside a session keeps the counter where its answer keeps it. -/
theorem KeepsRollback.mgtRow {s : State} {req : MgtRequest} {type : Nat} {f : State → Answer}
    (h : (f s).2.2.flash.rollback = s.flash.rollback) : s.KeepsRollback (Machine.mgtRow req type s f) := by
  refine .next (onlyIf_rollback ?_)
  cases (Tab.find req.session s.mgt.sessions).filter (·.established) with
  | none => simp
  | some x => simp [h]

/-! ### Resets -/

@[simp] theorem coldReset_flash (s : State) : s.coldReset.flash = s.flash := rfl

@[simp] theorem warmReset_flash (s : State) : s.warmReset.flash = s.flash := rfl

/-- A reset that begins keeps the counter: it keeps the boot flash (Table 21-5), less the count of its cause. -/
@[simp] theorem beginReset_rollback (s : State) (k : ResetKind) : (s.beginReset k).flash.rollback = s.flash.rollback := by
  have hpin := (clearFaultPin_frame s).rollback_eq (by decide)
  cases k with
  | warm n => simpa [beginReset] using hpin
  | cold n => simpa [beginReset] using hpin

@[simp] theorem requestReset_rollback (s : State) (k : ResetKind) :
    (s.requestReset k).flash.rollback = s.flash.rollback := by
  unfold requestReset
  split
  · rfl
  · split
    · split
      · exact beginReset_rollback ..
      · rfl
    · split
      · rfl
      · exact beginReset_rollback ..

end State

/-! ### The rows that write the boot flash and leave the counter -/

theorem execFwCheckComplete_keepsRollback (v : FwVerdict) (s : State) :
    s.KeepsRollback (execFwCheckComplete v s) := by
  refine .next (onlyIf_rollback ?_)
  simp

theorem execFwWriteComplete_keepsRollback (s : State) : s.KeepsRollback (execFwWriteComplete s) :=
  .next (onlyIf_rollback (Flash.setOther_rollback ..))

theorem execMgtAddrWrite_keepsRollback (s : State) : s.KeepsRollback (execMgtAddrWrite s) :=
  .next (takeAction_rollback fun _ _ => rfl)

theorem execMgtHello_keepsRollback (msg : KeyMessage) (s : State) : s.KeepsRollback (execMgtHello msg s) := by
  refine .next (onlyIf_rollback ?_)
  have hrespond (t : State) : (t.mgtRespond msg.bytes).flash.rollback = t.flash.rollback :=
    (mgtRespond_frame ..).rollback_eq (by decide)
  simp [hrespond]

theorem execCredentialReplacement_keepsRollback (req : MgtRequest) (keys : Bytes) (sigOk : Bool) (s : State) :
    s.KeepsRollback (execCredentialReplacement req keys sigOk s) := by
  refine .mgtRow ?_
  split
  · rfl
  · split <;> rfl

theorem execManagementCredentialRecovery_keepsRollback (token : Bytes) (sigOk : Bool) (s : State) :
    s.KeepsRollback (execManagementCredentialRecovery token sigOk s) := by
  refine .next (onlyIf_rollback ?_)
  split <;> simp

/-- The row of a reset that a WRITE asked for. -/
theorem actionRow_requestReset_keepsRollback (a : MgtAction) (k : ResetKind) (s : State) :
    s.KeepsRollback (actionRow a s fun s => s.requestReset k) :=
  .next (takeAction_rollback fun _ t => requestReset_rollback t k)

theorem execInputStartLevel_keepsRollback (s : State) : s.KeepsRollback (execInputStartLevel s) :=
  .next (onlyIf_rollback (beginReset_rollback ..))

/-- A function other than 0 is at most disabled, which leaves the boot flash (R418). -/
theorem execFunctionLevelReset_keepsRollback (function : Nat) (s : State) :
    s.KeepsRollback (execFunctionLevelReset function s) := by
  refine .checked (onlyIf_rollback ?_)
  split
  · exact requestReset_rollback ..
  · extract_lets t
    split
    · exact (disable_frame t function true none).rollback_eq (by decide)
    · rfl

/-- The boot chain faults, or runs the slot it chose (Table 19-2). -/
theorem execBootChainComplete_keepsRollback (v : BootVerdict) (s : State) :
    s.KeepsRollback (execBootChainComplete v s) := by
  refine .next (onlyIf_rollback ?_)
  have hfault (h : Halt) : (s.fault h).flash.rollback = s.flash.rollback := (fault_frame ..).rollback_eq (by decide)
  extract_lets a b
  cases s.flash.choose a b with
  | none => simp [bootFault, hfault]
  | some slot => simp [bootFault, hfault, booted]

theorem execStandbyOff_keepsRollback (s : State) : s.KeepsRollback (execStandbyOff s) :=
  .next (onlyIf_rollback ((releasePins_frame s).rollback_eq (by decide)))

/-- The record is written and the halt counted, and a reset that waited begins (R444). -/
theorem execFaultRecordWritten_keepsRollback (s : State) : s.KeepsRollback (execFaultRecordWritten s) := by
  refine .next ?_
  cases s.health.halt with
  | none => rfl
  | some h =>
    have hcount (t : State) : (t.countHalt h.cause).flash.rollback = t.flash.rollback :=
      (countHalt_frame ..).rollback_eq (by decide)
    show (if h.recorded then s else _).flash.rollback = _
    split
    · rfl
    · cases hr : h.request with
      | none => exact hcount _
      | some k => exact (beginReset_rollback ..).trans (hcount _)

/-! ### The counter along a step -/

/-- Every command but DEVICE_READY leaves the counter as it is. -/
theorem exec_keepsRollback {i : Instr} (hi : i ≠ .deviceReady) (s : State) : s.KeepsRollback (exec i s) := by
  cases i with
  | deviceReady => exact absurd rfl hi
  | mgtResetWarm | mgtResetCold => exact actionRow_requestReset_keepsRollback _ _ s
  | perstAssert | hotReset | pcieLinkDownTimeout => exact .next (requestReset_rollback ..)
  | fwCheckComplete v => exact execFwCheckComplete_keepsRollback v s
  | fwWriteComplete => exact execFwWriteComplete_keepsRollback s
  | mgtAddrWrite => exact execMgtAddrWrite_keepsRollback s
  | mgtHello msg => exact execMgtHello_keepsRollback msg s
  | inputStartLevel => exact execInputStartLevel_keepsRollback s
  | functionLevelReset f => exact execFunctionLevelReset_keepsRollback f s
  | bootChainComplete v => exact execBootChainComplete_keepsRollback v s
  | standbyOff => exact execStandbyOff_keepsRollback s
  | faultRecordWritten => exact execFaultRecordWritten_keepsRollback s
  | credentialReplacement req keys sigOk => exact execCredentialReplacement_keepsRollback req keys sigOk s
  | managementCredentialRecovery token sigOk => exact execManagementCredentialRecovery_keepsRollback token sigOk s
  | _ =>
    refine (exec_frame s _).keepsRollback ?_
    simp only [Instr.writes]
    decide

/-- DEVICE_READY raises the counter to the SVN of the image that runs, where that is higher (R402). -/
theorem exec_deviceReady_rollback_le {s t : State} (h : exec .deviceReady s = .next t) :
    s.flash.rollback ≤ t.flash.rollback := by
  obtain rfl : onlyIf _ _ s = t := Host.Outcome.next.inj h
  unfold onlyIf
  split
  · exact Nat.le_max_left ..
  · exact Nat.le_refl _

theorem exec_rollback_le {i : Instr} {s t : State} (h : exec i s = .next t) : s.flash.rollback ≤ t.flash.rollback := by
  by_cases hi : i = .deviceReady
  · subst hi
    exact exec_deviceReady_rollback_le h
  · exact Nat.le_of_eq (exec_keepsRollback hi s t h).symm

/-! ### What an image of a higher or a lower SVN meets -/

/-- A scrubbed device with its ports settled becomes ready (R402, R441). -/
theorem exec_deviceReady_eq {s : State} {x : FwImage} (hboot : s.power.boot = .scrubbed) (hhalt : s.health.halt = none)
    (hports : s.portsSettled = true) (hrun : s.flash.running = some x) :
    exec .deviceReady s = .next { s with
      power := { s.power with boot := .ready }
      flash := { s.flash with rollback := max s.flash.rollback x.svn } } := by
  show execDeviceReady s = _
  simp [execDeviceReady, onlyIf, hboot, hhalt, hports, hrun]

/-- The boot chain's image check refuses an SVN below the counter, whatever else it found (R398). -/
theorem Flash.slotFails_of_svn_lt {f : Flash} {x : FwImage} (h : x.svn < f.rollback) (found : Nat) :
    f.slotFails (some x) found ≠ 0 := by
  by_cases hfound : found = 0
  · simp [Flash.slotFails, hfound, h]
  · simp [Flash.slotFails, hfound]

/-- A firmware update refuses an SVN below the counter: no check before that one accepts an image (R398, R433). -/
theorem FwVerdict.status_ne_accepted_of_svn_lt {v : FwVerdict} {rollback : Nat} (h : v.svn < rollback) :
    FwVerdict.status v rollback ≠ 3 := by
  simp only [FwVerdict.status, h, if_true]
  split
  · decide
  · split
    · decide
    · split <;> decide

/-- Settles O27: every command but DEVICE_READY leaves the counter, and DEVICE_READY takes a maximum. -/
theorem antiRollbackCounterNeverFalls : Obligations.AntiRollbackCounterNeverFalls :=
  ⟨fun _ _ _ h => exec_rollback_le h,
    fun _ _ hboot hhalt hports hrun => ⟨_, exec_deviceReady_eq hboot hhalt hports hrun, rfl, rfl⟩,
    fun _ _ n h => Flash.slotFails_of_svn_lt h n,
    fun _ _ h => FwVerdict.status_ne_accepted_of_svn_lt h⟩

end Sys2Proof.Machine
end

section
/-! The chronometer over BAR0 (R474): a read of CHR_TIME's low half latches the high half for the function that reads;
a reset puts every function's latch back to 0. -/

namespace Sys2Proof.Machine
namespace State

/-! ### What the word at 0x3404 rests on -/

/-- The high half of CHR_TIME is the function's latch and nothing else (R474). -/
theorem bar0Word_chrTimeHigh (s : State) (f : Nat) : s.bar0Word f 0x3404 = (s.fn f).latch := rfl

@[simp] theorem emit_fn (s : State) (o : Out) (f : Nat) : (s.emit o).fn f = s.fn f := rfl

@[simp] theorem emit_outbox (s : State) (o : Out) : (s.emit o).outbox = s.outbox ++ [o] := rfl

/-- Functions but the one changed stay as they were. -/
theorem fn_onFn_ne (s : State) {f g : Nat} (change : FnState → FnState) (h : g ≠ f) :
    (s.onFn f change).fn g = s.fn g :=
  Tab.getD_put_ne _ _ _ h

/-! ### A read of the low half -/

/-- CHR_TIME's low half read by a function: its latch takes the high half, and the time is answered. -/
def chrTimeRead (s : State) (f size : Nat) : State :=
  (s.onFn f fun x => { x with latch := s.now / 2 ^ 32 % 2 ^ 32 }).emit (.readData f (leBytes size s.now))

/-- On an open BAR0 a read of 4 or 8 bytes is one of the right size. -/
theorem exec_chrTimeRead_eq {s : State} {f size : Nat} (hf : f ≤ 6) (hbar : s.bar0 = true)
    (hsize : size = 4 ∨ size = 8) : exec (.chrTimeRead f size) s = .next (s.chrTimeRead f size) := by
  have hgood : ¬(size ≠ 4 ∧ size ≠ 8) := by omega
  show execChrTimeRead f size s = _
  simp [execChrTimeRead, chrTimeRead, checked, onlyIf, hf, hbar, hgood]

@[simp] theorem chrTimeRead_outbox (s : State) (f size : Nat) :
    (s.chrTimeRead f size).outbox = s.outbox ++ [.readData f (leBytes size s.now)] := by
  simp [chrTimeRead]

theorem chrTimeRead_latch (s : State) (f size : Nat) :
    ((s.chrTimeRead f size).fn f).latch = s.now / 2 ^ 32 % 2 ^ 32 := by
  simp [chrTimeRead]

theorem chrTimeRead_fn_ne (s : State) {f g : Nat} (size : Nat) (h : g ≠ f) :
    (s.chrTimeRead f size).fn g = s.fn g := by
  simp [chrTimeRead, fn_onFn_ne, h]

/-! ### Resets -/

/-- Where no function has a record of its own, each is as after a reset. -/
theorem fn_of_fns_nil {s : State} (h : s.fns = []) (f : Nat) : s.fn f = .reset := by
  simp [fn, h, Tab.getD, Tab.find]

/-- The functions are among what every reset loses (Table 21-5). -/
@[simp] theorem beginReset_fns (s : State) (k : ResetKind) : (s.beginReset k).fns = [] := by
  cases k with
  | warm n => exact count_fns s.clearFaultPin.warmReset 54 n 1
  | cold n => exact count_fns s.clearFaultPin.coldReset 54 n 1

end State

open State

/-- Settles O33: the word at 0x3404 is the latch, which a low-half read sets for the reader alone and a reset clears. -/
theorem chrTimeReadsLatchTheHighHalf : Obligations.ChrTimeReadsLatchTheHighHalf := by
  refine ⟨fun s f size hf hbar hsize => ⟨s.chrTimeRead f size, exec_chrTimeRead_eq hf hbar hsize,
    chrTimeRead_outbox s f size, ?_, fun g hg => ?_⟩, fun f => ?_, fun s k f => ?_⟩
  · rw [bar0Word_chrTimeHigh, chrTimeRead_latch]
  · rw [bar0Word_chrTimeHigh, bar0Word_chrTimeHigh, chrTimeRead_fn_ne s size hg]
  · rw [bar0Word_chrTimeHigh, fn_of_fns_nil rfl]
    rfl
  · rw [bar0Word_chrTimeHigh, fn_of_fns_nil (beginReset_fns s k)]
    rfl

end Sys2Proof.Machine
end

section
/-! A step as a whole: what it takes from the queue, what a command may change, and that a well-kept state stays
well kept. -/

namespace Sys2Proof.Machine
open State

/-- Settles O1: the definition of a step. -/
theorem stepRunsFrontCommand : Obligations.StepRunsFrontCommand := fun _ _ _ => rfl

theorem step_of_pending_nil {s : State} (h : s.pending = []) : step s = .next (tick s) := by
  rw [step, h]

theorem step_of_pending_cons {s : State} {i : Instr} {rest : List Instr} (h : s.pending = i :: rest) :
    step s = exec i { s with pending := rest } := by
  rw [step, h]

/-- Settles O2: the idle step is one tick, which looks at the standby rails. -/
theorem idleStepAdvancesChronometer : Obligations.IdleStepAdvancesChronometer := by
  intro s hidle
  rw [step_of_pending_nil hidle, tick]
  exact ⟨fun h => by rw [if_pos h], fun h => by rw [if_neg (by simp [h])]⟩

/-- Settles O5: the frame of every command is that of its row. -/
theorem commandsChangeOnlyTheirComponents : Obligations.CommandsChangeOnlyTheirComponents :=
  fun i s t h => (exec_frame s i t h).only

/-- A command keeps a well-kept state well kept. -/
theorem exec_inv {i : Instr} {s t : State} (h : s.Inv) (hexec : exec i s = .next t) : t.Inv :=
  (exec_frame s i t hexec).inv h

/-- Settles O8: an idle step moves the chronometer alone, and a command's frame keeps the invariant. -/
theorem stepKeepsStateWellKept : Obligations.StepKeepsStateWellKept := by
  intro s t hinv hstep
  cases hp : s.pending with
  | nil =>
    obtain rfl := Host.Outcome.next.inj ((step_of_pending_nil hp).symm.trans hstep)
    exact (tick_frame s).inv hinv
  | cons i rest =>
    rw [step_of_pending_cons hp] at hstep
    exact exec_inv (s := { s with pending := rest }) (hinv.same rfl rfl rfl rfl) hstep

/-- Settles O7: after reset memory and commands are empty, and the map lists the device's four regions in order. -/
theorem resetIsWellKept : Obligations.ResetIsWellKept := ⟨rfl, rfl, rfl⟩

/-- Settles O6: reset lists no function, partition or core, and of the regions the device's four. -/
theorem resetIsAColdStart : Obligations.ResetIsAColdStart := by
  refine ⟨rfl, rfl, rfl, rfl, rfl, rfl, rfl, rfl, rfl, rfl, rfl, rfl, rfl, rfl, rfl, rfl,
    fun f => ⟨rfl, rfl, rfl, rfl, rfl⟩, fun p => ⟨rfl, rfl⟩, fun c => ⟨rfl, rfl⟩, fun r hr => ?_, fun r hlo hhi => ?_, ?_⟩
  · have hne (n : Nat) (hn : 1020 ≤ n) : ¬ n = r := by omega
    simp [State.region, State.reset, State.blank, regionsAtReset, Tab.getD, Tab.find, hne, RegionRec.free]
  · obtain rfl | rfl | rfl | rfl : r = 1020 ∨ r = 1021 ∨ r = 1022 ∨ r = 1023 := by omega
    all_goals rfl
  · rfl

end Sys2Proof.Machine
end

section
/-! Which commands have a next state: a row stops with a fault exactly where an operand names a unit the device does
not have (log entry 7). -/

namespace Sys2Proof

/-- Whether the units that a row's guard looks at exist (Table 0-2). -/
def Instr.units : Instr → Bool
  | .commitTimeout n => n ≤ 7
  | .teardownComplete p | .scratchpadZeroComplete p | .keySessionPendingTimeout p _ | .keySessionIdleTimeout p _ =>
    1 ≤ p && p ≤ 6
  | .unmappingComplete r | .regionScrubComplete r => r < 1020
  | .ringSqTailWrite f r _ | .ringCqHeadWrite f r _ | .ringCtrlWrite f r _ | .ringApBaseWrite f r _ => f ≤ 6 && r ≤ 6
  | .coalesceWindowExpire f v => f ≤ 6 && v ≤ 59
  | .busMasterEnableChange f _ | .bar0BadAccess f _ _ | .chrTimeRead f _ | .chrSecondsWrite f _
  | .functionLevelReset f => f ≤ 6
  | .bar2Read f off n _ => f ≤ 6 && off + n ≤ 2 ^ 28
  | .bar2Write f off b _ => f ≤ 6 && off + b.length ≤ 2 ^ 28
  | .registerWrite f off _ _ => f ≤ 6 && off < 65536
  | .perturbGoApply k | .perturbGoClear k | .routeStepDispatch k | .routeStepComplete k | .layerStep k | .openBox k
  | .closeBox k | .waitBox k | .waitSatisfied k | .orderStep k | .releaseSlots k | .vecAdd k | .vecSub k | .vecMul k
  | .vecFma k | .vecMin k | .vecMax k | .vecAbs k | .vecNeg k | .vecCmp k | .vecSelect k | .vecConvert k | .vecDiv k
  | .vecSqrt k | .vecRsqrt k | .vecRecip k | .vecExp2 k | .vecLog2 k | .vecSum k | .vecSumsq k | .vecMaxi k
  | .vecMini k | .vecLse k | .vecSoftmax k | .vecRmsnorm k | .vecLayernorm k | .vecGradAdd k | .vecSgdStep k
  | .vecAdamStep k | .vecScaleUpdate k | .vecScatterAdd k | .vecRelu k | .vecClamp k | .vecGelu k | .vecSilu k
  | .sackRecordWrite k | .scatterGroupClose k | .sortingFramePass k | .letterboxWriteLanded k _ => k < 6
  | .tileFetch k a | .tileArrival k a | .recoderLoad k a | .residencyLoad k a | .feedVector k a | .columnClaim k a
  | .guestAttach k a | .memoryReadResponse k a (.tile _) => k < 6 && a < 96
  | .memoryReadResponse _ _ (.line n _) => n < 2 ^ 34
  | .laneTileSwitch k a l | .laneStep k a l | .runPromotion k a l => l < 128 && (k < 6 && a < 96)
  | .bandRead k b | .drainRead k b => k < 6 && b < 12
  | .pigeonholeUpdate k b => k < 6 && b < 16
  | .bankAccessGrant k b | .bankDrainComplete k b | .bankPowerUpComplete k b => k < 6 && b < 64
  | .letterboxWriteArrival k w => k < 6 && w.core < 6
  | .selfRefreshEntry n | .selfRefreshExit n | .refreshManagementRequest n => n < 16
  | .ptpMessage p _ => p.all (· < 16)
  | .flitReceive p _ | .replayTimeout p | .linkRetrainEnd p _ | .plinkLinkUp p _ | .ethernetLinkUp p | .portLinkDown p
  | .packetReceive p _ | .arpOrNdRequest p | .rtpPacket p | .parcelData p | .parcelGrant p | .parcelNack p
  | .parcelResend p => p < 16
  | .frameRelease n | .beatMissed n | .deadlineMiss n | .resultHandover n | .memberRenewTimeout n | .grantTimer n
  | .retransmitTimeout n | .channelTimeout n | .finalGrantWindowEnd n => n < 64
  | _ => true

end Sys2Proof

namespace Sys2Proof.Machine

/-- The outcome of a row with a guard: a next state where it holds, the model's one fault where it does not. -/
def Guarded (c : Bool) (r : Result) : Prop := if c then ∃ t, r = .next t else r = .fault .noSuchUnit

theorem next_guarded (s : State) : Guarded true (.next s) := ⟨s, rfl⟩

theorem checked_guarded (c : Bool) (s : State) (f : State → State) : Guarded c (checked c s f) := by
  cases c with
  | false => rfl
  | true => exact next_guarded _

theorem laneRow_guarded (core array lane : Nat) (s : State) (f : Nat → Nat → LayerExec → State → State) :
    Guarded (lane < 128 && (core < 6 && array < 96)) (laneRow core array lane s f) := by
  by_cases h : lane < 128
  · simp only [laneRow, h, if_true, decide_true, Bool.true_and]
    exact checked_guarded ..
  · simp [laneRow, h, Guarded]

theorem execPackTiles_guarded (id : Nat) (s : State) : Guarded true (execPackTiles id s) := by
  unfold execPackTiles
  split <;> exact next_guarded _

theorem execJoinCascade_guarded (id : Nat) (s : State) : Guarded true (execJoinCascade id s) := by
  unfold execJoinCascade
  split <;> exact next_guarded _

/-- Every row answers where its guard holds, and stops with the fault where it does not. -/
theorem exec_guarded (i : Instr) (s : State) : Guarded i.units (exec i s) := by
  cases i
  case packTiles id => exact execPackTiles_guarded id s
  case joinCascade id => exact execJoinCascade_guarded id s
  case laneTileSwitch | laneStep | runPromotion => exact laneRow_guarded ..
  case memoryReadResponse core array response =>
    dsimp only [exec, execMemoryReadResponse]
    cases response with
    | tile r => exact checked_guarded ..
    | line n r => exact checked_guarded ..
  case keySessionPendingTimeout p _ | keySessionIdleTimeout p _ =>
    show Guarded _ (keyTimeout ..)
    exact checked_guarded ..
  case openSession | closeSession | queryDevice | stageConfig | commitConfig | commitApply | enableFunction |
    disableFunction | allocRegion | freeRegion | scrubRegion | parcelAccept | parcelSend | loadRoute |
    verifyRoute | runRoute | abortRoute | packSort | openStream | closeStream | queryStream | leaveCascade |
    reduceBucket | leaseRevoke | attest | openKeySession | setConfidential | runBist | bistLogicPhaseComplete |
    bistMemoryPhaseComplete | setPerturb | readCounters | commandFetch | commandCompletion | mgtResetWarm |
    mgtResetCold | mgtCapWrite | fwStart | fwCommit | fwAbort | fwCheckComplete | fwWriteComplete | mgtAddrWrite |
    mgtAddrTakeEffect | mgtHello | mgtConfirm | mgtRead | mgtWrite | fwChunk | mgtCert | mgtAttest | faultRead |
    mgtSessionIdleTimeout | smbusBlockRead | i3cCommonCommand | inputStartLevel | perstAssert | hotReset |
    pcieLinkDownTimeout | standbyRailsUp | mainRailsUp | bootChainComplete | lpddr6TrainingComplete |
    memoryScrubComplete | deviceReady | pwrWarnAssert | warnClearRestart | pwrWarnDeassert | shortResetLevelDip |
    supplyLoss | standbyOff | overRangeEntry | inputProtectionDisconnect | faultRecordWritten |
    internalLogicError | controlCoreWatchdogExpire | paceWindowEnd | powerSample | temperatureSample |
    epochBoundary | vcoreChangeComplete | reservedSlotStart | ppsEdge | holdoverEntry | relayCmd | relayReply |
    lbWrite | lbAck | plinkClaim | claimReply | plinkRelease | renew | renewTimer | revoked | leaseExpiry |
    memberLost | memberPrepare | memberCommit | memberLeave | memberMasterLost | joinTimeout | joinPrepareTimeout |
    reduceRegister | registrationTimeout | reduceStart | reducePart | reduceFinal | reduceRedo | tokenExpiry | pcieLinkL0 | joinReply |
    credentialReplacement | managementCredentialRecovery =>
    exact next_guarded _
  all_goals
    dsimp only [exec]
    exact checked_guarded ..

theorem exec_answers {i : Instr} (h : i.units = true) (s : State) : ∃ t, exec i s = .next t := by
  simpa [Guarded, h] using exec_guarded i s

theorem exec_absent {i : Instr} (h : i.units = false) (s : State) : exec i s = .fault .noSuchUnit := by
  simpa [Guarded, h] using exec_guarded i s

/-- A well-formed command names units that exist. -/
theorem units_of_wf {i : Instr} (h : i.wf = true) : i.units = true := by
  cases i
  case memoryReadResponse core array response =>
    cases response with
    | tile => exact h
    | line => exact h
  case ptpMessage port msg => exact h
  all_goals
    simp only [Instr.wf, coreOk, fnOk, portOk, partOk, Bool.and_eq_true, decide_eq_true_eq] at h
    simp only [Instr.units, Bool.and_eq_true, decide_eq_true_eq]
  all_goals omega

/-- Settles O3: a well-formed command passes its row's guard, and every row answers behind its guard. -/
theorem everyWellFormedCommandAnswers : Obligations.EveryWellFormedCommandAnswers :=
  fun _ s h => exec_answers (units_of_wf h) s

/-- Settles O4: a number beyond Table 0-2 fails the row's guard. -/
theorem absentUnitsFault : Obligations.AbsentUnitsFault := by
  have habsent (s : State) (l : List Instr) (h : ∀ i ∈ l, i.units = false) : ∀ i ∈ l, exec i s = .fault .noSuchUnit :=
    fun i hi => exec_absent (h i hi) s
  refine fun s => ⟨fun core h => habsent s _ ?_, fun core array lane h => ?_, fun core band h => ?_, fun core bank h => ?_,
    fun port h => habsent s _ ?_, fun n h => habsent s _ ?_, fun p h => ?_⟩
  · simpa [Instr.units] using h
  · refine ⟨exec_absent ?_ s, exec_absent ?_ s, exec_absent ?_ s⟩ <;> (simp [Instr.units]; omega)
  · refine ⟨exec_absent ?_ s, exec_absent ?_ s⟩ <;> (simp [Instr.units]; omega)
  · refine ⟨exec_absent ?_ s, exec_absent ?_ s, exec_absent ?_ s⟩ <;> (simp [Instr.units]; omega)
  · simpa [Instr.units] using h
  · simpa [Instr.units] using h
  · refine ⟨exec_absent ?_ s, exec_absent ?_ s, exec_absent ?_ s, exec_absent ?_ s⟩ <;> (simp [Instr.units]; omega)

end Sys2Proof.Machine
end

section
/-! How commands end (R291, R302). -/

namespace Sys2Proof.Machine

/-- The two ways the model asks for a bit are one. -/
theorem bitOf_eq_testBit (n i : Nat) : bitOf n i = n.testBit i := by
  rw [Nat.testBit_eq_decide_div_mod_eq, bitOf]
  rfl

namespace State

theorem cmd_onCmd_ne {s : State} {id j : Nat} (g : Cmd → Cmd) (h : j ≠ id) : (s.onCmd id g).cmd j = s.cmd j := by
  unfold onCmd cmd Tab.modify
  split
  · rfl
  · exact Tab.find_put_ne h ..

theorem run_onRun {s : State} {rid : Nat} {r : Run} (g : Run → Run) (h : s.run rid = some r) :
    (s.onRun rid g).run rid = some (g r) := by
  have h' : Tab.find rid s.runs = some r := h
  simp [onRun, run, Tab.modify, h']

end State

open State

/-- Settles O9: a command that completes or fails is ended once, and no other is touched. -/
theorem commandsEndWithStatusAndDetail : Obligations.CommandsEndWithStatusAndDetail := by
  refine fun s id hopen => ⟨fun v n => ⟨complete_ends hopen, fun j hj => endRaw_other hj, (complete_frame ..).only⟩,
    fun st d => ⟨fail_ends hopen, fun j hj => ?_, (fail_frame ..).only⟩⟩
  calc (s.fail id st d).cmd j = (s.onCmd id fun c => { c with result := none }).cmd j := endRaw_other hj
    _ = s.cmd j := cmd_onCmd_ne _ hj

/-- The ranking of R302, notice by notice. -/
theorem rankedNotice_code (n : Nat) : (rankedNotice n).code =
    if n.testBit 2 then 0x0002 else if n.testBit 3 then 0x0003 else if n.testBit 4 then 0x0004
    else if n.testBit 5 then 0x0005 else if n.testBit 1 then 0x0001 else 0x0000 := by
  simp only [rankedNotice, bitOf_eq_testBit, apply_ite Status.code]
  rfl

/-- Settles O10: a notice is one bit of the run's mask, and the mask stands below the value in DETAIL. -/
theorem completionsRankTheirNotices : Obligations.CompletionsRankTheirNotices := by
  refine ⟨fun s rid b r hrun => ⟨_, run_onRun _ hrun, fun j => ?_⟩, fun s id v n hopen hn _ => ?_⟩
  · show (r.notices ||| 2 ^ b).testBit j = _
    rw [Nat.testBit_or, Nat.testBit_two_pow]
    exact congrArg _ (Bool.eq_iff_iff.mpr ⟨fun h => beq_iff_eq.mpr (of_decide_eq_true h).symm,
      fun h => decide_eq_true (beq_iff_eq.mp h).symm⟩)
  · obtain ⟨c, hfound, hended, hstatus, hdetail⟩ := complete_ends (v := v) (n := n) hopen
    rw [Nat.mod_eq_of_lt hn] at hstatus hdetail
    exact ⟨c, hfound, hended, by omega, by omega, by omega, by rw [hstatus, rankedNotice_code]⟩

end Sys2Proof.Machine
end

section
/-! Device memory through the partition map (R221, R222): a range is read and written byte by byte at the physical
addresses of its bytes, and no two bytes of the partitions share one. -/

namespace Sys2Proof.Machine

theorem Tab.find_of_mem {β : Type} {k : Nat} {v : β} {t : Table β} (ht : Tab.rising t = true) (h : (k, v) ∈ t) :
    Tab.find k t = some v := by
  induction t with
  | nil => exact absurd h List.not_mem_nil
  | cons d t ih =>
    obtain ⟨a, w⟩ := d
    obtain ⟨hlt, ht⟩ := Tab.rising_cons.1 ht
    obtain h | h := List.mem_cons.1 h
    · cases h
      simp [Tab.find]
    · have : a < k := hlt _ h
      simp [Tab.find, Nat.ne_of_lt this, ih ht h]

/-! ### Ranges cut at region borders -/

/-- A list of parts that cover `n` bytes from `a` on in order, each inside one region of 1 GiB. -/
inductive Covers : Nat → Nat → List (Nat × Nat) → Prop
  | nil (a : Nat) : Covers a 0 []
  | cons {a k n : Nat} {l : List (Nat × Nat)} (inside : a % 2 ^ 30 + k ≤ 2 ^ 30) (rest : Covers (a + k) n l) :
    Covers a (k + n) ((a, k) :: l)

/-- Where the part of a range in its `i`-th region begins. -/
def partStart (a i : Nat) : Nat := max a ((a / 2 ^ 30 + i) * 2 ^ 30)

theorem covers_parts {a n m i : Nat} (hn : 0 < n) (h : i + m = (a + n - 1) / 2 ^ 30 - a / 2 ^ 30) :
    Covers (partStart a i) (a + n - partStart a i) ((List.range' i (m + 1)).map fun i =>
      (partStart a i, min (a + n) ((a / 2 ^ 30 + i + 1) * 2 ^ 30) - partStart a i)) := by
  induction m generalizing i with
  | zero =>
    have hk : min (a + n) ((a / 2 ^ 30 + i + 1) * 2 ^ 30) = a + n := by omega
    rw [List.range'_succ, List.map_cons, hk]
    have inside : partStart a i % 2 ^ 30 + (a + n - partStart a i) ≤ 2 ^ 30 := by
      unfold partStart
      omega
    exact .cons (n := 0) inside (.nil _)
  | succ m ih =>
    have hrest := ih (i := i + 1) (by omega)
    have hk : min (a + n) ((a / 2 ^ 30 + i + 1) * 2 ^ 30) = partStart a (i + 1) := by
      unfold partStart
      omega
    have hle : partStart a i ≤ partStart a (i + 1) ∧ partStart a (i + 1) ≤ a + n := by
      unfold partStart
      omega
    have hlen : a + n - partStart a i = (partStart a (i + 1) - partStart a i) + (a + n - partStart a (i + 1)) := by
      omega
    rw [List.range'_succ, List.map_cons, hk, hlen]
    refine .cons ?_ ?_
    · unfold partStart
      omega
    · rwa [Nat.add_sub_cancel' hle.1]

theorem covers_regionParts (a n : Nat) : Covers a n (regionParts a n) := by
  obtain rfl | hn := Nat.eq_zero_or_pos n
  · exact .nil a
  · have hstart : partStart a 0 = a := by
      unfold partStart
      omega
    have h := covers_parts (a := a) (i := 0) hn (Nat.zero_add _)
    rw [hstart, Nat.add_sub_cancel_left] at h
    rwa [regionParts, if_neg (Nat.ne_of_gt hn), List.range_eq_range']

/-! ### Physical addresses -/

namespace State

theorem physRegion_mem {s : State} {p l r : Nat} (h : s.physRegion p l = some r) :
    ∃ x, (r, x) ∈ s.regions ∧ x.owner = p ∧ x.logical = l := by
  obtain ⟨e, he, rfl⟩ := Option.map_eq_some_iff.1 h
  have hholds := List.find?_some he
  simp only [Bool.and_eq_true, beq_iff_eq] at hholds
  exact ⟨e.2, List.mem_of_find?_eq_some he, hholds.1.1, hholds.1.2⟩

/-- A physical region is one partition's, under one logical number (R221). -/
theorem physRegion_inj {s : State} {p q l m r : Nat} (hs : s.Inv) (hp : s.physRegion p l = some r)
    (hq : s.physRegion q m = some r) : p = q ∧ l = m := by
  obtain ⟨-, -, hregions⟩ := hs
  obtain ⟨x, hx, rfl, rfl⟩ := physRegion_mem hp
  obtain ⟨y, hy, rfl, rfl⟩ := physRegion_mem hq
  have := (Tab.find_of_mem hregions hx).symm.trans (Tab.find_of_mem hregions hy)
  cases this
  exact ⟨rfl, rfl⟩

theorem phys_eq_some {s : State} {p a x : Nat} :
    s.phys p a = some x ↔ a < 2 ^ 40 ∧ ∃ r, s.physRegion p (a / 2 ^ 30) = some r ∧ r * 2 ^ 30 + a % 2 ^ 30 = x := by
  unfold phys
  split
  · simp; omega
  · simp; omega

/-- A physical byte is one partition's, at one address (R222). -/
theorem phys_inj {s : State} {p q a b x : Nat} (hs : s.Inv) (hp : s.phys p a = some x) (hq : s.phys q b = some x) :
    p = q ∧ a = b := by
  obtain ⟨-, r, hr, rfl⟩ := phys_eq_some.1 hp
  obtain ⟨-, t, ht, hx⟩ := phys_eq_some.1 hq
  obtain rfl : t = r := by omega
  obtain ⟨rfl, hl⟩ := physRegion_inj hs hr ht
  exact ⟨rfl, by omega⟩

/-- Inside a region addresses run on. -/
theorem phys_add {s : State} {p a d x : Nat} (h : s.phys p a = some x) (hd : a % 2 ^ 30 + d < 2 ^ 30) :
    s.phys p (a + d) = some (x + d) := by
  obtain ⟨ha, r, hr, rfl⟩ := phys_eq_some.1 h
  have hregion : (a + d) / 2 ^ 30 = a / 2 ^ 30 := by omega
  exact phys_eq_some.2 ⟨by omega, r, by rw [hregion, hr], by omega⟩

theorem phys_congr {s t : State} (h : t.regions = s.regions) (p a : Nat) : t.phys p a = s.phys p a := by
  simp [phys, physRegion, h]

theorem mapped_congr {s t : State} (h : t.regions = s.regions) (p a n : Nat) : t.mapped p a n = s.mapped p a n := by
  simp [mapped, phys_congr h]

/-- Every byte of a mapped range has a physical address. -/
theorem phys_of_mapped {s : State} {p a n y : Nat} (h : s.mapped p a n = true) (hlo : a ≤ y) (hhi : y < a + n) :
    ∃ x, s.phys p y = some x := by
  simp only [mapped, Bool.or_eq_true, beq_iff_eq, List.all_eq_true, List.mem_range] at h
  obtain h | h := h
  · omega
  · have hbase := h (y / 2 ^ 30 - a / 2 ^ 30) (by omega)
    rw [Nat.add_sub_cancel' (Nat.div_le_div_right hlo)] at hbase
    obtain ⟨x, hx⟩ := Option.isSome_iff_exists.1 hbase
    have hy : y / 2 ^ 30 * 2 ^ 30 + y % 2 ^ 30 = y := by omega
    exact ⟨_, hy ▸ phys_add hx (d := y % 2 ^ 30) (by omega)⟩

/-- The physical address of a partition address that has one. -/
def physD (s : State) (p a : Nat) : Nat := (s.phys p a).getD 0

/-- From an address whose region is mapped on, physical addresses run on to the region's end. -/
theorem physD_add {s : State} {p a d x : Nat} (h : s.phys p a = some x) (hd : a % 2 ^ 30 + d < 2 ^ 30) :
    s.physD p (a + d) = s.physD p a + d := by
  simp [physD, h, phys_add h hd]

end State

/-! ### Bytes read and written at given places -/

/-- `n` bytes from `a` on, each read at its place. -/
def readAt (m : ByteStore) (place : Nat → Nat) (a : Nat) : Nat → Bytes
  | 0 => []
  | n + 1 => Tab.getD 0 m (place a) :: readAt m place (a + 1) n

/-- Bytes from `a` on, each written at its place. -/
def writeAt (place : Nat → Nat) (m : ByteStore) (a : Nat) : Bytes → ByteStore
  | [] => m
  | b :: bs => writeAt place (Tab.setD 0 m (place a) b) (a + 1) bs

theorem readAt_add (m : ByteStore) (place : Nat → Nat) (a k n : Nat) :
    readAt m place a (k + n) = readAt m place a k ++ readAt m place (a + k) n := by
  induction k generalizing a with
  | zero => simp [readAt]
  | succ k ih =>
    rw [Nat.succ_add, readAt, readAt, ih, Nat.succ_add_eq_add_succ]
    rfl

theorem readBytes_eq_readAt {m : ByteStore} {place : Nat → Nat} {a k x : Nat} (h : ∀ d, d < k → place (a + d) = x + d) :
    readBytes m x k = readAt m place a k := by
  induction k generalizing a x with
  | zero => rfl
  | succ k ih =>
    rw [readBytes, readAt, ih (a := a + 1) fun d hd => by rw [Nat.add_right_comm, Nat.add_assoc, h _ (by omega)]; omega,
      ← Nat.add_zero a, h 0 (by omega)]
    rfl

theorem writeAt_append (place : Nat → Nat) (m : ByteStore) (a : Nat) (b c : Bytes) :
    writeAt place m a (b ++ c) = writeAt place (writeAt place m a b) (a + b.length) c := by
  induction b generalizing m a with
  | nil => rfl
  | cons x b ih => rw [List.cons_append, writeAt, writeAt, ih, List.length_cons, Nat.add_assoc, Nat.add_comm 1]

theorem writeBytes_eq_writeAt {m : ByteStore} {place : Nat → Nat} {a x : Nat} {b : Bytes}
    (h : ∀ d, d < b.length → place (a + d) = x + d) : writeBytes m x b = writeAt place m a b := by
  induction b generalizing m a x with
  | nil => rfl
  | cons y b ih =>
    rw [List.length_cons] at h
    rw [writeBytes, writeAt, ih (a := a + 1) fun d hd => by rw [Nat.add_right_comm, Nat.add_assoc, h _ (by omega)]; omega,
      ← Nat.add_zero a, h 0 (by omega)]
    rfl

theorem rising_writeAt {place : Nat → Nat} {m : ByteStore} {a : Nat} {b : Bytes} (h : Tab.rising m = true) :
    Tab.rising (writeAt place m a b) = true := by
  induction b generalizing m a with
  | nil => exact h
  | cons x b ih => exact ih (rising_writeBytes (a := place a) (b := [x]) h)

theorem getD_writeAt_of_ne {place : Nat → Nat} {m : ByteStore} {a x : Nat} {b : Bytes}
    (h : ∀ i, i < b.length → place (a + i) ≠ x) : Tab.getD 0 (writeAt place m a b) x = Tab.getD 0 m x := by
  induction b generalizing m a with
  | nil => rfl
  | cons y b ih =>
    rw [List.length_cons] at h
    rw [writeAt, ih fun i hi => by rw [Nat.add_assoc]; exact h _ (by omega)]
    exact Tab.getD_setD_ne (h 0 (Nat.succ_pos _)).symm

/-- Bytes written at places all different are read back. -/
theorem readAt_writeAt {place : Nat → Nat} {m : ByteStore} {a : Nat} {b : Bytes} (hm : Tab.rising m = true)
    (hinj : ∀ i j, i < b.length → j < b.length → place (a + i) = place (a + j) → i = j) :
    readAt (writeAt place m a b) place a b.length = b := by
  induction b generalizing m a with
  | nil => rfl
  | cons y b ih =>
    rw [List.length_cons] at hinj ⊢
    have hrising : Tab.rising (Tab.setD 0 m (place a) y) = true := rising_writeBytes (a := place a) (b := [y]) hm
    have hrest := ih (m := Tab.setD 0 m (place a) y) (a := a + 1) hrising fun i j hi hj h => by
      have := hinj (1 + i) (1 + j) (by omega) (by omega) (by simpa only [Nat.add_assoc] using h)
      omega
    have hfirst : Tab.getD 0 (writeAt place (Tab.setD 0 m (place a) y) (a + 1) b) (place a) = y := by
      rw [getD_writeAt_of_ne fun i hi h => ?_, Tab.getD_setD_self hm]
      have := hinj (1 + i) 0 (by omega) (by omega) (by rwa [← Nat.add_assoc])
      omega
    rw [writeAt, readAt, hrest, hfirst]

/-- What a read sees rests on the bytes at its places. -/
theorem readAt_congr {m m' : ByteStore} {place : Nat → Nat} {a n : Nat}
    (h : ∀ i, i < n → Tab.getD 0 m' (place (a + i)) = Tab.getD 0 m (place (a + i))) :
    readAt m' place a n = readAt m place a n := by
  induction n generalizing a with
  | zero => rfl
  | succ n ih =>
    rw [readAt, readAt, ih fun i hi => by simpa only [Nat.add_assoc, Nat.add_comm 1] using h (i + 1) (by omega)]
    rw [show Tab.getD 0 m' (place a) = Tab.getD 0 m (place a) from h 0 (by omega)]

/-! ### The map's reads and writes -/

namespace State

theorem flatMap_readBytes {s : State} {m : ByteStore} {p a n : Nat} {l : List (Nat × Nat)} (hl : Covers a n l)
    (hmap : ∀ y, a ≤ y → y < a + n → ∃ x, s.phys p y = some x) :
    (l.flatMap fun q => readBytes m ((s.phys p q.1).getD 0) q.2) = readAt m (s.physD p) a n := by
  induction hl with
  | nil a => rfl
  | @cons a k n l inside rest ih =>
    have htail := ih fun y hlo hhi => hmap y (by omega) (by omega)
    rw [List.flatMap_cons, htail, readAt_add]
    obtain rfl | hk := Nat.eq_zero_or_pos k
    · rfl
    · obtain ⟨x, hx⟩ := hmap a (Nat.le_refl a) (by omega)
      exact congrArg (· ++ _) (readBytes_eq_readAt fun d hd => physD_add hx (by omega))

/-- A read of a mapped range reads each byte at its physical address (R222). -/
theorem read_eq {s : State} {p a n : Nat} (h : s.mapped p a n = true) :
    s.read p a n = some (readAt s.mem (s.physD p) a n) := by
  rw [read, if_pos h, flatMap_readBytes (covers_regionParts a n) fun y => phys_of_mapped h]

@[simp] theorem request_regions (s : State) (pa n : Nat) : (s.request pa n).regions = s.regions := by
  unfold request
  split <;> rfl

/-- One part of a write (R222). -/
def writePart (b : Bytes) (p a : Nat) (s : State) (q : Nat × Nat) : State :=
  { s.request ((s.phys p q.1).getD 0) q.2 with
    mem := writeBytes s.mem ((s.phys p q.1).getD 0) ((b.drop (q.1 - a)).take q.2) }

theorem foldl_writePart {s : State} {b : Bytes} {p a n y : Nat} {l : List (Nat × Nat)} (hl : Covers y n l)
    (ha : a ≤ y) (hend : y + n = a + b.length) (hmap : ∀ z, y ≤ z → z < y + n → ∃ x, s.phys p z = some x) :
    (l.foldl (writePart b p a) s).regions = s.regions ∧
      (l.foldl (writePart b p a) s).mem = writeAt (s.physD p) s.mem y (b.drop (y - a)) := by
  induction hl generalizing s with
  | nil y =>
    rw [List.drop_of_length_le (by omega)]
    exact ⟨rfl, rfl⟩
  | @cons y k n l inside rest ih =>
    have hregions : (writePart b p a s (y, k)).regions = s.regions := request_regions ..
    have hphys : (writePart b p a s (y, k)).physD p = s.physD p := by
      funext z
      rw [physD, phys_congr hregions, physD]
    have hlen : ((b.drop (y - a)).take k).length = k := by
      rw [List.length_take, List.length_drop]
      omega
    have hmem : (writePart b p a s (y, k)).mem = writeAt (s.physD p) s.mem y ((b.drop (y - a)).take k) := by
      obtain rfl | hk := Nat.eq_zero_or_pos k
      · rfl
      · obtain ⟨x, hx⟩ := hmap y (Nat.le_refl y) (by omega)
        exact writeBytes_eq_writeAt fun d hd => physD_add hx (by rw [hlen] at hd; omega)
    obtain ⟨hr, hm⟩ := ih (s := writePart b p a s (y, k)) (by omega) (by omega) fun z hlo hhi => by
      rw [phys_congr hregions]
      exact hmap z (by omega) (by omega)
    refine ⟨hr.trans hregions, hm.trans ?_⟩
    have hdrop : b.drop (y + k - a) = (b.drop (y - a)).drop k := by
      rw [List.drop_drop, show y - a + k = y + k - a by omega]
    conv =>
      rhs
      rw [← List.take_append_drop k (b.drop (y - a)), writeAt_append, hlen]
    rw [hphys, hmem, hdrop]

/-- A write of a mapped range leaves the map and writes each byte at its physical address (R222). -/
theorem write_eq {s : State} {p a : Nat} {b : Bytes} (h : s.mapped p a b.length = true) :
    ∃ t, s.write p a b = some t ∧ t.regions = s.regions ∧ t.mem = writeAt (s.physD p) s.mem a b := by
  have hfold := foldl_writePart (covers_regionParts a b.length) (Nat.le_refl a) rfl fun z => phys_of_mapped h
  rw [Nat.sub_self] at hfold
  exact ⟨_, if_pos h, hfold⟩

theorem write_eq_none {s : State} {p a : Nat} {b : Bytes} (h : s.mapped p a b.length = false) :
    s.write p a b = none := if_neg (by simp [h])

theorem mapped_of_write {s t : State} {p a : Nat} {b : Bytes} (h : s.write p a b = some t) :
    s.mapped p a b.length = true := by
  cases hmap : s.mapped p a b.length with
  | true => rfl
  | false =>
    rw [write_eq_none hmap] at h
    cases h

/-- The place of a mapped address is its physical address. -/
theorem phys_eq_physD {s : State} {p a n i : Nat} (h : s.mapped p a n = true) (hi : i < n) :
    s.phys p (a + i) = some (s.physD p (a + i)) := by
  obtain ⟨x, hx⟩ := phys_of_mapped h (Nat.le_add_right a i) (by omega)
  rw [physD, hx]
  rfl

end State

open State

/-- Settles O11: the bytes of a mapped range have physical addresses all different, so the last write at each is its
own. -/
theorem memoryWriteIsReadBack : Obligations.MemoryWriteIsReadBack := by
  refine fun s p a b hs => ⟨fun hmap => ?_, write_eq_none⟩
  obtain ⟨t, hwrite, hregions, hmem⟩ := write_eq hmap
  have hplace : t.physD p = s.physD p := by
    funext y
    rw [physD, phys_congr hregions, physD]
  refine ⟨t, hwrite, ?_, fun x hx => ?_⟩
  · have hinj (i j : Nat) (hi : i < b.length) (hj : j < b.length) (h : s.physD p (a + i) = s.physD p (a + j)) : i = j := by
      have := (phys_inj hs (phys_eq_physD hmap hi) (h ▸ phys_eq_physD hmap hj)).2
      omega
    rw [read_eq ((mapped_congr hregions ..).trans hmap), hplace, hmem, readAt_writeAt (Tab.wf_iff.1 hs.1).1 hinj]
  · rw [hmem, getD_writeAt_of_ne fun i hi h => hx i hi ((phys_eq_physD hmap hi).trans (congrArg some h))]

/-- Settles O12: a physical byte that one partition's address names is named by no other's. -/
theorem partitionsCannotWriteEachOther : Obligations.PartitionsCannotWriteEachOther := by
  intro s t p q a x n b hs hpq hwrite
  have hmap := mapped_of_write hwrite
  obtain ⟨t', hwrite', hregions, hmem⟩ := write_eq hmap
  obtain rfl : t' = t := Option.some.inj (hwrite'.symm.trans hwrite)
  have hplace : t'.physD q = s.physD q := by
    funext y
    rw [physD, phys_congr hregions, physD]
  cases hread : s.mapped q x n with
  | false => simp [State.read, mapped_congr hregions, hread]
  | true =>
    rw [read_eq ((mapped_congr hregions ..).trans hread), read_eq hread, hplace]
    refine congrArg some (readAt_congr fun j hj => ?_)
    rw [hmem, getD_writeAt_of_ne fun i hi h => hpq ?_]
    exact (phys_inj hs (phys_eq_physD hmap hi) (h ▸ phys_eq_physD hread hj)).1

end Sys2Proof.Machine
end


-- ==== Sys2Proof/Proofs/Rows.lean ====
section
/-! SUPPORT. How the guards that the rows share answer where their condition is known. -/

namespace Sys2Proof.Machine

@[simp] theorem checked_true (s : State) (f : State → State) : checked true s f = .next (f s) := rfl
@[simp] theorem onlyIf_true (f : State → State) (s : State) : onlyIf true f s = f s := rfl
@[simp] theorem onlyIf_false (f : State → State) (s : State) : onlyIf false f s = s := rfl
@[simp] theorem withSome_some {α : Type} (a : α) (s : State) (f : α → State) : withSome (some a) s f = f a := rfl
@[simp] theorem withSome_none {α : Type} (s : State) (f : α → State) : withSome none s f = s := rfl

end Sys2Proof.Machine
end

