-- ==== Sys2Proof/Proofs/FurtherCauses.lean ====
section
/-! Causes of a halt found after the first one (R448). -/

namespace Sys2Proof.Machine

theorem State.fault_of_open_record {s : State} {old : Halt} (h : Halt) (hold : s.health.halt = some old)
    (hopen : old.recorded = false) :
    s.fault h = { s with health := { s.health with halt := some (old.join h s.now) } } := by
  simp [State.fault, hold, hopen]

theorem State.fault_of_written_record {s : State} {old : Halt} (h : Halt) (hold : s.health.halt = some old)
    (hwritten : old.recorded = true) : s.fault h = s.count 52 6 := by
  simp [State.fault, hold, hwritten]

theorem Halt.join_mask (old h : Halt) (now : Nat) : (old.join h now).mask = old.mask ||| 2 ^ h.cause := by
  unfold Halt.join
  split <;> rfl

theorem Halt.join_time (old h : Halt) (now : Nat) : (old.join h now).time = old.time := by
  unfold Halt.join
  split
  · next hsame => exact hsame.1.symm
  · rfl

/-- Of two causes of one step the lower code stays; a later cause changes none. -/
theorem Halt.join_cause (old h : Halt) (now : Nat) :
    (old.join h now).cause = if old.time = now then min old.cause h.cause else old.cause := by
  unfold Halt.join
  by_cases hsame : old.time = now
  · by_cases hlower : h.cause < old.cause
    · simp [hsame, hlower, Nat.min_eq_right (Nat.le_of_lt hlower)]
    · simp [hsame, hlower, Nat.min_eq_left (Nat.le_of_not_lt hlower)]
  · simp [hsame]

/-- Settles O40: the record, while it is open, joins the new cause; once written, the cause is only counted. -/
theorem furtherCausesJoinTheRecord : Obligations.FurtherCausesJoinTheRecord := by
  intro s h old hold
  exact ⟨fun hopen => ⟨old.join h s.now, by rw [State.fault_of_open_record h hold hopen], old.join_mask h s.now,
      old.join_cause h s.now, old.join_time h s.now, State.fault_of_open_record h hold hopen⟩,
    State.fault_of_written_record h hold⟩

end Sys2Proof.Machine
end

