-- ==== Sys2Proof/Proofs/Limits.lean ====
section
/-! The symmetric limit of 32-bit totals: promotion (R134, R135) and the vector unit's integers and comparisons
(R171 to R174). -/

namespace Sys2Proof.Machine

theorem limit32_ge (n : Int) : -(2 ^ 31 - 1) ≤ limit32 n := Int.le_max_left ..

theorem limit32_le (n : Int) : limit32 n ≤ 2 ^ 31 - 1 := Int.max_le.mpr ⟨by decide, Int.min_le_left ..⟩

theorem limit32_eq_self_iff {n : Int} : limit32 n = n ↔ -(2 ^ 31 - 1) ≤ n ∧ n ≤ 2 ^ 31 - 1 := by
  unfold limit32
  omega

/-- A limited value is what its 32 bits of two's complement say. -/
theorem int32_ofInt32_limit32 (n : Int) : int32 (ofInt32 (limit32 n)) = limit32 n := by
  have hlow := limit32_ge n
  have hhigh := limit32_le n
  rw [int32, ofInt32, BitVec.toInt_ofInt]
  refine Int.bmod_eq_of_le ?_ ?_ <;> omega

theorem promote_saturates_iff (total reg : Int) (shift : Nat) : (promote total reg shift).2 = true ↔
    total + reg * 2 ^ shift < -(2 ^ 31 - 1) ∨ 2 ^ 31 - 1 < total + reg * 2 ^ shift := by
  have hself := @limit32_eq_self_iff (total + reg * 2 ^ shift)
  simp only [promote, bne_iff_ne, ne_eq, hself]
  omega

/-- One register of a position promoted: the total, the saturations and the registers left. -/
def promoteNext (pos : Nat) (acc : Int × Nat × Table Int) (r : Nat × Nat) : Int × Nat × Table Int :=
  let q := promote acc.1 (Tab.getD 0 acc.2.2 (runKey pos r.1 r.2)) (promotionShift r.1 r.2)
  (q.1, acc.2.1 + bit q.2, Tab.erase (runKey pos r.1 r.2) acc.2.2)

theorem promoteAll_eq (l : LayerStep) (pos : Nat) (total : Int) (runs : Table Int) :
    promoteAll l pos total runs = l.registers.foldl (promoteNext pos) (total, 0, runs) := rfl

theorem bit_le_one (b : Bool) : bit b ≤ 1 := by cases b <;> decide

theorem promoteFold_total_bounds (pos : Nat) (rs : List (Nat × Nat)) (acc : Int × Nat × Table Int)
    (h : -(2 ^ 31 - 1) ≤ acc.1 ∧ acc.1 ≤ 2 ^ 31 - 1) :
    -(2 ^ 31 - 1) ≤ (rs.foldl (promoteNext pos) acc).1 ∧ (rs.foldl (promoteNext pos) acc).1 ≤ 2 ^ 31 - 1 := by
  induction rs generalizing acc with
  | nil => exact h
  | cons r rs ih => exact ih _ ⟨limit32_ge _, limit32_le _⟩

theorem promoteFold_saturations_le (pos : Nat) (rs : List (Nat × Nat)) (acc : Int × Nat × Table Int) :
    (rs.foldl (promoteNext pos) acc).2.1 ≤ acc.2.1 + rs.length := by
  induction rs generalizing acc with
  | nil => exact Nat.le_refl _
  | cons r rs ih =>
    calc (rs.foldl (promoteNext pos) (promoteNext pos acc r)).2.1
        ≤ (promoteNext pos acc r).2.1 + rs.length := ih _
      _ ≤ acc.2.1 + (r :: rs).length := by
        have hbit := bit_le_one
          (promote acc.1 (Tab.getD 0 acc.2.2 (runKey pos r.1 r.2)) (promotionShift r.1 r.2)).2
        simp only [promoteNext, List.length_cons]
        omega

/-- A register that has been cleared stays cleared. -/
theorem promoteFold_keeps_cleared {pos key : Nat} (rs : List (Nat × Nat)) (acc : Int × Nat × Table Int)
    (hrising : Tab.rising acc.2.2 = true) (h : Tab.find key acc.2.2 = none) :
    Tab.find key (rs.foldl (promoteNext pos) acc).2.2 = none := by
  induction rs generalizing acc with
  | nil => exact h
  | cons r rs ih =>
    refine ih _ (Tab.rising_erase hrising) ?_
    by_cases hkey : key = runKey pos r.1 r.2
    · exact hkey ▸ Tab.find_erase_self hrising
    · exact (Tab.find_erase_ne hkey _).trans h

theorem promoteFold_clears {pos : Nat} (rs : List (Nat × Nat)) (acc : Int × Nat × Table Int)
    (hrising : Tab.rising acc.2.2 = true) :
    ∀ r ∈ rs, Tab.find (runKey pos r.1 r.2) (rs.foldl (promoteNext pos) acc).2.2 = none := by
  induction rs generalizing acc with
  | nil => simp
  | cons r rs ih =>
    intro q hq
    have hrest : Tab.rising (promoteNext pos acc r).2.2 = true := Tab.rising_erase hrising
    rcases List.mem_cons.mp hq with rfl | hq
    · exact promoteFold_keeps_cleared rs _ hrest (Tab.find_erase_self hrising)
    · exact ih _ hrest q hq

/-- Settles O46: every promotion ends in the limit, and each promoted register is erased. -/
theorem promotionLimitsTheTotal : Obligations.PromotionLimitsTheTotal := by
  refine ⟨fun total reg shift => ⟨rfl, promote_saturates_iff total reg shift⟩, fun l pos total runs hlow hhigh => ?_⟩
  rw [promoteAll_eq]
  have hbounds := promoteFold_total_bounds pos l.registers (total, 0, runs) ⟨hlow, hhigh⟩
  refine ⟨hbounds.1, hbounds.2, by simpa using promoteFold_saturations_le pos l.registers (total, 0, runs),
    fun hrising r hr => ?_⟩
  rw [Tab.getD, promoteFold_clears l.registers (total, 0, runs) hrising r hr]
  rfl

/-! ### The vector unit's integers and comparisons -/

theorem VOut.ofInt_limits (n : Int) : int32 (VOut.ofInt n).bits = max (-(2 ^ 31 - 1)) (min (2 ^ 31 - 1) n) ∧
    (VOut.ofInt n).count.sat = if -(2 ^ 31 - 1) ≤ n ∧ n ≤ 2 ^ 31 - 1 then 0 else 1 := by
  refine ⟨int32_ofInt32_limit32 n, ?_⟩
  have hself := @limit32_eq_self_iff n
  by_cases hin : limit32 n = n
  · rw [if_pos (hself.mp hin)]
    simp [VOut.ofInt, hin, bit]
  · rw [if_neg (fun h => hin (hself.mpr h))]
    simp [VOut.ofInt, hin, bit]

theorem int32_iMin (a b : Word) : int32 (iMin a b) = min (int32 a) (int32 b) := by
  unfold iMin
  split <;> omega

theorem int32_iMax (a b : Word) : int32 (iMax a b) = max (int32 a) (int32 b) := by
  unfold iMax
  split <;> omega

/-- Equal numbers stand on one place, neither below the other, and neither is a NaN. -/
theorem fpEq_iff {a b : Word} : fpEq a b = true ↔ fpIsNaN a = false ∧ fpIsNaN b = false ∧ fpKey a = fpKey b := by
  simp [fpEq, and_assoc]

theorem fpMin_fpMax_of_nan {a b : Word} :
    (fpIsNaN a = true → fpIsNaN b = false → fpMin a b = b ∧ fpMax a b = b) ∧
    (fpIsNaN b = true → fpIsNaN a = false → fpMin a b = a ∧ fpMax a b = a) := by
  constructor <;> intro hnan hnumber <;> simp [fpMin, fpMax, fpCanon, hnan, hnumber]

theorem fpMin_fpMax_of_eq {a b : Word} (h : fpEq a b = true) : fpMin a b = a ∧ fpMax a b = a := by
  obtain ⟨ha, hb, hkey⟩ := fpEq_iff.mp h
  simp [fpMin, fpMax, fpLt, ha, hb, hkey]

theorem Relation.holds_of_nan {a b : Word} (h : fpIsNaN a = true ∨ fpIsNaN b = true) (r : Relation) :
    r.holds false a b = (r == .ne) := by
  have hlt : fpLt a b = false ∧ fpLt b a = false ∧ fpEq a b = false := by
    rcases h with h | h <;> simp [fpLt, fpEq, h]
  obtain ⟨hab, hba, heq⟩ := hlt
  cases r <;> simp [Relation.holds, hab, hba, heq]

/-- Settles O44: each operation is the limit of its exact result, and a NaN stands below, above and beside nothing. -/
theorem vectorIntegersSaturateAndCompare : Obligations.VectorIntegersSaturateAndCompare := by
  refine ⟨fun a b q hq => ?_, fun a b => ⟨int32_iMin a b, int32_iMax a b⟩,
    fun a b => ⟨fpMin_fpMax_of_nan.1, fpMin_fpMax_of_nan.2, fpMin_fpMax_of_eq⟩, fun a b h => Relation.holds_of_nan h⟩
  simp only [List.mem_cons, List.not_mem_nil, or_false] at hq
  rcases hq with rfl | rfl | rfl <;> exact VOut.ofInt_limits _

end Sys2Proof.Machine
end


-- ==== Sys2Proof/Proofs/HostRegisters.lean ====
section
/-! The host's registers: doorbells and ring control (R286, R287, R423), BAR0 accesses (R422, R474, R475) and BAR2
(R222, R412, R424, R447). -/

namespace Sys2Proof.Machine

/-! ### Rings -/

/-- Functions but the one changed stay as they were. -/
theorem State.fn_setFn_ne (s : State) {f g : Nat} (x : FnState) (h : g ≠ f) : (s.setFn f x).fn g = s.fn g :=
  Tab.getD_put_ne _ _ _ h

theorem State.onRing_congr {s : State} {r : Nat} {g h : Ring → Ring} (e : g (s.ring r) = h (s.ring r)) :
    s.onRing r g = s.onRing r h := congrArg (fun x => s.setFn r { s.fn r with ring := x }) e

@[simp] theorem State.ring_onRing (s : State) (r : Nat) (g : Ring → Ring) : (s.onRing r g).ring r = g (s.ring r) := by
  simp [State.onRing, State.ring]

/-- A message of MSI-X leaves every ring as it was. -/
@[simp] theorem State.ring_msix (s : State) (f v r : Nat) : (s.msix f v).ring r = s.ring r := by
  simp only [State.msix, State.ring]
  split
  · by_cases h : r = f
    · simp [h]
    · rw [State.fn_setFn_ne s _ h]
  · rfl

theorem ringRow_open {caller r : Nat} {s : State} (hc : caller ≤ 6) (hr : r ≤ 6) (hbar : s.bar0 = true)
    (hview : ringView caller r = true) (f : State → State) : ringRow caller r s f = .next (f s) := by
  simp [ringRow, hc, hr, hbar, hview]

theorem ringRow_shut {caller r : Nat} {s : State} (hc : caller ≤ 6) (hr : r ≤ 6)
    (hview : ringView caller r = false) (f : State → State) : ringRow caller r s f = .next s := by
  simp [ringRow, hc, hr, hview]

theorem State.writeTail_below {s : State} {r v : Nat} (h : v < 2 ^ (s.ring r).sqLog) :
    s.writeTail r v = s.onRing r fun x => { x with sqTail := v } := if_pos h

theorem State.writeTail_beyond {s : State} {r v : Nat} (h : 2 ^ (s.ring r).sqLog ≤ v) :
    s.writeTail r v = (s.onRing r fun x => { x with tailErr := true }).msix r 60 := if_neg (Nat.not_lt.mpr h)

theorem State.writeHead_written {s : State} {r v : Nat} (hdepth : v < 2 ^ (s.ring r).cqLog)
    (hused : ringUsed (2 ^ (s.ring r).cqLog) v (s.ring r).cqHead
      ≤ ringUsed (2 ^ (s.ring r).cqLog) (s.ring r).cqTail (s.ring r).cqHead) :
    s.writeHead r v = s.onRing r fun x => { x with cqHead := v } := if_pos ⟨hdepth, hused⟩

theorem State.writeHead_unwritten {s : State} {r v : Nat} (h : 2 ^ (s.ring r).cqLog ≤ v ∨
    ringUsed (2 ^ (s.ring r).cqLog) (s.ring r).cqTail (s.ring r).cqHead
      < ringUsed (2 ^ (s.ring r).cqLog) v (s.ring r).cqHead) :
    s.writeHead r v = (s.onRing r fun x => { x with headErr := true }).msix r 60 :=
  if_neg fun ⟨hdepth, hused⟩ => h.elim (Nat.not_le.mpr hdepth) (Nat.not_lt.mpr hused)

theorem State.writeCtrl_set {s : State} {r v : Nat} (hset : bitOf v 0 = true) (hoff : (s.ring r).enable = false) :
    s.writeCtrl r v = s.onRing r fun x =>
      { x with enable := true, sqTail := 0, sqHead := 0, cqHead := 0, cqTail := 0, phase := 1 } :=
  State.onRing_congr (by simp [hset, hoff])

theorem State.writeCtrl_clear {s : State} {r v : Nat} (hclear : bitOf v 0 = false) :
    s.writeCtrl r v = s.onRing r fun x => { x with enable := false } :=
  State.onRing_congr (by simp [hclear])

/-- Bits 63 to 20 of an aperture base in their place. -/
theorem apBase_field (v : Nat) : field v 63 20 * 2 ^ 20 = v % 2 ^ 64 / 2 ^ 20 * 2 ^ 20 := by
  unfold field
  omega

/-! ### BAR0 -/

theorem registerWrite_eq {s : State} {f o size v : Nat} (hf : f ≤ 6) (hbar : s.bar0 = true) (ho : o < 65536) :
    exec (.registerWrite f o size v) s = .next (s.writeBar0 f o size v) := by
  show execRegisterWrite f o size v s = _
  simp [execRegisterWrite, hf, hbar, ho]

theorem State.writeBar0_misaligned {s : State} {f o size v : Nat} (h : (size ≠ 4 ∧ size ≠ 8) ∨ o % size ≠ 0) :
    s.writeBar0 f o size v = s.count 51 0 := by
  rw [State.writeBar0, if_pos h]
  rfl

/-- A word outside the staged perturbation entries is one write of that word. -/
theorem State.writeBar0_word {s : State} {f o v : Nat} (haligned : o % 4 = 0) (hentry : entryOffset o = false) :
    s.writeBar0 f o 4 v = s.writeWord f o v := by
  simp [State.writeBar0, haligned, hentry]

/-- While a ring is enabled its bases and sizes stand. -/
theorem State.writeRing_enabled {s : State} {r o v : Nat} (hon : (s.ring r).enable = true)
    (ho : o ∈ [0x00, 0x04, 0x08, 0x0C, 0x10]) : s.writeRing r o v = s := by
  simp only [List.mem_cons, List.not_mem_nil, or_false] at ho
  rcases ho with rfl | rfl | rfl | rfl | rfl <;> simp [State.writeRing, hon]

theorem entryOffset_below {o : Nat} (h : o < 0x8100) : entryOffset o = false := by
  simp [entryOffset, Nat.not_le.mpr h]

theorem State.writeWord_ring {s : State} {f r o v : Nat} (hr : r ≤ 6) (ho : o < 0x100)
    (hview : ringView f r = true) : s.writeWord f (0x1000 + 0x100 * r + o) v = s.writeRing r o (v % 2 ^ 32) := by
  have hblock : (0x1000 + 0x100 * r + o - 0x1000) / 0x100 = r := by omega
  have hword : (0x1000 + 0x100 * r + o) % 0x100 = o := by omega
  rw [State.writeWord, if_neg (by omega), if_neg (by omega), if_pos (by omega), hblock, hword, if_pos hview]

/-- A base or size register of an enabled ring takes no write. -/
theorem registerWrite_ring_enabled {s : State} {f r o v : Nat} (hf : f ≤ 6) (hr : r ≤ 6) (hbar : s.bar0 = true)
    (hview : ringView f r = true) (hon : (s.ring r).enable = true) (ho : o ∈ [0x00, 0x04, 0x08, 0x0C, 0x10]) :
    exec (.registerWrite f (0x1000 + 0x100 * r + o) 4 v) s = .next s := by
  have hword : o < 0x100 ∧ o % 4 = 0 := by
    simp only [List.mem_cons, List.not_mem_nil, or_false] at ho
    omega
  rw [registerWrite_eq hf hbar (by omega), State.writeBar0_word (by omega) (entryOffset_below (by omega)),
    State.writeWord_ring hr hword.1 hview, State.writeRing_enabled hon ho]

/-- Settles O28, by the lemmas on each ring register. -/
theorem ringRegistersKeepTheirRules : Obligations.RingRegistersKeepTheirRules := by
  refine ⟨fun s caller r v hc hr hbar hview => ⟨fun h => ?_, fun h => ⟨?_, by simp⟩⟩,
    fun s caller r v hc hr hbar hview => ⟨fun hd hu => ?_, fun h => ⟨?_, by simp⟩⟩,
    fun s caller r v hc hr hbar => ⟨fun hview => ⟨fun hset hoff => ?_, fun hclear => ?_, ?_, fun hon o ho => ?_⟩,
      fun hview => ⟨?_, ?_, ?_, ?_⟩⟩⟩
  · exact (ringRow_open hc hr hbar hview _).trans (congrArg _ (State.writeTail_below h))
  · exact (ringRow_open hc hr hbar hview _).trans (congrArg _ (State.writeTail_beyond h))
  · exact (ringRow_open hc hr hbar hview _).trans (congrArg _ (State.writeHead_written hd hu))
  · exact (ringRow_open hc hr hbar hview _).trans (congrArg _ (State.writeHead_unwritten h))
  · exact (ringRow_open hc hr hbar hview _).trans (congrArg _ (State.writeCtrl_set hset hoff))
  · exact (ringRow_open hc hr hbar hview _).trans (congrArg _ (State.writeCtrl_clear hclear))
  · exact (ringRow_open hc hr hbar hview _).trans (congrArg _ (State.onRing_congr (by simp only [apBase_field])))
  · exact registerWrite_ring_enabled hc hr hbar hview hon ho
  · exact ringRow_shut hc hr hview _
  · exact ringRow_shut hc hr hview _
  · exact ringRow_shut hc hr hview _
  · exact ringRow_shut hc hr hview _

theorem bar0BadAccess_eq {s : State} {f : Nat} (hf : f ≤ 6) (hbar : s.bar0 = true) (size : Nat) (isWrite : Bool) :
    exec (.bar0BadAccess f size isWrite) s = .next (s.badAccess f size isWrite) := by
  show execBar0BadAccess f size isWrite s = _
  simp [execBar0BadAccess, hf, hbar]

theorem chrSecondsWrite_eq {s : State} {f : Nat} (hf : f ≤ 6) (hbar : s.bar0 = true) (v : Nat) :
    exec (.chrSecondsWrite f v) s = .next (if f = 0 then s.writeSeconds v else s) := by
  show execChrSecondsWrite f v s = _
  by_cases h : f = 0
  · simp [execChrSecondsWrite, hbar, h]
  · simp [execChrSecondsWrite, hf, h, beq_false_of_ne h]

/-- Settles O31, by the lemmas on accesses to BAR0. -/
theorem registerAccessesKeepTheirRules : Obligations.RegisterAccessesKeepTheirRules := by
  intro s f hf hbar
  refine ⟨fun size => ⟨bar0BadAccess_eq hf hbar size false, bar0BadAccess_eq hf hbar size true⟩,
    fun size o v ho hbad => ?_, fun size hsize => ?_, fun v h0 => ?_, fun v h0 => ?_, fun o v ho h0 => ?_, fun v => ?_⟩
  · rw [registerWrite_eq hf hbar ho, State.writeBar0_misaligned hbad]
  · refine ⟨s.chrTimeRead f size, State.exec_chrTimeRead_eq hf hbar hsize, State.chrTimeRead_outbox s f size, ?_,
      fun g hg => State.chrTimeRead_fn_ne s size hg⟩
    rw [State.bar0Word_chrTimeHigh, State.chrTimeRead_latch]
  · rw [chrSecondsWrite_eq hf hbar, if_pos h0]
  · rw [chrSecondsWrite_eq hf hbar, if_neg h0]
  · subst ho h0
    rw [registerWrite_eq hf hbar (by decide), State.writeBar0_word (by decide) (by decide)]
    rfl
  · rw [registerWrite_eq hf hbar (by decide), State.writeBar0_word (by decide) (by decide)]
    rfl

/-! ### BAR2 -/

theorem bar2Phys_confidential {s : State} {f a : Nat} (hf : f ≠ 0) (hconf : s.isConf f = true) :
    s.bar2Phys f a = none := by
  simp [State.bar2Phys, hf, hconf]

/-- A request within one line is that line. -/
theorem linesOf_one {o n : Nat} (hn : 1 ≤ n) (hline : o % 64 + n ≤ 64) : linesOf (n + 1) o n = [(o, n)] := by
  have hmin : min n (64 - o % 64) = n := by omega
  obtain ⟨k, rfl⟩ : ∃ k, n = k + 1 := ⟨n - 1, by omega⟩
  simp [linesOf, hmin]

section
variable {s : State} {f off : Nat} {b : Bytes}

theorem bar2Read_halted (hf : f ≤ 6) (hbar : s.bar0 = true) {n : Nat} (hoff : off + n ≤ 2 ^ 28)
    (hhalt : s.health.halt.isSome = true) (resp : LinkResponse) :
    exec (.bar2Read f off n resp) s = .next (s.emit (.readData f (zeros n))) := by
  show execBar2Read f off n resp s = _
  simp only [execBar2Read, hf, hoff, hbar, hhalt, decide_true, Bool.and_self, checked_true, onlyIf_true, if_true]

theorem bar2Write_halted (hf : f ≤ 6) (hoff : off + b.length ≤ 2 ^ 28) (hhalt : s.health.halt.isSome = true)
    (en : List Bool) : exec (.bar2Write f off b en) s = .next s := by
  have hnone : s.health.halt.isNone = false := by
    rw [← Option.not_isSome, hhalt]
    rfl
  show execBar2Write f off b en s = _
  simp only [execBar2Write, hf, hoff, hnone, decide_true, Bool.and_self, Bool.and_false, checked_true, onlyIf_false]

/-- A read of one line that the map reaches and whose link check passes. -/
theorem bar2Read_reached (hf : f ≤ 6) (hbar : s.bar0 = true) {n : Nat} (hoff : off + n ≤ 2 ^ 28)
    (hhalt : s.health.halt.isSome = false) (hn : 1 ≤ n) (hline : ((s.ring f).apBase + off) % 64 + n ≤ 64)
    {resp : LinkResponse} (hresp : resp.firstFails = false) {pa : Nat}
    (hpa : s.bar2Phys f ((s.ring f).apBase + off) = some pa) : exec (.bar2Read f off n resp) s =
      .next ((s.request pa n).emit (.readData f (readBytes s.mem pa n))) := by
  show execBar2Read f off n resp s = _
  simp only [execBar2Read, hf, hoff, hbar, hhalt, hresp, linesOf_one hn hline, hpa, decide_true, Bool.and_self,
    Bool.false_and, Bool.false_eq_true, if_false, checked_true, onlyIf_true, List.foldl_cons, List.foldl_nil,
    List.nil_append]

/-- A read of one line that is refused. -/
theorem bar2Read_refused (hf : f ≤ 6) (hbar : s.bar0 = true) {n : Nat} (hoff : off + n ≤ 2 ^ 28)
    (hhalt : s.health.halt.isSome = false) (hn : 1 ≤ n) (hline : ((s.ring f).apBase + off) % 64 + n ≤ 64)
    {resp : LinkResponse} (hresp : resp.firstFails = false)
    (hpa : s.bar2Phys f ((s.ring f).apBase + off) = none) : exec (.bar2Read f off n resp) s =
      .next (s.bar2Refusal.emit (.readData f (zeros n))) := by
  show execBar2Read f off n resp s = _
  simp only [execBar2Read, hf, hoff, hbar, hhalt, hresp, linesOf_one hn hline, hpa, decide_true, Bool.and_self,
    Bool.false_and, Bool.false_eq_true, if_false, checked_true, onlyIf_true, List.foldl_cons, List.foldl_nil,
    List.nil_append]

/-- A write within one line that the map reaches: its enabled bytes. -/
theorem bar2Write_reached (hf : f ≤ 6) (hbar : s.bar0 = true) (hoff : off + b.length ≤ 2 ^ 28)
    (hhalt : s.health.halt.isSome = false) (hn : 1 ≤ b.length)
    (hline : ((s.ring f).apBase + off) % 64 + b.length ≤ 64) (en : List Bool) {pa : Nat}
    (hpa : s.bar2Phys f ((s.ring f).apBase + off) = some pa) : exec (.bar2Write f off b en) s =
      .next { s.request pa b.length with mem := writeEnabled s.mem pa ((b.zip en).take b.length) } := by
  have hnone : s.health.halt.isNone = true := by
    rw [← Option.not_isSome, hhalt]
    rfl
  show execBar2Write f off b en s = _
  simp only [execBar2Write, hf, hoff, hbar, hnone, linesOf_one hn hline, hpa, decide_true, Bool.and_self,
    checked_true, onlyIf_true, List.foldl_cons, List.foldl_nil, Nat.sub_self, List.drop_zero]

/-- A write within one line that is refused. -/
theorem bar2Write_refused (hf : f ≤ 6) (hbar : s.bar0 = true) (hoff : off + b.length ≤ 2 ^ 28)
    (hhalt : s.health.halt.isSome = false) (hn : 1 ≤ b.length)
    (hline : ((s.ring f).apBase + off) % 64 + b.length ≤ 64) (en : List Bool)
    (hpa : s.bar2Phys f ((s.ring f).apBase + off) = none) :
    exec (.bar2Write f off b en) s = .next s.bar2Refusal := by
  have hnone : s.health.halt.isNone = true := by
    rw [← Option.not_isSome, hhalt]
    rfl
  show execBar2Write f off b en s = _
  simp only [execBar2Write, hf, hoff, hbar, hnone, linesOf_one hn hline, hpa, decide_true, Bool.and_self,
    checked_true, onlyIf_true, List.foldl_cons, List.foldl_nil]

end

/-- Enabled bytes leave every address before them as it reads. -/
theorem getD_writeEnabled_before {m : ByteStore} {a x : Nat} {q : List (Byte × Bool)} (h : x < a) :
    Tab.getD 0 (writeEnabled m a q) x = Tab.getD 0 m x := by
  induction q generalizing m a with
  | nil => rfl
  | cons e q ih =>
    obtain ⟨b, on⟩ := e
    rw [writeEnabled, ih (by omega)]
    cases on
    · rfl
    · exact Tab.getD_setD_ne (by omega)

/-- Each byte of a write is read back where its enable is set, and stays where it is not. -/
theorem getD_writeEnabled {m : ByteStore} {a i : Nat} {q : List (Byte × Bool)} (hm : Tab.wf 0 m = true) {d : Byte}
    {on : Bool} (h : q[i]? = some (d, on)) :
    Tab.getD 0 (writeEnabled m a q) (a + i) = if on then d else Tab.getD 0 m (a + i) := by
  induction q generalizing m a i with
  | nil => simp at h
  | cons e q ih =>
    obtain ⟨b, here⟩ := e
    have hm' : Tab.wf 0 (if here then Tab.setD 0 m a b else m) = true := by
      cases here
      · exact hm
      · exact Tab.wf_setD hm
    cases i with
    | zero =>
      obtain ⟨rfl, rfl⟩ : b = d ∧ here = on := by simpa using h
      rw [writeEnabled, getD_writeEnabled_before (by omega)]
      cases here
      · rfl
      · exact Tab.getD_setD_self (Tab.wf_iff.mp hm).1
    | succ i =>
      rw [writeEnabled, show a + (i + 1) = a + 1 + i by omega, ih hm' (by simpa using h)]
      cases here
      · rfl
      · simp [Tab.getD_setD_ne (show a + 1 + i ≠ a by omega)]

/-- Settles O32, by the lemmas on one line of BAR2. -/
theorem apertureReadsAndWritesThroughTheMap : Obligations.ApertureReadsAndWritesThroughTheMap := by
  intro s f off resp b en hf hbar hoff
  refine ⟨bar2Phys_confidential, fun hhalt => ⟨bar2Read_halted hf hbar hoff hhalt resp,
    bar2Write_halted hf hoff hhalt en⟩, fun hhalt hn hline => ⟨fun pa hpa => ⟨fun hresp => ?_, fun hen => ?_⟩,
      fun hnone => ⟨fun hresp => ?_, ?_⟩⟩, fun m pa i q hm => ⟨fun d h => ?_, fun d h => ?_⟩⟩
  · exact bar2Read_reached hf hbar hoff hhalt hn hline hresp hpa
  · rw [bar2Write_reached hf hbar hoff hhalt hn hline en hpa, List.take_of_length_le]
    rw [List.length_zip]
    exact Nat.min_le_left ..
  · exact bar2Read_refused hf hbar hoff hhalt hn hline hresp hnone
  · exact bar2Write_refused hf hbar hoff hhalt hn hline en hnone
  · exact getD_writeEnabled hm h
  · exact getD_writeEnabled hm h

end Sys2Proof.Machine
end


-- ==== Sys2Proof/Proofs/Regions.lean ====
section
/-! Regions given, freed, scrubbed and unmapped (R221, R223, R234, R317, R318). -/

namespace Sys2Proof.Machine

/-! ### Tables under a filter and a map -/

/-- A filter on the keys leaves what is found at the keys it keeps, and nothing at the others. -/
theorem Tab.find_filter_key {β : Type} (p : Nat → Bool) (k : Nat) (t : Table β) :
    Tab.find k (t.filter fun e => p e.1) = if p k then Tab.find k t else none := by
  induction t with
  | nil => cases p k <;> rfl
  | cons e t ih =>
    obtain ⟨a, v⟩ := e
    by_cases ha : a = k
    · subst ha
      cases hp : p a <;> simp [List.filter, hp, Tab.find, ih]
    · cases hp : p a <;> simp [List.filter, hp, Tab.find, ha, ih]

theorem getD_clearBytes (m : ByteStore) (a n x : Nat) :
    Tab.getD 0 (clearBytes m a n) x = if a ≤ x ∧ x < a + n then 0 else Tab.getD 0 m x := by
  unfold clearBytes Tab.getD
  rw [Tab.find_filter_key (fun k => !(decide (a ≤ k) && decide (k < a + n)))]
  by_cases h : a ≤ x ∧ x < a + n
  · simp [h]
  · rw [if_neg h, if_pos (by simp; omega)]

theorem State.region_congr {s t : State} (h : t.regions = s.regions) (r : Nat) : t.region r = s.region r := by
  unfold State.region
  rw [h]

@[simp] theorem State.region_setRegion (s : State) (r : Nat) (x : RegionRec) : (s.setRegion r x).region r = x :=
  Tab.getD_put_self ..

/-! ### What a command's end leaves -/

@[simp] theorem State.complete_regions (s : State) (id v n : Nat) : (s.complete id v n).regions = s.regions :=
  (State.complete_frame s id v n).only.regions (by decide)

@[simp] theorem State.complete_scrubs (s : State) (id v n : Nat) : (s.complete id v n).scrubs = s.scrubs :=
  (State.complete_frame s id v n).only.scrubs (by decide)

@[simp] theorem State.complete_mem (s : State) (id v n : Nat) : (s.complete id v n).mem = s.mem :=
  (State.complete_frame s id v n).only.mem (by decide)

/-! ### ALLOC_REGION -/

/-- A command that starts waits for no region of its own anew. -/
theorem State.started_allocsWaiting {s : State} {id : Nat} {c : Cmd} (h : s.cmd id = some c) (p : Nat) :
    (s.started id c).allocsWaiting p = s.allocsWaiting p := by
  have hpart (i : Nat) : ((s.started id c).cmd i).any (fun x => x.part == p) = (s.cmd i).any fun x => x.part == p := by
    by_cases hi : i = id
    · subst hi
      rw [State.started_cmd, h]
      rfl
    · exact congrArg (Option.any fun x : Cmd => x.part == p) (Tab.find_put_ne hi _ _)
  unfold State.allocsWaiting
  simp only [hpart]
  rfl

/-- A region that an allocation of a partition may take as it stands (R221). -/
def State.takable (s : State) (p r : Nat) : Bool :=
  (s.region r).owner == 0 && ((Tab.find r s.scrubs).isNone && (!(s.region r).scrubPending || (s.region r).lastOwner == p))

theorem State.takable_iff {s : State} {p r : Nat} : s.takable p r = true ↔ (s.region r).owner = 0 ∧
    Tab.find r s.scrubs = none ∧ ((s.region r).scrubPending = false ∨ (s.region r).lastOwner = p) := by
  simp [State.takable]

/-- A region is ready for an allocation exactly where it is the lowest that may be taken. -/
theorem State.allocFrom_ready_iff {s : State} {p r : Nat} :
    s.allocFrom p = some (.ready r) ↔ (List.range 1020).find? (s.takable p) = some r := by
  have hfind : ((List.range 1020).filter fun q => (s.region q).owner == 0).find? (fun q =>
      (Tab.find q s.scrubs).isNone && (!(s.region q).scrubPending || (s.region q).lastOwner == p)) =
      (List.range 1020).find? (s.takable p) := by
    rw [List.find?_filter]
    congr 1
    funext q
    rw [Bool.eq_iff_iff]
    simp [State.takable]
  unfold State.allocFrom
  simp only [hfind]
  cases (List.range 1020).find? (s.takable p) with
  | some q => simp
  | none =>
    simp only [reduceCtorEq, iff_false]
    split <;> simp

theorem State.allocFrom_congr {s t : State} (hr : t.regions = s.regions) (hs : t.scrubs = s.scrubs) (p : Nat) :
    t.allocFrom p = s.allocFrom p := by
  unfold State.allocFrom State.region
  rw [hr, hs]

/-- The logical index that an allocation gets (R317). -/
def wantedIndex (want : Nat) (have_ : List Nat) : Option Nat :=
  if want = 0xFFFF then (List.range 1020).find? (fun l => !have_.contains l)
  else if want ≤ 1019 && !have_.contains want then some want else none

theorem wantedIndex_named {want l : Nat} {have_ : List Nat} (h : want = l ∧ l ≤ 1019 ∧ l ∉ have_) :
    wantedIndex want have_ = some l := by
  obtain ⟨rfl, hle, hfree⟩ := h
  rw [wantedIndex, if_neg (by omega), if_pos (by simp [hle, hfree])]

theorem wantedIndex_lowest {want l : Nat} {have_ : List Nat}
    (h : want = 0xFFFF ∧ l < 1020 ∧ l ∉ have_ ∧ ∀ m, m < l → m ∈ have_) : wantedIndex want have_ = some l := by
  obtain ⟨rfl, hlt, hfree, hlower⟩ := h
  rw [wantedIndex, if_pos rfl, List.find?_range_eq_some]
  exact ⟨by simp [hfree], by simp [hlt], fun m hm => by simp [hlower m hm]⟩

theorem wantedIndex_refused {want : Nat} {have_ : List Nat}
    (h : (want ∈ have_ ∧ want ≠ 0xFFFF) ∨ (1019 < want ∧ want ≠ 0xFFFF)) : wantedIndex want have_ = none := by
  have hnamed : want ≠ 0xFFFF := h.elim And.right And.right
  rw [wantedIndex, if_neg hnamed, if_neg]
  rw [Bool.and_eq_true, decide_eq_true_eq, Bool.not_eq_true', List.contains_eq_mem, decide_eq_false_iff_not]
  rintro ⟨hle, hfree⟩
  obtain ⟨hheld, -⟩ | ⟨hbeyond, -⟩ := h
  · exact hfree hheld
  · omega

/-- The logical indices that count against a partition: those held and those it waits for. -/
def State.indices (s : State) (p : Nat) : List Nat :=
  (s.held p).map (fun r => (s.region r).logical) ++ s.allocsWaiting p

theorem State.started_indices {s : State} {id : Nat} {c : Cmd} (h : s.cmd id = some c) (p : Nat) :
    (s.started id c).indices p = s.indices p :=
  congrArg ((s.held p).map (fun r => (s.region r).logical) ++ ·) (State.started_allocsWaiting h p)

/-- ALLOC_REGION of a command that may start, by the index it wants, the quota and what the map has free. -/
theorem allocRegion_eq {s : State} {id : Nat} {c : Cmd} (h : s.Starts id 0x0201 c) :
    exec (.allocRegion id) s = .next (match wantedIndex (leAt c.params 0 2) (s.indices c.part) with
      | none => (s.started id c).fail id .badParam
      | some l =>
        if (s.part c.part).regions ≤ (s.indices c.part).length then (s.started id c).fail id .badParam
        else match s.allocFrom c.part with
          | none => (s.started id c).fail id .badParam
          | some (.ready r) => ((s.started id c).setRegion r { s.region r with
              logical := l, owner := c.part, conf := s.isConf c.part, scrubPending := false, unmapping := false }).complete id l
          | some (.wait r) | some (.scrub r) => { s.started id c with
              scrubs := Tab.put r (.alloc id l ((Tab.find r s.scrubs).elim 0 ScrubWhy.torn)) s.scrubs }) := by
  rw [← State.started_indices h.1 c.part]
  refine (State.opcodeRow_eq h fun c s => s.allocRegion id c).trans (congrArg _ ?_)
  have hfrom : (s.started id c).allocFrom c.part = s.allocFrom c.part :=
    State.allocFrom_congr (s := s) (t := s.started id c) rfl rfl c.part
  unfold State.allocRegion
  generalize hw : wantedIndex (leAt c.params 0 2) ((s.started id c).indices c.part) = want
  unfold wantedIndex at hw
  unfold State.indices at hw ⊢
  simp only [hw, hfrom]
  generalize s.allocFrom c.part = found
  cases want with
  | none => rfl
  | some l => rfl

section
variable {s : State} {id l : Nat} {c : Cmd}

theorem allocRegion_given (h : s.Starts id 0x0201 c)
    (hwant : wantedIndex (leAt c.params 0 2) (s.indices c.part) = some l)
    (hquota : (s.indices c.part).length < (s.part c.part).regions) :
    (∀ r, s.allocFrom c.part = some (.ready r) →
      exec (.allocRegion id) s = .next (((s.started id c).setRegion r { s.region r with
        logical := l, owner := c.part, conf := s.isConf c.part, scrubPending := false, unmapping := false }).complete id l)) ∧
    (∀ r, s.allocFrom c.part = some (.wait r) ∨ s.allocFrom c.part = some (.scrub r) →
      exec (.allocRegion id) s = .next { s.started id c with
        scrubs := Tab.put r (.alloc id l ((Tab.find r s.scrubs).elim 0 ScrubWhy.torn)) s.scrubs }) ∧
    (s.allocFrom c.part = none → exec (.allocRegion id) s = .next ((s.started id c).fail id .badParam)) := by
  simp only [allocRegion_eq h, hwant, if_neg (Nat.not_le.mpr hquota)]
  refine ⟨fun r hr => by rw [hr], fun r hr => ?_, fun hnone => by rw [hnone]⟩
  rcases hr with hr | hr <;> rw [hr]

theorem allocRegion_refused (h : s.Starts id 0x0201 c)
    (hbad : wantedIndex (leAt c.params 0 2) (s.indices c.part) = none ∨
      (s.part c.part).regions ≤ (s.indices c.part).length) :
    exec (.allocRegion id) s = .next ((s.started id c).fail id .badParam) := by
  rw [allocRegion_eq h]
  rcases hbad with hnone | hfull
  · rw [hnone]
  · simp only [if_pos hfull]
    split <;> rfl

end

/-! ### FREE_REGION and SCRUB_REGION -/

theorem freeRegion_eq {s : State} {id : Nat} {c : Cmd} (h : s.Starts id 0x0202 c) :
    exec (.freeRegion id) s = .next (match s.physRegion c.part (leAt c.params 0 2) with
      | none => (s.started id c).fail id .badParam
      | some r => if s.namesRegion c.part (leAt c.params 0 2) then (s.started id c).fail id .badParam
        else { (s.started id c).setRegion r { s.region r with unmapping := true } with
          unmaps := Tab.put r (.command id) s.unmaps }) :=
  State.opcodeRow_eq h _

theorem scrubRegion_eq {s : State} {id : Nat} {c : Cmd} (h : s.Starts id 0x0203 c) :
    exec (.scrubRegion id) s = .next (match s.physRegion c.part (leAt c.params 0 2) with
      | none => (s.started id c).fail id .badParam
      | some r => if s.namesRegion c.part (leAt c.params 0 2) then (s.started id c).fail id .badParam
        else { s.started id c with scrubs := Tab.put r (.kept
          ((match Tab.find r s.scrubs with | some (.kept cs) => cs | _ => []) ++ [id])) s.scrubs }) :=
  State.opcodeRow_eq h _

/-! ### The ends of an unmapping and of a scrub -/

theorem State.unmapped_regions (s : State) (r : Nat) (why : UnmapWhy) : (s.unmapped r why).regions =
    Tab.put r { RegionRec.free with
      scrubPending := true, lastOwner := if why = .teardown then 0 else (s.region r).owner } s.regions := by
  cases why with
  | teardown => rfl
  | command id => exact State.complete_regions ..

theorem State.unmapped_scrubs (s : State) (r : Nat) (why : UnmapWhy) : (s.unmapped r why).scrubs =
    if (s.region r).conf then Tab.put r (.freed (if why = .teardown then (s.region r).owner else 0)) s.scrubs
    else s.scrubs := by
  cases why with
  | teardown => rfl
  | command id => exact State.complete_scrubs ..

theorem State.unmapped_region (s : State) (r : Nat) (why : UnmapWhy) : (s.unmapped r why).region r =
    { RegionRec.free with
      scrubPending := true, lastOwner := if why = .teardown then 0 else (s.region r).owner } := by
  rw [State.region, State.unmapped_regions]
  exact Tab.getD_put_self ..

theorem unmappingComplete_eq {s : State} {r : Nat} {why : UnmapWhy} (hr : r < 1020)
    (hwhy : Tab.find r s.unmaps = some why) (hidle : Tab.find r s.scrubs = none) :
    exec (.unmappingComplete r) s = .next (s.unmapped r why).settle := by
  show execUnmappingComplete r s = _
  simp [execUnmappingComplete, hr, hwhy, hidle]

theorem State.completeAll_mem (s : State) (ids : List Nat) :
    (ids.foldl (fun s id => s.complete id) s).mem = s.mem := by
  induction ids generalizing s with
  | nil => rfl
  | cons id ids ih => exact (ih _).trans (State.complete_mem ..)

/-- The state with a region written to zero, before what waited for its scrub goes on. -/
def State.zeroed (s : State) (r : Nat) : State :=
  let s : State := { s with mem := clearBytes s.mem (r * 2 ^ 30) (2 ^ 30), scrubs := Tab.erase r s.scrubs }
  ((s.setRegion r { s.region r with scrubPending := false }).count 42 5).request (r * 2 ^ 30) (2 ^ 30)

theorem State.scrubbed_eq (s : State) (r : Nat) (why : ScrubWhy) : s.scrubbed r why = match why with
    | .freed _ => s.zeroed r
    | .kept ids => ids.foldl (fun s id => s.complete id) (s.zeroed r)
    | .alloc id l _ => match (s.zeroed r).cmd id with
      | none => s.zeroed r
      | some c => ((s.zeroed r).giveRegion r c.part l).complete id l := rfl

theorem State.zeroed_mem (s : State) (r : Nat) : (s.zeroed r).mem = clearBytes s.mem (r * 2 ^ 30) (2 ^ 30) := by
  rw [State.zeroed, State.request_mem, State.count_mem, State.setRegion_mem]

/-- The end of a scrub writes zeros over the region and nothing else of device memory. -/
theorem State.scrubbed_mem (s : State) (r : Nat) (why : ScrubWhy) :
    (s.scrubbed r why).mem = clearBytes s.mem (r * 2 ^ 30) (2 ^ 30) := by
  rw [State.scrubbed_eq, ← State.zeroed_mem]
  cases why with
  | freed p => rfl
  | kept ids => exact State.completeAll_mem _ ids
  | alloc id l p =>
    show (match (s.zeroed r).cmd id with
      | none => s.zeroed r
      | some c => ((s.zeroed r).giveRegion r c.part l).complete id l).mem = _
    split
    · rfl
    · exact (State.complete_mem ..).trans (State.setRegion_mem ..)

theorem State.settle_mem (s : State) : s.settle.mem = s.mem := (State.settle_frame s).only.mem (by decide)

theorem regionScrubComplete_eq {s : State} {r : Nat} {why : ScrubWhy} (hr : r < 1020)
    (hwhy : Tab.find r s.scrubs = some why) :
    exec (.regionScrubComplete r) s = .next (s.scrubbed r why).settle := by
  show execRegionScrubComplete r s = _
  simp [execRegionScrubComplete, hr, hwhy]

/-- Settles O13, by the lemmas on each of the region commands. -/
theorem regionsAreGivenFreedAndScrubbed : Obligations.RegionsAreGivenFreedAndScrubbed := by
  refine ⟨fun s id c h => ⟨fun l hl hquota => ?_, fun hbad => ?_⟩, fun s p r => ?_,
    fun s id c => ⟨fun hbad => ⟨fun h => ?_, fun h => ?_⟩, fun r hr hnamed => ⟨fun h => ?_, fun h hidle => ?_⟩⟩,
    fun s r hr => ⟨fun why hwhy hidle => ⟨unmappingComplete_eq hr hwhy hidle, ?_, ?_, ?_, ?_⟩,
      fun why hs hwhy => ⟨regionScrubComplete_eq hr hwhy, _, regionScrubComplete_eq hr hwhy, fun x hlo hhi => ?_,
        fun x hx => ?_⟩⟩⟩
  · exact allocRegion_given h (hl.elim wantedIndex_named wantedIndex_lowest) hquota
  · exact allocRegion_refused h (or_assoc.mpr hbad |>.imp_left wantedIndex_refused)
  · rw [State.allocFrom_ready_iff, List.find?_range_eq_some]
    constructor
    · rintro ⟨htake, hrange, hlower⟩
      obtain ⟨howner, hidle, hclean⟩ := State.takable_iff.mp htake
      refine ⟨⟨List.mem_range.mp hrange, howner, hidle, hclean⟩, fun q hq h => ?_⟩
      simpa [State.takable_iff.mpr h] using hlower q hq
    · rintro ⟨⟨hrange, htake⟩, hlower⟩
      refine ⟨State.takable_iff.mpr htake, List.mem_range.mpr hrange, fun q hq => ?_⟩
      simpa using mt State.takable_iff.mp (hlower q hq)
  · rw [freeRegion_eq h]
    rcases hbad with hnone | hnamed
    · rw [hnone]
    · simp only [hnamed, if_true]
      split <;> rfl
  · rw [scrubRegion_eq h]
    rcases hbad with hnone | hnamed
    · rw [hnone]
    · simp only [hnamed, if_true]
      split <;> rfl
  · simp only [freeRegion_eq h, hr, hnamed, Bool.false_eq_true, if_false]
  · simp only [scrubRegion_eq h, hr, hnamed, hidle, Bool.false_eq_true, if_false, List.nil_append]
  · rw [State.unmapped_region]
    rfl
  · rw [State.unmapped_region]
  · rw [State.unmapped_region]
  · rw [State.unmapped_scrubs]
    split
    · exact Tab.find_put_self ..
    · exact hidle
  · rw [State.settle_mem, State.scrubbed_mem, getD_clearBytes, if_pos (by omega)]
  · rw [State.settle_mem, State.scrubbed_mem, getD_clearBytes, if_neg (by omega)]

end Sys2Proof.Machine
end


-- ==== Sys2Proof/Proofs/Sessions.lean ====
section
/-! OPEN_SESSION, CLOSE_SESSION and QUERY_DEVICE (R297, R298, R309). -/

namespace Sys2Proof.Machine

/-- The last element of a strictly rising list is its greatest. -/
theorem getLast?_eq_some_iff_greatest {l : List Nat} (hl : l.Pairwise (· < ·)) {v : Nat} :
    l.getLast? = some v ↔ v ∈ l ∧ ∀ u ∈ l, u ≤ v := by
  have hgreatest {w : Nat} (hw : l.getLast? = some w) : w ∈ l ∧ ∀ u ∈ l, u ≤ w := by
    obtain ⟨front, rfl⟩ := List.getLast?_eq_some_iff.mp hw
    refine ⟨by simp, fun u hu => ?_⟩
    rcases List.mem_append.mp hu with hu | hu
    · exact Nat.le_of_lt ((List.pairwise_append.mp hl).2.2 u hu w (by simp))
    · exact Nat.le_of_eq (List.mem_singleton.mp hu)
  refine ⟨hgreatest, fun ⟨hv, hle⟩ => ?_⟩
  cases hlast : l.getLast? with
  | none => simp [List.getLast?_eq_none_iff.mp hlast] at hv
  | some w =>
    obtain ⟨hw, hwle⟩ := hgreatest hlast
    exact congrArg some (Nat.le_antisymm (hle w hw) (hwle v hv))

theorem bestVersion_eq_some_iff {vs : List Nat} (hvs : vs.Pairwise (· < ·)) {lo hi v : Nat} :
    bestVersion vs lo hi = some v ↔ v ∈ vs ∧ lo ≤ v ∧ v ≤ hi ∧ ∀ u ∈ vs, lo ≤ u → u ≤ hi → u ≤ v := by
  rw [bestVersion, getLast?_eq_some_iff_greatest (hvs.filter _)]
  simp [and_assoc]

section
variable {s : State} {id : Nat} {c : Cmd}

theorem openSession_eq (h : s.Starts id 0x0101 c) :
    exec (.openSession id) s = .next ((s.started id c).openSession id c) :=
  State.opcodeRow_eq h fun c s => s.openSession id c

theorem openSession_opened (h : s.Starts id 0x0101 c) {v : Session} (hv : chosenVersions c.params = some v)
    (hroom : (s.fn c.fn).sessions.length < 16) (hleft : (s.fn c.fn).nextSession ≤ 65535) :
    exec (.openSession id) s = .next (((s.started id c).setFn c.fn { s.fn c.fn with
      sessions := Tab.put (s.fn c.fn).nextSession v (s.fn c.fn).sessions
      nextSession := (s.fn c.fn).nextSession + 1 }).complete id
        ((s.fn c.fn).nextSession + v.command * 2 ^ 16 + v.parcel * 2 ^ 24)) := by
  rw [openSession_eq h, State.openSession, hv]
  exact congrArg _ (if_neg (show ¬(16 ≤ (s.fn c.fn).sessions.length ∨ 65535 < (s.fn c.fn).nextSession) by omega))

theorem openSession_no_version (h : s.Starts id 0x0101 c) (hv : chosenVersions c.params = none) :
    exec (.openSession id) s = .next ((s.started id c).fail id .badVersion) := by
  rw [openSession_eq h, State.openSession, hv]

theorem openSession_full (h : s.Starts id 0x0101 c) {v : Session} (hv : chosenVersions c.params = some v)
    (hfull : 16 ≤ (s.fn c.fn).sessions.length ∨ 65535 < (s.fn c.fn).nextSession) :
    exec (.openSession id) s = .next ((s.started id c).fail id .badParam) := by
  rw [openSession_eq h, State.openSession, hv]
  exact congrArg _ (if_pos hfull)

theorem closeSession_eq (h : s.Starts id 0x0102 c) :
    exec (.closeSession id) s = .next (((s.started id c).setFn c.fn { s.fn c.fn with
      sessions := Tab.erase c.packet.session (s.fn c.fn).sessions }).complete id) :=
  State.opcodeRow_eq h _

/-- The item of a query is answered as the device stands. -/
theorem queryDevice_eq (h : s.Starts id 0x0103 c) :
    exec (.queryDevice id) s = .next (match s.queryItem (leAt c.params 0 2) (leAt c.params 2 2) with
      | none => (s.started id c).fail id .badParam
      | some v => (s.started id c).complete id v) :=
  State.opcodeRow_eq h _

theorem queryDevice_answers (h : s.Starts id 0x0103 c) {item arg v : Nat} (hitem : leAt c.params 0 2 = item)
    (harg : leAt c.params 2 2 = arg) (hv : s.queryItem item arg = some v) :
    exec (.queryDevice id) s = .next ((s.started id c).complete id v) := by
  rw [queryDevice_eq h, hitem, harg, hv]

theorem queryDevice_refuses (h : s.Starts id 0x0103 c) {item arg : Nat} (hitem : leAt c.params 0 2 = item)
    (harg : leAt c.params 2 2 = arg) (hv : s.queryItem item arg = none) :
    exec (.queryDevice id) s = .next ((s.started id c).fail id .badParam) := by
  rw [queryDevice_eq h, hitem, harg, hv]

end

theorem State.queryItem_beyond (s : State) {item : Nat} (h : 8 < item) : s.queryItem item 0 = none := by
  match item, h with
  | n + 9, _ => simp [State.queryItem]

theorem State.queryItem_partition (s : State) {p : Nat} (h1 : 1 ≤ p) (h6 : p ≤ 6) : s.queryItem 4 p =
    some ((s.part p).cores + (s.part p).streams * 2 ^ 8 + bit (s.part p).conf * 2 ^ 16) := by
  simp [State.queryItem, h1, h6]

theorem State.queryItem_no_partition (s : State) {p : Nat} (h : 6 < p) : s.queryItem 4 p = none := by
  simp [State.queryItem, Nat.not_le.mpr h]

/-- Settles O14, by the lemmas on each of the three commands. -/
theorem sessionsOpenCloseAndAnswer : Obligations.SessionsOpenCloseAndAnswer := by
  refine ⟨⟨fun s id c h => ⟨fun v => openSession_opened h, openSession_no_version h, fun v => openSession_full h⟩,
    fun lo hi vs hvs v => bestVersion_eq_some_iff ?_⟩,
    fun s id c => ⟨closeSession_eq, fun h => ⟨fun harg => ⟨fun hitem => ?_, fun hitem => ?_, fun hitem => ?_,
      fun hitem => ?_, fun hitem => ?_, fun hitem => ?_⟩, fun hitem => ⟨fun h1 h6 => ?_, fun hbeyond => ?_⟩⟩⟩⟩
  · simp only [List.mem_cons, List.not_mem_nil, or_false] at hvs
    rcases hvs with rfl | rfl | rfl <;> decide
  · exact queryDevice_answers h hitem harg (by simp [State.queryItem])
  · exact queryDevice_answers h hitem harg (by simp [State.queryItem])
  · exact queryDevice_answers h hitem harg (by simp [State.queryItem])
  · exact queryDevice_answers h hitem harg (by simp [State.queryItem])
  · exact queryDevice_answers h hitem harg (by simp [State.queryItem])
  · exact queryDevice_refuses h rfl harg (s.queryItem_beyond hitem)
  · exact queryDevice_answers h hitem rfl (s.queryItem_partition h1 h6)
  · exact queryDevice_refuses h hitem rfl (s.queryItem_no_partition hbeyond)

end Sys2Proof.Machine
end

