-- ==== Sys2Proof/Proofs/Configuration.lean ====
section
/-! STAGE_CONFIG, COMMIT_CONFIG and the boundary at which commits apply (R280, R310 to R312). -/

namespace Sys2Proof.Machine

/-! ### Staging -/

theorem mem_stageItem {set : List ConfigItem} {e x : ConfigItem} :
    x ∈ stageItem set e ↔ (x ∈ set ∧ x.same e = false) ∨ x = e := by
  simp [stageItem]

/-- Of two entries for one item the later is staged, and no other entry is lost. -/
theorem stageItem_replaces (set : List ConfigItem) (e : ConfigItem) :
    e ∈ stageItem set e ∧ (∀ x ∈ stageItem set e, x.same e = true → x = e) ∧
      ∀ x ∈ set, x.same e = false → x ∈ stageItem set e := by
  refine ⟨mem_stageItem.mpr (.inr rfl), fun x hx hsame => ?_, fun x hx hother => mem_stageItem.mpr (.inl ⟨hx, hother⟩)⟩
  rcases mem_stageItem.mp hx with ⟨_, hother⟩ | rfl
  · simp [hother] at hsame
  · rfl

section
variable {s : State} {id : Nat} {c : Cmd}

theorem stageConfig_eq (h : s.Starts id 0x0110 c) :
    exec (.stageConfig id) s = .next (if (s.commit c.part).isSome then ((s.started id c).count 44 4).fail id .configBusy
      else match stagedItems c with
        | none => (s.started id c).fail id .badParam
        | some es => if es.isEmpty || !es.all (s.itemOk c.part) then (s.started id c).fail id .badParam
          else ((s.started id c).setShadow c.part (es.foldl stageItem (s.shadow c.part))).complete id es.length) :=
  State.opcodeRow_eq h fun c s => s.stageConfig id c

theorem stageConfig_busy (h : s.Starts id 0x0110 c) (hbusy : (s.commit c.part).isSome = true) :
    exec (.stageConfig id) s = .next (((s.started id c).count 44 4).fail id .configBusy) := by
  rw [stageConfig_eq h, if_pos hbusy]

theorem stageConfig_staged (h : s.Starts id 0x0110 c) (hfree : s.commit c.part = none) {es : List ConfigItem}
    (hes : stagedItems c = some es) (hne : es ≠ []) (hok : ∀ e ∈ es, s.itemOk c.part e = true) :
    exec (.stageConfig id) s = .next (((s.started id c).setShadow c.part
      (es.foldl stageItem (s.shadow c.part))).complete id es.length) := by
  have hpass : ¬(es.isEmpty || !es.all (s.itemOk c.part)) = true := by
    simpa [hne] using hok
  simp only [stageConfig_eq h, hfree, Option.isSome_none, Bool.false_eq_true, if_false, hes, if_neg hpass]

theorem stageConfig_refused (h : s.Starts id 0x0110 c) (hfree : s.commit c.part = none) {es : List ConfigItem}
    (hes : stagedItems c = some es) {e : ConfigItem} (he : e ∈ es) (hbad : s.itemOk c.part e = false) :
    exec (.stageConfig id) s = .next ((s.started id c).fail id .badParam) := by
  have hstop : (es.isEmpty || !es.all (s.itemOk c.part)) = true := by
    simp only [Bool.or_eq_true, Bool.not_eq_true', List.all_eq_false]
    exact .inr ⟨e, he, by simp [hbad]⟩
  simp only [stageConfig_eq h, hfree, Option.isSome_none, Bool.false_eq_true, if_false, hes, if_pos hstop]

end

theorem State.itemOk_of_device_item (s : State) {p : Nat} {e : ConfigItem} (hp : p ≠ 0) (h10 : e.item ≠ 0x0010)
    (h11 : e.item ≠ 0x0011) : s.itemOk p e = false := by
  simp [State.itemOk, hp, h10, h11]

theorem State.itemOk_of_partition_item (s : State) {e : ConfigItem} (h : e.item = 0x0010 ∨ e.item = 0x0011) :
    s.itemOk 0 e = false := by
  rcases h with h | h <;> simp [State.itemOk, h]

/-- Settles O15, by the lemmas on STAGE_CONFIG. -/
theorem configStagesAllOrNothing : Obligations.ConfigStagesAllOrNothing := by
  refine ⟨⟨fun s id c h => ⟨stageConfig_busy h, fun hfree es hes hne => ⟨stageConfig_staged h hfree hes hne,
    fun e he hbad => stageConfig_refused h hfree hes he hbad⟩⟩, stageItem_replaces⟩, fun s p e => ⟨?_, ?_⟩⟩
  · exact fun hp h10 h11 => s.itemOk_of_device_item hp h10 h11
  · exact s.itemOk_of_partition_item

/-! ### Commits -/

section
variable {s : State} {id : Nat} {c : Cmd}

theorem commitConfig_eq (h : s.Starts id 0x0111 c) :
    exec (.commitConfig id) s = .next (if (s.commit c.part).isSome then ((s.started id c).count 44 4).fail id .configBusy
      else if bitOf (leAt c.params 0 1) 0 then ((s.started id c).setShadow c.part []).complete id
      else match (s.started id c).checkCommit c.part (s.shadow c.part) with
        | (some st, t) => (t.count 44 3).fail id st
        | (none, t) => t.setCommit c.part (some { cmd := some id, since := t.now })) :=
  State.opcodeRow_eq h fun c s => s.commitConfig id c

theorem commitConfig_busy (h : s.Starts id 0x0111 c) (hbusy : (s.commit c.part).isSome = true) :
    exec (.commitConfig id) s = .next (((s.started id c).count 44 4).fail id .configBusy) := by
  rw [commitConfig_eq h, if_pos hbusy]

theorem commitConfig_discards (h : s.Starts id 0x0111 c) (hfree : s.commit c.part = none)
    (hdiscard : bitOf (leAt c.params 0 1) 0 = true) :
    exec (.commitConfig id) s = .next (((s.started id c).setShadow c.part []).complete id) := by
  simp only [commitConfig_eq h, hfree, Option.isSome_none, Bool.false_eq_true, if_false, hdiscard, if_true]

theorem State.checkCommit_now (s : State) (p : Nat) (set : List ConfigItem) :
    (s.checkCommit p set).2.now = s.now :=
  congrArg Chron.ns ((State.checkCommit_frame s p set).only.time (by decide))

theorem commitConfig_waits (h : s.Starts id 0x0111 c) (hfree : s.commit c.part = none)
    (hkeep : bitOf (leAt c.params 0 1) 0 = false) {t : State}
    (ht : (s.started id c).checkCommit c.part (s.shadow c.part) = (none, t)) :
    exec (.commitConfig id) s = .next (t.setCommit c.part (some { cmd := some id, since := s.now })) := by
  have hnow : t.now = s.now := by
    have := State.checkCommit_now (s.started id c) c.part (s.shadow c.part)
    rwa [ht] at this
  simp only [commitConfig_eq h, hfree, Option.isSome_none, Bool.false_eq_true, if_false, hkeep, ht, hnow]

theorem commitConfig_refused (h : s.Starts id 0x0111 c) (hfree : s.commit c.part = none)
    (hkeep : bitOf (leAt c.params 0 1) 0 = false) {st : Status} {t : State}
    (ht : (s.started id c).checkCommit c.part (s.shadow c.part) = (some st, t)) :
    exec (.commitConfig id) s = .next ((t.count 44 3).fail id st) := by
  simp only [commitConfig_eq h, hfree, Option.isSome_none, Bool.false_eq_true, if_false, hkeep, ht]

end

theorem commitApply_eq {s : State} (hworks : s.working = true) (hslot : s.slotTime ≤ 100000)
    (hbetween : ∀ k, k < 6 → s.between k = true) :
    exec .commitApply s = .next ([7, 0, 1, 2, 3, 4, 5, 6].foldl State.applyCommit s) := by
  have hboundary : s.atBoundary = true := by
    simpa [State.atBoundary, State.allBetween, hslot] using hbetween
  show execCommitApply s = _
  rw [execCommitApply, hworks, hboundary, Bool.and_self, onlyIf_true]

section
variable {s : State} {p : Nat} {k : Commit}

theorem State.applyCommit_none (h : s.commit p = none) : s.applyCommit p = s := by
  rw [State.applyCommit, h]

theorem State.applyCommit_timed_out (h : s.commit p = some k) (hlate : k.since + 50000000 < s.now) :
    s.applyCommit p = ((s.setCommit p none).count 44 4).commitFails p k .configBusy := by
  simp only [State.applyCommit, h, if_pos hlate]

theorem State.applyCommit_refused (h : s.commit p = some k) (hsoon : s.now ≤ k.since + 50000000) {st : Status}
    {t : State} (ht : (s.setCommit p none).checkCommit p (s.shadow p) = (some st, t)) :
    s.applyCommit p = (t.count 44 3).commitFails p k st := by
  simp only [State.applyCommit, h, if_neg (Nat.not_lt.mpr hsoon), ht]

/-- The set of a partition is applied whole, and its shadow set is empty. -/
theorem State.applyCommit_applied (h : s.commit p = some k) (hsoon : s.now ≤ k.since + 50000000) (h1 : 1 ≤ p)
    (h6 : p ≤ 6) {t : State} (ht : (s.setCommit p none).checkCommit p (s.shadow p) = (none, t)) :
    s.applyCommit p = ((((s.shadow p).foldl (State.applyItem p) t).setShadow p []).count 44 2).commitDone p
      (s.shadow p).length k := by
  have hdevice : ¬(p = 0 ∨ p = 7) := by omega
  have hmanagement : p ≠ 7 := by omega
  simp only [State.applyCommit, h, if_neg (Nat.not_lt.mpr hsoon), ht, if_neg hdevice, if_neg hmanagement]

theorem commitTimeout_eq (hp : p ≤ 7) (h : s.commit p = some k) (hlate : k.since + 50000000 ≤ s.now) :
    exec (.commitTimeout p) s = .next (((s.setCommit p none).count 44 4).commitFails p k .configBusy) := by
  show execCommitTimeout p s = _
  rw [execCommitTimeout, decide_eq_true hp, checked_true, h, withSome_some, if_pos hlate]

end

/-- Settles O16, by the lemmas on COMMIT_CONFIG, on one commit at the boundary and on its timeout. -/
theorem commitsWaitAndApplyAtTheBoundary : Obligations.CommitsWaitAndApplyAtTheBoundary := by
  refine ⟨fun s id c h => ⟨commitConfig_busy h, commitConfig_discards h, fun hfree hkeep =>
      ⟨fun t => commitConfig_waits h hfree hkeep, fun st t => commitConfig_refused h hfree hkeep⟩⟩, fun s => ?_⟩
  exact ⟨commitApply_eq, fun p => State.applyCommit_none, fun p k => State.applyCommit_timed_out,
    fun p k t h hsoon h1 h6 => State.applyCommit_applied h hsoon h1 h6, fun p k st t h hsoon => State.applyCommit_refused h hsoon,
    fun p k => commitTimeout_eq⟩

end Sys2Proof.Machine
end

