-- ==== Sys2Proof/Proofs/Functions.lean ====
section
/-! ENABLE_FUNCTION, DISABLE_FUNCTION and the steps of a teardown (R209, R313 to R316). -/

namespace Sys2Proof.Machine

/-! ### The cores of a mask -/

theorem mem_bitsOf {n mask k : Nat} : k ∈ bitsOf n mask ↔ k < n ∧ bitOf mask k = true := by
  simp [bitsOf]

theorem nodup_bitsOf (n mask : Nat) : (bitsOf n mask).Nodup := List.nodup_range.filter _

/-- Each core of a list without repetition changes once, every other not at all. -/
theorem State.core_foldl_onCore (f : Core → Core) {ks : List Nat} (hks : ks.Nodup) (s : State) (k : Nat) :
    (ks.foldl (fun s c => s.onCore c f) s).core k = if k ∈ ks then f (s.core k) else s.core k := by
  induction ks generalizing s with
  | nil => simp
  | cons c ks ih =>
    obtain ⟨hc, hks⟩ := List.nodup_cons.mp hks
    rw [List.foldl_cons, ih hks]
    by_cases hk : k = c
    · subst hk
      simp [hc]
    · have hother : (s.onCore c f).core k = s.core k := State.core_setCore_ne s _ hk
      simp [hk, hother]

theorem State.core_onCores (s : State) (mask : Nat) (f : Core → Core) {k : Nat} (hk : k < 6) :
    (s.onCores mask f).core k = if bitOf mask k then f (s.core k) else s.core k := by
  rw [State.onCores, State.core_foldl_onCore f (nodup_bitsOf 6 mask)]
  simp only [mem_bitsOf, hk, true_and]

/-! ### Enabling and disabling -/

section
variable {s : State} {id : Nat} {c : Cmd}

/-- What refuses an ENABLE_FUNCTION (R313). -/
def State.enableRefused (s : State) (f cores streams regions : Nat) : Bool :=
  !(1 ≤ f && f ≤ 6) || (s.part f).enabled || cores == 0 ||
    (s.parts.filter fun e => e.2.enabled).any (fun e => e.2.cores &&& cores != 0) ||
    64 < s.quotaGranted + streams || 1020 < regions

theorem State.enableRefused_iff {f cores streams regions : Nat} : s.enableRefused f cores streams regions = true ↔
    f = 0 ∨ 6 < f ∨ (s.part f).enabled = true ∨ cores = 0 ∨
      (∃ e ∈ s.parts, e.2.enabled = true ∧ e.2.cores &&& cores ≠ 0) ∨ 64 < s.quotaGranted + streams ∨ 1020 < regions := by
  have hrange : (!(decide (1 ≤ f) && decide (f ≤ 6))) = true ↔ f = 0 ∨ 6 < f := by
    simp
  simp only [State.enableRefused, Bool.or_eq_true, hrange, List.any_filter, List.any_eq_true, Bool.and_eq_true,
    beq_iff_eq, bne_iff_ne, decide_eq_true_eq, or_assoc]

theorem enableFunction_eq (h : s.Starts id 0x0120 c) : exec (.enableFunction id) s = .next
    (if s.enableRefused (leAt c.params 0 1) (leAt c.params 1 1) (leAt c.params 2 1) (leAt c.params 4 2)
      then (s.started id c).fail id .badParam
      else (((s.started id c).setPart (leAt c.params 0 1) { Partition.reset with
        enabled := true, cores := leAt c.params 1 1, streams := leAt c.params 2 1, regions := leAt c.params 4 2 }).onRing
          (leAt c.params 0 1) fun _ => Ring.reset).complete id) :=
  State.opcodeRow_eq h fun c s => s.enableFunction id c

/-- What refuses a DISABLE_FUNCTION (R314). -/
theorem disableFunction_eq (h : s.Starts id 0x0121 c) : exec (.disableFunction id) s = .next
    (if !(1 ≤ leAt c.params 0 1 && leAt c.params 0 1 ≤ 6) || 1 < leAt c.params 1 1 || !(s.part (leAt c.params 0 1)).enabled
      then (s.started id c).fail id .badParam
      else (s.started id c).disable (leAt c.params 0 1) (leAt c.params 1 1 == 1) (some id)) :=
  State.opcodeRow_eq h fun c s => s.disableFunction id c

theorem disableFunction_starts (h : s.Starts id 0x0121 c) {f : Nat} (hf : leAt c.params 0 1 = f) (h1 : 1 ≤ f) (h6 : f ≤ 6)
    (hon : (s.part f).enabled = true) (hmode : leAt c.params 1 1 ≤ 1) : exec (.disableFunction id) s =
      .next ((s.started id c).disable f (leAt c.params 1 1 == 1) (some id)) := by
  rw [disableFunction_eq h, hf, if_neg]
  simp [h1, h6, hon, hmode]

theorem disableFunction_refused (h : s.Starts id 0x0121 c) {f : Nat} (hf : leAt c.params 0 1 = f)
    (hbad : f = 0 ∨ 6 < f ∨ (s.part f).enabled = false ∨ 1 < leAt c.params 1 1) :
    exec (.disableFunction id) s = .next ((s.started id c).fail id .badParam) := by
  rw [disableFunction_eq h, hf, if_pos]
  rcases hbad with rfl | hbad | hbad | hbad
  · simp
  · simp [Nat.not_le.mpr hbad]
  · simp [hbad]
  · simp [hbad]

end

/-! ### Teardown -/

theorem scratchpadZeroComplete_eq {s : State} {p : Nat} {t : Teardown} (h1 : 1 ≤ p) (h6 : p ≤ 6)
    (ht : (s.part p).teardown = some t) (hstep : t.step = 3) : exec (.scratchpadZeroComplete p) s = .next
      (((s.held p).foldl (fun s r => s.startUnmap r .teardown)
        (s.onCores (s.part p).cores fun k => { k with pad := [], seen := [] })).setTeardownStep p 4) := by
  have hheld : (s.onCores (s.part p).cores fun k => { k with pad := [], seen := [] }).held p = s.held p := by
    unfold State.held
    rw [(State.onCores_frame s (s.part p).cores fun k => { k with pad := [], seen := [] }).only.regions (by decide)]
  show execScratchpadZeroComplete p s = _
  simp [execScratchpadZeroComplete, h1, h6, ht, hstep, hheld]

theorem teardownComplete_eq {s : State} {p : Nat} {t : Teardown} (h1 : 1 ≤ p) (h6 : p ≤ 6)
    (ht : (s.part p).teardown = some t) (hstep : t.step = 4) (hheld : s.held p = [])
    (hscrubs : t.waiters = [] ∨ ∀ e ∈ s.scrubs, e.2.torn ≠ p) :
    exec (.teardownComplete p) s = .next (s.endTeardown p t) := by
  have hdone : t.waiters = [] ∨ s.scrubs.all (fun e => e.2.torn != p) = true := by
    simpa using hscrubs
  have hempty : (s.held p).isEmpty = true := by rw [hheld]; rfl
  show execTeardownComplete p s = _
  rw [execTeardownComplete, decide_eq_true h1, decide_eq_true h6, Bool.and_self, checked_true, ht, withSome_some,
    if_pos ⟨hstep, hempty, hdone⟩]

/-- Commands that complete one after another change only the commands, their count and the counters. -/
theorem State.completeAll_frame (s : State) (ids : List Nat) (v : Nat) :
    s.Frame (fields [.cmds, .ended, .tally, .flashTally]) (ids.foldl (fun s id => s.complete id v) s) :=
  Frame.foldl (fun id t ht => ht.trans (State.complete_frame t id v 0)) Frame.refl

theorem State.part_congr {s t : State} (h : t.parts = s.parts) (p : Nat) : t.part p = s.part p := by
  unfold State.part
  rw [h]

theorem State.fn_congr {s t : State} (h : t.fns = s.fns) (f : Nat) : t.fn f = s.fn f := by
  unfold State.fn
  rw [h]

/-- The state in which step 5 of a teardown has cleared the partition, before its waiting commands complete. -/
def State.tornDown (s : State) (p : Nat) : State :=
  ((((s.clearPerturb p 55 6).discardHeld p).onFn p fun x =>
    { x with sessions := [], nextSession := 1, ring := { x.ring with enable := false } }).setPart p .reset)

theorem State.endTeardown_eq (s : State) (p : Nat) (t : Teardown) :
    s.endTeardown p t = t.waiters.foldl (fun s id => s.complete id t.aborted) (s.tornDown p) := rfl

theorem State.endTeardown_part (s : State) (p : Nat) (t : Teardown) : (s.endTeardown p t).part p = .reset := by
  rw [State.endTeardown_eq, State.part_congr ((State.completeAll_frame ..).only.parts (by decide)), State.tornDown,
    State.part_setPart]

theorem State.endTeardown_fn (s : State) (p : Nat) (t : Teardown) :
    ((s.endTeardown p t).fn p).sessions = [] ∧ ((s.endTeardown p t).ring p).enable = false := by
  have hfn : (s.endTeardown p t).fn p = (s.tornDown p).fn p :=
    State.fn_congr ((State.completeAll_frame (s.tornDown p) t.waiters t.aborted).only.fns (by decide)) p
  have htorn : (s.tornDown p).fn p = { ((s.clearPerturb p 55 6).discardHeld p).fn p with
      sessions := [], nextSession := 1,
      ring := { (((s.clearPerturb p 55 6).discardHeld p).fn p).ring with enable := false } } :=
    (State.fn_congr (State.setPart_fns ..) p).trans (State.fn_onFn ..)
  rw [State.ring, hfn, htorn]
  exact ⟨rfl, rfl⟩

/-- Settles O17, by the lemmas on each command and each step of a teardown. -/
theorem functionsEnableAndTearDown : Obligations.FunctionsEnableAndTearDown := by
  refine ⟨fun s id c h => ⟨fun h1 h6 hoff hcores hothers hquota hregions => ?_, fun hbad => ?_⟩,
    fun s => ⟨fun id c h => ⟨fun f => disableFunction_starts h, fun f => disableFunction_refused h⟩,
      fun p t => scratchpadZeroComplete_eq, fun mask k hk => ?_, fun p t h1 h6 ht hstep hheld hscrubs => ?_⟩⟩
  · rw [enableFunction_eq h, if_neg]
    rw [State.enableRefused_iff]
    rintro (h | h | h | h | ⟨e, he, hon, h⟩ | h | h)
    · omega
    · omega
    · simp [hoff] at h
    · exact hcores h
    · exact h (hothers e he hon)
    · omega
    · omega
  · rw [enableFunction_eq h, if_pos (State.enableRefused_iff.mpr hbad)]
  · rw [State.core_onCores s mask _ hk]
    split <;> rfl
  · have hframe := State.endTeardown_frame s p t
    exact ⟨s.endTeardown p t, teardownComplete_eq h1 h6 ht hstep hheld hscrubs, s.endTeardown_part p t,
      (s.endTeardown_fn p t).1, (s.endTeardown_fn p t).2, hframe.only.mem (by decide), hframe.only.cores (by decide)⟩

end Sys2Proof.Machine
end


-- ==== Sys2Proof/Proofs/RouteCommands.lean ====
section
/-! LOAD_ROUTE, VERIFY_ROUTE, RUN_ROUTE and ABORT_ROUTE (R248, R252, R276, R277, R319, R323, R324). -/

namespace Sys2Proof.Machine

/-! ### Loading -/

section
variable {s : State} {id : Nat} {c : Cmd}

theorem verifyRoute_eq (h : s.Starts id 0x0302 c) :
    exec (.verifyRoute id) s = .next (match (s.started id c).checkImage c false with
      | (u, .error e) => u.fail id e.status e.detail
      | (u, .ok _) => u.complete id) :=
  State.opcodeRow_eq h fun c s => match s.checkImage c false with
    | (s, .error e) => s.fail id e.status e.detail
    | (s, .ok _) => s.complete id

theorem loadRoute_eq (h : s.Starts id 0x0301 c) :
    exec (.loadRoute id) s = .next ((s.started id c).loadRoute id c) :=
  State.opcodeRow_eq h fun c s => s.loadRoute id c

end

/-- The route of a checked image. -/
def LoadView.route (v : LoadView) (s : State) (c : Cmd) (replay : List Nat) (bytes : Bytes) : Route :=
  { partition := c.part, exact := bitOf (leAt c.params 12 1) 0, cascade := s.cascadeSize, image := v.image,
    digest := Config.sha384 bytes, stream := none, knobs := [], counters := v.homeCounters s.cascade.device,
    replay := replay, tilings := [], armed := [], loading := none, releasing := false, waiters := [] }

/-- The admission test of a checked image, and the state after it. -/
def LoadView.admitted (v : LoadView) (s : State) (c : Cmd) (replay : List Nat) : Bool × State :=
  s.testAdmission s.admission (v.image.cores v.good) []
    (routeBlocking (v.plan (bitOf (leAt c.params 12 1) 0) replay) (floorPace s.admission))

/-- A route placed: its record, its handles and letterboxes, its counters and its seen maps. -/
def LoadView.placed (v : LoadView) (s : State) (c : Cmd) (replay : List Nat) (bytes : Bytes) : State :=
  (((s.setRoute ((Tab.freeKey s.routes 0 256).getD 0) (v.route s c replay bytes)).placeImage
    ((Tab.freeKey s.routes 0 256).getD 0) v.image).takeCounters c.part (v.homeCounters s.cascade.device)).allotSeen v.good

theorem State.loadRoute_eq_of_checked {s w : State} {c : Cmd} {v : LoadView} {replay : List Nat} {bytes : Bytes}
    (id : Nat) (h : s.checkImage c true = (w, .ok (v, replay, bytes))) : s.loadRoute id c =
      if !(v.admitted w c replay).1 then (v.admitted w c replay).2.fail id .admissionRefused
      else if (v.placed (v.admitted w c replay).2 c replay bytes).imagePowered v.image then
        (v.placed (v.admitted w c replay).2 c replay bytes).complete id
          ((Tab.freeKey (v.admitted w c replay).2.routes 0 256).getD 0)
      else (v.placed (v.admitted w c replay).2 c replay bytes).onRoute
        ((Tab.freeKey (v.admitted w c replay).2.routes 0 256).getD 0) fun r => { r with loading := some id } := by
  simp only [State.loadRoute, h]
  rfl

/-- Settles O19, by the cases of the check and of the admission test. -/
theorem loadRouteChecksThenPlaces : Obligations.LoadRouteChecksThenPlaces := by
  refine fun s id c => ⟨fun h => ⟨fun e u hu => ?_, fun v u hu => ?_⟩, fun keep u r hu => ?_,
    fun h => ⟨fun e u hu => ?_, fun v replay bytes w hw ok t ht => ⟨fun hok => ?_, fun hok =>
      ⟨v.route t c replay bytes, v.placed t c replay bytes, rfl, rfl, rfl, rfl, rfl, rfl, rfl, rfl, rfl,
        fun hpowered => ?_, fun hoff => ?_⟩⟩⟩⟩
  · rw [verifyRoute_eq h, hu]
  · rw [verifyRoute_eq h, hu]
  · have hframe := (State.checkImage_frame s c keep).only
    rwa [hu] at hframe
  · rw [loadRoute_eq h, State.loadRoute, hu]
  all_goals
    have hadmitted : v.admitted w c replay = (ok, t) := ht
    rw [loadRoute_eq h, State.loadRoute_eq_of_checked id hw, hadmitted, hok]
  · rfl
  · simp only [Bool.not_true, Bool.false_eq_true, if_false, if_pos hpowered]
  · simp only [Bool.not_true, Bool.false_eq_true, if_false, hoff]

/-! ### Running -/

section
variable {s : State} {id : Nat} {c : Cmd}

theorem runRoute_eq (h : s.Starts id 0x0303 c) : exec (.runRoute id) s = .next (match s.ownRoute c.part (leAt c.params 0 2) with
    | none => (s.started id c).fail id .badParam
    | some r =>
      if r.stream.isSome || 2 ^ 24 ≤ leAt c.params 4 4 then (s.started id c).fail id .badParam
      else match r.patched (runArgs c.params) with
        | none => (s.started id c).fail id .badParam
        | some recs =>
          match (s.started id c).retile (leAt c.params 0 2) r (leAt c.params 4 4) with
          | .error (st, d, t) => t.fail id st d
          | .ok t =>
            match r.runSteps (leAt c.params 4 4) recs with
            | none => t.fail id .badParam
            | some steps => t.queueRun (Run.fresh (leAt c.params 0 2) (.command id) steps)) :=
  State.opcodeRow_eq h fun c s => s.runRoute id c

theorem runRoute_absent (h : s.Starts id 0x0303 c) (hroute : s.ownRoute c.part (leAt c.params 0 2) = none) :
    exec (.runRoute id) s = .next ((s.started id c).fail id .badParam) := by
  rw [runRoute_eq h, hroute]

theorem runRoute_refused (h : s.Starts id 0x0303 c) {r : Route} (hroute : s.ownRoute c.part (leAt c.params 0 2) = some r)
    (hbad : r.stream.isSome = true ∨ 2 ^ 24 ≤ leAt c.params 4 4 ∨ r.patched (runArgs c.params) = none) :
    exec (.runRoute id) s = .next ((s.started id c).fail id .badParam) := by
  simp only [runRoute_eq h, hroute]
  by_cases hstop : (r.stream.isSome || decide (2 ^ 24 ≤ leAt c.params 4 4)) = true
  · rw [if_pos hstop]
  · have hpatched : r.patched (runArgs c.params) = none := by
      simp only [Bool.or_eq_true, decide_eq_true_eq] at hstop
      obtain h | h | h := hbad
      · exact absurd (.inl h) hstop
      · exact absurd (.inr h) hstop
      · exact h
    rw [if_neg hstop, hpatched]

/-- A run whose patches apply: what tiling its P anew and its tile lists let it do. -/
theorem runRoute_patched (h : s.Starts id 0x0303 c) {r : Route} (hroute : s.ownRoute c.part (leAt c.params 0 2) = some r)
    {recs : List RouteStep} (hstream : r.stream = none) (hp : leAt c.params 4 4 < 2 ^ 24)
    (hrecs : r.patched (runArgs c.params) = some recs) : exec (.runRoute id) s = .next
      (match (s.started id c).retile (leAt c.params 0 2) r (leAt c.params 4 4) with
      | .error (st, d, t) => t.fail id st d
      | .ok t =>
        match r.runSteps (leAt c.params 4 4) recs with
        | none => t.fail id .badParam
        | some steps => t.queueRun (Run.fresh (leAt c.params 0 2) (.command id) steps)) := by
  have hgo : ¬(r.stream.isSome || decide (2 ^ 24 ≤ leAt c.params 4 4)) = true := by
    simp only [hstream, Option.isSome_none, Bool.false_or, decide_eq_true_eq]
    exact Nat.not_le.mpr hp
  simp only [runRoute_eq h, hroute, if_neg hgo, hrecs]

end

theorem State.retile_same (s : State) (rid : Nat) (r : Route) : s.retile rid r 0 = .ok s := by
  simp [State.retile]

/-- A run put into its table with the next number, before any core queues it. -/
def State.withRun (s : State) (r : Run) : State := { (s.setRun s.nextRun r) with nextRun := s.nextRun + 1 }

theorem State.queueRun_eq (s : State) (r : Run) : s.queueRun r =
    ((List.range 6).filter fun k => r.steps.any (RouteStep.onCore k)).foldl
      (fun t k => t.onCore k fun x => { x with queue := x.queue ++ [s.nextRun] }) (s.withRun r) := rfl

theorem State.queueRun_queue (s : State) (r : Run) {k : Nat} (hk : k < 6) : ((s.queueRun r).core k).queue =
    (s.core k).queue ++ (if r.steps.any (RouteStep.onCore k) then [s.nextRun] else []) := by
  rw [State.queueRun_eq, State.core_foldl_onCore _ (List.nodup_range.filter _)]
  by_cases hon : r.steps.any (RouteStep.onCore k) = true
  · rw [if_pos (by simp only [List.mem_filter, List.mem_range, hk, hon, and_self]), if_pos hon]
    rfl
  · rw [if_neg (by simp only [List.mem_filter, hon, and_false, not_false_eq_true, Bool.false_eq_true]), if_neg hon, List.append_nil]
    rfl

/-- Queueing a run on cores changes nothing but the cores. -/
theorem State.queueRun_frame_withRun (s : State) (r : Run) : (s.withRun r).Frame (fields [.cores]) (s.queueRun r) := by
  rw [State.queueRun_eq]
  exact Frame.foldl (fun k t ht => ht.trans (State.onCore_frame ..)) Frame.refl

theorem State.queueRun_run (s : State) (r : Run) :
    (s.queueRun r).run s.nextRun = some r ∧ (s.queueRun r).nextRun = s.nextRun + 1 := by
  have hframe := (s.queueRun_frame_withRun r).only
  refine ⟨?_, (hframe.nextRun (by decide)).trans rfl⟩
  rw [State.run, hframe.runs (by decide)]
  exact Tab.find_put_self ..

/-! ### Aborting -/

section
variable {s : State} {id : Nat} {c : Cmd}

theorem abortRoute_eq (h : s.Starts id 0x0304 c) :
    exec (.abortRoute id) s = .next ((s.started id c).abortRoute id c) :=
  State.opcodeRow_eq h fun c s => s.abortRoute id c

theorem State.started_ownRoute (s : State) (id : Nat) (c : Cmd) (p rid : Nat) :
    (s.started id c).ownRoute p rid = s.ownRoute p rid := rfl

theorem State.started_runsOf (s : State) (id : Nat) (c : Cmd) (rid : Nat) :
    (s.started id c).runsOf rid = s.runsOf rid := rfl

end

/-- Settles O20, by the cases of each command and the rules on the queues. -/
theorem runsAreQueuedAndAborted : Obligations.RunsAreQueuedAndAborted := by
  refine ⟨⟨fun s id c h => ⟨runRoute_absent h, fun r hroute => ⟨runRoute_refused h hroute,
      fun recs hstream hp hrecs => ⟨fun st d t ht => ?_, fun t ht => ⟨fun hsteps => ?_, fun steps hsteps => ?_⟩,
        fun hzero => ?_⟩⟩⟩,
      fun s r k hk => ⟨s.queueRun_queue r hk, s.queueRun_run r⟩⟩,
    fun s id c h => ⟨fun hroute => ?_, fun r hroute => ⟨fun hstream => ?_, fun hstream hkeep => ?_,
      fun hstream hrelease => ?_⟩⟩⟩
  · rw [runRoute_patched h hroute hstream hp hrecs, ht]
  · rw [runRoute_patched h hroute hstream hp hrecs, ht, hsteps]
  · rw [runRoute_patched h hroute hstream hp hrecs, ht, hsteps]
  · rw [hzero]
    exact State.retile_same ..
  · rw [abortRoute_eq h, State.abortRoute, State.started_ownRoute, hroute]
  all_goals
    rw [abortRoute_eq h]
    simp only [State.abortRoute, State.started_ownRoute, State.started_runsOf, hroute, hstream]
  · rfl
  · simp only [Option.isSome_none, Bool.false_eq_true, if_false, hkeep]
  · simp only [Option.isSome_none, Bool.false_eq_true, if_false, hrelease, if_true]

end Sys2Proof.Machine
end


-- ==== Sys2Proof/Proofs/Packing.lean ====
section
/-! PACK_TILES and PACK_SORT (R105, R107, R325). -/

namespace Sys2Proof.Machine

section
variable {s : State} {id : Nat} {c : Cmd}

/-- A PACK_TILES command that has no run yet is taken. -/
theorem packTiles_taken (h : s.Starts id 0x0310 c) (hrun : s.runOf id = none) :
    exec (.packTiles id) s = .next ((s.started id c).startPack id c) := by
  rw [← State.opcodeRow_eq h fun c s => s.startPack id c]
  show execPackTiles id s = _
  cases hk : Tab.find id s.packing with
  | none => simp only [execPackTiles, h.1, hk]
  | some k => simp only [execPackTiles, h.1, hk, hrun]

theorem packTiles_pass {k : Packing} {rid : Nat} (hworks : s.working = true) (hcmd : s.cmd id = some c)
    (hk : Tab.find id s.packing = some k) (hrun : s.runOf id = some rid) :
    exec (.packTiles id) s = .next (s.packPass id c k rid) := by
  show execPackTiles id s = _
  simp only [execPackTiles, hcmd, hk, hrun, hworks, onlyIf_true]

theorem packSort_pass {k : Packing} {rid : Nat} (hworks : s.working = true) (hcmd : s.cmd id = some c)
    (hk : Tab.find id s.packing = some k) (hrun : s.runOf id = some rid)
    (hturn : s.packTurn rid (bitsOf 6 (s.part c.part).cores) = true) (hkeyed : k.keyed = true)
    {e : Nat × List (Nat × Nat)} (he : (k.keys.find? fun e => (Tab.find e.1 k.orders).isNone) = some e) :
    exec (.packSort id) s = .next { s with packing := Tab.put id { k with
      orders := Tab.put e.1 (sortRows (unitSize (((decodePackBlock c.params).recs[e.1]?).bind fun r =>
        (decodePackBlock c.params).recs.find? fun q => q.tensor == r.consumer)) e.2) k.orders } s.packing } := by
  show execPackSort id s = _
  simp only [execPackSort, hcmd, hk, hrun, hworks, onlyIf_true, hkeyed, hturn, Bool.not_true, Bool.or_self,
    Bool.false_eq_true, if_false, he, withSome_some]

theorem State.startPack_badBlock {s : State} (hbad : c.packet.byRef = false ∨ (decodePackBlock c.params).ok = false) :
    s.startPack id c = s.fail id .badParam := by
  refine if_pos ?_
  rcases hbad with h | h <;> simp [h]

/-- A block in its limits: what the map, the master tiles and the areas let the command do. -/
theorem State.startPack_goodBlock {s : State} (href : c.packet.byRef = true) (hok : (decodePackBlock c.params).ok = true) :
    s.startPack id c = if !s.packMapped c.part (decodePackBlock c.params) then s.refusal.fail id .badParam
      else match s.allMasters c.part (decodePackBlock c.params).recs with
        | (t, .error e) => t.fail id e
        | (t, .ok masters) => if (decodePackBlock c.params).areasOk masters then t.queuePack id c.part
          else t.fail id .badParam :=
  if_neg (by simp [href, hok])

end

/-- Whether every sorted tensor of a block has its order (R107). -/
def PackBlock.ready (b : PackBlock) (k : Packing) : Bool :=
  ((b.recs.zipIdx.filter (·.1.sort)).map (·.2)).all fun i => (Tab.find i k.orders).isSome

theorem PackBlock.ready_iff {b : PackBlock} {k : Packing} : b.ready k = true ↔
    ∀ q ∈ b.recs.zipIdx, q.1.sort = true → (Tab.find q.2 k.orders).isSome = true := by
  simp only [PackBlock.ready, List.all_map, List.all_filter, List.all_eq_true, Function.comp, Bool.or_eq_true,
    Bool.not_eq_true']
  exact forall₂_congr fun q _ => by cases q.1.sort <;> simp

/-- A pass in its turn, once the scales are read. -/
theorem State.packPass_turn {s t : State} {id rid : Nat} {c : Cmd} {k : Packing} {scales : List Word}
    (hturn : s.packTurn rid (bitsOf 6 (s.part c.part).cores) = true)
    (hscales : s.packScales c.part (decodePackBlock c.params) = (t, .ok scales))
    (hgo : k.keyed = false ∨ (decodePackBlock c.params).ready k = true) :
    s.packPass id c k rid = if (decodePackBlock c.params).ready k then
        t.packAll id rid c.part (decodePackBlock c.params) k.orders scales
      else match t.packKeys c.part (decodePackBlock c.params) scales with
        | (u, .error (st, d)) => u.endPacking id rid st d
        | (u, .ok keys) => { u with packing := Tab.put id { k with keyed := true, keys := keys } u.packing } := by
  have hpass : ¬(!s.packTurn rid (bitsOf 6 (s.part c.part).cores) ||
      (k.keyed && !(decodePackBlock c.params).ready k)) = true := by
    rcases hgo with h | h <;> simp [hturn, h]
  refine (if_neg hpass).trans ?_
  rw [hscales]
  rfl

/-- Settles O21, by the cases of the checks and of a pass. -/
theorem packTilesRunsInPasses : Obligations.PackTilesRunsInPasses := by
  refine fun s id c => ⟨fun h hrun => ⟨fun hbad => ?_, fun href hok => ⟨fun hunmapped => ?_, fun hmapped =>
      ⟨fun t st ht => ?_, fun t masters ht => ⟨fun hareas => ?_, fun hareas => ?_⟩⟩⟩⟩,
    fun k rid scales t hworks hcmd hk hrun hturn hscales => ⟨fun hready => ?_, fun hready hkeyed keys u hu => ?_,
      fun e hkeyed he => packSort_pass hworks hcmd hk hrun hturn hkeyed he⟩⟩
  · rw [packTiles_taken h hrun, State.startPack_badBlock hbad]
  · rw [packTiles_taken h hrun, State.startPack_goodBlock href hok, hunmapped]
    rfl
  · simp only [packTiles_taken h hrun, State.startPack_goodBlock href hok, hmapped, ht, Bool.not_true,
      Bool.false_eq_true, if_false]
  · simp only [packTiles_taken h hrun, State.startPack_goodBlock href hok, hmapped, ht, Bool.not_true,
      Bool.false_eq_true, if_false, hareas, if_true]
  · simp only [packTiles_taken h hrun, State.startPack_goodBlock href hok, hmapped, ht, Bool.not_true,
      Bool.false_eq_true, if_false, hareas]
  · have hall := PackBlock.ready_iff.mpr hready
    rw [packTiles_pass hworks hcmd hk hrun, State.packPass_turn hturn hscales (.inr hall), if_pos hall]
  · rw [packTiles_pass hworks hcmd hk hrun, State.packPass_turn hturn hscales (.inl hkeyed),
      if_neg (mt PackBlock.ready_iff.mp hready), hu]

end Sys2Proof.Machine
end

