-- ==== Sys2Proof/Proofs/StreamCommands.lean ====
section
/-! OPEN_STREAM, CLOSE_STREAM and QUERY_STREAM (R326 to R328). -/

namespace Sys2Proof.Machine

section
variable {s : State} {id : Nat} {c : Cmd}

theorem openStream_eq (h : s.Starts id 0x0401 c) :
    exec (.openStream id) s = .next ((s.started id c).openStream id c) :=
  State.opcodeRow_eq h fun c s => s.openStream id c

theorem openStream_warned (h : s.Starts id 0x0401 c) (hwarn : s.power.warn = true) :
    exec (.openStream id) s = .next ((s.started id c).fail id .powerHold) :=
  (openStream_eq h).trans (congrArg _ (if_pos hwarn))

theorem openStream_badLength (h : s.Starts id 0x0401 c) (hwarn : s.power.warn = false) (hlen : leAt c.params 8 4 ≠ 64) :
    exec (.openStream id) s = .next ((s.started id c).fail id .badParam) :=
  (openStream_eq h).trans (congrArg _ ((if_neg (Bool.eq_false_iff.mp hwarn)).trans (if_pos hlen)))

/-- With the power and the length in order, what the read of the descriptor leads to. -/
theorem openStream_read (h : s.Starts id 0x0401 c) (hwarn : s.power.warn = false) (hlen : leAt c.params 8 4 = 64) :
    exec (.openStream id) s = .next (match (s.started id c).readParams c.part (leAt c.params 0 8) 64 with
      | (w, .error e) => w.fail id e
      | (w, .ok b) =>
        match w.streamCore c.part b (leAt c.params 12 2) (leAt c.params 14 2) with
        | none => w.fail id .badParam
        | some (r, core) =>
          if (w.part c.part).streams ≤ (w.streams.filter fun e => e.2.partition == c.part).length ∨
              64 ≤ w.streams.length ∨ !(w.part c.part).perturb.isEmpty then w.fail id .admissionRefused
          else
            let q := w.testAdmission w.admission [core]
              [{ t := (decodeDesc b).period, d := (decodeDesc b).deadline, c := w.streamCount r core }] (fun _ => 0)
            if q.1 then q.2.openContext id c.part (leAt c.params 12 2) (leAt c.params 14 2) r core (decodeDesc b)
            else q.2.fail id .admissionRefused) :=
  (openStream_eq h).trans (congrArg _ ((if_neg (Bool.eq_false_iff.mp hwarn)).trans (if_neg (not_not_intro hlen))))

/-- A stream within its quotas, on a partition without perturbation: the admission test decides. -/
theorem openStream_tested (h : s.Starts id 0x0401 c) (hwarn : s.power.warn = false) (hlen : leAt c.params 8 4 = 64)
    {w : State} {b : Bytes} (hread : (s.started id c).readParams c.part (leAt c.params 0 8) 64 = (w, .ok b))
    {r : Route} {core : Nat} (hcore : w.streamCore c.part b (leAt c.params 12 2) (leAt c.params 14 2) = some (r, core))
    (hmine : (w.streams.filter fun e => e.2.partition == c.part).length < (w.part c.part).streams)
    (hall : w.streams.length < 64) (hperturb : (w.part c.part).perturb = []) {ok : Bool} {t : State}
    (ht : w.testAdmission w.admission [core]
      [{ t := (decodeDesc b).period, d := (decodeDesc b).deadline, c := w.streamCount r core }] (fun _ => 0) = (ok, t)) :
    exec (.openStream id) s = .next (if ok then
      t.openContext id c.part (leAt c.params 12 2) (leAt c.params 14 2) r core (decodeDesc b)
      else t.fail id .admissionRefused) := by
  have hgo : ¬((w.part c.part).streams ≤ (w.streams.filter fun e => e.2.partition == c.part).length ∨
      64 ≤ w.streams.length ∨ (!(w.part c.part).perturb.isEmpty) = true) := by
    simp only [hperturb, List.isEmpty_nil, Bool.not_true, Bool.false_eq_true, or_false]
    omega
  simp only [openStream_read h hwarn hlen, hread, hcore, if_neg hgo, ht]

theorem closeStream_eq (h : s.Starts id 0x0402 c) : exec (.closeStream id) s = .next
    (match s.ownStream c.part (leAt c.params 0 1) with
      | none => (s.started id c).fail id .badParam
      | some _ => ((s.started id c).onStream (leAt c.params 0 1) fun x =>
          { x with closing := true, closers := x.closers ++ [id] }).settle) :=
  State.opcodeRow_eq h _

theorem queryStream_eq (h : s.Starts id 0x0403 c) : exec (.queryStream id) s = .next
    (if 64 ≤ leAt c.params 0 1 ∨ (s.stream (leAt c.params 0 1)).any (fun x => x.partition != c.part) ∨
        resultAddr 0x0403 c.params % 64 ≠ 0 then (s.started id c).fail id .badParam
      else ((s.started id c).result id (resultAddr 0x0403 c.params) (match s.stream (leAt c.params 0 1) with
        | some x => (s.started id c).streamRecord x
        | none => zeros 64)).complete id) :=
  State.opcodeRow_eq h _

end

/-- Settles O22, by the cases of each command. -/
theorem streamsOpenCloseAndAnswer : Obligations.StreamsOpenCloseAndAnswer := by
  refine ⟨fun s id c h => ⟨fun hwarn => ?_, fun hwarn hlen => ?_, fun w e hwarn hlen hread => ?_,
      fun w b hwarn hlen hread => ⟨fun hcore => ?_, fun r core hcore => ⟨fun hquota => ?_,
        fun hmine hall hperturb ok t ht => ⟨fun hok => ?_, fun hok => ?_⟩⟩⟩⟩,
    fun s id c => ⟨fun h => ⟨fun x hx => ?_, fun hnone => ?_⟩,
      fun h => ⟨fun x hn hout hx hown => ?_, fun hn hout hnone => ?_, fun hbad => ?_⟩⟩⟩
  · exact openStream_warned h hwarn
  · exact openStream_badLength h hwarn hlen
  · rw [openStream_read h hwarn hlen, hread]
  · simp only [openStream_read h hwarn hlen, hread, hcore]
  · have hstop : (w.part c.part).streams ≤ (w.streams.filter fun e => e.2.partition == c.part).length ∨
        64 ≤ w.streams.length ∨ (!(w.part c.part).perturb.isEmpty) = true := by
      simpa using hquota
    simp only [openStream_read h hwarn hlen, hread, hcore, if_pos hstop]
  · rw [openStream_tested h hwarn hlen hread hcore hmine hall hperturb ht, if_pos hok]
  · rw [openStream_tested h hwarn hlen hread hcore hmine hall hperturb ht, if_neg (Bool.eq_false_iff.mp hok)]
  · rw [closeStream_eq h, hx]
  · rw [closeStream_eq h, hnone]
  · rw [queryStream_eq h, if_neg (by simp [hx, hown, hout, hn]), hx]
  · rw [queryStream_eq h, if_neg (by simp [hnone, hout, hn]), hnone]
  · rw [queryStream_eq h, if_pos]
    rcases hbad with hn | hout | ⟨x, hx, hother⟩
    · exact .inl hn
    · exact .inr (.inr hout)
    · exact .inr (.inl (by simp [hx, hother]))

end Sys2Proof.Machine
end


-- ==== Sys2Proof/Proofs/Frames.lean ====
section
/-! The frames of a stream and the steps of a core (R142, R275, R276, R280, R282, R346). -/

namespace Sys2Proof.Machine

/-! ### Frames -/

section
variable {s : State} {n : Nat} {x : Stream}

theorem frameRelease_eq (hworks : s.working = true) (hn : n < 64) (hx : s.stream n = some x) {a : Nat} {sub : Bool}
    {rest : List (Nat × Bool)} {r : Route} (ha : x.arrivals = (a, sub) :: rest) (hr : s.route x.route = some r)
    (hclosing : x.closing = false) : exec (.frameRelease n) s =
      .next (if s.now < x.release a then s else s.releaseFrame n x r a sub) := by
  show execFrameRelease n s = _
  simp [execFrameRelease, hn, hworks, hx, ha, hr, hclosing]

/-- The run of a released frame is the next one, and its deadline follows the release (R275). -/
theorem State.releaseFrame_run (s : State) (n : Nat) (x : Stream) (r : Route) (a : Nat) (sub : Bool) :
    ∃ run, (s.releaseFrame n x r a sub).run s.nextRun = some run ∧ run.route = x.route ∧
      run.serves = .frame n (x.released + 1) (x.release a) (x.release a + x.desc.deadline) := by
  rw [State.releaseFrame, State.setStream_nextRun, State.count_nextRun]
  exact ⟨_, Tab.find_put_self .., rfl, rfl⟩

theorem beatMissed_eq (hworks : s.working = true) (hn : n < 64) (hx : s.stream n = some x) {b : Nat} (hb : x.beat = some b)
    (hlate : b < s.now) (harrivals : x.arrivals = []) (hincoming : x.incoming = []) (hpacket : s.packetBy x b = false)
    (hclosing : x.closing = false) (hpolicy : x.desc.policy ≠ 0) :
    exec (.beatMissed n) s = .next (s.writeSubstitute n x) := by
  show execBeatMissed n s = _
  simp [execBeatMissed, hn, hworks, hx, hb, Nat.not_le.mpr hlate, harrivals, hincoming, hpacket, hclosing, hpolicy]

/-- Policy 0 writes no substitute (R346). -/
theorem beatMissed_policy_zero (hworks : s.working = true) (hn : n < 64) (hx : s.stream n = some x)
    (hpolicy : x.desc.policy = 0) : exec (.beatMissed n) s = .next s := by
  show execBeatMissed n s = _
  cases hb : x.beat <;> simp [execBeatMissed, hn, hworks, hx, hb, hpolicy]

/-- The one run of a device is the frame whose deadline is tested. -/
theorem deadlineMiss_eq (hworks : s.working = true) (hn : n < 64) (hx : s.stream n = some x) {rid no rel d : Nat}
    {r : Run} (hruns : s.runs = [(rid, r)]) (hserves : r.serves = .frame n no rel d) (hhanded : r.handed = false) :
    exec (.deadlineMiss n) s = .next (if s.now ≤ d then s else s.fault (missHalt x.core n no d r)) := by
  show execDeadlineMiss n s = _
  by_cases hd : s.now ≤ d <;> simp [execDeadlineMiss, hn, hworks, hruns, hserves, hhanded, State.missed, hx, hd]

end

/-! ### Dispatch -/

section
variable {s : State} {k : Nat}

theorem State.mayBegin_of_idle (hidle : (s.core k).running = .idle) (htail : (s.core k).tail = none) (st : RouteStep) :
    s.mayBegin k st = true := by
  cases st <;> simp [State.mayBegin, hidle, htail]

theorem State.mayBegin_of_not_idle (hbusy : (s.core k).running ≠ .idle) {st : RouteStep}
    (hdrains : (∀ l, st ≠ .layer l) ∨ s.onlyDrains k = none) : s.mayBegin k st = false := by
  cases st with
  | layer l =>
    have hnone : s.onlyDrains k = none := hdrains.resolve_left fun h => h l rfl
    simp [State.mayBegin, hbusy, hnone]
  | _ => simp [State.mayBegin, hbusy]

theorem State.tail_of_mayBegin {st : RouteStep} (hmay : s.mayBegin k st = true) (hother : ∀ l, st ≠ .layer l) :
    (s.core k).tail = none := by
  cases st with
  | layer l => exact absurd rfl (hother l)
  | _ => simpa [State.mayBegin] using And.right (by simpa [State.mayBegin] using hmay)

/-- A step that only drains has no step before it that drains, is not done, closes its group, and every array has
spent its share. -/
theorem State.onlyDrains_eq_some {e : LayerExec} (h : s.onlyDrains k = some e) : (s.core k).tail = none ∧
    e.finished = false ∧ e.layer.leavesOpen = false ∧ ∀ a, a < 96 → e.spent (s.core k) a = true := by
  unfold State.onlyDrains at h
  split at h
  · cases h
  · simp only [Option.ite_none_left_eq_some, Bool.or_eq_true, not_or, Bool.not_eq_true, Bool.not_eq_true',
      Bool.not_eq_false, List.all_eq_true, List.mem_range] at h
    obtain ⟨⟨⟨⟨⟨⟨⟨⟨⟨htail, _⟩, hfinished⟩, _⟩, hopen⟩, _⟩, _⟩, _⟩, hspent⟩, he⟩ := h
    cases he
    exact ⟨by simpa using htail, hfinished, hopen, by simpa using hspent⟩

section
variable {rid i : Nat} {r : Run} {st : RouteStep}

theorem routeStepDispatch_held (hworks : s.working = true) (hk : k < 6) (hc : s.candidate k = some (rid, r, i, st))
    (hheld : s.mayBegin k st = false ∨ (st.counts = true ∧ s.slotTime < 200000)) :
    exec (.routeStepDispatch k) s = .next s := by
  have hstop : (!s.mayBegin k st || (st.counts && decide (s.slotTime < 200000))) = true := by
    rcases hheld with h | ⟨h, hslot⟩
    · simp [h]
    · simp [h, hslot]
  show execRouteStepDispatch k s = _
  rw [execRouteStepDispatch, decide_eq_true hk, checked_true, hworks, onlyIf_true, hc, withSome_some]
  exact congrArg _ (if_pos hstop)

theorem routeStepDispatch_started (hworks : s.working = true) (hk : k < 6) (hc : s.candidate k = some (rid, r, i, st))
    (hstarted : r.started = true) (hmay : s.mayBegin k st = true) (hslot : st.counts = false ∨ 200000 ≤ s.slotTime) :
    exec (.routeStepDispatch k) s = .next (s.setCore k ((s.core k).readyFor rid i (s.onlyDrains k))) := by
  have hgo : ¬(!s.mayBegin k st || (st.counts && decide (s.slotTime < 200000))) = true := by
    rcases hslot with h | h
    · simp [hmay, h]
    · simp [hmay, Nat.not_lt.mpr h]
  show execRouteStepDispatch k s = _
  rw [execRouteStepDispatch, decide_eq_true hk, checked_true, hworks, onlyIf_true, hc, withSome_some]
  exact congrArg _ ((if_neg hgo).trans (if_pos hstarted))

theorem routeStepDispatch_none (hworks : s.working = true) (hk : k < 6) (hc : s.candidate k = none) :
    exec (.routeStepDispatch k) s = .next s := by
  show execRouteStepDispatch k s = _
  rw [execRouteStepDispatch, decide_eq_true hk, checked_true, hworks, onlyIf_true, hc, withSome_none]

end

end

/-- Settles O23, by the rows of a stream's frames and the conditions of dispatch. -/
theorem framesReleaseAndCoresStep : Obligations.FramesReleaseAndCoresStep := by
  refine ⟨fun s n x hworks hn hx => ⟨fun a sub rest r ha hr hclosing => ⟨fun hdue => ⟨?_, ?_⟩, fun hsoon => ?_⟩,
      fun b hb hlate harrivals hincoming hpacket hclosing hpolicy =>
        beatMissed_eq hworks hn hx hb hlate harrivals hincoming hpacket hclosing hpolicy,
      beatMissed_policy_zero hworks hn hx,
      fun rid r no rel d hruns hserves hhanded => ⟨fun hlate => ?_, fun hmet => ?_⟩, fun no d r => ⟨rfl, rfl⟩⟩,
    fun s k hworks hk => ⟨fun st => ⟨fun hidle htail => State.mayBegin_of_idle hidle htail st,
        fun hbusy => State.mayBegin_of_not_idle hbusy, State.tail_of_mayBegin⟩,
      fun e => State.onlyDrains_eq_some,
      fun rid r i st hc => ⟨fun hmay => routeStepDispatch_held hworks hk hc (.inl hmay),
        fun hcounts hslot => routeStepDispatch_held hworks hk hc (.inr ⟨hcounts, hslot⟩),
        fun hstarted hmay hslot => ⟨routeStepDispatch_started hworks hk hc hstarted hmay hslot, rfl⟩⟩,
      routeStepDispatch_none hworks hk⟩⟩
  · rw [frameRelease_eq hworks hn hx ha hr hclosing]
    exact congrArg _ (if_neg (Nat.not_lt.mpr hdue))
  · exact s.releaseFrame_run n x r a sub
  · rw [frameRelease_eq hworks hn hx ha hr hclosing]
    exact congrArg _ (if_pos hsoon)
  · rw [deadlineMiss_eq hworks hn hx hruns hserves hhanded, if_neg (Nat.not_le.mpr hlate)]
  · rw [deadlineMiss_eq hworks hn hx hruns hserves hhanded, if_pos hmet]

end Sys2Proof.Machine
end

