-- ==== Sys2Proof/Proofs/ControlSteps.lean ====
section
/-! The control steps of a route (R199, R203 to R205, R246). -/

namespace Sys2Proof.Machine

/-- The row of a control step that its core has dispatched. -/
theorem controlRow_eq {s : State} {k rid i : Nat} {st : RouteStep} (hworks : s.working = true) (hk : k < 6)
    (hstep : s.readyStep k = some (rid, i, st)) (f : Nat → Nat → RouteStep → State → State) :
    controlRow k s f = .next (f rid i st s) := by
  rw [controlRow, decide_eq_true hk, checked_true, hworks, onlyIf_true, hstep, withSome_some]

/-- A RELEASE frees at most what has been delivered (R203). -/
theorem Letterbox.release_counts {x : Letterbox} {n : Nat} (hslots : x.shape.slotSize ≠ 0) (hwraps : x.consumed < 2 ^ 32)
    (hle : x.consumed ≤ x.delivery) (hdelivery : x.delivery < 2 ^ 32) :
    (x.release n).consumed = min (x.consumed + n) x.delivery % 2 ^ 32 ∧ (x.release n).delivery = x.delivery := by
  rw [Letterbox.release, if_neg hslots]
  refine ⟨?_, rfl⟩
  show (x.consumed + min n ((x.delivery + 2 ^ 32 - x.consumed) % 2 ^ 32)) % 2 ^ 32 = _
  omega

section
variable {s : State} {k rid i : Nat}

theorem waitBox_eq (hworks : s.working = true) (hk : k < 6) {c b v : Nat} (hstep : s.readyStep k = some (rid, i, .wait c b v))
    (hlease : s.boxRevoked k b = none) : exec (.waitBox k) s = .next (if s.reached k b v then s.stepEnds rid i [k]
      else s.setCore k { s.core k with running := .stalled rid i }) := by
  show execWaitBox k s = _
  rw [execWaitBox, controlRow_eq hworks hk hstep]
  simp only [hlease]
  rfl

theorem waitBox_revoked (hworks : s.working = true) (hk : k < 6) {c b v : Nat}
    (hstep : s.readyStep k = some (rid, i, .wait c b v)) {e : Status} (hlease : s.boxRevoked k b = some e) :
    exec (.waitBox k) s = .next (s.failRun rid e) := by
  show execWaitBox k s = _
  rw [execWaitBox, controlRow_eq hworks hk hstep]
  simp only [hlease]

theorem orderStep_eq (hworks : s.working = true) (hk : k < 6) {c n : Nat} (hstep : s.readyStep k = some (rid, i, .order c n))
    {r : Run} (hr : s.run rid = some r) :
    exec (.orderStep k) s = .next (if n ∈ r.done then s.stepEnds rid i [k] else s) := by
  show execOrderStep k s = _
  rw [execOrderStep, controlRow_eq hworks hk hstep]
  simp only [hr, Option.any_some, List.contains_iff_mem]

theorem waitSatisfied_eq (hworks : s.working = true) (hk : k < 6) {c b v : Nat} {r : Run}
    (hrunning : (s.core k).running = .stalled rid i) (hr : s.run rid = some r) (hstep : r.steps[i]? = some (.wait c b v))
    (hreached : s.reached k b v = true) : exec (.waitSatisfied k) s = .next
      ((({ s with freeCount := s.freeCount + 1 }).countCore k k 5 (Config.stallSteps s.freeCount)).stepEnds rid i [k]) := by
  show execWaitSatisfied k s = _
  rw [execWaitSatisfied, decide_eq_true hk, checked_true, hworks, onlyIf_true, hrunning]
  simp only [hr, Option.bind_some, hstep, withSome_some, hreached, if_true]
  rfl

end

/-- Settles O24, by the row of each control step. -/
theorem controlStepsActOnLetterboxes : Obligations.ControlStepsActOnLetterboxes := by
  refine fun s k rid i st hworks hk => ⟨fun hstep => ⟨?_, ?_, ?_, ?_, ?_, ?_⟩,
    fun r c b v => waitSatisfied_eq hworks hk, fun x n => Letterbox.release_counts⟩
  · rintro c b rfl
    show execOpenBox k s = _
    exact controlRow_eq hworks hk hstep _
  · rintro c b rfl
    show execCloseBox k s = _
    exact controlRow_eq hworks hk hstep _
  · rintro c b v rfl hlease
    rw [waitBox_eq hworks hk hstep hlease]
    exact ⟨fun hreached => by rw [if_pos hreached], fun hshort => by rw [hshort]; rfl⟩
  · rintro c b v e rfl hlease
    exact waitBox_revoked hworks hk hstep hlease
  · rintro c n r rfl hr
    rw [orderStep_eq hworks hk hstep hr]
    exact ⟨fun hdone => by rw [if_pos hdone], fun hopen => by rw [if_neg hopen]⟩
  · rintro c b n rfl
    show execReleaseSlots k s = _
    exact controlRow_eq hworks hk hstep _

end Sys2Proof.Machine
end


-- ==== Sys2Proof/Proofs/KeySessions.lean ====
section
/-! ATTEST, SET_CONFIDENTIAL, key sessions and unlock tokens (R333 to R335, R404 to R410, R415, R461). -/

namespace Sys2Proof.Machine

/-- Partitions but the one changed stay as they were. -/
theorem State.part_setPart_ne (s : State) {p q : Nat} (x : Partition) (h : q ≠ p) : (s.setPart p x).part q = s.part q :=
  Tab.getD_put_ne _ _ _ h

@[simp] theorem State.part_count (s : State) (g i n p : Nat) : (s.count g i n).part p = s.part p :=
  State.part_congr (State.count_parts ..) p

@[simp] theorem State.part_complete (s : State) (id v n p : Nat) : (s.complete id v n).part p = s.part p :=
  State.part_congr ((State.complete_frame s id v n).only.parts (by decide)) p

/-! ### Perturbation cleared -/

theorem State.part_clearPerturb (s : State) (p g i q : Nat) : (s.clearPerturb p g i).part q =
    if q = p then { s.part p with perturb := [], perturbUntil := 0 } else s.part q := by
  have hpart : (s.onPart p fun x => { x with perturb := [], perturbUntil := 0 }).part q =
      if q = p then { s.part p with perturb := [], perturbUntil := 0 } else s.part q := by
    split
    · next h => rw [h, State.part_onPart]
    · next h => exact State.part_setPart_ne s _ h
  unfold State.clearPerturb
  extract_lets had t
  split
  · rw [State.part_count, hpart]
  · exact hpart

theorem State.now_clearPerturb (s : State) (p g i : Nat) : (s.clearPerturb p g i).now = s.now :=
  congrArg Chron.ns ((State.clearPerturb_frame s p g i).only.time (by decide))

/-- The perturbation of a partition cleared where its time has come (R461). -/
def State.expirePerturb (s : State) (p : Nat) : State :=
  if !(s.part p).perturb.isEmpty && (s.part p).perturbUntil ≤ s.now then s.clearPerturb p 56 0 else s

theorem State.expirePerturb_frame (s : State) (p : Nat) :
    s.Frame (fields [.parts, .tally, .flashTally]) (s.expirePerturb p) := by
  unfold State.expirePerturb
  split
  · exact State.clearPerturb_frame s p 56 0
  · exact Frame.refl

theorem State.expirePerturbs_frame (s : State) (ps : List Nat) :
    s.Frame (fields [.parts, .tally, .flashTally]) (ps.foldl State.expirePerturb s) :=
  Frame.foldl (fun p t ht => ht.trans (t.expirePerturb_frame p)) Frame.refl

theorem State.now_expirePerturb (s : State) (p : Nat) : (s.expirePerturb p).now = s.now :=
  congrArg Chron.ns ((s.expirePerturb_frame p).only.time (by decide))

theorem State.part_expirePerturb_ne (s : State) {p q : Nat} (h : q ≠ p) : (s.expirePerturb p).part q = s.part q := by
  unfold State.expirePerturb
  split
  · rw [State.part_clearPerturb, if_neg h]
  · rfl

theorem State.part_expirePerturb_self (s : State) (p : Nat) : (s.expirePerturb p).part p =
    if (!(s.part p).perturb.isEmpty && decide ((s.part p).perturbUntil ≤ s.now)) = true then
      { s.part p with perturb := [], perturbUntil := 0 } else s.part p := by
  unfold State.expirePerturb
  split
  · rw [State.part_clearPerturb, if_pos rfl]
  · rfl

theorem State.part_expirePerturbs_of_not_mem {p : Nat} {ps : List Nat} (h : p ∉ ps) (s : State) :
    (ps.foldl State.expirePerturb s).part p = s.part p := by
  induction ps generalizing s with
  | nil => rfl
  | cons q ps ih =>
    obtain ⟨hq, hps⟩ := not_or.mp (mt List.mem_cons.mpr h)
    rw [List.foldl_cons, ih hps, State.part_expirePerturb_ne s hq]

/-- Of a list without repetition each partition's time is tested once. -/
theorem State.part_expirePerturbs {p : Nat} {ps : List Nat} (h : p ∈ ps) (hps : ps.Nodup) (s : State) :
    (ps.foldl State.expirePerturb s).part p = (s.expirePerturb p).part p := by
  induction ps generalizing s with
  | nil => cases h
  | cons q ps ih =>
    obtain ⟨hq, hps⟩ := List.nodup_cons.mp hps
    rw [List.foldl_cons]
    by_cases hpq : p = q
    · subst hpq
      exact State.part_expirePerturbs_of_not_mem hq _
    · rw [ih ((List.mem_cons.mp h).resolve_left hpq) hps, State.part_expirePerturb_self, State.part_expirePerturb_self,
        State.part_expirePerturb_ne s hpq, State.now_expirePerturb]

/-! ### Attestation and confidential partitions -/

section
variable {s : State} {id : Nat} {c : Cmd}

theorem attest_reports (h : s.Starts id 0x0601 c) {th : Bytes} (hkey : s.binding c.part (leAt c.params 40 2) = some th)
    (hout : resultAddr 0x0601 c.params % 64 = 0) :
    exec (.attest id) s = .next (((s.started id c).result id (resultAddr 0x0601 c.params)
      ((s.started id c).attestReport c.part (leAt c.params 40 2) (slice c.params 0 32) th)).complete id 5741) := by
  have hkey' : (s.started id c).binding c.part (leAt c.params 40 2) = some th := hkey
  refine (State.opcodeRow_eq h _).trans (congrArg _ ?_)
  simp only [hkey', hout, ne_eq, not_true_eq_false, if_false]

theorem attest_refused (h : s.Starts id 0x0601 c)
    (hbad : s.binding c.part (leAt c.params 40 2) = none ∨ resultAddr 0x0601 c.params % 64 ≠ 0) :
    exec (.attest id) s = .next ((s.started id c).fail id .badParam) := by
  have hbad' : (s.started id c).binding c.part (leAt c.params 40 2) = none ∨ resultAddr 0x0601 c.params % 64 ≠ 0 := hbad
  refine (State.opcodeRow_eq h _).trans (congrArg _ ?_)
  simp only
  split
  · rfl
  · next th hth => exact if_pos (hbad'.resolve_left (by simp [hth]))

theorem setConfidential_eq (h : s.Starts id 0x0603 c) : exec (.setConfidential id) s = .next
    (if !bitOf (leAt c.params 0 1) 0 then (s.started id c).fail id .badParam
      else if !(s.held c.part).isEmpty || (s.routes.any fun e => e.2.partition == c.part) ||
          (s.streams.any fun e => e.2.partition == c.part) then (s.started id c).fail id .confidentialDenied
      else (((s.started id c).clearPerturb c.part 55 7).onPart c.part fun x => { x with conf := true, keys := [] }).complete id) :=
  State.opcodeRow_eq h _

/-- The state in which a partition has become confidential. -/
def State.madeConfidential (s : State) (id p : Nat) : State :=
  ((s.clearPerturb p 55 7).onPart p fun x => { x with conf := true, keys := [] }).complete id

theorem State.part_madeConfidential (s : State) (id p : Nat) : (s.madeConfidential id p).part p =
    { s.part p with perturb := [], perturbUntil := 0, conf := true, keys := [] } := by
  rw [State.madeConfidential, State.part_complete, State.part_onPart, State.part_clearPerturb, if_pos rfl]

theorem State.part_madeConfidential_ne (s : State) (id : Nat) {p q : Nat} (h : q ≠ p) :
    (s.madeConfidential id p).part q = s.part q := by
  rw [State.madeConfidential, State.part_complete]
  exact (State.part_setPart_ne _ _ h).trans ((State.part_clearPerturb ..).trans (if_neg h))

end

/-! ### Key sessions -/

section
variable {s : State} {id : Nat} {c : Cmd} {msg : KeyMessage}

/-- The message of an OPEN_KEY_SESSION: the bytes its length names. -/
def namedMessage (msg : KeyMessage) (c : Cmd) : KeyMessage := { msg with bytes := slice msg.bytes 0 (leAt c.params 8 4) }

theorem openKeySession_eq (h : s.Starts id 0x0602 c) (hin : leAt c.params 0 8 % 64 = 0)
    (hout : resultAddr 0x0602 c.params % 64 = 0) (hlen : leAt c.params 8 4 ≤ 8192) :
    exec (.openKeySession id msg) s = .next (if leAt c.params 14 2 = 0 then
        (s.started id c).hello id c.part (leAt c.params 12 1) (resultAddr 0x0602 c.params) (namedMessage msg c)
      else (s.started id c).confirm id c.part (leAt c.params 12 1) (leAt c.params 14 2) (resultAddr 0x0602 c.params)
        (namedMessage msg c)) :=
  (State.opcodeRow_eq h _).trans (congrArg _ (if_neg (by simp [hin, hout, Nat.not_lt.mpr hlen])))

end

section
variable {s : State} {id p purpose out : Nat} {m : KeyMessage}

/-- What a first message must be, whoever signed it (R407). -/
structure State.HelloFits (s : State) (p purpose : Nat) (m : KeyMessage) : Prop where
  form : keyMessageOk m.bytes 1 purpose 6613 = true
  purposes : purpose ≤ 2
  room : (s.part p).keys.length < 64
  release : purpose = 2 → (s.part p).conf = true

theorem State.HelloFits.not_refused (h : s.HelloFits p purpose m) : ¬((!keyMessageOk m.bytes 1 purpose 6613) = true ∨
    2 < purpose ∨ 64 ≤ (s.part p).keys.length ∨ (purpose = 2 ∧ (!(s.part p).conf) = true)) := by
  have := h.release
  rintro (hform | hpurpose | hroom | ⟨htwo, hconf⟩)
  · simp [h.form] at hform
  · exact absurd h.purposes (Nat.not_le.mpr hpurpose)
  · exact absurd h.room (Nat.not_lt.mpr hroom)
  · simp [h.release htwo] at hconf

theorem State.hello_unsigned (h : s.HelloFits p purpose m) (hsig : m.sigOk = false) :
    s.hello id p purpose out m = (s.count 49 0).fail id .signatureFail :=
  (if_neg h.not_refused).trans (if_pos (by simp [hsig]))

/-- A signed first message to a partition that is not confidential. -/
theorem State.hello_signed (h : s.HelloFits p purpose m) (hsig : m.sigOk = true) (hconf : (s.part p).conf = false) :
    s.hello id p purpose out m = if m.keysOk then s.respond id p purpose out m.bytes else s.fail id .badParam := by
  refine (if_neg h.not_refused).trans ((if_neg (by simp [hsig])).trans ?_)
  cases hkeys : m.keysOk <;> simp [hconf]

/-- A confirmation that names its pending session as it was opened: its code decides. -/
theorem State.confirm_fits {ref : Nat} {k : KeySession} (hk : Tab.find ref (s.part p).keys = some k)
    (hpending : k.established = false) (hform : keyMessageOk m.bytes 3 k.purpose 56 = true)
    (hsession : leAt m.bytes 7 1 = ref) (hpurpose : purpose = k.purpose) :
    s.confirm id p purpose ref out m = if m.macOk then
        (((s.setPart p { s.part p with keys := Tab.put ref { k with established := true, since := s.now } (s.part p).keys }).countFor
          p 50 (p - 1)).result id out (finishedOf k.purpose ref (k.keys.getD 1 []) k.th)).complete id ref
      else ((s.setPart p { s.part p with keys := Tab.erase ref (s.part p).keys }).count 49 1).fail id .authFail := by
  rw [State.confirm, hk]
  refine (if_neg (by simp [hpending, hform, hsession, hpurpose])).trans ?_
  cases m.macOk
  · exact if_pos rfl
  · exact if_neg Bool.false_ne_true

end

/-! ### The timers -/

section
variable {s : State} {p n : Nat} {k : KeySession}

theorem keyTimeout_due (h1 : 1 ≤ p) (h6 : p ≤ 6) (hk : Tab.find n (s.part p).keys = some k) {due : KeySession → Bool}
    (hdue : due k = true) (counted : Bool) : keyTimeout p n s due counted =
      .next (if counted then (s.setPart p { s.part p with keys := Tab.erase n (s.part p).keys }).count 49 2
        else s.setPart p { s.part p with keys := Tab.erase n (s.part p).keys }) := by
  rw [keyTimeout, decide_eq_true h1, decide_eq_true h6, Bool.and_self, checked_true, hk, withSome_some, hdue]
  rfl

end

theorem State.tokenInForce_congr {s t : State} (hsecurity : t.security = s.security) (hnow : t.now = s.now) :
    t.tokenInForce = s.tokenInForce := by
  rw [State.tokenInForce, State.tokenInForce, hsecurity, hnow]

/-- The state in which the perturbations and the token whose time has come are gone (R415, R461). -/
def State.expired (s : State) (ps : List Nat) : State :=
  let t := ps.foldl State.expirePerturb s
  { t with security := { t.security with token := t.tokenInForce } }

theorem tokenExpiry_eq (s : State) : exec .tokenExpiry s = .next (s.expired [1, 2, 3, 4, 5, 6]) := by
  show execTokenExpiry s = _
  unfold execTokenExpiry
  generalize [1, 2, 3, 4, 5, 6] = ps
  rfl

theorem State.expired_token (s : State) (ps : List Nat) : (s.expired ps).security.token = s.tokenInForce := by
  have hframe := (s.expirePerturbs_frame ps).only
  exact State.tokenInForce_congr (hframe.security (by decide)) (congrArg Chron.ns (hframe.time (by decide)))

theorem State.expired_part (s : State) {p : Nat} {ps : List Nat} (hp : p ∈ ps) (hps : ps.Nodup) :
    (s.expired ps).part p = if (!(s.part p).perturb.isEmpty && decide ((s.part p).perturbUntil ≤ s.now)) = true then
      { s.part p with perturb := [], perturbUntil := 0 } else s.part p :=
  (State.part_expirePerturbs hp hps s).trans (State.part_expirePerturb_self s p)

theorem setConfidential_cases (s : State) (id : Nat) (c : Cmd) (h : s.Starts id 0x0603 c) :
    (bitOf (leAt c.params 0 1) 0 = false →
      exec (.setConfidential id) s = .next ((s.started id c).fail id .badParam)) ∧
    (bitOf (leAt c.params 0 1) 0 = true →
      s.held c.part ≠ [] ∨ (∃ e ∈ s.routes, e.2.partition = c.part) ∨ (∃ e ∈ s.streams, e.2.partition = c.part) →
      exec (.setConfidential id) s = .next ((s.started id c).fail id .confidentialDenied)) ∧
    (bitOf (leAt c.params 0 1) 0 = true → s.held c.part = [] → (∀ e ∈ s.routes, e.2.partition ≠ c.part) →
      (∀ e ∈ s.streams, e.2.partition ≠ c.part) →
      exec (.setConfidential id) s = .next ((s.started id c).madeConfidential id c.part)) := by
  refine ⟨fun hclear => ?_, fun hset hused => ?_, fun hset hheld hroutes hstreams => ?_⟩
  · rw [setConfidential_eq h, hclear]
    rfl
  · have hstop : (!(s.held c.part).isEmpty || (s.routes.any fun e => e.2.partition == c.part) ||
        (s.streams.any fun e => e.2.partition == c.part)) = true := by
      simp only [Bool.or_eq_true, List.any_eq_true, beq_iff_eq, or_assoc]
      exact hused.imp_left fun hheld => by simpa using hheld
    rw [setConfidential_eq h, hset, if_pos hstop]
    rfl
  · have hgo : ¬(!(s.held c.part).isEmpty || (s.routes.any fun e => e.2.partition == c.part) ||
        (s.streams.any fun e => e.2.partition == c.part)) = true := by
      simp only [hheld, List.isEmpty_nil, Bool.not_true, Bool.false_or, Bool.or_eq_true, List.any_eq_true, beq_iff_eq, not_or]
      exact ⟨fun ⟨e, he, hp⟩ => hroutes e he hp, fun ⟨e, he, hp⟩ => hstreams e he hp⟩
    rw [setConfidential_eq h, hset, if_neg hgo]
    rfl

/-- Settles O25, by the lemmas on each command and each timer. -/
theorem attestAndKeySessionsTakeEffect : Obligations.AttestAndKeySessionsTakeEffect := by
  refine ⟨fun s id c => ⟨fun h => ⟨fun th => attest_reports h, attest_refused h⟩, fun h => ?_⟩,
    fun s id c msg h hin hout hlen => ?_, fun s p n h1 h6 => ⟨fun k hk hpending hlate => ?_,
      fun k hk hopen hunused hlate => ?_, ?_⟩⟩
  · obtain ⟨hclear, hused, hfree⟩ := setConfidential_cases s id c h
    refine ⟨hclear, hused, fun hset hheld hroutes hstreams =>
      ⟨_, hfree hset hheld hroutes hstreams, ?_, ?_, ?_, ?_, fun p hp => State.part_madeConfidential_ne _ id hp⟩⟩
    · rw [State.isConf, State.part_madeConfidential]
    · rw [State.part_madeConfidential]
    · rw [State.part_madeConfidential]
    · rw [State.part_madeConfidential]
      rfl
  · refine ⟨fun href hform hpurposes hroom hrelease => ?_, fun k href hk hpending hform hsession hpurpose => ?_⟩
    · have hfits : (s.started id c).HelloFits c.part (leAt c.params 12 1) (namedMessage msg c) :=
        ⟨hform, hpurposes, hroom, hrelease⟩
      rw [openKeySession_eq h hin hout hlen, if_pos href]
      refine ⟨fun hsig => congrArg _ (State.hello_unsigned hfits hsig), fun hsig hconf hkeys => congrArg _ ?_,
        fun hsig hconf hkeys => congrArg _ ?_⟩
      · exact (State.hello_signed hfits hsig hconf).trans (if_neg (Bool.eq_false_iff.mp hkeys))
      · exact (State.hello_signed hfits hsig hconf).trans (if_pos hkeys)
    · have hconfirm := State.confirm_fits (s := s.started id c) (id := id) (out := resultAddr 0x0602 c.params)
        (m := namedMessage msg c) hk hpending hform hsession hpurpose
      rw [openKeySession_eq h hin hout hlen, if_neg href, hconfirm]
      exact ⟨fun hmac => congrArg _ (if_neg (Bool.eq_false_iff.mp hmac)), fun hmac => congrArg _ (if_pos hmac)⟩
  · show execKeySessionPendingTimeout p n s = _
    rw [execKeySessionPendingTimeout, keyTimeout_due h1 h6 hk (by rw [hpending, decide_eq_true hlate]; rfl) true, if_pos rfl]
  · show execKeySessionIdleTimeout p n s = _
    rw [execKeySessionIdleTimeout, keyTimeout_due h1 h6 hk (by rw [hopen, hunused, decide_eq_true hlate]; rfl) false,
      if_neg Bool.false_ne_true]
  · have htoken := s.expired_token [1, 2, 3, 4, 5, 6]
    have hpart := s.expired_part (p := p) (ps := [1, 2, 3, 4, 5, 6])
      (by simp only [List.mem_cons, List.not_mem_nil, or_false]; omega) (by decide)
    refine ⟨s.expired [1, 2, 3, 4, 5, 6], tokenExpiry_eq s, fun tok htok hend => ?_, fun tok htok hlive => ?_,
      fun hset hend => ?_, fun hlive => ?_⟩
    · rw [htoken]
      simp [State.tokenInForce, htok, hend]
    · rw [htoken]
      simp [State.tokenInForce, htok, hlive]
    · rw [hpart, if_pos (by simp [hset, hend])]
    · rw [hpart, if_neg (by simp [hlive])]

end Sys2Proof.Machine
end


-- ==== Sys2Proof/Proofs/Halts.lean ====
section
/-! What a halt leaves in the fault record, and what a call for a VCORE change leaves (R264, R446). -/

namespace Sys2Proof.Machine

/-- Of the health record a halt that is shown changes the events alone. -/
theorem State.showHalt_health (s : State) : ∃ e, s.showHalt.health = { s.health with events := e } := by
  unfold State.showHalt
  extract_lets shown fs signalled told idled announced
  have htold : s.Frame (fields [.outbox, .fns]) told :=
    Frame.trans (Frame.foldl (fun f t ht => ht.trans (State.signal_frame ..)) ((State.emit_frame ..).mono (by decide)))
      ((State.ibi_frame ..).mono (by decide))
  have hsent : told.Frame (fields [.outbox]) idled := by
    refine Frame.foldl (fun p t ht => ?_) Frame.refl
    split
    · exact ht.trans (State.sendIdle_frame ..)
    · exact ht
  have hidled : idled.health = s.health :=
    (hsent.only.health (by decide)).trans (htold.only.health (by decide))
  have hannounced : ∃ e, announced.health = { s.health with events := e } := by
    by_cases hup : (idled.ports.any fun e => e.2.ethernet && e.2.up) = true
    · exact ⟨idled.health.events ||| 2 ^ 6, by rw [show announced = idled.event 6 from if_pos hup, State.event, hidled]⟩
    · exact ⟨_, by rw [show announced = idled from if_neg hup, hidled]⟩
  clear_value announced
  exact hannounced

/-- A first cause opens the fault record, and of the health record changes besides only the events. -/
theorem State.fault_health_of_none {s : State} (hnone : s.health.halt = none) (h : Halt) :
    ∃ e, (s.fault h).health =
      { s.health with halt := some { h with mask := 2 ^ h.cause, time := s.now }, events := e } := by
  unfold State.fault
  split
  · next old hold => cases hnone.symm.trans hold
  · extract_lets health halted
    obtain ⟨e, he⟩ := halted.haltCommands.showHalt_health
    exact ⟨e, by rw [he, halted.haltCommands_frame.only.health (by decide)]⟩

theorem State.fault_halt_of_none {s : State} (hnone : s.health.halt = none) (h : Halt) :
    (s.fault h).health.halt = some { h with mask := 2 ^ h.cause, time := s.now } := by
  obtain ⟨e, he⟩ := s.fault_health_of_none hnone h
  rw [he]

theorem State.halt_none_of_working {s : State} (h : s.working = true) : s.health.halt = none :=
  Option.isNone_iff_eq_none.mp (by simp_all [State.working])

/-- VCORE stands at the goal called for, or moves to it. -/
theorem State.changeVcore_reaches (s : State) (goal : Nat) :
    ((s.changeVcore goal).power.change = none → (s.changeVcore goal).power.vcore = goal) ∧
    ∀ v, (s.changeVcore goal).power.change = some v → v.goal = goal := by
  unfold State.changeVcore
  cases hchange : s.power.change with
  | none =>
    dsimp only
    split
    · next hhere => exact ⟨fun _ => hhere, fun v hv => by cases hchange.symm.trans hv⟩
    · exact ⟨nofun, fun v hv => (Option.some.inj hv) ▸ rfl⟩
  | some w =>
    dsimp only
    split
    · next hhere => exact ⟨fun h => (by cases hchange.symm.trans h), fun v hv => (by cases hchange.symm.trans hv; exact hhere)⟩
    · exact ⟨nofun, fun v hv => (Option.some.inj hv) ▸ rfl⟩

theorem State.changeVcore_health (s : State) (goal : Nat) : (s.changeVcore goal).health = s.health :=
  (State.changeVcore_frame ..).only.health (by decide)

end Sys2Proof.Machine
end

