-- ==== Sys2Proof/Proofs/BuiltInTest.lean ====
section
/-! RUN_BIST and its phases, SET_PERTURB and the GO writes, READ_COUNTERS (R336 to R338, R455 to R462, R471, R473, R477). -/

namespace Sys2Proof.Machine

/-! ### Built-in test -/

section
variable {s : State} {id : Nat} {c : Cmd}

theorem runBist_waits (hbist : s.health.bist.isSome = true) : exec (.runBist id) s = .next s := by
  have hnone : s.health.bist.isNone = false := by rw [← Option.not_isSome, hbist]; rfl
  show execRunBist id s = _
  rw [execRunBist, hnone, onlyIf_false]

theorem runBist_eq (h : s.Starts id 0x0701 c) (hbist : s.health.bist = none) :
    exec (.runBist id) s = .next ((s.started id c).startBist id c) := by
  show execRunBist id s = _
  rw [execRunBist, hbist, Option.isNone_none, onlyIf_true, State.begin_eq h]

/-- What must hold for a built-in test to begin (R336). -/
def State.bistRefused (s : State) (parts : Nat) : Prop :=
  parts = 0 ∨ s.inCascade = true ∨ (s.parts.any fun e => e.2.enabled) = true

theorem State.startBist_refused (s : State) (h : s.bistRefused (leAt c.params 0 1)) :
    s.startBist id c = s.fail id .badParam := if_pos h

/-- A built-in test in its first phase: VCORE has been called for at setting 0. -/
theorem State.startBist_begins (s : State) (h : ¬ s.bistRefused (leAt c.params 0 1)) :
    ∃ b, (s.startBist id c).health = { s.health with bist := some b, logicDone := false, memoryDone := false } ∧
      b.cmd = id ∧ b.parts = leAt c.params 0 1 ∧
      b.phase = (if leAt c.params 0 1 % 2 ^ 7 = 0 then .memory else .logic) ∧
      ((s.startBist id c).power.change = none → (s.startBist id c).power.vcore = 0) ∧
      ∀ v, (s.startBist id c).power.change = some v → v.goal = 0 := by
  unfold State.startBist
  extract_lets parts here b health begun
  rw [if_neg (show ¬ (parts = 0 ∨ _) from h)]
  obtain ⟨hstands, hmoves⟩ := (begun.count 55 0).changeVcore_reaches 0
  exact ⟨b, State.changeVcore_health .., rfl, rfl, rfl, hstands, hmoves⟩

end

/-- A phase in its turn, with VCORE at setting 0. -/
theorem bistRow_eq {s : State} {b : Bist} {phase : BistPhase} (hw : s.working = true) (hv : s.power.change = none)
    (hb : s.health.bist = some b) (hphase : b.phase = phase) (f : Bist → State → State) :
    bistRow s phase f = .next (f b s) := by
  rw [bistRow, hw, hv, Option.isNone_none, Bool.and_self, onlyIf_true, hb, withSome_some, if_pos hphase]

/-- A mismatch halts the device with cause 2 and the test is over. -/
theorem State.bistFails_halts {s : State} (hnone : s.health.halt = none) :
    ∃ h, s.bistFails.health.halt = some h ∧ h.cause = 2 ∧ s.bistFails.health.bist = none := by
  unfold State.bistFails
  extract_lets bad cores core cmd health failed
  obtain ⟨e, he⟩ := (failed.count 55 1).fault_health_of_none hnone
    { faultOf 2 (failed.health.sigs.getD ((bad.head?).getD 0) 0) with core := core }
  exact ⟨_, by rw [he], rfl, by rw [he]; rfl⟩

section
variable {s : State} {b : Bist} (hw : s.working = true) (hv : s.power.change = none) (hb : s.health.bist = some b)
include hw hv hb

theorem bistLogic_passes (hphase : b.phase = .logic) (obs : List Nat)
    (hpass : (s.observe (bitsOf 7 b.parts) 0 obs).health.mismatch = 0) (hmemory : bitOf b.parts 7 = true) :
    let t := s.observe (bitsOf 7 b.parts) 0 obs
    exec (.bistLogicPhaseComplete obs) s = .next
      { ({ t with health := { t.health with logicDone := true } }.onCores (b.parts % 2 ^ 6) Core.clearLogic) with
        health := { t.health with logicDone := true, bist := some { b with phase := .memory } } } := by
  extract_lets t
  refine (bistRow_eq hw hv hb hphase _).trans
    (congrArg _ ((if_neg (not_not_intro hpass)).trans ((if_pos hmemory).trans ?_)))
  rw [(State.onCores_frame ..).only.health (by decide)]

theorem bistLogic_fails (hphase : b.phase = .logic) (obs : List Nat)
    (hfail : (s.observe (bitsOf 7 b.parts) 0 obs).health.mismatch ≠ 0) :
    ∃ u h, exec (.bistLogicPhaseComplete obs) s = .next u ∧ u.health.halt = some h ∧ h.cause = 2 ∧
      u.health.bist = none := by
  obtain ⟨h, hh, hcause, hbist⟩ := State.bistFails_halts
    (s := { s.observe (bitsOf 7 b.parts) 0 obs with
      health := { (s.observe (bitsOf 7 b.parts) 0 obs).health with logicDone := true } })
    (State.halt_none_of_working hw)
  exact ⟨_, h, (bistRow_eq hw hv hb hphase _).trans (congrArg _ (if_pos hfail)), hh, hcause, hbist⟩

theorem bistMemory_passes (hphase : b.phase = .memory) (obs : List Nat)
    (hpass : (s.observe [7, 8, 9, 10, 11, 12, 13] 7 obs).health.mismatch = 0) :
    let t := s.observe [7, 8, 9, 10, 11, 12, 13] 7 obs
    exec (.bistMemoryPhaseComplete obs) s = .next
      (({ t with health := { t.health with memoryDone := true } }.onCores 0x3F Core.clearMemory).bistEnds b) :=
  (bistRow_eq hw hv hb hphase _).trans (congrArg _ (if_neg (not_not_intro hpass)))

theorem bistMemory_fails (hphase : b.phase = .memory) (obs : List Nat)
    (hfail : (s.observe [7, 8, 9, 10, 11, 12, 13] 7 obs).health.mismatch ≠ 0) :
    ∃ u h, exec (.bistMemoryPhaseComplete obs) s = .next u ∧ u.health.halt = some h ∧ h.cause = 2 := by
  obtain ⟨h, hh, hcause, -⟩ := State.bistFails_halts
    (s := { s.observe [7, 8, 9, 10, 11, 12, 13] 7 obs with
      health := { (s.observe [7, 8, 9, 10, 11, 12, 13] 7 obs).health with memoryDone := true } })
    (State.halt_none_of_working hw)
  exact ⟨_, h, (bistRow_eq hw hv hb hphase _).trans (congrArg _ (if_pos hfail)), hh, hcause⟩

end

/-! ### Perturbation -/

section
variable {s : State} {id : Nat} {c : Cmd} {ok : Bool}

theorem setPerturb_eq (h : s.Starts id 0x0702 c) : exec (.setPerturb id ok) s = .next
    (if c.packet.byRef then (s.started id c).perturbCmd id c.part c.params ok
      else if c.packet.paramLen = 0 ∧ c.params.all (· == 0) then ((s.started id c).clearPerturb c.part 55 5).complete id
      else ((s.started id c).count 55 3).fail id .badParam) := State.opcodeRow_eq h _

theorem setPerturb_refused (h : s.Starts id 0x0702 c) (hinline : c.packet.byRef = false)
    (hbad : c.packet.paramLen ≠ 0 ∨ ∃ x ∈ c.params, x ≠ 0) :
    exec (.setPerturb id ok) s = .next (((s.started id c).count 55 3).fail id .badParam) := by
  have hnot : ¬ (c.packet.paramLen = 0 ∧ c.params.all (· == 0) = true) := by
    rintro ⟨hlen, hzero⟩
    obtain hlen' | ⟨x, hx, hx0⟩ := hbad
    · exact hlen' hlen
    · exact hx0 (by simpa using List.all_eq_true.mp hzero x hx)
  rw [setPerturb_eq h, hinline, if_neg Bool.false_ne_true, if_neg hnot]

end

section
variable {s : State} {k : Nat}

theorem perturbGoApply_eq (hw : s.working = true) (hk : k < 6) :
    exec (.perturbGoApply k) s = .next (s.goApply k) := by
  show execPerturbGoApply k s = _
  rw [execPerturbGoApply, decide_eq_true hk, hw, checked_true, onlyIf_true]

theorem perturbGoClear_eq (hw : s.working = true) (hk : k < 6) :
    exec (.perturbGoClear k) s = .next (s.goClear k) := by
  show execPerturbGoClear k s = _
  rw [execPerturbGoClear, decide_eq_true hk, hw, checked_true, onlyIf_true]

theorem State.goWrite_allowed {p : Nat} (hp : s.partitionOf k = some p) (hgo : s.goAllowed p = true)
    (f : Nat → State → State) :
    s.goWrite k f = if s.stagedOk k p then (f p s).goOutcome k true else s.goOutcome k false := by
  rw [State.goWrite, hp]
  dsimp only
  rw [hgo, Bool.true_and]

theorem State.goWrite_ignored (h : s.partitionOf k = none ∨ ∃ p, s.partitionOf k = some p ∧ s.goAllowed p = false)
    (f : Nat → State → State) : s.goWrite k f = s.goOutcome k false := by
  unfold State.goWrite
  obtain hp | ⟨p, hp, hgo⟩ := h
  · rw [hp]
  · rw [hp]
    dsimp only
    rw [hgo, Bool.false_and, if_neg Bool.false_ne_true]

theorem State.stagedOk_iff (p : Nat) : s.stagedOk k p = true ↔
    perturbClean (s.health.staged.getD k []) = true ∧ s.perturbOk p (s.stagedEntry k) = true ∧
      ((s.stagedEntry k).kind = 5 ∨ (s.stagedEntry k).unit = k) := by
  simp only [State.stagedOk, Bool.and_eq_true, Bool.or_eq_true, beq_iff_eq, and_assoc]

theorem State.stagedOk_eq_false {p : Nat} (h : perturbClean (s.health.staged.getD k []) = false ∨
    s.perturbOk p (s.stagedEntry k) = false ∨ (s.stagedEntry k).kind ≠ 5 ∧ (s.stagedEntry k).unit ≠ k) :
    s.stagedOk k p = false := by
  rw [← Bool.not_eq_true, State.stagedOk_iff]
  rintro ⟨hclean, hok, hunit⟩
  obtain h | h | ⟨h5, hk⟩ := h
  · cases hclean.symm.trans h
  · cases hok.symm.trans h
  · exact hunit.elim h5 hk

end

/-! ### Counters -/

theorem readCounters_eq {s : State} {id : Nat} {c : Cmd} (h : s.Starts id 0x0703 c) :
    let groups := leAt c.params 0 8
    let out := resultAddr 0x0703 c.params
    let clear := bitOf (leAt c.params 16 1) 0
    let m : Mirror := { groups := groups % 2 ^ 63, time := s.now, seq := ((s.fn c.fn).mirror.seq + 1) % 2 ^ 32,
                        cleared := clear, values := s.copyGroups (groups % 2 ^ 63) }
    let t := (s.started id c).setFn c.fn { s.fn c.fn with mirror := m }
    let u := if out = 0 then t else t.result id out (m.bytes ++ if bitOf groups 63 then t.extensions c.fn else [])
    exec (.readCounters id) s = .next
      (if field groups 62 57 ≠ 0 ∨ (bitOf groups 63 = true ∧ out = 0) ∨ out % 64 ≠ 0 ∨ (clear = true ∧ c.part ≠ 0) then
        (s.started id c).fail id .badParam
      else (if clear then u.clearGroups (groups % 2 ^ 63) else u).complete id) := State.opcodeRow_eq h _

/-- CLEAR restarts the counters of the groups selected, but those the boot flash keeps. -/
theorem State.clearGroups_counterValue (s : State) (groups g i : Nat) (hi : i < 8) :
    (s.clearGroups groups).counterValue g i =
      if 52 ≤ g ∧ g ≤ 54 then s.counterValue g i else if bitOf groups g then 0 else s.counterValue g i := by
  unfold State.counterValue
  split
  · rfl
  · have hgroup : (8 * g + i) / 8 = g := by omega
    rw [State.clearGroups, Tab.getD, Tab.find_filter_key (fun k => !bitOf groups (k / 8)), hgroup]
    cases bitOf groups g <;> rfl

/-! ### Settled -/

/-- Settles O26: each row as its guards say; a mismatch opens the fault record with cause 2. -/
theorem testPerturbationAndCountersTakeEffect : Obligations.TestPerturbationAndCountersTakeEffect := by
  refine ⟨fun s => ⟨fun id c h => ⟨runBist_waits, fun hb hbad => ?_, fun hb hparts hcascade hfns => ?_⟩,
      fun b obs hw hv hb hphase => ⟨bistLogic_passes hw hv hb hphase obs, bistLogic_fails hw hv hb hphase obs⟩,
      fun b obs hw hv hb hphase => ⟨bistMemory_passes hw hv hb hphase obs, bistMemory_fails hw hv hb hphase obs⟩⟩,
    ⟨fun s id c ok h => ⟨fun href => ?_, fun href hlen hzero => ?_, setPerturb_refused h⟩,
      fun s k hw hk => ⟨fun p hp hgo => ?_, fun hno => ?_⟩⟩,
    fun s id c h => ?_, fun s groups g i hi => ?_⟩
  · rw [runBist_eq h hb, State.startBist_refused]
    exact hbad.imp_right (Or.imp_right List.any_eq_true.mpr)
  · have hgood : ¬ (s.started id c).bistRefused (leAt c.params 0 1) := by
      rintro (hp | hc | hf)
      · exact hparts hp
      · cases hcascade.symm.trans hc
      · obtain ⟨e, he, hen⟩ := List.any_eq_true.mp hf
        cases (hfns e he).symm.trans hen
    obtain ⟨b, hhealth, hid, hbparts, hphase, hpower⟩ := (s.started id c).startBist_begins (id := id) hgood
    exact ⟨_, b, runBist_eq h hb, by rw [hhealth], hid, hbparts, hphase, by rw [hhealth], by rw [hhealth], hpower⟩
  · rw [setPerturb_eq h, if_pos href]
  · have hall : c.params.all (· == 0) = true := List.all_eq_true.mpr fun x hx => by simp [hzero x hx]
    rw [setPerturb_eq h, href, if_neg Bool.false_ne_true, if_pos ⟨hlen, hall⟩]
  · refine ⟨fun hclean hok hunit => ?_, fun hbad => ?_, fun hclean hok hunit => ?_, fun hbad => ?_⟩
    · rw [perturbGoApply_eq hw hk, State.goApply, State.goWrite_allowed hp hgo,
        if_pos ((State.stagedOk_iff p).mpr ⟨hclean, hok, hunit⟩)]
      rfl
    · rw [perturbGoApply_eq hw hk, State.goApply, State.goWrite_allowed hp hgo, State.stagedOk_eq_false hbad,
        if_neg Bool.false_ne_true]
    · rw [perturbGoClear_eq hw hk, State.goClear, State.goWrite_allowed hp hgo,
        if_pos ((State.stagedOk_iff p).mpr ⟨hclean, hok, hunit⟩)]
    · rw [perturbGoClear_eq hw hk, State.goClear, State.goWrite_allowed hp hgo, State.stagedOk_eq_false hbad,
        if_neg Bool.false_ne_true]
  · exact ⟨(perturbGoApply_eq hw hk).trans (congrArg _ (State.goWrite_ignored hno _)),
      (perturbGoClear_eq hw hk).trans (congrArg _ (State.goWrite_ignored hno _))⟩
  · intro groups out clear
    refine ⟨fun hbad => (readCounters_eq h).trans (congrArg _ (if_pos hbad)), ?_⟩
    intro m t
    have hgood : ∀ hres : field groups 62 57 = 0, ∀ hclear : clear = true → c.part = 0, ∀ halign : out % 64 = 0,
        ∀ hext : ¬ (bitOf groups 63 = true ∧ out = 0),
        ¬ (field groups 62 57 ≠ 0 ∨ (bitOf groups 63 = true ∧ out = 0) ∨ out % 64 ≠ 0 ∨ (clear = true ∧ c.part ≠ 0)) := by
      rintro hres hclear halign hext (h | h | h | ⟨h, hp⟩)
      · exact h hres
      · exact hext h
      · exact h halign
      · exact hp (hclear h)
    refine ⟨fun hres hout hext hclear => ?_, fun hres hout halign hclear => ?_⟩
    · refine (readCounters_eq h).trans (congrArg _ ((if_neg (hgood hres hclear (by rw [hout]) (by simp [hext]))).trans ?_))
      rw [if_pos hout]
    · intro u
      refine (readCounters_eq h).trans (congrArg _ ((if_neg (hgood hres hclear halign (by simp [hout]))).trans ?_))
      rw [if_neg hout]
  · rw [State.clearGroups_counterValue s groups g i hi]
    refine ⟨fun hg hsel => ?_, fun hg hsel => ?_, fun hlo hhi => if_pos ⟨hlo, hhi⟩⟩
    · rw [if_neg (by omega), hsel, if_pos rfl]
    · rw [if_neg (by omega), hsel, if_neg Bool.false_ne_true]

end Sys2Proof.Machine
end


-- ==== Sys2Proof/Proofs/Completions.lean ====
section
/-! Completions, coalescing windows, Bus Master Enable and MSI-X (R291, R293, R294, R296, R420). -/

namespace Sys2Proof.Machine

/-! ### MSI-X -/

theorem State.msix_sent (s : State) (f v : Nat) (hmask : bitOf (s.fn f).msix.mask v = false)
    (hmaster : (s.fn f).busMaster = true) :
    s.msix f v = s.emit (.msix f v (Tab.getD 0 (s.fn f).msix.addr v) (Tab.getD 0 (s.fn f).msix.data v)) := by
  simp [State.msix, hmask, hmaster]

theorem State.msix_pended (s : State) (f v : Nat)
    (hheld : bitOf (s.fn f).msix.mask v = true ∨ (s.fn f).busMaster = false) :
    s.msix f v = s.setFn f { s.fn f with msix := { (s.fn f).msix with pba := (s.fn f).msix.pba ||| 2 ^ v } } := by
  obtain h | h := hheld <;> simp [State.msix, h]

/-- What a message adds to the outbox: itself, or nothing. -/
theorem State.msix_outbox (s : State) (f v : Nat) : ∃ tail, (s.msix f v).outbox = s.outbox ++ tail := by
  unfold State.msix
  extract_lets x
  split
  · exact ⟨[], (List.append_nil _).symm⟩
  · exact ⟨_, rfl⟩

theorem bitOf_setBit_self (n v : Nat) : bitOf (n ||| 2 ^ v) v = true := by
  rw [bitOf_eq_testBit, Nat.testBit_or, Nat.testBit_two_pow_self, Bool.or_true]

theorem bitOf_setBit_ne (n : Nat) {v w : Nat} (h : w ≠ v) : bitOf (n ||| 2 ^ v) w = bitOf n w := by
  rw [bitOf_eq_testBit, bitOf_eq_testBit, Nat.testBit_or, Nat.testBit_two_pow_of_ne h.symm, Bool.or_false]

theorem State.coalesce_outbox (s : State) (f v : Nat) : ∃ tail, (s.coalesce f v).outbox = s.outbox ++ tail := by
  have hsent := State.msix_outbox (s.onFn f fun x =>
    { x with messages := (x.messages + 1) % 2 ^ 32, windows := Tab.erase v x.windows }) f v
  unfold State.coalesce
  extract_lets x
  split
  · exact hsent
  · split
    split
    · exact hsent
    · exact ⟨[], (List.append_nil _).symm⟩

/-! ### The completion of a command -/

/-- With no command for another member waiting, none is sent. -/
theorem State.relayDue_eq_self {u : State} (h : ∀ e ∈ u.cmds, u.toRelay e.2 = false) (n : Nat) : u.relayDue n = u := by
  cases n with
  | zero => rfl
  | succ n =>
    have hnone : (u.cmds.find? fun e => u.toRelay e.2 && u.mayStart e.2) = none :=
      List.find?_eq_none.mpr fun e he => by simp [h e he]
    rw [State.relayDue, hnone]

section
variable {s : State} {id : Nat} {c : Cmd}

theorem commandCompletion_eq (hc : s.cmd id = some c) : exec (.commandCompletion id) s =
    .next ((s.completeNext id c).relayDue (s.completeNext id c).cmds.length) := by
  show execCommandCompletion id s = _
  rw [execCommandCompletion, hc]
  rfl

/-- The command of its ring that ended first is the one completed: into the ring while Bus Master Enable is 1, or to the
master that relayed it. -/
theorem State.completeNext_first (hphase : c.phase = .ended)
    (hfirst : ∀ e ∈ s.cmds, e.2.sameRing c.fn c.relay = true → e.2.phase = .ended → c.ended ≤ e.2.ended) :
    (c.relay = none → s.completeNext id c = if (s.fn c.fn).busMaster then s.writeCompletion id c else s) ∧
    ∀ m n, c.relay = some (m, n) → s.completeNext id c = ({ s with cmds := Tab.erase id s.cmds }).send
      { Message.plain 2 s.cascade.device m (c.fn + n * 2 ^ 8)
          (completionEntry c 0 ++ c.result.elim [] (fun r => r.2)) with partition := c.packet.partition } := by
  have hall : (s.cmds.all fun e =>
      !(e.2.sameRing c.fn c.relay && e.2.phase == .ended) || decide (c.ended ≤ e.2.ended)) = true := by
    refine List.all_eq_true.mpr fun e he => ?_
    have hle := hfirst e he
    cases hring : e.2.sameRing c.fn c.relay
    · rfl
    · by_cases hended : e.2.phase = .ended
      · simp [hle hring hended]
      · simp [hended]
  unfold State.completeNext
  extract_lets first
  have hturn : ¬ (c.phase ≠ .ended ∨ (!first) = true) := by
    rw [show first = true from hall]
    simp [hphase]
  rw [if_neg hturn]
  exact ⟨fun h => by rw [h], fun m n h => by rw [h]⟩

theorem State.writeCompletion_plain (hresult : c.result = none) (hirq : c.packet.noIrq = true) :
    s.writeCompletion id c = { ((s.emit (.host c.fn ((s.ring c.fn).cqBase + 32 * (s.ring c.fn).cqTail)
        (completionEntry c (s.ring c.fn).phase))).onFn c.fn fun x => { x with
          completions := (x.completions + 1) % 2 ^ 32
          ring := { x.ring with
            cqTail := (x.ring.cqTail + 1) % 2 ^ x.ring.cqLog
            phase := if (x.ring.cqTail + 1) % 2 ^ x.ring.cqLog = 0 then 1 - x.ring.phase else x.ring.phase } }) with
      cmds := Tab.erase id s.cmds } := by
  simp only [State.writeCompletion, hresult, hirq, if_true]
  rfl

/-- The result block, the entry at the tail, and only then what signals it. -/
theorem State.writeCompletion_order (hcmds : Tab.rising s.cmds = true) : (s.writeCompletion id c).cmd id = none ∧ ∃ tail,
    (s.writeCompletion id c).outbox = s.outbox ++ (c.result.elim [] fun r => [.host c.fn r.1 r.2]) ++
      .host c.fn ((s.ring c.fn).cqBase + 32 * (s.ring c.fn).cqTail) (completionEntry c (s.ring c.fn).phase) :: tail ∧
    (c.packet.noIrq = true → tail = []) := by
  unfold State.writeCompletion
  extract_lets r blocked entered next counted removed
  have hblocked : blocked.outbox = s.outbox ++ (c.result.elim [] fun r => [.host c.fn r.1 r.2]) := by
    show (match c.result with | some (a, b) => s.emit (.host c.fn a b) | none => s).outbox = _
    cases c.result with
    | none => exact (List.append_nil _).symm
    | some p => rfl
  have hremoved : removed.outbox = s.outbox ++ (c.result.elim [] fun r => [.host c.fn r.1 r.2]) ++
      [.host c.fn (r.cqBase + 32 * r.cqTail) (completionEntry c r.phase)] := hblocked ▸ rfl
  have hkept : counted.cmds = s.cmds := by
    show blocked.cmds = s.cmds
    show (match c.result with | some (a, b) => s.emit (.host c.fn a b) | none => s).cmds = _
    cases c.result <;> rfl
  have hgone : removed.cmd id = none := by
    show Tab.find id (Tab.erase id counted.cmds) = none
    rw [hkept, Tab.find_erase_self hcmds]
  cases c.packet.noIrq with
  | true => exact ⟨hgone, [], hremoved, fun _ => rfl⟩
  | false =>
    obtain ⟨tail, htail⟩ := removed.coalesce_outbox c.fn c.packet.vector
    refine ⟨(State.cmd_congr ((State.coalesce_frame ..).only.cmds (by decide)) id).trans hgone, tail, ?_, nofun⟩
    refine htail.trans ?_
    rw [hremoved, List.append_assoc _ [_], List.singleton_append]

end

/-! ### Coalescing and Bus Master Enable -/

section
variable {s : State} {f v : Nat} (hf : f ≤ 6)
include hf

theorem coalesceWindowExpire_eq (hv : v ≤ 59) {n t : Nat} (hwindow : Tab.find v (s.fn f).windows = some (n, t)) :
    exec (.coalesceWindowExpire f v) s = .next (if t ≤ s.now then s.completionMsix f v else s) := by
  show execCoalesceWindowExpire f v s = _
  rw [execCoalesceWindowExpire, decide_eq_true hf, decide_eq_true hv, Bool.and_self, checked_true, hwindow, withSome_some]

theorem busMasterEnableChange_eq (on : Bool) : exec (.busMasterEnableChange f on) s = .next
    (if on then State.writeHeld f 256 ((s.setFn f { s.fn f with busMaster := on }).flushMsix f)
      else s.setFn f { s.fn f with busMaster := on }) := by
  show execBusMasterEnableChange f on s = _
  rw [execBusMasterEnableChange, decide_eq_true hf, checked_true]
  rfl

end

/-- Settles O30: the completion of the command that ended first, by its kind; windows, Bus Master Enable and MSI-X. -/
theorem completionsAreWrittenAndSignalled : Obligations.CompletionsAreWrittenAndSignalled := by
  refine ⟨fun s id c hinv hc hphase hfirst => ?_, fun s f v hf => ?_, fun s f v => ?_⟩
  · have hcmds : Tab.rising s.cmds = true := (State.cmdsWf_iff.mp hinv.2.1).1
    obtain ⟨hring, hrelayed⟩ := State.completeNext_first (id := id) hphase hfirst
    refine ⟨fun hrelay hmaster => ?_, fun u n h => State.relayDue_eq_self h n, fun hrelay hmaster hresult hirq => ?_,
      fun hrelay hmaster => ?_, fun m n hrelay => ?_⟩
    · rw [commandCompletion_eq hc, hring hrelay, hmaster, if_neg Bool.false_ne_true]
    · refine ⟨s.writeCompletion id c, ?_, State.writeCompletion_plain hresult hirq⟩
      rw [commandCompletion_eq hc, hring hrelay, if_pos hmaster]
    · obtain ⟨hgone, tail, hout, htail⟩ := State.writeCompletion_order (id := id) (c := c) hcmds
      refine ⟨s.writeCompletion id c, tail, ?_, hgone, hout, htail⟩
      rw [commandCompletion_eq hc, hring hrelay, if_pos hmaster]
    · refine ⟨s.completeNext id c, commandCompletion_eq hc, ?_, hrelayed m n hrelay⟩
      rw [hrelayed m n hrelay]
      exact (State.cmd_congr ((State.send_frame ..).only.cmds (by decide)) id).trans (Tab.find_erase_self hcmds)
  · refine ⟨fun n t hv hwindow => ⟨fun hdue => ?_, fun hearly => ?_⟩, busMasterEnableChange_eq hf false,
      busMasterEnableChange_eq hf true⟩
    · rw [coalesceWindowExpire_eq hf hv hwindow, if_pos hdue]
      rfl
    · rw [coalesceWindowExpire_eq hf hv hwindow, if_neg (Nat.not_le.mpr hearly)]
  · refine ⟨s.msix_sent f v, fun hheld => ?_⟩
    rw [s.msix_pended f v hheld, State.fn_setFn]
    exact ⟨rfl, bitOf_setBit_self .., fun w hw => bitOf_setBit_ne _ hw⟩

end Sys2Proof.Machine
end


-- ==== Sys2Proof/Proofs/ManagementActions.lean ====
section
/-! The actions of the management registers and the firmware update (R398, R403, R431 to R433, R478). -/

namespace Sys2Proof.Machine

section
variable {s : State}

/-- The only waiting action is taken off the list and carried out. -/
theorem State.takeAction_only {α : Type} {a : MgtAction} {x : α} {pick : MgtAction → Option α}
    (hactions : s.mgt.actions = [a]) (hpick : pick a = some x) (f : α → State → State) :
    s.takeAction pick f = f x { s with mgt := { s.mgt with actions := [] } } := by
  have hfound : (s.mgt.actions.findSome? fun a => (pick a).map fun x => (a, x)) = some (a, x) := by
    rw [hactions, List.findSome?_cons, hpick]
    rfl
  have hrest : s.mgt.actions.erase a = [] := by rw [hactions, List.erase_cons_head]
  unfold State.takeAction
  rw [hfound, ← hrest]

theorem actionRow_only {a : MgtAction} (hactions : s.mgt.actions = [a]) (f : State → State) :
    actionRow a s f = .next (f { s with mgt := { s.mgt with actions := [] } }) :=
  congrArg _ (State.takeAction_only hactions (if_pos rfl) _)

/-! ### Firmware -/

theorem fwStart_starts (h : s.mgt.actions = [.fwStart]) (h2 : s.mgt.fwStatus ≠ 2) (h3 : s.mgt.fwStatus ≠ 3) :
    exec .fwStart s = .next { s with mgt := { s.mgt with actions := [], fwStatus := 1, fwChunks := [] } } :=
  (actionRow_only h _).trans (congrArg _ (if_neg (not_or.mpr ⟨h2, h3⟩)))

theorem fwCommit_eq (h : s.mgt.actions = [.fwCommit]) (h2 : s.mgt.fwStatus ≠ 2) (h3 : s.mgt.fwStatus ≠ 3) :
    exec .fwCommit s = .next (if s.mgt.complete then { s with mgt := { s.mgt with actions := [], fwStatus := 2 } }
      else { s with mgt := { s.mgt with actions := [], fwStatus := 12 } }.count 49 6) :=
  (actionRow_only h _).trans (congrArg _ (if_neg (not_or.mpr ⟨h2, h3⟩)))

theorem fwAbort_aborts (h : s.mgt.actions = [.fwAbort]) (h3 : s.mgt.fwStatus ≠ 3) :
    exec .fwAbort s = .next { s with mgt := { s.mgt with actions := [], fwStatus := 0, fwChunks := [] } } :=
  (actionRow_only h _).trans (congrArg _ (if_neg h3))

/-- A change of the slot that does not run. -/
theorem Flash.running_setOther (f : Flash) (i : Option FwImage) : (f.setOther i).running = f.running := by
  cases h : f.runningB <;> simp [Flash.setOther, Flash.running, h]

theorem Flash.other_setOther (f : Flash) (i : Option FwImage) :
    (if f.runningB then (f.setOther i).slotA else (f.setOther i).slotB) = i := by
  cases h : f.runningB <;> simp [Flash.setOther, h]

theorem fwCheckComplete_eq (hs : s.standby = true) (h2 : s.mgt.fwStatus = 2) (v : FwVerdict) :
    exec (.fwCheckComplete v) s = .next (if FwVerdict.status v s.flash.rollback ≠ 3 then
        (s.fwState (FwVerdict.status v s.flash.rollback) false).count 49 6
      else { s with
        mgt := { s.mgt with fwStatus := 3, fwChunks := [], fwImage := some {
          bytes := s.mgt.fwChunks.flatMap (·.2), version := v.version, svn := v.svn, signatures := v.signatures } }
        flash := s.flash.setOther none }) := by
  show execFwCheckComplete v s = _
  rw [execFwCheckComplete, hs, h2]
  rfl

theorem fwWriteComplete_eq (hs : s.standby = true) (h3 : s.mgt.fwStatus = 3) : exec .fwWriteComplete s = .next { s with
    flash := s.flash.setOther s.mgt.fwImage, mgt := { s.mgt with fwStatus := 4, fwChunks := [], fwImage := none } } := by
  show execFwWriteComplete s = _
  rw [execFwWriteComplete, hs, h3]
  rfl

/-! ### The power cap and the addresses -/

/-- The state in which a cap written has been taken over. -/
def State.capTaken (s : State) (w : Nat) : State := { s with mgt := { s.mgt with actions := [], capW := w } }

theorem mgtCapWrite_eq {w : Nat} (h : s.mgt.actions = [.cap w]) (hhalt : s.health.halt = none) : exec .mgtCapWrite s =
    .next (if w < 400 ∨ 1100 < w ∨ w % 10 ≠ 0 then (s.capTaken w).setCapState 5
      else match (s.capTaken w).checkCommit 7 [{ item := 2, arg := 0, index := 0, value := w }] with
        | (some st, s) => (s.count 44 3).commitFails 7 { cmd := none, since := s.now } st
        | (none, s) => (s.setCommit 7 (some { cmd := none, since := s.now })).setCapState 1) := by
  refine congrArg Host.Outcome.next ((State.takeAction_only (x := w) h ?_ _).trans ?_)
  · rfl
  dsimp only
  rw [hhalt, Option.isSome_none, if_neg Bool.false_ne_true]
  rfl

theorem mgtCapWrite_staged {w : Nat} (h : s.mgt.actions = [.cap w]) (hhalt : s.health.halt = none) (hlo : 400 ≤ w)
    (hhi : w ≤ 1100) (hten : w % 10 = 0) {t : State}
    (ht : (s.capTaken w).checkCommit 7 [{ item := 2, arg := 0, index := 0, value := w }] = (none, t)) :
    exec .mgtCapWrite s = .next ((t.setCommit 7 (some { cmd := none, since := s.now })).setCapState 1) := by
  have hnow : t.now = s.now := by
    have := State.checkCommit_now (s.capTaken w) 7 [{ item := 2, arg := 0, index := 0, value := w }]
    rwa [ht] at this
  rw [mgtCapWrite_eq h hhalt, if_neg (by omega), ht]
  dsimp only
  rw [hnow]

theorem mgtAddrWrite_eq {ws : List (Nat × Nat)} {t : Nat} (h : s.mgt.actions = [.addr ws t]) : exec .mgtAddrWrite s =
    .next { s with
      flash := { s.flash with addr4 := (setAddr ws (s.flash.addr4, s.flash.addr6)).1
                              addr6 := (setAddr ws (s.flash.addr4, s.flash.addr6)).2 }
      mgt := { s.mgt with
        actions := []
        nextAddr := s.mgt.nextAddr ++ [(t + 100000000, setAddr ws (s.flash.addr4, s.flash.addr6))] } } := by
  refine congrArg Host.Outcome.next ((State.takeAction_only (x := (ws, t)) h ?_ _).trans ?_)
  · rfl
  · rfl

theorem mgtAddrTakeEffect_due (hs : s.standby = true) {t a4 a6 : Nat} (h : s.mgt.nextAddr = [(t, a4, a6)])
    (hdue : t ≤ s.now) : exec .mgtAddrTakeEffect s =
      .next { s with mgt := { s.mgt with nextAddr := [], addr4 := a4, addr6 := a6 } } := by
  show execMgtAddrTakeEffect s = _
  rw [execMgtAddrTakeEffect, hs, onlyIf_true]
  simp only [h, List.filter_cons, decide_eq_true hdue, if_true, List.filter_nil, List.foldl_cons, List.foldl_nil,
    Bool.not_true, Bool.false_eq_true, if_false]

theorem mgtAddrTakeEffect_early (hs : s.standby = true) {t a4 a6 : Nat} (h : s.mgt.nextAddr = [(t, a4, a6)])
    (hearly : s.now < t) : exec .mgtAddrTakeEffect s = .next s := by
  show execMgtAddrTakeEffect s = _
  rw [execMgtAddrTakeEffect, hs, onlyIf_true]
  simp only [h, List.filter_cons, decide_eq_false (Nat.not_le.mpr hearly), if_true, List.filter_nil, List.foldl_nil,
    Bool.not_false, Bool.false_eq_true, if_false]
  rw [← h]

end

/-- Settles O34: each action by its own row; the update touches the slot that does not run. -/
theorem managementActionsAndFirmwareTakeEffect : Obligations.ManagementActionsAndFirmwareTakeEffect := by
  refine ⟨fun s => ⟨fun h => actionRow_only h _, fun h => actionRow_only h _, fwStart_starts, fun h h2 h3 => ⟨fun hall => ?_,
      fun hmissing => ?_⟩, fwAbort_aborts, fun w h hhalt => ⟨fun hbad => ?_, fun hlo hhi hten t ht => ?_⟩,
      fun ws t h => ⟨_, mgtAddrWrite_eq h, rfl, rfl, rfl, rfl⟩,
      fun t a4 a6 hs h => ⟨mgtAddrTakeEffect_due hs h, mgtAddrTakeEffect_early hs h⟩⟩,
    fun s hs => ⟨fun v h2 hbad => ?_, fun v h2 hgood => ?_, fun h3 => ?_⟩⟩
  · rw [fwCommit_eq h h2 h3, if_pos hall]
  · rw [fwCommit_eq h h2 h3, hmissing, if_neg Bool.false_ne_true]
  · rw [mgtCapWrite_eq h hhalt, if_pos hbad]
    rfl
  · exact mgtCapWrite_staged h hhalt hlo hhi hten ht
  · rw [fwCheckComplete_eq hs h2, if_pos hbad]
  · rw [fwCheckComplete_eq hs h2, if_neg (not_not_intro hgood)]
    exact ⟨_, rfl, rfl, s.flash.running_setOther none, s.flash.other_setOther none, rfl⟩
  · exact ⟨_, fwWriteComplete_eq hs h3, rfl, s.flash.running_setOther _, s.flash.other_setOther _⟩

end Sys2Proof.Machine
end


-- ==== Sys2Proof/Proofs/ManagementRequests.lean ====
section
/-! Management sessions, requests inside them, and the sideband (R409, R414, R415, R427 to R431, R449, R478). -/

namespace Sys2Proof.Machine

/-! ### Lengths of tables, and little-endian words -/

theorem Tab.length_erase_of_find {β : Type} {k : Nat} {v : β} {t : Table β} (h : Tab.find k t = some v) :
    (Tab.erase k t).length + 1 = t.length := by
  induction t with
  | nil => cases h
  | cons e t ih =>
    obtain ⟨a, w⟩ := e
    by_cases ha : a = k
    · rw [Tab.erase, if_pos ha, List.length_cons]
    · rw [Tab.find, if_neg ha] at h
      rw [Tab.erase, if_neg ha, List.length_cons, List.length_cons, ih h]

theorem Tab.length_put_le {β : Type} (k : Nat) (v : β) (t : Table β) : (Tab.put k v t).length ≤ t.length + 1 := by
  induction t with
  | nil => exact Nat.le_refl 1
  | cons e t ih =>
    obtain ⟨a, w⟩ := e
    rw [Tab.put]
    split
    · exact Nat.le_refl _
    · split
      · exact Nat.le_succ _
      · exact Nat.succ_le_succ ih

theorem Tab.exists_find_of_mem {β : Type} {e : Nat × β} {t : Table β} (h : e ∈ t) : ∃ v, Tab.find e.1 t = some v := by
  induction t with
  | nil => cases h
  | cons x t ih =>
    obtain ⟨a, w⟩ := x
    by_cases ha : a = e.1
    · exact ⟨w, by rw [Tab.find, if_pos ha]⟩
    · obtain rfl | h := List.mem_cons.mp h
      · exact absurd rfl ha
      · rw [Tab.find, if_neg ha]
        exact ih h

theorem length_leBytes (n v : Nat) : (leBytes n v).length = n := by
  induction n generalizing v with
  | zero => rfl
  | succ n ih => rw [leBytes, List.length_cons, ih]

theorem leNat_leBytes (n v : Nat) : leNat (leBytes n v) = v % 256 ^ n := by
  induction n generalizing v with
  | zero => rw [leBytes, leNat, Nat.pow_zero, Nat.mod_one]
  | succ n ih =>
    rw [leBytes, leNat, ih, BitVec.toNat_ofNat, show 256 ^ (n + 1) = 256 * 256 ^ n from Nat.pow_succ', Nat.mod_mul]

theorem slice_all (b : Bytes) : slice b 0 b.length = b := by
  simp [slice, zeros]

theorem leAt_leBytes (v : Nat) : leAt (leBytes 4 v) 0 4 = v % 2 ^ 32 := by
  have hall := slice_all (leBytes 4 v)
  rw [length_leBytes] at hall
  rw [leAt, hall]
  exact leNat_leBytes ..

/-! ### Sessions -/

section
variable {s : State}

theorem mgtHello_eq (hs : s.standby = true) {m : KeyMessage} (hok : keyMessageOk m.bytes 1 3 6613 = true) :
    let enrols := s.flash.credential.isNone && bitOf (leAt m.bytes 7 1) 0
    exec (.mgtHello m) s = .next
      (if !m.sigOk ∨ !(s.flash.credential == some (peerKeys m.bytes) || enrols) then
        (s.count 49 0).mgtReply 0 1 4 0 []
      else if !m.keysOk then s.mgtReply 0 1 1 0 []
      else (if enrols then { s with flash := { s.flash with credential := some (peerKeys m.bytes) } } else s).mgtRespond
        m.bytes) := by
  show execMgtHello m s = _
  rw [execMgtHello, hs, onlyIf_true]
  dsimp only
  rw [hok, Bool.not_true, if_neg Bool.false_ne_true]

theorem mgtHello_enrolled (hs : s.standby = true) {m : KeyMessage} (hok : keyMessageOk m.bytes 1 3 6613 = true)
    (hsig : m.sigOk = true) (hkeys : m.keysOk = true) (hcred : s.flash.credential = some (peerKeys m.bytes)) :
    exec (.mgtHello m) s = .next (s.mgtRespond m.bytes) := by
  rw [mgtHello_eq hs hok, hsig, hkeys, hcred]
  simp

theorem mgtHello_enrols (hs : s.standby = true) {m : KeyMessage} (hok : keyMessageOk m.bytes 1 3 6613 = true)
    (hsig : m.sigOk = true) (hkeys : m.keysOk = true) (hcred : s.flash.credential = none)
    (hbit : bitOf (leAt m.bytes 7 1) 0 = true) : exec (.mgtHello m) s =
      .next ({ s with flash := { s.flash with credential := some (peerKeys m.bytes) } }.mgtRespond m.bytes) := by
  rw [mgtHello_eq hs hok, hsig, hkeys, hcred, hbit]
  simp

theorem mgtHello_unknown (hs : s.standby = true) {m : KeyMessage} (hok : keyMessageOk m.bytes 1 3 6613 = true)
    (hcred : s.flash.credential = none) (hbit : bitOf (leAt m.bytes 7 1) 0 = false) :
    exec (.mgtHello m) s = .next ((s.count 49 0).mgtReply 0 1 4 0 []) := by
  rw [mgtHello_eq hs hok, hcred, hbit]
  simp

section
variable {n : Nat} {x : MgtSession}

theorem State.endMgt_pending (hx : Tab.find n s.mgt.sessions = some x) (hpending : x.established = false) :
    s.endMgt n = { s with mgt := { s.mgt with sessions := Tab.erase n s.mgt.sessions } } := by
  rw [State.endMgt, hx, Option.any_some, hpending, if_neg Bool.false_ne_true]

theorem State.endMgt_established (hx : Tab.find n s.mgt.sessions = some x) (hopen : x.established = true) :
    s.endMgt n = { s with mgt := { s.mgt with sessions := Tab.erase n s.mgt.sessions } }.count 51 5 := by
  rw [State.endMgt, hx, Option.any_some, hopen, if_pos rfl]

theorem mgtConfirm_eq (hs : s.standby = true) (hx : Tab.find n s.mgt.sessions = some x) (hpending : x.established = false)
    (ok : Bool) : exec (.mgtConfirm n ok) s = .next
      (if !ok then ((s.endMgt n).count 49 1).mgtReply n 2 4 0 []
      else (({ s with mgt := { s.mgt with
          sessions := Tab.put n { x with established := true, lastUsed := s.now } s.mgt.sessions } }.count 51 4).mgtReply
            n 2 0 0 (finishedOf 3 n (x.keys.getD 1 []) x.th))) := by
  have hfound : ((Tab.find n s.mgt.sessions).filter fun x => !x.established) = some x := by
    rw [hx, Option.filter_some, hpending, Bool.not_false, if_pos rfl]
  show execMgtConfirm n ok s = _
  rw [execMgtConfirm, hs, onlyIf_true, hfound]

theorem mgtSessionIdleTimeout_eq (hx : Tab.find n s.mgt.sessions = some x) (hopen : x.established = true) :
    exec (.mgtSessionIdleTimeout n) s =
      .next (if x.lastUsed + 60000000000 ≤ s.now then s.endMgt n else s) := by
  show execMgtSessionIdleTimeout n s = _
  rw [execMgtSessionIdleTimeout, hx, withSome_some, hopen, if_pos rfl]

/-- A session destroyed leaves the others. -/
theorem State.endMgt_sessions (s : State) (n : Nat) : (s.endMgt n).mgt.sessions = Tab.erase n s.mgt.sessions := by
  unfold State.endMgt
  extract_lets
  split <;> rfl

end

/-- Of a list with entries one was used no later than all others. -/
theorem exists_leastRecent {α : Type} (f : α → Nat) {l : List α} (hl : l ≠ []) : ∃ e ∈ l, ∀ o ∈ l, f e ≤ f o := by
  induction l with
  | nil => exact absurd rfl hl
  | cons a l ih =>
    by_cases hnil : l = []
    · exact ⟨a, by simp, by simp [hnil]⟩
    · obtain ⟨e, he, hmin⟩ := ih hnil
      by_cases hae : f a ≤ f e
      · refine ⟨a, List.mem_cons_self, fun o ho => ?_⟩
        obtain rfl | ho := List.mem_cons.mp ho
        · exact Nat.le_refl _
        · exact Nat.le_trans hae (hmin o ho)
      · refine ⟨e, List.mem_cons_of_mem a he, fun o ho => ?_⟩
        obtain rfl | ho := List.mem_cons.mp ho
        · exact Nat.le_of_lt (Nat.lt_of_not_le hae)
        · exact hmin o ho

/-- With two sessions or more the one used least recently goes. -/
theorem State.makeRoom_sessions (h : 2 ≤ s.mgt.sessions.length) :
    s.makeRoom.mgt.sessions.length + 1 = s.mgt.sessions.length := by
  have hne : s.mgt.sessions ≠ [] := List.ne_nil_of_length_pos (by omega)
  obtain ⟨e, he, hmin⟩ := exists_leastRecent (fun e : Nat × MgtSession => e.2.lastUsed) hne
  unfold State.makeRoom
  rw [if_neg (by omega)]
  cases hfind : s.mgt.sessions.find? fun e => s.mgt.sessions.all fun o => decide (e.2.lastUsed ≤ o.2.lastUsed) with
  | none =>
    refine absurd (List.all_eq_true.mpr fun o ho => decide_eq_true (hmin o ho)) ?_
    exact List.find?_eq_none.mp hfind e he
  | some e =>
    obtain ⟨v, hv⟩ := Tab.exists_find_of_mem (List.mem_of_find?_eq_some hfind)
    rw [withSome_some, State.endMgt_sessions]
    exact Tab.length_erase_of_find hv

theorem State.mgtRespond_sessions (hello : Bytes) (h : 2 ≤ s.mgt.sessions.length) :
    (s.mgtRespond hello).mgt.sessions.length ≤ s.mgt.sessions.length := by
  rw [← State.makeRoom_sessions h]
  exact Tab.length_put_le ..

/-! ### Requests -/

section
variable {req : MgtRequest} {x : MgtSession}

/-- A fresh request inside an established session is answered once with what it does. -/
theorem mgtRow_answers (h : s.Asks req x) (type : Nat) {f : State → Answer} {status : Nat} {data : Bytes} {t : State}
    (hf : f s = (status, data, t)) : mgtRow req type s f = .next (t.answered req type status data) := by
  have hfound : ((Tab.find req.session s.mgt.sessions).filter (·.established)) = some x := by
    rw [h.found, Option.filter_some, h.established, if_pos rfl]
  have hseq := h.bounded
  have hold : x.lastSeq.any (fun n => decide (req.seq < n)) = false := by
    cases hlast : x.lastSeq with
    | none => rfl
    | some n => exact decide_eq_false (Nat.not_lt.mpr (Nat.le_of_lt (h.fresh n hlast)))
  have hnew : x.lastSeq ≠ some req.seq := fun hlast => Nat.lt_irrefl _ (h.fresh _ hlast)
  have htag : ¬ ((!req.tagOk) = true ∨ 2 ^ 64 ≤ req.seq) := by
    rw [h.tag]
    exact not_or.mpr ⟨Bool.false_ne_true, by omega⟩
  rw [mgtRow, h.standby, onlyIf_true, hfound]
  dsimp only
  rw [if_neg htag, hold, if_neg Bool.false_ne_true, if_neg hnew, hf]
  exact congrArg _ (if_neg (by omega))

theorem mgtRead_answers (h : s.Asks req x) {o n : Nat} (ho : o % 4 = 0) (hn : n % 4 = 0) (hlo : 4 ≤ n) (hhi : n ≤ 1024) :
    exec (.mgtRead req o n) s = .next (s.answered req 3 0 (s.mgtBytes o n)) :=
  mgtRow_answers h 3 (if_neg (by omega))

theorem mgtRead_refused (h : s.Asks req x) {o n : Nat} (hbad : o % 4 ≠ 0 ∨ n % 4 ≠ 0 ∨ n < 4 ∨ 1024 < n) :
    exec (.mgtRead req o n) s = .next (s.answered req 3 1 []) :=
  mgtRow_answers h 3 (if_pos hbad)

/-- A write of one word is the word at its offset. -/
theorem mgtWords_word (o v : Nat) : mgtWords o (leBytes 4 v) = [(o, v % 2 ^ 32)] := by
  rw [mgtWords, length_leBytes]
  show [(o + 4 * 0, leAt (leBytes 4 v) (4 * 0) 4)] = _
  rw [Nat.mul_zero, leAt_leBytes, Nat.add_zero]

theorem mgtWrite_refused (h : s.Asks req x) {o v : Nat} (ho : o % 4 = 0) (hno : s.mgtWritable o (v % 2 ^ 32) ≠ 0) :
    exec (.mgtWrite req o (leBytes 4 v)) s =
      .next ((s.count 51 6).answered req 4 (s.mgtWritable o (v % 2 ^ 32)) []) := by
  refine mgtRow_answers h 4 ((if_neg ?_).trans ?_)
  · rw [length_leBytes]
    omega
  · have hfind : [s.mgtWritable o (v % 2 ^ 32)].find? (fun st => decide (st ≠ 0)) = some (s.mgtWritable o (v % 2 ^ 32)) :=
      List.find?_cons_of_pos (decide_eq_true hno)
    rw [mgtWords_word, List.map_singleton, hfind]

theorem mgtWrite_written (h : s.Asks req x) {o v : Nat} (ho : o % 4 = 0) (hyes : s.mgtWritable o (v % 2 ^ 32) = 0)
    (haddr : addrOffset o = false) : exec (.mgtWrite req o (leBytes 4 v)) s =
      .next ((s.mgtWriteWord o (v % 2 ^ 32)).answered req 4 0 []) := by
  refine mgtRow_answers h 4 ((if_neg ?_).trans ?_)
  · rw [length_leBytes]
    omega
  · have hfind : [s.mgtWritable o (v % 2 ^ 32)].find? (fun st => decide (st ≠ 0)) = none := by
      rw [hyes]
      rfl
    rw [mgtWords_word, List.map_singleton, hfind]
    simp [haddr]

theorem mgtWrite_fwLen (h : s.Asks req x) {v : Nat} (hv : v < 2 ^ 26) (hmax : v ≤ 33554432) (h2 : s.mgt.fwStatus ≠ 2)
    (h3 : s.mgt.fwStatus ≠ 3) : exec (.mgtWrite req 0x0C4 (leBytes 4 v)) s =
      .next ({ s with mgt := { s.mgt with fwLen := v } }.answered req 4 0 []) := by
  have hword : v % 2 ^ 32 = v := Nat.mod_eq_of_lt (by omega)
  have hlen : v % 2 ^ 26 = v := Nat.mod_eq_of_lt hv
  have hyes : s.mgtWritable 0x0C4 (v % 2 ^ 32) = 0 := by
    rw [hword]
    show (if s.mgt.fwStatus = 2 ∨ s.mgt.fwStatus = 3 then 3 else if 33554432 < v % 2 ^ 26 then 1 else 0) = 0
    rw [if_neg (not_or.mpr ⟨h2, h3⟩), hlen, if_neg (Nat.not_lt.mpr hmax)]
  rw [mgtWrite_written h rfl hyes rfl, hword]
  show Host.Outcome.next (State.answered { s with mgt := { s.mgt with fwLen := v % 2 ^ 26 } } req 4 0 []) = _
  rw [hlen]

theorem mgtWrite_warm (h : s.Asks req x) {v : Nat} (hv : v % 2 ^ 32 = 0x5A01) :
    exec (.mgtWrite req 0x040 (leBytes 4 v)) s = .next
      ({ s with mgt := { s.mgt with actions := s.mgt.actions ++ [MgtAction.warm] } }.answered req 4 0 []) := by
  rw [mgtWrite_written h rfl rfl rfl, hv]
  rfl

theorem mgtCert_answers (h : s.Asks req x) :
    exec (.mgtCert req) s = .next (s.answered req 6 0 (slice Config.deviceCertificate 0 5405)) :=
  mgtRow_answers h 6 (f := fun s => (0, slice Config.deviceCertificate 0 5405, s)) rfl

theorem faultRead_answers (h : s.Asks req x) {i : Nat} {r : Bytes} (hr : s.flash.records[i]? = some r) :
    exec (.faultRead req i) s = .next (s.answered req 8 0 r) := by
  refine mgtRow_answers h 8 ?_
  rw [hr]

theorem faultRead_absent (h : s.Asks req x) {i : Nat} (hi : s.flash.records[i]? = none) :
    exec (.faultRead req i) s = .next (s.answered req 8 4 []) := by
  refine mgtRow_answers h 8 ?_
  rw [hi]

theorem fwChunk_kept (h : s.Asks req x) {o : Nat} {b : Bytes} (h1 : s.mgt.fwStatus = 1) (ho : o % 1024 = 0)
    (hlen : o < s.mgt.fwLen) (hb : b.length = min 1024 (s.mgt.fwLen - o)) : exec (.fwChunk req o b) s = .next
      ({ s with mgt := { s.mgt with fwChunks := Tab.put o b s.mgt.fwChunks } }.answered req 5 0 []) := by
  refine mgtRow_answers h 5 ?_
  have hfits : ¬ (o % 1024 ≠ 0 ∨ s.mgt.fwLen ≤ o ∨ b.length ≠ chunkLength s.mgt.fwLen o) := by
    rw [chunkLength]
    omega
  refine (if_neg ?_).trans ((if_neg ?_).trans (if_neg hfits))
  · rw [h1]
    decide
  · rw [h1]
    decide

theorem credentialReplacement_replaces (h : s.Asks req x) {keys : Bytes} (hkeys : keys.length = 1984)
    (hcred : s.flash.credential.isSome = true) : exec (.credentialReplacement req keys true) s = .next ({ s with
      flash := { s.flash with
        credential := some keys, credVersion := (s.flash.credVersion + 1) % 2 ^ 32 } }.answered req 0 0 []) := by
  have hnone : s.flash.credential.isNone = false := by rw [← Option.not_isSome, hcred]; rfl
  refine mgtRow_answers h 0 ((if_neg (not_not_intro hkeys)).trans (if_neg ?_))
  simp [hnone]

end

/-! ### The sideband -/

theorem smbusBlockRead_eq (hs : s.standby = true) (hseen : s.mgt.broadcastSeen = false) (k : Nat) :
    exec (.smbusBlockRead k) s = .next
      (if k = 0x00 then s.emit (.sideband (s.mgtBytes 0x000 20))
      else if k = 0x01 then s.emit (.sideband (s.mgtBytes 0x044 4))
      else if 0x10 ≤ k ∧ k < 0x20 then s.emit (.sideband (s.mgtBytes (0x1000 + 32 * (k - 0x10)) 32))
      else s) := by
  show execSmbusBlockRead k s = _
  rw [execSmbusBlockRead, hs, hseen, Bool.not_false, Bool.and_self, onlyIf_true]

theorem smbusBlockRead_silent (hseen : s.mgt.broadcastSeen = true) (k : Nat) :
    exec (.smbusBlockRead k) s = .next s := by
  show execSmbusBlockRead k s = _
  rw [execSmbusBlockRead, hseen, Bool.not_true, Bool.and_false, onlyIf_false]

theorem smbusBlockRead_rails (hs : s.standby = true) (hseen : s.mgt.broadcastSeen = false) {k : Nat} (hk : k < 16) :
    exec (.smbusBlockRead (0x10 + k)) s = .next (s.emit (.sideband (s.mgtBytes (0x1000 + 32 * k) 32))) := by
  rw [smbusBlockRead_eq hs hseen, if_neg (by omega), if_neg (by omega), if_pos (by omega), Nat.add_sub_cancel_left]

theorem managementCredentialRecovery_eq (hs : s.standby = true) (t : Bytes) (ok : Bool) :
    exec (.managementCredentialRecovery t ok) s = .next
      (if s.tokenOk t 1 ok then { s with flash := { s.flash with credential := none } }.count 49 4 else s.count 49 5) := by
  show execManagementCredentialRecovery t ok s = _
  rw [execManagementCredentialRecovery, hs, onlyIf_true]

theorem i3cCommonCommand_setdasa (hs : s.standby = true) (a : Nat) (hnone : s.mgt.i3cAddress = none) :
    exec (.i3cCommonCommand (.setdasa 0x4C a)) s =
      .next { s with mgt := { s.mgt with broadcastSeen := true, i3cAddress := some a } } := by
  show execI3cCommonCommand (.setdasa 0x4C a) s = _
  rw [execI3cCommonCommand, hs, onlyIf_true]
  exact congrArg _ (if_pos ⟨rfl, Option.isNone_iff_eq_none.mpr hnone⟩)

theorem i3cCommonCommand_rstdaa (hs : s.standby = true) : exec (.i3cCommonCommand .rstdaa) s =
    .next { s with mgt := { s.mgt with broadcastSeen := true, i3cAddress := none } } := by
  show execI3cCommonCommand .rstdaa s = _
  rw [execI3cCommonCommand, hs, onlyIf_true]

theorem i3cCommonCommand_disec (hs : s.standby = true) (e : Nat) : exec (.i3cCommonCommand (.disec e)) s =
    .next { s with mgt := { s.mgt with
      broadcastSeen := true, i3cEvents := s.mgt.i3cEvents &&& (e % 2 ^ 8 ^^^ 255) } } := by
  show execI3cCommonCommand (.disec e) s = _
  rw [execI3cCommonCommand, hs, onlyIf_true]

end

/-- Settles O35: sessions, then requests through `mgtRow_answers`, then the sideband. -/
theorem managementRequestsAreAnswered : Obligations.ManagementRequestsAreAnswered := by
  refine ⟨fun s => ⟨fun m hs hok => ⟨fun hsig => ?_, mgtHello_enrolled hs hok, mgtHello_enrols hs hok,
        mgtHello_unknown hs hok⟩, fun n x hs hx hpending => ⟨mgtConfirm_eq hs hx hpending true, ?_⟩,
      fun n x hx hopen => ⟨fun hidle => ?_, fun hbusy => ?_⟩, fun hello h => State.mgtRespond_sessions hello h⟩,
    fun s req x h => ⟨fun o n ho hn hlo hhi => mgtRead_answers h ho hn hlo hhi, fun o n hbad => mgtRead_refused h hbad,
      fun v hv hmax h2 h3 => mgtWrite_fwLen h hv hmax h2 h3, fun o v ho hno => mgtWrite_refused h ho hno,
      fun v hv => mgtWrite_warm h hv, fun o b h1 ho hlen hb => fwChunk_kept h h1 ho hlen hb,
      mgtCert_answers h, fun nonce hn => mgtRow_answers h 7 (if_neg (not_not_intro hn)),
      fun i r hr => faultRead_answers h hr, fun i hi => faultRead_absent h hi,
      fun keys hkeys hcred => credentialReplacement_replaces h hkeys hcred⟩,
    fun s hs => ⟨fun t ok hok => ?_, fun t ok hbad => ?_, fun hseen => ⟨smbusBlockRead_eq hs hseen 0x00,
      smbusBlockRead_eq hs hseen 0x01, fun k hk => smbusBlockRead_rails hs hseen hk⟩,
      fun hseen k => smbusBlockRead_silent hseen k, fun a hnone => i3cCommonCommand_setdasa hs a hnone,
      i3cCommonCommand_rstdaa hs, fun e => i3cCommonCommand_disec hs e⟩⟩
  · rw [mgtHello_eq hs hok, hsig]
    exact congrArg _ (if_pos (.inl rfl))
  · rw [mgtConfirm_eq hs hx hpending, State.endMgt_pending hx hpending]
    rfl
  · rw [mgtSessionIdleTimeout_eq hx hopen, if_pos hidle, State.endMgt_established hx hopen]
  · rw [mgtSessionIdleTimeout_eq hx hopen, if_neg (Nat.not_le.mpr hbusy)]
  · rw [managementCredentialRecovery_eq hs, if_pos hok]
  · rw [managementCredentialRecovery_eq hs, hbad, if_neg Bool.false_ne_true]

end Sys2Proof.Machine
end


-- ==== Sys2Proof/Proofs/StartUp.lean ====
section
/-! Start-up in its order, and the boot chain (R233, R355, R395, R398, R399, R402, R441). -/

namespace Sys2Proof.Machine

section
variable {s : State}

/-- A count that does not reach its last value rises by one. -/
theorem State.counterValue_count (s : State) (g i : Nat) (h : s.counterValue g i < 2 ^ 64 - 1) :
    (s.count g i).counterValue g i = s.counterValue g i + 1 := by
  have hmod : (s.counterValue g i + 1) % 2 ^ 64 = s.counterValue g i + 1 := Nat.mod_eq_of_lt (by omega)
  unfold State.counterValue at hmod ⊢
  unfold State.count
  by_cases hflash : 52 ≤ g ∧ g ≤ 54
  · simp only [if_pos hflash] at hmod ⊢
    rw [hmod, Tab.setD, if_neg (by omega), Tab.getD_put_self]
  · simp only [if_neg hflash] at hmod ⊢
    rw [hmod, Tab.setD, if_neg (by omega), Tab.getD_put_self]

theorem State.working_eq (hboot : s.power.boot = .ready) (hhalt : s.health.halt = none) : s.working = true := by
  rw [State.working, hboot, hhalt]
  rfl

/-! ### From off to ready -/

theorem inputStartLevel_starts (h : s.power.boot = .off) : exec .inputStartLevel s =
    .next ({ s with power := { s.power with vin := 4000, vins := [4000] } }.beginReset (.cold 5)) := by
  show execInputStartLevel s = _
  rw [execInputStartLevel, h]
  rfl

theorem standbyRailsUp_samples (h : s.power.boot = .started) (m : Bool) {d : Nat} (hd : d < 64) :
    exec (.standbyRailsUp m d) s = .next { s with
      power := { s.power with boot := .standby }
      cascade := { s.cascade with device := d, masterSel := m, linkL0 := false }
      time := .reset
      mgt := { s.mgt with addr4 := s.flash.addr4, addr6 := s.flash.addr6 } } := by
  show execStandbyRailsUp m d s = _
  rw [execStandbyRailsUp, h, Nat.mod_eq_of_lt hd]
  rfl

/-- The readings of the die sensors taken over. -/
def State.dieTemps (s : State) (ts : List Int) : State :=
  { s with power := { s.power with temps := ts ++ s.power.temps.drop 32 } }

theorem mainRailsUp_eq (h : s.power.boot = .standby) (hhalt : s.health.halt = none) {ts : List Int} (hts : ts.length = 32) :
    exec (.mainRailsUp ts) s = .next
      (if ts.all (· < 950) then { s.dieTemps ts with
          power := { (s.dieTemps ts).power with boot := .rails, vcore := 2, armed := true, coolWaits := false } }
      else if s.power.coolWaits then s.dieTemps ts
      else { s.dieTemps ts with power := { (s.dieTemps ts).power with coolWaits := true } }.count 52 5) := by
  have htake : ts.take 32 = ts := List.take_of_length_le (Nat.le_of_eq hts)
  show execMainRailsUp ts s = _
  rw [execMainRailsUp, h, hhalt, htake]
  rfl

theorem mainRailsUp_waits (h : s.power.boot = .standby) (hhalt : s.health.halt = none) {ts : List Int}
    (hts : ts.length = 32) (hwarm : ∃ x ∈ ts, 950 ≤ x) : exec (.mainRailsUp ts) s = .next
      (if s.power.coolWaits then s.dieTemps ts
      else { s.dieTemps ts with power := { (s.dieTemps ts).power with coolWaits := true } }.count 52 5) := by
  obtain ⟨x, hx, h950⟩ := hwarm
  rw [mainRailsUp_eq h hhalt hts, if_neg]
  intro hall
  have := of_decide_eq_true (List.all_eq_true.mp hall x hx)
  omega

theorem lpddr6TrainingComplete_eq (h : s.power.boot = .booted) (hhalt : s.health.halt = none) (replay : Bool) :
    exec (.lpddr6TrainingComplete replay []) s = .next
      (if !s.power.fullTraining && replay then { s with power := { s.power with fullTraining := true } }
      else { s with power := { s.power with boot := .trained, fullTraining := false, trainedAt := s.now } }) := by
  show execLpddr6TrainingComplete replay [] s = _
  rw [execLpddr6TrainingComplete, h, hhalt]
  show Host.Outcome.next (onlyIf true _ s) = _
  rw [onlyIf_true, List.isEmpty_nil, Bool.not_true, Bool.and_false, if_neg (c := false = true) Bool.false_ne_true]

theorem memoryScrubComplete_scrubs (h : s.power.boot = .trained) (hhalt : s.health.halt = none) :
    exec .memoryScrubComplete s =
      .next { s with mem := [], regions := regionsAtReset, power := { s.power with boot := .scrubbed } } := by
  show execMemoryScrubComplete s = _
  rw [execMemoryScrubComplete, h, hhalt]
  rfl

theorem deviceReady_ready (h : s.power.boot = .scrubbed) (hhalt : s.health.halt = none) (hports : s.portsSettled = true) :
    exec .deviceReady s = .next { s with
      power := { s.power with boot := .ready }
      flash := { s.flash with rollback := max s.flash.rollback (s.flash.running.elim 0 (·.svn)) } } := by
  show execDeviceReady s = _
  rw [execDeviceReady, h, hhalt, hports]
  rfl

/-! ### The boot chain -/

/-- The slot of the boot chain's verdict. -/
def State.chosenSlot (s : State) (v : BootVerdict) : Option Bool :=
  s.flash.choose (s.flash.slotFails s.flash.slotA v.slotA) (s.flash.slotFails s.flash.slotB v.slotB)

theorem bootGuard (h : s.power.boot = .rails) (hhalt : s.health.halt = none) :
    (s.power.boot == .rails && s.health.halt.isNone) = true := by
  rw [h, hhalt]
  rfl

theorem bootChainComplete_identity (h : s.power.boot = .rails) (hhalt : s.health.halt = none) {v : BootVerdict}
    (hid : v.identityOk = false) : exec (.bootChainComplete v) s = .next (s.fault (faultOf 7 0)) := by
  show execBootChainComplete v s = _
  rw [execBootChainComplete, bootGuard h hhalt, onlyIf_true]
  refine congrArg Host.Outcome.next (if_pos ?_)
  rw [hid]
  rfl

theorem bootChainComplete_boots (h : s.power.boot = .rails) (hhalt : s.health.halt = none) {v : BootVerdict}
    (hid : v.identityOk = true) (hroll : v.antiRollbackOk = true) (hchain : v.chainOk = true) (hconfig : v.configOk = true)
    {b : Bool} (hb : s.chosenSlot v = some b) : exec (.bootChainComplete v) s = .next (s.booted b) := by
  have hb' : s.flash.choose (s.flash.slotFails s.flash.slotA v.slotA) (s.flash.slotFails s.flash.slotB v.slotB) = some b := hb
  show execBootChainComplete v s = _
  rw [execBootChainComplete, bootGuard h hhalt, onlyIf_true]
  refine congrArg Host.Outcome.next ?_
  dsimp only
  rw [hid, hroll, hchain, Bool.not_true, if_neg Bool.false_ne_true, if_neg Bool.false_ne_true, if_neg Bool.false_ne_true,
    hb']
  exact if_pos hconfig

/-- Past the identity, a failed row is a boot verification fault. -/
theorem bootChainComplete_fails (h : s.power.boot = .rails) (hhalt : s.health.halt = none) {v : BootVerdict}
    (hid : v.identityOk = true) (hbad : v.antiRollbackOk = false ∨ v.chainOk = false ∨ v.configOk = false) :
    ∃ a b, exec (.bootChainComplete v) s = .next (s.bootFault a b) := by
  show ∃ a b, execBootChainComplete v s = _
  rw [execBootChainComplete, bootGuard h hhalt, onlyIf_true]
  dsimp only
  rw [hid, Bool.not_true, if_neg Bool.false_ne_true]
  cases hroll : v.antiRollbackOk with
  | false => exact ⟨3, 3, rfl⟩
  | true =>
    cases hchain : v.chainOk with
    | false => exact ⟨4, 4, rfl⟩
    | true =>
      have hconfig : v.configOk = false := by simpa [hroll, hchain] using hbad
      cases hb : s.flash.choose (s.flash.slotFails s.flash.slotA v.slotA) (s.flash.slotFails s.flash.slotB v.slotB) with
      | none => exact ⟨_, _, rfl⟩
      | some b => exact ⟨6, 6, by rw [hconfig]; rfl⟩

/-- A boot verification fault is a halt with cause 8. -/
theorem State.bootFault_halts (hhalt : s.health.halt = none) (a b : Nat) :
    ∃ h, (s.bootFault a b).health.halt = some h ∧ h.cause = 8 :=
  ⟨_, State.fault_halt_of_none hhalt _, rfl⟩

/-- The slot tried first has the higher version, the other serves where it fails. -/
theorem Flash.choose_eq {f : Flash} {x y : FwImage} (hx : f.slotA = some x) (hy : f.slotB = some y) (a b : Nat) :
    f.choose a b = if x.version < y.version then (if b = 0 then some true else if a = 0 then some false else none)
      else if a = 0 then some false else if b = 0 then some true else none := by
  unfold Flash.choose
  rw [hx, hy]
  by_cases hlt : x.version < y.version <;> by_cases ha : a = 0 <;> by_cases hb : b = 0 <;> simp [hlt, ha, hb]

end

/-- Settles O36: each row of start-up in its turn, and the boot chain's choice of a slot. -/
theorem startUpRunsInOrder : Obligations.StartUpRunsInOrder := by
  refine ⟨fun s => ⟨inputStartLevel_starts, fun m d h hd => ⟨_, standbyRailsUp_samples h m hd, rfl, rfl, rfl, rfl, rfl, rfl, rfl⟩,
      fun ts h hhalt hts hcool => ?_, fun ts h hhalt hts hwarm => ?_, fun replay failing h hhalt hfull hnone => ?_,
      fun h hhalt hreplay => ?_, memoryScrubComplete_scrubs, fun h hhalt hports => ?_⟩,
    fun s v h hhalt => ⟨bootChainComplete_identity h hhalt,
      fun hid hroll hchain hconfig b hb => ⟨bootChainComplete_boots h hhalt hid hroll hchain hconfig hb, rfl, rfl⟩,
      fun hid hbad => ?_⟩,
    fun f x y hx hy => ⟨?_, fun b hb => ?_, fun a ha => ?_, fun a b ha hb => ?_⟩⟩
  · refine ⟨_, (mainRailsUp_eq h hhalt hts).trans (congrArg _ (if_pos ?_)), rfl, rfl, rfl⟩
    exact List.all_eq_true.mpr fun x hx => decide_eq_true (hcool x hx)
  · refine ⟨_, mainRailsUp_waits h hhalt hts hwarm, ?_⟩
    cases hwaits : s.power.coolWaits with
    | true => exact ⟨h, fun _ => rfl, nofun⟩
    | false => exact ⟨h, nofun, fun _ hroom => State.counterValue_count _ 52 5 hroom⟩
  · rw [hnone, lpddr6TrainingComplete_eq h hhalt, hfull]
    rfl
  · rw [lpddr6TrainingComplete_eq h hhalt, hreplay]
    rfl
  · exact ⟨_, deviceReady_ready h hhalt hports, State.working_eq rfl hhalt, rfl, rfl⟩
  · obtain ⟨a, b, hexec⟩ := bootChainComplete_fails h hhalt hid hbad
    obtain ⟨r, hr, hcause⟩ := State.bootFault_halts hhalt a b
    exact ⟨_, r, hexec, hr, hcause⟩
  · rw [Flash.choose_eq hx hy]
    by_cases hlt : x.version < y.version <;> simp [hlt]
  · rw [Flash.choose_eq hx hy]
    simp [hb]
  · rw [Flash.choose_eq hx hy]
    simp [ha]
  · rw [Flash.choose_eq hx hy]
    simp [ha, hb]

end Sys2Proof.Machine
end


-- ==== Sys2Proof/Proofs/Resets.lean ====
section
/-! Resets and the supply's events (R418, R419, R435, R438 to R440, R444, R452, R484). -/

namespace Sys2Proof.Machine

section
variable {s : State}

/-! ### Resets -/

theorem State.requestReset_halted (k : ResetKind) {h : Halt} (hs : s.standby = true) (hhalt : s.health.halt = some h) :
    s.requestReset k = if h.recorded then s.beginReset k
      else { s with health := { s.health with halt := some { h with request := some (k.join h.request) } } } := by
  rw [State.requestReset, hs, Bool.not_true, if_neg Bool.false_ne_true, hhalt]

theorem State.boot_ready_of_working (h : s.working = true) : s.power.boot = .ready := by
  simp_all [State.working]

/-- On a device that works a reset begins at once. -/
theorem State.requestReset_working (h : s.working = true) (k : ResetKind) : s.requestReset k = s.beginReset k := by
  have hboot := State.boot_ready_of_working h
  have hs : s.standby = true := by rw [State.standby, hboot]; rfl
  have hstart : s.starting = false := by rw [State.starting, hboot]; exact Bool.and_false _
  rw [State.requestReset, hs, Bool.not_true, if_neg Bool.false_ne_true, State.halt_none_of_working h]
  dsimp only
  rw [hstart, Bool.and_false, if_neg Bool.false_ne_true]

theorem State.clearFaultPin_of_none (h : s.health.halt = none) : s.clearFaultPin = s := by
  rw [State.clearFaultPin, h, Option.isSome_none, if_neg Bool.false_ne_true]

/-- A warm reset of a device that is not halted: what it keeps, restarted, and its count. -/
theorem State.beginReset_warm (h : s.health.halt = none) (n : Nat) :
    s.beginReset (.warm n) = s.warmReset.count 54 n := by
  rw [State.beginReset, State.clearFaultPin_of_none h]

/-- The counts of the boot flash are the only thing of a reset state that a count under group 54 changes. -/
theorem State.count_flash_only (s : State) {g i : Nat} (h : 52 ≤ g ∧ g ≤ 54) :
    ∃ t, s.count g i = { s with flash := { s.flash with tally := t } } := ⟨_, if_pos h⟩

theorem State.warmReset_boot (h : s.power.boot = .ready) : s.warmReset.power.boot = .rails := by
  show (if s.power.boot != .standby then Boot.rails else .standby) = .rails
  rw [h]
  rfl

/-- What a warm reset of a device that works leaves. -/
theorem State.warmReset_clears (hw : s.working = true) (n : Nat) :
    let t := s.beginReset (.warm n)
    t.power.boot = .rails ∧ t.mem = [] ∧ t.cmds = [] ∧ t.routes = [] ∧ t.runs = [] ∧
      t.streams = [] ∧ t.channels = [] ∧ t.leases = [] ∧ t.health.halt = none ∧ t.working = false ∧
      (∀ f, (t.ring f).enable = false ∧ (t.fn f).sessions = []) ∧ (∀ p, (t.part p).enabled = false) ∧
      (∀ c, (t.core c).pad = []) ∧ t.pending = s.pending ∧ t.power.temps = s.power.temps ∧
      t.cascade.device = s.cascade.device ∧ t.flash.serial = s.flash.serial ∧ t.flash.records = s.flash.records ∧
      t.flash.slotA = s.flash.slotA ∧ t.flash.slotB = s.flash.slotB ∧ t.flash.credential = s.flash.credential := by
  have hboot := State.warmReset_boot (State.boot_ready_of_working hw)
  obtain ⟨tally, htally⟩ := s.warmReset.count_flash_only (g := 54) (i := n) (by decide)
  rw [State.beginReset_warm (State.halt_none_of_working hw), htally]
  have hidle : s.warmReset.working = false := by
    rw [State.working, hboot]
    exact Bool.and_false _
  exact ⟨hboot, rfl, rfl, rfl, rfl, rfl, rfl, rfl, rfl, hidle, fun _ => ⟨rfl, rfl⟩, fun _ => rfl, fun _ => rfl, rfl, rfl,
    rfl, rfl, rfl, rfl, rfl, rfl⟩

theorem functionLevelReset_zero (hs : s.standby = true) :
    exec (.functionLevelReset 0) s = .next (s.requestReset (.warm 3)) := by
  show execFunctionLevelReset 0 s = _
  rw [execFunctionLevelReset, hs]
  rfl

theorem functionLevelReset_eq (hs : s.standby = true) {f : Nat} (h1 : 1 ≤ f) (h6 : f ≤ 6) :
    let t := s.setFn f { s.fn f with busMaster := false }
    exec (.functionLevelReset f) s = .next (if s.working && (s.part f).enabled then t.disable f true none else t) := by
  show execFunctionLevelReset f s = _
  rw [execFunctionLevelReset, hs, decide_eq_true h6, checked_true, onlyIf_true, if_neg (by omega)]
  rfl

end

/-- Settles O37: a reset of a device that works keeps what `State.warmReset` keeps; another waits or begins; a function's
reset disables its partition. -/
theorem resetsClearAllButTheFlash : Obligations.ResetsClearAllButTheFlash := by
  refine ⟨⟨fun s => ⟨rfl, rfl, rfl, functionLevelReset_zero⟩, fun s n hw _ => ?_, fun s k h hs hhalt => ⟨fun hwritten => ?_,
    fun hopen => ?_⟩⟩, fun s f hs h1 h6 => ⟨fun hw hen => ?_, fun hno => ?_⟩⟩
  · have hreset := State.requestReset_working hw (.warm n)
    obtain ⟨hboot, hmem, hcmds, hroutes, hruns, hstreams, hchannels, hleases, hhalt, hidle, hfns, hparts, hcores, hpending,
      htemps, hdevice, hserial, hrecords, hslotA, hslotB, hcred⟩ := State.warmReset_clears hw n
    intro t
    rw [show t = s.beginReset (.warm n) from hreset]
    refine ⟨rfl, hboot, hmem, hcmds, hroutes, hruns, hstreams, hchannels, hleases, hhalt, hidle, hfns, hparts, hcores,
      hpending, htemps, hdevice, hserial, hrecords, hslotA, hslotB, hcred, fun hroom => ?_⟩
    rw [State.beginReset_warm (State.halt_none_of_working hw)]
    exact State.counterValue_count s.warmReset 54 n hroom
  · rw [State.requestReset_halted k hs hhalt, if_pos hwritten]
  · rw [State.requestReset_halted k hs hhalt, hopen, if_neg Bool.false_ne_true]
  · rw [functionLevelReset_eq hs h1 h6, hw, hen]
    rfl
  · rw [functionLevelReset_eq hs h1 h6, if_neg]
    rcases hno with h | h <;> simp [h]

/-! ### The supply -/

section
variable {s : State}

theorem pwrWarnAssert_warns (hs : s.standby = true) (hw : s.power.warn = false) : exec .pwrWarnAssert s = .next
    ((((({ s with power := { s.power with warn := true, warnSince := s.now } }).emit (.pin .pwrWarnN true)).count 52 0).signal
      0 1 62).ibi) := by
  have hguard : (s.standby && !s.power.warn) = true := by rw [hs, hw]; rfl
  show execPwrWarnAssert s = _
  rw [execPwrWarnAssert, hguard, onlyIf_true]

theorem warnClearRestart_restarts (hw : s.power.warn = true) :
    exec .warnClearRestart s = .next { s with power := { s.power with warnSince := s.now } } := by
  show execWarnClearRestart s = _
  rw [execWarnClearRestart, hw]
  rfl

theorem pwrWarnDeassert_due (hw : s.power.warn = true) (hdue : s.power.warnSince + 1000000 ≤ s.now) :
    exec .pwrWarnDeassert s =
      .next (((({ s with power := { s.power with warn := false } }).emit (.pin .pwrWarnN false)).signal 0 2 62).ibi) := by
  have hguard : (s.power.warn && decide (s.power.warnSince + 1000000 ≤ s.now)) = true := by
    rw [hw, decide_eq_true hdue]
    rfl
  show execPwrWarnDeassert s = _
  rw [execPwrWarnDeassert, hguard, onlyIf_true]

theorem pwrWarnDeassert_early (hearly : s.now < s.power.warnSince + 1000000) : exec .pwrWarnDeassert s = .next s := by
  show execPwrWarnDeassert s = _
  rw [execPwrWarnDeassert, decide_eq_false (Nat.not_le.mpr hearly), Bool.and_false, onlyIf_false]

theorem supplyLoss_eq (hs : s.standby = true) (n : Nat) :
    exec (.supplyLoss n) s = .next (if 20 ≤ n then s.fault (faultOf 6 n) else s) := by
  show execSupplyLoss n s = _
  rw [execSupplyLoss, hs, Bool.true_and]
  by_cases hn : 20 ≤ n
  · rw [decide_eq_true hn, onlyIf_true, if_pos hn]
  · rw [decide_eq_false hn, onlyIf_false, if_neg hn]

theorem standbyOff_dark (h : s.power.boot = .started ∨ ∃ r, s.health.halt = some r ∧ r.recorded = true) :
    exec .standbyOff s = .next s.releasePins.unpowered := by
  have hguard : (s.power.boot == .started || s.health.halt.any fun r => r.recorded) = true := by
    obtain h | ⟨r, hr, hrec⟩ := h
    · rw [h]
      rfl
    · rw [hr, Option.any_some, hrec, Bool.or_true]
  show execStandbyOff s = _
  rw [execStandbyOff, hguard, onlyIf_true]

/-- The pins released, where they were asserted. -/
theorem State.releasePins_outbox (s : State) : s.releasePins.outbox = s.outbox ++
    (if s.health.halt.isSome = true then [.pin .faultN false] else []) ++
      (if s.power.warn = true then [.pin .pwrWarnN false] else []) := by
  unfold State.releasePins State.clearFaultPin
  cases hhalt : s.health.halt.isSome <;> cases hwarn : s.power.warn <;> simp [State.emit, hwarn]

theorem State.releasePins_flash (s : State) : s.releasePins.flash = s.flash := by
  unfold State.releasePins State.clearFaultPin
  cases s.health.halt.isSome <;> cases hwarn : s.power.warn <;> simp [State.emit, hwarn]

end

/-- Settles O38: each event by its own row. -/
theorem supplyEventsWarnCountAndHalt : Obligations.SupplyEventsWarnCountAndHalt := by
  refine fun s => ⟨pwrWarnAssert_warns, warnClearRestart_restarts, pwrWarnDeassert_due, pwrWarnDeassert_early, fun hs => ?_,
    fun h => ⟨_, standbyOff_dark h, rfl, rfl, rfl, (State.releasePins_frame s).only.pending (by decide),
      s.releasePins_flash, s.releasePins_outbox⟩⟩
  refine ⟨?_, ?_, ?_, fun n => ⟨fun hlong => ?_, fun hshort => ?_⟩⟩
  · show execShortResetLevelDip s = _
    rw [execShortResetLevelDip, hs, onlyIf_true]
  · show execOverRangeEntry s = _
    rw [execOverRangeEntry, hs, onlyIf_true]
  · show execInputProtectionDisconnect s = _
    rw [execInputProtectionDisconnect, hs, onlyIf_true]
  · rw [supplyLoss_eq hs, if_pos hlong]
  · rw [supplyLoss_eq hs, if_neg (Nat.not_le.mpr hshort)]

end Sys2Proof.Machine
end


-- ==== Sys2Proof/Proofs/Samples.lean ====
section
/-! The samples of pace, power and temperature, and the power controller (R262 to R267, R271, R438, R450, R451). -/

namespace Sys2Proof.Machine

section
variable {s : State}

theorem onlyIf_eq {c : Bool} (h : c = true) (f : State → State) (s : State) : onlyIf c f s = f s := if_pos h

/-! ### Samples -/

theorem powerSample_eq (hs : s.standby = true) (v i : Nat) : ∃ hold, exec (.powerSample v i) s = .next { s with
    power := { s.power with
      vin := v, iin := i, power := v * i / 1000, vins := (v :: s.power.vins).take 10
      epochSum := s.power.epochSum + v * i / 1000, epochCount := s.power.epochCount + 1
      energy := s.power.energy + v * i / 1000, withhold := hold } } :=
  ⟨_, congrArg Host.Outcome.next (onlyIf_eq hs _ s)⟩

/-- The pace readings of a window taken over. -/
def State.paceTaken (s : State) (rs : List Nat) : State := { s with power := { s.power with
  readings := rs, window := s.now / 1000, windows := (s.power.windows + 1) % 2 ^ 32, paceMin := rs.foldl min 65535 } }

theorem paceWindowEnd_same (rs : List Nat) (h : s.now / 1000 = s.power.window) : exec (.paceWindowEnd rs) s = .next s := by
  show execPaceWindowEnd rs s = _
  rw [execPaceWindowEnd, h, bne_self_eq_false, Bool.and_false, onlyIf_false]

theorem paceWindowEnd_eq {rs : List Nat} (harmed : s.power.armed = true) (hrs : rs.length = 88)
    (hnew : s.now / 1000 ≠ s.power.window) : exec (.paceWindowEnd rs) s = .next
      (match (List.range 88).find? fun n => rs.getD n 0 + 64 < s.floor with
      | none => s.paceTaken rs
      | some n => (s.paceTaken rs).fault { faultOf 3 (rs.getD n 0 + s.floor * 2 ^ 32) with
          unit := n, core := if n < 84 then n / 14 else 7 }) := by
  have hguard : (s.power.armed && rs.length == 88 && s.now / 1000 != s.power.window) = true := by
    rw [harmed, hrs]
    simpa using hnew
  exact congrArg Host.Outcome.next (onlyIf_eq hguard _ s)

theorem paceWindowEnd_paced {rs : List Nat} (harmed : s.power.armed = true) (hrs : rs.length = 88)
    (hnew : s.now / 1000 ≠ s.power.window) (hpace : ∀ n, n < 88 → s.floor ≤ rs.getD n 0 + 64) :
    exec (.paceWindowEnd rs) s = .next (s.paceTaken rs) := by
  have hnone : ((List.range 88).find? fun n => decide (rs.getD n 0 + 64 < s.floor)) = none :=
    List.find?_eq_none.mpr fun n hn => by
      have := hpace n (List.mem_range.mp hn)
      simpa using this
  rw [paceWindowEnd_eq harmed hrs hnew, hnone]

theorem paceWindowEnd_breach {rs : List Nat} (harmed : s.power.armed = true) (hrs : rs.length = 88)
    (hnew : s.now / 1000 ≠ s.power.window) {n : Nat} (hn : n < 88) (hslow : rs.getD n 0 + 64 < s.floor) :
    ∃ h, h.cause = 3 ∧ exec (.paceWindowEnd rs) s = .next ((s.paceTaken rs).fault h) := by
  cases hfind : (List.range 88).find? fun n => decide (rs.getD n 0 + 64 < s.floor) with
  | none => exact absurd (decide_eq_true hslow) (List.find?_eq_none.mp hfind n (List.mem_range.mpr hn))
  | some m => exact ⟨_, rfl, by rw [paceWindowEnd_eq harmed hrs hnew, hfind]⟩

/-- How often in a row a sensor has read above 105.0 °C. -/
def State.overCounts (s : State) (ts : List Int) : List Nat :=
  (List.range 48).map fun n => if 1050 < ts.getD n 0 then s.power.overCount.getD n 0 + 1 else 0

theorem State.overCounts_getD (s : State) (ts : List Int) {n : Nat} (hn : n < 48) :
    (s.overCounts ts).getD n 0 = if 1050 < ts.getD n 0 then s.power.overCount.getD n 0 + 1 else 0 := by
  unfold State.overCounts
  rw [List.getD_eq_getElem?_getD, List.getElem?_map, List.getElem?_range hn]
  rfl

/-- The temperatures of a sample taken over. -/
def State.tempsTaken (s : State) (ts : List Int) : State := { s with power := { s.power with
  temps := ts, overCount := s.overCounts ts
  epochMax := laterMax s.power.epochMax (hottest ts)
  epochDie := laterMax s.power.epochDie (hottest (ts.take 32)) } }

theorem temperatureSample_eq {ts : List Int} (hs : s.standby = true) (hts : ts.length = 48) :
    exec (.temperatureSample ts) s = .next
      (match (List.range 48).find? fun n => 2 ≤ (s.overCounts ts).getD n 0 with
      | none => s.tempsTaken ts
      | some n => (s.tempsTaken ts).fault { faultOf 5 (unsigned 64 (ts.getD n 0)) with
          unit := n, core := if n < 24 then n / 4 else 7 }) := by
  have hguard : (s.standby && ts.length == 48) = true := by rw [hs, hts]; rfl
  exact congrArg Host.Outcome.next (onlyIf_eq hguard _ s)

theorem temperatureSample_cool {ts : List Int} (hs : s.standby = true) (hts : ts.length = 48)
    (hcool : ∀ n, n < 48 → ts.getD n 0 ≤ 1050 ∨ s.power.overCount.getD n 0 = 0) :
    exec (.temperatureSample ts) s = .next (s.tempsTaken ts) := by
  have hnone : ((List.range 48).find? fun n => decide (2 ≤ (s.overCounts ts).getD n 0)) = none := by
    refine List.find?_eq_none.mpr fun n hn => ?_
    have hn := List.mem_range.mp hn
    rw [decide_eq_true_iff, State.overCounts_getD s ts hn]
    have := hcool n hn
    split <;> omega
  rw [temperatureSample_eq hs hts, hnone]

theorem temperatureSample_hot {ts : List Int} (hs : s.standby = true) (hts : ts.length = 48) {n : Nat} (hn : n < 48)
    (hhot : 1050 < ts.getD n 0) (hagain : 1 ≤ s.power.overCount.getD n 0) :
    ∃ h, h.cause = 5 ∧ exec (.temperatureSample ts) s = .next ((s.tempsTaken ts).fault h) := by
  cases hfind : (List.range 48).find? fun n => decide (2 ≤ (s.overCounts ts).getD n 0) with
  | none =>
    refine absurd (decide_eq_true ?_) (List.find?_eq_none.mp hfind n (List.mem_range.mpr hn))
    rw [State.overCounts_getD s ts hn, if_pos hhot]
    omega
  | some m => exact ⟨_, rfl, by rw [temperatureSample_eq hs hts, hfind]⟩

/-! ### The power controller -/

/-- A boundary counts and shows events, and leaves the halt and the built-in test. -/
theorem State.closeEpoch_health (s : State) (avg : Nat) (above hot : Bool) :
    ∃ e, (s.closeEpoch avg above hot).health = { s.health with events := e } := by
  unfold State.closeEpoch
  cases above <;> cases hot <;> exact ⟨_, rfl⟩

theorem epochBoundary_eq (harmed : s.power.armed = true) (hnew : s.now / 10000000 ≠ s.power.epoch)
    (hhalt : s.health.halt = none) (hbist : s.health.bist = none) :
    let avg := if s.power.epochCount = 0 then s.power.power else s.power.epochSum / s.power.epochCount
    let above := decide (10 * s.config.cap * s.power.epochCount < s.power.epochSum)
    let hot := s.power.epochMax.any (1000 < ·)
    exec .epochBoundary s = .next ((s.closeEpoch avg above hot).controlVcore avg above hot
      (s.power.epochMax.all (· < 950))) := by
  intro avg above hot
  have hguard : (s.power.armed && s.now / 10000000 != s.power.epoch) = true := by
    rw [harmed, Bool.true_and, bne_iff_ne]
    exact hnew
  obtain ⟨e, he⟩ := s.closeEpoch_health avg above hot
  refine (congrArg Host.Outcome.next (onlyIf_eq hguard _ s)).trans (congrArg _ (if_pos ?_))
  show ((s.closeEpoch avg above hot).health.halt.isNone && (s.closeEpoch avg above hot).health.bist.isNone) = true
  rw [he, hhalt, hbist]
  rfl

/-- With no change under way a new one is called for. -/
theorem State.changeVcore_begins (hnone : s.power.change = none) {goal : Nat} (hne : s.power.vcore ≠ goal) :
    ∃ c, c.goal = goal ∧ s.changeVcore goal = { s with power := { s.power with change := some c } } := by
  unfold State.changeVcore
  rw [hnone]
  exact ⟨_, rfl, if_neg hne⟩

/-- The count of quiet epochs set. -/
def State.setQuiet (s : State) (n : Nat) : State := { s with power := { s.power with quiet := n } }

/-- Whether the cap lowers VCORE, and whether the heat does. -/
def State.byCap (s : State) (above : Bool) : Bool := above && s.capSetting < s.power.vcore
def State.byHeat (s : State) (hot : Bool) : Bool := hot && s.admission < s.power.vcore

/-- The quiet epochs in a row after one more. -/
def State.quietAfter (s : State) (avg : Nat) (cool : Bool) : Nat :=
  if avg < 9 * s.config.cap && cool then s.power.quiet + 1 else 0

theorem State.controlVcore_eq (hnone : s.power.change = none) (avg : Nat) (above hot cool : Bool) :
    s.controlVcore avg above hot cool =
      if s.byCap above || s.byHeat hot then
        let t := ((s.setQuiet 0).changeVcore (s.power.vcore - 1)).count 44 5
        let t := if s.byCap above then t.event 2 else t
        if s.byHeat hot then (t.count 52 3).event 3 else t
      else if 10 ≤ s.quietAfter avg cool && s.power.vcore < s.config.knob && !s.power.warn then
        ((s.setQuiet 0).changeVcore (s.power.vcore + 1)).count 44 5
      else s.setQuiet (s.quietAfter avg cool) := by
  unfold State.controlVcore
  rw [hnone]
  rfl

section
variable (hnone : s.power.change = none) {avg : Nat} {above hot cool : Bool}
include hnone

theorem State.controlVcore_lowers (hdown : s.byCap above = true ∨ s.byHeat hot = true) :
    let t := s.controlVcore avg above hot cool
    t.power.vcore = s.power.vcore ∧ t.power.quiet = 0 ∧ ∃ c, t.power.change = some c ∧ c.goal + 1 = s.power.vcore := by
  have hpos : 0 < s.power.vcore := by
    simp only [State.byCap, State.byHeat, Bool.and_eq_true, decide_eq_true_eq] at hdown
    omega
  obtain ⟨c, hgoal, hbegun⟩ := State.changeVcore_begins (s := s.setQuiet 0) hnone (goal := s.power.vcore - 1)
    (Nat.ne_of_gt (Nat.sub_one_lt (Nat.ne_of_gt hpos)))
  intro t
  have hpower : t.power = { s.power with quiet := 0, change := some c } := by
    have hturn : (s.byCap above || s.byHeat hot) = true := Bool.or_eq_true _ _ ▸ hdown
    show (s.controlVcore avg above hot cool).power = _
    rw [State.controlVcore_eq hnone, if_pos hturn, hbegun]
    cases s.byCap above <;> cases s.byHeat hot <;> rfl
  rw [hpower]
  exact ⟨rfl, rfl, c, rfl, by omega⟩

theorem State.controlVcore_raises (hcap : s.byCap above = false) (hheat : s.byHeat hot = false)
    (hquiet : 10 ≤ s.quietAfter avg cool) (hknob : s.power.vcore < s.config.knob) (hwarn : s.power.warn = false) :
    let t := s.controlVcore avg above hot cool
    t.power.vcore = s.power.vcore ∧ t.power.quiet = 0 ∧ ∃ c, t.power.change = some c ∧ c.goal = s.power.vcore + 1 := by
  obtain ⟨c, hgoal, hbegun⟩ := State.changeVcore_begins (s := s.setQuiet 0) hnone (goal := s.power.vcore + 1)
    (Nat.ne_of_lt (Nat.lt_succ_self _))
  intro t
  have hpower : t.power = { s.power with quiet := 0, change := some c } := by
    have hturn : (decide (10 ≤ s.quietAfter avg cool) && decide (s.power.vcore < s.config.knob) && !s.power.warn) = true := by
      rw [decide_eq_true hquiet, decide_eq_true hknob, hwarn]
      rfl
    show (s.controlVcore avg above hot cool).power = _
    rw [State.controlVcore_eq hnone, hcap, hheat, Bool.or_false, if_neg Bool.false_ne_true, if_pos hturn, hbegun]
    rfl
  rw [hpower]
  exact ⟨rfl, rfl, c, rfl, hgoal⟩

theorem State.controlVcore_holds (hcap : s.byCap above = false) (hheat : s.byHeat hot = false)
    (hno : s.quietAfter avg cool < 10 ∨ s.config.knob ≤ s.power.vcore ∨ s.power.warn = true) :
    s.controlVcore avg above hot cool = s.setQuiet (s.quietAfter avg cool) := by
  have hturn : ¬ (decide (10 ≤ s.quietAfter avg cool) && decide (s.power.vcore < s.config.knob) && !s.power.warn) = true := by
    rw [Bool.and_eq_true, Bool.and_eq_true, decide_eq_true_eq, decide_eq_true_eq, Bool.not_eq_true']
    rintro ⟨⟨hquiet, hknob⟩, hcalm⟩
    obtain h | h | h := hno
    · omega
    · omega
    · rw [h] at hcalm
      cases hcalm
  rw [State.controlVcore_eq hnone, hcap, hheat, Bool.or_false, if_neg Bool.false_ne_true, if_neg hturn]

end

theorem State.byCap_iff (above : Bool) : s.byCap above = true ↔ above = true ∧ s.capSetting < s.power.vcore := by
  rw [State.byCap, Bool.and_eq_true, decide_eq_true_iff]

theorem State.byHeat_iff (hot : Bool) : s.byHeat hot = true ↔ hot = true ∧ s.admission < s.power.vcore := by
  rw [State.byHeat, Bool.and_eq_true, decide_eq_true_iff]

theorem State.quietAfter_eq (avg : Nat) (cool : Bool) : s.quietAfter avg cool =
    if avg < 9 * s.config.cap ∧ cool = true then s.power.quiet + 1 else 0 := by
  unfold State.quietAfter
  refine ite_congr (propext ?_) (fun _ => rfl) fun _ => rfl
  rw [Bool.and_eq_true, decide_eq_true_iff]

/-! ### The rail -/

theorem reservedSlotStart_inside (h : s.slotTime < 200000) : exec .reservedSlotStart s =
    .next { s with power := { s.power with change := s.power.change.map fun c =>
      { c with moving := c.moving || (!c.commit || s.allBetween) && !(s.power.warn && decide (s.power.vcore < c.goal)) } } } :=
  congrArg Host.Outcome.next (onlyIf_eq (decide_eq_true h) _ s)

theorem reservedSlotStart_outside (h : 200000 ≤ s.slotTime) : exec .reservedSlotStart s = .next s := by
  show execReservedSlotStart s = _
  rw [execReservedSlotStart, decide_eq_false (Nat.not_lt.mpr h), onlyIf_false]

theorem vcoreChangeComplete_outside (h : 200000 ≤ s.slotTime) : exec .vcoreChangeComplete s = .next s := by
  show execVcoreChangeComplete s = _
  rw [execVcoreChangeComplete]
  cases s.power.change with
  | none => rfl
  | some c =>
    rw [withSome_some, decide_eq_true h, Bool.or_true, Bool.true_or, if_pos rfl]

theorem vcoreChangeComplete_busy {c : VChange} (hc : s.power.change = some c) (hcommit : c.commit = true)
    (hbusy : s.allBetween = false) : exec .vcoreChangeComplete s = .next s := by
  show execVcoreChangeComplete s = _
  rw [execVcoreChangeComplete, hc, withSome_some, hcommit, hbusy, Bool.not_false, Bool.and_self, Bool.or_true, if_pos rfl]

theorem State.bistRestored_none (h : s.health.bist = none) : s.bistRestored = s := by
  unfold State.bistRestored
  rw [h]

theorem State.completeAll_bist (ws : List (Nat × Nat)) (s : State) :
    (ws.foldl (fun s w => s.complete w.1 w.2) s).health = s.health := by
  induction ws generalizing s with
  | nil => rfl
  | cons w ws ih => rw [List.foldl_cons, ih, (State.complete_frame s w.1 w.2 0).only.health (by decide)]

theorem vcoreChangeComplete_ends {c : VChange} (hc : s.power.change = some c) (hmoving : c.moving = true)
    (hslot : s.slotTime < 200000) (hready : c.commit = false ∨ s.allBetween = true) (hbist : s.health.bist = none) :
    exec .vcoreChangeComplete s = .next (c.waiters.foldl (fun s w => s.complete w.1 w.2)
      { s with power := { s.power with vcore := c.goal, change := none, floorUntil := s.now + 100000,
                                       floorLow := min c.source c.goal } }) := by
  have hgo : (!c.moving || decide (200000 ≤ s.slotTime) || (c.commit && !s.allBetween)) = false := by
    rw [hmoving, decide_eq_false (Nat.not_le.mpr hslot)]
    obtain h | h := hready <;> simp [h]
  show execVcoreChangeComplete s = _
  rw [execVcoreChangeComplete, hc, withSome_some, hgo, if_neg Bool.false_ne_true]
  refine congrArg _ (State.bistRestored_none ?_)
  rw [State.completeAll_bist]
  exact hbist

end

/-- Settles O41: each sample's row, the controller by what lowers and what raises VCORE, then the rail's own rows. -/
theorem samplesMoveVcoreAndHalt : Obligations.SamplesMoveVcoreAndHalt := by
  refine ⟨fun s => ⟨fun v i hs => ?_, paceWindowEnd_same, fun rs harmed hrs hnew => ⟨paceWindowEnd_paced harmed hrs hnew, ?_⟩,
      fun ts hs hts => ⟨fun hcool hhalt => ⟨_, temperatureSample_cool hs hts hcool, rfl, hhalt⟩,
        fun n hn hhot hagain hhalt => ?_⟩⟩,
    fun s => epochBoundary_eq, fun s avg above hot cool hnone => ?_, fun s => reservedSlotStart_inside,
    fun s h => ⟨reservedSlotStart_outside h, vcoreChangeComplete_outside h⟩, fun s c => vcoreChangeComplete_busy,
    fun s c => vcoreChangeComplete_ends⟩
  · obtain ⟨hold, hexec⟩ := powerSample_eq hs v i
    exact ⟨_, hexec, rfl, rfl, rfl, rfl, rfl, rfl, rfl⟩
  · rintro ⟨n, hn, hslow⟩
    exact paceWindowEnd_breach harmed hrs hnew hn hslow
  · obtain ⟨h, hcause, hexec⟩ := temperatureSample_hot hs hts hn hhot hagain
    exact ⟨_, _, hexec, State.fault_halt_of_none (s := s.tempsTaken ts) hhalt h, hcause⟩
  · intro t down n
    have hdown : down ↔ s.byCap above = true ∨ s.byHeat hot = true := by rw [State.byCap_iff, State.byHeat_iff]
    have hn : s.quietAfter avg cool = n := State.quietAfter_eq avg cool
    by_cases hd : down
    · obtain ⟨hvcore, hquiet, hchange⟩ := State.controlVcore_lowers hnone (avg := avg) (cool := cool) (hdown.mp hd)
      exact ⟨hvcore, fun _ => ⟨hquiet, hchange⟩, fun h => absurd hd h, fun h => absurd hd h⟩
    · obtain ⟨hcap, hheat⟩ := not_or.mp (mt hdown.mpr hd)
      have hcap := Bool.not_eq_true _ ▸ hcap
      have hheat := Bool.not_eq_true _ ▸ hheat
      by_cases hno : n < 10 ∨ s.config.knob ≤ s.power.vcore ∨ s.power.warn = true
      · have hholds : t = s.setQuiet (s.quietAfter avg cool) := State.controlVcore_holds hnone hcap hheat (hn ▸ hno)
        rw [hholds, hn]
        refine ⟨rfl, fun h => absurd h hd, fun _ hten hknob hwarn => ?_, fun _ _ => ⟨rfl, hnone⟩⟩
        rw [hwarn] at hno
        simp only [Bool.false_eq_true, or_false] at hno
        omega
      · have hraise : 10 ≤ n ∧ s.power.vcore < s.config.knob ∧ s.power.warn = false := by
          simpa only [not_or, Nat.not_lt, Nat.not_le, Bool.not_eq_true] using hno
        obtain ⟨hten, hknob, hwarn⟩ := hraise
        obtain ⟨hvcore, hquiet, hchange⟩ := State.controlVcore_raises hnone hcap hheat (hn ▸ hten) hknob hwarn
        exact ⟨hvcore, fun h => absurd h hd, fun _ _ _ _ => ⟨hquiet, hchange⟩, fun _ h => absurd h hno⟩

end Sys2Proof.Machine
end


-- ==== Sys2Proof/Proofs/References.lean ====
section
/-! The chronometer's references (R268 to R270, R475). -/

namespace Sys2Proof.Machine

/-! ### The best visible transmitter -/

theorem Chron.mem_of_best {c : Chron} {r : Nat} (h : c.best = some r) :
    ∃ e ∈ c.heard, e.1 = r ∧ c.ns < e.2.1 + 3 * e.2.2 := by
  obtain ⟨e, he, hr⟩ := List.mem_map.mp (List.mem_of_head? h)
  obtain ⟨he, hvisible⟩ := List.mem_filter.mp he
  exact ⟨e, he, hr, of_decide_eq_true hvisible⟩

/-- Of a list in rising order the head is the lowest. -/
theorem Chron.best_le {c : Chron} {r : Nat} (h : c.best = some r) (hrising : (c.heard.map (·.1)).Pairwise (· < ·))
    {e : Nat × Nat × Nat} (he : e ∈ c.heard) (hvisible : c.ns < e.2.1 + 3 * e.2.2) : r ≤ e.1 := by
  have hsorted : c.visible.Pairwise (· < ·) := hrising.sublist (List.filter_sublist.map _)
  have hmem : e.1 ∈ c.visible := List.mem_map_of_mem (List.mem_filter.mpr ⟨he, decide_eq_true hvisible⟩)
  rw [Chron.best] at h
  cases hlist : c.visible with
  | nil => rw [hlist] at hmem; cases hmem
  | cons a l =>
    rw [hlist] at h hmem hsorted
    obtain rfl := Option.some.inj h
    obtain heq | hin := List.mem_cons.mp hmem
    · exact heq ▸ Nat.le_refl _
    · exact Nat.le_of_lt (List.rel_of_pairwise_cons hsorted hin)

section
variable {s : State}

theorem State.streaming_eq_false (h : s.streams = []) : s.streaming = false := by
  rw [State.streaming, h]
  rfl

theorem State.streaming_eq_true (h : s.streams ≠ []) : s.streaming = true := by
  rw [State.streaming, List.isEmpty_eq_false_iff.mpr h]
  rfl

/-! ### Measurements -/

theorem Chron.measured_near (c : Chron) {off : Int} (h : off.natAbs < 100) (k : Nat) :
    (c.measured off k).good = c.good + 1 ∧ (c.measured off k).state = (if 15 ≤ c.good then k else c.state) ∧
      (c.measured off k).ns = c.ns ∧ (c.measured off k).offset = off ∧
      -109951162 ≤ (c.measured off k).rate ∧ (c.measured off k).rate ≤ 109951162 := by
  unfold Chron.measured
  rw [if_pos h]
  refine ⟨rfl, ite_congr (propext ?_) (fun _ => rfl) fun _ => rfl, rfl, ?_, Int.le_max_left ..,
    Int.max_le.mpr ⟨by decide, Int.min_le_left ..⟩⟩
  · exact Nat.succ_le_succ_iff
  · show max (-2147483647) (min 2147483647 off) = off
    omega

theorem Chron.measured_far (c : Chron) {off : Int} (h : 100 ≤ off.natAbs) (k : Nat) :
    (c.measured off k).good = 0 ∧ (c.measured off k).ns = c.ns :=
  ⟨if_neg (Nat.not_lt.mpr h), rfl⟩

/-- While a stream is open the chronometer is never stepped. -/
theorem State.measure_streaming (h : s.streams ≠ []) (off : Int) (k : Nat) : s.measure off k =
    { s with time := { s.time.measured off k with
      stepHeld := if 100 ≤ off.natAbs then true else (s.time.measured off k).stepHeld } } := by
  unfold State.measure
  extract_lets t
  have hstream : t.streaming = true := State.streaming_eq_true h
  by_cases hfar : 100 ≤ off.natAbs
  · rw [if_pos hfar, if_pos hstream, if_pos hfar]
  · rw [if_neg hfar, if_pos hstream, if_neg hfar]

theorem State.measure_steps (h : s.streams = []) {off : Int} (hfar : 100 ≤ off.natAbs) (k : Nat) :
    s.measure off k = State.stepClock { s with time := s.time.measured off k } ((s.now : Int) - off).toNat := by
  unfold State.measure
  extract_lets t
  have hstream : t.streaming = false := State.streaming_eq_false h
  rw [if_pos hfar, hstream, if_neg Bool.false_ne_true]
  rfl

/-- A step of the chronometer. -/
theorem State.stepClock_time (s : State) (n : Nat) : (s.stepClock n).time.ns = n % 2 ^ 64 ∧ (s.stepClock n).time.frac = 0 ∧
    (s.stepClock n).time.good = s.time.good := ⟨rfl, rfl, rfl⟩

theorem State.stepClock_counted (s : State) (n : Nat) (h : s.counterValue 44 7 < 2 ^ 64 - 1) :
    (s.stepClock n).counterValue 44 7 = s.counterValue 44 7 + 1 :=
  State.counterValue_count { s with time := { s.time with
      ns := n % 2 ^ 64, frac := 0, stepHeld := false, lastMeasure := s.time.moved n s.time.lastMeasure
      heard := Tab.mapVal (fun _ e => (s.time.moved n e.1, e.2)) s.time.heard } } 44 7 h

theorem State.stepClock_event (s : State) (n : Nat) : bitOf (s.stepClock n).health.events 0 = true :=
  bitOf_setBit_self ..

/-! ### Edges -/

theorem ppsGuard (hs : s.standby = true) (hsource : s.time.source = 1) : (s.standby && s.time.source == 1) = true := by
  rw [hs, hsource]
  rfl

/-- A pending second count applied: the chronometer stepped to it. -/
def State.secondsApplied (s : State) (ns : Nat) : State := { s.stepClock ns with
  time := { (s.stepClock ns).time with seconds := none, lastMeasure := (s.stepClock ns).now } }

theorem State.secondsApplied_ns (s : State) (ns : Nat) : (s.secondsApplied ns).time.ns = ns % 2 ^ 64 := rfl
theorem State.secondsApplied_frac (s : State) (ns : Nat) : (s.secondsApplied ns).time.frac = 0 := rfl
theorem State.secondsApplied_seconds (s : State) (ns : Nat) : (s.secondsApplied ns).time.seconds = none := rfl
theorem State.secondsApplied_counted (s : State) (ns : Nat) (h : s.counterValue 44 7 < 2 ^ 64 - 1) :
    (s.secondsApplied ns).counterValue 44 7 = s.counterValue 44 7 + 1 := State.stepClock_counted s ns h
theorem State.secondsApplied_event (s : State) (ns : Nat) : bitOf (s.secondsApplied ns).health.events 0 = true :=
  State.stepClock_event s ns

theorem ppsEdge_steps {n : Nat} (hs : s.standby = true) (hsource : s.time.source = 1) (hseconds : s.time.seconds = some n)
    (hstreams : s.streams = []) : exec .ppsEdge s = .next (s.secondsApplied (n * 1000000000)) := by
  show execPpsEdge s = _
  rw [execPpsEdge, ppsGuard hs hsource, onlyIf_true, hseconds]
  dsimp only
  rw [State.streaming_eq_false hstreams, if_neg Bool.false_ne_true, State.secondsApplied]

theorem ppsEdge_held {n : Nat} (hs : s.standby = true) (hsource : s.time.source = 1) (hseconds : s.time.seconds = some n)
    (hstreams : s.streams ≠ []) : exec .ppsEdge s = .next { s.measure (secondOffset s.now) 1 with
      time := { (s.measure (secondOffset s.now) 1).time with stepHeld := true } } := by
  show execPpsEdge s = _
  rw [execPpsEdge, ppsGuard hs hsource, onlyIf_true, hseconds]
  dsimp only
  rw [State.streaming_eq_true hstreams, if_pos rfl]

theorem ppsEdge_measured (hs : s.standby = true) (hsource : s.time.source = 1) (hseconds : s.time.seconds = none) :
    exec .ppsEdge s = .next (s.measure (secondOffset s.now) 1) := by
  show execPpsEdge s = _
  rw [execPpsEdge, ppsGuard hs hsource, onlyIf_true, hseconds]

/-! ### PTP messages -/

section
variable {p : Nat} {m : PtpMsg} (hs : s.standby = true) (hp : p < 16) (hheard : s.ptpHeard (some p) = true)
  (hdomain : m.domain = s.config.ptpDomain)
include hs hp hheard hdomain

/-- A message that reaches the chronometer acts by its kind. -/
theorem ptpMessage_announce {i : Nat} (hkind : m.kind = .announce i) : exec (.ptpMessage (some p) m) s =
    .next { s with time := { s.time with heard := Tab.put m.rank (s.now, i) s.time.heard } } := by
  show execPtpMessage (some p) m s = _
  rw [execPtpMessage, Option.all_some, decide_eq_true hp, checked_true, hs, hheard, hdomain, beq_self_eq_true, hkind]
  rfl

theorem ptpMessage_sync {off : Int} {i : Nat} (hkind : m.kind = .sync off i) : exec (.ptpMessage (some p) m) s =
    .next (if s.time.best == some m.rank then s.followSync (some p) off i else s) := by
  show execPtpMessage (some p) m s = _
  rw [execPtpMessage, Option.all_some, decide_eq_true hp, checked_true, hs, hheard, hdomain, beq_self_eq_true, hkind]
  rfl

end

/-! ### Holdover -/

theorem holdoverEntry_due (hlocked : s.time.state = 1 ∨ s.time.state = 2)
    (hmissed : s.time.lastMeasure + 3 * s.time.interval ≤ s.now) : exec .holdoverEntry s =
      .next ((({ s with time := { s.time with state := 3, good := 0 } }).count 45 0).event 1) := by
  have hguard : ((s.time.state == 1 || s.time.state == 2) &&
      decide (s.time.lastMeasure + 3 * s.time.interval ≤ s.now)) = true := by
    rw [decide_eq_true hmissed, Bool.and_true, Bool.or_eq_true, beq_iff_eq, beq_iff_eq]
    exact hlocked
  show execHoldoverEntry s = _
  rw [execHoldoverEntry, hguard, onlyIf_true]

theorem holdoverEntry_early (hsoon : s.now < s.time.lastMeasure + 3 * s.time.interval) :
    exec .holdoverEntry s = .next s := by
  show execHoldoverEntry s = _
  rw [execHoldoverEntry, decide_eq_false (Nat.not_le.mpr hsoon), Bool.and_false, onlyIf_false]

theorem holdoverEntry_unlocked (h1 : s.time.state ≠ 1) (h2 : s.time.state ≠ 2) : exec .holdoverEntry s = .next s := by
  show execHoldoverEntry s = _
  rw [execHoldoverEntry, beq_false_of_ne h1, beq_false_of_ne h2, Bool.or_self, Bool.false_and, onlyIf_false]

theorem Chron.interval_seconds {c : Chron} (h : c.state = 1) : c.interval = 1000000000 := if_pos h
theorem Chron.interval_sync {c : Chron} (h : c.state = 2) : c.interval = c.syncInterval := if_neg (by rw [h]; decide)

end

/-- Settles O42: an edge, a PTP message and holdover by their rows; a measurement by its distance. -/
theorem chronometerFollowsItsReference : Obligations.ChronometerFollowsItsReference := by
  refine fun s => ⟨fun n hs hsource hsec hstreams => ?_, fun n hs hsource hsec hstreams => ?_, ppsEdge_measured,
    fun p m hs hp hheard hdomain => ⟨fun i hkind => ptpMessage_announce hs hp hheard hdomain hkind, fun off i hkind => ⟨fun hbest => ?_,
      fun hother => ?_⟩⟩, fun r hr => ⟨Chron.mem_of_best hr, fun hrising e he hvisible => Chron.best_le hr hrising he hvisible⟩,
    fun off k hnear hstreams => ⟨_, rfl, ?_⟩, fun off k hfar => ?_, fun h1 hmissed => ?_, fun h2 hmissed => ?_,
    fun h2 hsoon => ?_, holdoverEntry_unlocked⟩
  · exact ⟨s.secondsApplied _, ppsEdge_steps hs hsource hsec hstreams, s.secondsApplied_ns _, s.secondsApplied_frac _,
      s.secondsApplied_seconds _, s.secondsApplied_counted _, s.secondsApplied_event _⟩
  · refine ⟨_, ppsEdge_held hs hsource hsec hstreams, ?_⟩
    rw [State.measure_streaming hstreams]
    exact ⟨rfl, hsec, rfl⟩
  · rw [ptpMessage_sync hs hp hheard hdomain hkind, hbest, beq_self_eq_true, if_pos rfl]
    rfl
  · rw [ptpMessage_sync hs hp hheard hdomain hkind, beq_false_of_ne hother, if_neg Bool.false_ne_true]
  · rw [State.measure_streaming hstreams]
    exact s.time.measured_near hnear k
  · obtain ⟨hgood, hns⟩ := s.time.measured_far hfar k
    by_cases hstreams : s.streams = []
    · rw [State.measure_steps hstreams hfar]
      obtain ⟨hns, -, hkept⟩ := State.stepClock_time { s with time := s.time.measured off k } ((s.now : Int) - off).toNat
      exact ⟨hkept.trans hgood, fun h => absurd hstreams h, fun _ => hns⟩
    · rw [State.measure_streaming hstreams, if_pos hfar]
      exact ⟨hgood, fun _ => ⟨hns, rfl⟩, fun h => absurd h hstreams⟩
  · refine holdoverEntry_due (.inl h1) ?_
    rw [Chron.interval_seconds h1]
    omega
  · exact holdoverEntry_due (.inr h2) (by rw [Chron.interval_sync h2]; exact hmissed)
  · exact holdoverEntry_early (by rw [Chron.interval_sync h2]; exact hsoon)

end Sys2Proof.Machine
end


-- ==== Sys2Proof/Proofs/VectorOperations.lean ====
section
/-! The rows of the vector operations (R119, R171 to R186, R191, R501). -/

namespace Sys2Proof.Machine

/-! ### The scratchpad while an operation is counted -/

theorem Core.ask_pad (c : Core) (cls requester handle off n : Nat) : (c.ask cls requester handle off n).pad = c.pad := by
  unfold Core.ask
  split <;> rfl

/-- Asking for banks leaves the bytes as they are. -/
theorem foldl_pad {α : Type} {f : Core → α → Core} (hf : ∀ c a, (f c a).pad = c.pad) (l : List α) (c : Core) :
    (l.foldl f c).pad = c.pad := by
  induction l generalizing c with
  | nil => rfl
  | cons a l ih => rw [List.foldl_cons, ih, hf]

theorem VectorStep.asks_pad (v : VectorStep) (c : Core) : (v.asks c).pad = c.pad :=
  (foldl_pad (fun _ _ => Core.ask_pad ..) _ _).trans (foldl_pad (fun _ _ => Core.ask_pad ..) _ _)

theorem State.core_of_cores {s t : State} (h : t.cores = s.cores) (k : Nat) : t.core k = s.core k := by
  rw [State.core, State.core, h]

theorem State.countOp_core (s : State) (k : Nat) (v : VectorStep) (exact_ : Bool) :
    (s.countOp k v exact_).core k = v.asks (s.core k) := by
  have hcounted : (((s.perturbedOn k 1 4).countCore k 41 0 (v.steps exact_)).onCore k v.asks).core k =
      v.asks (s.core k) := by
    rw [State.core_onCore, State.core_of_cores ((State.countCore_frame ..).only.cores (by decide)),
      State.core_of_cores ((State.perturbedOn_frame ..).only.cores (by decide))]
  unfold State.countOp
  extract_lets t
  split
  · rw [State.core_of_cores ((State.countCore_frame ..).only.cores (by decide))]
    exact hcounted
  · exact hcounted

theorem State.countOp_pad (s : State) (k : Nat) (v : VectorStep) (exact_ : Bool) :
    ((s.countOp k v exact_).core k).pad = (s.core k).pad := by
  rw [State.countOp_core, VectorStep.asks_pad]

/-! ### The rows -/

section
variable {s : State} {k rid i : Nat} {x : Route} {v : VectorStep}

/-- A vector row acts on the core's dispatched step. -/
theorem vectorRow_eq (h : s.HasVector k rid i x v) {op : VecOp} (hop : v.op = op)
    (f : Nat → Nat → Route → VectorStep → State → State) : vectorRow k op s f = .next (f rid i x v s) := by
  obtain ⟨r, hr⟩ := h.route
  refine (controlRow_eq h.works h.core h.step _).trans ?_
  dsimp only
  rw [hr, withSome_some, if_pos hop]

theorem plainRow_eq (h : s.HasVector k rid i x v) {op : VecOp} (hop : v.op = op)
    (f : Bool → VectorStep → Core → Option VecResult) :
    plainRow k op s f = .next (s.vector k rid i v (v.exactPath x) (f (v.exactPath x))) := vectorRow_eq h hop _

theorem State.vector_writes (exact_ : Bool) {f : VectorStep → Core → Option VecResult} {res : VecResult} {c : Core}
    (hf : f v ((s.countOp k v exact_).core k) = some res)
    (hc : ((s.countOp k v exact_).core k).writeAll res.writes = some c) :
    s.vector k rid i v exact_ f = (s.countOp k v exact_).vectorEnds k rid i c res.count := by
  unfold State.vector
  dsimp only
  rw [hf]
  dsimp only
  rw [hc]

theorem State.vector_fails (exact_ : Bool) {f : VectorStep → Core → Option VecResult}
    (h : f v ((s.countOp k v exact_).core k) = none ∨ ∃ res, f v ((s.countOp k v exact_).core k) = some res ∧
      ((s.countOp k v exact_).core k).writeAll res.writes = none) :
    s.vector k rid i v exact_ f = (s.countOp k v exact_).failRun rid .badParam := by
  unfold State.vector
  dsimp only
  obtain hf | ⟨res, hf, hc⟩ := h
  · rw [hf]
  · rw [hf]
    dsimp only
    rw [hc]

/-! ### CONVERT and SCATTER_ADD -/

theorem vecConvert_plain (h : s.HasVector k rid i x v) (hop : v.op = .convert) (hplain : v.narrows = false) :
    exec (.vecConvert k) s = .next (s.vector k rid i v (v.exactPath x) VectorStep.plainConvert) := by
  show execVecConvert k s = _
  rw [execVecConvert, vectorRow_eq h hop, hplain, Bool.not_false, if_pos rfl]

theorem vecConvert_narrowing (h : s.HasVector k rid i x v) (hop : v.op = .convert) (hnarrow : v.narrows = true)
    {r : Run} {xs : List Value} (hr : s.run rid = some r)
    (hxs : v.values ((s.countOp k v (v.exactPath x)).core k) v.a v.total = some xs) :
    exec (.vecConvert k) s = .next ((s.countOp k v (v.exactPath x)).narrowing k rid i r v
      (if v.ints then xs.map fun a => .int (int32 (a.load true).bits) else xs.map fun a => .fp a.toFp)
      (if v.ints then countAll (xs.map fun a => (a.load true).count) else {})) := by
  have hrun : (s.countOp k v (v.exactPath x)).run rid = some r := by
    rw [State.run, (State.countOp_frame ..).only.runs (by decide)]
    exact hr
  show execVecConvert k s = _
  rw [execVecConvert, vectorRow_eq h hop, hnarrow, Bool.not_true, if_neg Bool.false_ne_true]
  dsimp only
  rw [hrun, hxs]
  dsimp only
  cases v.ints
  · rfl
  · rw [if_pos rfl, if_pos rfl, if_pos rfl, List.map_map, List.map_map]
    rfl

theorem vecScatterAdd_opens (h : s.HasVector k rid i x v) (hop : v.op = .scatterAdd) {xs : List VOut} {idx : Bytes}
    (hxs : v.operand ((s.countOp k v (v.exactPath x)).core k) v.a v.total = some xs)
    (hidx : ((s.countOp k v (v.exactPath x)).core k).readPad v.b.handle v.b.offset (4 * v.rows) = some idx) :
    exec (.vecScatterAdd k) s = .next (((s.countOp k v (v.exactPath x)).setCore k
      { (s.countOp k v (v.exactPath x)).core k with
        running := .scattering rid i
        scatter := some (v.scatterGroup x.exact ((List.range v.rows).map fun r => leAt idx (4 * r) 4) xs) }).countVector
          k rid (countAll (xs.map (·.count)))) := by
  show execVecScatterAdd k s = _
  rw [execVecScatterAdd, vectorRow_eq h hop]
  dsimp only
  rw [hxs, hidx]

end

/-- Settles O43: every row of the table of plain operations is a `plainRow`; CONVERT and SCATTER_ADD by their own. -/
theorem vectorOperationsWriteTheirResults : Obligations.VectorOperationsWriteTheirResults := by
  refine ⟨fun s k rid i x v h q hq hop => ?_, fun s k rid i x v h => ⟨State.countOp_pad .., fun hop hplain res c hres hc => ?_,
    fun hop hnarrow r xs hr hxs => vecConvert_narrowing h hop hnarrow hr hxs, fun hop xs idx hxs hidx =>
      ⟨_, vecScatterAdd_opens h hop hxs hidx, rfl, rfl, rfl, ?_, rfl, rfl⟩⟩⟩
  · have hrow : exec q.1 s = plainRow k q.2.1 s q.2.2 := by
      revert q
      repeat' refine List.forall_mem_cons.mpr ⟨fun _ => rfl, ?_⟩
      exact fun _ h => nomatch h
    refine ⟨State.countOp_pad .., fun res c hres hc => ?_, fun hbad => ?_⟩
    · rw [hrow, plainRow_eq h hop, State.vector_writes _ hres hc]
    · rw [hrow, plainRow_eq h hop, State.vector_fails _ hbad]
  · rw [vecConvert_plain h hop hplain, State.vector_writes _ hres hc]
  · rw [VectorStep.scatterGroup, List.length_map, List.length_zipIdx]

end Sys2Proof.Machine
end


-- ==== Sys2Proof/Proofs/Tiles.lean ====
section
/-! Claims and guests, the tile queue and its checks, and the lanes loaded (R22, R37, R40, R41, R50, R111, R214, R216,
R229 to R231, R242). -/

namespace Sys2Proof.Machine

section
variable {s : State} {k a rid i : Nat} {e : LayerExec} {r : Run} {x : Route}

/-- The row of an array acts on the layer step its core runs. -/
theorem arrayRow_eq (h : s.HasLayer k a rid i e r x) (f : Nat → Nat → LayerExec → State → State) :
    arrayRow k a s f = .next (f rid i e s) := by
  rw [arrayRow, decide_eq_true h.core, decide_eq_true h.array, Bool.and_self, checked_true, h.works, onlyIf_true, h.layer,
    withSome_some]

theorem laneRow_eq (h : s.HasLayer k a rid i e r x) {l : Nat} (hl : l < 128)
    (f : Nat → Nat → LayerExec → State → State) : laneRow k a l s f = .next (f rid i e s) := by
  rw [laneRow, if_pos hl, arrayRow_eq h]

/-! ### Claims and guests -/

/-- Whether an array may claim its next column: it has none, and the one in work has entered its queue whole. -/
def ArrayState.mayClaim (q : ArrayState) (perK : Nat) : Bool :=
  !(q.next.isSome || q.claiming || q.exhausted || !q.column.all fun c => c.allFetched perK)

theorem ArrayState.mayClaim_iff (q : ArrayState) (perK : Nat) : q.mayClaim perK = true ↔
    q.next = none ∧ q.claiming = false ∧ q.exhausted = false ∧ ∀ c, q.column = some c → c.allFetched perK = true := by
  cases hcolumn : q.column <;> simp [ArrayState.mayClaim, hcolumn, and_assoc]

theorem columnClaim_eq (h : s.HasLayer k a rid i e r x) : exec (.columnClaim k a) s = .next
    (if e.finished || (e.team a).head? != some a ||
        !(e.team a).all fun j => ((s.core k).array j).mayClaim e.layer.tilesPerK then s
      else (s.claimColumn k a e).advance k) := by
  show execColumnClaim k a s = _
  rw [execColumnClaim, arrayRow_eq h]
  rfl

theorem columnClaim_claims (h : s.HasLayer k a rid i e r x) (hopen : e.finished = false) (hfirst : (e.team a).head? = some a)
    (hready : ∀ j ∈ e.team a, ((s.core k).array j).mayClaim e.layer.tilesPerK = true) :
    exec (.columnClaim k a) s = .next ((s.claimColumn k a e).advance k) := by
  rw [columnClaim_eq h, hopen, hfirst, List.all_eq_true.mpr hready, bne_self_eq_false]
  rfl

theorem columnClaim_waits (h : s.HasLayer k a rid i e r x) (hno : (e.team a).head? ≠ some a ∨ e.finished = true ∨
    ((s.core k).array a).mayClaim e.layer.tilesPerK = false) : exec (.columnClaim k a) s = .next s := by
  rw [columnClaim_eq h, if_pos]
  obtain hother | hdone | hbusy := hno
  · simp [hother]
  · simp [hdone]
  · by_cases hfirst : (e.team a).head? = some a
    · have hall : ((e.team a).all fun j => ((s.core k).array j).mayClaim e.layer.tilesPerK) = false :=
        List.all_eq_false.mpr ⟨a, List.mem_of_head? hfirst, by rw [hbusy]; exact Bool.false_ne_true⟩
      rw [hall, Bool.not_false, Bool.or_true]
    · simp [hfirst]

theorem LayerExec.team_alone (hshared : e.claimsShared = false) : e.team a = [a] := by
  rw [LayerExec.team, hshared]
  rfl

theorem guestAttach_joins (h : s.HasLayer k a rid i e r x) {c : Column} (hnext : ((s.core k).array a).next = some c)
    (hfree : c.attached = false) (hidle : ((s.core k).array a).column = none) (htile : ((s.core k).band c.band).tile = 0)
    (hpos : ((s.core k).band c.band).pos = 0) :
    exec (.guestAttach k a) s = .next (s.setCore k (((s.core k).setArray a { (s.core k).array a with
      next := some { c with attached := true, sweep := ((s.core k).band c.band).sweep } }).setBand c.band
        { (s.core k).band c.band with guests := ((s.core k).band c.band).guests.filter (· != a) ++ [a] })) := by
  show execGuestAttach k a s = _
  rw [execGuestAttach, arrayRow_eq h]
  dsimp only
  rw [hnext]
  dsimp only
  rw [hfree, hidle, htile, hpos]
  rfl

/-! ### The tile queue -/

theorem LayerExec.gang_alone (horder : e.order ≠ .rows) : e.gang a = [a] := by
  unfold LayerExec.gang
  cases ho : e.order with
  | rows => exact absurd ho horder
  | _ => rfl

theorem tileFetch_enters (h : s.HasLayer k a rid i e r x) {c : Column} (hcond : e.condition ≠ .forward)
    (horder : e.order ≠ .rows) (hc : ((s.core k).array a).fetching e.layer.tilesPerK = some c)
    (hroom : ((s.core k).array a).queue.length < 2) : exec (.tileFetch k a) s = .next (s.setCore k ((s.core k).setArray a
      { ((s.core k).array a).fetched c.ordinal with queue := ((s.core k).array a).queue ++ [e.fetchOf x c] })) := by
  have htakes : ((s.core k).array a).takes e.layer.tilesPerK c = true := by
    rw [ArrayState.takes, decide_eq_true hroom, hc, Option.any_some, beq_self_eq_true, beq_self_eq_true]
    rfl
  have henqueue : ((s.core k).array a).enqueue e x =
      { ((s.core k).array a).fetched c.ordinal with queue := ((s.core k).array a).queue ++ [e.fetchOf x c] } := by
    rw [ArrayState.enqueue, hc]
  show execTileFetch k a s = _
  rw [execTileFetch, arrayRow_eq h, h.route, withSome_some]
  dsimp only
  rw [if_neg hcond, hc, withSome_some, LayerExec.gang_alone horder, List.all_cons, htakes, List.all_nil, Bool.and_self,
    if_pos rfl, ← henqueue]
  rfl

/-- The bytes of a tile asked for, as they arrive. -/
theorem tileReturns_eq (h : s.HasLayer k a rid i e r x) {q : QTile} {pa : Nat} {line payload : Bytes} (resp : LinkResponse)
    (hq : ((s.core k).array a).queue.find? (fun q => q.line.isEmpty && !q.checked) = some q)
    (hpa : s.phys x.partition q.addr = some pa) (hread : s.readTile x.partition q.addr = some (line, payload)) :
    exec (.memoryReadResponse k a (.tile resp)) s = .next (if s.asleep pa (64 + payload.length) then s
      else (if linkFails resp then ((s.request pa (64 + payload.length)).perturbedOn k 3 0).countCore k 42 0
          else (s.request pa (64 + payload.length)).perturbedOn k 3 0).onCore k fun c => c.onTile (e.gang a) q fun t =>
            { t with line := (delivered resp line payload).1, payload := (delivered resp line payload).2 }) := by
  show execMemoryReadResponse k a (.tile resp) s = _
  rw [execMemoryReadResponse, arrayRow_eq h, State.tileReturns, h.route, withSome_some]
  dsimp only
  rw [hq, withSome_some, hpa, hread]

theorem delivered_sound {resp : LinkResponse} (h : linkFails resp = false) (line payload : Bytes) :
    delivered resp line payload = (line, payload) := by
  rw [delivered, h, if_neg Bool.false_ne_true]

theorem delivered_damaged {resp : LinkResponse} (h : linkFails resp = true) (line payload : Bytes) :
    delivered resp line payload = ((flipBytes (line ++ payload) resp.flips).take 64,
      (flipBytes (line ++ payload) resp.flips).drop 64) := by
  rw [delivered, h, if_pos rfl]

theorem linkFails_eq_false {resp : LinkResponse} (h : resp.firstFails = false ∨ resp.secondFails = false) :
    linkFails resp = false := by
  obtain h | h := h
  · rw [linkFails, h, Bool.false_and]
  · rw [linkFails, h, Bool.and_false]

theorem memoryReadResponse_line (k a : Nat) {n : Nat} (resp : LinkResponse) (hn : n < 2 ^ 34) :
    exec (.memoryReadResponse k a (.line n resp)) s = .next { s with links := s.links ++ [(n, resp)] } := by
  show execMemoryReadResponse k a (.line n resp) s = _
  rw [execMemoryReadResponse, decide_eq_true hn, checked_true]

/-- The oldest tile that has arrived is checked against its column. -/
theorem tileArrival_eq (h : s.HasLayer k a rid i e r x) {q : QTile} {c : Column}
    (hq : ((s.core k).array a).queue.find? (fun q => !q.line.isEmpty && !q.checked) = some q) (hhalf : q.half ≠ neuronMark)
    (hc : ((s.core k).array a).columnOf q.ordinal = some c) : exec (.tileArrival k a) s =
      .next (s.tileChecked k a rid r x e q (checkTile (e.expects c q) q.addr q.line q.payload)) := by
  show execTileArrival k a s = _
  rw [execTileArrival, arrayRow_eq h, h.route, withSome_some]
  dsimp only
  rw [hq, withSome_some, if_neg hhalf, hc, withSome_some]

theorem State.tileChecked_good {q : QTile} (hfresh : q.retried = false) (hhalf : q.half ≠ neuronMark) :
    s.tileChecked k a rid r x e q .good =
      s.onCore k fun c => c.onTile (e.gang a) q fun t => { t with checked := true } := by
  show (if q.half = neuronMark then _ else _) = _
  rw [if_neg hhalf, hfresh, if_neg Bool.false_ne_true]

theorem State.tileChecked_again {q : QTile} (hretried : q.retried = true) :
    s.tileChecked k a rid r x e q .mismatch = (s.countTile x.partition .mismatch).failRun rid .sealFault (q.addr / 64) := by
  refine if_pos ?_
  rw [hretried, Bool.true_or]

/-! ### Lanes loaded -/

theorem recoderLoad_loads (h : s.HasLayer k a rid i e r x) {t : QTile} {rest : List QTile} {c : Column}
    (hqueue : ((s.core k).array a).queue = t :: rest) (hchecked : t.checked = true)
    (hc : ((s.core k).array a).columnOf t.ordinal = some c) (htable : e.layer.isTable = false) :
    exec (.recoderLoad k a) s = .next
      (if (((s.core k).array a).lane (2 * ((s.core k).array a).loading)).shadow.isSome ||
          (((s.core k).array a).lane (2 * ((s.core k).array a).loading + 1)).shadow.isSome then s
      else (((s.onCore k (e.askGather a c t)).perturbedOn k 1 2).onCore k fun z => z.setArray a
        (let i := 2 * ((s.core k).array a).loading
        let w := (((s.core k).array a).loadLane t i (e.load c t i).pes).loadLane t (i + 1) (e.load c t (i + 1)).pes
        if i + 2 < 128 then { w with loading := w.loading + 1 } else { w with loading := 0, queue := rest })).countDrops k rid
          ((e.load c t (2 * ((s.core k).array a).loading)).drops +
            (e.load c t (2 * ((s.core k).array a).loading + 1)).drops) e.exact) := by
  show execRecoderLoad k a s = _
  rw [execRecoderLoad, arrayRow_eq h]
  dsimp only
  rw [hqueue]
  dsimp only
  rw [hc, withSome_some, htable, hchecked, Bool.not_true, Bool.false_or, Bool.false_or]

theorem State.countDrops_zero (s : State) (k rid : Nat) (exact_ : Bool) : s.countDrops k rid 0 exact_ = s := if_pos rfl

theorem ArrayState.lane_setLane (w : ArrayState) (l : Nat) (y : Lane) : (w.setLane l y).lane l = y := Tab.getD_put_self ..

theorem ArrayState.shadow_loadLane (w : ArrayState) (t : QTile) (l : Nat) (pes : List Pe) :
    ((w.loadLane t l pes).lane l).shadow = some { ordinal := t.ordinal, tile := t.tile, pes := pes } := by
  rw [ArrayState.loadLane, ArrayState.lane_setLane]

theorem State.renewClaim_own (s : State) (k : Nat) (c : Column) (hshared : e.claimsShared = false) :
    s.renewClaim k e c = s := by
  rw [State.renewClaim, hshared]
  rfl

theorem laneTileSwitch_eq (h : s.HasLayer k a rid i e r x) {l : Nat} {c : Column} {g : LaneReg} (hl : l < 128)
    (hc : ((s.core k).array a).column.or ((s.core k).array a).next = some c)
    (hg : (((s.core k).array a).lane l).shadow = some g) (hshared : e.claimsShared = false) :
    exec (.laneTileSwitch k a l) s = .next (if !e.switches c (((s.core k).array a).lane l) g then s
      else s.setCore k ((s.core k).setArray a (((s.core k).array a).setLane l { ((s.core k).array a).lane l with
        active := some g, shadow := none, seen := 0, stepNo := 0 }))) := by
  show execLaneTileSwitch k a l s = _
  rw [execLaneTileSwitch, laneRow_eq h hl]
  dsimp only
  rw [hc, hg]
  dsimp only
  rw [State.renewClaim_own _ _ _ hshared, ite_self]
  rfl

theorem LayerExec.switches_own {c : Column} {y : Lane} {g : LaneReg} (h : g.ordinal = c.ordinal) :
    e.switches c y g = y.tileDone c (e.perTile c) := if_pos h

theorem residencyLoad_eq (h : s.HasLayer k a rid i e r x) {t u : QTile} {rest : List QTile} {c : Column}
    (hqueue : ((s.core k).array a).queue = t :: u :: rest) (hc : ((s.core k).array a).column = some c)
    (htable : e.layer.isTable = true) (ht : t.checked = true) (hu : u.checked = true) (hto : t.ordinal = c.ordinal)
    (huo : u.ordinal = c.ordinal) (hshared : e.claimsShared = false)
    (hdone : ∀ l, l < 128 → (((s.core k).array a).lane l).tileDone c (e.perTile c) = true) :
    exec (.residencyLoad k a) s = .next (if !isResidency t u then s.failRun rid .metaFault
      else s.setCore k ((s.core k).setArray a { (s.core k).array a with
        queue := rest
        lanes := (List.range 128).map fun l => (l, { ((s.core k).array a).lane l with
          active := some { ordinal := c.ordinal, tile := t.tile, pes := tableLane t.payload u.payload l }
          seen := 0, stepNo := 0 }) })) := by
  have hall : ((List.range 128).all fun l => (((s.core k).array a).lane l).tileDone c (e.perTile c)) = true :=
    List.all_eq_true.mpr fun l hl => hdone l (List.mem_range.mp hl)
  have hturn : ¬ (!e.layer.isTable || !((List.range 128).all fun l => (((s.core k).array a).lane l).tileDone c (e.perTile c)) ||
      !t.checked || !u.checked || t.ordinal != c.ordinal || u.ordinal != c.ordinal) = true := by
    rw [htable, hall, ht, hu, hto, huo, bne_self_eq_false]
    exact Bool.false_ne_true
  show execResidencyLoad k a s = _
  rw [execResidencyLoad, arrayRow_eq h]
  dsimp only
  rw [hc, hqueue]
  dsimp only
  rw [if_neg hturn, State.renewClaim_own _ _ _ hshared, ite_self]
  rfl

end

/-- Settles O47: claims, the queue, then the lanes, each by its row. -/
theorem tilesAreClaimedCheckedAndLoaded : Obligations.TilesAreClaimedCheckedAndLoaded := by
  refine ⟨fun s k a rid i e r x h => ⟨fun hopen hfirst hready => ?_, LayerExec.team_alone, fun hno => ?_,
      fun c hnext hfree hidle htile hpos => guestAttach_joins h hnext hfree hidle htile hpos⟩,
    fun s k a rid i e r x h => ⟨fun c hcond horder hc hroom => tileFetch_enters h hcond horder hc hroom,
      fun q pa line payload resp hq hpa hread => ⟨fun hasleep => ?_, fun hawake hsound => ?_, fun hawake hfirst hsecond => ?_⟩,
      fun n resp hn => memoryReadResponse_line k a resp hn,
      fun q c hq hhalf hc => ⟨fun hcheck hfresh => ?_, fun hcheck hretried => ?_, fun hcheck => ?_, fun hcheck => ?_⟩⟩,
    fun s k a rid i e r x h => ⟨fun t rest c hqueue hchecked hc htable => ⟨fun h0 h1 hd0 hd1 => ?_, fun hfull => ?_⟩,
      fun w t i pes => w.shadow_loadLane t i pes,
      fun l c g hl hc hg hshared => ⟨fun hyes => ?_, fun hno => ?_, LayerExec.switches_own⟩,
      fun t u rest c hqueue hc htable ht hu hto huo hshared hdone => ⟨fun hpair => ?_, fun hodd => ?_⟩⟩⟩
  · exact columnClaim_claims h hopen hfirst fun j hj => (ArrayState.mayClaim_iff ..).mpr (hready j hj)
  · refine columnClaim_waits h (hno.imp_right (Or.imp_right fun hbusy => ?_))
    rw [← Bool.not_eq_true, ArrayState.mayClaim_iff]
    rintro ⟨hnext, hclaiming, hexhausted, -⟩
    simp [hnext, hclaiming, hexhausted] at hbusy
  · rw [tileReturns_eq h resp hq hpa hread, if_pos hasleep]
  · have hlink := linkFails_eq_false hsound
    rw [tileReturns_eq h resp hq hpa hread, hawake, if_neg Bool.false_ne_true, hlink, if_neg Bool.false_ne_true,
      delivered_sound hlink]
  · have hlink : linkFails resp = true := by rw [linkFails, hfirst, hsecond]; rfl
    refine ⟨_, rfl, ?_⟩
    rw [tileReturns_eq h resp hq hpa hread, hawake, if_neg Bool.false_ne_true, if_pos hlink, delivered_damaged hlink]
  · rw [tileArrival_eq h hq hhalf hc, hcheck, State.tileChecked_good hfresh hhalf]
  · rw [tileArrival_eq h hq hhalf hc, hcheck, State.tileChecked_again hretried]
  · rw [tileArrival_eq h hq hhalf hc, hcheck]
    rfl
  · rw [tileArrival_eq h hq hhalf hc, hcheck]
    rfl
  · rw [recoderLoad_loads h hqueue hchecked hc htable, h0, h1, hd0, hd1, Option.isSome_none, Bool.or_self,
      if_neg Bool.false_ne_true, State.countDrops_zero]
  · rw [recoderLoad_loads h hqueue hchecked hc htable, if_pos (Bool.or_eq_true _ _ ▸ hfull)]
  · rw [laneTileSwitch_eq h hl hc hg hshared, hyes]
    rfl
  · rw [laneTileSwitch_eq h hl hc hg hshared, hno]
    rfl
  · rw [residencyLoad_eq h hqueue hc htable ht hu hto huo hshared hdone, hpair]
    rfl
  · rw [residencyLoad_eq h hqueue hc htable ht hu hto huo hshared hdone, hodd]
    rfl

end Sys2Proof.Machine
end


-- ==== Sys2Proof/Proofs/Lanes.lean ====
section
/-! Streams read and fed, lane steps and promotions (R28 to R31, R38, R39, R131, R134). -/

namespace Sys2Proof.Machine

section
variable {s : State} {k a rid i : Nat} {e : LayerExec} {r : Run} {x : Route}

/-! ### Streams -/

/-- A band whose FIFO is full reads nothing, whatever it works for. -/
theorem bandRead_full (h : s.HasLayer k a rid i e r x) {b : Nat} (hb : b < 12)
    (hfull : 16 ≤ ((s.core k).band b).fifo.length) : exec (.bandRead k b) s = .next s := by
  show execBandRead k b s = _
  rw [execBandRead, decide_eq_true h.core, decide_eq_true hb, Bool.and_self, checked_true, h.works, onlyIf_true, h.layer,
    withSome_some]
  cases hj : e.bandBlock b with
  | none =>
    dsimp only
    rw [hj]
  | some j =>
    dsimp only
    rw [hj, h.route]
    exact congrArg _ (if_pos (by simp [hfull]))

theorem bandRead_reads (h : s.HasLayer k a rid i e r x) {b j : Nat} {vs : List Int} {u : State} (hb : b < 12)
    (hj : e.bandBlock b = some j) (hopen : e.finished = false) (hroom : ((s.core k).band b).fifo.length < 16)
    (hbegin : (((s.core k).band b).tile = 0 ∧ ((s.core k).band b).pos = 0) →
      (s.core k).sweepBegins b ((s.core k).band b).sweep = true)
    (hready : s.awaits k r e j ((s.core k).band b).tile = false)
    (hvec : s.streamVector k x e j ((s.core k).band b).tile ((s.core k).band b).pos = (u, .ok vs)) :
    exec (.bandRead k b) s = .next ((u.perturbedOn k 1 1).onCore k fun z =>
      ((e.askStream b j ((s.core k).band b).tile ((s.core k).band b).pos z).setBand b
      ({ (s.core k).band b with fifo := ((s.core k).band b).fifo ++ [StreamVec.mk ((s.core k).band b).sweep
          ((s.core k).band b).tile ((s.core k).band b).pos vs] }.advance
        (e.layer.positions j) e.layer.kTiles)).trimBand b (e.sweepLength j)) := by
  have hstart : (((s.core k).band b).tile == 0 && ((s.core k).band b).pos == 0 &&
      !(s.core k).sweepBegins b ((s.core k).band b).sweep) = false := by
    by_cases hzero : ((s.core k).band b).tile = 0 ∧ ((s.core k).band b).pos = 0
    · rw [hbegin hzero, Bool.not_true, Bool.and_false]
    · have hmoved : (((s.core k).band b).tile == 0 && ((s.core k).band b).pos == 0) = false := by
        simpa [Bool.and_eq_false_imp] using hzero
      rw [hmoved, Bool.false_and]
  show execBandRead k b s = _
  rw [execBandRead, decide_eq_true h.core, decide_eq_true hb, Bool.and_self, checked_true, h.works, onlyIf_true, h.layer,
    withSome_some]
  dsimp only
  rw [hj, h.route]
  dsimp only
  rw [hopen, decide_eq_false (Nat.not_le.mpr hroom), hstart, hready, Bool.or_self, Bool.or_self, Bool.or_self,
    if_neg Bool.false_ne_true, hvec]

/-- An array with a column in work begins none. -/
theorem ArrayState.begin_working {q : ArrayState} {c : Column} (hc : q.column = some c) (len : Nat) :
    q.begin e len = q := by
  rw [ArrayState.begin, hc]

theorem feedVector_feeds (h : s.HasLayer k a rid i e r x) {c : Column} {v : StreamVec}
    (hc : ((s.core k).array a).column = some c)
    (hbase : ((s.core k).band c.band).fifoBase ≤ ((s.core k).array a).feedAt)
    (hv : ((s.core k).band c.band).fifo[((s.core k).array a).feedAt - ((s.core k).band c.band).fifoBase]? = some v)
    (hsweep : ((s.core k).array a).feedAt < (c.sweep + 1) * e.sweepLength c.block) :
    exec (.feedVector k a) s = .next ((s.perturbedOn k 1 1).setCore k
      (((s.core k).setArray a (((s.core k).array a).feed e c v)).trimBand c.band (e.sweepLength c.block))) := by
  show execFeedVector k a s = _
  rw [execFeedVector, arrayRow_eq h]
  dsimp only
  rw [hc]
  dsimp only
  rw [withSome_some, ArrayState.begin_working hc, hc]
  dsimp only
  rw [if_neg (Nat.not_lt.mpr hbase), hv]
  dsimp only
  rw [if_neg (Nat.not_le.mpr hsweep)]

theorem ArrayState.fed_feed {q : ArrayState} {c : Column} {v : StreamVec} (hroom : q.fed.length < 8)
    (hforward : e.layer.transposed = false) (hlo : c.first ≤ v.tile) (hhi : v.tile < c.first + c.tiles) :
    (q.feed e c v).fed = q.fed ++ [e.entry c v q.feedSlice] := by
  unfold ArrayState.feed
  rw [if_neg (by omega), if_neg (by omega), hforward]
  dsimp only
  by_cases hmore : q.feedSlice + 1 < e.layer.slices
  · exact congrArg ArrayState.fed (if_pos hmore)
  · exact congrArg ArrayState.fed (if_neg hmore)

/-! ### Steps -/

theorem laneStep_steps (h : s.HasLayer k a rid i e r x) {l : Nat} {c : Column} {v : Fed} {g : LaneReg} {p : Nat × Nat × Nat}
    {rest : List (Nat × Nat × Nat)} (hl : l < 128) (hc : ((s.core k).array a).column = some c)
    (hentry : ((s.core k).array a).entryOf c l = some (v, g)) (hforward : e.layer.transposed = false)
    (hsched : e.schedule c l v g = (e.schedule c l v g).take (((s.core k).array a).lane l).stepNo ++ p :: rest)
    (hrest : rest ≠ []) (hno : (((s.core k).array a).lane l).stepNo =
      ((e.schedule c l v g).take (((s.core k).array a).lane l).stepNo).length) :
    exec (.laneStep k a l) s = .next (((s.perturbedOn k 1 0).setCore k ((s.core k).setArray a
      (((s.core k).array a).setLane l (e.stepLane v g p (((s.core k).array a).lane l))).trimFed)).finishColumn k a e) := by
  have hstep : (e.schedule c l v g)[(((s.core k).array a).lane l).stepNo]? = some p := by
    rw [hsched, List.getElem?_append_right (Nat.le_of_eq hno.symm), ← hno, Nat.sub_self, List.getElem?_cons_zero]
  have hmore : (e.stepLane v g p (((s.core k).array a).lane l)).stepNo < (e.schedule c l v g).length := by
    have hlen := List.length_pos_iff.mpr hrest
    show (((s.core k).array a).lane l).stepNo + 1 < _
    rw [hsched, List.length_append, List.length_cons, ← hno]
    omega
  have hscatter : ((s.core k).scatter.map fun q => { q with waiting := q.waiting ++ [] }) = (s.core k).scatter := by
    cases (s.core k).scatter with
    | none => rfl
    | some q => rw [Option.map_some, List.append_nil]
  show execLaneStep k a l s = _
  rw [execLaneStep, laneRow_eq h hl]
  dsimp only
  rw [hc, withSome_some, hentry, withSome_some]
  dsimp only
  rw [hforward, Bool.false_and, if_neg Bool.false_ne_true]
  simp only [hstep, Bool.false_eq_true, if_false, hmore, if_true]
  show Host.Outcome.next (State.finishColumn (State.setCore _ k { (s.core k).setArray a _ with
    scatter := (s.core k).scatter.map fun q => { q with waiting := q.waiting ++ [] } }) k a e) = _
  rw [hscatter]
  rfl

/-- A step adds the lane sum to its own run register. -/
theorem LayerExec.stepLane_runs (e : LayerExec) (v : Fed) (g : LaneReg) (p : Nat × Nat × Nat) {n : Lane}
    (hruns : Tab.wf 0 n.runs = true) :
    Tab.getD 0 (e.stepLane v g p n).runs (runKey v.pos p.2.1 p.1) =
        Tab.getD 0 n.runs (runKey v.pos p.2.1 p.1) + laneSum e.layer g.pes v.values v.slice p ∧
      ∀ j, j ≠ runKey v.pos p.2.1 p.1 → Tab.getD 0 (e.stepLane v g p n).runs j = Tab.getD 0 n.runs j :=
  ⟨Tab.getD_setD_self (Tab.wf_iff.mp hruns).1, fun _ hj => Tab.getD_setD_ne hj⟩

/-! ### Promotions -/

theorem LayerExec.due_promoteLane (e : LayerExec) (l : Nat) (y : Lane) (totals : Table Int) :
    (e.promoteLane l y totals).1.due = [] := by
  unfold LayerExec.promoteLane
  generalize hacc : (({ y with due := [] }, totals, 0) : Lane × Table Int × Nat) = acc
  have hdue : acc.1.due = [] := hacc ▸ rfl
  clear hacc
  induction y.due generalizing acc with
  | nil => exact hdue
  | cons pos due ih => exact ih _ hdue

theorem runPromotion_promotes (h : s.HasLayer k a rid i e r x) {l j : Nat} (hl : l < 128)
    (hdue : (((s.core k).array a).lane l).due ≠ []) (hexact : e.estimating = false)
    (hj : ((s.core k).array a).fillSlot = some j) {y : Lane} {totals : Table Int} {n : Nat}
    (hpromote : e.promoteLane l (((s.core k).array a).lane l) ((((s.core k).array a).slots[j]?).getD .empty).totals =
      (y, totals, n)) :
    let q := (s.core k).array a
    exec (.runPromotion k a l) s = .next (((s.onCore k fun c => c.setArray a { q.setLane l y with
      slots := q.slots.set j { (q.slots[j]?).getD .empty with
        totals := totals
        flags := if n = 0 then ((q.slots[j]?).getD .empty).flags else ((q.slots[j]?).getD .empty).flags ||| 2 ^ l } }).countSats
          k rid n).finishColumn k a e) := by
  have hsome : ((((s.core k).array a).lane l).due.isEmpty) = false := List.isEmpty_eq_false_iff.mpr hdue
  show execRunPromotion k a l s = _
  rw [execRunPromotion, laneRow_eq h hl]
  dsimp only
  rw [hj]
  dsimp only
  rw [hsome, if_neg Bool.false_ne_true, hpromote, hexact, if_neg Bool.false_ne_true]
  simp only [Bool.false_eq_true, or_false]

end

/-- Settles O48: a band's read, a feed, a lane's step and a promotion, each by its row. -/
theorem bandsFeedAndLanesStep : Obligations.BandsFeedAndLanesStep := by
  refine ⟨fun s k a rid i e r x h => ⟨fun b j vs hb hj hopen hroom hbegin hready u hvec =>
        bandRead_reads h hb hj hopen hroom hbegin hready hvec, fun b hb hfull => bandRead_full h hb hfull,
      fun c v hc hbase hv hsweep => feedVector_feeds h hc hbase hv hsweep,
      fun q c v hroom hforward hlo hhi => ArrayState.fed_feed hroom hforward hlo hhi⟩,
    fun s k a rid i e r x h => ⟨fun l c v g p rest hl hc hentry hforward hsched hrest hno =>
        laneStep_steps h hl hc hentry hforward hsched hrest hno,
      fun v g p n => ⟨rfl, fun hruns => e.stepLane_runs v g p hruns⟩, fun l j hl hdue hexact hj => ?_⟩⟩
  exact ⟨_, _, _, rfl, e.due_promoteLane .., runPromotion_promotes h hl hdue hexact hj rfl⟩

end Sys2Proof.Machine
end


-- ==== Sys2Proof/Proofs/LayerSteps.lean ====
section
/-! Layer steps begin, drain and end, and a frame's result is handed over (R76, R142, R143, R236, R276, R282, R347). -/

namespace Sys2Proof.Machine

section
variable {s : State} {k rid i : Nat}

theorem layerStep_eq (hw : s.working = true) (hk : k < 6) {l : LayerStep} {r : Run} {x : Route}
    (hstep : s.readyStep k = some (rid, i, .layer l)) (hr : s.run rid = some r) (hx : s.route r.route = some x) :
    exec (.layerStep k) s = .next
      (if x.exact && isPredictor r.steps x.cascade l then s.stepEnds rid i [k] else s.startLayer k rid i r x l 0) := by
  show execLayerStep k s = _
  rw [execLayerStep, controlRow_eq hw hk hstep]
  dsimp only
  rw [hr]
  dsimp only
  rw [hx]

/-- A position of a slot that is neither its first nor its last. -/
theorem drainRead_within (hw : s.working = true) (hk : k < 6) {e : LayerExec} {r : Run} {x : Route} {b a j : Nat} {q : Slot}
    {c : Column} (hb : b < 12) (hhead : (s.core k).drainHead b = some (a, j, q, c))
    (hexec : (s.core k).execFor q.run q.step = some e) (hroute : s.routeOf q.run = some (r, x))
    (hbegun : 0 < ((s.core k).band b).drainPos) (hmore : ((s.core k).band b).drainPos + 1 < e.layer.positions c.block) :
    let u := (s.perturbedOn k 1 3).onCore k (e.askDrain b c ((s.core k).band b).drainPos)
    let t := u.drainPosition k q.run x r (((u.core k).execFor q.run q.step).getD e) q c ((s.core k).band b).drainPos false
    (t.run q.run).isSome = true → exec (.drainRead k b) s = .next (t.drainOn k b a j false) := by
  intro u t hrun
  have hlast : (((s.core k).band b).drainPos + 1 == e.layer.positions c.block) = false := beq_false_of_ne (Nat.ne_of_lt hmore)
  have hkept : (t.run q.run).isNone = false := by rw [← Option.not_isSome, hrun]; rfl
  show execDrainRead k b s = _
  rw [execDrainRead, decide_eq_true hk, decide_eq_true hb, Bool.and_self, checked_true, hw, onlyIf_true, hhead, withSome_some]
  dsimp only
  rw [hexec, withSome_some, hroute, withSome_some]
  dsimp only
  rw [if_neg (Nat.ne_of_gt hbegun), hlast]
  dsimp only
  refine congrArg _ ((if_neg Bool.false_ne_true).trans ((if_neg ?_).trans (if_neg Bool.false_ne_true)))
  show ¬ (t.run q.run).isNone = true
  rw [hkept]
  exact Bool.false_ne_true

theorem routeStepComplete_vector (hw : s.working = true) (hk : k < 6) (hdone : (s.core k).running = .vectorDone rid i) :
    exec (.routeStepComplete k) s = .next (s.stepEnds rid i [k]) := by
  show execRouteStepComplete k s = _
  rw [execRouteStepComplete, decide_eq_true hk, checked_true, hw, onlyIf_true, hdone]

theorem routeStepComplete_layer (hw : s.working = true) (hk : k < 6) {e : LayerExec} {r : Run} {x : Route}
    (hother : ∀ n m, (s.core k).running ≠ .vectorDone n m) (hdue : s.layerDue k = some e)
    (hroute : s.routeOf e.run = some (r, x)) : exec (.routeStepComplete k) s = .next
      (if !(bitsOf 6 e.layer.cores).all (s.layerReady e.run e.step) then s
      else s.completeLayer e.run e.step r x (s.layerExecs e.run e.step (bitsOf 6 e.layer.cores))) := by
  show execRouteStepComplete k s = _
  rw [execRouteStepComplete, decide_eq_true hk, checked_true, hw, onlyIf_true]
  split
  · next n m hrunning => exact absurd hrunning (hother n m)
  · rw [hdue, withSome_some, State.endsLayer, hroute, withSome_some]

/-! ### The next hop and the handover -/

theorem State.sendVia_resolved {port peer mac : Nat} {v6 : Bool} (h : s.resolved port v6 peer = some mac) (o : Nat → Out) :
    s.sendVia port v6 peer o = s.emit (o mac) := by
  rw [State.sendVia, h]

theorem State.sendVia_unresolved {port peer : Nat} {v6 : Bool} (h : s.resolved port v6 peer = none) (o : Nat → Out) :
    s.sendVia port v6 peer o = s.askHop port v6 peer := by
  rw [State.sendVia, h]

theorem State.resolved_down {port peer : Nat} {v6 : Bool} (h : (s.port port).up = false) : s.resolved port v6 peer = none := by
  rw [State.resolved, h, if_neg Bool.false_ne_true]

section
variable {n f : Nat} {x : Stream} {r : Run}

theorem resultHandover_missed (hw : s.working = true) (hn : n < 64) (hx : s.stream n = some x)
    (hhand : s.handing n = some (rid, r, f)) (hresult : x.desc.noResult = false) {h : Halt} (hmiss : s.missed r = some h) :
    exec (.resultHandover n) s = .next (s.fault h) := by
  show execResultHandover n s = _
  rw [execResultHandover, decide_eq_true hn, checked_true, hw, onlyIf_true, hx, hhand]
  dsimp only
  rw [hresult, if_neg Bool.false_ne_true, hmiss]

theorem resultHandover_sends (hw : s.working = true) (hn : n < 64) (hx : s.stream n = some x)
    (hhand : s.handing n = some (rid, r, f)) (hresult : x.desc.noResult = false) {b : Bytes} (hmiss : s.missed r = none)
    (hread : (s.core x.core).readPad x.desc.outHandle x.desc.outOffset x.desc.outLen = some b) :
    exec (.resultHandover n) s = .next ((((((s.onCore x.core (Core.ask 3 1 x.desc.outHandle x.desc.outOffset
      x.desc.outLen)).perturbedOn x.core 1 7).sendVia x.desc.port x.desc.v6 x.desc.peer fun mac =>
        .datagram x.desc.port x.desc.v6 mac x.desc.peer x.desc.localUdp x.desc.peerUdp (some x.desc.dscp)
          (s.resultPacket x f b)).onStream n fun y => { y with
            sent := y.sent + 1
            unresolved := y.unresolved + bit (s.resolved x.desc.port x.desc.v6 x.desc.peer).isNone }).onRun rid
      fun r => { r with handed := true }).tryEnd rid) := by
  show execResultHandover n s = _
  rw [execResultHandover, decide_eq_true hn, checked_true, hw, onlyIf_true, hx, hhand]
  dsimp only
  rw [hresult, if_neg Bool.false_ne_true, hmiss, hread]

end

end

/-- Settles O49: each row in its case. -/
theorem layerStepsStartDrainAndEnd : Obligations.LayerStepsStartDrainAndEnd := by
  refine fun s k rid i hw hk => ⟨fun l r x hstep hr hx => ⟨fun hexact hpredictor => ?_, fun hplain => ?_⟩,
    fun e r x b a j q c hb hhead hexec hroute hbegun hmore => drainRead_within hw hk hb hhead hexec hroute hbegun hmore,
    routeStepComplete_vector hw hk, fun e r x hother hdue hroute => ⟨fun hall => ?_, fun hsome => ?_⟩,
    fun n x r f hn hx hhand hresult => ⟨fun h hmiss => resultHandover_missed hw hn hx hhand hresult hmiss,
      fun b hmiss hread => resultHandover_sends hw hn hx hhand hresult hmiss hread⟩,
    fun u port peer mac v6 o => ⟨fun h => State.sendVia_resolved h o, fun h => State.sendVia_unresolved h o,
      State.resolved_down⟩⟩
  · rw [layerStep_eq hw hk hstep hr hx, hexact, hpredictor]
    rfl
  · rw [layerStep_eq hw hk hstep hr hx, hplain]
    rfl
  · rw [routeStepComplete_layer hw hk hother hdue hroute, List.all_eq_true.mpr hall]
    rfl
  · obtain ⟨c, hc, hbusy⟩ := hsome
    have hnot : (bitsOf 6 e.layer.cores).all (s.layerReady e.run e.step) = false :=
      List.all_eq_false.mpr ⟨c, hc, by rw [hbusy]; exact Bool.false_ne_true⟩
    rw [routeStepComplete_layer hw hk hother hdue hroute, hnot]
    rfl

end Sys2Proof.Machine
end


-- ==== Sys2Proof/Proofs/ScatterGroups.lean ====
section
/-! Pigeonhole sets and the rows of a scatter group (R119 to R126). -/

namespace Sys2Proof.Machine

/-! ### One pigeonhole set -/

/-- Entries whose images differ are told apart by them. -/
theorem eq_of_nodup_map {α β : Type} {f : α → β} {l : List α} (h : (l.map f).Nodup) {a b : α} (ha : a ∈ l) (hb : b ∈ l)
    (hf : f a = f b) : a = b := by
  induction l with
  | nil => cases ha
  | cons x l ih =>
    obtain ⟨hx, hl⟩ := List.nodup_cons.mp h
    obtain rfl | hal := List.mem_cons.mp ha
    · obtain rfl | hbl := List.mem_cons.mp hb
      · rfl
      · exact absurd (hf ▸ List.mem_map_of_mem hbl) hx
    · obtain rfl | hbl := List.mem_cons.mp hb
      · exact absurd (hf ▸ List.mem_map_of_mem hal) hx
      · exact ih hl hal hbl

section
variable {ways : List (Nat × Int)} {key : Nat} {v : Int}

theorem updateSet_held {w : Int} (hkeys : (ways.map (·.1)).Nodup) (hw : (key, w) ∈ ways) : updateSet ways key v =
    ((key, limit32 (w + v)) :: ways.filter (fun u => u.1 != key), none, if limit32 (w + v) = w + v then 0 else 1) := by
  have hfind : ways.find? (fun u => u.1 == key) = some (key, w) := by
    cases hfound : ways.find? fun u => u.1 == key with
    | none => exact absurd (beq_self_eq_true key) (List.find?_eq_none.mp hfound _ hw)
    | some u =>
      have hkey : u.1 = key := beq_iff_eq.mp (List.find?_some (p := fun u : Nat × Int => u.1 == key) hfound)
      exact congrArg some (eq_of_nodup_map hkeys (List.mem_of_find?_eq_some hfound) hw hkey)
  unfold updateSet
  rw [hfind]
  by_cases hlimit : limit32 (w + v) = w + v
  · simp [satAdd, hlimit, bit]
  · simp [satAdd, hlimit, bit]

theorem updateSet_new (hnew : key ∉ ways.map (·.1)) : updateSet ways key v =
    if ways.length < 4 then ((key, v) :: ways, none, 0) else ((key, v) :: ways.take 3, ways[3]?, 0) := by
  have hfind : ways.find? (fun u => u.1 == key) = none :=
    List.find?_eq_none.mpr fun u hu hkey => hnew (List.mem_map.mpr ⟨u, hu, beq_iff_eq.mp hkey⟩)
  rw [updateSet, hfind]

/-- A set never holds more than four entries. -/
theorem updateSet_length (hlen : ways.length ≤ 4) (hkeys : (ways.map (·.1)).Nodup) :
    (updateSet ways key v).1.length ≤ 4 := by
  by_cases hmem : key ∈ ways.map (·.1)
  · obtain ⟨⟨a, w⟩, hw, rfl⟩ := List.mem_map.mp hmem
    have hless : (ways.filter fun u => u.1 != a).length < ways.length :=
      List.length_filter_lt_length_iff_exists.mpr ⟨_, hw, by simp⟩
    rw [updateSet_held hkeys hw, List.length_cons]
    omega
  · rw [updateSet_new hmem]
    split
    · next hroom => exact hroom
    · rw [List.length_cons, List.length_take]
      omega

/-- Nor a key twice. -/
theorem updateSet_nodup (hkeys : (ways.map (·.1)).Nodup) : ((updateSet ways key v).1.map (·.1)).Nodup := by
  by_cases hmem : key ∈ ways.map (·.1)
  · obtain ⟨⟨a, w⟩, hw, rfl⟩ := List.mem_map.mp hmem
    rw [updateSet_held hkeys hw, List.map_cons]
    refine List.nodup_cons.mpr ⟨fun hin => ?_, hkeys.sublist (List.filter_sublist.map _)⟩
    obtain ⟨u, hu, hkey⟩ := List.mem_map.mp hin
    exact bne_iff_ne.mp (List.mem_filter.mp hu).2 hkey
  · rw [updateSet_new hmem]
    split
    · exact List.nodup_cons.mpr ⟨hmem, hkeys⟩
    · refine List.nodup_cons.mpr ⟨fun hin => hmem ?_, hkeys.sublist ((List.take_sublist 3 ways).map _)⟩
      exact ((List.take_sublist 3 ways).map _).subset hin

end

/-! ### The rows -/

section
variable {s : State} {k rid : Nat} {g : Scatter} (hw : s.working = true) (hk : k < 6)
  (hg : (s.core k).scatter = some g) (hrid : s.scatterRun k = some rid)
include hw hk hg

theorem scatterGroupClose_eq : exec (.scatterGroupClose k) s = .next
    (if !(s.core k).canClose g then s else s.setCore k { s.core k with
      pigeons := []
      scatter := some { g with phase := .merging (((s.core k).sackRecords g ++
        if g.sorting then [] else (s.core k).residents).map fun r => [r]) 0 } }) := by
  show execScatterGroupClose k s = _
  rw [execScatterGroupClose, decide_eq_true hk, checked_true, hw, onlyIf_true]
  dsimp only
  rw [hg, withSome_some]

include hrid

theorem pigeonholeUpdate_eq {b : Nat} {r : Record} (hb : b < 16) (hways : g.sorting = false)
    (hr : g.waiting.find? (fun r => pigeonBank (pigeonSet r.key) == b) = some r) : exec (.pigeonholeUpdate k b) s = .next
      (if g.destCount ≤ r.key then s.dropUpdate k rid r else (s.perturbedOn k 1 5).pigeonUpdate k rid r) := by
  show execPigeonholeUpdate k b s = _
  rw [execPigeonholeUpdate, decide_eq_true hk, decide_eq_true hb, Bool.and_self, checked_true, hw, onlyIf_true, hg, hrid]
  dsimp only
  rw [hways, if_neg Bool.false_ne_true, hr, withSome_some]

/-- The record that goes into the sack next: the oldest spill, or in sorting-frame mode the oldest update in range. -/
theorem sackRecordWrite_writes {r : Record} {rest : List Record} (hr : (g.sorting = false ∧ g.spills = r :: rest) ∨
    (g.sorting = true ∧ g.waiting = r :: rest ∧ r.key < g.destCount)) :
    exec (.sackRecordWrite k) s = .next ((s.perturbedOn k 1 5).sackWrite k rid g r) := by
  show execSackRecordWrite k s = _
  rw [execSackRecordWrite, decide_eq_true hk, checked_true, hw, onlyIf_true, hg, hrid]
  dsimp only
  obtain ⟨hsort, hspill⟩ | ⟨hsort, hwait, hin⟩ := hr
  · rw [hsort, if_neg Bool.false_ne_true, hspill, List.head?_cons, withSome_some, Bool.false_and, if_neg Bool.false_ne_true]
  · rw [hsort, if_pos rfl, hwait, List.head?_cons, withSome_some, decide_eq_false (Nat.not_le.mpr hin), Bool.and_false,
      if_neg Bool.false_ne_true]

section
variable {runs : List (List Record)} {n : Nat} (hphase : g.phase = .merging runs n)
include hphase

/-- A pass that leaves runs to merge writes them to the buffer and counts itself. -/
theorem sortingFramePass_again (hmore : 1 < (mergePass g.sorting runs).1.length) : exec (.sortingFramePass k) s = .next
    ((((s.perturbedOn k 1 5).countSats k rid (mergePass g.sorting runs).2).passBuffer k g n
      (mergePass g.sorting runs).1).onScatter k fun h => { h with phase := .merging (mergePass g.sorting runs).1 (n + 1) }) := by
  show execSortingFramePass k s = _
  rw [execSortingFramePass, decide_eq_true hk, checked_true, hw, onlyIf_true, hg, hrid]
  dsimp only
  rw [hphase]
  dsimp only
  rw [if_neg (Nat.not_le.mpr hmore)]

section
variable (hlast : (mergePass g.sorting runs).1.length ≤ 1)
include hlast

theorem sortingFramePass_adds {c : Core} {m : Nat} (hadd : (mergePass g.sorting runs).1.flatten.foldlM
    (fun q r => Core.addTo q g r) (((s.perturbedOn k 1 5).countSats k rid (mergePass g.sorting runs).2).core k, 0) =
      some (c, m)) : exec (.sortingFramePass k) s = .next
        ((((s.perturbedOn k 1 5).countSats k rid (mergePass g.sorting runs).2).setCore k c.groupDone).countSats k rid m) := by
  show execSortingFramePass k s = _
  rw [execSortingFramePass, decide_eq_true hk, checked_true, hw, onlyIf_true, hg, hrid]
  dsimp only
  rw [hphase]
  dsimp only
  rw [if_pos hlast, hadd]

theorem sortingFramePass_outside (hadd : (mergePass g.sorting runs).1.flatten.foldlM
    (fun q r => Core.addTo q g r) (((s.perturbedOn k 1 5).countSats k rid (mergePass g.sorting runs).2).core k, 0) = none) :
    exec (.sortingFramePass k) s = .next
      (((s.perturbedOn k 1 5).countSats k rid (mergePass g.sorting runs).2).failRun rid .badParam) := by
  show execSortingFramePass k s = _
  rw [execSortingFramePass, decide_eq_true hk, checked_true, hw, onlyIf_true, hg, hrid]
  dsimp only
  rw [hphase]
  dsimp only
  rw [if_pos hlast, hadd]

end

end

end

/-- Settles O50: a set by whether it holds the key; a group by its rows. -/
theorem scatterGroupsUpdateSpillAndMerge : Obligations.ScatterGroupsUpdateSpillAndMerge := by
  refine ⟨fun ways key v hlen hkeys => ⟨updateSet_length hlen hkeys, updateSet_nodup hkeys, fun w hw => ?_, fun hnew => ?_⟩,
    fun s k rid g hw hk hg hrid => ⟨fun b r hb hways hr => ⟨fun hin => ?_, fun hout => ?_⟩,
      fun r rest hr => ⟨fun hfull => ?_, fun _ => sackRecordWrite_writes hw hk hg hrid hr⟩, fun hclose => ?_, fun hopen => ?_,
      fun runs n hphase hmore => sortingFramePass_again hw hk hg hrid hphase hmore,
      fun runs n hphase hlast => ⟨fun c m hadd => ⟨sortingFramePass_adds hw hk hg hrid hphase hlast hadd, rfl⟩,
        sortingFramePass_outside hw hk hg hrid hphase hlast⟩⟩⟩
  · rw [updateSet_held hkeys hw]
    exact ⟨rfl, rfl, rfl⟩
  · rw [updateSet_new hnew]
    refine ⟨?_, ?_, fun hroom => ?_, fun a b c d hfull => ?_⟩
    · split <;> rfl
    · split <;> rfl
    · rw [if_pos hroom]
      exact ⟨rfl, rfl⟩
    · subst hfull
      exact ⟨rfl, rfl⟩
  · rw [pigeonholeUpdate_eq hw hk hg hrid hb hways hr, if_neg (Nat.not_le.mpr hin)]
  · rw [pigeonholeUpdate_eq hw hk hg hrid hb hways hr, if_pos hout]
  · rw [sackRecordWrite_writes hw hk hg hrid hr, State.sackWrite, if_pos hfull]
  · rw [scatterGroupClose_eq hw hk hg, hclose]
    rfl
  · rw [scatterGroupClose_eq hw hk hg, hopen]
    rfl

end Sys2Proof.Machine
end


-- ==== Sys2Proof/Proofs/LetterboxWrites.lean ====
section
/-! Letterbox writes and their counts, banks, and the refresh of the stacks (R187, R194, R200 to R203, R206 to R208, R213,
R214). -/

namespace Sys2Proof.Machine

/-! ### The partition of a core, whatever perturbation does to it -/

/-- An entry put in place of one that passes a test as it does leaves the first entry that passes, where that one is of the
entry's own key. -/
theorem Tab.find?_put_same {β : Type} {p : Nat} {v w : β} {t : Table β} {P : Nat × β → Bool} (hw : Tab.find p t = some w)
    (hP : P (p, v) = P (p, w)) (hfirst : (t.find? P).map (·.1) = some p) :
    ((Tab.put p v t).find? P).map (·.1) = some p := by
  induction t with
  | nil => cases hw
  | cons e t ih =>
    obtain ⟨a, u⟩ := e
    rw [Tab.put]
    split
    · by_cases hv : P (p, v) = true
      · rw [List.find?_cons_of_pos hv]
        rfl
      · rw [List.find?_cons_of_neg hv]
        exact hfirst
    · split
      · next hpa =>
        subst hpa
        rw [Tab.find, if_pos rfl] at hw
        obtain rfl := Option.some.inj hw
        by_cases hv : P (p, v) = true
        · rw [List.find?_cons_of_pos hv]
          rfl
        · rw [List.find?_cons_of_neg hv]
          rwa [List.find?_cons_of_neg (hP ▸ hv)] at hfirst
      · next hpa =>
        rw [Tab.find, if_neg (Ne.symm hpa)] at hw
        by_cases hu : P (a, u) = true
        · rw [List.find?_cons_of_pos hu] at hfirst ⊢
          exact hfirst
        · rw [List.find?_cons_of_neg hu] at hfirst ⊢
          exact ih hw hfirst

theorem State.partitionOf_onPart {s : State} {k p : Nat} (hp : s.partitionOf k = some p) {f : Partition → Partition}
    (hf : ∀ x, (f x).enabled = x.enabled ∧ (f x).cores = x.cores) : (s.onPart p f).partitionOf k = some p := by
  have hp' : (s.parts.find? fun e => e.2.enabled && bitOf e.2.cores k).map (·.1) = some p := hp
  obtain ⟨e, he, hkey⟩ := Option.map_eq_some_iff.mp hp'
  obtain ⟨w, hw⟩ := Tab.exists_find_of_mem (List.mem_of_find?_eq_some he)
  rw [hkey] at hw
  have hpart : s.part p = w := by rw [State.part, Tab.getD, hw]; rfl
  obtain ⟨henabled, hcores⟩ := hf w
  refine Tab.find?_put_same hw ?_ hp'
  dsimp only
  rw [hpart, henabled, hcores]

theorem State.partitionOf_congr {s t : State} (h : t.parts = s.parts) (k : Nat) : t.partitionOf k = s.partitionOf k := by
  rw [State.partitionOf, State.partitionOf, h]

/-- A perturbation event leaves the cores with their partitions. -/
theorem State.partitionOf_perturbedOn (s : State) (k kind select : Nat) :
    (s.perturbedOn k kind select).partitionOf k = s.partitionOf k := by
  unfold State.perturbedOn
  split
  · next p hp =>
    unfold State.perturbed
    extract_lets es moved t
    split
    · rfl
    · have ht : t.partitionOf k = some p := State.partitionOf_onPart hp fun x => ⟨rfl, rfl⟩
      split
      · rw [State.partitionOf_congr (State.count_parts ..), ht, hp]
      · rw [ht, hp]
  · rfl

/-! ### Letterbox writes -/

section
variable {s : State} {k : Nat}

/-- The state in which a write is checked: its perturbation events have been met. -/
def State.offered (s : State) (k : Nat) (b : BoxWrite) : State := (s.perturbedOn k 1 6).perturbedOn k 4 b.box

theorem State.offered_frame (s : State) (k : Nat) (b : BoxWrite) :
    s.Frame (fields [.parts, .tally, .flashTally]) (s.offered k b) :=
  (State.perturbedOn_frame ..).trans (State.perturbedOn_frame ..)

theorem State.offered_core (s : State) (k : Nat) (b : BoxWrite) (c : Nat) : (s.offered k b).core c = s.core c :=
  State.core_of_cores ((s.offered_frame k b).only.cores (by decide)) c

theorem State.offered_partitionOf (s : State) (k : Nat) (b : BoxWrite) : (s.offered k b).partitionOf k = s.partitionOf k := by
  rw [State.offered, State.partitionOf_perturbedOn, State.partitionOf_perturbedOn]

theorem State.offered_tellerPart (s : State) (k : Nat) (b : BoxWrite) (teller : Teller) :
    (s.offered k b).tellerPart k teller = s.tellerPart k teller := by
  have hstreams := (s.offered_frame k b).only.streams (by decide)
  have hchannels := (s.offered_frame k b).only.channels (by decide)
  cases teller with
  | stream n => rw [State.tellerPart, State.tellerPart, State.stream, State.stream, hstreams]
  | parcel n => rw [State.tellerPart, State.tellerPart, hchannels]
  | command n => exact s.offered_partitionOf k b
  | peer d c x m => exact s.offered_partitionOf k b

theorem State.offered_boxChecks (s : State) (k : Nat) (b : BoxWrite) : (s.offered k b).boxChecks k b = s.boxChecks k b := by
  rw [State.boxChecks, State.boxChecks, s.offered_core, s.offered_tellerPart, s.offered_partitionOf]

theorem State.offerWrite_refused {b : BoxWrite} (hno : s.boxChecks k b ≠ 0) : ∃ t,
    s.offerWrite k b = (.refused (s.boxChecks k b), t) ∧ (t.core k).pad = (s.core k).pad ∧
      (t.core k).reqs = (s.core k).reqs ∧ (t.core k).landings = (s.core k).landings := by
  have hchecks := s.offered_boxChecks k b
  have hcore := s.offered_core k b k
  unfold State.offerWrite
  rw [show (s.perturbedOn k 1 6).perturbedOn k 4 b.box = s.offered k b from rfl]
  dsimp only
  rw [hchecks, if_pos hno]
  refine ⟨_, rfl, ?_⟩
  rw [State.core_of_cores ((State.countCore_frame ..).only.cores (by decide)), State.core_onCore, hcore]
  exact ⟨rfl, rfl, rfl⟩

theorem State.offerWrite_accepted {b : BoxWrite} {x : Letterbox} (hyes : s.boxChecks k b = 0) (hmark : b.postmark = none)
    (hx : Tab.find b.box (s.core k).boxes = some x) :
    s.offerWrite k b = (.accepted, (s.offered k b).setCore k ((s.core k).accept x b)) := by
  have hchecks := s.offered_boxChecks k b
  have hcore := s.offered_core k b k
  unfold State.offerWrite
  rw [show (s.perturbedOn k 1 6).perturbedOn k 4 b.box = s.offered k b from rfl]
  dsimp only
  rw [hchecks, hyes, if_neg (not_not_intro rfl), hmark, hcore]
  dsimp only
  rw [Bool.not_true, if_neg Bool.false_ne_true, hx]

theorem letterboxWriteArrival_eq (w : BoxOffer) (hw : s.working = true) (hk : k < 6) (hc : w.core < 6) :
    exec (.letterboxWriteArrival k w) s = .next (s.coreWrite k w) := by
  show execLetterboxWriteArrival k w s = _
  rw [execLetterboxWriteArrival, decide_eq_true hk, decide_eq_true hc, Bool.and_self, checked_true, hw, onlyIf_true]

theorem Core.length_accept_landings (c : Core) (x : Letterbox) (b : BoxWrite) :
    (c.accept x b).landings.length = c.landings.length + 1 := by
  show (c.landings ++ [_]).length = _
  rw [List.length_append, List.length_singleton]

/-! ### Landings -/

theorem letterboxWriteLanded_lands (hhalt : s.health.halt = none) (hk : k < 6) {n : Nat} {l : Landing} {b : Letterbox}
    (hl : (s.core k).landings.find? (fun l => l.id == n && l.linesLeft == 0) = some l)
    (hb : Tab.find l.box (s.core k).boxes = some b) : ∃ st, exec (.letterboxWriteLanded k n) s = .next
      (((s.setCore k { s.core k with
        landings := (s.core k).landings.filter fun x => x.id != n
        boxes := Tab.put l.box { b with delivery := (b.delivery + 1) % 2 ^ 32, state := st } (s.core k).boxes }).landed k l
          { b with delivery := (b.delivery + 1) % 2 ^ 32, state := st }).settle) := by
  show ∃ st, execLetterboxWriteLanded k n s = _
  rw [execLetterboxWriteLanded, decide_eq_true hk, checked_true, hhalt, Option.isNone_none, onlyIf_true]
  dsimp only
  rw [hl, withSome_some, hb]
  exact ⟨_, rfl⟩

theorem letterboxWriteLanded_waits (hhalt : s.health.halt = none) (hk : k < 6) {n : Nat}
    (hl : (s.core k).landings.find? (fun l => l.id == n && l.linesLeft == 0) = none) :
    exec (.letterboxWriteLanded k n) s = .next s := by
  show execLetterboxWriteLanded k n s = _
  rw [execLetterboxWriteLanded, decide_eq_true hk, checked_true, hhalt, Option.isNone_none, onlyIf_true]
  dsimp only
  rw [hl, withSome_none]

/-- A release advances CONSUMED by no more than what has been delivered. -/
theorem Letterbox.release_bounded (x : Letterbox) (n : Nat) (hx : x.consumed < 2 ^ 32) : ∃ m, m ≤ n ∧
    m ≤ (x.delivery + 2 ^ 32 - x.consumed) % 2 ^ 32 ∧ (x.release n).consumed = (x.consumed + m) % 2 ^ 32 ∧
      (x.release n).delivery = x.delivery := by
  unfold Letterbox.release
  split
  · exact ⟨0, Nat.zero_le _, Nat.zero_le _, (Nat.mod_eq_of_lt hx).symm, rfl⟩
  · exact ⟨_, Nat.min_le_left .., Nat.min_le_right .., rfl, rfl⟩

end

/-- Settles O51: a write is checked in `State.offered`, which checks it as the state before does. -/
theorem letterboxWritesLandAndAreCounted : Obligations.LetterboxWritesLandAndAreCounted := by
  refine ⟨fun s k w hw hk hc => ⟨letterboxWriteArrival_eq w hw hk hc, fun b hno _ => State.offerWrite_refused hno,
      fun b x hyes hmark hx => ⟨_, State.offerWrite_accepted hyes hmark hx, State.core_setCore ..⟩,
      fun c x b => ⟨rfl, c.length_accept_landings x b, rfl⟩⟩,
    fun s k n l b hhalt hk hl hb => ?_, fun s k n hhalt hk hl => letterboxWriteLanded_waits hhalt hk hl,
    fun x n hx _ => x.release_bounded n hx⟩
  obtain ⟨st, hexec⟩ := letterboxWriteLanded_lands hhalt hk hl hb
  exact ⟨{ b with delivery := (b.delivery + 1) % 2 ^ 32, state := st }, _, hexec, rfl, rfl, rfl, rfl⟩

/-! ### Banks -/

section
variable {s : State} {k b : Nat} (hk : k < 6) (hb : b < 64)

/-- The access granted is of the bank, and none of the bank stands before it. -/
theorem Core.granted_first {c : Core} {r : BankReq} (hr : c.granted b = some r) :
    r ∈ c.reqs ∧ r.bank = b ∧ ∀ o ∈ c.reqs, o.bank = b → o.before r = false := by
  have hfind : (c.reqs.filter (·.bank == b)).find? (fun r => (c.reqs.filter (·.bank == b)).all fun o => !o.before r) =
      some r := hr
  obtain ⟨hmem, hbank⟩ := List.mem_filter.mp (List.mem_of_find?_eq_some hfind)
  have hfirst := List.find?_some (p := fun r => (c.reqs.filter (·.bank == b)).all fun o => !o.before r) hfind
  refine ⟨hmem, beq_iff_eq.mp hbank, fun o ho hob => ?_⟩
  have := List.all_eq_true.mp hfirst o (List.mem_filter.mpr ⟨ho, beq_iff_eq.mpr hob⟩)
  simpa using this

include hk hb

theorem bankAccessGrant_grants (hhalt : s.health.halt = none) {r : BankReq} (hr : (s.core k).granted b = some r) :
    exec (.bankAccessGrant k b) s = .next (((s.setCore k ((s.core k).grant r)).perturbedOn k 2 0).countCore k k 4
      (((s.core k).reqs.filter (·.bank == b)).length - 1)) := by
  show execBankAccessGrant k b s = _
  rw [execBankAccessGrant, decide_eq_true hk, decide_eq_true hb, Bool.and_self, checked_true, hhalt, Option.isNone_none,
    onlyIf_true]
  dsimp only
  rw [hr, withSome_some]

theorem bankDrainComplete_off (hdrain : Tab.getD .off (s.core k).banks b = .draining)
    (hidle : ∀ r ∈ (s.core k).reqs, r.bank ≠ b) (hunused : (s.core k).bankUsed b = false) :
    exec (.bankDrainComplete k b) s = .next ((s.setCore k { s.core k with
      banks := Tab.put b .off (s.core k).banks
      pad := clearBytes (s.core k).pad (padKey b 0) (24576 * 64) }).count k 6) := by
  have hnone : ¬ ((s.core k).reqs.any (·.bank == b)) = true := by
    rw [List.any_eq_true]
    rintro ⟨r, hr, hbank⟩
    exact hidle r hr (beq_iff_eq.mp hbank)
  show execBankDrainComplete k b s = _
  rw [execBankDrainComplete, decide_eq_true hk, decide_eq_true hb, Bool.and_self, checked_true]
  dsimp only
  rw [if_neg (not_or.mpr ⟨not_not_intro hdrain, hnone⟩)]
  generalize clearBytes (s.core k).pad (padKey b 0) (24576 * 64) = pad
  rw [if_neg]
  show ¬ (s.core k).bankUsed b = true
  rw [hunused]
  exact Bool.false_ne_true

theorem bankPowerUpComplete_serves (hrising : Tab.getD .off (s.core k).banks b = .rising) :
    exec (.bankPowerUpComplete k b) s = .next (((((s.setCore k { s.core k with
      banks := Tab.put b .on (s.core k).banks
      pad := clearBytes (s.core k).pad (padKey b 0) (24576 * 64) }).count k 7).onCore k fun c =>
        c.drainUnused (s.alwaysOn k)).finishLoads).settle) := by
  show execBankPowerUpComplete k b s = _
  rw [execBankPowerUpComplete, decide_eq_true hk, decide_eq_true hb, Bool.and_self, checked_true]
  dsimp only
  rw [if_neg (not_not_intro hrising)]

end

/-! ### Self-refresh -/

section
variable {s : State} {n : Nat} (hn : n < 16)
include hn

theorem selfRefreshEntry_enters (hw : s.working = true) (hstreams : s.streams = []) (hnew : n ∉ s.refreshing)
    (hidle : Tab.getD 0 s.memUsed n + 100000 ≤ s.now) : exec (.selfRefreshEntry n) s =
      .next { s with refreshing := (List.range 16).filter fun k => k == n || s.refreshing.contains k } := by
  have hguard : (s.working && s.streams.isEmpty && !s.refreshing.contains n &&
      decide (Tab.getD 0 s.memUsed n + 100000 ≤ s.now)) = true := by
    rw [hw, hstreams, decide_eq_true hidle, List.contains_eq_mem, decide_eq_false hnew]
    rfl
  show execSelfRefreshEntry n s = _
  rw [execSelfRefreshEntry, decide_eq_true hn, checked_true, hguard, onlyIf_true]

theorem selfRefreshEntry_waits (hbusy : s.streams ≠ [] ∨ s.now < Tab.getD 0 s.memUsed n + 100000) :
    exec (.selfRefreshEntry n) s = .next s := by
  show execSelfRefreshEntry n s = _
  rw [execSelfRefreshEntry, decide_eq_true hn, checked_true]
  obtain hstreams | hsoon := hbusy
  · rw [List.isEmpty_eq_false_iff.mpr hstreams, Bool.and_false, Bool.false_and, Bool.false_and, onlyIf_false]
  · rw [decide_eq_false (Nat.not_le.mpr hsoon), Bool.and_false, onlyIf_false]

theorem selfRefreshExit_exits (hin : n ∈ s.refreshing) : exec (.selfRefreshExit n) s = .next
    { s with refreshing := s.refreshing.filter (· != n), memUsed := Tab.put n s.now s.memUsed } := by
  show execSelfRefreshExit n s = _
  rw [execSelfRefreshExit, decide_eq_true hn, checked_true, List.contains_eq_mem, decide_eq_true hin, onlyIf_true]

theorem refreshManagementRequest_eq : exec (.refreshManagementRequest n) s = .next s := by
  show execRefreshManagementRequest n s = _
  rw [execRefreshManagementRequest, decide_eq_true hn, checked_true, id_eq]

end

/-- Settles O52: a bank's grant, its two power rows, then the stacks' rows. -/
theorem banksGrantAndStacksRefresh : Obligations.BanksGrantAndStacksRefresh := by
  refine ⟨fun s k b hk hb => ⟨fun r hhalt hr => ⟨Core.granted_first hr, bankAccessGrant_grants hk hb hhalt hr,
        fun hpad => ⟨fun j hj => ?_, fun y hy => ?_⟩⟩,
      fun hdrain hidle hunused => bankDrainComplete_off hk hb hdrain hidle hunused,
      bankPowerUpComplete_serves hk hb, fun m _ y => ?_⟩,
    fun s n hn => ⟨fun hw hstreams hnew hidle => ⟨_, selfRefreshEntry_enters hn hw hstreams hnew hidle, ?_, fun j hj => ?_, rfl⟩,
      selfRefreshEntry_waits hn, selfRefreshExit_exits hn, refreshManagementRequest_eq hn⟩⟩
  · obtain ⟨-, hbank, -⟩ := Core.granted_first hr
    rw [← hbank, List.getD_eq_getElem?_getD, List.getElem?_eq_getElem hj]
    exact getD_writeBytes_in (Tab.wf_iff.mp hpad).1 hj
  · obtain ⟨-, hbank, -⟩ := Core.granted_first hr
    rw [← hbank] at hy
    exact getD_writeBytes_out hy
  · rw [getD_clearBytes]
    refine ite_congr (propext ?_) (fun _ => rfl) fun _ => rfl
    unfold padKey
    omega
  · exact List.mem_filter.mpr ⟨List.mem_range.mpr hn, by simp⟩
  · have hor := (List.mem_filter.mp hj).2
    simpa using hor

end Sys2Proof.Machine
end


-- ==== Sys2Proof/Proofs/Links.lean ====
section
/-! PROOF. The events of a port's link, the acceptance of flits in order, and the paths of a cascade. -/

namespace Sys2Proof.Machine

/-! ### The events of a port -/

theorem plinkLinkUp_miswired {s : State} {p : Nat} {h : PeerHello} (hp : p < 16) (hs : s.linking = true)
    (he : (s.port p).ethernet = false) (hu : (s.port p).up = false)
    (hbad : portPeer s.cascade.device p ≠ some h.device ∨ h.certificateOk = false ∨ h.serialOk = false) :
    exec (.plinkLinkUp p h) s = .next (s.miswired p) := by
  show execPlinkLinkUp p h s = _
  rw [execPlinkLinkUp, decide_eq_true hp, checked_true, onlyIf_eq (by simp [hs, he, hu])]
  dsimp only
  rw [if_pos (by simpa using hbad)]

theorem plinkLinkUp_noVersion {s : State} {p : Nat} {h : PeerHello} (hp : p < 16) (hs : s.linking = true)
    (he : (s.port p).ethernet = false) (hu : (s.port p).up = false)
    (hpeer : portPeer s.cascade.device p = some h.device) (hc : h.certificateOk = true) (hk : h.serialOk = true)
    (hv : sharedPlink h = none) : exec (.plinkLinkUp p h) s = .next (s.count (22 + p) 5) := by
  show execPlinkLinkUp p h s = _
  rw [execPlinkLinkUp, decide_eq_true hp, checked_true, onlyIf_eq (by simp [hs, he, hu])]
  dsimp only
  rw [if_neg (by simp [hpeer, hc, hk]), hv]

theorem plinkLinkUp_trains {s : State} {p v : Nat} {h : PeerHello} (hp : p < 16) (hs : s.linking = true)
    (he : (s.port p).ethernet = false) (hu : (s.port p).up = false)
    (hpeer : portPeer s.cascade.device p = some h.device) (hc : h.certificateOk = true) (hk : h.serialOk = true)
    (hv : sharedPlink h = some v) :
    exec (.plinkLinkUp p h) s = .next ((s.setPort p { s.port p with
      up := true, trainings := (s.port p).trainings + 1
      link := some (Link.fresh s.cascade.device s.now (s.port p).trainings v h) }).count 49 3) := by
  show execPlinkLinkUp p h s = _
  rw [execPlinkLinkUp, decide_eq_true hp, checked_true, onlyIf_eq (by simp [hs, he, hu])]
  dsimp only
  rw [if_neg (by simp [hpeer, hc, hk]), hv]

theorem replayTimeout_due {s : State} {p : Nat} {l : Link} (hp : p < 16) (hl : (s.port p).link = some l)
    (ht : l.ackTime + 1000 ≤ s.now) : exec (.replayTimeout p) s = .next (s.replayOrRetrain p) := by
  show execReplayTimeout p s = _
  rw [execReplayTimeout, decide_eq_true hp, checked_true, hl, withSome_some, if_pos ht]

theorem State.replayOrRetrain_replays {s : State} {p : Nat} {l : Link} (hl : (s.port p).link = some l)
    (hr : l.retraining = false) (hq : l.replay ≠ []) (hn : l.replays < 16) :
    s.replayOrRetrain p = ((s.onPort p fun x => { x with
      link := some { l with ackTime := s.now, replays := l.replays + 1 } }).replayAll p).count (22 + p) 1 := by
  rw [State.replayOrRetrain, hl]
  dsimp only
  rw [if_neg (by simp [hr, hq]), if_neg (by omega)]

theorem State.replayOrRetrain_retrains {s : State} {p : Nat} {l : Link} (hl : (s.port p).link = some l)
    (hr : l.retraining = false) (hq : l.replay ≠ []) (hn : 16 ≤ l.replays) :
    s.replayOrRetrain p = (s.onPort p fun x => { x with
      link := some { l with ackTime := s.now, retraining := true } }).count (22 + p) 3 := by
  rw [State.replayOrRetrain, hl]
  dsimp only
  rw [if_neg (by simp [hr, hq]), if_pos hn]

theorem linkRetrainEnd_up {s : State} {p : Nat} {l : Link} (hp : p < 16) (hl : (s.port p).link = some l)
    (hr : l.retraining = true) (ht : s.now ≤ l.ackTime + 5000000) :
    exec (.linkRetrainEnd p true) s = .next (State.pump p 1024 (s.onPort p fun x =>
      { x with link := some { l with retraining := false, replays := 0, ackTime := s.now } })) := by
  show execLinkRetrainEnd p true s = _
  rw [execLinkRetrainEnd, decide_eq_true hp, checked_true, hl, withSome_some, if_neg (by simp [hr]),
    if_pos (by simp [ht])]

theorem linkRetrainEnd_down {s : State} {p : Nat} {l : Link} (hp : p < 16) (hl : (s.port p).link = some l)
    (hr : l.retraining = true) (ht : l.ackTime + 5000000 ≤ s.now) :
    exec (.linkRetrainEnd p false) s = .next (s.linkDown p) := by
  show execLinkRetrainEnd p false s = _
  rw [execLinkRetrainEnd, decide_eq_true hp, checked_true, hl, withSome_some, if_neg (by simp [hr]),
    if_neg (by simp), if_pos ht]

theorem linkRetrainEnd_early {s : State} {p : Nat} {l : Link} (hp : p < 16) (hl : (s.port p).link = some l)
    (hr : l.retraining = true) (ht : s.now < l.ackTime + 5000000) : exec (.linkRetrainEnd p false) s = .next s := by
  show execLinkRetrainEnd p false s = _
  rw [execLinkRetrainEnd, decide_eq_true hp, checked_true, hl, withSome_some, if_neg (by simp [hr]),
    if_neg (by simp), if_neg (by omega)]

theorem portLinkDown_next {s : State} {p : Nat} (hp : p < 16) (hs : s.standby = true) (hu : (s.port p).up = true) :
    exec (.portLinkDown p) s = .next (s.linkDown p) := by
  show execPortLinkDown p s = _
  rw [execPortLinkDown, decide_eq_true hp, checked_true, onlyIf_eq hs, if_pos hu]

/-- What a link's going down does to its own port, before its neighbour's loss is told. -/
def State.portDown (s : State) (p : Nat) : State :=
  (s.onPort p fun x => { x with up := false, link := none, neighbours := [] }).event 6

theorem State.linkDown_unlinked {s : State} {p : Nat} (h : (s.port p).link = none) :
    s.linkDown p = s.portDown p := by
  rw [State.linkDown, h]; rfl

theorem State.linkDown_linked {s : State} {p : Nat} {l : Link} (h : (s.port p).link = some l) :
    s.linkDown p = (s.portDown p).markLost l.peer := by
  rw [State.linkDown, h]; rfl

theorem State.linkDown_events (s : State) (p : Nat) :
    (s.linkDown p).health.events = s.health.events ||| 2 ^ 6 := by
  cases h : (s.port p).link with
  | none => rw [State.linkDown_unlinked h]; rfl
  | some l => rw [State.linkDown_linked h, (State.markLost_frame (s.portDown p) l.peer).only.health (by decide)]; rfl

theorem State.portDown_up (s : State) (p : Nat) : ((s.portDown p).port p).up = false := by
  show ((s.onPort p fun x => { x with up := false, link := none, neighbours := [] }).port p).up = false
  rw [port_onPort]

theorem ethernetLinkUp_next {s : State} {p : Nat} (hp : p < 16) (hs : s.linking = true)
    (he : (s.port p).ethernet = true) (hu : (s.port p).up = false) :
    exec (.ethernetLinkUp p) s = .next (((s.setPort p { s.port p with up := true }).count (6 + p) 6).askHops p) := by
  show execEthernetLinkUp p s = _
  rw [execEthernetLinkUp, decide_eq_true hp, checked_true, onlyIf_eq hs, if_pos (by simp [he, hu])]; rfl

theorem pcieLinkL0_next {s : State} (hs : s.standby = true) :
    exec .pcieLinkL0 s = .next { s with cascade := { s.cascade with linkL0 := true } } := by
  show execPcieLinkL0 s = _
  rw [execPcieLinkL0, onlyIf_eq hs]

/-! ### Flits -/

theorem flitReceive_next {s : State} {p : Nat} (raw : Bytes) (hp : p < 16) (hw : s.working = true) :
    exec (.flitReceive p raw) s = .next (s.flit p raw).revokeTraffic := by
  show execFlitReceive p raw s = _
  rw [execFlitReceive, decide_eq_true hp, checked_true, onlyIf_eq hw]

theorem State.flit_damaged {s : State} {p : Nat} {raw : Bytes} {l : Link} (hl : (s.port p).link = some l)
    (hc : crc64 (slice raw 0 248) ≠ leAt raw 248 8) (hn : l.version < 0x11 ∨ l.nakSent = true) :
    s.flit p raw = s.count (22 + p) 0 := by
  rw [State.flit, hl]
  dsimp only
  rw [if_pos hc, if_neg (by rintro ⟨hv, hs⟩; rcases hn with hn | hn <;> simp_all; omega)]

theorem State.flit_asks {s : State} {p : Nat} {raw : Bytes} {l : Link} (hl : (s.port p).link = some l)
    (hc : crc64 (slice raw 0 248) ≠ leAt raw 248 8) (hv : 0x11 ≤ l.version) (hn : l.nakSent = false) :
    s.flit p raw = (((s.count (22 + p) 0).onPort p fun x =>
        { x with link := some { l with nakSent := true } }).count (22 + p) 2).sendIdle p true := by
  rw [State.flit, hl]
  dsimp only
  rw [if_pos hc, if_pos ⟨hv, by simp [hn]⟩]

/-- The link of port `p` is still there and expects what `l` expects: no flit has been accepted since `l`. -/
def State.Expects (s : State) (p : Nat) (l : Link) : Prop :=
  ∃ m, (s.port p).link = some m ∧ m.expected = l.expected ∧ m.partials = l.partials ∧ m.nakSent = l.nakSent

theorem State.Expects.of_ports {s t : State} {p : Nat} {l : Link} (h : s.Expects p l) (ht : t.ports = s.ports) :
    t.Expects p l := by
  have hport : t.port p = s.port p := by rw [State.port, ht]; rfl
  rwa [State.Expects, hport]

theorem State.expects_onPort (s : State) (p : Nat) {m l : Link} (he : m.expected = l.expected)
    (hp : m.partials = l.partials) (hn : m.nakSent = l.nakSent) :
    (s.onPort p fun x => { x with link := some m }).Expects p l :=
  ⟨m, by rw [port_onPort], he, hp, hn⟩

theorem State.Expects.count {s : State} {p : Nat} {l : Link} (h : s.Expects p l) (g i n : Nat) :
    (s.count g i n).Expects p l :=
  h.of_ports ((State.count_frame s g i n).only.ports (by decide))

theorem State.Expects.sendIdle {s : State} {p : Nat} {l : Link} (h : s.Expects p l) (q : Nat) (nak : Bool) (f : FlitOut) :
    (s.sendIdle q nak f).Expects p l :=
  h.of_ports ((State.sendIdle_frame s q nak f).only.ports (by decide))

theorem State.Expects.replayOrRetrain {s : State} {p : Nat} {l : Link} (h : s.Expects p l) :
    (s.replayOrRetrain p).Expects p l := by
  obtain ⟨m, hm, he, hp, hn⟩ := h
  rw [State.replayOrRetrain, hm]
  dsimp only
  split
  · exact ⟨m, hm, he, hp, hn⟩
  split
  · exact State.Expects.count (State.expects_onPort s p (by exact he) (by exact hp) (by exact hn)) _ _ _
  · exact State.Expects.count (State.Expects.of_ports
      (State.expects_onPort s p (m := { m with ackTime := s.now, replays := m.replays + 1 }) he hp hn)
      ((State.replayAll_frame _ p).only.ports (by decide))) _ _ _

theorem State.Expects.pump {s : State} {p : Nat} {l : Link} (h : s.Expects p l) (n : Nat) :
    (State.pump p n s).Expects p l := by
  induction n generalizing s with
  | zero => exact h
  | succ n ih =>
    obtain ⟨m, hm, he, hp, hn⟩ := h
    have hs : s.Expects p l := ⟨m, hm, he, hp, hn⟩
    rw [State.pump, hm]
    dsimp only
    split
    · exact hs
    split
    · exact hs
    split
    · exact hs
    · refine ih (State.Expects.of_ports (State.expects_onPort s p ?_ ?_ ?_) rfl)
      · exact he
      · exact hp
      · exact hn

/-- How many flits an ACK passes, by the sequence numbers modulo 4096. -/
def Link.passed (l : Link) (ack : Nat) : Nat := (ack + 4096 - l.ackSeq % 4096) % 4096

/-- The link after an ACK alone. -/
def Link.acked (l : Link) (now ack : Nat) : Link :=
  if l.passed ack ≤ l.replay.length ∧ 0 < l.passed ack then
    { l with replay := l.replay.drop (l.passed ack), ackSeq := (l.ackSeq + l.passed ack) % 4096, replays := 0, ackTime := now }
  else l

/-- The link after a flit's credit return. -/
def Link.credited (l : Link) (counts : Bool) (cc credit : Nat) : Link :=
  if counts then
    { l with credits := l.credits.set cc (min (classBuffers.getD cc 0) (l.credits.getD cc 0 + credit)) } else l

theorem Link.take_eq (l : Link) (now ack : Nat) (counts : Bool) (cc credit : Nat) :
    l.take now ack counts cc credit = { (l.acked now ack).credited counts cc credit with
      poolExpiry := ((l.acked now ack).credited counts cc credit).poolExpiry.map fun _ => now + 10000000 } := rfl

/-- An ACK moves the replay buffer, its sequence number and the retry count and time alone. -/
theorem Link.acked_only (l : Link) (now ack : Nat) :
    l.acked now ack = { l with replay := (l.acked now ack).replay, ackSeq := (l.acked now ack).ackSeq
                               replays := (l.acked now ack).replays, ackTime := (l.acked now ack).ackTime } := by
  unfold Link.acked
  split <;> rfl

theorem Link.credited_only (l : Link) (counts : Bool) (cc credit : Nat) :
    l.credited counts cc credit = { l with credits := (l.credited counts cc credit).credits } := by
  unfold Link.credited
  split <;> rfl

/-- A flit's ACK and credit move those of the link and its leases alone. -/
theorem Link.take_only (l : Link) (now ack : Nat) (counts : Bool) (cc credit : Nat) :
    l.take now ack counts cc credit = { l with
      replay := (l.acked now ack).replay, ackSeq := (l.acked now ack).ackSeq, replays := (l.acked now ack).replays
      ackTime := (l.acked now ack).ackTime, credits := ((l.acked now ack).credited counts cc credit).credits
      poolExpiry := l.poolExpiry.map fun _ => now + 10000000 } := by
  rw [Link.take_eq, Link.credited_only, Link.acked_only]

theorem Link.take_expected (l : Link) (now ack : Nat) (counts : Bool) (cc credit : Nat) :
    (l.take now ack counts cc credit).expected = l.expected ∧
      (l.take now ack counts cc credit).partials = l.partials ∧
      (l.take now ack counts cc credit).nakSent = l.nakSent := by
  rw [Link.take_only]
  exact ⟨rfl, rfl, rfl⟩

/-- What a flit out of sequence leaves: its ACK, credit and NAK are taken, it is counted, and what can be sent is. -/
def State.discardFlit (s : State) (p : Nat) (l : Link) (w : Nat) : State :=
  let s := s.onPort p fun x => { x with link := some (l.take s.now (field w 31 20) false (field w 33 32) (field w 43 34)) }
  let s := if bitOf w 7 && 0x11 ≤ l.version then s.replayOrRetrain p else s
  State.pump p 1024 (s.count (22 + p) 7)

theorem State.discardFlit_expects (s : State) (p : Nat) (l : Link) (w : Nat) : (s.discardFlit p l w).Expects p l := by
  obtain ⟨he, hp, hn⟩ := Link.take_expected l s.now (field w 31 20) false (field w 33 32) (field w 43 34)
  have h := State.expects_onPort s p he hp hn
  unfold State.discardFlit
  dsimp only
  refine State.Expects.pump (State.Expects.count ?_ _ _ _) _
  split
  · exact h.replayOrRetrain
  · exact h

theorem State.discardFlit_cascade (s : State) (p : Nat) (l : Link) (w : Nat) :
    (s.discardFlit p l w).cascade = s.cascade := by
  unfold State.discardFlit
  dsimp only
  rw [(State.pump_frame p 1024 _).only.cascade (by decide), (State.count_frame _ _ _ _).only.cascade (by decide)]
  split
  · rw [(State.replayOrRetrain_frame _ p).only.cascade (by decide)]; rfl
  · rfl

theorem Link.take_version (l : Link) (now ack : Nat) (counts : Bool) (cc credit : Nat) :
    (l.take now ack counts cc credit).version = l.version := by rw [Link.take_only]

theorem State.flit_outOfOrder {s : State} {p : Nat} {raw : Bytes} {l : Link} (hl : (s.port p).link = some l)
    (hc : crc64 (slice raw 0 248) = leAt raw 248 8) (hk : field (leAt (slice raw 0 248) 0 8) 3 0 ≠ 0)
    (hq : field (leAt (slice raw 0 248) 0 8) 19 8 ≠ l.expected) (hm : bitOf (leAt (slice raw 0 248) 0 8) 6 = false) :
    (s.flit p raw).Expects p l ∧ (s.flit p raw).cascade = s.cascade := by
  obtain ⟨w, hw⟩ : ∃ w, w = leAt (slice raw 0 248) 0 8 := ⟨_, rfl⟩
  rw [← hw] at hk hq hm
  have hin : decide (field w 3 0 = 0 ∨ field w 19 8 = l.expected) = false := by simp [hk, hq]
  obtain ⟨he, -, -⟩ := Link.take_expected l s.now (field w 31 20) false (field w 33 32) (field w 43 34)
  obtain ⟨t, ht⟩ : ∃ t, t = s.discardFlit p l w := ⟨_, rfl⟩
  have hcas : t.cascade = s.cascade := ht ▸ s.discardFlit_cascade p l w
  obtain ⟨m, hlink, hexp, hpart, hnak⟩ : t.Expects p l := ht ▸ s.discardFlit_expects p l w
  have hflit : s.flit p raw = (t.onPort p fun x => { x with link := some { m with
      freed := m.freed.set m.giveBack.1 (m.freed.getD m.giveBack.1 0 - m.giveBack.2) } }).sendIdle p false
      { idleFlit with creditClass := m.giveBack.1, credit := m.giveBack.2 } := by
    unfold State.discardFlit at ht
    dsimp only at ht
    rw [State.flit, hl]
    dsimp only
    rw [if_neg (by simp [hc]), ← hw, hin, if_neg (c := bitOf w 6 = true) (by simp [hm]), if_neg hk, he, if_neg hq,
      Link.take_version, ← ht, hlink]
    dsimp only
    rw [if_neg hk]
  rw [hflit]
  refine ⟨State.Expects.sendIdle (State.expects_onPort t p ?_ ?_ ?_) _ _ _, ?_⟩
  · exact hexp
  · exact hpart
  · exact hnak
  · rw [(State.sendIdle_frame _ p false _).only.cascade (by decide)]
    exact hcas

theorem State.acceptFlit_middle {s : State} {p : Nat} {l : Link} (cls : Nat) (b : Bytes) (hl : (s.port p).link = some l) :
    s.acceptFlit p 2 cls b = s.onPort p fun x => { x with link := some { l with
        expected := (l.expected + 1) % 4096, nakSent := false, freed := l.freed.set cls (l.freed.getD cls 0 + 1)
        partials := l.partials.set cls (l.partials.getD cls [] ++ [b]) } } := by
  rw [State.acceptFlit, hl]
  rfl

theorem Link.acked_drops (l : Link) (now ack : Nat) (hs : l.ackSeq < 4096) :
    (l.acked now ack).ackSeq < 4096 ∧ ∃ n, n ≤ l.replay.length ∧ (l.acked now ack).replay = l.replay.drop n ∧
      (l.acked now ack).ackSeq = (l.ackSeq + n) % 4096 := by
  unfold Link.acked
  split
  · next h => exact ⟨Nat.mod_lt _ (by decide), _, h.1, rfl, rfl⟩
  · exact ⟨hs, 0, Nat.zero_le _, rfl, (Nat.mod_eq_of_lt hs).symm⟩

theorem Link.passed_of_ack {l : Link} {n : Nat} (hs : l.ackSeq < 4096) (hn : n < 4096) :
    l.passed ((l.ackSeq + n) % 4096) = n := by
  unfold Link.passed
  omega

/-- An ACK that stands in the replay buffer releases the flits before it. -/
theorem Link.acked_replay {l : Link} {n : Nat} (now : Nat) (hs : l.ackSeq < 4096) (hn : n ≤ l.replay.length)
    (hl : l.replay.length < 4096) : (l.acked now ((l.ackSeq + n) % 4096)).replay = l.replay.drop n := by
  rw [Link.acked, Link.passed_of_ack hs (by omega)]
  split
  · rfl
  · obtain rfl : n = 0 := by omega
    rfl

theorem Link.credited_le {l : Link} (counts : Bool) (cc credit c : Nat)
    (h : ∀ d, l.credits.getD d 0 ≤ classBuffers.getD d 0) :
    (l.credited counts cc credit).credits.getD c 0 ≤ classBuffers.getD c 0 := by
  unfold Link.credited
  split
  · show (l.credits.set cc _).getD c 0 ≤ _
    rw [List.getD_eq_getElem?_getD, List.getElem?_set]
    split
    · next hc =>
      subst hc
      split
      · exact Nat.min_le_left _ _
      · exact Nat.zero_le _
    · rw [← List.getD_eq_getElem?_getD]
      exact h c
  · exact h c

/-! ### Paths -/

/-- The port a message leaves by inside a node ends at its destination. -/
theorem portPeer_node {here there : Nat} (hne : here ≠ there) (hnode : here / 8 = there / 8) :
    nextPort here there ≤ 6 ∧ portPeer here (nextPort here there) = some there := by
  have hp : nextPort here there = (there % 8 + 16 - here % 8 - 1) % 8 := by
    rw [nextPort, if_neg (by omega), if_neg (by omega)]
  have hle : nextPort here there ≤ 6 := by omega
  refine ⟨hle, ?_⟩
  rw [portPeer, if_pos hle, hp]
  congr 1
  omega

theorem portPeer_towards {here there : Nat} (hh : here < 64) (ht : there < 64) (hne : here ≠ there) :
    ∃ d, portPeer here (nextPort here there) = some d ∧ d < 64 ∧ (there / 8 < here / 8 → d = here - 8) ∧
      (here / 8 < there / 8 → d = here + 8) ∧ (here / 8 = there / 8 → d = there) := by
  obtain hlt | heq | hgt := Nat.lt_trichotomy (there / 8) (here / 8)
  · exact ⟨here - 8, by simp [portPeer, nextPort, hlt]; omega, by omega, by omega, by omega, by omega⟩
  · exact ⟨there, (portPeer_node hne heq.symm).2, ht, by omega, by omega, by omega⟩
  · exact ⟨here + 8, by simp [portPeer, nextPort, hgt, Nat.lt_asymm hgt]; omega, by omega, by omega, by omega, by omega⟩

/-! ### The obligation -/

theorem portEvents_answer (s : State) (p : Nat) (hp : p < 16) :
      (∀ l, (s.port p).link = some l → l.ackTime + 1000 ≤ s.now → l.retraining = false → l.replay ≠ [] →
        (l.replays < 16 → exec (.replayTimeout p) s = .next (((s.onPort p fun x => { x with
          link := some { l with ackTime := s.now, replays := l.replays + 1 } }).replayAll p).count (22 + p) 1)) ∧
        (16 ≤ l.replays → exec (.replayTimeout p) s = .next ((s.onPort p fun x => { x with
          link := some { l with ackTime := s.now, retraining := true } }).count (22 + p) 3))) ∧
      (s.standby = true → (s.port p).up = true → ∃ t, exec (.portLinkDown p) s = .next t ∧ t.health.events =
        s.health.events ||| 2 ^ 6 ∧ ((s.port p).link = none → (t.port p).up = false ∧ t.cascade = s.cascade)) := by
  refine ⟨fun l hl ht hr hq => ⟨fun hn => ?_, fun hn => ?_⟩, fun hs hu => ⟨_, portLinkDown_next hp hs hu,
    State.linkDown_events s p, fun hl => ?_⟩⟩
  · rw [replayTimeout_due hp hl ht, State.replayOrRetrain_replays hl hr hq hn]
  · rw [replayTimeout_due hp hl ht, State.replayOrRetrain_retrains hl hr hq hn]
  · rw [State.linkDown_unlinked hl]
    exact ⟨State.portDown_up s p, rfl⟩

/-- Settles O53: the rows of a port by the cases of their guards; a flit out of sequence, through the frames of what it
still does; the arithmetic of ACK modulo 4096 and of the ports of a node. -/
theorem linksTrainAcceptAndRouteFlits : Obligations.LinksTrainAcceptAndRouteFlits := by
  unfold Obligations.LinksTrainAcceptAndRouteFlits
  refine ⟨fun s p hp => ?_, ⟨fun s p raw hp hw => flitReceive_next raw hp hw, fun s p raw l hl hc =>
    ⟨State.flit_damaged hl hc, State.flit_asks hl hc⟩, fun s p raw l hl hc hk hq hm => ?_,
    fun s p cls b l hl => State.acceptFlit_middle cls b hl, fun l now ack cc credit counts hack hs => ?_⟩,
    fun here there hh ht hne => portPeer_towards hh ht hne⟩
  · obtain ⟨hreplay, hdown⟩ := portEvents_answer s p hp
    refine ⟨fun h hs he hu => ⟨plinkLinkUp_miswired hp hs he hu, fun hpeer hc hk =>
      ⟨plinkLinkUp_noVersion hp hs he hu hpeer hc hk, fun v hv => plinkLinkUp_trains hp hs he hu hpeer hc hk hv⟩⟩, hreplay,
      fun l hl hr => ⟨linkRetrainEnd_up hp hl hr, linkRetrainEnd_down hp hl hr, linkRetrainEnd_early hp hl hr⟩, hdown,
      fun hs he hu => ethernetLinkUp_next hp hs he hu, fun hs => ⟨_, pcieLinkL0_next hs, ?_, rfl⟩⟩
    show (s.cascade.masterSel && true && _) = _
    rw [Bool.and_true]
  · obtain ⟨⟨m, hlink, he, hpart, hn⟩, hcas⟩ := State.flit_outOfOrder hl hc hk hq hm
    exact ⟨m, hlink, he, hpart, hn, hcas⟩
  · rw [Link.take_only]
    obtain ⟨hlt, hdrop⟩ := l.acked_drops now ack hs
    have hcredits : (l.acked now ack).credits = l.credits := by rw [Link.acked_only]
    refine ⟨hlt, hdrop, fun n hn hlen ha => ?_, fun c h => Link.credited_le counts cc credit c (hcredits ▸ h), fun h => ?_, rfl⟩
    · rw [ha]
      exact Link.acked_replay now hs hn hlen
    · subst h
      exact hcredits

end Sys2Proof.Machine
end


-- ==== Sys2Proof/Proofs/Relay.lean ====
section
/-! PROOF. Relayed commands and their replies, remote letterbox writes and their answers. -/

namespace Sys2Proof.Machine

/-! ### Messages taken -/

/-- The message taken is one of those that have arrived, and only their list has changed. -/
theorem State.takeArrived_some {s t : State} {is : Message → Bool} {m : Message} (h : s.takeArrived is = some (m, t)) :
    t = { s with cascade := { s.cascade with arrived := s.cascade.arrived.erase m } } ∧ is m = true := by
  unfold State.takeArrived at h
  split at h
  · cases h
  · next hfind =>
    obtain ⟨rfl, rfl⟩ := Prod.mk.inj (Option.some.inj h)
    exact ⟨rfl, List.find?_some (p := is) hfind⟩

theorem messageRow_eq {type : Nat} {s t : State} {m : Message} (f : Message → State → State) (hw : s.working = true)
    (h : s.takeArrived (fun m => m.type == type) = some (m, t)) : messageRow type s f = .next (f m t) := by
  rw [messageRow, onlyIf_eq hw, h]
  rfl

/-! ### Relayed commands -/

theorem relayCmd_taken {s t : State} {m : Message} (hw : s.working = true)
    (h : s.takeArrived (fun m => m.type == 1) = some (m, t)) (hm : s.cascade.master = some m.srcDevice)
    (hl : s.cascade.masterLost = false) :
    exec .relayCmd s = .next (t.takeCmd (m.arg % 8) (some (m.srcDevice, field m.arg 63 8))
      (decodePacket (slice m.payload 0 64)) (some (m.payload.drop 64))
      (if (findOpcode (decodePacket (slice m.payload 0 64)).opcode).isNone then some .badOpcode
        else if 6 < m.arg % 8 then some .badParam
        else t.relayTransport (m.arg % 8) (decodePacket (slice m.payload 0 64)))) := by
  show execRelayCmd s = _
  rw [execRelayCmd, messageRow_eq _ hw h, State.relayed, if_neg]
  obtain ⟨rfl, -⟩ := State.takeArrived_some h
  simp [hm, hl]

theorem relayCmd_discarded {s t : State} {m : Message} (hw : s.working = true)
    (h : s.takeArrived (fun m => m.type == 1) = some (m, t))
    (hm : s.cascade.master ≠ some m.srcDevice ∨ s.cascade.masterLost = true) : exec .relayCmd s = .next t := by
  show execRelayCmd s = _
  rw [execRelayCmd, messageRow_eq _ hw h, State.relayed, if_pos]
  obtain ⟨rfl, -⟩ := State.takeArrived_some h
  exact hm

theorem State.Open.result {s : State} {id : Nat} (h : s.Open id) (addr : Nat) (block : Bytes) :
    (s.result id addr block).Open id := by
  obtain ⟨c, hc, hp⟩ := h
  exact ⟨_, cmd_onCmd _ hc, hp⟩

/-- An open command ended by its target's reply has the reply's status, DETAIL and times. -/
theorem State.endRaw_times {s : State} {id : Nat} (h : s.Open id) (status detail accepted doneAt : Nat) :
    ∃ d, ((s.endRaw id status detail).onCmd id fun c => { c with accepted := accepted, doneAt := doneAt }).cmd id = some d ∧
      d.phase = .ended ∧ d.status = status ∧ d.detail = detail % 2 ^ 64 ∧ d.accepted = accepted ∧ d.doneAt = doneAt := by
  obtain ⟨c, hc, hp, hs, hd⟩ := State.endRaw_ends (st := status) (d := detail) h
  exact ⟨_, cmd_onCmd _ hc, hp, hs, hd, rfl, rfl⟩

/-- A command relayed from here ends with what its target answers. -/
theorem State.relayAnswered_ends {s : State} {m : Message} {c : Cmd} (hc : s.cmd (field m.arg 63 8) = some c)
    (hp : c.phase = .relayed) (ht : c.packet.target = m.srcDevice) (hf : c.fn = m.arg % 8) :
    ∃ d, (s.relayAnswered m).cmd (field m.arg 63 8) = some d ∧ d.phase = .ended ∧ d.status = leAt m.payload 4 2 ∧
      d.detail = leAt m.payload 8 8 % 2 ^ 64 ∧ d.accepted = leAt m.payload 16 8 ∧ d.doneAt = leAt m.payload 24 8 := by
  have hopen : s.Open (field m.arg 63 8) := ⟨c, hc, by simp [hp]⟩
  have hlearnt (learns : Prop) [Decidable learns] (cas : Cascade) :
      (if learns then { s with cascade := cas } else s).Open (field m.arg 63 8) := by
    split
    · exact hopen
    · exact hopen
  rw [State.relayAnswered, hc]
  dsimp only
  rw [if_neg (by simp [hp, ht, hf])]
  refine State.endRaw_times ?_ _ _ _ _
  split
  · exact hlearnt _ _
  · exact State.Open.result (hlearnt _ _) _ _

theorem relayReply_ends {s t : State} {m : Message} {c : Cmd} (hw : s.working = true)
    (h : s.takeArrived (fun m => m.type == 2) = some (m, t)) (hc : s.cmd (field m.arg 63 8) = some c)
    (hp : c.phase = .relayed) (ht : c.packet.target = m.srcDevice) (hf : c.fn = m.arg % 8) :
    ∃ u d, exec .relayReply s = .next u ∧ u.cmd (field m.arg 63 8) = some d ∧ d.phase = .ended ∧
      d.status = leAt m.payload 4 2 ∧ d.detail = leAt m.payload 8 8 % 2 ^ 64 ∧ d.accepted = leAt m.payload 16 8 ∧
      d.doneAt = leAt m.payload 24 8 := by
  obtain ⟨rfl, -⟩ := State.takeArrived_some h
  obtain ⟨d, hd⟩ := State.relayAnswered_ends (s := { s with cascade := { s.cascade with arrived := s.cascade.arrived.erase m } })
    hc hp ht hf
  exact ⟨_, d, messageRow_eq (fun m s => s.relayAnswered m) hw h, hd⟩

theorem relayReply_late {s t : State} {m : Message} (hw : s.working = true)
    (h : s.takeArrived (fun m => m.type == 2) = some (m, t))
    (hc : s.cmd (field m.arg 63 8) = none ∨ ∃ c, s.cmd (field m.arg 63 8) = some c ∧ c.phase ≠ .relayed) :
    exec .relayReply s = .next t := by
  show execRelayReply s = _
  rw [execRelayReply, messageRow_eq _ hw h, State.relayAnswered]
  have hcmd : t.cmd (field m.arg 63 8) = s.cmd (field m.arg 63 8) := by
    obtain ⟨rfl, -⟩ := State.takeArrived_some h
    rfl
  obtain hn | ⟨c, hs, hp⟩ := hc
  · rw [hcmd, hn]
  · rw [hcmd, hs]
    dsimp only
    rw [if_pos (.inl hp)]

/-! ### Remote letterbox writes -/

/-- The write that a remote message offers to a letterbox of the core it names. -/
def State.remoteBoxWrite (s : State) (m : Message) : BoxWrite :=
  { sender := if s.senderHolds m.dstCore m then m.arg % 2 ^ 16 else 0, box := m.box, offset := m.offset
    data := m.payload, postmark := if m.postmark = 0 then none else some m.postmark
    teller := .peer m.srcDevice m.srcCore m.box m.postmark }

theorem lbWrite_next {s t : State} {m : Message} (hw : s.working = true)
    (h : s.takeArrived (fun m => m.type == 3) = some (m, t)) : exec .lbWrite s = .next (t.remoteWrite m) :=
  messageRow_eq (fun m s => s.remoteWrite m) hw h

theorem State.remoteWrite_noCore {s : State} {m : Message} (hc : 6 ≤ m.dstCore) :
    s.remoteWrite m = s.send (s.boxAck m.dstCore m.srcDevice m.srcCore m.box m.postmark 0x101) := by
  rw [State.remoteWrite]
  exact if_pos hc

theorem State.remoteWrite_accepted {s u : State} {m : Message} (hc : m.dstCore < 6)
    (h : s.offerWrite m.dstCore (s.remoteBoxWrite m) = (.accepted, u)) :
    s.remoteWrite m = u.renewBox m.dstCore m.box m.srcDevice := by
  rw [State.remoteWrite]
  dsimp only
  rw [if_neg (Nat.not_le.2 hc)]
  unfold State.remoteBoxWrite at h
  rw [h]

theorem State.remoteWrite_refused {s u : State} {m : Message} {d : Nat} (hc : m.dstCore < 6)
    (h : s.offerWrite m.dstCore (s.remoteBoxWrite m) = (.refused d, u)) :
    s.remoteWrite m = u.send (u.boxAck m.dstCore m.srcDevice m.srcCore m.box m.postmark (1 + d * 2 ^ 8)) := by
  rw [State.remoteWrite]
  dsimp only
  rw [if_neg (Nat.not_le.2 hc)]
  unfold State.remoteBoxWrite at h
  rw [h]

theorem State.remoteWrite_duplicate {s u : State} {m : Message} (hc : m.dstCore < 6)
    (h : s.offerWrite m.dstCore (s.remoteBoxWrite m) = (.duplicate, u)) :
    s.remoteWrite m = u.send (u.boxAck m.dstCore m.srcDevice m.srcCore m.box m.postmark 2) := by
  rw [State.remoteWrite]
  dsimp only
  rw [if_neg (Nat.not_le.2 hc)]
  unfold State.remoteBoxWrite at h
  rw [h]

/-! ### Their answers -/

theorem lbAck_next {s t : State} {m : Message} (hw : s.working = true)
    (h : s.takeArrived (fun m => m.type == 4) = some (m, t)) (hc : m.dstCore < 6) :
    exec .lbAck s = .next (t.writeAnswered m) := by
  show execLbAck s = _
  rw [execLbAck, messageRow_eq _ hw h]
  exact congrArg Host.Outcome.next (if_neg (Nat.not_le.2 hc))

theorem State.takeArrived_core {s t : State} {is : Message → Bool} {m : Message} (h : s.takeArrived is = some (m, t))
    (k : Nat) : t.core k = s.core k := by
  obtain ⟨rfl, -⟩ := State.takeArrived_some h
  rfl

/-- An answer is told to the run at work on the core it names, by its outcome. -/
theorem State.writeAnswered_outcomes {s : State} {m : Message} {rid : Nat} (hr : (s.core m.dstCore).running.run = some rid) :
    (m.arg % 4 = 0 → s.writeAnswered m = s.releaseMark m.dstCore m.postmark) ∧
    (m.arg % 4 = 1 → s.writeAnswered m = s.failRun rid .windowClosed (field m.arg 15 8)) ∧
    (m.arg % 4 = 2 → s.writeAnswered m = s.notice rid 5) := by
  refine ⟨fun h => ?_, fun h => ?_, fun h => ?_⟩ <;>
  · rw [State.writeAnswered, hr]
    dsimp only
    rw [h]
    rfl

theorem State.writeAnswered_idle {s : State} {m : Message} (hr : (s.core m.dstCore).running.run = none) :
    s.writeAnswered m = s := by
  rw [State.writeAnswered, hr]

/-! ### The obligation -/

/-- Settles O54: the message rows by what they take, and each message's handling by the cases of its outcome. -/
theorem relayedCommandsAndRemoteWritesAreAnswered : Obligations.RelayedCommandsAndRemoteWritesAreAnswered := by
  unfold Obligations.RelayedCommandsAndRemoteWritesAreAnswered
  refine ⟨fun s t m hw => ⟨fun h => ⟨fun hm hl => relayCmd_taken hw h hm hl, relayCmd_discarded hw h⟩, fun h =>
    ⟨fun c hc hp ht hf => relayReply_ends hw h hc hp ht hf, relayReply_late hw h⟩⟩, fun s t m hw => ⟨fun h => ?_,
    fun h hc => ⟨fun rid hr => ?_, fun hr => ?_⟩⟩⟩
  · rw [lbWrite_next hw h]
    refine ⟨fun hc => ?_, fun hc a u ha => ⟨?_, ?_, ?_⟩⟩
    · rw [State.remoteWrite_noCore hc]
    · rintro rfl
      rw [State.remoteWrite_accepted hc ha]
    · rintro d rfl
      rw [State.remoteWrite_refused hc ha]
    · rintro rfl
      rw [State.remoteWrite_duplicate hc ha]
  · rw [← State.takeArrived_core h] at hr
    obtain ⟨hzero, hone, htwo⟩ := State.writeAnswered_outcomes hr
    rw [lbAck_next hw h hc]
    exact ⟨fun e => congrArg _ (hzero e), fun e => congrArg _ (hone e), fun e => congrArg _ (htwo e)⟩
  · rw [← State.takeArrived_core h] at hr
    rw [lbAck_next hw h hc, State.writeAnswered_idle hr]

end Sys2Proof.Machine
end


-- ==== Sys2Proof/Proofs/Leases.lean ====
section
/-! PROOF. Dispatch counters and their claims; renewal, expiry and revocation of leases. -/

namespace Sys2Proof.Machine

/-! ### Dispatch counters -/

/-- A counter that serves takes its next value, and the claim is outstanding until its lease ends. -/
theorem Counter.claim_value {c d : Counter} {now sweep v : Nat} {w : Claimer} (ha : c.armed = true)
    (ho : c.outstanding.length < 1024) (ht : c.take w.array sweep = (.value v, d)) :
    c.claim true now w c.generation sweep = (.value v, { d with
      outstanding := d.outstanding ++ [Claim.mk v w.device w.core w.array (now + 10000000)] }) := by
  rw [Counter.claim]
  dsimp only
  rw [if_pos (by simp [ha]), if_neg (by simp; omega), ht]

theorem Counter.claim_exhausted {c d : Counter} {now sweep : Nat} {w : Claimer} (ha : c.armed = true)
    (ho : c.outstanding.length < 1024) (ht : c.take w.array sweep = (.exhausted, d)) :
    c.claim true now w c.generation sweep = (.exhausted, d) := by
  rw [Counter.claim]
  dsimp only
  rw [if_pos (by simp [ha]), if_neg (by simp; omega), ht]

theorem Counter.take_reissued {c : Counter} {v : Nat} {rest : List Nat} (array sweep : Nat) (hg : c.ganged = false)
    (h : c.reissue = v :: rest) : c.take array sweep = (.value v, { c with reissue := rest }) := by
  rw [Counter.take, hg, if_neg Bool.false_ne_true, h]

theorem Counter.take_new {c : Counter} (array sweep : Nat) (hg : c.ganged = false) (h : c.reissue = [])
    (hl : c.value < c.limit) : c.take array sweep = (.value c.value, { c with value := c.value + 1 }) := by
  rw [Counter.take, hg, if_neg Bool.false_ne_true, h]
  exact if_pos hl

theorem Counter.take_none {c : Counter} (array sweep : Nat) (hg : c.ganged = false) (h : c.reissue = [])
    (hl : c.limit ≤ c.value) : c.take array sweep = (.exhausted, c) := by
  rw [Counter.take, hg, if_neg Bool.false_ne_true, h]
  exact if_neg (Nat.not_lt.2 hl)

theorem Counter.claim_answers {c : Counter} (now sweep : Nat) (w : Claimer) (ha : c.armed = true)
    (hg : c.ganged = false) (ho : c.outstanding.length < 1024) :
    (∀ v rest, c.reissue = v :: rest → (c.claim true now w c.generation sweep).1 = .value v ∧
      (c.claim true now w c.generation sweep).2.reissue = rest ∧
      (c.claim true now w c.generation sweep).2.value = c.value) ∧
    (c.reissue = [] → c.value < c.limit → (c.claim true now w c.generation sweep).1 = .value c.value ∧
      (c.claim true now w c.generation sweep).2.value = c.value + 1) ∧
    (c.reissue = [] → c.limit ≤ c.value → c.claim true now w c.generation sweep = (.exhausted, c)) ∧
    (∀ v, (c.claim true now w c.generation sweep).1 = .value v →
      (c.claim true now w c.generation sweep).2.outstanding =
        c.outstanding ++ [Claim.mk v w.device w.core w.array (now + 10000000)]) := by
  refine ⟨fun v rest h => ?_, fun h hl => ?_, fun h hl => ?_, fun v hv => ?_⟩
  · rw [Counter.claim_value ha ho (Counter.take_reissued _ _ hg h)]
    exact ⟨rfl, rfl, rfl⟩
  · rw [Counter.claim_value ha ho (Counter.take_new _ _ hg h hl)]
    exact ⟨rfl, rfl⟩
  · exact Counter.claim_exhausted ha ho (Counter.take_none _ _ hg h hl)
  · cases h : c.reissue with
    | cons u rest =>
      rw [Counter.claim_value ha ho (Counter.take_reissued _ _ hg h)] at hv ⊢
      obtain rfl := ClaimAnswer.value.inj hv
      rfl
    | nil =>
      by_cases hl : c.value < c.limit
      · rw [Counter.claim_value ha ho (Counter.take_new _ _ hg h hl)] at hv ⊢
        obtain rfl := ClaimAnswer.value.inj hv
        rfl
      · rw [Counter.claim_exhausted ha ho (Counter.take_none _ _ hg h (Nat.not_lt.1 hl))] at hv
        cases hv

/-- A claim of an arming to come is held. -/
theorem Counter.claim_held {c : Counter} (now gen sweep : Nat) (w : Claimer)
    (hnext : c.armed = false ∨ gen = (c.generation + 1) % 2 ^ 16) (hnot : gen ≠ c.generation ∨ c.armed = false) :
    (c.claim true now w gen sweep).1 = .held := by
  rw [Counter.claim]
  dsimp only
  rw [if_neg (by rcases hnot with h | h <;> simp [h]), if_pos (by simpa using hnext)]

theorem insertValue_perm (v : Nat) (l : List Nat) : (insertValue v l).Perm (v :: l) := by
  induction l with
  | nil => exact .refl _
  | cons x xs ih =>
    rw [insertValue]
    split
    · exact .refl _
    · exact (ih.cons x).trans (.swap v x xs)

theorem insertValue_sorted {v : Nat} {l : List Nat} (h : l.Pairwise (· ≤ ·)) : (insertValue v l).Pairwise (· ≤ ·) := by
  induction l with
  | nil => exact List.pairwise_singleton _ _
  | cons x xs ih =>
    obtain ⟨hx, hxs⟩ := List.pairwise_cons.1 h
    rw [insertValue]
    split
    · next hv => exact List.pairwise_cons.2 ⟨fun a ha => (List.mem_cons.1 ha).elim (fun e => e ▸ hv) fun ha =>
        Nat.le_trans hv (hx a ha), h⟩
    · next hv =>
      refine List.pairwise_cons.2 ⟨fun a ha => ?_, ih hxs⟩
      obtain rfl | ha := List.mem_cons.1 ((insertValue_perm v xs).mem_iff.1 ha)
      · omega
      · exact hx a ha

/-! ### Remote claims -/

theorem State.takeArrived_counter {s t : State} {is : Message → Bool} {m : Message} (h : s.takeArrived is = some (m, t))
    (n : Nat) : t.counter n = s.counter n := by
  obtain ⟨rfl, -⟩ := State.takeArrived_some h
  rfl

theorem plinkClaim_served {s t u : State} {m : Message} {a : ClaimAnswer} (hw : s.working = true)
    (h : s.takeArrived (fun m => m.type == 5) = some (m, t)) (hn : 72 ≤ m.arg % 256)
    (ho : (s.counter (m.arg % 256)).owner = m.partition)
    (ha : t.claim (m.arg % 256) { device := m.srcDevice, core := m.srcCore, array := field m.arg 30 24 } (field m.arg 23 8) 0 =
      (a, u)) :
    exec .plinkClaim s = .next (u.answerClaim (m.arg % 256)
      { device := m.srcDevice, core := m.srcCore, array := field m.arg 30 24 } (field m.arg 23 8) a) := by
  show execPlinkClaim s = _
  rw [execPlinkClaim, messageRow_eq _ hw h, State.remoteClaim]
  dsimp only
  rw [if_neg (by rw [State.takeArrived_counter h]; omega), ha]

theorem claimReply_taken {s t : State} {m : Message} {rid i : Nat} {e : LayerExec} (hw : s.working = true)
    (h : s.takeArrived (fun m => m.type == 6) = some (m, t)) (hc : m.dstCore < 6)
    (hl : s.layerOn m.dstCore = some (rid, i, e))
    (hclaim : ((s.core m.dstCore).array (m.offset % 128)).claiming = true) (hs : e.claimsShared = true)
    (hd : e.layer.homeDevice = m.srcDevice) :
    exec .claimReply s = .next (t.answerArray m.dstCore (m.offset % 128) e.layer.counter e.generation
      (if bitOf m.arg 32 then .exhausted else .value (m.arg % 2 ^ 32))) := by
  show execClaimReply s = _
  rw [execClaimReply, messageRow_eq _ hw h, if_neg (Nat.not_le.2 hc), State.claimAnswered]
  have hcore := State.takeArrived_core h m.dstCore
  have hlayer : t.layerOn m.dstCore = some (rid, i, e) := by
    rw [← hl, State.layerOn, hcore]
    rfl
  rw [hlayer, hcore]
  dsimp only
  rw [if_neg (by simp [hclaim, hs, hd])]

theorem plinkRelease_claim {s t : State} {m : Message} (hw : s.working = true)
    (h : s.takeArrived (fun m => m.type == 7) = some (m, t)) (hb : bitOf m.arg 40 = false) (hn : 72 ≤ m.arg % 256)
    (ho : (s.counter (m.arg % 256)).outstanding.any
      (fun o => o.value == field m.arg 39 8 && o.device == m.srcDevice) = true) :
    exec .plinkRelease s = .next ((t.setCounter (m.arg % 256)
      ((t.counter (m.arg % 256)).release (field m.arg 39 8))).serveHeld (m.arg % 256)) := by
  show execPlinkRelease s = _
  rw [execPlinkRelease, messageRow_eq _ hw h, if_neg (by simp [hb]), State.claimReleased]
  rw [if_neg (by rw [State.takeArrived_counter h, ho]; simpa using hn)]

/-! ### Renewal and expiry -/

theorem renew_next {s t : State} {m : Message} (hw : s.working = true)
    (h : s.takeArrived (fun m => m.type == 9) = some (m, t)) :
    (bitOf m.arg 40 = false → exec .renew s = .next (t.renewFrom m.srcDevice)) ∧
    (bitOf m.arg 40 = true → exec .renew s = .next (t.renewClaimOf m.srcDevice (m.arg % 256) (field m.arg 39 8))) := by
  have hnext : exec .renew s = .next (if bitOf m.arg 40 then t.renewClaimOf m.srcDevice (m.arg % 256) (field m.arg 39 8)
      else t.renewFrom m.srcDevice) := by
    show execRenew s = _
    rw [execRenew, onlyIf_eq hw, State.renewal, h]
  exact ⟨fun hb => by rw [hnext, hb]; rfl, fun hb => by rw [hnext, hb]; rfl⟩

/-- A lease after a renewal by device `d` at time `now`. -/
def Lease.renewedBy (l : Lease) (d now : Nat) : Lease :=
  if l.holder = d ∧ !l.revoked ∧ now < l.expiry then { l with expiry := now + 10000000 } else l

theorem State.renewFrom_leases (s : State) (d : Nat) :
    (s.renewFrom d).leases = s.leases.map fun l => l.renewedBy d s.now := rfl

theorem Lease.renewedBy_fields (l : Lease) (d now : Nat) : (l.renewedBy d now).holder = l.holder ∧
    (l.renewedBy d now).resource = l.resource ∧ (l.renewedBy d now).revoked = l.revoked ∧
    (l.renewedBy d now).expiry =
      (if l.holder = d ∧ l.revoked = false ∧ now < l.expiry then now + 10000000 else l.expiry) := by
  unfold Lease.renewedBy
  by_cases h : l.holder = d ∧ l.revoked = false ∧ now < l.expiry
  · rw [if_pos (by simpa using h), if_pos h]
    exact ⟨rfl, rfl, rfl, rfl⟩
  · rw [if_neg (by simpa using h), if_neg h]
    exact ⟨rfl, rfl, rfl, rfl⟩

theorem renewTimer_due {s : State} (hw : s.working = true) (hc : s.inCascade = true) (ht : s.cascade.renewAt ≤ s.now) :
    exec .renewTimer s = .next (({ s with cascade := { s.cascade with renewAt := s.cascade.renewAt + 1000000 } }).sendAll
      fun d => Message.plain 9 s.cascade.device d 0 []) := by
  show execRenewTimer s = _
  rw [execRenewTimer, onlyIf_eq (by simp [hw, hc, ht])]

theorem renewTimer_early {s : State} (hw : s.working = true) (hc : s.inCascade = true) (ht : s.now < s.cascade.renewAt) :
    exec .renewTimer s = .next s := by
  show execRenewTimer s = _
  rw [execRenewTimer, show (s.working && s.inCascade && decide (s.cascade.renewAt ≤ s.now)) = false by
    simp [hw, hc, ht]]
  rfl

theorem State.port_of_no_ports {s : State} (h : s.ports = []) (p : Nat) : (s.port p).link = none := by
  rw [State.port, h]
  rfl

/-- With no counter and no link, a device's leases are those of its list. -/
theorem State.expireLeases_boxes {s : State} (hc : s.counters = []) (hp : s.ports = [])
    (ht : s.leases.filter (fun l => l.kind == 4 && l.expiry ≤ s.now) = []) :
    s.expireLeases = (s.leases.filter fun l => l.kind == 1 && !l.revoked && l.expiry ≤ s.now).foldl
      (fun s l => s.revokeBox l true true) s := by
  have hpools : ((List.range 16).filter fun p => (s.port p).link.any fun l => l.poolExpiry.any (· ≤ s.now)) = [] :=
    List.filter_eq_nil_iff.2 fun p _ => by rw [State.port_of_no_ports hp]; exact Bool.false_ne_true
  rw [State.expireLeases, ht, hc, hpools]
  rfl

theorem State.waitsOn_congr {s t : State} (hc : t.cores = s.cores) (hr : t.runs = s.runs) (core box : Nat) :
    t.waitsOn core box = s.waitsOn core box := by
  unfold State.waitsOn State.core State.run
  rw [hc, hr]

/-- An expired letterbox lease of a lost holder, on which nothing waits: revoked and counted. -/
theorem State.revokeBox_lost {s : State} {l : Lease} (hl : s.leases = [l]) (hlost : bitOf s.cascade.lost l.holder = true)
    (hw : s.waitsOn (l.resource / 2 ^ 8) (l.resource % 2 ^ 8) = none) :
    s.revokeBox l true true = { s with leases := [{ l with revoked := true }] }.count 46 1 := by
  have hmap : (s.leases.map fun x => if x = l then { x with revoked := true } else x) = [{ l with revoked := true }] := by
    rw [hl, List.map_singleton, if_pos rfl]
  rw [State.revokeBox]
  rw [hmap, State.countLease, if_pos rfl, if_pos rfl, State.tellRevoked,
    if_pos (by rw [(State.count_frame _ 46 1 1).only.cascade (by decide)]; exact hlost)]
  have hnone : ({ s with leases := [{ l with revoked := true }] }.count 46 1).waitsOn (l.resource / 2 ^ 8)
      (l.resource % 2 ^ 8) = none := (State.waitsOn_congr ((State.count_frame _ 46 1 1).only.cores (by decide))
    ((State.count_frame _ 46 1 1).only.runs (by decide)) _ _).trans hw
  rw [hnone]

theorem leaseExpiry_next {s : State} (hw : s.working = true) : exec .leaseExpiry s = .next s.expireLeases := by
  show execLeaseExpiry s = _
  rw [execLeaseExpiry, onlyIf_eq hw]

theorem leaseExpiry_none {s : State} (hw : s.working = true) (hc : s.counters = []) (hp : s.ports = [])
    (h : ∀ l ∈ s.leases, s.now < l.expiry) : exec .leaseExpiry s = .next s := by
  have hnone (P : Lease → Bool) : s.leases.filter (fun l => P l && l.expiry ≤ s.now) = [] :=
    List.filter_eq_nil_iff.2 fun l hl => by have := h l hl; simp; omega
  rw [leaseExpiry_next hw, State.expireLeases_boxes hc hp (hnone _), hnone fun l => l.kind == 1 && !l.revoked]
  rfl

theorem leaseExpiry_one {s : State} {l : Lease} (hw : s.working = true) (hc : s.counters = []) (hp : s.ports = [])
    (hl : s.leases = [l]) (hk : l.kind = 1) (hr : l.revoked = false) (he : l.expiry ≤ s.now)
    (hlost : bitOf s.cascade.lost l.holder = true)
    (hwait : s.waitsOn (l.resource / 2 ^ 8) (l.resource % 2 ^ 8) = none) :
    exec .leaseExpiry s = .next ({ s with leases := [{ l with revoked := true }] }.count 46 1) := by
  rw [leaseExpiry_next hw, State.expireLeases_boxes hc hp (by simp [hl, hk]),
    show (s.leases.filter fun l => l.kind == 1 && !l.revoked && l.expiry ≤ s.now) = [l] by simp [hl, hk, hr, he]]
  exact congrArg Host.Outcome.next (State.revokeBox_lost hl hlost hwait)

/-! ### Revocation told -/

theorem revoked_next {s t : State} {m : Message} (hw : s.working = true)
    (h : s.takeArrived (fun m => m.type == 10) = some (m, t)) : exec .revoked s = .next (t.revoked m) := by
  show execRevoked s = _
  rw [execRevoked, onlyIf_eq hw, h]
  rfl

theorem State.sharedRuns_idle {s : State} (h : ∀ k, k < 6 → s.layerOn k = none ∧ (s.core k).tail = none) (home : Nat)
    (counter : Option Nat) : s.sharedRuns home counter = [] := by
  unfold State.sharedRuns
  rw [List.flatMap_eq_nil_iff.2]
  · rfl
  · intro k hk
    obtain ⟨hl, ht⟩ := h k (List.mem_range.1 hk)
    rw [hl, ht]
    rfl

theorem State.revoked_kinds (s : State) (m : Message) :
    (m.arg % 8 = 4 → s.revoked m = s.endBucket (field m.arg 57 32 % 2 ^ 12) (if bitOf m.arg 3 then .badParam else .leaseRevoked)) ∧
    (m.arg % 8 = 1 → s.revoked m = s) ∧
    (m.arg % 8 = 2 → s.revoked m = (s.sharedRuns m.srcDevice (some (field m.arg 57 32 % 256))).foldl
      (fun s r => s.failRun r .leaseRevoked) s) := by
  refine ⟨fun h => ?_, fun h => ?_, fun h => ?_⟩ <;>
  · rw [State.revoked]
    rw [h]
    rfl

/-! ### The obligation -/

/-- Settles O55: a claim by what the counter takes; the message rows by what they take; expiry by the lists of what has
expired. -/
theorem countersAndLeasesKeepTheirRules : Obligations.CountersAndLeasesKeepTheirRules := by
  unfold Obligations.CountersAndLeasesKeepTheirRules
  refine ⟨⟨fun c now gen sweep w ha hgen hg ho => ?_, fun c now gen sweep w hnext hnot =>
    Counter.claim_held now gen sweep w hnext hnot, fun s t m hw => ⟨fun h hn ho a u ha => plinkClaim_served hw h hn ho ha,
      fun h hc rid i e hl hclaim hs hd => claimReply_taken hw h hc hl hclaim hs hd, fun h hb hn ho =>
      plinkRelease_claim hw h hb hn ho⟩, fun v l => ⟨insertValue_perm v l, insertValue_sorted⟩⟩,
    fun s t m hw h => renew_next hw h, fun s d => ⟨?_, fun i l hl => ?_⟩,
    fun s hw hc => ⟨renewTimer_due hw hc, renewTimer_early hw hc⟩,
    fun s hw hc hp => ⟨leaseExpiry_none hw hc hp, fun l hl hk hr he hlost hwait =>
      leaseExpiry_one hw hc hp hl hk hr he hlost hwait⟩, fun s t m hw h => ?_⟩
  · subst hgen
    exact Counter.claim_answers now sweep w ha hg ho
  · rw [State.renewFrom_leases, List.length_map]
  · refine ⟨l.renewedBy d s.now, ?_, l.renewedBy_fields d s.now⟩
    rw [State.renewFrom_leases, List.getElem?_map, hl]
    rfl
  · obtain ⟨htag, hbox, hclaim⟩ := t.revoked_kinds m
    rw [revoked_next hw h]
    refine ⟨fun hk => congrArg _ (htag hk), fun hk => congrArg _ (hbox hk), fun hk hidle => ?_⟩
    rw [hclaim hk, State.sharedRuns_idle]
    · rfl
    · intro k hk
      obtain ⟨hl, ht⟩ := hidle k hk
      rw [State.layerOn, State.takeArrived_core h]
      exact ⟨hl, ht⟩

end Sys2Proof.Machine
end


-- ==== Sys2Proof/Proofs/CascadeCommands.lean ====
section
/-! PROOF. JOIN_CASCADE, LEAVE_CASCADE and LEASE_REVOKE, and how a cascade forms and loses members. -/

namespace Sys2Proof.Machine

/-! ### JOIN_CASCADE -/

theorem joinCascade_row {s : State} {id : Nat} {c : Cmd} (h : s.Starts id 0x0501 c) (hj : s.cascade.join = none) :
    exec (.joinCascade id) s = .next ((s.started id c).joinCascade id c) := by
  show execJoinCascade id s = _
  rw [execJoinCascade, hj, if_neg (by simp), State.opcodeRow_eq h]

theorem State.joinCascade_bad {s : State} {id : Nat} {c : Cmd} (h : s.isMaster = false ∨
    bitOf (leAt c.params 0 8) s.cascade.device = false ∨ cascadeShape (leAt c.params 0 8) = false ∨
    leAt c.params 8 4 = 0 ∨ 60000 < leAt c.params 8 4) : s.joinCascade id c = s.fail id .badParam := by
  rw [State.joinCascade]
  refine if_pos ?_
  obtain h | h | h | h | h := h
  · exact .inl (by rw [h]; rfl)
  · exact .inr (.inl (by rw [h]; rfl))
  · exact .inr (.inr (.inl (by rw [h]; rfl)))
  · exact .inr (.inr (.inr (.inl h)))
  · exact .inr (.inr (.inr (.inr (.inl h))))

theorem State.joinCascade_asks {s : State} {id : Nat} {c : Cmd} (hm : s.isMaster = true)
    (hd : bitOf (leAt c.params 0 8) s.cascade.device = true) (hs : cascadeShape (leAt c.params 0 8) = true)
    (ht : 1 ≤ leAt c.params 8 4) (ht' : leAt c.params 8 4 ≤ 60000)
    (hp : leAt c.params 0 8 &&& (s.cascade.members &&& (2 ^ 64 - 1 ^^^ s.cascade.lost)) =
      s.cascade.members &&& (2 ^ 64 - 1 ^^^ s.cascade.lost)) :
    s.joinCascade id c = (bitsOf 64 (leAt c.params 0 8 ^^^ 2 ^ s.cascade.device)).foldl (fun t d =>
        t.send (Message.plain 11 t.cascade.device d (2 + d * 2 ^ 8 + leAt c.params 8 4 * 2 ^ 32) (leBytes 8 (leAt c.params 0 8))))
      { s with cascade := { s.cascade with join := some {
          cmd := id, members := leAt c.params 0 8, waiting := leAt c.params 0 8 ^^^ 2 ^ s.cascade.device, refused := 0
          deadline := s.now + leAt c.params 8 4 * 1000000, versions := 0 } } } := by
  rw [State.joinCascade]
  refine if_neg ?_
  rintro (h | h | h | h | h | h)
  · simp [hm] at h
  · simp [hd] at h
  · simp [hs] at h
  · omega
  · omega
  · exact h hp

/-! ### LEAVE_CASCADE -/

theorem State.send_device (s : State) (m : Message) : (s.send m).cascade.device = s.cascade.device := by
  rw [State.send]
  split
  · rfl
  · rw [(State.sendOn_frame s _ m).only.cascade (by decide)]

theorem foldl_keeps {α β γ : Type} (g : α → γ) (f : α → β → α) (hf : ∀ a b, g (f a b) = g a) (l : List β) (a : α) :
    g (l.foldl f a) = g a := by
  induction l generalizing a with
  | nil => rfl
  | cons b l ih => rw [List.foldl_cons, ih, hf]

theorem State.sendAll_device (s : State) (f : Nat → Message) : (s.sendAll f).cascade.device = s.cascade.device :=
  foldl_keeps (fun s : State => s.cascade.device) _ (fun s d => s.send_device (f d)) _ s

theorem leaveCascade_row {s : State} {id : Nat} {c : Cmd} (h : s.Starts id 0x0502 c) :
    exec (.leaveCascade id) s = .next ((s.started id c).leaveCascade id c) := by
  show execLeaveCascade id s = _
  rw [execLeaveCascade, State.opcodeRow_eq h]

theorem State.leaveCascade_bad {s : State} {id : Nat} {c : Cmd} (h : s.isMaster = false ∨ leAt c.params 0 8 = 0 ∨
    leAt c.params 0 8 &&& s.cascade.members ≠ leAt c.params 0 8 ∨
    (bitOf (leAt c.params 0 8) s.cascade.device = true ∧ leAt c.params 0 8 ≠ s.cascade.members)) :
    s.leaveCascade id c = s.fail id .badParam := by
  rw [State.leaveCascade]
  exact if_pos (h.imp_left fun h => by rw [h]; rfl)

theorem State.leaveCascade_goes {s : State} {id : Nat} {c : Cmd} (hm : s.isMaster = true) (h0 : leAt c.params 0 8 ≠ 0)
    (hin : leAt c.params 0 8 &&& s.cascade.members = leAt c.params 0 8)
    (hall : bitOf (leAt c.params 0 8) s.cascade.device = false ∨ leAt c.params 0 8 = s.cascade.members)
    {v : Nat} (hv : v = s.lowestOf (s.cascade.members &&& (2 ^ 64 - 1 ^^^ leAt c.params 0 8))) :
    s.leaveCascade id c = (((s.sendAll fun d =>
        Message.plain 11 s.cascade.device d (4 + d * 2 ^ 8 + v * 2 ^ 32) (leBytes 8 (leAt c.params 0 8))).removeMembers
      (if bitOf (leAt c.params 0 8) s.cascade.device then leAt c.params 0 8 ^^^ 2 ^ s.cascade.device
        else leAt c.params 0 8) v).complete id v) := by
  rw [State.leaveCascade]
  dsimp only
  rw [if_neg, ← hv, State.sendAll_device]
  rintro (h | h | h | ⟨h, h'⟩)
  · simp [hm] at h
  · exact h0 h
  · exact h hin
  · exact hall.elim (fun hf => by simp [hf] at h) h'

/-! ### LEASE_REVOKE -/

theorem leaseRevoke_row {s : State} {id : Nat} {c : Cmd} (h : s.Starts id 0x0504 c) :
    exec (.leaseRevoke id) s = .next ((s.started id c).leaseRevoke id c) := by
  show execLeaseRevoke id s = _
  rw [execLeaseRevoke, State.opcodeRow_eq h]

/-- A home that takes no part is not among those that do. -/
theorem home_and_participants_ne {k p : Nat} (h : bitOf p k = false) : 2 ^ k &&& p ≠ 2 ^ k := by
  intro he
  have hbit := congrArg (fun n => n.testBit k) he
  rw [bitOf_eq_testBit] at h
  simp [h] at hbit

theorem State.leaseRevoke_bad {s : State} {id : Nat} {c : Cmd} (h : 64 ≤ leAt c.params 0 1 ∨ 4 < leAt c.params 1 1 ∨
    (s.inCascade = true ∧ s.isMaster = false) ∨ (leAt c.params 4 4 ≠ 0xFFFFFFFF ∧
      bitOf s.participants (leAt c.params 4 4 / 2 ^ 26) = false)) : s.leaseRevoke id c = s.fail id .badParam := by
  rw [State.leaseRevoke]
  refine if_pos ?_
  obtain h | h | ⟨hc, hm⟩ | ⟨hr, hb⟩ := h
  · exact .inl h
  · exact .inr (.inl h)
  · exact .inr (.inr (.inl ⟨hc, by rw [hm]; rfl⟩))
  · refine .inr (.inr (.inr ?_))
    rw [if_neg hr]
    exact home_and_participants_ne hb

/-- Outside a cascade the device is the only home of its leases. -/
theorem State.leaseRevoke_alone {s t : State} {id n : Nat} {c : Cmd} (hd : leAt c.params 0 1 < 64) (hk : leAt c.params 1 1 ≤ 4)
    (hc : s.inCascade = false) (hr : leAt c.params 4 4 = 0xFFFFFFFF)
    (ht : s.revokeNamed (leAt c.params 0 1) (leAt c.params 1 1) (leAt c.params 4 4) true = (n, t)) :
    s.leaseRevoke id c = t.complete id n := by
  have hpart : s.participants = 2 ^ s.cascade.device := by rw [State.participants, hc]; rfl
  have haway : ((bitsOf 64 (2 ^ s.cascade.device)).filter fun h => h != s.cascade.device && !bitOf s.cascade.lost h) = [] := by
    refine List.filter_eq_nil_iff.2 fun k hkm => ?_
    obtain ⟨-, hk⟩ := mem_bitsOf.1 hkm
    rw [bitOf_eq_testBit, Nat.testBit_two_pow, decide_eq_true_iff] at hk
    simp [hk]
  rw [State.leaseRevoke]
  dsimp only
  rw [if_pos hr, hpart, if_neg, haway, if_pos (by simp), if_pos (by simp [bitOf_eq_testBit]), ht]
  · simp [hc]
    omega

/-! ### The obligation of the three commands -/

/-- Settles O56: each command's effect by its guard, on the state in which it has started. -/
theorem cascadeCommandsAskEveryMember : Obligations.CascadeCommandsAskEveryMember := by
  unfold Obligations.CascadeCommandsAskEveryMember
  refine ⟨fun s id c h hj => ⟨fun hbad => ?_, fun hm hd hs ht ht' hp => ?_⟩, fun s id c h => ⟨fun hbad => ?_,
    fun hm h0 hin hall => ?_⟩, fun s id c h => ⟨fun hbad => ?_, fun hd hk hc hr _ n t ht => ?_⟩⟩
  · rw [joinCascade_row h hj, State.joinCascade_bad (s := s.started id c) hbad]
  · rw [joinCascade_row h hj, State.joinCascade_asks (s := s.started id c) hm hd hs ht ht' hp]; rfl
  · rw [leaveCascade_row h, State.leaveCascade_bad (s := s.started id c) hbad]
  · rw [leaveCascade_row h, State.leaveCascade_goes (s := s.started id c) hm h0 hin hall rfl]; rfl
  · rw [leaseRevoke_row h, State.leaseRevoke_bad (s := s.started id c) hbad]
  · rw [leaseRevoke_row h, State.leaseRevoke_alone (s := s.started id c) hd hk hc hr ht]

end Sys2Proof.Machine
end


-- ==== Sys2Proof/Proofs/CascadeMembers.lean ====
section
/-! PROOF. How a cascade forms in two phases, and how members leave and are lost. -/

namespace Sys2Proof.Machine

/-! ### Joining -/

theorem memberRow_eq {event : Nat} {s t : State} {m : Message} (f : Message → State → State) (hw : s.working = true)
    (h : s.takeArrived (fun m => m.type == 11 && m.arg % 256 == event) = some (m, t)) :
    memberRow event s f = .next (f m t) := by
  rw [memberRow, onlyIf_eq hw, h]
  rfl

theorem State.takeArrived_device {s t : State} {is : Message → Bool} {m : Message} (h : s.takeArrived is = some (m, t)) :
    t.cascade.device = s.cascade.device := by
  obtain ⟨rfl, -⟩ := State.takeArrived_some h
  rfl

theorem memberPrepare_next {s t : State} {m : Message} (hw : s.working = true)
    (h : s.takeArrived (fun m => m.type == 11 && m.arg % 256 == 2) = some (m, t)) :
    exec .memberPrepare s = .next (t.prepare m) := memberRow_eq (fun m s => s.prepare m) hw h

theorem State.prepare_accepts {s : State} {m : Message} (h : s.acceptsJoin m.srcDevice (leAt m.payload 0 8) = true) :
    s.prepare m = ({ s with cascade := { s.cascade with
        prepared := some ⟨m.srcDevice, leAt m.payload 0 8, s.now + field m.arg 63 32 * 1000000⟩ } }).send
      (Message.plain 11 s.cascade.device m.srcDevice (6 + s.cascade.device * 2 ^ 8) s.report) := by
  rw [State.prepare]
  exact if_pos h

theorem State.prepare_refuses {s : State} {m : Message} (h : s.acceptsJoin m.srcDevice (leAt m.payload 0 8) = false) :
    s.prepare m = s.send (Message.plain 11 s.cascade.device m.srcDevice (7 + s.cascade.device * 2 ^ 8) []) := by
  rw [State.prepare]
  exact if_neg (by simp [h])

/-- What MEMBER_COMMIT does with the message it takes. -/
def State.commitPrepared (s : State) (m : Message) : State :=
  withSome s.cascade.prepared s fun p =>
    if p.master = m.srcDevice ∧ p.members = leAt m.payload 0 8 ∧ s.now < p.until_ then
      s.join m.srcDevice p.members (field m.arg 63 32)
    else s

theorem memberCommit_next {s t : State} {m : Message} (hw : s.working = true)
    (h : s.takeArrived (fun m => m.type == 11 && m.arg % 256 == 3) = some (m, t)) :
    exec .memberCommit s = .next (t.commitPrepared m) := memberRow_eq (fun m s => s.commitPrepared m) hw h

theorem State.commitPrepared_joins {s : State} {m : Message} {q : Prepared} (hq : s.cascade.prepared = some q)
    (hm : q.master = m.srcDevice) (hp : q.members = leAt m.payload 0 8) (ht : s.now < q.until_) :
    s.commitPrepared m = s.join m.srcDevice q.members (field m.arg 63 32) := by
  rw [State.commitPrepared, hq, withSome_some, if_pos ⟨hm, hp, ht⟩]

theorem State.commitPrepared_lapsed {s : State} {m : Message} {q : Prepared} (hq : s.cascade.prepared = some q)
    (ht : q.until_ ≤ s.now) : s.commitPrepared m = s := by
  rw [State.commitPrepared, hq, withSome_some, if_neg]
  rintro ⟨-, -, h⟩
  omega

theorem joinReply_next {s t : State} {m : Message} (hw : s.working = true)
    (h : s.takeArrived (fun m => m.type == 11 && (m.arg % 256 == 6 || m.arg % 256 == 7)) = some (m, t)) :
    exec .joinReply s = .next (t.joinAnswered m) := by
  show execJoinReply s = _
  rw [execJoinReply, onlyIf_eq hw, h]
  rfl

/-- The last acceptance commits the join. -/
theorem State.joinAnswered_commits {s : State} {m : Message} {j : Join} (hj : s.cascade.join = some j)
    (hb : bitOf j.waiting m.srcDevice = true) (hlast : j.waiting = 2 ^ m.srcDevice) (hr : j.refused = 0)
    (ha : m.arg % 256 = 6) :
    s.joinAnswered m = ({ s with cascade := { s.cascade.learn m.srcDevice m.payload with join := none } }).commitJoin
      { j with waiting := 0 } := by
  rw [State.joinAnswered, hj]
  dsimp only
  rw [if_neg (by simp [hb]), show (m.arg % 256 == 7) = false by simp [ha], if_neg (by simp [hlast]),
    if_neg (by simp [hr])]
  rw [hlast, Nat.xor_self]
  rfl

/-- A refusal that is the last reply ends the join for all. -/
theorem State.joinAnswered_refused {s : State} {m : Message} {j : Join} (hj : s.cascade.join = some j)
    (hb : bitOf j.waiting m.srcDevice = true) (hlast : j.waiting = 2 ^ m.srcDevice) (ha : m.arg % 256 = 7) :
    s.joinAnswered m = ({ s with cascade := { s.cascade with join := none } }).fail j.cmd .badParam
      (j.refused ||| 2 ^ m.srcDevice) := by
  have hne : j.refused ||| 2 ^ m.srcDevice ≠ 0 := by simp [Nat.or_eq_zero_iff]
  rw [State.joinAnswered, hj]
  dsimp only
  rw [if_neg (by simp [hb]), show (m.arg % 256 == 7) = true by simp [ha], if_neg (by simp [hlast]), if_pos rfl,
    if_pos hne]
  rfl

theorem joinTimeout_next {s : State} {j : Join} (hj : s.cascade.join = some j) :
    (j.deadline ≤ s.now → exec .joinTimeout s =
      .next (({ s with cascade := { s.cascade with join := none } }).fail j.cmd .peerLost j.waiting)) ∧
    (s.now < j.deadline → exec .joinTimeout s = .next s) := by
  have hnext : exec .joinTimeout s = .next (if j.deadline ≤ s.now then
      ({ s with cascade := { s.cascade with join := none } }).fail j.cmd .peerLost j.waiting else s) := by
    show execJoinTimeout s = _
    rw [execJoinTimeout, hj]
    rfl
  exact ⟨fun h => by rw [hnext, if_pos h], fun h => by rw [hnext, if_neg (Nat.not_le.2 h)]⟩

theorem joinPrepareTimeout_next {s : State} {q : Prepared} (hq : s.cascade.prepared = some q) :
    (q.until_ ≤ s.now → exec .joinPrepareTimeout s = .next { s with cascade := { s.cascade with prepared := none } }) ∧
    (s.now < q.until_ → exec .joinPrepareTimeout s = .next s) := by
  have hnext : exec .joinPrepareTimeout s = .next (if q.until_ ≤ s.now then
      { s with cascade := { s.cascade with prepared := none } } else s) := by
    show execJoinPrepareTimeout s = _
    rw [execJoinPrepareTimeout, hq]
    rfl
  exact ⟨fun h => by rw [hnext, if_pos h], fun h => by rw [hnext, if_neg (Nat.not_le.2 h)]⟩

/-! ### Leaving and losing -/

/-- What MEMBER_LEAVE does with the message it takes. -/
def State.leaversTold (s : State) (m : Message) : State :=
  if s.cascade.master ≠ some m.srcDevice then s
  else if bitOf (leAt m.payload 0 8) s.cascade.device then s.leave
  else s.removeMembers (leAt m.payload 0 8) (field m.arg 63 32)

theorem memberLeave_next {s t : State} {m : Message} (hw : s.working = true)
    (h : s.takeArrived (fun m => m.type == 11 && m.arg % 256 == 4) = some (m, t)) :
    exec .memberLeave s = .next (t.leaversTold m) := memberRow_eq (fun m s => s.leaversTold m) hw h

theorem State.leaversTold_cases {s : State} {m : Message} (hm : s.cascade.master = some m.srcDevice) :
    (bitOf (leAt m.payload 0 8) s.cascade.device = true → s.leaversTold m = s.leave) ∧
    (bitOf (leAt m.payload 0 8) s.cascade.device = false →
      s.leaversTold m = s.removeMembers (leAt m.payload 0 8) (field m.arg 63 32)) := by
  refine ⟨fun h => ?_, fun h => ?_⟩
  · rw [State.leaversTold, if_neg (by simp [hm]), if_pos h]
  · rw [State.leaversTold, if_neg (by simp [hm]), if_neg (by simp [h])]

theorem State.takeNotice_none {s : State} (h : s.cascade.notices = []) (about : Bool) : s.takeNotice about = none := by
  rw [State.takeNotice, h]
  rfl

theorem State.takeNotice_first {s : State} {x : Nat} {rest : List Nat} (h : s.cascade.notices = x :: rest) :
    s.takeNotice (s.cascade.master == some x) = some (x, { s with cascade := { s.cascade with notices := rest } }) := by
  rw [State.takeNotice, h, List.find?_cons_of_pos (by simp)]
  dsimp only
  rw [List.erase_cons_head]

theorem memberLost_told {s t : State} {m : Message} (hw : s.working = true) (hn : s.cascade.notices = [])
    (h : s.takeArrived (fun m => m.type == 11 && m.arg % 256 == 1) = some (m, t)) :
    exec .memberLost s = .next (t.lossReported m) := by
  show execMemberLost s = _
  rw [execMemberLost, onlyIf_eq hw, State.takeNotice_none hn]
  dsimp only
  rw [h]
  rfl

theorem memberMasterLost_told {s t : State} {m : Message} (hw : s.working = true) (hn : s.cascade.notices = [])
    (h : s.takeArrived (fun m => m.type == 11 && m.arg % 256 == 5) = some (m, t)) :
    exec .memberMasterLost s = .next (t.losesMaster (field m.arg 13 8)) := by
  show execMemberMasterLost s = _
  rw [execMemberMasterLost, onlyIf_eq hw, State.takeNotice_none hn]
  dsimp only
  rw [h]
  rfl

theorem memberLost_noticed {s : State} {x : Nat} {rest : List Nat} (hw : s.working = true)
    (hn : s.cascade.notices = x :: rest) (hm : s.cascade.master ≠ some x) :
    exec .memberLost s = .next (State.loses { s with cascade := { s.cascade with notices := rest } } x) := by
  have htake := State.takeNotice_first hn
  rw [show (s.cascade.master == some x) = false by simp [hm]] at htake
  show execMemberLost s = _
  rw [execMemberLost, onlyIf_eq hw, htake]

theorem memberMasterLost_noticed {s : State} {x : Nat} {rest : List Nat} (hw : s.working = true)
    (hn : s.cascade.notices = x :: rest) (hm : s.cascade.master = some x) :
    exec .memberMasterLost s = .next (State.losesMaster { s with cascade := { s.cascade with notices := rest } } x) := by
  have htake := State.takeNotice_first hn
  rw [show (s.cascade.master == some x) = true by simp [hm]] at htake
  show execMemberMasterLost s = _
  rw [execMemberMasterLost, onlyIf_eq hw, htake]

/-- With no relayed command in flight, none ends. -/
theorem State.endRelayed_none {s : State} (h : ∀ e ∈ s.cmds, e.2.relay = none) : s.endRelayed = s := by
  have hall : (s.cmds.filter fun e => e.2.relay.isNone) = s.cmds := List.filter_eq_self.2 fun e he => by rw [h e he]; rfl
  have hnone : (s.cmds.filter fun e => e.2.relay.isSome) = [] := List.filter_eq_nil_iff.2 fun e he => by
    rw [h e he]; exact Bool.false_ne_true
  rw [State.endRelayed, hnone]
  show ({ s with cmds := s.cmds.filter fun e => e.2.relay.isNone } : State) = s
  rw [hall]

theorem State.leave_cascade (s : State) : s.leave.inCascade = false ∧ s.leave.cascade.master = none := ⟨rfl, rfl⟩

theorem State.leave_only {s : State} (h : ∀ e ∈ s.cmds, e.2.relay = none) :
    s.leave = { s with cascade := s.leave.cascade } := by
  rw [State.leave, State.endRelayed_none h]

theorem memberRenewTimeout_next {s : State} {d : Nat} (hd : d < 64) (hw : s.working = true) (hm : s.isMaster = true)
    (hb : bitOf s.cascade.members d = true) :
    (Tab.getD 0 s.cascade.heard d + 10000000 ≤ s.now → exec (.memberRenewTimeout d) s = .next (s.markLost d)) ∧
    (s.now < Tab.getD 0 s.cascade.heard d + 10000000 → exec (.memberRenewTimeout d) s = .next s) := by
  have hnext : exec (.memberRenewTimeout d) s = .next (if bitOf s.cascade.members d &&
      Tab.getD 0 s.cascade.heard d + 10000000 ≤ s.now then s.markLost d else s) := by
    show execMemberRenewTimeout d s = _
    rw [execMemberRenewTimeout, decide_eq_true hd, checked_true, onlyIf_eq (by simp [hw, hm])]
  exact ⟨fun h => by rw [hnext, if_pos (by simp [hb, h])], fun h => by rw [hnext, if_neg (by simp; omega)]⟩

theorem State.loses_known {s : State} {x : Nat}
    (h : bitOf s.cascade.members x = false ∨ bitOf s.cascade.lost x = true ∨ x = s.cascade.device) : s.loses x = s := by
  rw [State.loses, if_pos]
  obtain h | h | h := h <;> simp [h]

/-- A device told of its own loss belongs to no cascade. -/
theorem State.lossReported_own {s : State} {m : Message} (h : field m.arg 13 8 = s.cascade.device) :
    (s.lossReported m).inCascade = false ∧ (s.lossReported m).cascade.master = none := by
  have hown : s.lossReported m = s.ownLoss := by
    rw [State.lossReported]
    exact if_pos h
  rw [hown, State.ownLoss, State.inCascade, (State.settle_frame _).only.cascade (by decide)]
  exact State.leave_cascade _

/-! ### The obligation -/

theorem joining_answers {s t : State} {m : Message} (hw : s.working = true) :
    (s.takeArrived (fun m => m.type == 11 && m.arg % 256 == 2) = some (m, t) →
        (s.acceptsJoin m.srcDevice (leAt m.payload 0 8) = true → exec .memberPrepare s = .next
          (({ t with cascade := { t.cascade with
                prepared := some ⟨m.srcDevice, leAt m.payload 0 8, s.now + field m.arg 63 32 * 1000000⟩ } }).send (Message.plain 11 s.cascade.device m.srcDevice
                (6 + s.cascade.device * 2 ^ 8) s.report))) ∧
        (s.acceptsJoin m.srcDevice (leAt m.payload 0 8) = false → exec .memberPrepare s = .next
          (t.send (Message.plain 11 s.cascade.device m.srcDevice (7 + s.cascade.device * 2 ^ 8) [])))) ∧
      (s.takeArrived (fun m => m.type == 11 && m.arg % 256 == 3) = some (m, t) → ∀ q, s.cascade.prepared = some q →
        (q.master = m.srcDevice → q.members = leAt m.payload 0 8 → s.now < q.until_ → ∃ u, exec .memberCommit s = .next u ∧
          u.cascade.members = q.members ∧ u.cascade.master = some m.srcDevice ∧ u.cascade.prepared = none ∧
          u.cascade.versions = field m.arg 63 32 ∧ u = { t with cascade := u.cascade }) ∧
        (s.isMaster = false → q.until_ ≤ s.now → exec .memberCommit s = .next t)) := by
  refine ⟨fun h => ?_, fun h q hq => ?_⟩
  · rw [memberPrepare_next hw h]
    obtain ⟨rfl, -⟩ := State.takeArrived_some h
    exact ⟨fun ha => congrArg _ (State.prepare_accepts ha), fun ha => congrArg _ (State.prepare_refuses ha)⟩
  · rw [memberCommit_next hw h]
    obtain ⟨rfl, -⟩ := State.takeArrived_some h
    refine ⟨fun hm hp ht => ⟨_, congrArg _ (State.commitPrepared_joins hq hm hp ht), rfl, rfl, rfl, rfl, rfl⟩,
      fun _ ht => congrArg _ (State.commitPrepared_lapsed hq ht)⟩

/-- Settles O57: the message rows by what they take, and each handler by the cases of its guard. -/
theorem cascadesFormAndLoseMembers : Obligations.CascadesFormAndLoseMembers := by
  unfold Obligations.CascadesFormAndLoseMembers
  refine ⟨⟨fun s t m hw => ?_, fun s => ⟨fun j => joinTimeout_next, fun q => joinPrepareTimeout_next⟩⟩,
    fun s t m hw => ⟨fun h hm => ?_, memberLost_told hw, memberMasterLost_told hw⟩,
    fun s => ⟨rfl, rfl, State.leave_only⟩, fun s x rest hw hn =>
      ⟨memberLost_noticed hw hn, memberMasterLost_noticed hw hn⟩,
    fun s d hd hw hm hb => memberRenewTimeout_next hd hw hm hb, fun s x => State.loses_known,
    fun s m => State.lossReported_own⟩
  · obtain ⟨hprepare, hcommit⟩ := joining_answers hw
    refine ⟨hprepare, hcommit, fun h j hj hb => ?_⟩
    rw [joinReply_next hw h]
    obtain ⟨rfl, -⟩ := State.takeArrived_some h
    exact ⟨fun hlast hr ha => congrArg _ (State.joinAnswered_commits hj hb hlast hr ha),
      fun hlast ha => congrArg _ (State.joinAnswered_refused hj hb hlast ha)⟩
  · rw [memberLeave_next hw h]
    obtain ⟨rfl, -⟩ := State.takeArrived_some h
    obtain ⟨hself, hother⟩ := State.leaversTold_cases (s :=
      { s with cascade := { s.cascade with arrived := s.cascade.arrived.erase m } }) hm
    exact ⟨fun hb => congrArg _ (hself hb), fun hb => congrArg _ (hother hb)⟩

end Sys2Proof.Machine
end


-- ==== Sys2Proof/Proofs/Reductions.lean ====
section
/-! PROOF. REDUCE_BUCKET up to its registration, registrations at the home, and the chunks of a reduction. -/

namespace Sys2Proof.Machine

/-! ### REDUCE_BUCKET -/

theorem reduceBucket_row {s : State} {id : Nat} {c : Cmd} (h : s.Starts id 0x0503 c) :
    exec (.reduceBucket id) s = .next ((s.started id c).reduceBucket id c) := by
  show execReduceBucket id s = _
  rw [execReduceBucket, State.opcodeRow_eq h]

theorem State.reduceBucket_bad {s : State} (id : Nat) {c : Cmd} (h : s.bucketOk (decodeBucketArgs c.params) = false) :
    s.reduceBucket id c = s.fail id .badParam := by
  rw [State.reduceBucket]
  exact if_pos (by rw [h]; rfl)

/-- A bucket that cannot be read ends its command with the status and DETAIL of what refused it. -/
theorem State.reduceBucket_unread {s u : State} (id : Nat) {c : Cmd} {st : Status} {d : Nat}
    (h : s.bucketOk (decodeBucketArgs c.params) = true)
    (hr : s.readBucket c.part (decodeBucketArgs c.params) = (u, .error (st, d))) :
    s.reduceBucket id c = u.fail id st d := by
  rw [State.reduceBucket]
  dsimp only
  rw [if_neg (by simp [h]), hr]

theorem State.readBucket_lists {s u : State} {p : Nat} {k : BucketArgs} {e : Status}
    (h : s.bucketLists p k = (u, .error e)) : s.readBucket p k = (u, .error (e, 0)) := by
  rw [State.readBucket, h]

theorem State.readBucket_lost {s u : State} {p : Nat} {k : BucketArgs} {src dst : List Nat}
    (h : s.bucketLists p k = (u, .ok (src, dst))) (hl : u.participants &&& u.cascade.lost ≠ 0) :
    s.readBucket p k = (u, .error (.peerLost, 0)) := by
  rw [State.readBucket, h]
  exact if_pos hl

theorem State.readBucket_sources {s u v : State} {p : Nat} {k : BucketArgs} {src dst : List Nat} {e : Status × Nat}
    (h : s.bucketLists p k = (u, .ok (src, dst))) (hl : u.participants &&& u.cascade.lost = 0)
    (hs : u.readSources p src = (v, .error e)) : s.readBucket p k = (v, .error e) := by
  rw [State.readBucket, h]
  dsimp only
  rw [if_neg (by simp [hl]), hs]

theorem State.readBucket_whole {s u v w : State} {p : Nat} {k : BucketArgs} {src dst : List Nat} {own es : Bytes} {crc : Nat}
    (h : s.bucketLists p k = (u, .ok (src, dst))) (hl : u.participants &&& u.cascade.lost = 0)
    (hs : u.readSources p src = (v, .ok own))
    (he : v.readExponents p k.exponents (ceilDiv k.values 32) (k.bs16 && popCount 64 v.participants != 1) =
      (w, .ok (es, crc))) : s.readBucket p k = (w, .ok (dst, own, es, crc)) := by
  rw [State.readBucket, h]
  dsimp only
  rw [if_neg (by simp [hl]), hs]
  dsimp only
  rw [he]

/-- The first core of a partition. -/
def State.firstCore (s : State) (p : Nat) : Nat := ((bitsOf 6 (s.part p).cores).head?).getD 0

theorem State.reduceBucket_unstaged {s w : State} (id : Nat) {c : Cmd} {dst : List Nat} {own es : Bytes} {crc : Nat}
    (h : s.bucketOk (decodeBucketArgs c.params) = true)
    (hr : s.readBucket c.part (decodeBucketArgs c.params) = (w, .ok (dst, own, es, crc)))
    (hst : (w.core (w.firstCore c.part)).staging = none) : s.reduceBucket id c = w.fail id .badParam := by
  unfold State.firstCore at hst
  rw [State.reduceBucket]
  dsimp only
  rw [if_neg (by simp [h]), hr]
  dsimp only
  rw [hst]

theorem State.reduceBucket_stages {s w : State} (id : Nat) {c : Cmd} {dst : List Nat} {own es : Bytes} {crc : Nat} {hd : Handle}
    (h : s.bucketOk (decodeBucketArgs c.params) = true)
    (hr : s.readBucket c.part (decodeBucketArgs c.params) = (w, .ok (dst, own, es, crc)))
    (hst : (w.core (w.firstCore c.part)).staging = some hd) :
    (∀ x, w.openDests c.part dst = some x → s.reduceBucket id c =
      x.registerBucket id c.part (w.firstCore c.part) (decodeBucketArgs c.params) hd dst own es crc) ∧
    (w.openDests c.part dst = none → s.reduceBucket id c = w.refusal.fail id .badParam) := by
  unfold State.firstCore at hst ⊢
  refine ⟨fun x hx => ?_, fun hx => ?_⟩ <;>
  · rw [State.reduceBucket]
    dsimp only
    rw [if_neg (by simp [h]), hr]
    dsimp only
    rw [hst]
    dsimp only
    rw [hx]

/-- A bucket as its registration leaves it: nothing started, nothing received. -/
def State.freshBucket (s : State) (id p core : Nat) (k : BucketArgs) (dst : List Nat) (own es : Bytes) : Bucket :=
  { cmd := id, partition := p, bs16 := k.bs16 && !(popCount 64 s.participants == 1), values := k.values, dests := dst
    exponentTile := k.exponents, exponents := es, own := slice (own.take (4 * k.values)) 0 (128 * ceilDiv k.values 32)
    core := core, started := false, partials := [], finals := [], sent := [] }

theorem State.registerBucket_eq (s : State) (id p core : Nat) (k : BucketArgs) (h : Handle) (dst : List Nat)
    (own es : Bytes) (crc : Nat) : ∃ u : State, s.registerBucket id p core k h dst own es crc = u.sendReduce
        { Message.plain 8 s.cascade.device s.tagHome (reduceArg k.tag 0 k.values + bit k.bs16 * 2 ^ 15) (leBytes 8 crc) with
          partition := p } ∧
      Tab.find k.tag u.buckets = some (s.freshBucket id p core k dst own es) :=
  ⟨{ s.onCore core fun x =>
      ({ x with handles := Tab.put (stagingHandle k.tag) (h, 2 ^ 16 + k.tag) x.handles }).raise h.mask with
      buckets := Tab.put k.tag (s.freshBucket id p core k dst own es) s.buckets }, rfl, Tab.find_put_self ..⟩

/-! ### Registrations -/

theorem reduceRow_eq {kind : Nat} {s t : State} {m : Message} (f : Message → Nat → State → State) (hw : s.working = true)
    (h : s.takeArrived (fun m => m.type == 8 && field m.arg 14 12 == kind) = some (m, t)) :
    reduceRow kind s f = .next (f m (m.arg % 2 ^ 12) t) := by
  rw [reduceRow, onlyIf_eq hw, h]
  rfl

/-- The registration a REDUCE message of kind 0 carries. -/
def Message.registration (m : Message) : Registration :=
  { device := m.srcDevice, partition := m.partition, values := field m.arg 63 32, bs16 := bitOf m.arg 15
    tileSeal := leAt m.payload 0 8 }

theorem reduceRegister_next {s t : State} {m : Message} (hw : s.working = true)
    (h : s.takeArrived (fun m => m.type == 8 && field m.arg 14 12 == 0) = some (m, t)) :
    (s.tagHome = s.cascade.device → bitOf s.participants m.srcDevice = true →
      exec .reduceRegister s = .next (State.register 64 (m.arg % 2 ^ 12) t m.registration)) ∧
    (s.tagHome ≠ s.cascade.device ∨ bitOf s.participants m.srcDevice = false →
      exec .reduceRegister s = .next (t.dropReduce m)) := by
  have hnext : exec .reduceRegister s = .next (if s.tagHome ≠ s.cascade.device ∨ !bitOf s.participants m.srcDevice then
      t.dropReduce m else State.register 64 (m.arg % 2 ^ 12) t m.registration) := by
    show execReduceRegister s = _
    rw [execReduceRegister, reduceRow_eq _ hw h]
    obtain ⟨rfl, -⟩ := State.takeArrived_some h
    rfl
  rw [hnext]
  refine ⟨fun hh hp => ?_, fun hb => ?_⟩
  · rw [if_neg (by simp [hh, hp])]
  · rw [if_pos (by simpa using hb)]

/-- What a registration at the home does, by the tag's state there. -/
theorem State.register_eq (n tag : Nat) (s : State) (r : Registration) :
    (Tab.find tag s.tagHomes = none → State.register (n + 1) tag s r =
      s.grantTag tag { first := r, registered := 0, completed := 0, deadline := s.now + 1000000000, running := false
                       waiting := [] } r) ∧
    (∀ h, Tab.find tag s.tagHomes = some h → h.running = true ∨ bitOf h.registered r.device = true →
      State.register (n + 1) tag s r = { s with tagHomes := Tab.put tag { h with waiting := h.waiting ++ [r] } s.tagHomes }) ∧
    (∀ h, Tab.find tag s.tagHomes = some h → h.running = false → bitOf h.registered r.device = false →
      r.agrees h.first = true → State.register (n + 1) tag s r = s.grantTag tag h r) := by
  refine ⟨fun hf => ?_, fun h hf hb => ?_, fun h hf hr hb ha => ?_⟩
  · rw [State.register, hf]
  · rw [State.register, hf]
    exact if_pos (by simpa using hb)
  · rw [State.register, hf]
    dsimp only
    rw [if_neg (by simp [hr, hb]), if_pos ha]

/-- A grant that is not the last leaves the tag waiting for the others. -/
theorem State.grantTag_waits {s : State} {tag : Nat} {h : TagHome} {r : Registration}
    (hn : (h.registered ||| 2 ^ r.device) &&& s.participants ≠ s.participants) :
    Tab.find tag (s.grantTag tag h r).tagHomes = some { h with registered := h.registered ||| 2 ^ r.device } := by
  rw [State.grantTag]
  dsimp only
  split
  · exact Tab.find_put_self ..
  · rw [if_neg (by exact hn)]
    exact Tab.find_put_self ..

theorem registrationTimeout_next {s : State} {tag : Nat} {h : TagHome} (hf : Tab.find tag s.tagHomes = some h) :
    (h.running = false → h.deadline ≤ s.now → exec (.registrationTimeout tag) s =
      .next (s.revokeTag tag 64 false .leaseRevoked)) ∧
    (h.running = true ∨ s.now < h.deadline → exec (.registrationTimeout tag) s = .next s) := by
  have hnext : exec (.registrationTimeout tag) s = .next (if !h.running && h.deadline ≤ s.now then
      s.revokeTag tag 64 false .leaseRevoked else s) := by
    show execRegistrationTimeout tag s = _
    rw [execRegistrationTimeout, hf]
    rfl
  rw [hnext]
  refine ⟨fun hr ht => ?_, fun hb => ?_⟩
  · rw [if_pos (by simp [hr, ht])]
  · rw [if_neg]
    rcases hb with hb | hb <;> simp [hb]

/-! ### Chunks -/

/-- What REDUCE_START does with the message it takes. -/
def State.startsReduction (s : State) (m : Message) (tag : Nat) : State :=
  match Tab.find tag s.buckets with
  | none => s.dropReduce m
  | some b =>
    if b.partition ≠ m.partition ∨ m.srcDevice ≠ s.tagHome then s.dropReduce m
    else ({ s with buckets := Tab.put tag { b with started := true } s.buckets }).progress tag

theorem reduceStart_next {s t : State} {m : Message} (hw : s.working = true)
    (h : s.takeArrived (fun m => m.type == 8 && field m.arg 14 12 == 1) = some (m, t)) :
    exec .reduceStart s = .next (t.startsReduction m (m.arg % 2 ^ 12)) :=
  reduceRow_eq (fun m tag s => s.startsReduction m tag) hw h

theorem State.startsReduction_cases (s : State) (m : Message) (tag : Nat) :
    (∀ b, Tab.find tag s.buckets = some b → b.partition = m.partition → m.srcDevice = s.tagHome →
      s.startsReduction m tag = ({ s with buckets := Tab.put tag { b with started := true } s.buckets }).progress tag) ∧
    (Tab.find tag s.buckets = none → s.startsReduction m tag = s.dropReduce m) := by
  refine ⟨fun b hb hp hh => ?_, fun hb => ?_⟩
  · rw [State.startsReduction, hb]
    exact if_neg (by simp [hp, hh])
  · rw [State.startsReduction, hb]

theorem State.chunkArrives_taken {s : State} {m : Message} {tag : Nat} {redo : Bool} {stages : List Nat} {b : Bucket}
    (hb : Tab.find tag s.buckets = some b) (hp : b.partition = m.partition) (hs : field m.arg 21 19 ∈ stages)
    (hf : bitOf m.arg 15 = (b.bs16 && !redo))
    (hl : b.fits redo (field m.arg 18 16) (field m.arg 26 22) m.payload = true) :
    s.chunkArrives m tag redo stages =
      if b.damaged redo (field m.arg 18 16) (field m.arg 26 22) m.payload then s.spoilBucket tag b
      else ({ s with
        buckets := Tab.put tag (b.takeChunk redo (field m.arg 18 16) (field m.arg 21 19) (field m.arg 26 22) m.srcDevice
          m.payload) s.buckets }).progress tag := by
  rw [State.chunkArrives, hb]
  exact if_neg (by simp [hp, hs, hf, hl])

theorem State.chunkArrives_dropped {s : State} {m : Message} {tag : Nat} {redo : Bool} {stages : List Nat} {b : Bucket}
    (hb : Tab.find tag s.buckets = some b) (h : b.partition ≠ m.partition ∨ field m.arg 21 19 ∉ stages ∨
      b.fits redo (field m.arg 18 16) (field m.arg 26 22) m.payload = false) :
    s.chunkArrives m tag redo stages = s.dropReduce m := by
  rw [State.chunkArrives, hb]
  refine if_pos ?_
  obtain h | h | h := h
  · exact .inl h
  · exact .inr (.inl (by simp [h]))
  · exact .inr (.inr (.inr (by simp [h])))

/-- A row that takes the chunks of a kind up, or drops them. -/
theorem chunkRow_answers {i : Instr} {kind : Nat} {redo : Bool} {stages : List Nat} {s t : State} {m : Message}
    (hi : exec i s = reduceRow kind s fun m tag s => s.chunkArrives m tag redo stages) (hw : s.working = true)
    (h : s.takeArrived (fun m => m.type == 8 && field m.arg 14 12 == kind) = some (m, t)) :
    (∀ b, Tab.find (m.arg % 2 ^ 12) s.buckets = some b → b.partition = m.partition → field m.arg 21 19 ∈ stages →
      bitOf m.arg 15 = (b.bs16 && !redo) → b.fits redo (field m.arg 18 16) (field m.arg 26 22) m.payload = true →
      (b.damaged redo (field m.arg 18 16) (field m.arg 26 22) m.payload = true →
        exec i s = .next (t.spoilBucket (m.arg % 2 ^ 12) b)) ∧
      (b.damaged redo (field m.arg 18 16) (field m.arg 26 22) m.payload = false →
        exec i s = .next (({ t with
          buckets := Tab.put (m.arg % 2 ^ 12) (b.takeChunk redo (field m.arg 18 16) (field m.arg 21 19) (field m.arg 26 22)
            m.srcDevice m.payload) t.buckets }).progress (m.arg % 2 ^ 12)))) ∧
    (∀ b, Tab.find (m.arg % 2 ^ 12) s.buckets = some b → b.partition ≠ m.partition ∨ field m.arg 21 19 ∉ stages ∨
        b.fits redo (field m.arg 18 16) (field m.arg 26 22) m.payload = false →
      exec i s = .next (t.dropReduce m)) := by
  have hbuckets : t.buckets = s.buckets := by
    obtain ⟨rfl, -⟩ := State.takeArrived_some h
    rfl
  rw [hi, reduceRow_eq _ hw h, ← hbuckets]
  refine ⟨fun b hb hp hs hf hl => ?_, fun b hb hbad => by rw [State.chunkArrives_dropped hb hbad]⟩
  rw [State.chunkArrives_taken hb hp hs hf hl]
  exact ⟨fun hd => by rw [if_pos hd], fun hd => by rw [if_neg (by simp [hd])]⟩

/-! ### The wire's sums -/

theorem limitBs_limits (v : Int) :
    (limitBs v).1 = max (-32767) (min 32767 v) ∧ ((limitBs v).2 = true ↔ (limitBs v).1 ≠ v) := by
  refine ⟨rfl, ?_⟩
  simp only [limitBs, Bool.or_eq_true, decide_eq_true_eq]
  omega

theorem Bucket.join_empty (b : Bucket) (redo : Bool) (s c : Nat) (x : Side) :
    b.join redo s c none x = x ∧ b.join redo s c x none = x := by
  cases x with
  | none => exact ⟨rfl, rfl⟩
  | some x => exact ⟨rfl, rfl⟩

/-! ### The obligation -/

theorem reduceBucket_answers {s : State} {id : Nat} {c : Cmd} (h : s.Starts id 0x0503 c) :
      let k := decodeBucketArgs c.params
      let s0 := s.started id c
      (s0.bucketOk k = false → exec (.reduceBucket id) s = .next (s0.fail id .badParam)) ∧
      (s0.bucketOk k = true →
        (∀ e u, s0.bucketLists c.part k = (u, .error e) → exec (.reduceBucket id) s = .next (u.fail id e)) ∧
        (∀ src dst u, s0.bucketLists c.part k = (u, .ok (src, dst)) →
          (u.participants &&& u.cascade.lost ≠ 0 → exec (.reduceBucket id) s = .next (u.fail id .peerLost)) ∧
          (u.participants &&& u.cascade.lost = 0 →
            (∀ e v, u.readSources c.part src = (v, .error e) →
              exec (.reduceBucket id) s = .next (v.fail id e.1 e.2)) ∧
            (∀ own v, u.readSources c.part src = (v, .ok own) → ∀ es crc w,
              v.readExponents c.part k.exponents (ceilDiv k.values 32) (k.bs16 && popCount 64 v.participants != 1) =
                (w, .ok (es, crc)) →
              ((w.core (w.firstCore c.part)).staging = none → exec (.reduceBucket id) s = .next (w.fail id .badParam)) ∧
              (∀ hd, (w.core (w.firstCore c.part)).staging = some hd →
                (∀ x, w.openDests c.part dst = some x → exec (.reduceBucket id) s = .next
                  (x.registerBucket id c.part (w.firstCore c.part) k hd dst own es crc)) ∧
                (w.openDests c.part dst = none → exec (.reduceBucket id) s = .next (w.refusal.fail id .badParam))))))) := by
  intro k s0
  rw [reduceBucket_row h]
  refine ⟨fun hbad => congrArg _ (State.reduceBucket_bad id hbad), fun hok => ⟨fun e u hl => congrArg _
    (State.reduceBucket_unread id hok (State.readBucket_lists hl)), fun src dst u hl => ⟨fun hlost => congrArg _
    (State.reduceBucket_unread id hok (State.readBucket_lost hl hlost)), fun hlive => ⟨fun e v hs => congrArg _
    (State.reduceBucket_unread id hok (State.readBucket_sources hl hlive hs)), fun own v hs es crc w he => ?_⟩⟩⟩⟩
  have hread := State.readBucket_whole hl hlive hs he
  refine ⟨fun hst => congrArg _ (State.reduceBucket_unstaged id hok hread hst), fun hd hst => ?_⟩
  obtain ⟨hopen, hshut⟩ := State.reduceBucket_stages id hok hread hst
  exact ⟨fun x hx => congrArg _ (hopen x hx), fun hx => congrArg _ (hshut hx)⟩

theorem registrations_answer (s : State) (tag : Nat) (r : Registration) :
      (Tab.find tag s.tagHomes = none → s.participants &&& (2 ^ r.device) ≠ s.participants →
        Tab.find tag (State.register 64 tag s r).tagHomes =
          some ⟨r, 2 ^ r.device, 0, s.now + 1000000000, false, []⟩) ∧
      (∀ h, Tab.find tag s.tagHomes = some h → h.running = true ∨ bitOf h.registered r.device = true →
        State.register 64 tag s r =
          { s with tagHomes := Tab.put tag { h with waiting := h.waiting ++ [r] } s.tagHomes }) ∧
      (∀ h, Tab.find tag s.tagHomes = some h → h.running = false → bitOf h.registered r.device = false →
        r.agrees h.first = true → (h.registered ||| 2 ^ r.device) &&& s.participants ≠ s.participants →
        Tab.find tag (State.register 64 tag s r).tagHomes =
          some { h with registered := h.registered ||| 2 ^ r.device }) := by
  obtain ⟨hfirst, hwait, hgrant⟩ := State.register_eq 63 tag s r
  refine ⟨fun hf hp => ?_, hwait, fun h hf hr hb ha hp => ?_⟩
  · rw [hfirst hf, State.grantTag_waits (by rwa [Nat.zero_or, Nat.and_comm]), Nat.zero_or]
  · rw [hgrant h hf hr hb ha, State.grantTag_waits hp]

/-- Settles O58: REDUCE_BUCKET by what it reads, in its order; a registration by the tag's state at its home; a chunk by the
checks of its bucket. -/
theorem reductionsRegisterAndAdd : Obligations.ReductionsRegisterAndAdd := by
  unfold Obligations.ReductionsRegisterAndAdd
  refine ⟨⟨fun s id c h => ?_, fun s id p core k hd dst own es crc => ?_, fun s t m hw h => reduceRegister_next hw h,
    registrations_answer, fun s tag h => registrationTimeout_next⟩, fun s t m hw => ⟨fun h => ?_, fun q hq h => ?_⟩,
    limitBs_limits, fun b redo s c x y => ⟨(b.join_empty redo s c y).1, (b.join_empty redo s c x).2⟩⟩
  · obtain ⟨hbad, hok⟩ := reduceBucket_answers h
    refine ⟨hbad, fun hb => ?_⟩
    obtain ⟨hlists, hread⟩ := hok hb
    refine ⟨hlists, fun src dst u hl => ?_⟩
    obtain ⟨hlost, hlive⟩ := hread src dst u hl
    refine ⟨hlost, fun hp => ?_⟩
    obtain ⟨hsource, hwhole⟩ := hlive hp
    refine ⟨hsource, fun own v hs es crc w he => ?_⟩
    obtain ⟨hnone, hstage⟩ := hwhole own v hs es crc w he
    refine ⟨hnone, fun hd hst => ?_⟩
    obtain ⟨hopen, hshut⟩ := hstage hd hst
    cases hx : w.openDests c.part dst with
    | none => exact hshut hx
    | some x => exact hopen x hx
  · obtain ⟨u, hu, hfind⟩ := s.registerBucket_eq id p core k hd dst own es crc
    exact ⟨u, hu, _, hfind, rfl, rfl, rfl, rfl, rfl⟩
  · rw [reduceStart_next hw h]
    obtain ⟨rfl, -⟩ := State.takeArrived_some h
    obtain ⟨hstart, hdrop⟩ := State.startsReduction_cases
      { s with cascade := { s.cascade with arrived := s.cascade.arrived.erase m } } m (m.arg % 2 ^ 12)
    exact ⟨fun b hb hp hh => congrArg _ (hstart b hb hp hh), fun hb => congrArg _ (hdrop hb)⟩
  · simp only [List.mem_cons, List.not_mem_nil, or_false] at hq
    obtain rfl | rfl | rfl := hq
    · exact chunkRow_answers (i := .reducePart) rfl hw h
    · exact chunkRow_answers (i := .reduceFinal) rfl hw h
    · exact chunkRow_answers (i := .reduceRedo) rfl hw h

end Sys2Proof.Machine
end


-- ==== Sys2Proof/Proofs/Packets.lean ====
section
/-! PROOF. The classification of received packets, and the packets of streams. -/

namespace Sys2Proof.Machine

/-! ### Classification -/

/-- What a port does with the verdict on a packet. -/
def State.handle (s : State) (p : Nat) : Verdict → State
  | .discard i => s.count (6 + p) i
  | .hand a b c d => s.onPort p fun x => { x with inbox := x.inbox ++ [(a, b, c, d)] }
  | .ask t => s.onPort p fun x => { x with asks := x.asks ++ [t] }
  | .learn v6 a mac => s.onPort p fun x => { x with neighbours := Tab.put (hopKey v6 a) mac x.neighbours }
  | .tally ch i => s.onChannel ch fun x => x.bump i
  | .pass => s

theorem packetReceive_next {s : State} {p : Nat} (k : EthPacket) (hp : p < 16) (hs : s.linking = true)
    (he : (s.port p).ethernet = true) (hu : (s.port p).up = true) :
    exec (.packetReceive p k) s = .next (s.handle p (s.classify p k)) := by
  show execPacketReceive p k s = _
  rw [execPacketReceive, decide_eq_true hp, checked_true, onlyIf_eq hs, if_neg (by simp [he, hu])]
  cases s.classify p k <;> rfl

theorem arpOrNdRequest_next {s : State} {p t : Nat} {rest : List Nat} (hp : p < 16) (hs : s.linking = true)
    (ha : (s.port p).asks = t :: rest) : exec (.arpOrNdRequest p) s =
      .next ((s.setPort p { s.port p with asks := rest }).emit (.neighbour p t (s.port p).addressing.mac)) := by
  have hdrop : (s.port p).asks.drop 1 = rest := by rw [ha]; rfl
  show execArpOrNdRequest p s = _
  rw [execArpOrNdRequest, decide_eq_true hp, checked_true, onlyIf_eq hs, State.onPort, hdrop,
    show (s.port p).asks.head? = some t by rw [ha]; rfl]
  rfl

theorem State.classify_badFcs {s : State} {p : Nat} {k : EthPacket} (hf : k.fcsOk = false) :
    s.classify p k = .discard 0 := by
  rw [State.classify]
  exact if_pos (by rw [hf]; rfl)

theorem State.classify_control {s : State} {p : Nat} {k : EthPacket} (hf : k.fcsOk = true) (hb : k.body = .control) :
    s.classify p k = .discard 7 := by
  rw [State.classify]
  rw [if_neg (by simp [hf]), if_pos hb]

theorem State.classify_notOurs {s : State} {p : Nat} {k : EthPacket} (hf : k.fcsOk = true) (hb : k.body ≠ .control)
    (h : (s.port p).addressing.tagged k.vlan = false ∨ (s.port p).addressing.reached k.destination = false) :
    s.classify p k = .discard 1 := by
  rw [State.classify]
  rw [if_neg (by simp [hf]), if_neg hb, if_pos (by rcases h with h | h <;> simp [h])]

theorem State.classify_resolution {s : State} {p : Nat} {k : EthPacket} (hf : k.fcsOk = true)
    (ht : (s.port p).addressing.tagged k.vlan = true) (hr : (s.port p).addressing.reached k.destination = true) :
    (∀ a r mac, k.body = .arp a r mac → s.classify p k = if r = false then .learn false a mac
      else if (s.port p).addressing.owns false a = true then .ask a else .pass) ∧
    (∀ a r mac, k.body = .neighbour a r mac → s.classify p k = if r = false then .learn true a mac
      else if (s.port p).addressing.owns true a = true then .ask a else .pass) := by
  refine ⟨fun a r mac hb => ?_, fun a r mac hb => ?_⟩ <;>
  · rw [State.classify]
    rw [if_neg (by simp [hf]), if_neg (by simp [hb]), if_neg (by simp [ht, hr]), hb]
    cases r <;> rfl

theorem State.classifyUdp_unknown {s : State} {p src sp dest : Nat} {d : Datagram}
    (hs : ∀ e ∈ s.streams, ¬ (e.2.desc.port = p ∧ e.2.desc.localUdp = dest))
    (hc : ∀ e ∈ s.channels, ¬ (e.2.port = p ∧ e.2.localUdp = dest)) (hd : ∀ m, d ≠ .ptp m) :
    s.classifyUdp p src sp dest d = .discard 4 := by
  have hstreams : (s.streams.filter fun e => e.2.desc.port == p && e.2.desc.localUdp == dest) = [] :=
    List.filter_eq_nil_iff.2 fun e he => by simpa using hs e he
  have hchannel : (s.channels.find? fun e => e.2.port == p && e.2.localUdp == dest) = none :=
    List.find?_eq_none.2 fun e he => by simpa using hc e he
  rw [State.classifyUdp.eq_def, hstreams, hchannel]
  cases d with
  | ptp m => exact absurd rfl (hd m)
  | rtp q => rfl
  | parcel q => rfl
  | other => rfl

/-! ### Stream packets -/

/-- The oldest stream packet at a port goes to the only stream there is. -/
theorem rtpPacket_next {s : State} {port n a b : Nat} {x : Stream} {p : RtpPacket} (hp : port < 16) (hw : s.working = true)
    (hi : (s.port port).inbox = [(a, b, x.desc.localUdp, .rtp p)]) (hs : s.streams = [(n, x)]) (hx : x.desc.port = port)
    (hc : x.desc.ssrcIn = p.ssrc) :
    exec (.rtpPacket port) s = .next ((s.setPort port { s.port port with inbox := [] }).streamPacket n x p) := by
  have herase : (s.port port).inbox.erase (a, b, x.desc.localUdp, .rtp p) = [] := by rw [hi, List.erase_cons_head]
  have hfind : (s.streams.find? fun q => q.2.desc.port == port && q.2.desc.localUdp == x.desc.localUdp &&
      q.2.desc.ssrcIn == p.ssrc) = some (n, x) := by
    rw [hs, List.find?_cons_of_pos (by simp [hx, hc])]
  show execRtpPacket port s = _
  rw [execRtpPacket, decide_eq_true hp, checked_true, onlyIf_eq hw]
  dsimp only
  rw [hi, List.findSome?_cons]
  dsimp only
  rw [withSome_some, State.onPort, herase]
  rw [show (s.setPort port { s.port port with inbox := [] }).streams = s.streams from rfl]
  dsimp only
  rw [hfind, withSome_some]

theorem State.streamPacket_cases (s : State) (n : Nat) (x : Stream) (p : RtpPacket) :
    (p.tagOk = false → s.streamPacket n x p = s.onStream n fun x => x.bump 0) ∧
    (p.tagOk = true → (packetIndex x.highest p.seq).filter (fun i => x.highest.all fun h => h < i) = none →
      s.streamPacket n x p = s.onStream n fun x => x.bump 1) ∧
    (∀ i, p.tagOk = true → (packetIndex x.highest p.seq).filter (fun i => x.highest.all fun h => h < i) = some i →
      (x.desc.frameLen < p.payload.length → s.streamPacket n x p = s.onStream n fun x => x.bump 2) ∧
      (p.payload.length ≤ x.desc.frameLen → s.streamPacket n x p = (s.useKey x.partition x.key).writeFrame n x p i)) := by
  refine ⟨fun ht => ?_, fun ht hi => ?_, fun i ht hi => ⟨fun hl => ?_, fun hl => ?_⟩⟩
  · rw [State.streamPacket, if_pos (by simp [ht])]
  · rw [State.streamPacket, if_neg (by simp [ht]), hi]
  · rw [State.streamPacket, if_neg (by simp [ht]), hi]
    exact if_pos hl
  · rw [State.streamPacket, if_neg (by simp [ht]), hi]
    exact if_neg (Nat.not_lt.2 hl)

/-- The index taken is the one with the packet's sequence number nearest the highest so far. -/
theorem packetIndex_nearest {seq h i : Nat} (hs : seq < 2 ^ 16) (hi : packetIndex (some h) seq = some i) :
    i % 2 ^ 16 = seq ∧ i ≤ h + 2 ^ 15 ∧ h ≤ i + 2 ^ 15 := by
  rw [packetIndex] at hi
  split at hi
  · split at hi
    · split at hi
      · cases hi
      · obtain rfl := Option.some.inj hi
        omega
    · obtain rfl := Option.some.inj hi
      omega
  · split at hi
    · obtain rfl := Option.some.inj hi
      omega
    · obtain rfl := Option.some.inj hi
      omega

/-! ### The obligation -/

/-- Settles O59: a packet by the verdict of the classification, whose checks are taken in their order; a stream's packet by
the checks of its context. -/
theorem packetsAreClassifiedAndStreamsWritten : Obligations.PacketsAreClassifiedAndStreamsWritten := by
  unfold Obligations.PacketsAreClassifiedAndStreamsWritten
  refine ⟨⟨fun s p k hp hs he hu => ?_, fun s p k => ⟨State.classify_badFcs, State.classify_control, State.classify_notOurs,
    State.classify_resolution⟩, fun s p src sp dest d => State.classifyUdp_unknown⟩,
    fun s port n x p hp hw ⟨a, b, hi⟩ hs hx hc => ?_, fun seq hs => ⟨rfl, fun h i hi => packetIndex_nearest hs hi⟩⟩
  · rw [packetReceive_next k hp hs he hu]
    exact ⟨fun i hv => by rw [hv]; rfl, fun a b c d hv => by rw [hv]; rfl, fun t hv => by rw [hv]; rfl,
      fun v6 a mac hv => by rw [hv]; rfl, fun ch i hv => by rw [hv]; rfl, fun hv => by rw [hv]; rfl,
      fun t rest ha => arpOrNdRequest_next hp hs ha⟩
  · obtain ⟨htag, hold, hnew⟩ := (s.setPort port { s.port port with inbox := [] }).streamPacket_cases n x p
    rw [rtpPacket_next hp hw hi hs hx hc]
    exact ⟨fun ht => congrArg _ (htag ht), fun ht hn => congrArg _ (hold ht hn), fun i ht hn =>
      ⟨fun hl => congrArg _ ((hnew i ht hn).1 hl), fun hl => congrArg _ ((hnew i ht hn).2 hl)⟩⟩

end Sys2Proof.Machine
end


-- ==== Sys2Proof/Proofs/Parcels.lean ====
section
/-! PROOF. Parcel commands open channels, datagrams are handled by their type, and the timers of a channel act when due. -/

namespace Sys2Proof.Machine

/-! ### The commands -/

/-- Both parcel commands open the channel of their block. -/
theorem parcelCommand_row {s : State} {id : Nat} {c : Cmd} {sending : Bool} {i : Instr}
    (h : (sending = false ∧ i = .parcelAccept id ∧ s.Starts id 0x0210 c) ∨
      (sending = true ∧ i = .parcelSend id ∧ s.Starts id 0x0211 c)) :
    exec i s = .next ((s.started id c).openChannel id c sending) := by
  obtain ⟨rfl, rfl, h⟩ | ⟨rfl, rfl, h⟩ := h
  · show execParcelAccept id s = _
    rw [execParcelAccept, State.opcodeRow_eq h]
  · show execParcelSend id s = _
    rw [execParcelSend, State.opcodeRow_eq h]

theorem State.openChannel_opens {s : State} {id : Nat} {c : Cmd} {sending : Bool} (hr : c.packet.byRef = true)
    (hok : s.channelOk (leAt c.params 26 1) (newChannel id c.part sending c.parcel s.now c.params) = true) :
    s.openChannel id c sending =
      ({ s with
        channels := Tab.put (leAt c.params 26 1) (newChannel id c.part sending c.parcel s.now c.params) s.channels }.useKey
        c.part (newChannel id c.part sending c.parcel s.now c.params).key).askHop
          (newChannel id c.part sending c.parcel s.now c.params).port (newChannel id c.part sending c.parcel s.now c.params).v6
          (newChannel id c.part sending c.parcel s.now c.params).peer := by
  rw [State.openChannel]
  exact if_neg (by simp [hr, hok])

theorem State.openChannel_bad {s : State} {id : Nat} {c : Cmd} {sending : Bool} (h : c.packet.byRef = false ∨
    s.channelOk (leAt c.params 26 1) (newChannel id c.part sending c.parcel s.now c.params) = false) :
    s.openChannel id c sending = s.fail id .badParam := by
  rw [State.openChannel]
  exact if_pos (by rcases h with h | h <;> simp [h])

/-! ### Datagrams -/

/-- Taking a datagram changes its port alone. -/
theorem State.takeParcel_now {s t : State} {port type ch : Nat} {x : Channel} {p : Parcel}
    (h : s.takeParcel port type = some (ch, x, p, t)) : t.now = s.now := by
  unfold State.takeParcel at h
  obtain ⟨e, -, h⟩ := Option.bind_eq_some_iff.1 h
  obtain ⟨c, -, h⟩ := Option.map_eq_some_iff.1 h
  cases h
  rfl

theorem parcelRow_answers {s t : State} {port type ch : Nat} {x : Channel} {p : Parcel}
    (f : Nat → Channel → Parcel → State → State) (hp : port < 16) (hw : s.working = true)
    (h : s.takeParcel port type = some (ch, x, p, t)) :
    (p.version ≠ x.version → parcelRow port type s f = .next (t.onChannel ch fun x => x.bump 7)) ∧
    (p.version = x.version → p.sound = false → parcelRow port type s f = .next (t.onChannel ch fun x => x.bump 0)) ∧
    (p.version = x.version → p.sound = true → parcelRow port type s f = .next ((f ch { x with lastValid := s.now } p
      (t.onChannel ch fun x => { x with lastValid := s.now })).settle)) := by
  have hnow := State.takeParcel_now h
  rw [parcelRow, decide_eq_true hp, checked_true, onlyIf_eq hw, h]
  dsimp only
  refine ⟨fun hv => ?_, fun hv hs => ?_, fun hv hs => ?_⟩
  · rw [if_pos hv]
  · rw [if_neg (by simp [hv]), if_pos (by simp [hs])]
  · rw [if_neg (by simp [hv]), if_neg (by simp [hs]), hnow]
    show Host.Outcome.next (State.settle (f ch { x with lastValid := t.now } p _)) = _
    rw [hnow]

theorem State.dataParcel_sender {s : State} {x : Channel} (ch : Nat) (p : Parcel) (h : x.sending = true) :
    s.dataParcel ch x p = s := by
  rw [State.dataParcel, if_pos h]

/-- What only a sender takes changes nothing at a receiver. -/
theorem State.senderParcels_receiver {s : State} {x : Channel} (ch : Nat) (p : Parcel) (h : x.sending = false) :
    s.grantParcel ch x p = s ∧ s.nackParcel ch x p = s ∧ s.resendParcel ch x p = s := by
  refine ⟨?_, ?_, ?_⟩
  · rw [State.grantParcel, if_pos (by rw [h]; rfl)]
  · rw [State.nackParcel, if_pos (.inl (by rw [h]; rfl))]
  · rw [State.resendParcel]
    exact if_pos (.inl (by rw [h]; rfl))

theorem State.nackParcel_old {s : State} {x : Channel} (ch : Nat) (p : Parcel) (h : x.version < 0x11) :
    s.nackParcel ch x p = s := by
  rw [State.nackParcel, if_pos (.inr h)]

/-- A GRANT of every parcel completes the sender's command with its tiles. -/
theorem State.grantParcel_whole {s : State} {x : Channel} (ch : Nat) {p : Parcel} (h : x.sending = true)
    (ha : s.parcelCount x ≤ p.ack) :
    s.grantParcel ch x p = ((s.onChannel ch fun c => { c with
      granted := true, credit := max c.credit p.credit, ack := max c.ack (min p.ack (s.parcelCount x))
      ackAt := if !c.granted ∨ c.ack < p.ack then s.now else c.ackAt }).complete x.cmd x.tiles).dropChannel ch := by
  rw [State.grantParcel, if_neg (by rw [h]; exact Bool.false_ne_true)]
  exact if_pos ha

/-! ### Timers -/

theorem channelRow_eq {s : State} {ch : Nat} {x : Channel} (f : Channel → State → State) (hc : ch < 64)
    (hw : s.working = true) (hx : Tab.find ch s.channels = some x) : channelRow ch s f = .next (f x s) := by
  rw [channelRow, decide_eq_true hc, checked_true, onlyIf_eq hw, hx, withSome_some]

theorem grantTimer_next {s : State} {ch a : Nat} {x : Channel} (hc : ch < 64) (hw : s.working = true)
    (hx : Tab.find ch s.channels = some x) (hs : x.sending = false) (ha : x.grantAt = some a) :
    (a ≤ s.now → exec (.grantTimer ch) s = .next (s.sendGrant ch)) ∧
    (s.now < a → exec (.grantTimer ch) s = .next s) := by
  have hnext : exec (.grantTimer ch) s =
      .next (if !x.sending && x.grantAt.any (fun t => t ≤ s.now) then s.sendGrant ch else s) := channelRow_eq _ hc hw hx
  rw [hnext]
  exact ⟨fun h => by rw [if_pos (by simp [hs, ha, h])], fun h => by rw [if_neg (by simp [ha, h])]⟩

theorem retransmitTimeout_next {s : State} {ch : Nat} {x : Channel} (hc : ch < 64) (hw : s.working = true)
    (hx : Tab.find ch s.channels = some x) (hs : x.sending = true) (hn : x.ack < x.nextSeq) :
    (x.ackAt + 500000 ≤ s.now → exec (.retransmitTimeout ch) s =
      .next ((s.onChannel ch fun x => { x with ackAt := s.now }).sendAgain ch [x.ack])) ∧
    (s.now < x.ackAt + 500000 → exec (.retransmitTimeout ch) s = .next s) := by
  have hnext : exec (.retransmitTimeout ch) s =
      .next (if x.sending && x.ack < x.nextSeq && x.ackAt + 500000 ≤ s.now then
        (s.onChannel ch fun x => { x with ackAt := s.now }).sendAgain ch [x.ack] else s) := channelRow_eq _ hc hw hx
  rw [hnext]
  exact ⟨fun h => by rw [if_pos (by simp [hs, hn, h])], fun h => by rw [if_neg (by simp [h])]⟩

theorem channelTimeout_next {s : State} {ch : Nat} {x : Channel} (hc : ch < 64) (hw : s.working = true)
    (hx : Tab.find ch s.channels = some x) (hf : x.finished = false) :
    (x.lastValid + 1000 * x.timeout ≤ s.now → exec (.channelTimeout ch) s =
      .next ((s.fail x.cmd .peerLost).dropChannel ch)) ∧
    (s.now < x.lastValid + 1000 * x.timeout → exec (.channelTimeout ch) s = .next s) := by
  have hfail : s.failChannel ch .peerLost = (s.fail x.cmd .peerLost).dropChannel ch := by rw [State.failChannel, hx]
  have hnext : exec (.channelTimeout ch) s =
      .next (if !x.finished && x.lastValid + 1000 * x.timeout ≤ s.now then s.failChannel ch .peerLost else s) :=
    channelRow_eq _ hc hw hx
  rw [hnext, hfail]
  exact ⟨fun h => by rw [if_pos (by simp [hf, h])], fun h => by rw [if_neg (by simp [h])]⟩

theorem finalGrantWindowEnd_next {s : State} {ch : Nat} {x : Channel} (hc : ch < 64) (hw : s.working = true)
    (hx : Tab.find ch s.channels = some x) (hf : x.finished = true) :
    (x.finalUntil ≤ s.now → exec (.finalGrantWindowEnd ch) s = .next (s.dropChannel ch)) ∧
    (s.now < x.finalUntil → exec (.finalGrantWindowEnd ch) s = .next s) := by
  have hnext : exec (.finalGrantWindowEnd ch) s =
      .next (if x.finished && x.finalUntil ≤ s.now then s.dropChannel ch else s) := channelRow_eq _ hc hw hx
  rw [hnext]
  exact ⟨fun h => by rw [if_pos (by simp [hf, h])], fun h => by rw [if_neg (by simp [h])]⟩

/-! ### The obligation -/

/-- The rows of the four types of datagram. -/
def parcelRows (port ch : Nat) : List (Instr × Nat × (Channel → Parcel → State → State)) :=
  [(.parcelData port, 1, fun x p s => s.dataParcel ch x p), (.parcelGrant port, 2, fun x p s => s.grantParcel ch x p),
    (.parcelNack port, 3, fun x p s => s.nackParcel ch x p), (.parcelResend port, 4, fun x p s => s.resendParcel ch x p)]

theorem parcelRows_answer {s t : State} {port ch : Nat} {x : Channel} {p : Parcel}
    {q : Instr × Nat × (Channel → Parcel → State → State)} (hp : port < 16) (hw : s.working = true)
    (hq : q ∈ parcelRows port ch) (h : s.takeParcel port q.2.1 = some (ch, x, p, t)) :
    (p.version ≠ x.version → exec q.1 s = .next (t.onChannel ch fun x => x.bump 7)) ∧
    (p.version = x.version → p.sound = false → exec q.1 s = .next (t.onChannel ch fun x => x.bump 0)) ∧
    (p.version = x.version → p.sound = true → exec q.1 s = .next ((q.2.2 { x with lastValid := s.now } p
      (t.onChannel ch fun x => { x with lastValid := s.now })).settle)) := by
  simp only [parcelRows, List.mem_cons, List.not_mem_nil, or_false] at hq
  obtain rfl | rfl | rfl | rfl := hq
  · exact parcelRow_answers (fun ch x p s => s.dataParcel ch x p) hp hw h
  · exact parcelRow_answers (fun ch x p s => s.grantParcel ch x p) hp hw h
  · exact parcelRow_answers (fun ch x p s => s.nackParcel ch x p) hp hw h
  · exact parcelRow_answers (fun ch x p s => s.resendParcel ch x p) hp hw h

/-- Settles O60: both commands by the check of their block; a datagram's row by the datagram taken; each timer by its due
time. -/
theorem parcelsOpenMoveAndLapse : Obligations.ParcelsOpenMoveAndLapse := by
  unfold Obligations.ParcelsOpenMoveAndLapse
  refine ⟨fun s id c sending i h => ?_, fun s t port ch x p hp hw q hq h => ?_, fun s ch x hc hw hx =>
    ⟨fun hs a => grantTimer_next hc hw hx hs, retransmitTimeout_next hc hw hx, channelTimeout_next hc hw hx,
      finalGrantWindowEnd_next hc hw hx⟩⟩
  · rw [parcelCommand_row h]
    exact ⟨fun hr hok => congrArg _ (State.openChannel_opens hr hok), fun hb => congrArg _ (State.openChannel_bad hb)⟩
  · obtain ⟨hversion, hunsound, hsound⟩ := parcelRows_answer hp hw hq h
    exact ⟨hversion, hunsound, hsound, t.dataParcel_sender ch p, t.senderParcels_receiver ch p, t.nackParcel_old ch p,
      t.grantParcel_whole ch⟩

end Sys2Proof.Machine
end
